-- ==== Sys2Proof/Word.lean ====
section
/-! DEFINITION. The word types of the OX760 model: register words, bytes, binary32 patterns. -/

namespace Sys2Proof

/-- A 32-bit register word, bit 31 the most significant (R5). -/
abbrev Word := BitVec 32

/-- One byte of a packet, an image or a record. -/
abbrev Byte := BitVec 8

/-- The bit pattern of an IEEE 754 binary32 value (R4). -/
abbrev F32 := BitVec 32

/-- A signed Gauze or MB word of 24 significant bits. -/
abbrev Code24 := BitVec 24

/-- Fine ticks in one microsecond: the Batten fine tick is 156.25 ps (R3). -/
def ticksPerUs : Nat := 6400

/-- Fine ticks in one millisecond (R3). -/
def ticksPerMs : Nat := 6400000

/-- Fine ticks in one second (R3). -/
def ticksPerS : Nat := 6400000000

end Sys2Proof
end

