-- ==== Sys2Proof/Syntax.lean ====
section
/-! DEFINITION. The commands of the OX760: what reaches the module from outside (requests on a transport, events at its lands, ticks of its own units) and the loop-engine instructions, one constructor per row of the opcode table. -/

namespace Sys2Proof

/-- The four main-die transports that bind sessions and caches (R91). -/
inductive Port
  | spi | eth | can0 | can1
  deriving DecidableEq, Repr

/-- The destination of an Ethernet frame (R78). -/
inductive EthDest
  | own | broadcast | other
  deriving DecidableEq, Repr

/-- A request packet as its transport delivers it, transport padding removed (R73, R77). The opcode is the command's own. -/
structure Req where
  /-- instant at which the last byte reaches the CD3 domain, in fine ticks of the model clock -/
  time : Nat := 0
  port : Port := .can0
  /-- on CAN: a CAN FD frame, otherwise CAN XL -/
  fd : Bool := false
  /-- on CAN: the priority identifier of the frame -/
  canId : BitVec 11 := 0x6A0
  /-- on 1000BASE-T1: destination, sender address and 802.1Q tag -/
  dest : EthDest := .own
  mac : BitVec 48 := 0
  vlan : Option (BitVec 16) := none
  version : Byte := 1
  flags : Byte := 0
  seq : BitVec 16 := 0
  plen : BitVec 16 := 0
  session : Word := 0
  reserved : Word := 0
  params : List Byte := []
  crc : Word := 0
  deriving DecidableEq, Repr

/-- Who makes a register write (R106, R119). -/
inductive Writer
  | host | sp | engine (e : Fin 16)
  deriving DecidableEq, Repr

/-- The three filter paths of a Gauze channel (R167). -/
inductive GzPath
  | comp | fast | fine
  deriving DecidableEq, Repr

/-- The clocks the Slate checks against CD11 (R20). -/
inductive SltClock
  | cd3 | cd5 | cd6
  deriving DecidableEq, Repr

/-- A driver supply that leaves undervoltage (R268). -/
inductive Supply
  | vp (n : Fin 32) | vn (n : Fin 32) | vdrv
  deriving DecidableEq, Repr

/-- The two fixed-point formats of the loop engines (Table 8.4). -/
inductive QFmt
  | q131 | q1616
  deriving DecidableEq, Repr

/-- A loop-engine address: static, or a base plus an index register masked to the region (Table 8.4). -/
inductive LeAddr
  | abs (a : Fin 2048)
  | idx (base : Fin 2048) (reg : Fin 32)
  deriving DecidableEq, Repr

/-- What LE13 has measured at the end of listening (R241): speeds in min⁻¹, the angle derived from the phase voltages and the resolver angle in electrical degrees, the line peak in volts, and the largest in-line current of an armed set in A. -/
structure ListenMeas where
  nV : Rat := 0
  angleV : Rat := 0
  eMeas : Rat := 0
  iMax : Rat := 0
  deriving DecidableEq, Repr

/-- The grid as LE7 measures it over the used phases (R301, R303): half-cycle RMS and 10-cycle RMS in V, frequency in Hz, its change in Hz/s, the PLL's phase error in degrees, the peak that VPFC_REF bounds, and for how long (fine ticks) the condition named by the command has lasted. -/
structure GridMeas where
  halfMin : Rat := 0
  rmsMin : Rat := 0
  rmsMax : Rat := 0
  freq : Rat := 0
  rocof : Rat := 0
  phaseErr : Rat := 0
  peak : Rat := 0
  held : Nat := 0
  deriving DecidableEq, Repr

/-- One switch in one period as its engine sees it (R369): mean current while it conducts, conducting time in s, edges switched under current, VDC of the period in V, and the share of the period that lies in the loss window. -/
structure LossPart where
  ch : Fin 64
  amps : Rat := 0
  ton : Rat := 0
  edges : Nat := 0
  vdc : Rat := 0
  share : Rat := 1
  deriving DecidableEq, Repr

/-- What a slot of a Yargan program derives from its inputs and the spec gives no scale or rule for: LE13: the line-voltage peak in V; LE7, LE8: VPFC in V; LE8: VBAT in V. (Assumption 202 DEDUCED) -/
structure SlotMeas where
  ePeak : Rat := 0
  vbat : Rat := 0
  vpfc : Rat := 0
  deriving DecidableEq, Repr


/-- What a FAST conversion gives: the code of the sinc3 filter or of the window, and the modulator samples of an average's period, in codes (R170). -/
structure FastMeas where
  code : Code24
  samples : List Int
  deriving DecidableEq, Repr

/-- What a scheduled conversion gives: its code, the reference deviations in ppm and the die temperature in 0.1 °C, which matter on GZ31 (R173, R188, R189). -/
structure SlotConv where
  code : Code24
  refDev : Vector Int 4
  dieT : Int
  deriving DecidableEq, Repr

/-- A command: one constructor per row of the opcode table. -/
inductive Instr
  /-- PING (R96): Command that returns its parameter bytes unchanged; also accepted on RLINK. -/
  | ping (r : Req)
  /-- GET_STATE (R39): Command that returns PWR_STATE. -/
  | getState (r : Req)
  /-- SET_STATE (R405): Command that requests ARMED (arming conditions, then the arming sequence) or STANDBY (unlock, block gates). -/
  | setState (r : Req)
  /-- GET_VERSION (R96): Command that returns the revision, die steps, firmware and image versions and the active slot. -/
  | getVersion (r : Req)
  /-- HEARTBEAT (R98): Command that returns the state, the highest unacknowledged class, the newest log index and Eave time, and counts as heartbeat contact. -/
  | heartbeat (r : Req)
  /-- SESSION_OPEN (R91): Command that opens a session bound to its transport, with a challenge for SERVICE or FACTORY, subject to the retry cache of R86. -/
  | sessionOpen (r : Req)
  /-- SESSION_PROVE (R92): Chunked command that carries the two-signature proof used to raise a session's level. -/
  | sessionProve (r : Req)
  /-- PROOF_VERIFIED (R93): Verification of a complete proof ends: the level is granted, or AUTH_FAILED closes the session. -/
  | proofVerified (t : Nat)
  /-- AUTH_LOCKOUT_END (R93): The 10 min authentication lockout expires. -/
  | authLockoutEnd (t : Nat)
  /-- SESSION_CLOSE (R94): Command that closes the session, ending its stream, transfers and cache. -/
  | sessionClose (r : Req)
  /-- SESSION_IDLE_EXPIRY (R94): A session closes after SESSION_IDLE seconds without an accepted request. -/
  | sessionIdleExpiry (t : Nat) (session : Word)
  /-- CHALLENGE_EXPIRY (R91): A pending challenge expires 60 s after SESSION_OPEN. -/
  | challengeExpiry (t : Nat) (session : Word)
  /-- ETH_LINK_DOWN (R101): Loss of the 1000BASE-T1 link closes its sessions and stops the stream. -/
  | ethLinkDown (t : Nat)
  /-- REG_READ (R103): Command that reads one register word. -/
  | regRead (r : Req)
  /-- REG_READ_BLOCK (R104): Command that reads up to 256 words within one block, with 0 for unassigned words. -/
  | regReadBlock (r : Req)
  /-- REG_WRITE (R108): Command that writes a masked value to one register, resolved in the order of R108. -/
  | regWrite (r : Req)
  /-- REGISTER_WRITE (R106): A write from the host, SP or an engine to a register field that has no behaviour of its own, by its access code. -/
  | registerWrite (t : Nat) (w : Writer) (addr value mask : Word)
  /-- EVENT_CLEAR (R112): A write to an RCS register clears its event bits only if the written SEQ is current. -/
  | eventClear (t : Nat) (w : Writer) (addr value mask : Word)
  /-- MIRROR_WRITE (R120): A write to the RDG_ block is refused with LOCKED and sends a mirror-write notice to the Ridge. -/
  | mirrorWrite (t : Nat) (w : Writer) (addr value mask : Word)
  /-- CARRIER_RUN (R136): A write of RUN = 1 starts a carrier at START or 1 µs after the write, or a follower at its reference's next period start. -/
  | carrierRun (t : Nat) (w : Writer) (n : Fin 16)
  /-- CARRIER_STOP (R141): A write of RUN = 0 stops the carrier at the end of its running period. -/
  | carrierStop (t : Nat) (w : Writer) (n : Fin 16)
  /-- GZ_CFG_WRITE (R176): A write to GZ_CHn_CFG that changes a field restarts the channel; BUSY during an injection or calibration. -/
  | gzCfgWrite (t : Nat) (w : Writer) (n : Fin 72) (value mask : Word)
  /-- SLT_LIMIT_WRITE (R400): A write to a Slate limit or trip map, accepted only when at least as conservative as the image. -/
  | sltLimitWrite (t : Nat) (w : Writer) (addr value mask : Word)
  /-- WEAR_RESET_WRITE (R390): A write to THM_WEAR_RESET.STAGES zeroes life and clears END_OF_SPARE and retirement of a stage. -/
  | wearResetWrite (t : Nat) (w : Writer) (value mask : Word)
  /-- DEBUG_UNLOCK_WRITE (R474): A write of 1 to IDN_DEBUG.UNLOCK from FACTORY in TEST opens main-die debug until the next boot. -/
  | debugUnlockWrite (t : Nat) (session : Word) (value mask : Word)
  /-- MBX_SNAPSHOT (R113): Command that copies a selected wide value into the mailbox in one cycle. -/
  | mbxSnapshot (r : Req)
  /-- MBX_LAST_WORD_READ (R114): A read of the last mailbox word by the owning session clears VALID. -/
  | mbxLastWordRead (t : Nat) (session : Word)
  /-- MBX_EXPIRY (R114): An unread snapshot lapses after 100 ms: VALID clears and EXPIRED sets. -/
  | mbxExpiry (t : Nat)
  /-- APPLY_HOLD (R117): Command that opens a hold keeping back the session's shadowed writes. -/
  | applyHold (r : Req)
  /-- APPLY_RELEASE (R117): Command that closes the hold so held writes apply at their owners' next boundaries. -/
  | applyRelease (r : Req)
  /-- HOLD_EXPIRED (R117): A hold not released within 100 ms discards its held writes. -/
  | holdExpired (t : Nat)
  /-- LOCK (R118): Command that locks every RWL field until the next boot. -/
  | lock (r : Req)
  /-- PWR_STATE_SET (R491): Command that requests SLEEP or, in FACTORY, TEST. -/
  | pwrStateSet (r : Req)
  /-- SLEEP_ENTRY (R491): Once the SLEEP reply has left or been delivered, sessions close, TC10 sleep is sent and the main die powers down. -/
  | sleepEntry (t : Nat)
  /-- SLEEP_REPLY_EXPIRED (R491): An SPI SLEEP reply undelivered after 100 ms is discarded and the entry into SLEEP begins. -/
  | sleepReplyExpired (t : Nat)
  /-- WAKE_SOURCES (R47): Command that writes PWR_WAKE_EN and PWR_ALARM and returns PWR_WAKE_SRC. -/
  | wakeSources (r : Req)
  /-- BKP_CHARGER_SET (R67): Command that sets the charger enable, fast current and fast timer. -/
  | bkpChargerSet (r : Req)
  /-- BKP_STATUS (R68): Command that returns PWR_BKP_STAT and PWR_SUPPLY. -/
  | bkpStatus (r : Req)
  /-- DRIVE_ARM (R234): Command that arms the traction sets of its mask (DSTATE 1). -/
  | driveArm (r : Req)
  /-- DRIVE_START (R240): Command that starts a flying start: ASC at once, or listening for up to 5 ms. -/
  | driveStart (r : Req)
  /-- DRIVE_STOP (R236): Command that ramps torque and current to zero and stops switching, or enters operational ASC. -/
  | driveStop (r : Req)
  /-- TORQUE_SET (R232): Command that stores the torque target and ramp rate and returns TLIM_eff. -/
  | torqueSet (r : Req)
  /-- SPEED_LIMIT_SET (R233): Command that sets forward and reverse speed limits. -/
  | speedLimitSet (r : Req)
  /-- DRIVE_DISARM (R234): Command that returns an armed drive to DSTATE 0. -/
  | driveDisarm (r : Req)
  /-- CHG_SESSION_BEGIN (R300): Command that opens a charge session, closes S2 and enters WAIT. -/
  | chgSessionBegin (r : Req)
  /-- CHG_SET (R300): Command that stores the grid power target and battery limit and ramps to them in RUN. -/
  | chgSet (r : Req)
  /-- CHG_SESSION_END (R300): Command that ramps grid power to zero, stops switching, opens S2 and ends the session. -/
  | chgSessionEnd (r : Req)
  /-- PILOT_STATUS (R300): Command that returns the pilot state, duty, levels, PP resistance and S2. -/
  | pilotStatus (r : Req)
  /-- AUX_ENABLE (R340): Command that starts the auxiliary converter forward (soft start) or in reverse precharge. -/
  | auxEnable (r : Req)
  /-- AUX_SET (R340): Command that writes VSET and ILIM, or PRE_VDC and PRE_ILIM in reverse. -/
  | auxSet (r : Req)
  /-- AUX_DISABLE (R342): Command that stops the auxiliary converter; replied when ASTATE is 0. -/
  | auxDisable (r : Req)
  /-- AUX_PHASE_MASK (R340): Command that sets the permitted buck phases, shedding newly masked ones. -/
  | auxPhaseMask (r : Req)
  /-- SHIFT_TO (R354): Command that plans and starts a shift profile to a position index. -/
  | shiftTo (r : Req)
  /-- PARK_ENGAGE (R361): Command that drives the pawl towards engagement, under the speed interlock. -/
  | parkEngage (r : Req)
  /-- PARK_RELEASE (R361): Command that drives the pawl towards release. -/
  | parkRelease (r : Req)
  /-- ACT_HOME (R356): Command that homes the shift or park actuator against its stop. -/
  | actHome (r : Req)
  /-- LE_LOAD (R222): Chunked command that verifies and loads a program into LE14 or LE15. -/
  | leLoad (r : Req)
  /-- LE_BANK_WRITE (R206): Command that writes words of an engine's inactive coefficient bank. -/
  | leBankWrite (r : Req)
  /-- LE_BANK_SWAP (R207): Command that swaps coefficient banks at the next slot start, or at once if stopped. -/
  | leBankSwap (r : Req)
  /-- LE_MODE (R209): Command that sets an engine to STOP, AUTO or MANUAL at its next slot start. -/
  | leMode (r : Req)
  /-- LE_TABLE_WRITE (R214): Command that writes friction and cogging table entries, applied at the next slot start. -/
  | leTableWrite (r : Req)
  /-- GZ_CONFIG (R176): Command that writes the whole GZ_CHn_CFG of a channel. -/
  | gzConfig (r : Req)
  /-- GZ_INJECT (R178): Command that schedules one injected FINE conversion at a chosen Batten time. -/
  | gzInject (r : Req)
  /-- INJECTION_DELIVERED (R178): An injected conversion completes and its word is returned in the reply. -/
  | injectionDelivered (t : Nat) (n : Fin 72) (code : Code24)
  /-- GZ_CALIBRATE (R180): Command that requests offset and gain calibration of masked channels, possibly deferred behind injections. -/
  | gzCalibrate (r : Req)
  /-- CALIBRATION_START (R181): At a FINE output instant, the masked channels pause and calibration begins. -/
  | calibrationStart (t : Nat)
  /-- CALIBRATION_DONE (R183): Calibration ends, results are accepted or refused and regular outputs resume. -/
  | calibrationDone (t : Nat) (results : List (Nat × Int × Int))
  /-- GZ_READ (R96): Command that returns the latest word of one path of a channel with timestamp and flags. -/
  | gzRead (r : Req)
  /-- SAFE_STATUS (R416): Command that returns SLT_STAT, GD_SLATCH, GD_DLATCH and SLT_SIN. -/
  | safeStatus (r : Req)
  /-- FAULT_LOG_READ (R415): Command that returns fault records from a first index. -/
  | faultLogRead (r : Req)
  /-- FAULT_ACK (R281): Command that acknowledges records and clears covered Slate latches unless a cause is active. -/
  | faultAck (r : Req)
  /-- RIDGE_STATUS (R96): Command that returns seal state, legal event counter, Ridge time and firmware identity. -/
  | ridgeStatus (r : Req)
  /-- RIDGE_READ_RECORDS (R466): Command that returns Ridge motion, energy, session or seal records by number. -/
  | ridgeReadRecords (r : Req)
  /-- RIDGE_READ_SEAL (R466): Command that returns a day's seal and signature block as a long result. -/
  | ridgeReadSeal (r : Req)
  /-- RIDGE_READ_EVENTS (R466): Command that returns Ridge event records by number. -/
  | ridgeReadEvents (r : Req)
  /-- RIDGE_REPLY (R433): The Ridge's reply to a forwarded query arrives on the query reply line and is sent to the host. -/
  | ridgeReply (t : Nat)
  /-- RIDGE_QUERY_TIMEOUT (R433): A forwarded Ridge query not answered within 18 ms is answered BUSY. -/
  | ridgeQueryTimeout (t : Nat)
  /-- RIDGE_PARAM_WRITE (R460): Authority command on RLINK that writes sealed parameters; RIDGE_ONLY on main-die transports. -/
  | ridgeParamWrite (r : Req) (rlink : Bool)
  /-- RIDGE_SEAL (R461): Authority command that seals the Ridge once, against the present parameter-set hash. -/
  | ridgeSeal (r : Req) (rlink : Bool)
  /-- RIDGE_TIME_ADJUST (R462): Authority command that steps Ridge time forward or, signed, backward. -/
  | ridgeTimeAdjust (r : Req) (rlink : Bool)
  /-- RIDGE_LOCKOUT_END (R459): The 10 min Ridge authority lockout expires. -/
  | ridgeLockoutEnd (t : Nat)
  /-- RLINK_FRAME (R464): A frame on RLINK is received whole and its packet handled by the Ridge. -/
  | rlinkFrame (t : Nat) (frame : List Byte)
  /-- IMG_READ (R128): Command that returns the active configuration image as a long result. -/
  | imgRead (r : Req)
  /-- IMG_STAGE (R126): Chunked command that carries a configuration image for staging. -/
  | imgStage (r : Req)
  /-- IMAGE_CHECKED (R126): Checks of a complete staged image end: staged or rejected. -/
  | imageChecked (t : Nat)
  /-- IMG_COMMIT (R128): Command that writes the staged image to the inactive slot and switches the pointer. -/
  | imgCommit (r : Req)
  /-- IMG_COMMIT_DONE (R128): The image write and pointer switch complete and the reply is sent. -/
  | imgCommitDone (t : Nat)
  /-- FW_STAGE (R481): Chunked command that writes a firmware image into the slot not booted from. -/
  | fwStage (r : Req)
  /-- FW_IMAGE_CHECKED (R481): Checks of a complete firmware image end: staged or left empty. -/
  | fwImageChecked (t : Nat)
  /-- FW_ACTIVATE (R482): Command that switches a target's slot pointer and schedules a reset. -/
  | fwActivate (r : Req)
  /-- FW_ACTIVATE_RESET (R482): 10 ms after the FW_ACTIVATE reply, the main die resets as under NRST. -/
  | fwActivateReset (t : Nat)
  /-- IDENT_READ (R470): Command that returns the identity of a die or the module serial and revision. -/
  | identRead (r : Req)
  /-- ATTEST (R477): Command that forms an attestation report at offset 0 or returns further bytes of it. -/
  | attest (r : Req)
  /-- ATTEST_SIGNED (R477): The report has been formed and signed with the unit identity keys and the reply is sent. -/
  | attestSigned (t : Nat)
  /-- CERT_READ (R90): Command that returns bytes of a stored certificate. -/
  | certRead (r : Req)
  /-- TLM_READ (R96): Command that returns mean, minimum and maximum of a stage's telemetry quantities. -/
  | tlmRead (r : Req)
  /-- TLM_STREAM (R99): Command that starts or stops a FAST-result stream on 1000BASE-T1. -/
  | tlmStream (r : Req)
  /-- TLM_STREAM_FRAME (R100): A stream frame of S sample sets is sent. -/
  | tlmStreamFrame (t : Nat)
  /-- LASTFAULT_READ (R96): Command that returns a stage's last-fault record. -/
  | lastfaultRead (r : Req)
  /-- THERM_READ (R96): Command that returns junction estimates and limits of switches. -/
  | thermRead (r : Req)
  /-- WEAR_READ (R96): Command that returns life consumption and cycles of switches. -/
  | wearRead (r : Req)
  /-- SPARE_STATUS (R389): Command that returns the 16-byte spare and retirement status. -/
  | spareStatus (r : Req)
  /-- UNDEFINED_OPCODE (R82): An intact request whose opcode is not defined is answered BAD_OPCODE. -/
  | undefinedOpcode (r : Req) (opcode : BitVec 16)
  /-- PACKET_DISCARD (R81): A received packet without an intact header is discarded without reply and counted. -/
  | packetDiscard (t : Nat) (port : Port) (bytes : List Byte)
  /-- BOOT_PACKET_DISCARD (R489): A request arriving before the boot reaches STANDBY is discarded without reply. -/
  | bootPacketDiscard (t : Nat) (port : Port) (bytes : List Byte)
  /-- SPI_TRANSACTION (R80): A host SPI transaction from CS_N falling to rising delivers a pending reply and carries a packet. -/
  | spiTransaction (t : Nat) (sdi : List Byte)
  /-- HANDOVER_TO_BKP (R54): VSUP below 6.5 V for 50 µs starts the hand-over: gates off, charger stops, main die held in reset. -/
  | handoverToBkp (t : Nat) (vsupMv held : Nat)
  /-- HANDOVER_COMPLETE (R54): The hand-over completes within 20 µs and the module is in VAULT. -/
  | handoverComplete (t : Nat)
  /-- VSUP_LOW (R55): VSUP below 7.5 V for 1 ms in ARMED or RUN raises a class B fault. -/
  | vsupLow (t : Nat) (vsupMv held : Nat)
  /-- VSUP_VALID (R58): VSUP above 7.5 V for 10 ms: the Eave leaves BKP and the module enters SLEEP, or boots from OFF. -/
  | vsupValid (t : Nat) (vsupMv held : Nat)
  /-- BKP_RISE (R40): BKP rises above 2.7 V with VSUP absent: OFF to VAULT. -/
  | bkpRise (t : Nat) (bkpMv vsupMv : Nat)
  /-- BKP_FALL (R40): BKP falls below 2.4 V: VAULT to OFF. -/
  | bkpFall (t : Nat) (bkpMv : Nat)
  /-- WAKE_N_QUALIFIED (R47): WAKE_N low for 50 µs qualifies a wake. -/
  | wakeNQualified (t : Nat) (low : Bool) (held : Nat)
  /-- TC10_WAKE (R47): An OPEN Alliance TC10 wake-up is received on the 1000BASE-T1 lines. -/
  | tc10Wake (t : Nat)
  /-- CP_WAKE (R47): The control pilot high above 6 V or oscillating for 10 ms qualifies a wake. -/
  | cpWake (t : Nat) (highMv : Int) (osc : Bool) (held : Nat)
  /-- PP_SAMPLE (R297): The 10 ms proximity sample measures PP resistance and updates the cable class. -/
  | ppSample (t : Nat) (ohm : Option Nat)
  /-- WHEEL_PULSE_WAKE (R49): The Ridge's wheel-pulse wake bit qualifies a wake after 2 WPI pulses. -/
  | wheelPulseWake (t : Nat)
  /-- RTC_ALARM (R47): Eave time reaches PWR_ALARM: the alarm qualifies and PWR_ALARM is set to 0. -/
  | rtcAlarm (t : Nat)
  /-- SLEEP_TIMEOUT (R43): No host contact for SLEEP_TIMEOUT in STANDBY without an active level wake: the module enters SLEEP. -/
  | sleepTimeout (t : Nat)
  /-- NRST (R44): NRST low for 10 µs resets the main die except the Eave, clearing Slate latches and holds. -/
  | nrst (t : Nat) (held : Nat)
  /-- NRST_RELEASE (R44): Release of NRST starts the boot to STANDBY. -/
  | nrstRelease (t : Nat)
  /-- BOOT (R129): The boot sequence runs: clocks lock, firmware, loop set and image are verified, the image applied, the SP started. -/
  | boot (t : Nat) (mis : BitVec 32)
  /-- BOOT_STANDBY_REACHED (R129): Boot step 9: log records written, contact counts restart, STANDBY reached and trip latches armed. -/
  | bootStandbyReached (t : Nat)
  /-- EAVE_REALIGN (R52): Hourly realignment of Eave time to the Ridge RTC by slewing. -/
  | eaveRealign (t : Nat)
  /-- BKP_SAMPLE (R63): The 10 s charger sample evaluates −ΔV and dT/dt termination and phase changes. -/
  | bkpSample (t : Nat) (bkpMv : Nat) (temp : Int)
  /-- BKP_DEAD (R62): Precharge lasting 1 h without reaching 3.0 V faults the charger. -/
  | bkpDead (t : Nat)
  /-- BKP_TIMER (R65): Fast timer expiry faults the charger. -/
  | bkpTimer (t : Nat)
  /-- TOPOFF_END (R62): 30 min of top-off end: the charger enters Complete. -/
  | topoffEnd (t : Nat)
  /-- BKP_REST (R64): After 60 s at zero current, the rest voltage decides recharge or precharge. -/
  | bkpRest (t : Nat) (bkpMv : Nat)
  /-- CELL_TEMP_SUSPEND (R62): Cell temperature leaves 0 to 45 °C (suspend) or returns to 1 to 44 °C (resume). -/
  | cellTempSuspend (t : Nat) (temp : Int)
  /-- BKP_NTC_FAULT (R65): BKP_NTC outside 0.1 V to 3.2 V faults the charger. -/
  | bkpNtcFault (t : Nat) (ntcMv : Nat)
  /-- BKP_OVERVOLTAGE (R70): BKP above 4.8 V while charging faults the charger. -/
  | bkpOvervoltage (t : Nat) (bkpMv : Nat)
  /-- BKP_NO_CELL (R66): The pack is found absent: current held at 0, no cell reported. -/
  | bkpNoCell (t : Nat) (bkpMv : Nat)
  /-- BKP_NO_CELL_RETRY (R66): The 60 s retry of an absent pack. -/
  | bkpNoCellRetry (t : Nat) (bkpMv : Nat)
  /-- CHARGER_FALLBACK (R67): 60 s without host contact puts the charger on its safe defaults. -/
  | chargerFallback (t : Nat)
  /-- CHARGE_8H_LIMIT (R67): 8 h of charging current under the safe defaults end the charge in Complete. -/
  | charge8hLimit (t : Nat)
  /-- RIDGE_VRDG_LOSS (R59): The Ridge hands over from VRDG to BKP and opens an interruption. -/
  | ridgeVrdgLoss (t : Nat) (vrdgMv held : Nat)
  /-- RIDGE_VRDG_RETURN (R59): VRDG returns valid: the interruption ends and is recorded or merged. -/
  | ridgeVrdgReturn (t : Nat) (vrdgMv held : Nat)
  /-- SHORT_INTERRUPTION_CLOSE (R59): An open short-interruption record closes 60 s after its last interruption. -/
  | shortInterruptionClose (t : Nat)
  /-- SLT_CLOCK_LOSS (R20): CD3, CD5 or CD6 missing or out of window against CD11: class A or B. -/
  | sltClockLoss (t : Nat) (clk : SltClock) (missing : Nat) (count : Nat)
  /-- GZ_ISLAND_CLOCK (R21): CD6 missing at an island for 1 µs: gate off, channel invalid, class A. -/
  | gzIslandClock (t : Nat) (n : Fin 32) (missing : Nat)
  /-- DELAY_LINE_RECAL (R133): The 1 ms recalibration of the Batten delay line against CD5. -/
  | delayLineRecal (t : Nat)
  /-- SHADOW_GUARD (R147): 1,024 fine ticks before a period start the Batten evaluates the next period. -/
  | shadowGuard (t : Nat) (n : Fin 16)
  /-- PERIOD_START (R147): A carrier period starts: shadows transfer, RWS writes apply, followers start or stop. -/
  | periodStart (t : Nat) (n : Fin 16)
  /-- FEEDFORWARD (R216): 1,088 fine ticks before a period start the feedforward unit computes OFF shadows from vleg and vin. -/
  | feedforward (t : Nat) (n : Fin 32)
  /-- EDGE_RELEASE (R274): A scheduled edge reaches its release instant and is checked by the Slate. -/
  | edgeRelease (t : Nat) (n : Fin 64) (bstLow : Bool)
  /-- MIN_PULSE_HOLD_END (R149): A channel held on to MINPFLOOR is turned off and the half-bridge latched. -/
  | minPulseHoldEnd (t : Nat) (n : Fin 64)
  /-- BOOTSTRAP_UNDERVOLTAGE (R156): BSTn − SWn below 7.2 V sets BSTUV and forces a refresh. -/
  | bootstrapUndervoltage (t : Nat) (n : Fin 32) (mv : Nat)
  /-- MILLER_CLAMP (R267): GOFF within 2 V of VN after turn-off engages the Miller clamp. -/
  | millerClamp (t : Nat) (n : Fin 64) (mv : Nat)
  /-- TRIP_INPUT_LOW (R275): A TRIPn_N input goes low and latches the half-bridges of its map. -/
  | tripInputLow (t : Nat) (n : Fin 4)
  /-- DRVEN_LOW (R284): DRVEN goes low: every gate blocked and every ASC pattern released. -/
  | drvenLow (t : Nat)
  /-- DRVEN_CYCLE (R282): DRVEN rises after at least 10 µs low: driver latches without active cause clear. -/
  | drvenCycle (t : Nat)
  /-- GD_SHORT_CIRCUIT (R271): An island detects a short circuit, starts soft turn-off, latches and flags the Slate. -/
  | gdShortCircuit (t : Nat) (n : Fin 32) (mv : Nat) (on : Nat)
  /-- SOFT_TURN_OFF_END (R271): SOFT_T elapses: the island switches to SNK and the Slate's held turn-off is released. -/
  | softTurnOffEnd (t : Nat) (n : Fin 32)
  /-- GD_VP_UV (R268): VP − KS beyond its threshold for 1 µs: gate off, driver latch. -/
  | gdVpUv (t : Nat) (n : Fin 32) (mv held : Nat)
  /-- GD_VN_UV (R268): VN − KS beyond its threshold for 1 µs: gate off, driver latch. -/
  | gdVnUv (t : Nat) (n : Fin 32) (mv : Int) (held : Nat)
  /-- GD_VDRV_UV (R268): VDRV below 9.0 V for 1 µs: low-voltage channels off and latched. -/
  | gdVdrvUv (t : Nat) (mv held : Nat)
  /-- GD_GATE_MISMATCH (R269): A gate state differing from the command beyond GMON_T sets a driver latch. -/
  | gdGateMismatch (t : Nat) (n : Fin 64) (seen : Bool) (held : Nat)
  /-- COMP_OUTPUT (R167): A COMP word of a channel is delivered to the Slate. -/
  | compOutput (t : Nat) (n : Fin 72) (code : Code24)
  /-- FAST_OUTPUT (R168): A FAST word (sinc3, average or window) is delivered to routed engines and GZ_CHn_FAST. -/
  | fastOutput (t : Nat) (n : Fin 72) (x : FastMeas)
  /-- FINE_OUTPUT (R167): A FINE word is delivered; reference checks and die-temperature gates are evaluated. -/
  | fineOutput (t : Nat) (n : Fin 72) (code : Code24) (refDev : Vector Int 4) (dieT : Int)
  /-- THROTTLE_END (R383): Die below 130 °C for 1 s ends throttling. -/
  | throttleEnd (t : Nat)
  /-- MRAM_INHIBIT_END (R384): Die below 140 °C for 1 s ends the inhibit and the queue is written. -/
  | mramInhibitEnd (t : Nat)
  /-- OVERRANGE (R184): A modulator input goes out of range: clamp codes, OVR, modulator reset. -/
  | overrange (t : Nat) (n : Fin 72) (up : Bool)
  /-- OVERRANGE_END (R185): The input returns within range and the modulator restarts. -/
  | overrangeEnd (t : Nat) (n : Fin 72)
  /-- GZ_XB_FLAT (R187): 256 identical bits on an external bitstream mark the channel flat and invalid. -/
  | gzXbFlat (t : Nat) (n : Fin 8) (run : Nat)
  /-- SLOT_CONVERSION (R173): A scheduled SLOT conversion powers the modulator up, converts and powers it down. -/
  | slotConversion (t : Nat) (n : Fin 72) (x : SlotConv)
  /-- REF_BUFFER_READY (R175): 50 µs after a group's buffer powers up its channels begin delivering. -/
  | refBufferReady (t : Nat) (group : Fin 4)
  /-- SLOT_START (R198): An engine's slot starts: inputs freeze, pending swaps, modes and tables apply, the program runs. -/
  | slotStart (t : Nat) (e : Fin 16) (m : SlotMeas) (ecc : Fin 3)
  /-- BACKGROUND_WAKE (R197): A background engine leaves WAIT at a FINE output instant and runs. -/
  | backgroundWake (t : Nat) (e : Fin 16)
  /-- LATE_SLOT (R200): A slot's deadline passes before POST: staged outputs are discarded and LATE counted. -/
  | lateSlot (t : Nat) (e : Fin 16)
  /-- LE_HUNG (R202): A program not at END by the next slot's deadline halts the engine. -/
  | leHung (t : Nat) (e : Fin 16)
  /-- LE_SAT_EXPIRED (R219): SAT_T reaches SAT_LIM. -/
  | leSatExpired (t : Nat) (e : Fin 16)
  /-- LE_FE_EXPIRED (R220): FE_T reaches FE_LIM. -/
  | leFeExpired (t : Nat) (e : Fin 16)
  /-- LE_DERATE_DWELL (R221): DWELL_T reaches DWELL_LIM under derating. -/
  | leDerateDwell (t : Nat) (e : Fin 16)
  /-- LD (R195): Instruction that loads a data-memory word into a register. -/
  | ld (e : Fin 16) (d : Fin 32) (a : LeAddr) (ecc : Fin 3)
  /-- ST (R195): Instruction that stores a register into a writable data-memory word. -/
  | st (e : Fin 16) (x : Fin 32) (a : LeAddr)
  /-- LDB (R195): Instruction that loads a word of the active coefficient bank. -/
  | ldb (e : Fin 16) (d : Fin 32) (a : LeAddr) (ecc : Fin 3)
  /-- FADD (R194): Float addition instruction. -/
  | fadd (e : Fin 16) (d x y : Fin 32)
  /-- FSUB (R194): Float subtraction instruction. -/
  | fsub (e : Fin 16) (d x y : Fin 32)
  /-- FMUL (R194): Float multiplication instruction. -/
  | fmul (e : Fin 16) (d x y : Fin 32)
  /-- FMA (R194): Float fused multiply-add instruction. -/
  | fma (e : Fin 16) (d x y z : Fin 32)
  /-- FMIN (R194): Float minimum instruction. -/
  | fmin (e : Fin 16) (d x y : Fin 32)
  /-- FMAX (R194): Float maximum instruction. -/
  | fmax (e : Fin 16) (d x y : Fin 32)
  /-- FABS (R194): Float absolute value instruction. -/
  | fabs (e : Fin 16) (d x : Fin 32)
  /-- FNEG (R194): Float negation instruction. -/
  | fneg (e : Fin 16) (d x : Fin 32)
  /-- FDIV (R194): Float division instruction, 8 cycles. -/
  | fdiv (e : Fin 16) (d x y : Fin 32)
  /-- FSQRT (R194): Float square root instruction, 8 cycles. -/
  | fsqrt (e : Fin 16) (d x : Fin 32)
  /-- QADD (R194): Saturating fixed-point addition instruction. -/
  | qadd (e : Fin 16) (q : QFmt) (d x y : Fin 32)
  /-- QSUB (R194): Saturating fixed-point subtraction instruction. -/
  | qsub (e : Fin 16) (q : QFmt) (d x y : Fin 32)
  /-- QMUL (R194): Saturating fixed-point multiplication instruction. -/
  | qmul (e : Fin 16) (q : QFmt) (d x y : Fin 32)
  /-- CVTQF (R194): Instruction converting fixed point to float. -/
  | cvtqf (e : Fin 16) (q : QFmt) (d x : Fin 32)
  /-- CVTFQ (R194): Instruction converting float to saturated fixed point. -/
  | cvtfq (e : Fin 16) (q : QFmt) (d x : Fin 32)
  /-- SINCOS (R194): Instruction giving sine and cosine of a 32-bit turn fraction. -/
  | sincos (e : Fin 16) (ds dc x : Fin 32)
  /-- ATAN2 (R194): Instruction giving an angle as a 32-bit turn fraction. -/
  | atan2 (e : Fin 16) (d y x : Fin 32)
  /-- CVTG (R166): Instruction converting a Gauze code of a channel and path to a float. -/
  | cvtg (e : Fin 16) (d : Fin 32) (ch : Fin 72) (fine : Bool)
  /-- CVTC (R198): Instruction converting a fraction of the pacing period to a compare in fine ticks. -/
  | cvtc (e : Fin 16) (d x : Fin 32)
  /-- PI (R210): Instruction executing PI block k with anti-windup and saturation flag. -/
  | piBlock (e : Fin 16) (k : Fin 8) (d x : Fin 32) (coef : Fin 253)
  /-- PRESET (R212): Instruction setting a PI block's state from a register. -/
  | preset (e : Fin 16) (k : Fin 8) (x : Fin 32)
  /-- SAT (R211): Control-block instruction for saturation and bumpless transfer. -/
  | sat (e : Fin 16) (d x : Fin 32)
  /-- TLOOK (R213): Instruction interpolating the friction and cogging table at a position. -/
  | tlook (e : Fin 16) (d x : Fin 32)
  /-- TIME (R135): Instruction reading 64-bit Batten time in one access. -/
  | time (e : Fin 16) (dh dl : Fin 32)
  /-- LPUT (R205): Instruction writing a link word at once, waking readers waiting on it. -/
  | lput (e : Fin 16) (k : Fin 16) (x : Fin 32)
  /-- LINK (R205): Instruction reading another engine's link word with its fresh flag. -/
  | link (e : Fin 16) (d dflag : Fin 32) (from_ : Fin 16) (k : Fin 16)
  /-- LWAIT (R205): Instruction gating the engine until a link word is fresh or a timeout. -/
  | lwait (e : Fin 16) (dflag : Fin 32) (from_ : Fin 16) (k : Fin 16) (cycles : Nat)
  /-- LWAIT_TIMEOUT (R205): An LWAIT's cycle timeout expires and the engine resumes with flag 0. -/
  | lwaitTimeout (t : Nat) (e : Fin 16)
  /-- BR (R194): Forward conditional branch instruction. -/
  | br (e : Fin 16) (taken : Bool) (target : Fin 4096)
  /-- LOOP (R222): Bounded loop instruction with a count of 1 to 4,096. -/
  | loop (e : Fin 16) (count : Nat) (last : Fin 4096)
  /-- POST (R204): Instruction sending owned compare staging words and feedforward weights to the shadows. -/
  | post (e : Fin 16)
  /-- END (R204): Instruction ending the slot, implying POST and copying OUT and following-error words. -/
  | endSlot (e : Fin 16)
  /-- PACE (R197): Instruction selecting PERIOD or PERIOD_ALT for timer pacing. -/
  | pace (e : Fin 16) (alt : Bool)
  /-- WAIT (R197): Instruction gating a background engine until the next FINE output instant. -/
  | wait (e : Fin 16)
  /-- ASC_EXIT (R238): E below 0.8 × VDC for 100 ms: operational ASC is left through switching. -/
  | ascExit (t : Nat)
  /-- LISTEN_END (R241): Listening ends and LE13 decides the start case. -/
  | listenEnd (t : Nat) (m : ListenMeas)
  /-- BRAKE_STANDSTILL (R242): |n| below 1 % of RATED for 50 ms in case 2: the intended torque ramps in. -/
  | brakeStandstill (t : Nat)
  /-- TRC_BRAKE_ABORT (R243): Backward braking exceeds BRAKE_S or 500 ms at zero regen: the drive returns to DSTATE 1. -/
  | trcBrakeAbort (t : Nat)
  /-- STOP_RAMP_END (R236): The stop ramp reaches zero and switching ends or operational ASC begins. -/
  | stopRampEnd (t : Nat)
  /-- TRC_ROTOR_LOST (R254): Re-acquisition not achieved within 20 ms: class B safe state of both sets. -/
  | trcRotorLost (t : Nat)
  /-- EXC_RETIME (R247): A new excitation period applies at the next positive zero crossing of EXC. -/
  | excRetime (t : Nat)
  /-- SP_ASC_RELEASE (R258): E at or below 0.8 × VDC for 1 s lets the SP release a class B ASC to all-off. -/
  | spAscRelease (t : Nat) (setB : Bool)
  /-- PILOT_EVALUATION (R295): The 10 ms pilot evaluation updates state, duty and ICP. -/
  | pilotEvaluation (t : Nat) (highMv lowMv : Int) (osc : Bool) (duty : Vector Nat 8)
  /-- GRID_QUALIFIED (R301): Every used phase in window with PLL locked for QUAL_MS: session READY. -/
  | gridQualified (t : Nat) (g : GridMeas)
  /-- VPFC_PRECHARGED (R301): VPFC above 0.95 × rectified peak for 100 ms: the front end starts. -/
  | vpfcPrecharged (t : Nat) (vpfc peak : Rat) (held : Nat)
  /-- CHG_GRID_TRIP (R304): A grid trip counts: switching stops within 20 ms and the session pauses. -/
  | chgGridTrip (t : Nat) (g : GridMeas)
  /-- GRID_RECONNECT (R304): The grid within all windows for RECONNECT_S returns the session to WAIT. -/
  | gridReconnect (t : Nat) (g : GridMeas)
  /-- POWER_RAMP_END (R300): A grid power ramp reaches its target; a ramp to zero for an end or pause stops switching. -/
  | powerRampEnd (t : Nat)
  /-- CHG_HOSTLESS (R308): 2 s without heartbeat contact in a session enters the host-less fallback. -/
  | chgHostless (t : Nat)
  /-- CHG_HOSTLESS_STOP (R309): The fallback lasting 60 s stops the session with ENDREASON 4. -/
  | chgHostlessStop (t : Nat)
  /-- CHG_VBAT_WINDOW (R313): VBAT outside its window by 2 % for 100 ms stops the session. -/
  | chgVbatWindow (t : Nat) (vbat : Rat) (held : Nat)
  /-- AUX_V48_WINDOW (R318): VDC or V48 out of window for 1 ms, or soft start not done in 20 ms, stops the converter. -/
  | auxV48Window (t : Nat) (held : Nat)
  /-- SHED_LEVEL_CHANGE (R326): IOUT below or above a threshold for its time changes the shed level. -/
  | shedLevelChange (t : Nat) (held : Nat)
  /-- SHED_ROTATION (R326): Every ROT_MS the rotation offset advances. -/
  | shedRotation (t : Nat)
  /-- SHEDDING_END (R327): SHED_T ends: outgoing phases are set to MODE 0. -/
  | sheddingEnd (t : Nat)
  /-- BURST_RESTART (R330): ROT_MS since the last burst began restarts switching in burst. -/
  | burstRestart (t : Nat)
  /-- AUX_REGULATED (R341): v within 1 % of VSET for 1 ms sets REGULATED. -/
  | auxRegulated (t : Nat) (held : Nat)
  /-- AUX_SENSE_LOST (R335): Remote sense lost: regulation on VOUT alone. -/
  | auxSenseLost (t : Nat) (ch : Fin 9) (mv : Nat) (held run : Nat)
  /-- AUX_OVERLOAD (R325): VOUT below 0.9 × VSET for 10 ms after REGULATED. -/
  | auxOverload (t : Nat) (held : Nat)
  /-- AUX_VOUT_HIGH (R344): VOUT above 1.15 × VSET for 100 µs raises class B. -/
  | auxVoutHigh (t : Nat) (held : Nat)
  /-- AUX_STOP_COMPLETE (R342): Phase currents decayed or 1 ms passed: DCX off, carriers stop, ASTATE 0. -/
  | auxStopComplete (t : Nat)
  /-- PRECHARGE_DONE (R343): VDC within ±1 % of PRE_VDC for 10 ms: PRE_DONE. -/
  | prechargeDone (t : Nat) (held : Nat)
  /-- AUX_PRECHARGE_TIMEOUT (R343): PRE_DONE not reached within PRE_TMAX stops the converter. -/
  | auxPrechargeTimeout (t : Nat)
  /-- HALL_EDGE (R349): A Hall level stable for 1 µs is accepted as a timestamped edge. -/
  | hallEdge (t : Nat) (park : Bool) (level : BitVec 3) (held : Nat)
  /-- ACT_HALL_FAULT (R350): An invalid Hall code or skipped sectors stop the actuator in FAULT. -/
  | actHallFault (t : Nat) (park : Bool) (held : Nat)
  /-- ACT_POS_SENSOR (R353): The position sensor is faulty: SHOMED clears and the shift actuator stops. -/
  | actPosSensor (t : Nat) (invalidRun held : Nat)
  /-- PROFILE_SEGMENT (R354): At a profile segment's start the sequencer writes its acceleration to FFACC. -/
  | profileSegment (t : Nat)
  /-- SHIFT_TARGET_REACHED (R354): Position within POS_TOL for SETTLE after the profile: SDONE and motion end. -/
  | shiftTargetReached (t : Nat) (held : Nat)
  /-- ACT_SHIFT_TIMEOUT (R355): The SHIFT_TO time limit expires and the motion ends. -/
  | actShiftTimeout (t : Nat)
  /-- MOTION_END (R348): The end ramp completes and the half-bridges go to MODE 0. -/
  | motionEnd (t : Nat) (park : Bool)
  /-- HOME_STOP_FOUND (R356): 50 ms without a Hall edge at the current limit marks the end stop. -/
  | homeStopFound (t : Nat) (park : Bool) (iq : Rat)
  /-- ACT_HOME_FAIL (R356): No stop within 5 s, or the final move fails, fails homing. -/
  | actHomeFail (t : Nat) (park : Bool)
  /-- LOCKED_ROTOR (R358): Current at LOCK_PCT for TLOCK without motion: ramp off and wait RETRY_GAP. -/
  | lockedRotor (t : Nat) (park : Bool) (iq : Rat) (held : Nat)
  /-- RETRY_RESTART (R358): RETRY_GAP expires and the motion restarts towards its target. -/
  | retryRestart (t : Nat) (park : Bool)
  /-- PAWL_STATE (R360): A pawl condition held 20 ms at rest sets PSTATE. -/
  | pawlState (t : Nat) (held : Nat)
  /-- PARK_SWITCH_DISAGREE (R360): Sound switches disagreeing with x for 100 ms give PSTATE UNKNOWN. -/
  | parkSwitchDisagree (t : Nat) (held : Nat)
  /-- PAWL_BLOCKED (R361): 50 ms without a Hall edge in the tooth band enters BLOCKED. -/
  | pawlBlocked (t : Nat)
  /-- PARK_NOT_ENGAGED (R361): BLOCKED lasting TOOTH_S returns the pawl to released. -/
  | parkNotEngaged (t : Nat)
  /-- PARK_MOVE_TIMEOUT (R361): A pawl motion not done within 1 s sets PSTATE FAULT. -/
  | parkMoveTimeout (t : Nat)
  /-- PARK_MOTION_ENGAGED (R363): VSPD at 3.0 km/h or above for 1 s while ENGAGED is recorded. -/
  | parkMotionEngaged (t : Nat) (held : Nat)
  /-- VSPD_HOST_EXPIRED (R362): ACT_VSPD_HOST not written for 200 ms stops being a speed source. -/
  | vspdHostExpired (t : Nat)
  /-- LOSS_WINDOW_END (R369): A 100 µs loss window ends and owning engines publish switch losses. -/
  | lossWindowEnd (t : Nat) (parts : List LossPart)
  /-- THM_SENSOR_BROKEN (R375): An NTC missing for 1 s or implausible against model and neighbour is declared broken. -/
  | thmSensorBroken (t : Nat) (n : Fin 6) (held : Nat)
  /-- THM_DIE_SENSOR (R375): No valid die-temperature word for 10 ms. -/
  | thmDieSensor (t : Nat)
  /-- THM_OVERTEMP (R380): A junction estimate at TJLIM_EFF + OT_K for 10 ms: class B safe state. -/
  | thmOvertemp (t : Nat) (n : Fin 64) (held : Nat)
  /-- THM_NTC_OVER (R381): An NTC reading above NTCMAX for 100 ms, checked by the SP: class B. -/
  | thmNtcOver (t : Nat) (n : Fin 6) (held : Nat)
  /-- THM_MODEL_LOST (R382): LE11 completes no slot for 20 ms: factors held at 0.5. -/
  | thmModelLost (t : Nat)
  /-- WEAR_SAVE (R387): Every 10 s, or at a run's end, life is saved and spare rules applied. -/
  | wearSave (t : Nat)
  /-- SLT_QUESTION (R396): Every 1 ms the Slate posts a question to the SP. -/
  | sltQuestion (t : Nat)
  /-- SP_ANSWER_WORD (R396): An SP answer word reaches the Slate and is compared. -/
  | spAnswerWord (t : Nat) (word : BitVec 16)
  /-- SLT_QA_MISS (R397): A missing or wrong answer sets SP_LOST; the Slate holds safe states alone. -/
  | sltQaMiss (t : Nat)
  /-- SP_LOCKSTEP (R397): The SP lockstep comparator reports a mismatch; SP_LOST sets. -/
  | spLockstep (t : Nat)
  /-- SLT_LIMIT_CORRUPT (R395): The limit store fails its parity or image check. -/
  | sltLimitCorrupt (t : Nat) (parity : Bool)
  /-- SP_PERIODIC_CHECK (R395): The SP's 1 ms checks of CD11, gate paths and torque plausibility. -/
  | spPeriodicCheck (t : Nat) (cd11Dev : Int) (gateBad : BitVec 9) (torqueA torqueB : Rat) (held : Nat)
  /-- SAFE_STATE_REQUEST (R394): The SP asks the Slate to take a stage or set to a safe state. -/
  | safeStateRequest (t : Nat) (stage : Fin 9)
  /-- SAFE_STATE_CONFIRM (R408): The SP confirms a class B transition to the Slate. -/
  | safeStateConfirm (t : Nat) (stages : BitVec 9)
  /-- SLT_B_OVERRUN (R408): A class B transition unconfirmed after 10 ms: the Slate applies R398. -/
  | sltBOverrun (t : Nat)
  /-- SP_HOLD_RELEASE (R412): The SP releases a stage's hold once latches and causes are gone; SAFE may end. -/
  | spHoldRelease (t : Nat) (stage : Fin 9)
  /-- ARMING_COMPLETE (R406): The arming self-test ends: limits lock and ARMED, or the module stays in STANDBY. -/
  | armingComplete (t : Nat) (failed : Fin 4)
  /-- SLT_SELFTEST_DUE (R407): Each 24 h without passing STANDBY records a due self-test. -/
  | sltSelftestDue (t : Nat)
  /-- FAULT_FIFO_DRAIN (R417): The SP, or the AP under SP_LOST, drains the class A FIFO into the log. -/
  | faultFifoDrain (t : Nat)
  /-- TEST_PULSE (R419): A test pulse starts on TPSA or TPSB in the 20 ms frame. -/
  | testPulse (t : Nat) (b : Bool)
  /-- SIN_SAMPLE (R420): Each input is sampled 150 µs after a pulse fall. -/
  | sinSample (t : Nat) (b : Bool) (levels : BitVec 8)
  /-- SIN_DEBOUNCE (R421): A raw state stable for 3 ms changes a channel's debounced state. -/
  | sinDebounce (t : Nat) (pair : Fin 4) (b : Bool) (raw : Bool) (held : Nat)
  /-- SIN_DISCREPANCY (R421): Debounced channels of a pair differ for 50 ms. -/
  | sinDiscrepancy (t : Nat) (pair : Fin 4)
  /-- CHATTER (R422): More than 8 transitions within 100 ms. -/
  | chatter (t : Nat) (pair : Fin 4) (b : Bool) (transitions : Nat)
  /-- TPS_OVERLOAD (R419): A test-pulse output differs from its command for 1 ms. -/
  | tpsOverload (t : Nat) (b : Bool) (held : Nat)
  /-- RSTREQ_PRESS (R424): RSTREQ reads high through its 1 ms filter. -/
  | rstreqPress (t : Nat)
  /-- RSTREQ_RELEASE (R424): RSTREQ releases: the press length decides a reset, subject to R425. -/
  | rstreqRelease (t : Nat)
  /-- RESET_STUCK (R424): A press reaching 30 s is recorded and blocks resets. -/
  | resetStuck (t : Nat)
  /-- WITNESS_HEARTBEAT (R434): A heartbeat witness frame reaches the Ridge. -/
  | witnessHeartbeat (t : Nat) (intact : Bool)
  /-- WITNESS_ANGLE (R434): An angle witness frame reaches the Ridge. -/
  | witnessAngle (t : Nat) (intact lost : Bool)
  /-- WITNESS_ENERGY (R312): The 1 s control-side energy frame is sent and received. -/
  | witnessEnergy (t : Nat) (intact : Bool)
  /-- WITNESS_MIRROR_WRITE (R434): A mirror-write notice frame reaches the Ridge. -/
  | witnessMirrorWrite (t : Nat) (intact : Bool)
  /-- WITNESS_SLEEP (R434): A sleep witness frame reaches the Ridge. -/
  | witnessSleep (t : Nat) (intact : Bool)
  /-- RDG_WITNESS_LOST (R449): No valid angle frame for 1 s after an active heartbeat. -/
  | rdgWitnessLost (t : Nat)
  /-- WPI_PULSE (R439): A wheel pulse is counted, waking QP in Retention. -/
  | wpiPulse (t : Nat)
  /-- QP_RETENTION (R435): 60 s after the last pulse in Woken, QP returns to Retention. -/
  | qpRetention (t : Nat)
  /-- THATCH_CHECK (R450): The periodic check of the Thatch mesh. -/
  | thatchCheck (t : Nat) (broken : Bool)
  /-- FIELD_CHECK (R450): The 100 ms magnetic-field check. -/
  | fieldCheck (t : Nat) (field : Nat)
  /-- WPI_OPEN_TEST (R441): The 1 s open-sensor test of WPI. -/
  | wpiOpenTest (t : Nat) (mv : Int)
  /-- RDG_MB_LOSS (R450): 1,024 identical bits on a used MB input. -/
  | rdgMbLoss (t : Nat) (n : Fin 8) (run : Nat)
  /-- RDG_MB_FLAT (R450): A used MB input's codes span fewer than 4 codes over 1 s. -/
  | rdgMbFlat (t : Nat) (n : Fin 8) (span : Nat)
  /-- RIDGE_ENERGY_SAMPLE (R443): A decimated MB sample set is scaled and summed into the power of the second. -/
  | ridgeEnergySample (t : Nat) (codes : Vector Code24 6)
  /-- RIDGE_SECOND (R443): Each Ridge second: energy registered, speed computed, sessions begun or ended. -/
  | ridgeSecond (t : Nat)
  /-- RIDGE_MINUTE (R452): Each Ridge minute: motion entry, energy comparison, time stored, parameters applied. -/
  | ridgeMinute (t : Nat)
  /-- RIDGE_QUARTER_HOUR (R452): An energy entry is written for the quarter hour. -/
  | ridgeQuarterHour (t : Nat)
  /-- DAY_CLOSE (R455): A Ridge day closes and its seal is formed. -/
  | dayClose (t : Nat)
  /-- SEAL_SIGNED (R455): Background signing of a closed day's seal completes. -/
  | sealSigned (t : Nat)
  /-- RIDGE_START (R484): QP starts: firmware slots verified, stored time resumed. -/
  | ridgeStart (t : Nat) (vrdg : Bool)
  /-- MIRROR_UPDATE (R467): The Ridge's 1 s mirror update fills the RDG_ registers. -/
  | mirrorUpdate (t : Nat)
  /-- RIDGE_STALE (R433): No mirror update for 5 s sets RDG_STAT.STALE. -/
  | ridgeStale (t : Nat)
  /-- TRIP_INPUT_HIGH (R280): A TRIPn_N input returns high, so the cause of its external-trip latches is gone and GD_STAT.TRIPIN clears. -/
  | tripInputHigh (t : Nat) (n : Fin 4)
  /-- LEAVES_UNDERVOLTAGE (R268): An island VP or VN, or VDRV, stays back inside its threshold by the hysteresis for 1 µs and leaves undervoltage. -/
  | leavesUndervoltage (t : Nat) (supply : Supply) (mv : Int) (held : Nat)
  /-- ETH_LINK_UP (R78): The 1000BASE-T1 link comes up and CD7 runs. -/
  | ethLinkUp (t : Nat)
  deriving DecidableEq, Repr

end Sys2Proof
end

