-- ==== Sys2Proof/Decode.lean ====
section
/-! DEFINITION. Commands read from a word: the opcode table gives no row any bits, so no word spells a command. -/

namespace Sys2Proof

/-- The command that a word of nbits bits spells by the table's bits. (Assumption 4 DEDUCED) -/
def decodeTableWord (_nbits _w : Nat) : Option Instr := none

end Sys2Proof
end

