-- ==== Sys2Proof/Config.lean ====
section
/-! DEFINITION. What one module fixes and the spec leaves open: the free values, constants without a body, so that nothing can be proved of the value they take. -/

namespace Sys2Proof.Config

/-- A fresh free word: session identifiers, challenges, LFSR questions, NaN payloads. The argument is the step's own count of free values drawn. (Assumption 8 DEDUCED) -/
opaque freeWord : Nat → BitVec 32

/-- Whether a signature pair (RSASSA-PSS, then SLH-DSA) verifies over a message under the keys of a role (R92, R124, R475). The keys are not in the spec. (Assumption 56 DESIGN CHOICE) -/
opaque sigOk : (role : Nat) → (message signature : List Byte) → Bool

/-- Byte k of the signature pair that the keys of a role make over a message (R455, R477). (Assumption 56 DESIGN CHOICE) -/
opaque signByte : (role : Nat) → (message : List Byte) → (k : Nat) → Byte

/-- Byte k of the stored certificate of an index (R476); the certificates are not in the spec. (Assumption 37 DESIGN CHOICE) -/
opaque certByte : (index k : Nat) → Byte

/-- Whether the stored certificate of an index verifies at boot (R476). (Assumption 56 DESIGN CHOICE) -/
opaque certOk : (index : Nat) → Bool

/-- Whether a Ridge firmware slot verifies: header, body hash and both signature blocks (R484). (Assumption 132 DESIGN CHOICE) -/
opaque ridgeFwOk : (slot : Nat) → Bool

/-- Byte k of the SHA-256 of the Ridge firmware in a slot (R484). (Assumption 132 DESIGN CHOICE) -/
opaque ridgeFwHash : (slot k : Nat) → Byte

/-- Byte k of the SHA-256 of the firmware put into a target at manufacture (R477). -/
opaque factoryHash : (target k : Nat) → Byte

/-- A phase voltage of the Ridge delayed by a part of a sample, which the spec does not compute (R443). (Assumption 128 DESIGN CHOICE) -/
opaque delayedVolt : (draw : Nat) → Rat

/-- How the loader of LE14 and LE15 judges the word of an index in a whole program: 0 sound, otherwise the ERRCODE of Table 8.12 (R222). The spec gives no encoding of loop-engine instructions. (Assumption 59 DESIGN CHOICE) -/
opaque leWordCheck : (program : List (BitVec 32)) → (index : Nat) → Nat

/-- The worst-case execution cycles of a program (R199, R222). (Assumption 59 DESIGN CHOICE) -/
opaque leWcet : (program : List (BitVec 32)) → Nat

/-- The worst-case cycles of LE12's Yargan program, which the spec does not list (R199). (Assumption 58 DEDUCED, 59 DESIGN CHOICE) -/
opaque backgroundWcet : Nat

/-- The firmware's exponential and natural logarithm, whose rounding the spec does not give (R374, R377, R385). (Assumption 109 DESIGN CHOICE) -/
opaque expF : Rat → Rat
opaque lnF : Rat → Rat
opaque powF : Rat → Rat → Rat

/-- Results the loop-engine sine, cosine and arctangent give within their stated bound (R194). (Assumption 75 DEDUCED) -/
opaque sinTurn : BitVec 32 → Rat
opaque cosTurn : BitVec 32 → Rat
opaque atan2Turn : BitVec 32 → BitVec 32 → Rat

/-- The result of a fixed-point conversion or comparison whose operand is a NaN (R194). (Assumption 73 DEDUCED) -/
opaque nanResult : (op : Nat) → BitVec 32 → BitVec 32 → BitVec 32

/-- The answer word the Slate derives in hard-wired logic from a question and the word's position (R396). -/
opaque answerWord : (question : BitVec 16) → (position : Nat) → BitVec 16

/-- The quantity codes of the telemetry of stages 0 to 4, which the spec does not list (R96). -/
opaque quantityCodes : (stage : Nat) → List Nat

/-- First word in the active bank of the four coefficients of a PI block of a Yargan program; the spec gives no addresses (R210, R320). (Assumption 77 DESIGN CHOICE) -/
opaque yarganCoef : (engine block : Nat) → Nat

/-- The torque in N·m that a phase-current limit in A allows; the spec gives no motor constants for the conversion (R232, Table 14.1). (Assumption 84 DESIGN CHOICE) -/
opaque torqueAtCurrent : Rat → Rat

/-- The phase current in A and the phase voltage in V that a code of a traction channel stands for; the spec gives no scale of these sensors (R229, R237). (Assumption 192 DESIGN CHOICE) -/
opaque phaseAmps : (code : Int) → Rat
opaque phaseVolts : (code : Int) → Rat

/-- The q-axis current in A for a torque of one set in N·m, and the torque of one set from its d and q currents; the spec gives no motor constants (R232, Table 9.11). (Assumption 193 DESIGN CHOICE) -/
opaque torqueCurrent : (torque : Rat) → Rat
opaque torqueOf : (d q : Rat) → Rat

/-- The decoupling voltage of an axis, 0 d and 1 q, from the currents and the electrical speed in rad/s; the spec gives no inductances (Table 9.2). (Assumption 193 DESIGN CHOICE) -/
opaque decouple : (axis : Nat) → (d q omega : Rat) → Rat

/-- The negative d-axis current that the flux map of the loop program set gives for a speed in rad/s, a q-axis current and a voltage bound, and the part of the q-axis current that stays once IMAX is used (R231). (Assumption 193 DESIGN CHOICE) -/
opaque fluxMap : (omega q bound : Rat) → Rat
opaque fluxCut : (demand bound : Rat) → Rat

/-- One step of LE5's type-2 tracking loop: angle in turns and speed in turns per second after a measured angle with a weight, a time in seconds after the last one; the spec gives no gains (R249). (Assumption 194 DESIGN CHOICE) -/
opaque trackStep : (theta omega measured weight dt : Rat) → Rat × Rat

/-- The code expected at GZ2 for AMP at an excitation phase in turns (Table 9.7); the spec gives no gain of the amplifier's return. (Assumption 195 DESIGN CHOICE) -/
opaque excExpected : (amp : Nat) → (phase : Rat) → Rat

/-- One step of LE13's back-EMF observer: electrical angle and speed from the phase voltages and the α and β currents of the observed set; the spec gives no machine model (R251). (Assumption 194 DESIGN CHOICE) -/
opaque observe : (theta omega : Rat) → (volts : List Rat) → (alpha beta dt : Rat) → Rat × Rat

/-- The current in A that a code of an actuator's shunt stands for, and the gain of the position loop in 1/s; the spec gives neither (R351, R354). (Assumption 192 DESIGN CHOICE) -/
opaque shuntAmps : (code : Int) → Rat
opaque positionGain : Rat

/-- One step of the PLL of LE7: angle in turns and frequency in Hz, from those before, the phase voltages and the interval in s (R293). (Assumption 194 DESIGN CHOICE) -/
opaque pllStep : (theta omega : Rat) → (volts : List Rat) → (dt : Rat) → Rat × Rat

/-- The magnitude of the phase shift of the DAB's secondary as part of a period, for the magnitude of a power and its two voltages; and the ON instant of a secondary half-bridge, 0 or 1, for a shift and a period (R293). (Assumption 204 DESIGN CHOICE) -/
opaque dabShift : (power vpfc vbat : Rat) → Rat
opaque dabLead : (hb : Nat) → (shift : Rat) → (period : Nat) → Nat

/-- The current in A that a code of GZ59 stands for; the spec gives no scale of IBAT (R293). (Assumption 192 DESIGN CHOICE) -/
opaque battAmps : (code : Int) → Rat

/-- How fast LE2 raises V48 in PRE_RAISE for the power still free, in V/s (R343). (Assumption 101 DEDUCED) -/
opaque preRate : (watts : Rat) → Rat

end Sys2Proof.Config
end

