-- ==== Sys2Proof/Machine/Float.lean ====
section
/-! DEFINITION. Binary32 arithmetic (R4, R194): every operation is the exact rational result rounded once, to nearest with ties to even. -/

namespace Sys2Proof.Machine

/-- Bit fields of a natural number: bits hi down to lo. -/
def bitsOf (w hi lo : Nat) : Nat := (w / 2 ^ lo) % 2 ^ (hi + 1 - lo)

/-- Bit n of a natural number. -/
def bitAt (w n : Nat) : Bool := (w / 2 ^ n) % 2 == 1

/-- Two's complement reading of the low w bits (R4). -/
def signExt (w v : Nat) : Int :=
  let u := v % 2 ^ w
  if 2 * u < 2 ^ w then (u : Int) else (u : Int) - (2 ^ w : Nat)

/-- Two's complement pattern of an integer in w bits. -/
def toBits (w : Nat) (i : Int) : Nat := (i % ((2 ^ w : Nat) : Int)).toNat

/-- The bytes of a number, most significant first (R5). -/
def beBytes : Nat → Nat → List Byte
  | 0, _ => []
  | n + 1, v => BitVec.ofNat 8 (v / 256 ^ n) :: beBytes n v

/-- The number a byte string spells, most significant byte first (R5). -/
def beNat (bs : List Byte) : Nat := bs.foldl (fun a b => a * 256 + b.toNat) 0

/-- n bytes of a string from an offset, as a number (R5). -/
def beAt (bs : List Byte) (off n : Nat) : Nat := beNat ((bs.drop off).take n)

/-- Saturating addition of an increment to a counter of w bits (R161, R102). -/
def satAdd (w v k : Nat) : Nat := min (v + k) (2 ^ w - 1)

/-- Clamp of an integer into a closed range. -/
def clampInt (lo hi x : Int) : Int := if x < lo then lo else if hi < x then hi else x

/-- Clamp of a rational into a closed range. -/
def clampRat (lo hi x : Rat) : Rat := if x < lo then lo else if hi < x then hi else x

/-- Magnitude of a rational. -/
def absRat (x : Rat) : Rat := if x < 0 then -x else x

/-- The larger of two rationals. -/
def maxRat (x y : Rat) : Rat := if x < y then y else x

/-- The smaller of two rationals. -/
def minRat (x y : Rat) : Rat := if y < x then y else x

/-- Sign bit of a binary32 pattern. -/
def F32.sign (x : F32) : Bool := bitAt x.toNat 31

/-- Biased exponent of a binary32 pattern. -/
def F32.expo (x : F32) : Nat := bitsOf x.toNat 30 23

/-- Fraction of a binary32 pattern. -/
def F32.frac (x : F32) : Nat := bitsOf x.toNat 22 0

/-- A NaN pattern. -/
def F32.isNaN (x : F32) : Bool := F32.expo x == 255 && F32.frac x != 0

/-- An infinity pattern. -/
def F32.isInf (x : F32) : Bool := F32.expo x == 255 && F32.frac x == 0

/-- A finite pattern. -/
def F32.isFinite (x : F32) : Bool := F32.expo x != 255

/-- A zero of either sign. -/
def F32.isZero (x : F32) : Bool := F32.expo x == 0 && F32.frac x == 0

/-- The value of a finite pattern; 0 for an infinity or a NaN, which callers test first. -/
def F32.toRat (x : F32) : Rat :=
  if F32.expo x == 255 then 0
  else
    let m : Nat := if F32.expo x == 0 then F32.frac x else F32.frac x + 2 ^ 23
    let e : Nat := if F32.expo x == 0 then 1 else F32.expo x
    let v : Rat := if e ≥ 150 then ((m * 2 ^ (e - 150) : Nat) : Rat) else mkRat (m : Int) (2 ^ (150 - e))
    if F32.sign x then -v else v

/-- Positive infinity. -/
def F32.inf (neg : Bool) : F32 := BitVec.ofNat 32 ((if neg then 2 ^ 31 else 0) + 0x7F800000)

/-- A zero of the given sign. -/
def F32.zero (neg : Bool) : F32 := BitVec.ofNat 32 (if neg then 2 ^ 31 else 0)

/-- The quotient n / d rounded to an integer, to nearest with ties to even. -/
def roundDiv (n d : Nat) : Nat :=
  let q := n / d
  let r := n % d
  if 2 * r > d then q + 1 else if 2 * r == d && q % 2 == 1 then q + 1 else q

/-- The binary32 nearest to a rational, ties to even; a magnitude beyond the largest finite value gives infinity. -/
def F32.ofRat (x : Rat) : F32 :=
  let neg : Bool := decide (x.num < 0)
  let n := x.num.natAbs
  let d := x.den
  if n == 0 then 0
  else
    let l : Int := (Nat.log2 n : Int) - (Nat.log2 d : Int)
    let below : Bool := if l ≥ 0 then decide (n < d * 2 ^ l.toNat) else decide (n * 2 ^ (-l).toNat < d)
    let e0 : Int := if below then l - 1 else l
    let e : Int := if e0 < -126 then -126 else e0
    let sh : Int := 23 - e
    let m : Nat := if sh ≥ 0 then roundDiv (n * 2 ^ sh.toNat) d else roundDiv n (d * 2 ^ (-sh).toNat)
    let body : Nat := (e + 126).toNat * 2 ^ 23 + m
    let body' : Nat := if body ≥ 0x7F800000 then 0x7F800000 else body
    BitVec.ofNat 32 ((if neg then 2 ^ 31 else 0) + body')

/-- The binary32 nearest to an integer. -/
def F32.ofInt (i : Int) : F32 := F32.ofRat (i : Rat)

/-- The binary32 nearest to a natural number. -/
def F32.ofNat (n : Nat) : F32 := F32.ofRat (n : Rat)

/-- A rounded result that keeps the given sign when it is zero. -/
def F32.round (neg : Bool) (x : Rat) : F32 :=
  if x.num == 0 then F32.zero neg
  else
    let r := F32.ofRat x
    if F32.isZero r then F32.zero (decide (x.num < 0)) else r

/-- Sign change (FNEG). -/
def F32.neg (x : F32) : F32 := x ^^^ BitVec.ofNat 32 (2 ^ 31)

/-- Magnitude (FABS). -/
def F32.abs (x : F32) : F32 := x &&& BitVec.ofNat 32 (2 ^ 31 - 1)

/-- Sum of two patterns; the argument nan is what a NaN result reads as. -/
def F32.add (nan x y : F32) : F32 :=
  if F32.isNaN x || F32.isNaN y then nan
  else if F32.isInf x then (if F32.isInf y && F32.sign x != F32.sign y then nan else x)
  else if F32.isInf y then y
  else F32.round (F32.sign x && F32.sign y) (F32.toRat x + F32.toRat y)

/-- Difference of two patterns. -/
def F32.sub (nan x y : F32) : F32 := if F32.isNaN y then nan else F32.add nan x (F32.neg y)

/-- Product of two patterns. -/
def F32.mul (nan x y : F32) : F32 :=
  let sg := F32.sign x != F32.sign y
  if F32.isNaN x || F32.isNaN y then nan
  else if F32.isInf x || F32.isInf y then (if F32.isZero x || F32.isZero y then nan else F32.inf sg)
  else F32.round sg (F32.toRat x * F32.toRat y)

/-- Fused x * y + z with one rounding. -/
def F32.fma (nan x y z : F32) : F32 :=
  let sg := F32.sign x != F32.sign y
  if F32.isNaN x || F32.isNaN y || F32.isNaN z then nan
  else if F32.isInf x || F32.isInf y then
    (if F32.isZero x || F32.isZero y then nan
     else if F32.isInf z && F32.sign z != sg then nan else F32.inf sg)
  else if F32.isInf z then z
  else
    let v := F32.toRat x * F32.toRat y + F32.toRat z
    let bothZero := (F32.isZero x || F32.isZero y) && F32.isZero z
    F32.round (bothZero && sg && F32.sign z) v

/-- Quotient of two patterns. -/
def F32.div (nan x y : F32) : F32 :=
  let sg := F32.sign x != F32.sign y
  if F32.isNaN x || F32.isNaN y then nan
  else if F32.isInf x then (if F32.isInf y then nan else F32.inf sg)
  else if F32.isInf y then F32.zero sg
  else if F32.isZero y then (if F32.isZero x then nan else F32.inf sg)
  else F32.round sg (F32.toRat x / F32.toRat y)

/-- Integer square root by bitwise descent: the largest r with r * r ≤ n, tried over k bits. -/
def isqrtAux : Nat → Nat → Nat → Nat
  | 0, _, r => r
  | k + 1, n, r =>
    let c := r + 2 ^ k
    if c * c ≤ n then isqrtAux k n c else isqrtAux k n r

/-- Square root of a pattern, correctly rounded: the integer root carries 40 bits and a sticky bit. -/
def F32.sqrt (nan x : F32) : F32 :=
  if F32.isNaN x then nan
  else if F32.isZero x then x
  else if F32.sign x then nan
  else if F32.isInf x then x
  else
    let v := F32.toRat x
    let scaled : Nat := (v.num.natAbs * 2 ^ 400) / v.den
    let r := isqrtAux 280 scaled 0
    let sticky : Nat := if r * r == scaled then 0 else 1
    F32.ofRat (mkRat ((2 * r + sticky : Nat) : Int) (2 ^ 201))

/-- Order of two patterns that are not NaN: x below y. -/
def F32.lt (x y : F32) : Bool :=
  if F32.isNaN x || F32.isNaN y then false
  else if F32.isInf x then (F32.sign x && !(F32.isInf y && F32.sign y))
  else if F32.isInf y then !F32.sign y
  else decide (F32.toRat x < F32.toRat y)

/-- A positive finite value, as the scales of R287, R215 and R376 must be. -/
def F32.isPosFinite (x : F32) : Bool := F32.isFinite x && !F32.sign x && !F32.isZero x

/-- Floor of a rational as an integer. -/
def floorRat (x : Rat) : Int := x.floor

/-- A rational rounded down to a natural number, negative values giving 0. -/
def floorNat (x : Rat) : Nat := x.floor.toNat

/-- A rational rounded to the nearest integer, ties to even. -/
def roundRat (x : Rat) : Int :=
  let q := roundDiv x.num.natAbs x.den
  if x.num < 0 then -(q : Int) else (q : Int)

end Sys2Proof.Machine
end

