-- ==== Sys2Proof/Machine/RegMap.lean ====
section
/-! DEFINITION. The register map: every register word the block chapters assign, with the bits, access code, reset value and admissible values of each field (R6, R103, R106). -/

namespace Sys2Proof.Machine

/-- The access codes of Table 0.4 (R8, R106). -/
inductive Acc
  | ro | rw | rws | rcs | rwl | wo1 | mbx
  deriving DecidableEq, Repr

/-- The values a field's description admits (R108 step 1). -/
inductive Rng
  | any
  | span (lo hi : Nat)
  | finite
  | positive
  | float (lo hi : Int)
  | zeroOrFloat (lo hi : Int)
  deriving DecidableEq, Repr

/-- One field of a register word. A reset list of one value serves every instance; a longer one gives the value per instance. -/
structure FieldRow where
  hi : Nat
  lo : Nat
  acc : Acc
  rng : Rng := .any
  held : Bool := false
  reset : List Nat := [0]
  deriving DecidableEq, Repr

/-- A register that stands once, or an array of like registers at a stride. -/
structure RegRow where
  base : Nat
  stride : Nat := 4
  count : Nat := 1
  fields : List FieldRow
  deriving DecidableEq, Repr

/-- A named field: the word it stands in and its bits. -/
structure Fld where
  addr : Nat
  hi : Nat
  lo : Nat
  deriving DecidableEq, Repr

/-- Whether a value is one the field's description admits. -/
def Rng.ok (r : Rng) (v : Nat) : Bool :=
  match r with
  | .any => true
  | .span lo hi => decide (lo ≤ v) && decide (v ≤ hi)
  | .finite => F32.isFinite (BitVec.ofNat 32 v)
  | .positive => F32.isPosFinite (BitVec.ofNat 32 v)
  | .float lo hi =>
    let x : F32 := BitVec.ofNat 32 v
    F32.isFinite x && decide ((lo : Rat) ≤ F32.toRat x) && decide (F32.toRat x ≤ (hi : Rat))
  | .zeroOrFloat lo hi =>
    let x : F32 := BitVec.ofNat 32 v
    F32.isZero x || (F32.isFinite x && decide ((lo : Rat) ≤ F32.toRat x) && decide (F32.toRat x ≤ (hi : Rat)))

/-- Register words of the SYS_ block: Tables 5.11 to 5.20. -/
def sysRegs : List RegRow := [
  -- SYS_BOOT
  { base := 0x00000, fields := [
      { hi := 0, lo := 0, acc := .ro },
      { hi := 1, lo := 1, acc := .ro },
      { hi := 2, lo := 2, acc := .ro },
      { hi := 3, lo := 3, acc := .ro },
      { hi := 4, lo := 4, acc := .ro },
      { hi := 15, lo := 8, acc := .ro },
      { hi := 31, lo := 16, acc := .ro, held := true }] },
  -- SYS_WRSTAT
  { base := 0x00004, fields := [
      { hi := 0, lo := 0, acc := .rcs },
      { hi := 1, lo := 1, acc := .rcs },
      { hi := 2, lo := 2, acc := .rcs },
      { hi := 3, lo := 3, acc := .rcs },
      { hi := 4, lo := 4, acc := .rcs },
      { hi := 31, lo := 24, acc := .rcs }] },
  -- SYS_LOCKVIOL
  { base := 0x00008, fields := [
      { hi := 15, lo := 0, acc := .ro },
      { hi := 17, lo := 16, acc := .ro },
      { hi := 21, lo := 18, acc := .ro }] },
  -- SYS_LOCKADDR
  { base := 0x0000C, fields := [
      { hi := 31, lo := 0, acc := .ro }] },
  -- SYS_LOCK
  { base := 0x00010, fields := [
      { hi := 0, lo := 0, acc := .ro },
      { hi := 1, lo := 1, acc := .ro }] },
  -- SYS_APPLY
  { base := 0x00014, fields := [
      { hi := 0, lo := 0, acc := .ro },
      { hi := 15, lo := 8, acc := .ro }] },
  -- SYS_MBX_CTRL
  { base := 0x00020, fields := [
      { hi := 15, lo := 0, acc := .ro },
      { hi := 16, lo := 16, acc := .ro },
      { hi := 17, lo := 17, acc := .ro },
      { hi := 23, lo := 20, acc := .ro }] },
  -- SYS_MBX_W
  { base := 0x00024, stride := 4, count := 8, fields := [
      { hi := 31, lo := 0, acc := .mbx }] },
  -- SYS_IMG
  { base := 0x00044, fields := [
      { hi := 31, lo := 0, acc := .ro }] },
  -- SYS_IMG_FLOOR
  { base := 0x00048, fields := [
      { hi := 31, lo := 0, acc := .ro, held := true }] },
  -- SYS_IMG_STAGE
  { base := 0x0004C, fields := [
      { hi := 1, lo := 0, acc := .ro },
      { hi := 31, lo := 16, acc := .ro, reset := [65535] }] }]

/-- Register words of the PWM_ block: Tables 6.8 to 6.27. -/
def pwmRegs : List RegRow := [
  -- PWM_CARRUN
  { base := 0x10000, fields := [
      { hi := 15, lo := 0, acc := .ro }] },
  -- PWM_EVT
  { base := 0x10004, fields := [
      { hi := 0, lo := 0, acc := .rcs },
      { hi := 1, lo := 1, acc := .rcs },
      { hi := 2, lo := 2, acc := .rcs },
      { hi := 31, lo := 24, acc := .rcs }] },
  -- PWM_FOREIGN
  { base := 0x10008, fields := [
      { hi := 5, lo := 0, acc := .ro },
      { hi := 11, lo := 8, acc := .ro }] },
  -- PWM_CAR_CTRL
  { base := 0x10100, stride := 0x00020, count := 16, fields := [
      { hi := 0, lo := 0, acc := .rw },
      { hi := 7, lo := 4, acc := .rwl, reset := ([0, 0, 2, 3, 4, 5] ++ List.replicate 8 6 ++ [14, 15]) },
      { hi := 8, lo := 8, acc := .rwl, reset := (List.replicate 7 0 ++ List.replicate 7 1 ++ [0, 0]) }] },
  -- PWM_CAR_PERIOD
  { base := 0x10104, stride := 0x00020, count := 16, fields := [
      { hi := 23, lo := 0, acc := .rws, rng := (.span 3200 16777215), reset := ([0x61a80, 0x61a80, 0x9c400, 0x1809e, 64000, 25600] ++ List.replicate 8 21333 ++ [0x4e200, 0x4e200]) }] },
  -- PWM_CAR_PHASE
  { base := 0x10108, stride := 0x00020, count := 16, fields := [
      { hi := 23, lo := 0, acc := .rws, reset := [0, 0x30d40, 0, 0, 0, 0, 0, 0x200000, 0x400000, 0x600000, 0x800000, 0xa00000, 0xc00000, 0xe00000, 0, 0] }] },
  -- PWM_CAR_START_H
  { base := 0x1010C, stride := 0x00020, count := 16, fields := [
      { hi := 31, lo := 0, acc := .rw }] },
  -- PWM_CAR_START_L
  { base := 0x10110, stride := 0x00020, count := 16, fields := [
      { hi := 31, lo := 0, acc := .rw }] },
  -- PWM_CAR_EFF
  { base := 0x10114, stride := 0x00020, count := 16, fields := [
      { hi := 23, lo := 0, acc := .ro }] },
  -- PWM_CAR_COUNT
  { base := 0x10118, stride := 0x00020, count := 16, fields := [
      { hi := 31, lo := 0, acc := .ro }] },
  -- PWM_CH_ON
  { base := 0x11000, stride := 0x00010, count := 64, fields := [
      { hi := 23, lo := 0, acc := .ro }] },
  -- PWM_CH_OFF
  { base := 0x11004, stride := 0x00010, count := 64, fields := [
      { hi := 23, lo := 0, acc := .ro }] },
  -- PWM_CH_DT
  { base := 0x11008, stride := 0x00010, count := 64, fields := [
      { hi := 15, lo := 0, acc := .rws, reset := [6400] }] },
  -- PWM_CH_DTEFF
  { base := 0x1100C, stride := 0x00010, count := 64, fields := [
      { hi := 15, lo := 0, acc := .ro, reset := [6400] }] },
  -- PWM_HB_CFG
  { base := 0x12000, stride := 0x00020, count := 32, fields := [
      { hi := 1, lo := 0, acc := .rws, rng := (.span 0 2) },
      { hi := 2, lo := 2, acc := .rws, reset := [1] },
      { hi := 7, lo := 4, acc := .rwl, reset := [0, 0, 0, 1, 1, 1, 2, 3, 3, 3, 4, 4, 4, 4, 5, 5, 5, 5, 6, 7, 8, 9, 10, 11, 12, 13, 14, 14, 14, 15, 15, 15] },
      { hi := 8, lo := 8, acc := .ro, reset := (List.replicate 16 0 ++ List.replicate 16 1) }] },
  -- PWM_HB_MINP
  { base := 0x12004, stride := 0x00020, count := 32, fields := [
      { hi := 15, lo := 0, acc := .rws, reset := [1280] },
      { hi := 31, lo := 16, acc := .ro, reset := [1280] }] },
  -- PWM_HB_REFR
  { base := 0x12008, stride := 0x00020, count := 32, fields := [
      { hi := 15, lo := 0, acc := .rws, reset := [2560] },
      { hi := 23, lo := 16, acc := .rws, reset := [16] }] },
  -- PWM_HB_CARRYVAL
  { base := 0x1200C, stride := 0x00020, count := 32, fields := [
      { hi := 31, lo := 0, acc := .ro }] },
  -- PWM_HB_EVT
  { base := 0x12010, stride := 0x00020, count := 32, fields := [
      { hi := 0, lo := 0, acc := .rcs },
      { hi := 1, lo := 1, acc := .rcs },
      { hi := 2, lo := 2, acc := .rcs },
      { hi := 3, lo := 3, acc := .rcs },
      { hi := 4, lo := 4, acc := .rcs },
      { hi := 5, lo := 5, acc := .rcs },
      { hi := 6, lo := 6, acc := .rcs },
      { hi := 7, lo := 7, acc := .rcs },
      { hi := 31, lo := 24, acc := .rcs }] },
  -- PWM_HB_CNT
  { base := 0x12014, stride := 0x00020, count := 32, fields := [
      { hi := 15, lo := 0, acc := .rw },
      { hi := 31, lo := 16, acc := .rw }] },
  -- PWM_WIN_CFG
  { base := 0x13000, stride := 0x00020, count := 2, fields := [
      { hi := 0, lo := 0, acc := .rwl },
      { hi := 12, lo := 8, acc := .rwl, reset := [26, 29] },
      { hi := 20, lo := 16, acc := .rwl, reset := [27, 30] },
      { hi := 28, lo := 24, acc := .rwl, reset := [28, 31] }] },
  -- PWM_WIN_POS
  { base := 0x13004, stride := 0x00020, count := 2, fields := [
      { hi := 23, lo := 0, acc := .rws }] },
  -- PWM_WIN_TWIN
  { base := 0x13008, stride := 0x00020, count := 2, fields := [
      { hi := 23, lo := 0, acc := .rws, reset := [19200] }] },
  -- PWM_WIN_STAT
  { base := 0x1300C, stride := 0x00020, count := 2, fields := [
      { hi := 2, lo := 0, acc := .ro },
      { hi := 6, lo := 4, acc := .ro },
      { hi := 10, lo := 8, acc := .ro },
      { hi := 12, lo := 12, acc := .ro },
      { hi := 13, lo := 13, acc := .ro }] },
  -- PWM_WIN_START
  { base := 0x13010, stride := 0x00020, count := 2, fields := [
      { hi := 23, lo := 0, acc := .ro }] },
  -- PWM_WIN_CNT
  { base := 0x13014, stride := 0x00020, count := 2, fields := [
      { hi := 15, lo := 0, acc := .rw },
      { hi := 31, lo := 16, acc := .rw }] }]

/-- Register words of the GZ_ block: Tables 7.8 to 7.17. (Assumption 153 DESIGN CHOICE) -/
def gzRegs : List RegRow := [
  -- GZ_STAT
  { base := 0x20000, fields := [
      { hi := 3, lo := 0, acc := .ro },
      { hi := 7, lo := 4, acc := .ro },
      { hi := 8, lo := 8, acc := .ro },
      { hi := 9, lo := 9, acc := .ro },
      { hi := 10, lo := 10, acc := .ro },
      { hi := 22, lo := 16, acc := .ro },
      { hi := 27, lo := 24, acc := .ro }] },
  -- GZ_OVR
  { base := 0x20008, stride := 4, count := 3, fields := [
      { hi := 23, lo := 0, acc := .rcs },
      { hi := 31, lo := 24, acc := .rcs }] },
  -- GZ_FLT
  { base := 0x20014, fields := [
      { hi := 7, lo := 0, acc := .rcs },
      { hi := 11, lo := 8, acc := .rcs },
      { hi := 31, lo := 24, acc := .rcs }] },
  -- GZ_XBCTL
  { base := 0x20018, fields := [
      { hi := 2, lo := 0, acc := .rwl },
      { hi := 6, lo := 4, acc := .rwl },
      { hi := 8, lo := 8, acc := .rwl, reset := [1] },
      { hi := 9, lo := 9, acc := .rwl, reset := [1] }] },
  -- GZ_CH_CFG
  { base := 0x21000, stride := 0x00040, count := 72, fields := [
      { hi := 1, lo := 0, acc := .rwl, reset := (List.replicate 15 1 ++ List.replicate 6 3 ++ [1, 1, 1] ++ List.replicate 6 2 ++ [1, 1, 1, 1, 0, 1, 1, 1, 1, 1, 0, 1, 1, 1, 1, 1, 0, 1, 0, 1, 0, 0, 0, 1, 0, 0, 0, 1, 0, 1, 0, 1, 0, 0] ++ List.replicate 6 1 ++ [0, 0]) },
      { hi := 2, lo := 2, acc := .rwl, reset := ([1, 1, 1] ++ List.replicate 8 0 ++ [1, 1] ++ List.replicate 8 0 ++ List.replicate 11 1 ++ [0, 1, 0, 1, 0, 1, 0, 1, 0, 1, 0, 1, 0, 1, 0, 1] ++ List.replicate 9 0 ++ [1] ++ List.replicate 14 0) },
      { hi := 3, lo := 3, acc := .rwl, reset := (List.replicate 11 0 ++ [1, 1] ++ List.replicate 8 0 ++ List.replicate 11 1 ++ List.replicate 40 0) },
      { hi := 4, lo := 4, acc := .rwl, reset := (List.replicate 32 0 ++ [1, 0, 0, 0, 1, 0, 1, 0, 0, 0, 1] ++ List.replicate 6 0 ++ [1] ++ List.replicate 22 0) },
      { hi := 5, lo := 5, acc := .rwl, reset := (List.replicate 24 0 ++ List.replicate 6 1 ++ List.replicate 42 0) },
      { hi := 6, lo := 6, acc := .rwl, reset := (List.replicate 24 0 ++ List.replicate 6 1 ++ List.replicate 42 0) },
      { hi := 7, lo := 7, acc := .rwl },
      { hi := 11, lo := 8, acc := .rwl, reset := (List.replicate 38 0 ++ [1, 0, 0, 0, 1] ++ List.replicate 6 0 ++ [3] ++ List.replicate 22 0) },
      { hi := 12, lo := 12, acc := .rwl, reset := (List.replicate 18 0 ++ [1, 1, 1] ++ List.replicate 51 0) },
      { hi := 14, lo := 13, acc := .rwl, rng := (.span 0 2), reset := (List.replicate 16 0 ++ [1, 2, 0, 1, 2] ++ List.replicate 51 0) }] },
  -- GZ_CH_SCHED
  { base := 0x21004, stride := 0x00040, count := 72, fields := [
      { hi := 23, lo := 0, acc := .rws },
      { hi := 31, lo := 24, acc := .rws, reset := (List.replicate 24 1 ++ List.replicate 6 20 ++ List.replicate 42 1) }] },
  -- GZ_CH_ROUTE
  { base := 0x21008, stride := 0x00040, count := 72, fields := [
      { hi := 15, lo := 0, acc := .rws, reset := ([32, 32, 32] ++ List.replicate 8 4 ++ [516, 4, 516, 4, 8, 8, 8, 1024, 1024, 1024, 1032, 8, 1024] ++ List.replicate 8 0 ++ [1, 8193, 0, 8193, 1, 8193, 2, 8194, 0, 8194, 2, 8194, 1, 9091, 0, 192, 0, 64, 0, 0, 0, 256, 0, 0, 0, 256, 0, 256, 0, 512, 0, 0, 128, 128, 128, 64, 64, 64, 0, 0]) },
      { hi := 31, lo := 16, acc := .rws, reset := ([0, 0, 0] ++ List.replicate 11 4096 ++ List.replicate 10 0 ++ List.replicate 6 2048 ++ [0, 2048, 4096, 0, 0, 0, 4096, 0, 4096, 0, 0, 0, 4096, 0, 4096, 4096] ++ List.replicate 11 0 ++ [4096, 0, 4096, 0, 0, 0, 0] ++ List.replicate 6 128 ++ [0, 0]) }] },
  -- GZ_CH_CAL
  { base := 0x2100C, stride := 0x00040, count := 72, fields := [
      { hi := 15, lo := 0, acc := .ro },
      { hi := 31, lo := 16, acc := .ro }] },
  -- GZ_CH_COMP
  { base := 0x21010, stride := 0x00040, count := 72, fields := [
      { hi := 31, lo := 0, acc := .ro }] },
  -- GZ_CH_FAST
  { base := 0x21014, stride := 0x00040, count := 72, fields := [
      { hi := 31, lo := 0, acc := .ro }] },
  -- GZ_CH_FINE
  { base := 0x21018, stride := 0x00040, count := 72, fields := [
      { hi := 31, lo := 0, acc := .ro }] },
  -- GZ_CH_STAT
  { base := 0x2101C, stride := 0x00040, count := 72, fields := [
      { hi := 0, lo := 0, acc := .ro },
      { hi := 1, lo := 1, acc := .ro },
      { hi := 2, lo := 2, acc := .ro },
      { hi := 3, lo := 3, acc := .ro },
      { hi := 4, lo := 4, acc := .ro },
      { hi := 5, lo := 5, acc := .ro },
      { hi := 6, lo := 6, acc := .ro },
      { hi := 8, lo := 8, acc := .ro },
      { hi := 9, lo := 9, acc := .ro },
      { hi := 10, lo := 10, acc := .ro }] },
  -- GZ_CH_CNT
  { base := 0x21020, stride := 0x00040, count := 72, fields := [
      { hi := 15, lo := 0, acc := .rw },
      { hi := 31, lo := 16, acc := .rw }] }]

/-- Register words of the LE_ block: Tables 8.10 to 8.13. -/
def leRegs0 : List RegRow := [
  -- LE_RUN
  { base := 0x30000, fields := [
      { hi := 15, lo := 0, acc := .ro },
      { hi := 31, lo := 16, acc := .ro }] },
  -- LE_BANK
  { base := 0x30004, fields := [
      { hi := 15, lo := 0, acc := .ro },
      { hi := 31, lo := 16, acc := .ro }] },
  -- LE_LOADSTAT
  { base := 0x30008, fields := [
      { hi := 11, lo := 0, acc := .ro, reset := [4095] },
      { hi := 15, lo := 12, acc := .ro },
      { hi := 23, lo := 16, acc := .ro }] },
  -- LE_CFG
  { base := 0x31000, stride := 0x00080, count := 16, fields := [
      { hi := 1, lo := 0, acc := .rwl, reset := (List.replicate 11 0 ++ [2, 3, 0, 2, 2]) },
      { hi := 7, lo := 4, acc := .rwl, reset := [0, 1, 6, 14, 0, 0, 3, 3, 4, 6, 15, 0, 0, 0, 0, 0] },
      { hi := 15, lo := 8, acc := .rwl, reset := [1, 1, 1, 1, 16, 1, 1, 4, 1, 30, 1, 0, 0, 1, 0, 0] },
      { hi := 24, lo := 16, acc := .rwl, reset := [5, 2, 64, 128, 3, 3, 8, 8, 16, 96, 256, 0, 0, 3, 0, 0] },
      { hi := 26, lo := 26, acc := .rwl },
      { hi := 27, lo := 27, acc := .rwl, reset := ([1, 1, 0, 1] ++ List.replicate 6 0 ++ [1, 0, 0, 0, 0, 0]) }] },
  -- LE_SLOT
  { base := 0x31004, stride := 0x00080, count := 16, fields := [
      { hi := 23, lo := 0, acc := .rwl, reset := [5120, 5120, 1280, 0x2aa80, 5120, 5120, 5120, 5120, 5120, 1280, 0x2aa80, 0, 0, 5120, 0, 0] },
      { hi := 31, lo := 24, acc := .rwl }] },
  -- LE_TIMER
  { base := 0x31008, stride := 0x00080, count := 16, fields := [
      { hi := 23, lo := 0, acc := .rws, reset := [0x61a800] }] },
  -- LE_TIMER2
  { base := 0x3100C, stride := 0x00080, count := 16, fields := [
      { hi := 23, lo := 0, acc := .rws, reset := [0x9c400] }] },
  -- LE_MODE
  { base := 0x31010, stride := 0x00080, count := 16, fields := [
      { hi := 1, lo := 0, acc := .ro },
      { hi := 2, lo := 2, acc := .ro },
      { hi := 3, lo := 3, acc := .ro },
      { hi := 11, lo := 8, acc := .rwl }] },
  -- LE_WCET
  { base := 0x31014, stride := 0x00080, count := 16, fields := [
      { hi := 23, lo := 0, acc := .ro }] },
  -- LE_EXEC
  { base := 0x31018, stride := 0x00080, count := 16, fields := [
      { hi := 23, lo := 0, acc := .ro }] },
  -- LE_PEAK
  { base := 0x3101C, stride := 0x00080, count := 16, fields := [
      { hi := 23, lo := 0, acc := .ro }] },
  -- LE_CNT
  { base := 0x31020, stride := 0x00080, count := 16, fields := [
      { hi := 15, lo := 0, acc := .rw },
      { hi := 23, lo := 16, acc := .ro },
      { hi := 31, lo := 24, acc := .rw }] },
  -- LE_EVT
  { base := 0x31024, stride := 0x00080, count := 16, fields := [
      { hi := 0, lo := 0, acc := .rcs },
      { hi := 1, lo := 1, acc := .rcs },
      { hi := 2, lo := 2, acc := .rcs },
      { hi := 3, lo := 3, acc := .rcs },
      { hi := 4, lo := 4, acc := .rcs },
      { hi := 5, lo := 5, acc := .rcs },
      { hi := 6, lo := 6, acc := .rcs },
      { hi := 7, lo := 7, acc := .rcs },
      { hi := 31, lo := 24, acc := .rcs }] },
  -- LE_SAT
  { base := 0x31028, stride := 0x00080, count := 16, fields := [
      { hi := 15, lo := 0, acc := .rwl, reset := [2000] },
      { hi := 31, lo := 16, acc := .ro }] },
  -- LE_FE
  { base := 0x3102C, stride := 0x00080, count := 16, fields := [
      { hi := 15, lo := 0, acc := .rwl, reset := [100] },
      { hi := 31, lo := 16, acc := .ro }] },
  -- LE_FELIM
  { base := 0x31030, stride := 0x00080, count := 16, fields := [
      { hi := 31, lo := 0, acc := .rws, reset := [0x7f800000] }] },
  -- LE_DWELL
  { base := 0x31034, stride := 0x00080, count := 16, fields := [
      { hi := 15, lo := 0, acc := .rwl, reset := [300] },
      { hi := 31, lo := 16, acc := .ro }] },
  -- LE_FFCFG
  { base := 0x31038, stride := 0x00080, count := 4, fields := [
      { hi := 6, lo := 0, acc := .rwl, reset := [45, 45, 11, 21] },
      { hi := 7, lo := 7, acc := .rwl, reset := [0, 0, 0, 1] }] },
  -- LE_FFHB
  { base := 0x3103C, stride := 0x00080, count := 4, fields := [
      { hi := 31, lo := 0, acc := .rwl, reset := [7, 56, 0x3fc0000, 0x1c000000] }] },
  -- LE_FFSCALE
  { base := 0x31040, stride := 0x00080, count := 4, fields := [
      { hi := 31, lo := 0, acc := .rwl }] },
  -- LE_KACC
  { base := 0x31044, stride := 0x00080, count := 4, fields := [
      { hi := 31, lo := 0, acc := .rws }] },
  -- LE_FFACC
  { base := 0x31048, stride := 0x00080, count := 4, fields := [
      { hi := 31, lo := 0, acc := .rw }] },
  -- LE_FFSTAT
  { base := 0x3104C, stride := 0x00080, count := 4, fields := [
      { hi := 0, lo := 0, acc := .ro },
      { hi := 1, lo := 1, acc := .ro },
      { hi := 15, lo := 8, acc := .ro }] },
  -- LE_NOFF_FFCFG
  { base := 0x31238, stride := 0x00080, count := 12, fields := [
      { hi := 31, lo := 0, acc := .ro }] },
  -- LE_NOFF_FFHB
  { base := 0x3123C, stride := 0x00080, count := 12, fields := [
      { hi := 31, lo := 0, acc := .ro }] },
  -- LE_NOFF_FFSCALE
  { base := 0x31240, stride := 0x00080, count := 12, fields := [
      { hi := 31, lo := 0, acc := .ro }] },
  -- LE_NOFF_KACC
  { base := 0x31244, stride := 0x00080, count := 12, fields := [
      { hi := 31, lo := 0, acc := .ro }] },
  -- LE_NOFF_FFACC
  { base := 0x31248, stride := 0x00080, count := 12, fields := [
      { hi := 31, lo := 0, acc := .ro }] },
  -- LE_NOFF_FFSTAT
  { base := 0x3124C, stride := 0x00080, count := 12, fields := [
      { hi := 31, lo := 0, acc := .ro }] },
  -- LE_MAN0
  { base := 0x31050, stride := 0x00080, count := 16, fields := [
      { hi := 31, lo := 0, acc := .rws }] }]

/-- Register words of the LE_ block: Tables 8.10 to 8.13. -/
def leRegs1 : List RegRow := [
  -- LE_MAN1
  { base := 0x31054, stride := 0x00080, count := 16, fields := [
      { hi := 31, lo := 0, acc := .rws }] },
  -- LE_MAN2
  { base := 0x31058, stride := 0x00080, count := 16, fields := [
      { hi := 31, lo := 0, acc := .rws }] },
  -- LE_MAN3
  { base := 0x3105C, stride := 0x00080, count := 16, fields := [
      { hi := 31, lo := 0, acc := .rws }] },
  -- LE_OUT0
  { base := 0x31060, stride := 0x00080, count := 16, fields := [
      { hi := 31, lo := 0, acc := .ro }] },
  -- LE_OUT1
  { base := 0x31064, stride := 0x00080, count := 16, fields := [
      { hi := 31, lo := 0, acc := .ro }] },
  -- LE_OUT2
  { base := 0x31068, stride := 0x00080, count := 16, fields := [
      { hi := 31, lo := 0, acc := .ro }] },
  -- LE_OUT3
  { base := 0x3106C, stride := 0x00080, count := 16, fields := [
      { hi := 31, lo := 0, acc := .ro }] },
  -- LE_OUT4
  { base := 0x31070, stride := 0x00080, count := 16, fields := [
      { hi := 31, lo := 0, acc := .ro }] },
  -- LE_OUT5
  { base := 0x31074, stride := 0x00080, count := 16, fields := [
      { hi := 31, lo := 0, acc := .ro }] },
  -- LE_OUT6
  { base := 0x31078, stride := 0x00080, count := 16, fields := [
      { hi := 31, lo := 0, acc := .ro }] },
  -- LE_OUT7
  { base := 0x3107C, stride := 0x00080, count := 16, fields := [
      { hi := 31, lo := 0, acc := .ro }] }]

/-- Register words of the LE_ block: Tables 8.10 to 8.13. -/
def leRegs : List RegRow := leRegs0 ++ leRegs1

/-- Register words of the GD_ block: Tables 10.7 to 10.10. -/
def gdRegs : List RegRow := [
  -- GD_STAT
  { base := 0x40000, fields := [
      { hi := 0, lo := 0, acc := .ro },
      { hi := 4, lo := 1, acc := .ro, reset := [15] },
      { hi := 5, lo := 5, acc := .ro },
      { hi := 6, lo := 6, acc := .ro },
      { hi := 7, lo := 7, acc := .ro }] },
  -- GD_SLATCH
  { base := 0x40004, fields := [
      { hi := 31, lo := 0, acc := .ro }] },
  -- GD_DLATCH
  { base := 0x40008, fields := [
      { hi := 31, lo := 0, acc := .ro }] },
  -- GD_CAUSE
  { base := 0x4000C, fields := [
      { hi := 31, lo := 0, acc := .ro }] },
  -- GD_EVT
  { base := 0x40010, fields := [
      { hi := 0, lo := 0, acc := .rcs },
      { hi := 1, lo := 1, acc := .rcs },
      { hi := 2, lo := 2, acc := .rcs },
      { hi := 3, lo := 3, acc := .rcs },
      { hi := 4, lo := 4, acc := .rcs },
      { hi := 5, lo := 5, acc := .rcs },
      { hi := 6, lo := 6, acc := .rcs },
      { hi := 7, lo := 7, acc := .rcs },
      { hi := 8, lo := 8, acc := .rcs },
      { hi := 9, lo := 9, acc := .rcs },
      { hi := 10, lo := 10, acc := .rcs },
      { hi := 11, lo := 11, acc := .rcs },
      { hi := 31, lo := 24, acc := .rcs }] },
  -- GD_TRIPMAP
  { base := 0x40020, stride := 4, count := 4, fields := [
      { hi := 31, lo := 0, acc := .rwl, reset := [0xffffffff] }] },
  -- GD_LASTTRIP
  { base := 0x40030, fields := [
      { hi := 4, lo := 0, acc := .ro },
      { hi := 11, lo := 8, acc := .ro },
      { hi := 12, lo := 12, acc := .ro },
      { hi := 13, lo := 13, acc := .ro }] },
  -- GD_CNT
  { base := 0x40034, fields := [
      { hi := 15, lo := 0, acc := .rw },
      { hi := 31, lo := 16, acc := .rw }] },
  -- GD_CHOP
  { base := 0x40038, fields := [
      { hi := 15, lo := 0, acc := .ro, reset := [65535] },
      { hi := 31, lo := 16, acc := .rw }] },
  -- GD_REFUSEDSRC
  { base := 0x4003C, fields := [
      { hi := 4, lo := 0, acc := .ro },
      { hi := 11, lo := 8, acc := .ro }] },
  -- GD_CH_DRV
  { base := 0x41000, stride := 0x00010, count := 32, fields := [
      { hi := 3, lo := 0, acc := .rwl, reset := [3] },
      { hi := 7, lo := 4, acc := .rwl, reset := [7] },
      { hi := 11, lo := 8, acc := .rwl, reset := [7] },
      { hi := 15, lo := 12, acc := .rwl },
      { hi := 19, lo := 16, acc := .rwl },
      { hi := 21, lo := 20, acc := .rwl },
      { hi := 22, lo := 22, acc := .rwl, reset := [1] },
      { hi := 27, lo := 24, acc := .rwl, reset := [3] }] },
  -- GD_LV_DRV
  { base := 0x41200, stride := 0x00010, count := 32, fields := [
      { hi := 7, lo := 4, acc := .rwl, reset := [7] },
      { hi := 11, lo := 8, acc := .rwl, reset := [7] },
      { hi := 27, lo := 24, acc := .rwl, reset := [3] }] },
  -- GD_CH_PROT
  { base := 0x41004, stride := 0x00010, count := 32, fields := [
      { hi := 0, lo := 0, acc := .rwl, reset := [1] },
      { hi := 7, lo := 4, acc := .rwl, reset := [7] },
      { hi := 11, lo := 8, acc := .rwl, reset := [6] },
      { hi := 13, lo := 12, acc := .rwl, reset := [1] },
      { hi := 18, lo := 16, acc := .rwl, rng := (.span 0 4) }] },
  -- GD_LV_PROT
  { base := 0x41204, stride := 0x00010, count := 32, fields := [
      { hi := 31, lo := 0, acc := .ro }] },
  -- GD_CH_STAT
  { base := 0x41008, stride := 0x00010, count := 64, fields := [
      { hi := 0, lo := 0, acc := .ro },
      { hi := 1, lo := 1, acc := .ro },
      { hi := 2, lo := 2, acc := .ro },
      { hi := 3, lo := 3, acc := .ro },
      { hi := 4, lo := 4, acc := .ro },
      { hi := 5, lo := 5, acc := .ro },
      { hi := 6, lo := 6, acc := .ro }] },
  -- GD_CH_CNT
  { base := 0x4100C, stride := 0x00010, count := 64, fields := [
      { hi := 15, lo := 0, acc := .rw },
      { hi := 31, lo := 16, acc := .rw }] }]

/-- Register words of the TRC_ block: Table 9.11. -/
def trcRegs : List RegRow := [
  -- TRC_CFG
  { base := 0x50000, fields := [
      { hi := 1, lo := 0, acc := .rwl, reset := [3] },
      { hi := 2, lo := 2, acc := .rwl },
      { hi := 3, lo := 3, acc := .rwl },
      { hi := 5, lo := 4, acc := .rwl, rng := (.span 0 2) },
      { hi := 6, lo := 6, acc := .rwl, reset := [1] },
      { hi := 11, lo := 8, acc := .rwl, rng := (.span 1 15), reset := [4] },
      { hi := 15, lo := 12, acc := .rwl, rng := (.span 1 15), reset := [1] }] },
  -- TRC_RATED
  { base := 0x50004, fields := [
      { hi := 31, lo := 0, acc := .rwl, rng := .finite }] },
  -- TRC_KE
  { base := 0x50008, fields := [
      { hi := 31, lo := 0, acc := .rwl, rng := .finite }] },
  -- TRC_TMAX
  { base := 0x5000C, fields := [
      { hi := 31, lo := 0, acc := .rwl, rng := .finite }] },
  -- TRC_IMAX
  { base := 0x50010, fields := [
      { hi := 31, lo := 0, acc := .rwl, rng := .finite }] },
  -- TRC_OVERSPEED
  { base := 0x50014, fields := [
      { hi := 31, lo := 0, acc := .rwl, rng := .finite }] },
  -- TRC_FLY
  { base := 0x50018, fields := [
      { hi := 7, lo := 0, acc := .rwl, rng := (.span 1 100), reset := [20] },
      { hi := 15, lo := 8, acc := .rwl, rng := (.span 1 255), reset := [50] },
      { hi := 23, lo := 16, acc := .rwl, rng := (.span 10 255), reset := [50] }] },
  -- TRC_RES
  { base := 0x5001C, fields := [
      { hi := 15, lo := 0, acc := .rwl },
      { hi := 23, lo := 16, acc := .rwl },
      { hi := 31, lo := 24, acc := .rwl, rng := (.span 20 200), reset := [100] }] },
  -- TRC_VREGEN
  { base := 0x50020, fields := [
      { hi := 15, lo := 0, acc := .rwl },
      { hi := 31, lo := 16, acc := .rwl, rng := (.span 0 1000) }] },
  -- TRC_SPEED_SET
  { base := 0x50024, fields := [
      { hi := 31, lo := 0, acc := .rw, rng := .finite }] },
  -- TRC_STAT
  { base := 0x50028, fields := [
      { hi := 3, lo := 0, acc := .ro },
      { hi := 6, lo := 4, acc := .ro, reset := [7] },
      { hi := 7, lo := 7, acc := .ro },
      { hi := 9, lo := 8, acc := .ro },
      { hi := 11, lo := 10, acc := .ro },
      { hi := 13, lo := 12, acc := .ro },
      { hi := 14, lo := 14, acc := .ro },
      { hi := 15, lo := 15, acc := .ro },
      { hi := 16, lo := 16, acc := .ro },
      { hi := 17, lo := 17, acc := .ro }] },
  -- TRC_SPEED
  { base := 0x5002C, fields := [
      { hi := 31, lo := 0, acc := .ro }] },
  -- TRC_ANGLE
  { base := 0x50030, fields := [
      { hi := 15, lo := 0, acc := .ro },
      { hi := 31, lo := 16, acc := .ro }] },
  -- TRC_EMF
  { base := 0x50034, fields := [
      { hi := 31, lo := 0, acc := .ro }] },
  -- TRC_TLIM
  { base := 0x50038, fields := [
      { hi := 31, lo := 0, acc := .ro }] },
  -- TRC_TORQUE
  { base := 0x5003C, fields := [
      { hi := 31, lo := 0, acc := .ro }] },
  -- TRC_FLYREC
  { base := 0x50040, fields := [
      { hi := 15, lo := 0, acc := .ro },
      { hi := 23, lo := 16, acc := .ro },
      { hi := 26, lo := 24, acc := .ro, reset := [7] }] },
  -- TRC_EXC
  { base := 0x50044, fields := [
      { hi := 31, lo := 0, acc := .ro, reset := [0x9c40000] }] },
  -- TRC_EVT
  { base := 0x50048, fields := [
      { hi := 0, lo := 0, acc := .rcs },
      { hi := 1, lo := 1, acc := .rcs },
      { hi := 2, lo := 2, acc := .rcs },
      { hi := 3, lo := 3, acc := .rcs },
      { hi := 4, lo := 4, acc := .rcs },
      { hi := 5, lo := 5, acc := .rcs },
      { hi := 6, lo := 6, acc := .rcs },
      { hi := 7, lo := 7, acc := .rcs },
      { hi := 8, lo := 8, acc := .rcs },
      { hi := 31, lo := 24, acc := .rcs }] },
  -- TRC_CNT
  { base := 0x5004C, fields := [
      { hi := 15, lo := 0, acc := .rw },
      { hi := 31, lo := 16, acc := .rw }] }]

/-- Register words of the CHG_ block: Table 11.12. -/
def chgRegs : List RegRow := [
  -- CHG_CFG
  { base := 0x60000, fields := [
      { hi := 0, lo := 0, acc := .rwl },
      { hi := 1, lo := 1, acc := .rwl },
      { hi := 31, lo := 16, acc := .rwl }] },
  -- CHG_IAC_MAX
  { base := 0x60004, fields := [
      { hi := 31, lo := 0, acc := .rwl, rng := (.float (0) 63), reset := [0x427c0000] }] },
  -- CHG_IMPORT_MAX
  { base := 0x60008, fields := [
      { hi := 31, lo := 0, acc := .rwl, rng := (.float (0) 44000), reset := [0x472be000] }] },
  -- CHG_EXPORT_MAX
  { base := 0x6000C, fields := [
      { hi := 31, lo := 0, acc := .rwl, rng := (.float (0) 22000), reset := [0x46abe000] }] },
  -- CHG_VPFC
  { base := 0x60010, fields := [
      { hi := 15, lo := 0, acc := .rwl, rng := (.span 600 850), reset := [750] }] },
  -- CHG_GRIDV
  { base := 0x60014, fields := [
      { hi := 7, lo := 0, acc := .rwl, rng := (.span 50 100), reset := [85] },
      { hi := 15, lo := 8, acc := .rwl, rng := (.span 100 125), reset := [110] },
      { hi := 31, lo := 16, acc := .rwl, rng := (.span 0 60000) }] },
  -- CHG_GRIDF
  { base := 0x60018, fields := [
      { hi := 15, lo := 0, acc := .rwl, reset := [4750] },
      { hi := 31, lo := 16, acc := .rwl, reset := [5150] }] },
  -- CHG_GRIDT
  { base := 0x6001C, fields := [
      { hi := 7, lo := 0, acc := .rwl, rng := (.span 1 100), reset := [20] },
      { hi := 15, lo := 8, acc := .rwl },
      { hi := 31, lo := 16, acc := .rwl, reset := [60] }] },
  -- CHG_QUAL
  { base := 0x60020, fields := [
      { hi := 15, lo := 0, acc := .rwl, rng := (.span 100 60000), reset := [300] }] },
  -- CHG_VBAT
  { base := 0x60024, fields := [
      { hi := 15, lo := 0, acc := .rwl, rng := (.span 550 1000), reset := [550] },
      { hi := 31, lo := 16, acc := .rwl, rng := (.span 550 1000), reset := [1000] }] },
  -- CHG_RAMP
  { base := 0x60028, fields := [
      { hi := 31, lo := 0, acc := .rwl, rng := (.float (100) 100000), reset := [0x461c4000] }] },
  -- CHG_XBVSCALE
  { base := 0x6002C, fields := [
      { hi := 31, lo := 0, acc := .rwl, rng := .finite }] },
  -- CHG_XBISCALE
  { base := 0x60030, fields := [
      { hi := 31, lo := 0, acc := .rwl, rng := .finite }] },
  -- CHG_STAT
  { base := 0x60034, fields := [
      { hi := 2, lo := 0, acc := .ro },
      { hi := 3, lo := 3, acc := .ro },
      { hi := 4, lo := 4, acc := .ro },
      { hi := 5, lo := 5, acc := .ro },
      { hi := 7, lo := 6, acc := .ro },
      { hi := 10, lo := 8, acc := .ro },
      { hi := 11, lo := 11, acc := .ro },
      { hi := 12, lo := 12, acc := .ro },
      { hi := 23, lo := 16, acc := .ro }] },
  -- CHG_PILOT
  { base := 0x60038, fields := [
      { hi := 2, lo := 0, acc := .ro },
      { hi := 3, lo := 3, acc := .ro },
      { hi := 15, lo := 4, acc := .ro },
      { hi := 31, lo := 16, acc := .ro }] },
  -- CHG_PILOTLOW
  { base := 0x6003C, fields := [
      { hi := 15, lo := 0, acc := .ro },
      { hi := 31, lo := 16, acc := .ro }] },
  -- CHG_PP
  { base := 0x60040, fields := [
      { hi := 15, lo := 0, acc := .ro, reset := [65535] },
      { hi := 18, lo := 16, acc := .ro }] },
  -- CHG_ILIM
  { base := 0x60044, fields := [
      { hi := 31, lo := 0, acc := .ro }] },
  -- CHG_TARGET
  { base := 0x60048, fields := [
      { hi := 31, lo := 0, acc := .ro }] },
  -- CHG_PGRID
  { base := 0x6004C, fields := [
      { hi := 31, lo := 0, acc := .ro }] },
  -- CHG_FGRID
  { base := 0x60050, fields := [
      { hi := 31, lo := 0, acc := .ro }] },
  -- CHG_EVT
  { base := 0x60054, fields := [
      { hi := 0, lo := 0, acc := .rcs },
      { hi := 1, lo := 1, acc := .rcs },
      { hi := 2, lo := 2, acc := .rcs },
      { hi := 3, lo := 3, acc := .rcs },
      { hi := 4, lo := 4, acc := .rcs },
      { hi := 5, lo := 5, acc := .rcs },
      { hi := 6, lo := 6, acc := .rcs },
      { hi := 31, lo := 24, acc := .rcs }] },
  -- CHG_CNT
  { base := 0x60058, fields := [
      { hi := 15, lo := 0, acc := .rw },
      { hi := 31, lo := 16, acc := .rw }] },
  -- CHG_GAPS
  { base := 0x6005C, fields := [
      { hi := 31, lo := 0, acc := .rw }] }]

/-- Register words of the AUX_ block: Table 12.8. -/
def auxRegs : List RegRow := [
  -- AUX_CFG
  { base := 0x70000, fields := [
      { hi := 7, lo := 0, acc := .rwl, reset := [255] },
      { hi := 8, lo := 8, acc := .rwl, reset := [1] },
      { hi := 9, lo := 9, acc := .rwl, reset := [1] },
      { hi := 10, lo := 10, acc := .rwl, reset := [1] },
      { hi := 11, lo := 11, acc := .rwl, reset := [1] },
      { hi := 12, lo := 12, acc := .rwl, reset := [1] },
      { hi := 13, lo := 13, acc := .rwl },
      { hi := 23, lo := 16, acc := .ro, reset := [255] }] },
  -- AUX_VSET
  { base := 0x70004, fields := [
      { hi := 31, lo := 0, acc := .rws, rng := (.float (24) 30), reset := [0x41e00000] }] },
  -- AUX_ILIM
  { base := 0x70008, fields := [
      { hi := 31, lo := 0, acc := .rws, rng := (.float (0) 357), reset := [0x43b28000] }] },
  -- AUX_PRE_VDC
  { base := 0x7000C, fields := [
      { hi := 31, lo := 0, acc := .rws, rng := (.zeroOrFloat 100 992) }] },
  -- AUX_PRE_ILIM
  { base := 0x70010, fields := [
      { hi := 31, lo := 0, acc := .rws, rng := (.float (0) 100) }] },
  -- AUX_PNOM
  { base := 0x70014, fields := [
      { hi := 23, lo := 0, acc := .rwl, reset := [21333] }] },
  -- AUX_PMIN
  { base := 0x70018, fields := [
      { hi := 23, lo := 0, acc := .rwl, reset := [17067] }] },
  -- AUX_PMAX
  { base := 0x7001C, fields := [
      { hi := 23, lo := 0, acc := .rwl, reset := [42667] }] },
  -- AUX_RIP
  { base := 0x70020, fields := [
      { hi := 15, lo := 0, acc := .rwl, rng := (.span 50 2000), reset := [280] },
      { hi := 31, lo := 16, acc := .rwl, reset := [2560] }] },
  -- AUX_IPH_MAX
  { base := 0x70024, fields := [
      { hi := 31, lo := 0, acc := .rwl, rng := (.float (1) 80), reset := [0x426e0000] }] },
  -- AUX_SHED
  { base := 0x70028, fields := [
      { hi := 15, lo := 0, acc := .rwl, reset := [80] },
      { hi := 31, lo := 16, acc := .rwl, reset := [30] }] },
  -- AUX_SHEDT
  { base := 0x7002C, fields := [
      { hi := 7, lo := 0, acc := .rwl, reset := [5] },
      { hi := 15, lo := 8, acc := .rwl, reset := [10] },
      { hi := 23, lo := 16, acc := .rwl, rng := (.span 1 100), reset := [10] },
      { hi := 31, lo := 24, acc := .rwl, rng := (.span 1 255), reset := [10] }] },
  -- AUX_BRAKE
  { base := 0x70030, fields := [
      { hi := 7, lo := 0, acc := .rwl, rng := (.span 10 100), reset := [30] },
      { hi := 15, lo := 8, acc := .rwl, rng := (.span 2 30), reset := [10] }] },
  -- AUX_VOSMAX
  { base := 0x70034, fields := [
      { hi := 31, lo := 0, acc := .rwl, rng := .finite, reset := [0x3fc00000] }] },
  -- AUX_VSCALE
  { base := 0x70038, fields := [
      { hi := 31, lo := 0, acc := .rwl, rng := .finite }] },
  -- AUX_VOSSCALE
  { base := 0x7003C, fields := [
      { hi := 31, lo := 0, acc := .rwl, rng := .finite }] },
  -- AUX_IOSCALE
  { base := 0x70040, fields := [
      { hi := 31, lo := 0, acc := .rwl, rng := .finite }] },
  -- AUX_IPSCALE
  { base := 0x70044, fields := [
      { hi := 31, lo := 0, acc := .rwl, rng := .finite }] },
  -- AUX_IDSCALE
  { base := 0x70048, fields := [
      { hi := 31, lo := 0, acc := .rwl, rng := .finite }] },
  -- AUX_PRE_TMAX
  { base := 0x7004C, fields := [
      { hi := 15, lo := 0, acc := .rwl, rng := (.span 100 60000), reset := [2000] }] },
  -- AUX_STAT
  { base := 0x70050, fields := [
      { hi := 3, lo := 0, acc := .ro },
      { hi := 5, lo := 4, acc := .ro },
      { hi := 15, lo := 8, acc := .ro },
      { hi := 23, lo := 16, acc := .ro },
      { hi := 24, lo := 24, acc := .ro },
      { hi := 25, lo := 25, acc := .ro },
      { hi := 26, lo := 26, acc := .ro },
      { hi := 27, lo := 27, acc := .ro }] },
  -- AUX_PHSTAT
  { base := 0x70054, fields := [
      { hi := 31, lo := 0, acc := .ro }] },
  -- AUX_ILIM_EFF
  { base := 0x70058, fields := [
      { hi := 31, lo := 0, acc := .ro }] },
  -- AUX_PERIOD
  { base := 0x7005C, fields := [
      { hi := 23, lo := 0, acc := .ro }] },
  -- AUX_VINT
  { base := 0x70060, fields := [
      { hi := 31, lo := 0, acc := .ro }] },
  -- AUX_TRIM
  { base := 0x70064, stride := 4, count := 8, fields := [
      { hi := 31, lo := 0, acc := .ro }] },
  -- AUX_EVT
  { base := 0x70084, fields := [
      { hi := 0, lo := 0, acc := .rcs },
      { hi := 1, lo := 1, acc := .rcs },
      { hi := 2, lo := 2, acc := .rcs },
      { hi := 3, lo := 3, acc := .rcs },
      { hi := 4, lo := 4, acc := .rcs },
      { hi := 5, lo := 5, acc := .rcs },
      { hi := 6, lo := 6, acc := .rcs },
      { hi := 7, lo := 7, acc := .rcs },
      { hi := 8, lo := 8, acc := .rcs },
      { hi := 9, lo := 9, acc := .rcs },
      { hi := 31, lo := 24, acc := .rcs }] },
  -- AUX_CNT
  { base := 0x70088, fields := [
      { hi := 15, lo := 0, acc := .rw },
      { hi := 31, lo := 16, acc := .rw }] },
  -- AUX_CNT2
  { base := 0x7008C, fields := [
      { hi := 15, lo := 0, acc := .rw },
      { hi := 31, lo := 16, acc := .rw }] }]

/-- Register words of the ACT_ block: Table 13.7. -/
def actRegs : List RegRow := [
  -- ACT_CFG
  { base := 0x80000, fields := [
      { hi := 7, lo := 0, acc := .rwl },
      { hi := 15, lo := 8, acc := .rwl },
      { hi := 19, lo := 16, acc := .rwl, rng := (.span 1 8), reset := [3] }] },
  -- ACT_SHIFT_IMAX
  { base := 0x80004, fields := [
      { hi := 31, lo := 0, acc := .rwl, rng := (.float (0) 40), reset := [0x42200000] }] },
  -- ACT_PARK_IMAX
  { base := 0x80008, fields := [
      { hi := 31, lo := 0, acc := .rwl, rng := (.float (0) 25), reset := [0x41c80000] }] },
  -- ACT_LOCK
  { base := 0x8000C, fields := [
      { hi := 7, lo := 0, acc := .rwl, rng := (.span 10 100), reset := [60] },
      { hi := 15, lo := 8, acc := .rwl, rng := (.span 5 255), reset := [20] },
      { hi := 23, lo := 16, acc := .rwl, rng := (.span 1 255), reset := [50] },
      { hi := 25, lo := 24, acc := .rwl, reset := [3] }] },
  -- ACT_VMAX
  { base := 0x80010, fields := [
      { hi := 31, lo := 0, acc := .rwl, rng := (.float (1) 1000), reset := [0x42c80000] }] },
  -- ACT_ACC
  { base := 0x80014, fields := [
      { hi := 31, lo := 0, acc := .rwl, rng := (.float (10) 50000), reset := [0x44fa0000] }] },
  -- ACT_TOL
  { base := 0x80018, fields := [
      { hi := 15, lo := 0, acc := .rwl, reset := [200] },
      { hi := 31, lo := 16, acc := .rwl, reset := [20] }] },
  -- ACT_SPOS_GAIN
  { base := 0x8001C, fields := [
      { hi := 31, lo := 0, acc := .rwl, rng := .finite }] },
  -- ACT_SPOS_OFS
  { base := 0x80020, fields := [
      { hi := 31, lo := 0, acc := .ro }] },
  -- ACT_HALL_MM
  { base := 0x80024, fields := [
      { hi := 31, lo := 0, acc := .rwl, rng := .finite }] },
  -- ACT_POS
  { base := 0x80028, stride := 4, count := 8, fields := [
      { hi := 31, lo := 0, acc := .rwl, rng := .finite }] },
  -- ACT_KMH
  { base := 0x80048, stride := 4, count := 8, fields := [
      { hi := 31, lo := 0, acc := .rwl, rng := .finite }] },
  -- ACT_PPOS_REL
  { base := 0x80068, fields := [
      { hi := 31, lo := 0, acc := .rwl, rng := .finite }] },
  -- ACT_PPOS_ENG
  { base := 0x8006C, fields := [
      { hi := 31, lo := 0, acc := .rwl, rng := .finite }] },
  -- ACT_PARK
  { base := 0x80070, fields := [
      { hi := 7, lo := 0, acc := .rwl, rng := (.span 10 85), reset := [35] },
      { hi := 15, lo := 8, acc := .rwl, rng := (.span 10 100), reset := [40] },
      { hi := 23, lo := 16, acc := .rwl, rng := (.span 1 60), reset := [10] }] },
  -- ACT_HOME
  { base := 0x80074, fields := [
      { hi := 7, lo := 0, acc := .rwl, rng := (.span 10 100), reset := [30] },
      { hi := 15, lo := 8, acc := .rwl, rng := (.span 1 255), reset := [20] }] },
  -- ACT_VSPD_HOST
  { base := 0x80078, fields := [
      { hi := 31, lo := 0, acc := .rw, rng := (.float (0) 250) }] },
  -- ACT_STAT
  { base := 0x8007C, fields := [
      { hi := 2, lo := 0, acc := .ro },
      { hi := 7, lo := 4, acc := .ro, reset := [15] },
      { hi := 11, lo := 8, acc := .ro },
      { hi := 12, lo := 12, acc := .ro },
      { hi := 13, lo := 13, acc := .ro },
      { hi := 14, lo := 14, acc := .ro },
      { hi := 15, lo := 15, acc := .ro },
      { hi := 17, lo := 16, acc := .ro },
      { hi := 19, lo := 18, acc := .ro }] },
  -- ACT_SPOS
  { base := 0x80080, fields := [
      { hi := 31, lo := 0, acc := .ro }] },
  -- ACT_PPOSX
  { base := 0x80084, fields := [
      { hi := 31, lo := 0, acc := .ro }] },
  -- ACT_VSPD
  { base := 0x80088, fields := [
      { hi := 31, lo := 0, acc := .ro }] },
  -- ACT_HALL
  { base := 0x8008C, fields := [
      { hi := 2, lo := 0, acc := .ro },
      { hi := 6, lo := 4, acc := .ro }] },
  -- ACT_EVT
  { base := 0x80090, fields := [
      { hi := 0, lo := 0, acc := .rcs },
      { hi := 1, lo := 1, acc := .rcs },
      { hi := 2, lo := 2, acc := .rcs },
      { hi := 3, lo := 3, acc := .rcs },
      { hi := 4, lo := 4, acc := .rcs },
      { hi := 5, lo := 5, acc := .rcs },
      { hi := 6, lo := 6, acc := .rcs },
      { hi := 31, lo := 24, acc := .rcs }] },
  -- ACT_CNT
  { base := 0x80094, fields := [
      { hi := 15, lo := 0, acc := .rw },
      { hi := 31, lo := 16, acc := .rw }] },
  -- ACT_CNT2
  { base := 0x80098, fields := [
      { hi := 15, lo := 0, acc := .rw },
      { hi := 31, lo := 16, acc := .rw }] }]

/-- Register words of the THM_ block: Tables 14.7 and 14.8. -/
def thmRegs0 : List RegRow := [
  -- THM_STAT
  { base := 0x90000, fields := [
      { hi := 15, lo := 0, acc := .ro },
      { hi := 16, lo := 16, acc := .ro },
      { hi := 17, lo := 17, acc := .ro },
      { hi := 18, lo := 18, acc := .ro },
      { hi := 19, lo := 19, acc := .ro },
      { hi := 31, lo := 24, acc := .ro }] },
  -- THM_DERATE
  { base := 0x90004, fields := [
      { hi := 8, lo := 0, acc := .ro },
      { hi := 21, lo := 16, acc := .ro }] },
  -- THM_EVT
  { base := 0x90008, fields := [
      { hi := 0, lo := 0, acc := .rcs },
      { hi := 1, lo := 1, acc := .rcs },
      { hi := 2, lo := 2, acc := .rcs },
      { hi := 3, lo := 3, acc := .rcs },
      { hi := 4, lo := 4, acc := .rcs },
      { hi := 5, lo := 5, acc := .rcs },
      { hi := 6, lo := 6, acc := .rcs },
      { hi := 7, lo := 7, acc := .rcs },
      { hi := 8, lo := 8, acc := .rcs },
      { hi := 31, lo := 24, acc := .rcs }] },
  -- THM_CNT
  { base := 0x9000C, fields := [
      { hi := 15, lo := 0, acc := .rw },
      { hi := 31, lo := 16, acc := .rw }] },
  -- THM_TCOOL
  { base := 0x90010, fields := [
      { hi := 31, lo := 0, acc := .rw, rng := (.float (-50) 150) }] },
  -- THM_RPU
  { base := 0x90014, fields := [
      { hi := 31, lo := 0, acc := .rwl, rng := .finite, reset := [0x461c4000] }] },
  -- THM_R26
  { base := 0x90018, fields := [
      { hi := 31, lo := 0, acc := .rwl, rng := .finite, reset := [0x461c4000] }] },
  -- THM_NTCCFG
  { base := 0x9001C, fields := [
      { hi := 15, lo := 0, acc := .rwl, rng := (.span 2000 5000), reset := [3435] },
      { hi := 23, lo := 16, acc := .rwl, rng := (.span 50 150), reset := [110] }] },
  -- THM_NTCT
  { base := 0x90020, stride := 4, count := 6, fields := [
      { hi := 31, lo := 0, acc := .ro }] },
  -- THM_KFAC
  { base := 0x90040, stride := 4, count := 9, fields := [
      { hi := 31, lo := 0, acc := .ro, reset := [0x3f800000] }] },
  -- THM_KPH
  { base := 0x90070, stride := 4, count := 8, fields := [
      { hi := 31, lo := 0, acc := .ro, reset := [0x3f800000] }] },
  -- THM_WEAR_RESET
  { base := 0x90090, fields := [
      { hi := 8, lo := 0, acc := .rwl },
      { hi := 31, lo := 16, acc := .ro, held := true }] },
  -- THM_SPARE
  { base := 0x90094, fields := [
      { hi := 8, lo := 0, acc := .ro, held := true },
      { hi := 24, lo := 16, acc := .ro, held := true }] },
  -- THM_STG_LIM
  { base := 0x90100, stride := 0x00080, count := 9, fields := [
      { hi := 7, lo := 0, acc := .rwl, rng := (.span 100 200), reset := [150] },
      { hi := 15, lo := 8, acc := .rwl, rng := (.span 5 50), reset := [15] },
      { hi := 23, lo := 16, acc := .rwl, rng := (.span 2 30), reset := [10] },
      { hi := 26, lo := 24, acc := .rwl, rng := (.span 0 6), reset := [0, 1, 0, 2, 3, 4, 5, 6, 6] }] },
  -- THM_STG_RF
  { base := 0x90104, stride := 0x00080, count := 9, fields := [
      { hi := 7, lo := 0, acc := .rwl, reset := [10] },
      { hi := 15, lo := 8, acc := .rwl, reset := [20] }] },
  -- THM_STG_RTH1
  { base := 0x90108, stride := 0x00080, count := 9, fields := [
      { hi := 31, lo := 0, acc := .rwl, rng := .finite }] },
  -- THM_STG_RTH2
  { base := 0x9010C, stride := 0x00080, count := 9, fields := [
      { hi := 31, lo := 0, acc := .rwl, rng := .finite }] },
  -- THM_STG_RTH3
  { base := 0x90110, stride := 0x00080, count := 9, fields := [
      { hi := 31, lo := 0, acc := .rwl, rng := .finite }] },
  -- THM_STG_RTH4
  { base := 0x90114, stride := 0x00080, count := 9, fields := [
      { hi := 31, lo := 0, acc := .rwl, rng := .finite }] },
  -- THM_STG_TAU1
  { base := 0x90118, stride := 0x00080, count := 9, fields := [
      { hi := 31, lo := 0, acc := .rwl, rng := .finite }] },
  -- THM_STG_TAU2
  { base := 0x9011C, stride := 0x00080, count := 9, fields := [
      { hi := 31, lo := 0, acc := .rwl, rng := .finite }] },
  -- THM_STG_TAU3
  { base := 0x90120, stride := 0x00080, count := 9, fields := [
      { hi := 31, lo := 0, acc := .rwl, rng := .finite }] },
  -- THM_STG_TAU4
  { base := 0x90124, stride := 0x00080, count := 9, fields := [
      { hi := 31, lo := 0, acc := .rwl, rng := .finite }] },
  -- THM_STG_V0
  { base := 0x90128, stride := 0x00080, count := 9, fields := [
      { hi := 31, lo := 0, acc := .rwl, rng := .finite }] },
  -- THM_STG_R0
  { base := 0x9012C, stride := 0x00080, count := 9, fields := [
      { hi := 31, lo := 0, acc := .rwl, rng := .finite }] },
  -- THM_STG_ESW
  { base := 0x90130, stride := 0x00080, count := 9, fields := [
      { hi := 31, lo := 0, acc := .rwl, rng := .finite }] },
  -- THM_STG_EVREF
  { base := 0x90134, stride := 0x00080, count := 9, fields := [
      { hi := 31, lo := 0, acc := .rwl, rng := .finite }] },
  -- THM_STG_EIREF
  { base := 0x90138, stride := 0x00080, count := 9, fields := [
      { hi := 31, lo := 0, acc := .rwl, rng := .finite }] },
  -- THM_STG_RNTC
  { base := 0x9013C, stride := 0x00080, count := 9, fields := [
      { hi := 31, lo := 0, acc := .rwl, rng := .finite }] },
  -- THM_STG_TAUNTC
  { base := 0x90140, stride := 0x00080, count := 9, fields := [
      { hi := 31, lo := 0, acc := .rwl, rng := .finite }] }]

/-- Register words of the THM_ block: Tables 14.7 and 14.8. -/
def thmRegs1 : List RegRow := [
  -- THM_STG_LIFE_A
  { base := 0x90144, stride := 0x00080, count := 9, fields := [
      { hi := 31, lo := 0, acc := .rwl, rng := .finite }] },
  -- THM_STG_LIFE_N
  { base := 0x90148, stride := 0x00080, count := 9, fields := [
      { hi := 31, lo := 0, acc := .rwl, rng := .finite }] },
  -- THM_STG_LIFE_Q
  { base := 0x9014C, stride := 0x00080, count := 9, fields := [
      { hi := 31, lo := 0, acc := .rwl, rng := .finite }] },
  -- THM_STG_TJLIM_EFF
  { base := 0x90150, stride := 0x00080, count := 9, fields := [
      { hi := 31, lo := 0, acc := .ro, reset := [0x43160000] }] },
  -- THM_TJ
  { base := 0x91000, stride := 4, count := 64, fields := [
      { hi := 31, lo := 0, acc := .ro }] },
  -- THM_LIFE
  { base := 0x91100, stride := 4, count := 64, fields := [
      { hi := 31, lo := 0, acc := .ro, held := true }] },
  -- THM_CYC
  { base := 0x91200, stride := 4, count := 64, fields := [
      { hi := 31, lo := 0, acc := .ro, held := true }] }]

/-- Register words of the THM_ block: Tables 14.7 and 14.8. -/
def thmRegs : List RegRow := thmRegs0 ++ thmRegs1

/-- Register words of the SLT_ block: Tables 15.12 to 15.14. -/
def sltRegs : List RegRow := [
  -- SLT_STAT
  { base := 0xA0000, fields := [
      { hi := 8, lo := 0, acc := .ro },
      { hi := 9, lo := 9, acc := .ro },
      { hi := 10, lo := 10, acc := .ro },
      { hi := 11, lo := 11, acc := .ro },
      { hi := 12, lo := 12, acc := .ro },
      { hi := 19, lo := 16, acc := .ro }] },
  -- SLT_EVT
  { base := 0xA0004, fields := [
      { hi := 0, lo := 0, acc := .rcs },
      { hi := 1, lo := 1, acc := .rcs },
      { hi := 2, lo := 2, acc := .rcs },
      { hi := 3, lo := 3, acc := .rcs },
      { hi := 4, lo := 4, acc := .rcs },
      { hi := 5, lo := 5, acc := .rcs },
      { hi := 6, lo := 6, acc := .rcs },
      { hi := 31, lo := 24, acc := .rcs }] },
  -- SLT_QA
  { base := 0xA0008, fields := [
      { hi := 15, lo := 0, acc := .ro },
      { hi := 23, lo := 16, acc := .rw }] },
  -- SLT_SIN
  { base := 0xA000C, fields := [
      { hi := 15, lo := 0, acc := .ro }] },
  -- SLT_SINFLT
  { base := 0xA0010, fields := [
      { hi := 15, lo := 0, acc := .ro }] },
  -- SLT_RST
  { base := 0xA0014, fields := [
      { hi := 0, lo := 0, acc := .ro },
      { hi := 1, lo := 1, acc := .ro },
      { hi := 2, lo := 2, acc := .ro },
      { hi := 31, lo := 16, acc := .ro }] },
  -- SLT_LOGIDX
  { base := 0xA0018, fields := [
      { hi := 15, lo := 0, acc := .ro, held := true, reset := [65535] },
      { hi := 31, lo := 16, acc := .ro, held := true, reset := [65535] }] },
  -- SLT_LIMCRC
  { base := 0xA001C, fields := [
      { hi := 31, lo := 0, acc := .ro }] },
  -- SLT_SINMASK
  { base := 0xA0020, stride := 4, count := 4, fields := [
      { hi := 8, lo := 0, acc := .rwl, reset := [123, 256, 256, 507] },
      { hi := 9, lo := 9, acc := .rwl, reset := [1] }] },
  -- SLT_CHOP
  { base := 0xA0100, fields := [
      { hi := 15, lo := 0, acc := .rwl, rng := (.span 400 1000), reset := [880] },
      { hi := 31, lo := 16, acc := .rwl, rng := (.span 400 1000), reset := [900] }] },
  -- SLT_OV
  { base := 0xA0104, fields := [
      { hi := 15, lo := 0, acc := .rwl, rng := (.span 400 1100), reset := [1000] },
      { hi := 31, lo := 16, acc := .rwl, rng := (.span 400 1100), reset := [950] }] },
  -- SLT_BUDGET
  { base := 0xA0108, fields := [
      { hi := 15, lo := 0, acc := .rwl, rng := (.span 1 4000), reset := [100] },
      { hi := 31, lo := 16, acc := .rwl, rng := (.span 1 1000), reset := [20] }] },
  -- SLT_VSCALE
  { base := 0xA010C, fields := [
      { hi := 31, lo := 0, acc := .rwl, rng := .positive }] },
  -- SLT_ISCALE
  { base := 0xA0110, fields := [
      { hi := 31, lo := 0, acc := .rwl, rng := .positive }] },
  -- SLT_HB
  { base := 0xA1000, stride := 8, count := 32, fields := [
      { hi := 15, lo := 0, acc := .rwl, reset := (List.replicate 16 1280 ++ List.replicate 16 640) },
      { hi := 31, lo := 16, acc := .rwl, reset := [640] }] },
  -- SLT_HB_FSW
  { base := 0xA1004, stride := 8, count := 32, fields := [
      { hi := 15, lo := 0, acc := .rwl, rng := (.span 1 5000), reset := (List.replicate 6 500 ++ [200, 850, 850, 850, 1250, 1250, 1250, 1250, 3200, 3200, 3200, 3200] ++ List.replicate 8 4000 ++ List.replicate 6 250) }] },
  -- SLT_TRIP
  { base := 0xA2000, stride := 0x00010, count := 32, fields := [
      { hi := 6, lo := 0, acc := .rwl, rng := (.span 0 71), reset := [32, 36, 38, 42, 44, 49, 47, 53, 57, 59, 67, 68, 69, 61, 11, 13, 12, 3, 4, 5, 6, 7, 8, 9, 10, 15, 16, 17, 18, 19, 20, 0] },
      { hi := 7, lo := 7, acc := .rwl, reset := (List.replicate 31 1 ++ [0]) },
      { hi := 8, lo := 8, acc := .rwl, reset := (List.replicate 31 1 ++ [0]) },
      { hi := 9, lo := 9, acc := .rwl, reset := (List.replicate 6 1 ++ [0, 1, 0, 1, 1, 1, 1, 1, 0, 1, 0] ++ List.replicate 14 1 ++ [0]) }] },
  -- SLT_TRIP_HI
  { base := 0xA2004, stride := 0x00010, count := 32, fields := [
      { hi := 23, lo := 0, acc := .rwl, reset := (List.replicate 14 0x666666 ++ [0xcccccc, 0x666666, 0xcccccc] ++ List.replicate 14 0x666666 ++ [0]) }] },
  -- SLT_TRIP_LO
  { base := 0xA2008, stride := 0x00010, count := 32, fields := [
      { hi := 23, lo := 0, acc := .rwl, reset := (List.replicate 14 0x99999a ++ [0, 0x99999a, 0] ++ List.replicate 14 0x99999a ++ [0]) }] },
  -- SLT_TRIP_HBMASK
  { base := 0xA200C, stride := 0x00010, count := 32, fields := [
      { hi := 31, lo := 0, acc := .rwl, reset := [7, 7, 56, 56, 64, 896, 16256, 15360, 15360, 15360, 896, 896, 896, 0x3c000, 0x3ffc000, 0x3fc0000, 0x3fc0000, 0x40000, 0x80000, 0x100000, 0x200000, 0x400000, 0x800000, 0x1000000, 0x2000000, 0x1c000000, 0x1c000000, 0x1c000000, 0xe0000000, 0xe0000000, 0xe0000000, 0] }] }]

/-- Register words of the PWR_ block: Tables 3.7 to 3.14. -/
def pwrRegs : List RegRow := [
  -- PWR_STATE
  { base := 0xB0000, fields := [
      { hi := 7, lo := 0, acc := .ro, held := true, reset := [3] },
      { hi := 15, lo := 8, acc := .ro, held := true },
      { hi := 23, lo := 16, acc := .ro, held := true },
      { hi := 24, lo := 24, acc := .ro, held := true }] },
  -- PWR_WAKE_EN
  { base := 0xB0004, fields := [
      { hi := 5, lo := 0, acc := .rw, reset := [31] }] },
  -- PWR_WAKE_SRC
  { base := 0xB0008, fields := [
      { hi := 5, lo := 0, acc := .rcs, held := true },
      { hi := 31, lo := 24, acc := .rcs, held := true }] },
  -- PWR_ALARM
  { base := 0xB000C, fields := [
      { hi := 31, lo := 0, acc := .rw }] },
  -- PWR_SUPPLY
  { base := 0xB0010, fields := [
      { hi := 15, lo := 0, acc := .ro, held := true },
      { hi := 31, lo := 16, acc := .ro, held := true }] },
  -- PWR_CFG
  { base := 0xB0014, fields := [
      { hi := 15, lo := 0, acc := .rw, reset := [600] },
      { hi := 31, lo := 16, acc := .rw, held := true }] },
  -- PWR_BKP_CTRL
  { base := 0xB0018, fields := [
      { hi := 0, lo := 0, acc := .rw, reset := [1] },
      { hi := 15, lo := 8, acc := .rwl, reset := [80] },
      { hi := 23, lo := 16, acc := .rw, reset := [40] },
      { hi := 27, lo := 24, acc := .rw, reset := [3] }] },
  -- PWR_BKP_STAT
  { base := 0xB001C, fields := [
      { hi := 3, lo := 0, acc := .ro, held := true },
      { hi := 4, lo := 4, acc := .ro, held := true, reset := [1] },
      { hi := 15, lo := 8, acc := .ro, held := true },
      { hi := 23, lo := 16, acc := .ro, held := true },
      { hi := 26, lo := 24, acc := .ro, held := true }] }]

/-- Register words of the COM_ block: Tables 4.11 to 4.14. -/
def comRegs : List RegRow := [
  -- COM_CFG
  { base := 0xC0000, fields := [
      { hi := 0, lo := 0, acc := .rwl, reset := [1] },
      { hi := 1, lo := 1, acc := .rwl },
      { hi := 2, lo := 2, acc := .rwl, reset := [1] },
      { hi := 3, lo := 3, acc := .rwl, reset := [1] },
      { hi := 4, lo := 4, acc := .rwl, reset := [1] },
      { hi := 15, lo := 8, acc := .rw, reset := [30] }] },
  -- COM_CAN_ID
  { base := 0xC0004, fields := [
      { hi := 10, lo := 0, acc := .rwl, reset := [1696] },
      { hi := 21, lo := 11, acc := .rwl, reset := [1697] },
      { hi := 29, lo := 22, acc := .rwl }] },
  -- COM_CONTACT
  { base := 0xC0008, fields := [
      { hi := 15, lo := 0, acc := .ro },
      { hi := 31, lo := 16, acc := .ro }] },
  -- COM_ERR
  { base := 0xC000C, fields := [
      { hi := 7, lo := 0, acc := .rw },
      { hi := 15, lo := 8, acc := .rw },
      { hi := 23, lo := 16, acc := .rw },
      { hi := 31, lo := 24, acc := .rw }] }]

/-- Register words of the RDG_ block: Table 16.16. -/
def rdgRegs : List RegRow := [
  -- RDG_STAT
  { base := 0xD0000, fields := [
      { hi := 1, lo := 0, acc := .ro },
      { hi := 2, lo := 2, acc := .ro },
      { hi := 3, lo := 3, acc := .ro, reset := [1] },
      { hi := 4, lo := 4, acc := .ro },
      { hi := 15, lo := 8, acc := .ro },
      { hi := 31, lo := 16, acc := .ro }] },
  -- RDG_TIME
  { base := 0xD0004, fields := [
      { hi := 31, lo := 0, acc := .ro }] },
  -- RDG_LEC
  { base := 0xD0008, fields := [
      { hi := 31, lo := 0, acc := .ro }] },
  -- RDG_ODO_H
  { base := 0xD000C, fields := [
      { hi := 31, lo := 0, acc := .ro }] },
  -- RDG_ODO_L
  { base := 0xD0010, fields := [
      { hi := 31, lo := 0, acc := .ro }] },
  -- RDG_IMP_H
  { base := 0xD0014, fields := [
      { hi := 31, lo := 0, acc := .ro }] },
  -- RDG_IMP_L
  { base := 0xD0018, fields := [
      { hi := 31, lo := 0, acc := .ro }] },
  -- RDG_EXP_H
  { base := 0xD001C, fields := [
      { hi := 31, lo := 0, acc := .ro }] },
  -- RDG_EXP_L
  { base := 0xD0020, fields := [
      { hi := 31, lo := 0, acc := .ro }] },
  -- RDG_EVTNEW
  { base := 0xD0028, fields := [
      { hi := 31, lo := 0, acc := .ro }] },
  -- RDG_DAYSEALED
  { base := 0xD002C, fields := [
      { hi := 31, lo := 0, acc := .ro }] },
  -- RDG_FWVER
  { base := 0xD0034, fields := [
      { hi := 31, lo := 0, acc := .ro }] },
  -- RDG_SPEED
  { base := 0xD0024, fields := [
      { hi := 15, lo := 0, acc := .ro }] },
  -- RDG_PENDING
  { base := 0xD0030, fields := [
      { hi := 15, lo := 0, acc := .ro }] },
  -- RDG_AGE
  { base := 0xD0038, fields := [
      { hi := 15, lo := 0, acc := .ro, reset := [65535] }] }]

/-- Register words of the IDN_ block: Table 17.8. -/
def idnRegs : List RegRow := [
  -- IDN_SERIAL_H
  { base := 0xE0000, fields := [
      { hi := 31, lo := 0, acc := .wo1, held := true }] },
  -- IDN_SERIAL_L
  { base := 0xE0004, fields := [
      { hi := 31, lo := 0, acc := .wo1, held := true }] },
  -- IDN_REV
  { base := 0xE0008, fields := [
      { hi := 7, lo := 0, acc := .wo1, held := true, reset := [67] },
      { hi := 15, lo := 8, acc := .wo1, held := true, reset := [1] }] },
  -- IDN_MAC_H
  { base := 0xE000C, fields := [
      { hi := 15, lo := 0, acc := .wo1, held := true }] },
  -- IDN_MAC_L
  { base := 0xE0010, fields := [
      { hi := 31, lo := 0, acc := .wo1, held := true }] },
  -- IDN_FWSTAT
  { base := 0xE0020, stride := 4, count := 2, fields := [
      { hi := 0, lo := 0, acc := .ro, held := true },
      { hi := 1, lo := 1, acc := .ro },
      { hi := 3, lo := 2, acc := .ro },
      { hi := 5, lo := 4, acc := .ro },
      { hi := 15, lo := 8, acc := .ro, held := true }] },
  -- IDN_VERSION
  { base := 0xE0030, stride := 4, count := 4, fields := [
      { hi := 31, lo := 0, acc := .ro }] },
  -- IDN_DEBUG
  { base := 0xE0040, fields := [
      { hi := 0, lo := 0, acc := .wo1 },
      { hi := 31, lo := 16, acc := .ro, held := true }] },
  -- IDN_DIEMIS
  { base := 0xE0048, fields := [
      { hi := 31, lo := 0, acc := .ro }] },
  -- IDN_LOT_H
  { base := 0xE0100, stride := 0x00010, count := 34, fields := [
      { hi := 31, lo := 0, acc := .wo1, held := true }] },
  -- IDN_LOT_L
  { base := 0xE0104, stride := 0x00010, count := 34, fields := [
      { hi := 31, lo := 0, acc := .wo1, held := true }] },
  -- IDN_WAFER
  { base := 0xE0108, stride := 0x00010, count := 34, fields := [
      { hi := 7, lo := 0, acc := .wo1, held := true, reset := [1] }] },
  -- IDN_XY
  { base := 0xE010C, stride := 0x00010, count := 34, fields := [
      { hi := 15, lo := 0, acc := .wo1, held := true },
      { hi := 31, lo := 16, acc := .wo1, held := true }] }]

/-- The register blocks of Table 5.1, by bits 19 to 16 of the address (R103). -/
def blockRegs : Nat → List RegRow
  | 0 => sysRegs
  | 1 => pwmRegs
  | 2 => gzRegs
  | 3 => leRegs
  | 4 => gdRegs
  | 5 => trcRegs
  | 6 => chgRegs
  | 7 => auxRegs
  | 8 => actRegs
  | 9 => thmRegs
  | 10 => sltRegs
  | 11 => pwrRegs
  | 12 => comRegs
  | 13 => rdgRegs
  | 14 => idnRegs
  | _ => []

/-- The row of the map and the instance an address names; none for a word no chapter assigns (R104). -/
def findReg (a : Nat) : Option (RegRow × Nat) :=
  (blockRegs (a / 65536)).findSome? fun r =>
    if r.base ≤ a ∧ (a - r.base) % r.stride = 0 ∧ (a - r.base) / r.stride < r.count
    then some (r, (a - r.base) / r.stride) else none

/-- The fields of a word: none where no chapter assigns it. -/
def fieldsAt (a : Nat) : List FieldRow :=
  match findReg a with
  | some (r, _) => r.fields
  | none => []

/-- The reset value of a field in one instance of its register. -/
def FieldRow.resetAt (f : FieldRow) (i : Nat) : Nat :=
  match f.reset with
  | [v] => v
  | vs => vs.getD i 0

/-- The bits a field occupies, as a mask over the word. -/
def fieldMask (hi lo : Nat) : Nat := (2 ^ (hi + 1 - lo) - 1) * 2 ^ lo

/-- The word at reset: the Reset column of its map (R6), reserved bits 0 (R7). -/
def resetWord (a : Nat) : Word :=
  match findReg a with
  | some (r, i) => BitVec.ofNat 32 ((r.fields.map fun f => f.resetAt i % 2 ^ (f.hi + 1 - f.lo) * 2 ^ f.lo).sum)
  | none => 0

/-- The bits of a word held by some field that satisfies p. -/
def maskWhere (p : FieldRow → Bool) (a : Nat) : Nat :=
  (((fieldsAt a).filter p).map fun f => fieldMask f.hi f.lo).sum

/-- Bits that keep their value through NRST and every boot: fields held by the Eave, persistent fields (R6). -/
def heldMask (a : Nat) : Nat := maskWhere (fun f => f.held) a

end Sys2Proof.Machine
end

