-- ==== Sys2Proof/Machine/Fields.lean ====
section
/-! DEFINITION. The name of every register field: PWR_STATE.STATE is F.PWR_STATE_STATE, and a field of a register array takes its instance number. -/

namespace Sys2Proof.Machine.F

/-- SYS_BOOT.RECOVERY -/
def SYS_BOOT_RECOVERY : Fld := ⟨0x00000, 0, 0⟩
/-- SYS_BOOT.IMG_DEFAULT -/
def SYS_BOOT_IMG_DEFAULT : Fld := ⟨0x00000, 1, 1⟩
/-- SYS_BOOT.FW_FALLBACK -/
def SYS_BOOT_FW_FALLBACK : Fld := ⟨0x00000, 2, 2⟩
/-- SYS_BOOT.LOOP_NONE -/
def SYS_BOOT_LOOP_NONE : Fld := ⟨0x00000, 3, 3⟩
/-- SYS_BOOT.ACTIVE_SLOT -/
def SYS_BOOT_ACTIVE_SLOT : Fld := ⟨0x00000, 4, 4⟩
/-- SYS_BOOT.BOOT_MS -/
def SYS_BOOT_BOOT_MS : Fld := ⟨0x00000, 15, 8⟩
/-- SYS_BOOT.BOOT_COUNT -/
def SYS_BOOT_BOOT_COUNT : Fld := ⟨0x00000, 31, 16⟩
/-- SYS_WRSTAT.FORCED -/
def SYS_WRSTAT_FORCED : Fld := ⟨0x00004, 0, 0⟩
/-- SYS_WRSTAT.LOCKED_W -/
def SYS_WRSTAT_LOCKED_W : Fld := ⟨0x00004, 1, 1⟩
/-- SYS_WRSTAT.WO1_W -/
def SYS_WRSTAT_WO1_W : Fld := ⟨0x00004, 2, 2⟩
/-- SYS_WRSTAT.MIRROR_W -/
def SYS_WRSTAT_MIRROR_W : Fld := ⟨0x00004, 3, 3⟩
/-- SYS_WRSTAT.HOLD_EXP -/
def SYS_WRSTAT_HOLD_EXP : Fld := ⟨0x00004, 4, 4⟩
/-- SYS_WRSTAT.SEQ -/
def SYS_WRSTAT_SEQ : Fld := ⟨0x00004, 31, 24⟩
/-- SYS_LOCKVIOL.COUNT -/
def SYS_LOCKVIOL_COUNT : Fld := ⟨0x00008, 15, 0⟩
/-- SYS_LOCKVIOL.WRITER -/
def SYS_LOCKVIOL_WRITER : Fld := ⟨0x00008, 17, 16⟩
/-- SYS_LOCKVIOL.ENGINE -/
def SYS_LOCKVIOL_ENGINE : Fld := ⟨0x00008, 21, 18⟩
/-- SYS_LOCKADDR.ADDR -/
def SYS_LOCKADDR : Fld := ⟨0x0000C, 31, 0⟩
/-- SYS_LOCK.LOCK -/
def SYS_LOCK_LOCK : Fld := ⟨0x00010, 0, 0⟩
/-- SYS_LOCK.ARMED_LOCK -/
def SYS_LOCK_ARMED_LOCK : Fld := ⟨0x00010, 1, 1⟩
/-- SYS_APPLY.HOLD -/
def SYS_APPLY_HOLD : Fld := ⟨0x00014, 0, 0⟩
/-- SYS_APPLY.HELD -/
def SYS_APPLY_HELD : Fld := ⟨0x00014, 15, 8⟩
/-- SYS_MBX_CTRL.SEL -/
def SYS_MBX_CTRL_SEL : Fld := ⟨0x00020, 15, 0⟩
/-- SYS_MBX_CTRL.VALID -/
def SYS_MBX_CTRL_VALID : Fld := ⟨0x00020, 16, 16⟩
/-- SYS_MBX_CTRL.EXPIRED -/
def SYS_MBX_CTRL_EXPIRED : Fld := ⟨0x00020, 17, 17⟩
/-- SYS_MBX_CTRL.WORDS -/
def SYS_MBX_CTRL_WORDS : Fld := ⟨0x00020, 23, 20⟩
/-- SYS_MBX_W.WORD -/
def SYS_MBX_W (n : Nat) : Fld := ⟨0x00024 + 4 * n, 31, 0⟩
/-- SYS_IMG.VERSION -/
def SYS_IMG : Fld := ⟨0x00044, 31, 0⟩
/-- SYS_IMG_FLOOR.FLOOR -/
def SYS_IMG_FLOOR : Fld := ⟨0x00048, 31, 0⟩
/-- SYS_IMG_STAGE.STATE -/
def SYS_IMG_STAGE_STATE : Fld := ⟨0x0004C, 1, 0⟩
/-- SYS_IMG_STAGE.ERR_RECORD -/
def SYS_IMG_STAGE_ERR_RECORD : Fld := ⟨0x0004C, 31, 16⟩
/-- PWM_CARRUN.RUNNING -/
def PWM_CARRUN : Fld := ⟨0x10000, 15, 0⟩
/-- PWM_EVT.PERCLAMP -/
def PWM_EVT_PERCLAMP : Fld := ⟨0x10004, 0, 0⟩
/-- PWM_EVT.FOREIGN -/
def PWM_EVT_FOREIGN : Fld := ⟨0x10004, 1, 1⟩
/-- PWM_EVT.REFLOST -/
def PWM_EVT_REFLOST : Fld := ⟨0x10004, 2, 2⟩
/-- PWM_EVT.SEQ -/
def PWM_EVT_SEQ : Fld := ⟨0x10004, 31, 24⟩
/-- PWM_FOREIGN.CHANNEL -/
def PWM_FOREIGN_CHANNEL : Fld := ⟨0x10008, 5, 0⟩
/-- PWM_FOREIGN.ENGINE -/
def PWM_FOREIGN_ENGINE : Fld := ⟨0x10008, 11, 8⟩
/-- PWM_CAR_CTRL.RUN -/
def PWM_CAR_CTRL_RUN (n : Nat) : Fld := ⟨0x10100 + 0x00020 * n, 0, 0⟩
/-- PWM_CAR_CTRL.REF -/
def PWM_CAR_CTRL_REF (n : Nat) : Fld := ⟨0x10100 + 0x00020 * n, 7, 4⟩
/-- PWM_CAR_CTRL.PHMODE -/
def PWM_CAR_CTRL_PHMODE (n : Nat) : Fld := ⟨0x10100 + 0x00020 * n, 8, 8⟩
/-- PWM_CAR_PERIOD.PERIOD -/
def PWM_CAR_PERIOD (n : Nat) : Fld := ⟨0x10104 + 0x00020 * n, 23, 0⟩
/-- PWM_CAR_PHASE.PHASE -/
def PWM_CAR_PHASE (n : Nat) : Fld := ⟨0x10108 + 0x00020 * n, 23, 0⟩
/-- PWM_CAR_START_H.START_H -/
def PWM_CAR_START_H (n : Nat) : Fld := ⟨0x1010C + 0x00020 * n, 31, 0⟩
/-- PWM_CAR_START_L.START_L -/
def PWM_CAR_START_L (n : Nat) : Fld := ⟨0x10110 + 0x00020 * n, 31, 0⟩
/-- PWM_CAR_EFF.PERIOD -/
def PWM_CAR_EFF (n : Nat) : Fld := ⟨0x10114 + 0x00020 * n, 23, 0⟩
/-- PWM_CAR_COUNT.PERIODS -/
def PWM_CAR_COUNT (n : Nat) : Fld := ⟨0x10118 + 0x00020 * n, 31, 0⟩
/-- PWM_CH_ON.ON -/
def PWM_CH_ON (n : Nat) : Fld := ⟨0x11000 + 0x00010 * n, 23, 0⟩
/-- PWM_CH_OFF.OFF -/
def PWM_CH_OFF (n : Nat) : Fld := ⟨0x11004 + 0x00010 * n, 23, 0⟩
/-- PWM_CH_DT.DT -/
def PWM_CH_DT (n : Nat) : Fld := ⟨0x11008 + 0x00010 * n, 15, 0⟩
/-- PWM_CH_DTEFF.DT_EFF -/
def PWM_CH_DTEFF (n : Nat) : Fld := ⟨0x1100C + 0x00010 * n, 15, 0⟩
/-- PWM_HB_CFG.MODE -/
def PWM_HB_CFG_MODE (n : Nat) : Fld := ⟨0x12000 + 0x00020 * n, 1, 0⟩
/-- PWM_HB_CFG.CARRY -/
def PWM_HB_CFG_CARRY (n : Nat) : Fld := ⟨0x12000 + 0x00020 * n, 2, 2⟩
/-- PWM_HB_CFG.CAR -/
def PWM_HB_CFG_CAR (n : Nat) : Fld := ⟨0x12000 + 0x00020 * n, 7, 4⟩
/-- PWM_HB_CFG.BOOT -/
def PWM_HB_CFG_BOOT (n : Nat) : Fld := ⟨0x12000 + 0x00020 * n, 8, 8⟩
/-- PWM_HB_MINP.TMINP -/
def PWM_HB_MINP_TMINP (n : Nat) : Fld := ⟨0x12004 + 0x00020 * n, 15, 0⟩
/-- PWM_HB_MINP.TMINP_EFF -/
def PWM_HB_MINP_TMINP_EFF (n : Nat) : Fld := ⟨0x12004 + 0x00020 * n, 31, 16⟩
/-- PWM_HB_REFR.TREFR -/
def PWM_HB_REFR_TREFR (n : Nat) : Fld := ⟨0x12008 + 0x00020 * n, 15, 0⟩
/-- PWM_HB_REFR.NREFR -/
def PWM_HB_REFR_NREFR (n : Nat) : Fld := ⟨0x12008 + 0x00020 * n, 23, 16⟩
/-- PWM_HB_CARRYVAL.C -/
def PWM_HB_CARRYVAL (n : Nat) : Fld := ⟨0x1200C + 0x00020 * n, 31, 0⟩
/-- PWM_HB_EVT.CMPCLAMP -/
def PWM_HB_EVT_CMPCLAMP (n : Nat) : Fld := ⟨0x12010 + 0x00020 * n, 0, 0⟩
/-- PWM_HB_EVT.CMPORDER -/
def PWM_HB_EVT_CMPORDER (n : Nat) : Fld := ⟨0x12010 + 0x00020 * n, 1, 1⟩
/-- PWM_HB_EVT.DROP_HI -/
def PWM_HB_EVT_DROP_HI (n : Nat) : Fld := ⟨0x12010 + 0x00020 * n, 2, 2⟩
/-- PWM_HB_EVT.DROP_LO -/
def PWM_HB_EVT_DROP_LO (n : Nat) : Fld := ⟨0x12010 + 0x00020 * n, 3, 3⟩
/-- PWM_HB_EVT.STRETCH -/
def PWM_HB_EVT_STRETCH (n : Nat) : Fld := ⟨0x12010 + 0x00020 * n, 4, 4⟩
/-- PWM_HB_EVT.REFR -/
def PWM_HB_EVT_REFR (n : Nat) : Fld := ⟨0x12010 + 0x00020 * n, 5, 5⟩
/-- PWM_HB_EVT.BSTUV -/
def PWM_HB_EVT_BSTUV (n : Nat) : Fld := ⟨0x12010 + 0x00020 * n, 6, 6⟩
/-- PWM_HB_EVT.REFRFAIL -/
def PWM_HB_EVT_REFRFAIL (n : Nat) : Fld := ⟨0x12010 + 0x00020 * n, 7, 7⟩
/-- PWM_HB_EVT.SEQ -/
def PWM_HB_EVT_SEQ (n : Nat) : Fld := ⟨0x12010 + 0x00020 * n, 31, 24⟩
/-- PWM_HB_CNT.DROPS -/
def PWM_HB_CNT_DROPS (n : Nat) : Fld := ⟨0x12014 + 0x00020 * n, 15, 0⟩
/-- PWM_HB_CNT.REFRESHES -/
def PWM_HB_CNT_REFRESHES (n : Nat) : Fld := ⟨0x12014 + 0x00020 * n, 31, 16⟩
/-- PWM_WIN_CFG.EN -/
def PWM_WIN_CFG_EN (n : Nat) : Fld := ⟨0x13000 + 0x00020 * n, 0, 0⟩
/-- PWM_WIN_CFG.HBA -/
def PWM_WIN_CFG_HBA (n : Nat) : Fld := ⟨0x13000 + 0x00020 * n, 12, 8⟩
/-- PWM_WIN_CFG.HBB -/
def PWM_WIN_CFG_HBB (n : Nat) : Fld := ⟨0x13000 + 0x00020 * n, 20, 16⟩
/-- PWM_WIN_CFG.HBC -/
def PWM_WIN_CFG_HBC (n : Nat) : Fld := ⟨0x13000 + 0x00020 * n, 28, 24⟩
/-- PWM_WIN_POS.WINPOS -/
def PWM_WIN_POS (n : Nat) : Fld := ⟨0x13004 + 0x00020 * n, 23, 0⟩
/-- PWM_WIN_TWIN.TWIN -/
def PWM_WIN_TWIN (n : Nat) : Fld := ⟨0x13008 + 0x00020 * n, 23, 0⟩
/-- PWM_WIN_STAT.SAMPLED -/
def PWM_WIN_STAT_SAMPLED (n : Nat) : Fld := ⟨0x1300C + 0x00020 * n, 2, 0⟩
/-- PWM_WIN_STAT.LATER -/
def PWM_WIN_STAT_LATER (n : Nat) : Fld := ⟨0x1300C + 0x00020 * n, 6, 4⟩
/-- PWM_WIN_STAT.EARLIER -/
def PWM_WIN_STAT_EARLIER (n : Nat) : Fld := ⟨0x1300C + 0x00020 * n, 10, 8⟩
/-- PWM_WIN_STAT.WINFAIL -/
def PWM_WIN_STAT_WINFAIL (n : Nat) : Fld := ⟨0x1300C + 0x00020 * n, 12, 12⟩
/-- PWM_WIN_STAT.CFGERR -/
def PWM_WIN_STAT_CFGERR (n : Nat) : Fld := ⟨0x1300C + 0x00020 * n, 13, 13⟩
/-- PWM_WIN_START.W0 -/
def PWM_WIN_START (n : Nat) : Fld := ⟨0x13010 + 0x00020 * n, 23, 0⟩
/-- PWM_WIN_CNT.SHIFTS -/
def PWM_WIN_CNT_SHIFTS (n : Nat) : Fld := ⟨0x13014 + 0x00020 * n, 15, 0⟩
/-- PWM_WIN_CNT.FAILS -/
def PWM_WIN_CNT_FAILS (n : Nat) : Fld := ⟨0x13014 + 0x00020 * n, 31, 16⟩
/-- GZ_STAT.REF_ON -/
def GZ_STAT_REF_ON : Fld := ⟨0x20000, 3, 0⟩
/-- GZ_STAT.REF_OK -/
def GZ_STAT_REF_OK : Fld := ⟨0x20000, 7, 4⟩
/-- GZ_STAT.CAL_BUSY -/
def GZ_STAT_CAL_BUSY : Fld := ⟨0x20000, 8, 8⟩
/-- GZ_STAT.CAL_WAIT -/
def GZ_STAT_CAL_WAIT : Fld := ⟨0x20000, 9, 9⟩
/-- GZ_STAT.CAL_FAIL -/
def GZ_STAT_CAL_FAIL : Fld := ⟨0x20000, 10, 10⟩
/-- GZ_STAT.CAL_FAILCH -/
def GZ_STAT_CAL_FAILCH : Fld := ⟨0x20000, 22, 16⟩
/-- GZ_STAT.INJ_PENDING -/
def GZ_STAT_INJ_PENDING : Fld := ⟨0x20000, 27, 24⟩
/-- GZ_OVR.OVR -/
def GZ_OVR_OVR (n : Nat) : Fld := ⟨0x20008 + 4 * n, 23, 0⟩
/-- GZ_OVR.SEQ -/
def GZ_OVR_SEQ (n : Nat) : Fld := ⟨0x20008 + 4 * n, 31, 24⟩
/-- GZ_FLT.XB_FLAT -/
def GZ_FLT_XB_FLAT : Fld := ⟨0x20014, 7, 0⟩
/-- GZ_FLT.REF_FAULT -/
def GZ_FLT_REF_FAULT : Fld := ⟨0x20014, 11, 8⟩
/-- GZ_FLT.SEQ -/
def GZ_FLT_SEQ : Fld := ⟨0x20014, 31, 24⟩
/-- GZ_XBCTL.XBPH0 -/
def GZ_XBCTL_XBPH0 : Fld := ⟨0x20018, 2, 0⟩
/-- GZ_XBCTL.XBPH1 -/
def GZ_XBCTL_XBPH1 : Fld := ⟨0x20018, 6, 4⟩
/-- GZ_XBCTL.XBCLKEN0 -/
def GZ_XBCTL_XBCLKEN0 : Fld := ⟨0x20018, 8, 8⟩
/-- GZ_XBCTL.XBCLKEN1 -/
def GZ_XBCTL_XBCLKEN1 : Fld := ⟨0x20018, 9, 9⟩
/-- GZ_CH_CFG.MODE -/
def GZ_CH_CFG_MODE (n : Nat) : Fld := ⟨0x21000 + 0x00040 * n, 1, 0⟩
/-- GZ_CH_CFG.RANGE -/
def GZ_CH_CFG_RANGE (n : Nat) : Fld := ⟨0x21000 + 0x00040 * n, 2, 2⟩
/-- GZ_CH_CFG.SE -/
def GZ_CH_CFG_SE (n : Nat) : Fld := ⟨0x21000 + 0x00040 * n, 3, 3⟩
/-- GZ_CH_CFG.AVG -/
def GZ_CH_CFG_AVG (n : Nat) : Fld := ⟨0x21000 + 0x00040 * n, 4, 4⟩
/-- GZ_CH_CFG.PATH -/
def GZ_CH_CFG_PATH (n : Nat) : Fld := ⟨0x21000 + 0x00040 * n, 5, 5⟩
/-- GZ_CH_CFG.FREE -/
def GZ_CH_CFG_FREE (n : Nat) : Fld := ⟨0x21000 + 0x00040 * n, 6, 6⟩
/-- GZ_CH_CFG.ALIGN -/
def GZ_CH_CFG_ALIGN (n : Nat) : Fld := ⟨0x21000 + 0x00040 * n, 7, 7⟩
/-- GZ_CH_CFG.CAR -/
def GZ_CH_CFG_CAR (n : Nat) : Fld := ⟨0x21000 + 0x00040 * n, 11, 8⟩
/-- GZ_CH_CFG.WINU -/
def GZ_CH_CFG_WINU (n : Nat) : Fld := ⟨0x21000 + 0x00040 * n, 12, 12⟩
/-- GZ_CH_CFG.WINPH -/
def GZ_CH_CFG_WINPH (n : Nat) : Fld := ⟨0x21000 + 0x00040 * n, 14, 13⟩
/-- GZ_CH_SCHED.OFS -/
def GZ_CH_SCHED_OFS (n : Nat) : Fld := ⟨0x21004 + 0x00040 * n, 23, 0⟩
/-- GZ_CH_SCHED.DIV -/
def GZ_CH_SCHED_DIV (n : Nat) : Fld := ⟨0x21004 + 0x00040 * n, 31, 24⟩
/-- GZ_CH_ROUTE.FASTMASK -/
def GZ_CH_ROUTE_FASTMASK (n : Nat) : Fld := ⟨0x21008 + 0x00040 * n, 15, 0⟩
/-- GZ_CH_ROUTE.FINEMASK -/
def GZ_CH_ROUTE_FINEMASK (n : Nat) : Fld := ⟨0x21008 + 0x00040 * n, 31, 16⟩
/-- GZ_CH_CAL.OFFSET -/
def GZ_CH_CAL_OFFSET (n : Nat) : Fld := ⟨0x2100C + 0x00040 * n, 15, 0⟩
/-- GZ_CH_CAL.GAIN -/
def GZ_CH_CAL_GAIN (n : Nat) : Fld := ⟨0x2100C + 0x00040 * n, 31, 16⟩
/-- GZ_CH_COMP.WORD -/
def GZ_CH_COMP (n : Nat) : Fld := ⟨0x21010 + 0x00040 * n, 31, 0⟩
/-- GZ_CH_FAST.WORD -/
def GZ_CH_FAST (n : Nat) : Fld := ⟨0x21014 + 0x00040 * n, 31, 0⟩
/-- GZ_CH_FINE.WORD -/
def GZ_CH_FINE (n : Nat) : Fld := ⟨0x21018 + 0x00040 * n, 31, 0⟩
/-- GZ_CH_STAT.VALID -/
def GZ_CH_STAT_VALID (n : Nat) : Fld := ⟨0x2101C + 0x00040 * n, 0, 0⟩
/-- GZ_CH_STAT.OVR -/
def GZ_CH_STAT_OVR (n : Nat) : Fld := ⟨0x2101C + 0x00040 * n, 1, 1⟩
/-- GZ_CH_STAT.NBR -/
def GZ_CH_STAT_NBR (n : Nat) : Fld := ⟨0x2101C + 0x00040 * n, 2, 2⟩
/-- GZ_CH_STAT.CAL -/
def GZ_CH_STAT_CAL (n : Nat) : Fld := ⟨0x2101C + 0x00040 * n, 3, 3⟩
/-- GZ_CH_STAT.TAG -/
def GZ_CH_STAT_TAG (n : Nat) : Fld := ⟨0x2101C + 0x00040 * n, 4, 4⟩
/-- GZ_CH_STAT.SHORTWIN -/
def GZ_CH_STAT_SHORTWIN (n : Nat) : Fld := ⟨0x2101C + 0x00040 * n, 5, 5⟩
/-- GZ_CH_STAT.BADIN -/
def GZ_CH_STAT_BADIN (n : Nat) : Fld := ⟨0x2101C + 0x00040 * n, 6, 6⟩
/-- GZ_CH_STAT.PWRDN -/
def GZ_CH_STAT_PWRDN (n : Nat) : Fld := ⟨0x2101C + 0x00040 * n, 8, 8⟩
/-- GZ_CH_STAT.SLOTLEAD -/
def GZ_CH_STAT_SLOTLEAD (n : Nat) : Fld := ⟨0x2101C + 0x00040 * n, 9, 9⟩
/-- GZ_CH_STAT.CLKLOSS -/
def GZ_CH_STAT_CLKLOSS (n : Nat) : Fld := ⟨0x2101C + 0x00040 * n, 10, 10⟩
/-- GZ_CH_CNT.OVRCNT -/
def GZ_CH_CNT_OVRCNT (n : Nat) : Fld := ⟨0x21020 + 0x00040 * n, 15, 0⟩
/-- GZ_CH_CNT.SKIPS -/
def GZ_CH_CNT_SKIPS (n : Nat) : Fld := ⟨0x21020 + 0x00040 * n, 31, 16⟩
/-- LE_RUN.RUNNING -/
def LE_RUN_RUNNING : Fld := ⟨0x30000, 15, 0⟩
/-- LE_RUN.LOADED -/
def LE_RUN_LOADED : Fld := ⟨0x30000, 31, 16⟩
/-- LE_BANK.ACTIVE -/
def LE_BANK_ACTIVE : Fld := ⟨0x30004, 15, 0⟩
/-- LE_BANK.PEND -/
def LE_BANK_PEND : Fld := ⟨0x30004, 31, 16⟩
/-- LE_LOADSTAT.ERRWORD -/
def LE_LOADSTAT_ERRWORD : Fld := ⟨0x30008, 11, 0⟩
/-- LE_LOADSTAT.ENGINE -/
def LE_LOADSTAT_ENGINE : Fld := ⟨0x30008, 15, 12⟩
/-- LE_LOADSTAT.ERRCODE -/
def LE_LOADSTAT_ERRCODE : Fld := ⟨0x30008, 23, 16⟩
/-- LE_CFG.PACE -/
def LE_CFG_PACE (n : Nat) : Fld := ⟨0x31000 + 0x00080 * n, 1, 0⟩
/-- LE_CFG.CAR -/
def LE_CFG_CAR (n : Nat) : Fld := ⟨0x31000 + 0x00080 * n, 7, 4⟩
/-- LE_CFG.DIV -/
def LE_CFG_DIV (n : Nat) : Fld := ⟨0x31000 + 0x00080 * n, 15, 8⟩
/-- LE_CFG.STAGES -/
def LE_CFG_STAGES (n : Nat) : Fld := ⟨0x31000 + 0x00080 * n, 24, 16⟩
/-- LE_CFG.SATCLS -/
def LE_CFG_SATCLS (n : Nat) : Fld := ⟨0x31000 + 0x00080 * n, 26, 26⟩
/-- LE_CFG.FECLS -/
def LE_CFG_FECLS (n : Nat) : Fld := ⟨0x31000 + 0x00080 * n, 27, 27⟩
/-- LE_SLOT.SLOTOFS -/
def LE_SLOT_SLOTOFS (n : Nat) : Fld := ⟨0x31004 + 0x00080 * n, 23, 0⟩
/-- LE_SLOT.DLMARGIN -/
def LE_SLOT_DLMARGIN (n : Nat) : Fld := ⟨0x31004 + 0x00080 * n, 31, 24⟩
/-- LE_TIMER.PERIOD -/
def LE_TIMER (n : Nat) : Fld := ⟨0x31008 + 0x00080 * n, 23, 0⟩
/-- LE_TIMER2.PERIOD_ALT -/
def LE_TIMER2 (n : Nat) : Fld := ⟨0x3100C + 0x00080 * n, 23, 0⟩
/-- LE_MODE.MODE -/
def LE_MODE_MODE (n : Nat) : Fld := ⟨0x31010 + 0x00080 * n, 1, 0⟩
/-- LE_MODE.ALT -/
def LE_MODE_ALT (n : Nat) : Fld := ⟨0x31010 + 0x00080 * n, 2, 2⟩
/-- LE_MODE.HALTED -/
def LE_MODE_HALTED (n : Nat) : Fld := ⟨0x31010 + 0x00080 * n, 3, 3⟩
/-- LE_MODE.TRACK -/
def LE_MODE_TRACK (n : Nat) : Fld := ⟨0x31010 + 0x00080 * n, 11, 8⟩
/-- LE_WCET.WCET -/
def LE_WCET (n : Nat) : Fld := ⟨0x31014 + 0x00080 * n, 23, 0⟩
/-- LE_EXEC.LAST -/
def LE_EXEC (n : Nat) : Fld := ⟨0x31018 + 0x00080 * n, 23, 0⟩
/-- LE_PEAK.PEAK -/
def LE_PEAK (n : Nat) : Fld := ⟨0x3101C + 0x00080 * n, 23, 0⟩
/-- LE_CNT.LATES -/
def LE_CNT_LATES (n : Nat) : Fld := ⟨0x31020 + 0x00080 * n, 15, 0⟩
/-- LE_CNT.CONSEC -/
def LE_CNT_CONSEC (n : Nat) : Fld := ⟨0x31020 + 0x00080 * n, 23, 16⟩
/-- LE_CNT.ECC -/
def LE_CNT_ECC (n : Nat) : Fld := ⟨0x31020 + 0x00080 * n, 31, 24⟩
/-- LE_EVT.LATE -/
def LE_EVT_LATE (n : Nat) : Fld := ⟨0x31024 + 0x00080 * n, 0, 0⟩
/-- LE_EVT.LATE3 -/
def LE_EVT_LATE3 (n : Nat) : Fld := ⟨0x31024 + 0x00080 * n, 1, 1⟩
/-- LE_EVT.LATE10 -/
def LE_EVT_LATE10 (n : Nat) : Fld := ⟨0x31024 + 0x00080 * n, 2, 2⟩
/-- LE_EVT.HUNG -/
def LE_EVT_HUNG (n : Nat) : Fld := ⟨0x31024 + 0x00080 * n, 3, 3⟩
/-- LE_EVT.SATEXP -/
def LE_EVT_SATEXP (n : Nat) : Fld := ⟨0x31024 + 0x00080 * n, 4, 4⟩
/-- LE_EVT.FEEXP -/
def LE_EVT_FEEXP (n : Nat) : Fld := ⟨0x31024 + 0x00080 * n, 5, 5⟩
/-- LE_EVT.DWELLEXP -/
def LE_EVT_DWELLEXP (n : Nat) : Fld := ⟨0x31024 + 0x00080 * n, 6, 6⟩
/-- LE_EVT.FFVIN -/
def LE_EVT_FFVIN (n : Nat) : Fld := ⟨0x31024 + 0x00080 * n, 7, 7⟩
/-- LE_EVT.SEQ -/
def LE_EVT_SEQ (n : Nat) : Fld := ⟨0x31024 + 0x00080 * n, 31, 24⟩
/-- LE_SAT.SAT_LIM -/
def LE_SAT_SAT_LIM (n : Nat) : Fld := ⟨0x31028 + 0x00080 * n, 15, 0⟩
/-- LE_SAT.SAT_T -/
def LE_SAT_SAT_T (n : Nat) : Fld := ⟨0x31028 + 0x00080 * n, 31, 16⟩
/-- LE_FE.FE_LIM -/
def LE_FE_FE_LIM (n : Nat) : Fld := ⟨0x3102C + 0x00080 * n, 15, 0⟩
/-- LE_FE.FE_T -/
def LE_FE_FE_T (n : Nat) : Fld := ⟨0x3102C + 0x00080 * n, 31, 16⟩
/-- LE_FELIM.FELIM -/
def LE_FELIM (n : Nat) : Fld := ⟨0x31030 + 0x00080 * n, 31, 0⟩
/-- LE_DWELL.DWELL_LIM -/
def LE_DWELL_DWELL_LIM (n : Nat) : Fld := ⟨0x31034 + 0x00080 * n, 15, 0⟩
/-- LE_DWELL.DWELL_T -/
def LE_DWELL_DWELL_T (n : Nat) : Fld := ⟨0x31034 + 0x00080 * n, 31, 16⟩
/-- LE_FFCFG.VIN -/
def LE_FFCFG_VIN (n : Nat) : Fld := ⟨0x31038 + 0x00080 * n, 6, 0⟩
/-- LE_FFCFG.ACCEN -/
def LE_FFCFG_ACCEN (n : Nat) : Fld := ⟨0x31038 + 0x00080 * n, 7, 7⟩
/-- LE_FFHB.HBMASK -/
def LE_FFHB (n : Nat) : Fld := ⟨0x3103C + 0x00080 * n, 31, 0⟩
/-- LE_FFSCALE.FFSCALE -/
def LE_FFSCALE (n : Nat) : Fld := ⟨0x31040 + 0x00080 * n, 31, 0⟩
/-- LE_KACC.KACC -/
def LE_KACC (n : Nat) : Fld := ⟨0x31044 + 0x00080 * n, 31, 0⟩
/-- LE_FFACC.FFACC -/
def LE_FFACC (n : Nat) : Fld := ⟨0x31048 + 0x00080 * n, 31, 0⟩
/-- LE_FFSTAT.CLAMPED -/
def LE_FFSTAT_CLAMPED (n : Nat) : Fld := ⟨0x3104C + 0x00080 * n, 0, 0⟩
/-- LE_FFSTAT.MODEERR -/
def LE_FFSTAT_MODEERR (n : Nat) : Fld := ⟨0x3104C + 0x00080 * n, 1, 1⟩
/-- LE_FFSTAT.VIN_AGE -/
def LE_FFSTAT_VIN_AGE (n : Nat) : Fld := ⟨0x3104C + 0x00080 * n, 15, 8⟩
/-- LE_MAN0.MAN -/
def LE_MAN0 (n : Nat) : Fld := ⟨0x31050 + 0x00080 * n, 31, 0⟩
/-- LE_MAN1.MAN -/
def LE_MAN1 (n : Nat) : Fld := ⟨0x31054 + 0x00080 * n, 31, 0⟩
/-- LE_MAN2.MAN -/
def LE_MAN2 (n : Nat) : Fld := ⟨0x31058 + 0x00080 * n, 31, 0⟩
/-- LE_MAN3.MAN -/
def LE_MAN3 (n : Nat) : Fld := ⟨0x3105C + 0x00080 * n, 31, 0⟩
/-- LE_OUT0.OUT -/
def LE_OUT0 (n : Nat) : Fld := ⟨0x31060 + 0x00080 * n, 31, 0⟩
/-- LE_OUT1.OUT -/
def LE_OUT1 (n : Nat) : Fld := ⟨0x31064 + 0x00080 * n, 31, 0⟩
/-- LE_OUT2.OUT -/
def LE_OUT2 (n : Nat) : Fld := ⟨0x31068 + 0x00080 * n, 31, 0⟩
/-- LE_OUT3.OUT -/
def LE_OUT3 (n : Nat) : Fld := ⟨0x3106C + 0x00080 * n, 31, 0⟩
/-- LE_OUT4.OUT -/
def LE_OUT4 (n : Nat) : Fld := ⟨0x31070 + 0x00080 * n, 31, 0⟩
/-- LE_OUT5.OUT -/
def LE_OUT5 (n : Nat) : Fld := ⟨0x31074 + 0x00080 * n, 31, 0⟩
/-- LE_OUT6.OUT -/
def LE_OUT6 (n : Nat) : Fld := ⟨0x31078 + 0x00080 * n, 31, 0⟩
/-- LE_OUT7.OUT -/
def LE_OUT7 (n : Nat) : Fld := ⟨0x3107C + 0x00080 * n, 31, 0⟩
/-- GD_STAT.DRVEN -/
def GD_STAT_DRVEN : Fld := ⟨0x40000, 0, 0⟩
/-- GD_STAT.TRIPIN -/
def GD_STAT_TRIPIN : Fld := ⟨0x40000, 4, 1⟩
/-- GD_STAT.VDRV_OK -/
def GD_STAT_VDRV_OK : Fld := ⟨0x40000, 5, 5⟩
/-- GD_STAT.CHOP_BLOCK -/
def GD_STAT_CHOP_BLOCK : Fld := ⟨0x40000, 6, 6⟩
/-- GD_STAT.OV -/
def GD_STAT_OV : Fld := ⟨0x40000, 7, 7⟩
/-- GD_SLATCH.SLATCH -/
def GD_SLATCH : Fld := ⟨0x40004, 31, 0⟩
/-- GD_DLATCH.DLATCH -/
def GD_DLATCH : Fld := ⟨0x40008, 31, 0⟩
/-- GD_CAUSE.CAUSE -/
def GD_CAUSE : Fld := ⟨0x4000C, 31, 0⟩
/-- GD_EVT.SC -/
def GD_EVT_SC : Fld := ⟨0x40010, 0, 0⟩
/-- GD_EVT.SHOOT -/
def GD_EVT_SHOOT : Fld := ⟨0x40010, 1, 1⟩
/-- GD_EVT.EXTTRIP -/
def GD_EVT_EXTTRIP : Fld := ⟨0x40010, 2, 2⟩
/-- GD_EVT.COMPTRIP -/
def GD_EVT_COMPTRIP : Fld := ⟨0x40010, 3, 3⟩
/-- GD_EVT.ISLUV -/
def GD_EVT_ISLUV : Fld := ⟨0x40010, 4, 4⟩
/-- GD_EVT.VDRVUV -/
def GD_EVT_VDRVUV : Fld := ⟨0x40010, 5, 5⟩
/-- GD_EVT.GMON -/
def GD_EVT_GMON : Fld := ⟨0x40010, 6, 6⟩
/-- GD_EVT.DCOV -/
def GD_EVT_DCOV : Fld := ⟨0x40010, 7, 7⟩
/-- GD_EVT.CHOPFULL -/
def GD_EVT_CHOPFULL : Fld := ⟨0x40010, 8, 8⟩
/-- GD_EVT.INDT -/
def GD_EVT_INDT : Fld := ⟨0x40010, 9, 9⟩
/-- GD_EVT.REFUSED -/
def GD_EVT_REFUSED : Fld := ⟨0x40010, 10, 10⟩
/-- GD_EVT.DRVENLOSS -/
def GD_EVT_DRVENLOSS : Fld := ⟨0x40010, 11, 11⟩
/-- GD_EVT.SEQ -/
def GD_EVT_SEQ : Fld := ⟨0x40010, 31, 24⟩
/-- GD_TRIPMAP.MAP -/
def GD_TRIPMAP (n : Nat) : Fld := ⟨0x40020 + 4 * n, 31, 0⟩
/-- GD_LASTTRIP.HB -/
def GD_LASTTRIP_HB : Fld := ⟨0x40030, 4, 0⟩
/-- GD_LASTTRIP.SOURCE -/
def GD_LASTTRIP_SOURCE : Fld := ⟨0x40030, 11, 8⟩
/-- GD_LASTTRIP.INDT -/
def GD_LASTTRIP_INDT : Fld := ⟨0x40030, 12, 12⟩
/-- GD_LASTTRIP.CANCH -/
def GD_LASTTRIP_CANCH : Fld := ⟨0x40030, 13, 13⟩
/-- GD_CNT.REFUSED -/
def GD_CNT_REFUSED : Fld := ⟨0x40034, 15, 0⟩
/-- GD_CNT.DRVCYC -/
def GD_CNT_DRVCYC : Fld := ⟨0x40034, 31, 16⟩
/-- GD_CHOP.BUCKET -/
def GD_CHOP_BUCKET : Fld := ⟨0x40038, 15, 0⟩
/-- GD_CHOP.BLOCKS -/
def GD_CHOP_BLOCKS : Fld := ⟨0x40038, 31, 16⟩
/-- GD_REFUSEDSRC.HB -/
def GD_REFUSEDSRC_HB : Fld := ⟨0x4003C, 4, 0⟩
/-- GD_REFUSEDSRC.SOURCE -/
def GD_REFUSEDSRC_SOURCE : Fld := ⟨0x4003C, 11, 8⟩
/-- GD_CH_DRV.SRC1 -/
def GD_CH_DRV_SRC1 (n : Nat) : Fld := ⟨0x41000 + 0x00010 * n, 3, 0⟩
/-- GD_CH_DRV.SRC2 -/
def GD_CH_DRV_SRC2 (n : Nat) : Fld := ⟨0x41000 + 0x00010 * n, 7, 4⟩
/-- GD_CH_DRV.SNK -/
def GD_CH_DRV_SNK (n : Nat) : Fld := ⟨0x41000 + 0x00010 * n, 11, 8⟩
/-- GD_CH_DRV.T1 -/
def GD_CH_DRV_T1 (n : Nat) : Fld := ⟨0x41000 + 0x00010 * n, 15, 12⟩
/-- GD_CH_DRV.SOFTSNK -/
def GD_CH_DRV_SOFTSNK (n : Nat) : Fld := ⟨0x41000 + 0x00010 * n, 19, 16⟩
/-- GD_CH_DRV.SOFT_T -/
def GD_CH_DRV_SOFT_T (n : Nat) : Fld := ⟨0x41000 + 0x00010 * n, 21, 20⟩
/-- GD_CH_DRV.MCLAMP -/
def GD_CH_DRV_MCLAMP (n : Nat) : Fld := ⟨0x41000 + 0x00010 * n, 22, 22⟩
/-- GD_CH_DRV.GMON_T -/
def GD_CH_DRV_GMON_T (n : Nat) : Fld := ⟨0x41000 + 0x00010 * n, 27, 24⟩
/-- GD_LV_DRV.SRC2 -/
def GD_LV_DRV_SRC2 (n : Nat) : Fld := ⟨0x41200 + 0x00010 * n, 7, 4⟩
/-- GD_LV_DRV.SNK -/
def GD_LV_DRV_SNK (n : Nat) : Fld := ⟨0x41200 + 0x00010 * n, 11, 8⟩
/-- GD_LV_DRV.GMON_T -/
def GD_LV_DRV_GMON_T (n : Nat) : Fld := ⟨0x41200 + 0x00010 * n, 27, 24⟩
/-- GD_CH_PROT.SC_EN -/
def GD_CH_PROT_SC_EN (n : Nat) : Fld := ⟨0x41004 + 0x00010 * n, 0, 0⟩
/-- GD_CH_PROT.SC_BLK -/
def GD_CH_PROT_SC_BLK (n : Nat) : Fld := ⟨0x41004 + 0x00010 * n, 7, 4⟩
/-- GD_CH_PROT.SC_TH -/
def GD_CH_PROT_SC_TH (n : Nat) : Fld := ⟨0x41004 + 0x00010 * n, 11, 8⟩
/-- GD_CH_PROT.UVP -/
def GD_CH_PROT_UVP (n : Nat) : Fld := ⟨0x41004 + 0x00010 * n, 13, 12⟩
/-- GD_CH_PROT.UVN -/
def GD_CH_PROT_UVN (n : Nat) : Fld := ⟨0x41004 + 0x00010 * n, 18, 16⟩
/-- GD_CH_STAT.GATE -/
def GD_CH_STAT_GATE (n : Nat) : Fld := ⟨0x41008 + 0x00010 * n, 0, 0⟩
/-- GD_CH_STAT.VP_OK -/
def GD_CH_STAT_VP_OK (n : Nat) : Fld := ⟨0x41008 + 0x00010 * n, 1, 1⟩
/-- GD_CH_STAT.VN_OK -/
def GD_CH_STAT_VN_OK (n : Nat) : Fld := ⟨0x41008 + 0x00010 * n, 2, 2⟩
/-- GD_CH_STAT.SOFT -/
def GD_CH_STAT_SOFT (n : Nat) : Fld := ⟨0x41008 + 0x00010 * n, 3, 3⟩
/-- GD_CH_STAT.SCLATCH -/
def GD_CH_STAT_SCLATCH (n : Nat) : Fld := ⟨0x41008 + 0x00010 * n, 4, 4⟩
/-- GD_CH_STAT.CLKOK -/
def GD_CH_STAT_CLKOK (n : Nat) : Fld := ⟨0x41008 + 0x00010 * n, 5, 5⟩
/-- GD_CH_STAT.MISMATCH -/
def GD_CH_STAT_MISMATCH (n : Nat) : Fld := ⟨0x41008 + 0x00010 * n, 6, 6⟩
/-- GD_CH_CNT.SCCNT -/
def GD_CH_CNT_SCCNT (n : Nat) : Fld := ⟨0x4100C + 0x00010 * n, 15, 0⟩
/-- GD_CH_CNT.GMCNT -/
def GD_CH_CNT_GMCNT (n : Nat) : Fld := ⟨0x4100C + 0x00010 * n, 31, 16⟩
/-- TRC_CFG.SETS -/
def TRC_CFG_SETS : Fld := ⟨0x50000, 1, 0⟩
/-- TRC_CFG.HALFAXLE_EN -/
def TRC_CFG_HALFAXLE_EN : Fld := ⟨0x50000, 2, 2⟩
/-- TRC_CFG.DIR_INV -/
def TRC_CFG_DIR_INV : Fld := ⟨0x50000, 3, 3⟩
/-- TRC_CFG.EXC_FREQ -/
def TRC_CFG_EXC_FREQ : Fld := ⟨0x50000, 5, 4⟩
/-- TRC_CFG.SETB_SHIFT -/
def TRC_CFG_SETB_SHIFT : Fld := ⟨0x50000, 6, 6⟩
/-- TRC_CFG.POLE_PAIRS -/
def TRC_CFG_POLE_PAIRS : Fld := ⟨0x50000, 11, 8⟩
/-- TRC_CFG.RES_PP -/
def TRC_CFG_RES_PP : Fld := ⟨0x50000, 15, 12⟩
/-- TRC_RATED.RATED -/
def TRC_RATED : Fld := ⟨0x50004, 31, 0⟩
/-- TRC_KE.KE -/
def TRC_KE : Fld := ⟨0x50008, 31, 0⟩
/-- TRC_TMAX.TMAX -/
def TRC_TMAX : Fld := ⟨0x5000C, 31, 0⟩
/-- TRC_IMAX.IMAX -/
def TRC_IMAX : Fld := ⟨0x50010, 31, 0⟩
/-- TRC_OVERSPEED.OVERSPEED -/
def TRC_OVERSPEED : Fld := ⟨0x50014, 31, 0⟩
/-- TRC_FLY.BRAKE_PCT -/
def TRC_FLY_BRAKE_PCT : Fld := ⟨0x50018, 7, 0⟩
/-- TRC_FLY.BRAKE_S -/
def TRC_FLY_BRAKE_S : Fld := ⟨0x50018, 15, 8⟩
/-- TRC_FLY.OBS_MIN -/
def TRC_FLY_OBS_MIN : Fld := ⟨0x50018, 23, 16⟩
/-- TRC_RES.OFFSET -/
def TRC_RES_OFFSET : Fld := ⟨0x5001C, 15, 0⟩
/-- TRC_RES.PHASE -/
def TRC_RES_PHASE : Fld := ⟨0x5001C, 23, 16⟩
/-- TRC_RES.AMP -/
def TRC_RES_AMP : Fld := ⟨0x5001C, 31, 24⟩
/-- TRC_VREGEN.VREGEN1 -/
def TRC_VREGEN_VREGEN1 : Fld := ⟨0x50020, 15, 0⟩
/-- TRC_VREGEN.VREGEN2 -/
def TRC_VREGEN_VREGEN2 : Fld := ⟨0x50020, 31, 16⟩
/-- TRC_SPEED_SET.SPEED_SET -/
def TRC_SPEED_SET : Fld := ⟨0x50024, 31, 0⟩
/-- TRC_STAT.DSTATE -/
def TRC_STAT_DSTATE : Fld := ⟨0x50028, 3, 0⟩
/-- TRC_STAT.CASE -/
def TRC_STAT_CASE : Fld := ⟨0x50028, 6, 4⟩
/-- TRC_STAT.HALFAXLE -/
def TRC_STAT_HALFAXLE : Fld := ⟨0x50028, 7, 7⟩
/-- TRC_STAT.SWITCHING -/
def TRC_STAT_SWITCHING : Fld := ⟨0x50028, 9, 8⟩
/-- TRC_STAT.SAFEKIND_A -/
def TRC_STAT_SAFEKIND_A : Fld := ⟨0x50028, 11, 10⟩
/-- TRC_STAT.SAFEKIND_B -/
def TRC_STAT_SAFEKIND_B : Fld := ⟨0x50028, 13, 12⟩
/-- TRC_STAT.RES_OK -/
def TRC_STAT_RES_OK : Fld := ⟨0x50028, 14, 14⟩
/-- TRC_STAT.OBS_VALID -/
def TRC_STAT_OBS_VALID : Fld := ⟨0x50028, 15, 15⟩
/-- TRC_STAT.EXC_PULLED -/
def TRC_STAT_EXC_PULLED : Fld := ⟨0x50028, 16, 16⟩
/-- TRC_STAT.ASC_OP -/
def TRC_STAT_ASC_OP : Fld := ⟨0x50028, 17, 17⟩
/-- TRC_SPEED.SPEED -/
def TRC_SPEED : Fld := ⟨0x5002C, 31, 0⟩
/-- TRC_ANGLE.RES_ANGLE -/
def TRC_ANGLE_RES_ANGLE : Fld := ⟨0x50030, 15, 0⟩
/-- TRC_ANGLE.OBS_ANGLE -/
def TRC_ANGLE_OBS_ANGLE : Fld := ⟨0x50030, 31, 16⟩
/-- TRC_EMF.E -/
def TRC_EMF : Fld := ⟨0x50034, 31, 0⟩
/-- TRC_TLIM.TLIM_EFF -/
def TRC_TLIM : Fld := ⟨0x50038, 31, 0⟩
/-- TRC_TORQUE.TORQUE -/
def TRC_TORQUE : Fld := ⟨0x5003C, 31, 0⟩
/-- TRC_FLYREC.LISTEN_US -/
def TRC_FLYREC_LISTEN_US : Fld := ⟨0x50040, 15, 0⟩
/-- TRC_FLYREC.ANGLE_DIFF -/
def TRC_FLYREC_ANGLE_DIFF : Fld := ⟨0x50040, 23, 16⟩
/-- TRC_FLYREC.CASE -/
def TRC_FLYREC_CASE : Fld := ⟨0x50040, 26, 24⟩
/-- TRC_EXC.TEX -/
def TRC_EXC : Fld := ⟨0x50044, 31, 0⟩
/-- TRC_EVT.REVERSE -/
def TRC_EVT_REVERSE : Fld := ⟨0x50048, 0, 0⟩
/-- TRC_EVT.ROTOR_LOST -/
def TRC_EVT_ROTOR_LOST : Fld := ⟨0x50048, 1, 1⟩
/-- TRC_EVT.REACQ -/
def TRC_EVT_REACQ : Fld := ⟨0x50048, 2, 2⟩
/-- TRC_EVT.RES_FAULT -/
def TRC_EVT_RES_FAULT : Fld := ⟨0x50048, 3, 3⟩
/-- TRC_EVT.HALFAXLE -/
def TRC_EVT_HALFAXLE : Fld := ⟨0x50048, 4, 4⟩
/-- TRC_EVT.ASC_OP -/
def TRC_EVT_ASC_OP : Fld := ⟨0x50048, 5, 5⟩
/-- TRC_EVT.BRAKE_ABORT -/
def TRC_EVT_BRAKE_ABORT : Fld := ⟨0x50048, 6, 6⟩
/-- TRC_EVT.OVERSPEED -/
def TRC_EVT_OVERSPEED : Fld := ⟨0x50048, 7, 7⟩
/-- TRC_EVT.DISAGREE -/
def TRC_EVT_DISAGREE : Fld := ⟨0x50048, 8, 8⟩
/-- TRC_EVT.SEQ -/
def TRC_EVT_SEQ : Fld := ⟨0x50048, 31, 24⟩
/-- TRC_CNT.STARTS -/
def TRC_CNT_STARTS : Fld := ⟨0x5004C, 15, 0⟩
/-- TRC_CNT.REACQS -/
def TRC_CNT_REACQS : Fld := ⟨0x5004C, 31, 16⟩
/-- CHG_CFG.EXPORT_EN -/
def CHG_CFG_EXPORT_EN : Fld := ⟨0x60000, 0, 0⟩
/-- CHG_CFG.FREQ60 -/
def CHG_CFG_FREQ60 : Fld := ⟨0x60000, 1, 1⟩
/-- CHG_CFG.VNOM -/
def CHG_CFG_VNOM : Fld := ⟨0x60000, 31, 16⟩
/-- CHG_IAC_MAX.IAC_MAX -/
def CHG_IAC_MAX : Fld := ⟨0x60004, 31, 0⟩
/-- CHG_IMPORT_MAX.IMPORT_MAX -/
def CHG_IMPORT_MAX : Fld := ⟨0x60008, 31, 0⟩
/-- CHG_EXPORT_MAX.EXPORT_MAX -/
def CHG_EXPORT_MAX : Fld := ⟨0x6000C, 31, 0⟩
/-- CHG_VPFC.VPFC_REF -/
def CHG_VPFC : Fld := ⟨0x60010, 15, 0⟩
/-- CHG_GRIDV.VLO -/
def CHG_GRIDV_VLO : Fld := ⟨0x60014, 7, 0⟩
/-- CHG_GRIDV.VHI -/
def CHG_GRIDV_VHI : Fld := ⟨0x60014, 15, 8⟩
/-- CHG_GRIDV.V_DLY -/
def CHG_GRIDV_V_DLY : Fld := ⟨0x60014, 31, 16⟩
/-- CHG_GRIDF.FLO -/
def CHG_GRIDF_FLO : Fld := ⟨0x60018, 15, 0⟩
/-- CHG_GRIDF.FHI -/
def CHG_GRIDF_FHI : Fld := ⟨0x60018, 31, 16⟩
/-- CHG_GRIDT.ROCOF -/
def CHG_GRIDT_ROCOF : Fld := ⟨0x6001C, 7, 0⟩
/-- CHG_GRIDT.F_DLY -/
def CHG_GRIDT_F_DLY : Fld := ⟨0x6001C, 15, 8⟩
/-- CHG_GRIDT.RECONNECT_S -/
def CHG_GRIDT_RECONNECT_S : Fld := ⟨0x6001C, 31, 16⟩
/-- CHG_QUAL.QUAL_MS -/
def CHG_QUAL : Fld := ⟨0x60020, 15, 0⟩
/-- CHG_VBAT.VBAT_MIN -/
def CHG_VBAT_VBAT_MIN : Fld := ⟨0x60024, 15, 0⟩
/-- CHG_VBAT.VBAT_MAX -/
def CHG_VBAT_VBAT_MAX : Fld := ⟨0x60024, 31, 16⟩
/-- CHG_RAMP.RAMP -/
def CHG_RAMP : Fld := ⟨0x60028, 31, 0⟩
/-- CHG_XBVSCALE.XBVSCALE -/
def CHG_XBVSCALE : Fld := ⟨0x6002C, 31, 0⟩
/-- CHG_XBISCALE.XBISCALE -/
def CHG_XBISCALE : Fld := ⟨0x60030, 31, 0⟩
/-- CHG_STAT.CSTATE -/
def CHG_STAT_CSTATE : Fld := ⟨0x60034, 2, 0⟩
/-- CHG_STAT.S2 -/
def CHG_STAT_S2 : Fld := ⟨0x60034, 3, 3⟩
/-- CHG_STAT.FALLBACK -/
def CHG_STAT_FALLBACK : Fld := ⟨0x60034, 4, 4⟩
/-- CHG_STAT.EXPORT -/
def CHG_STAT_EXPORT : Fld := ⟨0x60034, 5, 5⟩
/-- CHG_STAT.PHASES -/
def CHG_STAT_PHASES : Fld := ⟨0x60034, 7, 6⟩
/-- CHG_STAT.PAUSE -/
def CHG_STAT_PAUSE : Fld := ⟨0x60034, 10, 8⟩
/-- CHG_STAT.QUALIFIED -/
def CHG_STAT_QUALIFIED : Fld := ⟨0x60034, 11, 11⟩
/-- CHG_STAT.PRECHARGED -/
def CHG_STAT_PRECHARGED : Fld := ⟨0x60034, 12, 12⟩
/-- CHG_STAT.ENDREASON -/
def CHG_STAT_ENDREASON : Fld := ⟨0x60034, 23, 16⟩
/-- CHG_PILOT.STATE -/
def CHG_PILOT_STATE : Fld := ⟨0x60038, 2, 0⟩
/-- CHG_PILOT.OSC -/
def CHG_PILOT_OSC : Fld := ⟨0x60038, 3, 3⟩
/-- CHG_PILOT.DUTY -/
def CHG_PILOT_DUTY : Fld := ⟨0x60038, 15, 4⟩
/-- CHG_PILOT.HIGH_MV -/
def CHG_PILOT_HIGH_MV : Fld := ⟨0x60038, 31, 16⟩
/-- CHG_PILOTLOW.LOW_MV -/
def CHG_PILOTLOW_LOW_MV : Fld := ⟨0x6003C, 15, 0⟩
/-- CHG_PILOTLOW.ICP -/
def CHG_PILOTLOW_ICP : Fld := ⟨0x6003C, 31, 16⟩
/-- CHG_PP.PP_OHM -/
def CHG_PP_PP_OHM : Fld := ⟨0x60040, 15, 0⟩
/-- CHG_PP.CLASS -/
def CHG_PP_CLASS : Fld := ⟨0x60040, 18, 16⟩
/-- CHG_ILIM.IAC_EFF -/
def CHG_ILIM : Fld := ⟨0x60044, 31, 0⟩
/-- CHG_TARGET.TARGET -/
def CHG_TARGET : Fld := ⟨0x60048, 31, 0⟩
/-- CHG_PGRID.PGRID -/
def CHG_PGRID : Fld := ⟨0x6004C, 31, 0⟩
/-- CHG_FGRID.FGRID -/
def CHG_FGRID : Fld := ⟨0x60050, 31, 0⟩
/-- CHG_EVT.GRIDTRIP -/
def CHG_EVT_GRIDTRIP : Fld := ⟨0x60054, 0, 0⟩
/-- CHG_EVT.PLUG -/
def CHG_EVT_PLUG : Fld := ⟨0x60054, 1, 1⟩
/-- CHG_EVT.PILOT -/
def CHG_EVT_PILOT : Fld := ⟨0x60054, 2, 2⟩
/-- CHG_EVT.HOSTLESS -/
def CHG_EVT_HOSTLESS : Fld := ⟨0x60054, 3, 3⟩
/-- CHG_EVT.ENDED -/
def CHG_EVT_ENDED : Fld := ⟨0x60054, 4, 4⟩
/-- CHG_EVT.METERGAP -/
def CHG_EVT_METERGAP : Fld := ⟨0x60054, 5, 5⟩
/-- CHG_EVT.PAUSED -/
def CHG_EVT_PAUSED : Fld := ⟨0x60054, 6, 6⟩
/-- CHG_EVT.SEQ -/
def CHG_EVT_SEQ : Fld := ⟨0x60054, 31, 24⟩
/-- CHG_CNT.SESSIONS -/
def CHG_CNT_SESSIONS : Fld := ⟨0x60058, 15, 0⟩
/-- CHG_CNT.GRIDTRIPS -/
def CHG_CNT_GRIDTRIPS : Fld := ⟨0x60058, 31, 16⟩
/-- CHG_GAPS.GAPS -/
def CHG_GAPS : Fld := ⟨0x6005C, 31, 0⟩
/-- AUX_CFG.PRESENT -/
def AUX_CFG_PRESENT : Fld := ⟨0x70000, 7, 0⟩
/-- AUX_CFG.REMOTE_EN -/
def AUX_CFG_REMOTE_EN : Fld := ⟨0x70000, 8, 8⟩
/-- AUX_CFG.BIAS_EN -/
def AUX_CFG_BIAS_EN : Fld := ⟨0x70000, 9, 9⟩
/-- AUX_CFG.SHED_EN -/
def AUX_CFG_SHED_EN : Fld := ⟨0x70000, 10, 10⟩
/-- AUX_CFG.BURST_EN -/
def AUX_CFG_BURST_EN : Fld := ⟨0x70000, 11, 11⟩
/-- AUX_CFG.BRAKE_EN -/
def AUX_CFG_BRAKE_EN : Fld := ⟨0x70000, 12, 12⟩
/-- AUX_CFG.REVERSE_EN -/
def AUX_CFG_REVERSE_EN : Fld := ⟨0x70000, 13, 13⟩
/-- AUX_CFG.MASK -/
def AUX_CFG_MASK : Fld := ⟨0x70000, 23, 16⟩
/-- AUX_VSET.VSET -/
def AUX_VSET : Fld := ⟨0x70004, 31, 0⟩
/-- AUX_ILIM.ILIM -/
def AUX_ILIM : Fld := ⟨0x70008, 31, 0⟩
/-- AUX_PRE_VDC.PRE_VDC -/
def AUX_PRE_VDC : Fld := ⟨0x7000C, 31, 0⟩
/-- AUX_PRE_ILIM.PRE_ILIM -/
def AUX_PRE_ILIM : Fld := ⟨0x70010, 31, 0⟩
/-- AUX_PNOM.PNOM -/
def AUX_PNOM : Fld := ⟨0x70014, 23, 0⟩
/-- AUX_PMIN.PMIN -/
def AUX_PMIN : Fld := ⟨0x70018, 23, 0⟩
/-- AUX_PMAX.PMAX -/
def AUX_PMAX : Fld := ⟨0x7001C, 23, 0⟩
/-- AUX_RIP.RIPPLE -/
def AUX_RIP_RIPPLE : Fld := ⟨0x70020, 15, 0⟩
/-- AUX_RIP.TOFFMIN -/
def AUX_RIP_TOFFMIN : Fld := ⟨0x70020, 31, 16⟩
/-- AUX_IPH_MAX.IPH_MAX -/
def AUX_IPH_MAX : Fld := ⟨0x70024, 31, 0⟩
/-- AUX_SHED.SHED1 -/
def AUX_SHED_SHED1 : Fld := ⟨0x70028, 15, 0⟩
/-- AUX_SHED.SHED2 -/
def AUX_SHED_SHED2 : Fld := ⟨0x70028, 31, 16⟩
/-- AUX_SHEDT.BURST_I -/
def AUX_SHEDT_BURST_I : Fld := ⟨0x7002C, 7, 0⟩
/-- AUX_SHEDT.BURST_BAND -/
def AUX_SHEDT_BURST_BAND : Fld := ⟨0x7002C, 15, 8⟩
/-- AUX_SHEDT.ROT_MS -/
def AUX_SHEDT_ROT_MS : Fld := ⟨0x7002C, 23, 16⟩
/-- AUX_SHEDT.SHED_T -/
def AUX_SHEDT_SHED_T : Fld := ⟨0x7002C, 31, 24⟩
/-- AUX_BRAKE.BRAKE_PCT -/
def AUX_BRAKE_BRAKE_PCT : Fld := ⟨0x70030, 7, 0⟩
/-- AUX_BRAKE.OTW_K -/
def AUX_BRAKE_OTW_K : Fld := ⟨0x70030, 15, 8⟩
/-- AUX_VOSMAX.VOSMAX -/
def AUX_VOSMAX : Fld := ⟨0x70034, 31, 0⟩
/-- AUX_VSCALE.VSCALE -/
def AUX_VSCALE : Fld := ⟨0x70038, 31, 0⟩
/-- AUX_VOSSCALE.VOSSCALE -/
def AUX_VOSSCALE : Fld := ⟨0x7003C, 31, 0⟩
/-- AUX_IOSCALE.IOSCALE -/
def AUX_IOSCALE : Fld := ⟨0x70040, 31, 0⟩
/-- AUX_IPSCALE.IPSCALE -/
def AUX_IPSCALE : Fld := ⟨0x70044, 31, 0⟩
/-- AUX_IDSCALE.IDSCALE -/
def AUX_IDSCALE : Fld := ⟨0x70048, 31, 0⟩
/-- AUX_PRE_TMAX.PRE_TMAX -/
def AUX_PRE_TMAX : Fld := ⟨0x7004C, 15, 0⟩
/-- AUX_STAT.ASTATE -/
def AUX_STAT_ASTATE : Fld := ⟨0x70050, 3, 0⟩
/-- AUX_STAT.LEVEL -/
def AUX_STAT_LEVEL : Fld := ⟨0x70050, 5, 4⟩
/-- AUX_STAT.AVAIL -/
def AUX_STAT_AVAIL : Fld := ⟨0x70050, 15, 8⟩
/-- AUX_STAT.ACTIVE -/
def AUX_STAT_ACTIVE : Fld := ⟨0x70050, 23, 16⟩
/-- AUX_STAT.REMOTE_OK -/
def AUX_STAT_REMOTE_OK : Fld := ⟨0x70050, 24, 24⟩
/-- AUX_STAT.REGULATED -/
def AUX_STAT_REGULATED : Fld := ⟨0x70050, 25, 25⟩
/-- AUX_STAT.NOSPARE -/
def AUX_STAT_NOSPARE : Fld := ⟨0x70050, 26, 26⟩
/-- AUX_STAT.SHEDDING -/
def AUX_STAT_SHEDDING : Fld := ⟨0x70050, 27, 27⟩
/-- AUX_PHSTAT.REASON -/
def AUX_PHSTAT : Fld := ⟨0x70054, 31, 0⟩
/-- AUX_ILIM_EFF.ILIM_EFF -/
def AUX_ILIM_EFF : Fld := ⟨0x70058, 31, 0⟩
/-- AUX_PERIOD.PERIOD -/
def AUX_PERIOD : Fld := ⟨0x7005C, 23, 0⟩
/-- AUX_VINT.VINT -/
def AUX_VINT : Fld := ⟨0x70060, 31, 0⟩
/-- AUX_TRIM.TRIM -/
def AUX_TRIM (n : Nat) : Fld := ⟨0x70064 + 4 * n, 31, 0⟩
/-- AUX_EVT.SHED -/
def AUX_EVT_SHED : Fld := ⟨0x70084, 0, 0⟩
/-- AUX_EVT.REJOIN -/
def AUX_EVT_REJOIN : Fld := ⟨0x70084, 1, 1⟩
/-- AUX_EVT.BURST -/
def AUX_EVT_BURST : Fld := ⟨0x70084, 2, 2⟩
/-- AUX_EVT.BRAKE -/
def AUX_EVT_BRAKE : Fld := ⟨0x70084, 3, 3⟩
/-- AUX_EVT.DROP -/
def AUX_EVT_DROP : Fld := ⟨0x70084, 4, 4⟩
/-- AUX_EVT.SENSELOST -/
def AUX_EVT_SENSELOST : Fld := ⟨0x70084, 5, 5⟩
/-- AUX_EVT.OTW -/
def AUX_EVT_OTW : Fld := ⟨0x70084, 6, 6⟩
/-- AUX_EVT.RETIRE -/
def AUX_EVT_RETIRE : Fld := ⟨0x70084, 7, 7⟩
/-- AUX_EVT.PREDONE -/
def AUX_EVT_PREDONE : Fld := ⟨0x70084, 8, 8⟩
/-- AUX_EVT.STOPPED -/
def AUX_EVT_STOPPED : Fld := ⟨0x70084, 9, 9⟩
/-- AUX_EVT.SEQ -/
def AUX_EVT_SEQ : Fld := ⟨0x70084, 31, 24⟩
/-- AUX_CNT.SHEDS -/
def AUX_CNT_SHEDS : Fld := ⟨0x70088, 15, 0⟩
/-- AUX_CNT.REJOINS -/
def AUX_CNT_REJOINS : Fld := ⟨0x70088, 31, 16⟩
/-- AUX_CNT2.BRAKES -/
def AUX_CNT2_BRAKES : Fld := ⟨0x7008C, 15, 0⟩
/-- AUX_CNT2.BURSTS -/
def AUX_CNT2_BURSTS : Fld := ⟨0x7008C, 31, 16⟩
/-- ACT_CFG.HOFS_S -/
def ACT_CFG_HOFS_S : Fld := ⟨0x80000, 7, 0⟩
/-- ACT_CFG.HOFS_P -/
def ACT_CFG_HOFS_P : Fld := ⟨0x80000, 15, 8⟩
/-- ACT_CFG.NPOS -/
def ACT_CFG_NPOS : Fld := ⟨0x80000, 19, 16⟩
/-- ACT_SHIFT_IMAX.SHIFT_IMAX -/
def ACT_SHIFT_IMAX : Fld := ⟨0x80004, 31, 0⟩
/-- ACT_PARK_IMAX.PARK_IMAX -/
def ACT_PARK_IMAX : Fld := ⟨0x80008, 31, 0⟩
/-- ACT_LOCK.LOCK_PCT -/
def ACT_LOCK_LOCK_PCT : Fld := ⟨0x8000C, 7, 0⟩
/-- ACT_LOCK.TLOCK -/
def ACT_LOCK_TLOCK : Fld := ⟨0x8000C, 15, 8⟩
/-- ACT_LOCK.RETRY_GAP -/
def ACT_LOCK_RETRY_GAP : Fld := ⟨0x8000C, 23, 16⟩
/-- ACT_LOCK.RETRIES -/
def ACT_LOCK_RETRIES : Fld := ⟨0x8000C, 25, 24⟩
/-- ACT_VMAX.VMAX -/
def ACT_VMAX : Fld := ⟨0x80010, 31, 0⟩
/-- ACT_ACC.ACC -/
def ACT_ACC : Fld := ⟨0x80014, 31, 0⟩
/-- ACT_TOL.POS_TOL -/
def ACT_TOL_POS_TOL : Fld := ⟨0x80018, 15, 0⟩
/-- ACT_TOL.SETTLE -/
def ACT_TOL_SETTLE : Fld := ⟨0x80018, 31, 16⟩
/-- ACT_SPOS_GAIN.SPOS_GAIN -/
def ACT_SPOS_GAIN : Fld := ⟨0x8001C, 31, 0⟩
/-- ACT_SPOS_OFS.SPOS_OFS -/
def ACT_SPOS_OFS : Fld := ⟨0x80020, 31, 0⟩
/-- ACT_HALL_MM.HALL_MM -/
def ACT_HALL_MM : Fld := ⟨0x80024, 31, 0⟩
/-- ACT_POS.POS -/
def ACT_POS (n : Nat) : Fld := ⟨0x80028 + 4 * n, 31, 0⟩
/-- ACT_KMH.KMH -/
def ACT_KMH (n : Nat) : Fld := ⟨0x80048 + 4 * n, 31, 0⟩
/-- ACT_PPOS_REL.PPOS_REL -/
def ACT_PPOS_REL : Fld := ⟨0x80068, 31, 0⟩
/-- ACT_PPOS_ENG.PPOS_ENG -/
def ACT_PPOS_ENG : Fld := ⟨0x8006C, 31, 0⟩
/-- ACT_PARK.TOOTH_LO -/
def ACT_PARK_TOOTH_LO : Fld := ⟨0x80070, 7, 0⟩
/-- ACT_PARK.HOLD_PCT -/
def ACT_PARK_HOLD_PCT : Fld := ⟨0x80070, 15, 8⟩
/-- ACT_PARK.TOOTH_S -/
def ACT_PARK_TOOTH_S : Fld := ⟨0x80070, 23, 16⟩
/-- ACT_HOME.HOME_PCT -/
def ACT_HOME_HOME_PCT : Fld := ⟨0x80074, 7, 0⟩
/-- ACT_HOME.HOME_V -/
def ACT_HOME_HOME_V : Fld := ⟨0x80074, 15, 8⟩
/-- ACT_VSPD_HOST.VSPD_HOST -/
def ACT_VSPD_HOST : Fld := ⟨0x80078, 31, 0⟩
/-- ACT_STAT.SSTATE -/
def ACT_STAT_SSTATE : Fld := ⟨0x8007C, 2, 0⟩
/-- ACT_STAT.SPOSIDX -/
def ACT_STAT_SPOSIDX : Fld := ⟨0x8007C, 7, 4⟩
/-- ACT_STAT.PSTATE -/
def ACT_STAT_PSTATE : Fld := ⟨0x8007C, 11, 8⟩
/-- ACT_STAT.SHOMED -/
def ACT_STAT_SHOMED : Fld := ⟨0x8007C, 12, 12⟩
/-- ACT_STAT.PHOMED -/
def ACT_STAT_PHOMED : Fld := ⟨0x8007C, 13, 13⟩
/-- ACT_STAT.SWITCH_OK -/
def ACT_STAT_SWITCH_OK : Fld := ⟨0x8007C, 14, 14⟩
/-- ACT_STAT.VSPD_KNOWN -/
def ACT_STAT_VSPD_KNOWN : Fld := ⟨0x8007C, 15, 15⟩
/-- ACT_STAT.S_RETRY -/
def ACT_STAT_S_RETRY : Fld := ⟨0x8007C, 17, 16⟩
/-- ACT_STAT.P_RETRY -/
def ACT_STAT_P_RETRY : Fld := ⟨0x8007C, 19, 18⟩
/-- ACT_SPOS.SPOS -/
def ACT_SPOS : Fld := ⟨0x80080, 31, 0⟩
/-- ACT_PPOSX.X -/
def ACT_PPOSX : Fld := ⟨0x80084, 31, 0⟩
/-- ACT_VSPD.VSPD -/
def ACT_VSPD : Fld := ⟨0x80088, 31, 0⟩
/-- ACT_HALL.HS -/
def ACT_HALL_HS : Fld := ⟨0x8008C, 2, 0⟩
/-- ACT_HALL.HP -/
def ACT_HALL_HP : Fld := ⟨0x8008C, 6, 4⟩
/-- ACT_EVT.SDONE -/
def ACT_EVT_SDONE : Fld := ⟨0x80090, 0, 0⟩
/-- ACT_EVT.PENG -/
def ACT_EVT_PENG : Fld := ⟨0x80090, 1, 1⟩
/-- ACT_EVT.PREL -/
def ACT_EVT_PREL : Fld := ⟨0x80090, 2, 2⟩
/-- ACT_EVT.LOCK -/
def ACT_EVT_LOCK : Fld := ⟨0x80090, 3, 3⟩
/-- ACT_EVT.BLOCKED -/
def ACT_EVT_BLOCKED : Fld := ⟨0x80090, 4, 4⟩
/-- ACT_EVT.ABORT -/
def ACT_EVT_ABORT : Fld := ⟨0x80090, 5, 5⟩
/-- ACT_EVT.FAULT -/
def ACT_EVT_FAULT : Fld := ⟨0x80090, 6, 6⟩
/-- ACT_EVT.SEQ -/
def ACT_EVT_SEQ : Fld := ⟨0x80090, 31, 24⟩
/-- ACT_CNT.SHIFTS -/
def ACT_CNT_SHIFTS : Fld := ⟨0x80094, 15, 0⟩
/-- ACT_CNT.LOCKS -/
def ACT_CNT_LOCKS : Fld := ⟨0x80094, 31, 16⟩
/-- ACT_CNT2.ENGAGES -/
def ACT_CNT2_ENGAGES : Fld := ⟨0x80098, 15, 0⟩
/-- ACT_CNT2.BLOCKS -/
def ACT_CNT2_BLOCKS : Fld := ⟨0x80098, 31, 16⟩
/-- THM_STAT.DIE_T -/
def THM_STAT_DIE_T : Fld := ⟨0x90000, 15, 0⟩
/-- THM_STAT.THROTTLE -/
def THM_STAT_THROTTLE : Fld := ⟨0x90000, 16, 16⟩
/-- THM_STAT.MRAM_INH -/
def THM_STAT_MRAM_INH : Fld := ⟨0x90000, 17, 17⟩
/-- THM_STAT.FAST -/
def THM_STAT_FAST : Fld := ⟨0x90000, 18, 18⟩
/-- THM_STAT.MODEL_OK -/
def THM_STAT_MODEL_OK : Fld := ⟨0x90000, 19, 19⟩
/-- THM_STAT.QUEUE -/
def THM_STAT_QUEUE : Fld := ⟨0x90000, 31, 24⟩
/-- THM_DERATE.FLAGS -/
def THM_DERATE_FLAGS : Fld := ⟨0x90004, 8, 0⟩
/-- THM_DERATE.BROKEN -/
def THM_DERATE_BROKEN : Fld := ⟨0x90004, 21, 16⟩
/-- THM_EVT.DERATE -/
def THM_EVT_DERATE : Fld := ⟨0x90008, 0, 0⟩
/-- THM_EVT.OVERTEMP -/
def THM_EVT_OVERTEMP : Fld := ⟨0x90008, 1, 1⟩
/-- THM_EVT.BROKEN -/
def THM_EVT_BROKEN : Fld := ⟨0x90008, 2, 2⟩
/-- THM_EVT.THROTTLE -/
def THM_EVT_THROTTLE : Fld := ⟨0x90008, 3, 3⟩
/-- THM_EVT.INHIBIT -/
def THM_EVT_INHIBIT : Fld := ⟨0x90008, 4, 4⟩
/-- THM_EVT.LOGLOST -/
def THM_EVT_LOGLOST : Fld := ⟨0x90008, 5, 5⟩
/-- THM_EVT.EOS -/
def THM_EVT_EOS : Fld := ⟨0x90008, 6, 6⟩
/-- THM_EVT.RETIRE -/
def THM_EVT_RETIRE : Fld := ⟨0x90008, 7, 7⟩
/-- THM_EVT.RESET -/
def THM_EVT_RESET : Fld := ⟨0x90008, 8, 8⟩
/-- THM_EVT.SEQ -/
def THM_EVT_SEQ : Fld := ⟨0x90008, 31, 24⟩
/-- THM_CNT.THROTTLES -/
def THM_CNT_THROTTLES : Fld := ⟨0x9000C, 15, 0⟩
/-- THM_CNT.LOGLOST -/
def THM_CNT_LOGLOST : Fld := ⟨0x9000C, 31, 16⟩
/-- THM_TCOOL.TCOOL -/
def THM_TCOOL : Fld := ⟨0x90010, 31, 0⟩
/-- THM_RPU.RPU -/
def THM_RPU : Fld := ⟨0x90014, 31, 0⟩
/-- THM_R26.R26 -/
def THM_R26 : Fld := ⟨0x90018, 31, 0⟩
/-- THM_NTCCFG.B -/
def THM_NTCCFG_B : Fld := ⟨0x9001C, 15, 0⟩
/-- THM_NTCCFG.NTCMAX -/
def THM_NTCCFG_NTCMAX : Fld := ⟨0x9001C, 23, 16⟩
/-- THM_NTCT.NTCT -/
def THM_NTCT (n : Nat) : Fld := ⟨0x90020 + 4 * n, 31, 0⟩
/-- THM_KFAC.KFAC -/
def THM_KFAC (n : Nat) : Fld := ⟨0x90040 + 4 * n, 31, 0⟩
/-- THM_KPH.KPH -/
def THM_KPH (n : Nat) : Fld := ⟨0x90070 + 4 * n, 31, 0⟩
/-- THM_WEAR_RESET.STAGES -/
def THM_WEAR_RESET_STAGES : Fld := ⟨0x90090, 8, 0⟩
/-- THM_WEAR_RESET.RESETS -/
def THM_WEAR_RESET_RESETS : Fld := ⟨0x90090, 31, 16⟩
/-- THM_SPARE.EOS -/
def THM_SPARE_EOS : Fld := ⟨0x90094, 8, 0⟩
/-- THM_SPARE.RETIRED -/
def THM_SPARE_RETIRED : Fld := ⟨0x90094, 24, 16⟩
/-- THM_STG_LIM.TJLIM -/
def THM_STG_LIM_TJLIM (n : Nat) : Fld := ⟨0x90100 + 0x00080 * n, 7, 0⟩
/-- THM_STG_LIM.DERATE_K -/
def THM_STG_LIM_DERATE_K (n : Nat) : Fld := ⟨0x90100 + 0x00080 * n, 15, 8⟩
/-- THM_STG_LIM.OT_K -/
def THM_STG_LIM_OT_K (n : Nat) : Fld := ⟨0x90100 + 0x00080 * n, 23, 16⟩
/-- THM_STG_LIM.REFNTC -/
def THM_STG_LIM_REFNTC (n : Nat) : Fld := ⟨0x90100 + 0x00080 * n, 26, 24⟩
/-- THM_STG_RF.RF_HYST -/
def THM_STG_RF_RF_HYST (n : Nat) : Fld := ⟨0x90104 + 0x00080 * n, 7, 0⟩
/-- THM_STG_RF.RF_MIN -/
def THM_STG_RF_RF_MIN (n : Nat) : Fld := ⟨0x90104 + 0x00080 * n, 15, 8⟩
/-- THM_STG_RTH1.RTH -/
def THM_STG_RTH1 (n : Nat) : Fld := ⟨0x90108 + 0x00080 * n, 31, 0⟩
/-- THM_STG_RTH2.RTH -/
def THM_STG_RTH2 (n : Nat) : Fld := ⟨0x9010C + 0x00080 * n, 31, 0⟩
/-- THM_STG_RTH3.RTH -/
def THM_STG_RTH3 (n : Nat) : Fld := ⟨0x90110 + 0x00080 * n, 31, 0⟩
/-- THM_STG_RTH4.RTH -/
def THM_STG_RTH4 (n : Nat) : Fld := ⟨0x90114 + 0x00080 * n, 31, 0⟩
/-- THM_STG_TAU1.TAU -/
def THM_STG_TAU1 (n : Nat) : Fld := ⟨0x90118 + 0x00080 * n, 31, 0⟩
/-- THM_STG_TAU2.TAU -/
def THM_STG_TAU2 (n : Nat) : Fld := ⟨0x9011C + 0x00080 * n, 31, 0⟩
/-- THM_STG_TAU3.TAU -/
def THM_STG_TAU3 (n : Nat) : Fld := ⟨0x90120 + 0x00080 * n, 31, 0⟩
/-- THM_STG_TAU4.TAU -/
def THM_STG_TAU4 (n : Nat) : Fld := ⟨0x90124 + 0x00080 * n, 31, 0⟩
/-- THM_STG_V0.V0 -/
def THM_STG_V0 (n : Nat) : Fld := ⟨0x90128 + 0x00080 * n, 31, 0⟩
/-- THM_STG_R0.R0 -/
def THM_STG_R0 (n : Nat) : Fld := ⟨0x9012C + 0x00080 * n, 31, 0⟩
/-- THM_STG_ESW.ESW -/
def THM_STG_ESW (n : Nat) : Fld := ⟨0x90130 + 0x00080 * n, 31, 0⟩
/-- THM_STG_EVREF.EVREF -/
def THM_STG_EVREF (n : Nat) : Fld := ⟨0x90134 + 0x00080 * n, 31, 0⟩
/-- THM_STG_EIREF.EIREF -/
def THM_STG_EIREF (n : Nat) : Fld := ⟨0x90138 + 0x00080 * n, 31, 0⟩
/-- THM_STG_RNTC.RNTC -/
def THM_STG_RNTC (n : Nat) : Fld := ⟨0x9013C + 0x00080 * n, 31, 0⟩
/-- THM_STG_TAUNTC.TAUNTC -/
def THM_STG_TAUNTC (n : Nat) : Fld := ⟨0x90140 + 0x00080 * n, 31, 0⟩
/-- THM_STG_LIFE_A.LIFE_A -/
def THM_STG_LIFE_A (n : Nat) : Fld := ⟨0x90144 + 0x00080 * n, 31, 0⟩
/-- THM_STG_LIFE_N.LIFE_N -/
def THM_STG_LIFE_N (n : Nat) : Fld := ⟨0x90148 + 0x00080 * n, 31, 0⟩
/-- THM_STG_LIFE_Q.LIFE_Q -/
def THM_STG_LIFE_Q (n : Nat) : Fld := ⟨0x9014C + 0x00080 * n, 31, 0⟩
/-- THM_STG_TJLIM_EFF.TJLIM_EFF -/
def THM_STG_TJLIM_EFF (n : Nat) : Fld := ⟨0x90150 + 0x00080 * n, 31, 0⟩
/-- THM_TJ.TJ -/
def THM_TJ (n : Nat) : Fld := ⟨0x91000 + 4 * n, 31, 0⟩
/-- THM_LIFE.LIFE -/
def THM_LIFE (n : Nat) : Fld := ⟨0x91100 + 4 * n, 31, 0⟩
/-- THM_CYC.CYC -/
def THM_CYC (n : Nat) : Fld := ⟨0x91200 + 4 * n, 31, 0⟩
/-- SLT_STAT.HELD -/
def SLT_STAT_HELD : Fld := ⟨0xA0000, 8, 0⟩
/-- SLT_STAT.SP_LOST -/
def SLT_STAT_SP_LOST : Fld := ⟨0xA0000, 9, 9⟩
/-- SLT_STAT.LOCKED -/
def SLT_STAT_LOCKED : Fld := ⟨0xA0000, 10, 10⟩
/-- SLT_STAT.QA_OK -/
def SLT_STAT_QA_OK : Fld := ⟨0xA0000, 11, 11⟩
/-- SLT_STAT.ASC -/
def SLT_STAT_ASC : Fld := ⟨0xA0000, 12, 12⟩
/-- SLT_STAT.STEST_ERR -/
def SLT_STAT_STEST_ERR : Fld := ⟨0xA0000, 19, 16⟩
/-- SLT_EVT.QAMISS -/
def SLT_EVT_QAMISS : Fld := ⟨0xA0004, 0, 0⟩
/-- SLT_EVT.LOCKSTEP -/
def SLT_EVT_LOCKSTEP : Fld := ⟨0xA0004, 1, 1⟩
/-- SLT_EVT.OVERRUN -/
def SLT_EVT_OVERRUN : Fld := ⟨0xA0004, 2, 2⟩
/-- SLT_EVT.LIMIT -/
def SLT_EVT_LIMIT : Fld := ⟨0xA0004, 3, 3⟩
/-- SLT_EVT.SINFAULT -/
def SLT_EVT_SINFAULT : Fld := ⟨0xA0004, 4, 4⟩
/-- SLT_EVT.RESET -/
def SLT_EVT_RESET : Fld := ⟨0xA0004, 5, 5⟩
/-- SLT_EVT.FIFOOVF -/
def SLT_EVT_FIFOOVF : Fld := ⟨0xA0004, 6, 6⟩
/-- SLT_EVT.SEQ -/
def SLT_EVT_SEQ : Fld := ⟨0xA0004, 31, 24⟩
/-- SLT_QA.QUESTIONS -/
def SLT_QA_QUESTIONS : Fld := ⟨0xA0008, 15, 0⟩
/-- SLT_QA.MISSES -/
def SLT_QA_MISSES : Fld := ⟨0xA0008, 23, 16⟩
/-- SLT_SIN.PAIRS -/
def SLT_SIN : Fld := ⟨0xA000C, 15, 0⟩
/-- SLT_SINFLT.KIND -/
def SLT_SINFLT : Fld := ⟨0xA0010, 15, 0⟩
/-- SLT_RST.LEVEL -/
def SLT_RST_LEVEL : Fld := ⟨0xA0014, 0, 0⟩
/-- SLT_RST.READY -/
def SLT_RST_READY : Fld := ⟨0xA0014, 1, 1⟩
/-- SLT_RST.STUCK -/
def SLT_RST_STUCK : Fld := ⟨0xA0014, 2, 2⟩
/-- SLT_RST.PRESS_MS -/
def SLT_RST_PRESS_MS : Fld := ⟨0xA0014, 31, 16⟩
/-- SLT_LOGIDX.NEWEST -/
def SLT_LOGIDX_NEWEST : Fld := ⟨0xA0018, 15, 0⟩
/-- SLT_LOGIDX.ACKED -/
def SLT_LOGIDX_ACKED : Fld := ⟨0xA0018, 31, 16⟩
/-- SLT_LIMCRC.CRC -/
def SLT_LIMCRC : Fld := ⟨0xA001C, 31, 0⟩
/-- SLT_SINMASK.MASK -/
def SLT_SINMASK_MASK (n : Nat) : Fld := ⟨0xA0020 + 4 * n, 8, 0⟩
/-- SLT_SINMASK.EN -/
def SLT_SINMASK_EN (n : Nat) : Fld := ⟨0xA0020 + 4 * n, 9, 9⟩
/-- SLT_CHOP.CHOP_START -/
def SLT_CHOP_CHOP_START : Fld := ⟨0xA0100, 15, 0⟩
/-- SLT_CHOP.CHOP_FULL -/
def SLT_CHOP_CHOP_FULL : Fld := ⟨0xA0100, 31, 16⟩
/-- SLT_OV.OV_TRIP -/
def SLT_OV_OV_TRIP : Fld := ⟨0xA0104, 15, 0⟩
/-- SLT_OV.OV_ASC -/
def SLT_OV_OV_ASC : Fld := ⟨0xA0104, 31, 16⟩
/-- SLT_BUDGET.CHOP_BUDGET -/
def SLT_BUDGET_CHOP_BUDGET : Fld := ⟨0xA0108, 15, 0⟩
/-- SLT_BUDGET.CHOP_PCONT -/
def SLT_BUDGET_CHOP_PCONT : Fld := ⟨0xA0108, 31, 16⟩
/-- SLT_VSCALE.VSCALE -/
def SLT_VSCALE : Fld := ⟨0xA010C, 31, 0⟩
/-- SLT_ISCALE.ISCALE -/
def SLT_ISCALE : Fld := ⟨0xA0110, 31, 0⟩
/-- SLT_HB.DTFLOOR -/
def SLT_HB_DTFLOOR (n : Nat) : Fld := ⟨0xA1000 + 8 * n, 15, 0⟩
/-- SLT_HB.MINPFLOOR -/
def SLT_HB_MINPFLOOR (n : Nat) : Fld := ⟨0xA1000 + 8 * n, 31, 16⟩
/-- SLT_HB_FSW.FSWMAX -/
def SLT_HB_FSW (n : Nat) : Fld := ⟨0xA1004 + 8 * n, 15, 0⟩
/-- SLT_TRIP.CH -/
def SLT_TRIP_CH (n : Nat) : Fld := ⟨0xA2000 + 0x00010 * n, 6, 0⟩
/-- SLT_TRIP.EN -/
def SLT_TRIP_EN (n : Nat) : Fld := ⟨0xA2000 + 0x00010 * n, 7, 7⟩
/-- SLT_TRIP.HIEN -/
def SLT_TRIP_HIEN (n : Nat) : Fld := ⟨0xA2000 + 0x00010 * n, 8, 8⟩
/-- SLT_TRIP.LOEN -/
def SLT_TRIP_LOEN (n : Nat) : Fld := ⟨0xA2000 + 0x00010 * n, 9, 9⟩
/-- SLT_TRIP_HI.HI -/
def SLT_TRIP_HI (n : Nat) : Fld := ⟨0xA2004 + 0x00010 * n, 23, 0⟩
/-- SLT_TRIP_LO.LO -/
def SLT_TRIP_LO (n : Nat) : Fld := ⟨0xA2008 + 0x00010 * n, 23, 0⟩
/-- SLT_TRIP_HBMASK.HBMASK -/
def SLT_TRIP_HBMASK (n : Nat) : Fld := ⟨0xA200C + 0x00010 * n, 31, 0⟩
/-- PWR_STATE.STATE -/
def PWR_STATE_STATE : Fld := ⟨0xB0000, 7, 0⟩
/-- PWR_STATE.PREV -/
def PWR_STATE_PREV : Fld := ⟨0xB0000, 15, 8⟩
/-- PWR_STATE.REASON -/
def PWR_STATE_REASON : Fld := ⟨0xB0000, 23, 16⟩
/-- PWR_STATE.TIME_INVALID -/
def PWR_STATE_TIME_INVALID : Fld := ⟨0xB0000, 24, 24⟩
/-- PWR_WAKE_EN.EN -/
def PWR_WAKE_EN : Fld := ⟨0xB0004, 5, 0⟩
/-- PWR_WAKE_SRC.SRC -/
def PWR_WAKE_SRC_SRC : Fld := ⟨0xB0008, 5, 0⟩
/-- PWR_WAKE_SRC.SEQ -/
def PWR_WAKE_SRC_SEQ : Fld := ⟨0xB0008, 31, 24⟩
/-- PWR_ALARM.ALARM -/
def PWR_ALARM : Fld := ⟨0xB000C, 31, 0⟩
/-- PWR_SUPPLY.VSUP_MV -/
def PWR_SUPPLY_VSUP_MV : Fld := ⟨0xB0010, 15, 0⟩
/-- PWR_SUPPLY.BKP_MV -/
def PWR_SUPPLY_BKP_MV : Fld := ⟨0xB0010, 31, 16⟩
/-- PWR_CFG.SLEEP_TIMEOUT -/
def PWR_CFG_SLEEP_TIMEOUT : Fld := ⟨0xB0014, 15, 0⟩
/-- PWR_CFG.HANDOVER -/
def PWR_CFG_HANDOVER : Fld := ⟨0xB0014, 31, 16⟩
/-- PWR_BKP_CTRL.ENABLE -/
def PWR_BKP_CTRL_ENABLE : Fld := ⟨0xB0018, 0, 0⟩
/-- PWR_BKP_CTRL.CAPACITY -/
def PWR_BKP_CTRL_CAPACITY : Fld := ⟨0xB0018, 15, 8⟩
/-- PWR_BKP_CTRL.FAST_MA -/
def PWR_BKP_CTRL_FAST_MA : Fld := ⟨0xB0018, 23, 16⟩
/-- PWR_BKP_CTRL.FAST_TIMER -/
def PWR_BKP_CTRL_FAST_TIMER : Fld := ⟨0xB0018, 27, 24⟩
/-- PWR_BKP_STAT.PHASE -/
def PWR_BKP_STAT_PHASE : Fld := ⟨0xB001C, 3, 0⟩
/-- PWR_BKP_STAT.FALLBACK -/
def PWR_BKP_STAT_FALLBACK : Fld := ⟨0xB001C, 4, 4⟩
/-- PWR_BKP_STAT.CURRENT_MA -/
def PWR_BKP_STAT_CURRENT_MA : Fld := ⟨0xB001C, 15, 8⟩
/-- PWR_BKP_STAT.CELL_TEMP -/
def PWR_BKP_STAT_CELL_TEMP : Fld := ⟨0xB001C, 23, 16⟩
/-- PWR_BKP_STAT.TERM -/
def PWR_BKP_STAT_TERM : Fld := ⟨0xB001C, 26, 24⟩
/-- COM_CFG.ETH_EN -/
def COM_CFG_ETH_EN : Fld := ⟨0xC0000, 0, 0⟩
/-- COM_CFG.ETH_MASTER -/
def COM_CFG_ETH_MASTER : Fld := ⟨0xC0000, 1, 1⟩
/-- COM_CFG.CAN0_EN -/
def COM_CFG_CAN0_EN : Fld := ⟨0xC0000, 2, 2⟩
/-- COM_CFG.CAN1_EN -/
def COM_CFG_CAN1_EN : Fld := ⟨0xC0000, 3, 3⟩
/-- COM_CFG.SPI_EN -/
def COM_CFG_SPI_EN : Fld := ⟨0xC0000, 4, 4⟩
/-- COM_CFG.SESSION_IDLE -/
def COM_CFG_SESSION_IDLE : Fld := ⟨0xC0000, 15, 8⟩
/-- COM_CAN_ID.REQ_ID -/
def COM_CAN_ID_REQ_ID : Fld := ⟨0xC0004, 10, 0⟩
/-- COM_CAN_ID.RSP_ID -/
def COM_CAN_ID_RSP_ID : Fld := ⟨0xC0004, 21, 11⟩
/-- COM_CAN_ID.SDT -/
def COM_CAN_ID_SDT : Fld := ⟨0xC0004, 29, 22⟩
/-- COM_CONTACT.CONTACT_S -/
def COM_CONTACT_CONTACT_S : Fld := ⟨0xC0008, 15, 0⟩
/-- COM_CONTACT.HB_MS -/
def COM_CONTACT_HB_MS : Fld := ⟨0xC0008, 31, 16⟩
/-- COM_ERR.DISCARD -/
def COM_ERR_DISCARD : Fld := ⟨0xC000C, 7, 0⟩
/-- COM_ERR.CRC_ERR -/
def COM_ERR_CRC_ERR : Fld := ⟨0xC000C, 15, 8⟩
/-- COM_ERR.DUP -/
def COM_ERR_DUP : Fld := ⟨0xC000C, 23, 16⟩
/-- COM_ERR.AUTH_FAIL -/
def COM_ERR_AUTH_FAIL : Fld := ⟨0xC000C, 31, 24⟩
/-- RDG_STAT.SEAL -/
def RDG_STAT_SEAL : Fld := ⟨0xD0000, 1, 0⟩
/-- RDG_STAT.TIME_VALID -/
def RDG_STAT_TIME_VALID : Fld := ⟨0xD0000, 2, 2⟩
/-- RDG_STAT.STALE -/
def RDG_STAT_STALE : Fld := ⟨0xD0000, 3, 3⟩
/-- RDG_STAT.LOCKOUT -/
def RDG_STAT_LOCKOUT : Fld := ⟨0xD0000, 4, 4⟩
/-- RDG_STAT.ACTIVE -/
def RDG_STAT_ACTIVE : Fld := ⟨0xD0000, 15, 8⟩
/-- RDG_STAT.REJECTS -/
def RDG_STAT_REJECTS : Fld := ⟨0xD0000, 31, 16⟩
/-- RDG_TIME.TIME -/
def RDG_TIME : Fld := ⟨0xD0004, 31, 0⟩
/-- RDG_LEC.LEC -/
def RDG_LEC : Fld := ⟨0xD0008, 31, 0⟩
/-- RDG_ODO_H.ODO_H -/
def RDG_ODO_H : Fld := ⟨0xD000C, 31, 0⟩
/-- RDG_ODO_L.ODO_L -/
def RDG_ODO_L : Fld := ⟨0xD0010, 31, 0⟩
/-- RDG_IMP_H.IMP_H -/
def RDG_IMP_H : Fld := ⟨0xD0014, 31, 0⟩
/-- RDG_IMP_L.IMP_L -/
def RDG_IMP_L : Fld := ⟨0xD0018, 31, 0⟩
/-- RDG_EXP_H.EXP_H -/
def RDG_EXP_H : Fld := ⟨0xD001C, 31, 0⟩
/-- RDG_EXP_L.EXP_L -/
def RDG_EXP_L : Fld := ⟨0xD0020, 31, 0⟩
/-- RDG_EVTNEW.EVTNEW -/
def RDG_EVTNEW : Fld := ⟨0xD0028, 31, 0⟩
/-- RDG_DAYSEALED.DAYSEALED -/
def RDG_DAYSEALED : Fld := ⟨0xD002C, 31, 0⟩
/-- RDG_FWVER.FWVER -/
def RDG_FWVER : Fld := ⟨0xD0034, 31, 0⟩
/-- RDG_SPEED.SPEED -/
def RDG_SPEED : Fld := ⟨0xD0024, 15, 0⟩
/-- RDG_PENDING.PENDING -/
def RDG_PENDING : Fld := ⟨0xD0030, 15, 0⟩
/-- RDG_AGE.AGE_MS -/
def RDG_AGE : Fld := ⟨0xD0038, 15, 0⟩
/-- IDN_SERIAL_H.SERIAL -/
def IDN_SERIAL_H : Fld := ⟨0xE0000, 31, 0⟩
/-- IDN_SERIAL_L.SERIAL -/
def IDN_SERIAL_L : Fld := ⟨0xE0004, 31, 0⟩
/-- IDN_REV.REV -/
def IDN_REV_REV : Fld := ⟨0xE0008, 7, 0⟩
/-- IDN_REV.LIFECYCLE -/
def IDN_REV_LIFECYCLE : Fld := ⟨0xE0008, 15, 8⟩
/-- IDN_MAC_H.MAC_H -/
def IDN_MAC_H : Fld := ⟨0xE000C, 15, 0⟩
/-- IDN_MAC_L.MAC_L -/
def IDN_MAC_L : Fld := ⟨0xE0010, 31, 0⟩
/-- IDN_FWSTAT.POINTER -/
def IDN_FWSTAT_POINTER (n : Nat) : Fld := ⟨0xE0020 + 4 * n, 0, 0⟩
/-- IDN_FWSTAT.BOOTED -/
def IDN_FWSTAT_BOOTED (n : Nat) : Fld := ⟨0xE0020 + 4 * n, 1, 1⟩
/-- IDN_FWSTAT.STATE_A -/
def IDN_FWSTAT_STATE_A (n : Nat) : Fld := ⟨0xE0020 + 4 * n, 3, 2⟩
/-- IDN_FWSTAT.STATE_B -/
def IDN_FWSTAT_STATE_B (n : Nat) : Fld := ⟨0xE0020 + 4 * n, 5, 4⟩
/-- IDN_FWSTAT.COUNTER -/
def IDN_FWSTAT_COUNTER (n : Nat) : Fld := ⟨0xE0020 + 4 * n, 15, 8⟩
/-- IDN_VERSION.VERSION -/
def IDN_VERSION (n : Nat) : Fld := ⟨0xE0030 + 4 * n, 31, 0⟩
/-- IDN_DEBUG.UNLOCK -/
def IDN_DEBUG_UNLOCK : Fld := ⟨0xE0040, 0, 0⟩
/-- IDN_DEBUG.DEBUGS -/
def IDN_DEBUG_DEBUGS : Fld := ⟨0xE0040, 31, 16⟩
/-- IDN_DIEMIS.DIEMIS -/
def IDN_DIEMIS : Fld := ⟨0xE0048, 31, 0⟩
/-- IDN_LOT_H.LOT_H -/
def IDN_LOT_H (n : Nat) : Fld := ⟨0xE0100 + 0x00010 * n, 31, 0⟩
/-- IDN_LOT_L.LOT_L -/
def IDN_LOT_L (n : Nat) : Fld := ⟨0xE0104 + 0x00010 * n, 31, 0⟩
/-- IDN_WAFER.WAFER -/
def IDN_WAFER (n : Nat) : Fld := ⟨0xE0108 + 0x00010 * n, 7, 0⟩
/-- IDN_XY.X -/
def IDN_XY_X (n : Nat) : Fld := ⟨0xE010C + 0x00010 * n, 15, 0⟩
/-- IDN_XY.Y -/
def IDN_XY_Y (n : Nat) : Fld := ⟨0xE010C + 0x00010 * n, 31, 16⟩

end Sys2Proof.Machine.F
end

