-- ==== Sys2Proof/Machine/State.lean ====
section
/-! DEFINITION. The state of the OX760 as plain data, and the state after reset. -/

namespace Sys2Proof.Machine

/-- A reply before it is packed (R75). -/
structure Reply where
  opcode : Nat
  seq : BitVec 16
  session : Word
  status : Nat
  data : List Byte
  deriving DecidableEq, Repr

/-- Where a reply goes: the transport and the sender of its request (R77, R78). -/
structure Ticket where
  port : Port
  fd : Bool
  mac : BitVec 48
  vlan : Option (BitVec 16)
  opcode : Nat
  seq : BitVec 16
  session : Word
  crc : Word
  deriving DecidableEq, Repr

/-- A packet as its transport carries it (R77 to R80): on 1000BASE-T1 the destination, the VLAN tag and the bytes after Ethertype 0x88B5; on CAN the controller, the priority identifier and the data field, with SDT, VCID and acceptance field in CAN XL; on the host SPI the packet. -/
inductive Frame
  | eth (dest : BitVec 48) (vlan : Option (BitVec 16)) (packet : List Byte)
  | canXl (controller id sdt vcid acceptance : Nat) (packet : List Byte)
  | canFd (controller id : Nat) (data : List Byte)
  | spi (packet : List Byte)
  deriving DecidableEq, Repr

/-- What the module sends out. -/
inductive Sent
  | reply (dst : Ticket) (r : Reply) (frame : Frame)
  | stream (session : Word) (seq : Nat) (frame : Frame)
  /-- the bytes on SDO of one transaction (R80) -/
  | sdo (bytes : List Byte)
  | sleepRequest
  | rlink (opcode seq : Nat) (status : Nat) (data : List Byte)
  deriving DecidableEq, Repr

/-- A request whose reply has not left yet, in order of arrival (R87). -/
structure Slot where
  ticket : Ticket
  background : Bool
  ready : Option Reply
  deriving DecidableEq, Repr

/-- One of the last 16 requests of a session (R85); no reply while it executes. -/
structure CacheEntry where
  seq : BitVec 16
  crc : Word
  reply : Option Reply
  deriving DecidableEq, Repr

/-- An open session (R91). -/
structure Session where
  id : Word
  port : Port
  mac : BitVec 48
  /-- level held: 1 OPERATE, 2 SERVICE, 3 FACTORY -/
  level : Nat
  /-- level asked for at SESSION_OPEN -/
  want : Nat
  /-- the challenge while a proof is pending -/
  challenge : Option (List Byte)
  /-- the challenge has expired unused -/
  lapsed : Bool
  openedAt : Nat
  lastAt : Nat
  /-- a request other than the SESSION_OPEN has been received -/
  used : Bool
  cache : List CacheEntry
  deriving DecidableEq, Repr

/-- The last SESSION_OPEN answered OK, per transport and sender (R86). -/
structure OpenEntry where
  port : Port
  mac : BitVec 48
  seq : BitVec 16
  crc : Word
  reply : Reply
  deriving DecidableEq, Repr

/-- An unfinished chunked transfer (R89). -/
structure Transfer where
  opcode : Nat
  session : Word
  /-- engine of LE_LOAD, target of FW_STAGE -/
  unit : Nat
  total : Nat
  data : List Byte
  deriving DecidableEq, Repr

/-- A long result kept for its session (R90). -/
structure LongResult where
  opcode : Nat
  session : Word
  key : List Byte
  bytes : List Byte
  deriving DecidableEq, Repr

/-- What the one signature engine works on (R88). -/
inductive SigJob
  | proof (t : Ticket) (bytes : List Byte)
  | image (t : Ticket) (bytes : List Byte)
  | firmware (t : Ticket) (target : Nat) (bytes : List Byte)
  | attest (t : Ticket) (nonce report : List Byte) (maxLen : Nat)
  deriving DecidableEq, Repr

/-- One sample set of the stream: its Batten time, the OVR flags of its words and their 24 significant bits. -/
structure StreamSet where
  time : Nat := 0
  ovr : Nat := 0
  words : List Nat := []
  deriving DecidableEq, Repr

/-- The telemetry stream (R99, R100). -/
structure Stream where
  session : Word
  dest : BitVec 48
  dec : Nat
  chans : List Nat
  seq : Nat := 0
  /-- output instants since the last set that was kept -/
  skip : Nat := 0
  /-- instant of the outputs being collected, and those that have come: channel, word, OVR -/
  at_ : Nat := 0
  part : List (Nat × Nat × Bool) := []
  /-- complete sets not yet sent, oldest first -/
  sets : List StreamSet := []
  /-- OVR flags of outputs between two sets that no waiting set carries -/
  ovr : Nat := 0
  deriving DecidableEq, Repr

/-- A write kept in a shadow until its owner's boundary (R116, R117). -/
structure PendWrite where
  addr : Nat
  mask : Nat
  value : Nat
  /-- kept back by the open hold -/
  held : Bool
  /-- the owner's shadow guard has passed it: it applies at the coming period start -/
  armed : Bool
  /-- bits that no write made later and already applied has overtaken: a read returns them (R106) -/
  shown : Nat := 0xFFFFFFFF
  deriving DecidableEq, Repr

/-- The one hold of the module (R117). -/
structure Hold where
  session : Word
  since : Nat
  deriving DecidableEq, Repr

/-- Counter increments of the running CD3 cycle, for the counter row of Table 5.3 (R109). -/
structure CycleIncs where
  cycle : Nat := 0
  incs : List (Nat × Nat × Nat) := []
  deriving DecidableEq, Repr

/-- Command packets and transports (R73 to R101). -/
structure Com where
  sessions : List Session := []
  opens : List OpenEntry := []
  slots : List Slot := []
  /-- replies pending on the host SPI, oldest first, with the instant each became pending -/
  spiOut : List (Nat × Ticket × Reply) := []
  transfers : List Transfer := []
  longs : List LongResult := []
  sigJob : Option SigJob := none
  authFails : List Nat := []
  lockoutUntil : Option Nat := none
  lastContact : Nat := 0
  lastHeartbeat : Nat := 0
  /-- instant of the last host contact that was made, whatever boots have come since (R67) -/
  hostAt : Option Nat := none
  stream : Option Stream := none
  mbxOwner : Option Word := none
  mbxAt : Nat := 0
  linkUp : Bool := false
  hold : Option Hold := none
  sent : List Sent := []
  deriving DecidableEq, Repr

/-- The backup-cell charger (R62 to R67); its phase stands in PWR_BKP_STAT. -/
structure Charger where
  /-- instant up to which the running times below are counted -/
  countedAt : Nat := 0
  /-- time spent in the running phase, Suspended not counted -/
  ran : Nat := 0
  /-- phase that Suspended interrupts -/
  interrupted : Nat := 0
  /-- CAPACITY in force at the start of the phase (R72) -/
  capacity : Nat := 0
  vMax : Nat := 0
  temps : List (Nat × Int) := []
  /-- instant at which the current last became 0 -/
  zeroAt : Nat := 0
  /-- charging time under the safe defaults (R67) -/
  defaultRan : Nat := 0
  sampledAt : Option Nat := none
  /-- in Fault, what its cause hangs on: 0 nothing, the cause has gone; 1 BKP_NTC out of range; 2 BKP above 4.8 V -/
  cause : Nat := 0
  /-- BKP_NTC is out of its range (R65) -/
  ntcBad : Bool := false
  /-- no cell was found while in Fault: the Fault stands once a pack is back -/
  underFault : Bool := false
  /-- instant of the last check for an absent pack -/
  retryAt : Nat := 0
  deriving DecidableEq, Repr

/-- A PWR_STATE_SET SLEEP accepted and not yet entered (R491). -/
structure SleepReq where
  ticket : Ticket
  since : Nat
  delivered : Bool
  /-- a wake qualified after acceptance: the boot follows at once (R42) -/
  wake : Bool
  deriving DecidableEq, Repr

/-- Power states, the Eave and the backup cell. -/
structure Pwr where
  /-- instant t0 of the boot in progress -/
  boot : Option Nat := none
  /-- last step of Table 5.8 that the boot has done; 9 once STANDBY was reached -/
  step : Nat := 0
  /-- NRST low, or the main die held in reset -/
  inReset : Bool := false
  /-- instant of boot step 2, from which Batten time counts (R133) -/
  battenBase : Nat := 0
  /-- instant at which the Slate started on CD11: boot step 1 -/
  slateBase : Nat := 0
  /-- the level of RSTREQ after its filter (R424) -/
  rstHigh : Bool := false
  /-- state from which SAFE was entered -/
  safeFrom : Nat := 0
  wakeN : Bool := false
  cpWake : Bool := false
  ppClass : Nat := 0
  ppCand : Nat := 0
  ppRun : Nat := 0
  /-- Eave time in 1/32,768 s at the instant eaveAt, and the correction still to be slewed in -/
  eaveBase : Nat := 0
  eaveAt : Nat := 0
  eaveSlew : Int := 0
  eaveRuns : Bool := false
  handover : Option Nat := none
  /-- instant at which the last hand-over completed (R58) -/
  handEnd : Nat := 0
  /-- instant at which Eave time was last loaded or realigned (R52) -/
  realignAt : Nat := 0
  /-- hand-overs counted since the previous boot (R60) -/
  interruptions : Nat := 0
  sleep : Option SleepReq := none
  /-- VSUP in mV as last reported to the Eave -/
  vsupMv : Nat := 0
  /-- since when VSUP has stayed above 7.5 V -/
  vsupHighAt : Option Nat := none
  charger : Charger := {}
  /-- reset by FW_ACTIVATE due at an instant (R482) -/
  activateAt : Option Nat := none
  /-- REASON that the boot in progress will show -/
  bootReason : Nat := 0
  /-- an accepted RSTREQ reset, to be recorded by the next boot -/
  resetAccepted : Bool := false
  /-- a charge session was lost by a hand-over: the next boot shows ENDREASON 7 (Table 11.7) -/
  chargeLost : Bool := false
  deriving DecidableEq, Repr

/-- A main fault-log record (Table 15.7). -/
structure FaultRec where
  serial : Nat
  idx : Nat
  cls : Nat
  acked : Bool
  inDt : Bool
  spLost : Bool
  safe : Bool
  code : Nat
  merged : Nat
  batten : Nat
  eave : Nat
  pstate : Nat
  /-- mask of the stages affected -/
  stages : Nat
  item : Nat
  source : Nat
  detail : Nat
  deriving DecidableEq, Repr

/-- The last record of a rate-limited fault (R119, R281). -/
structure RateEntry where
  code : Nat
  key : Nat
  time : Nat
  serial : Nat
  deriving DecidableEq, Repr

/-- The last-fault record of a stage (R96): time, code and quantities. -/
structure LastFault where
  time : Nat
  code : Nat
  quantities : List (Nat × F32)
  deriving DecidableEq, Repr

/-- A write waiting in the MRAM queue (R384): 0 a fault record, 1 a wear save, 2 a retirement, 3 a chunk of FW_STAGE. -/
structure MramItem where
  kind : Nat
  /-- serial of the record; channel of the wear save; what retires: 0 and 1 the traction sets, 16 + k buck phase k, 32 + j chopper switch j, 48 the DCX; the target of the chunk -/
  key : Nat
  cls : Nat
  words : Nat
  deriving DecidableEq, Repr

/-- The main fault log and the class A FIFO (R414 to R417). -/
structure FaultLog where
  /-- the ring of 256, newest first -/
  recs : List FaultRec := []
  /-- unacknowledged records that left the ring -/
  gone : List FaultRec := []
  /-- class A events not yet drained, oldest first -/
  fifo : List FaultRec := []
  fifoLost : Nat := 0
  serial : Nat := 0
  rates : List RateEntry := []
  queue : List MramItem := []
  /-- THM_LOG_LOST of this inhibit: 0 nothing has been lost, 1 queued, 2 due and without room in the queue -/
  lostRec : Nat := 0
  /-- records due at the next boot's step 9 -/
  bootRecs : List FaultRec := []
  last : List (Nat × LastFault) := []
  deriving DecidableEq, Repr

/-- A latch of a half-bridge (Table 10.4). -/
structure Latch where
  hb : Nat
  /-- Table 10.8 -/
  source : Nat
  /-- the channel whose island or driver set it; for a Slate latch, its half-bridge's high side -/
  ch : Nat
  /-- COMP trip: the trip entry -/
  entry : Nat
  /-- serial of its fault record -/
  serial : Nat
  setAt : Nat
  deriving DecidableEq, Repr

/-- What the drivers and islands see, whatever the reset of the main die does to the registers that show it: DRVEN high, trip inputs low, supplies above their thresholds (R6, R28, R268, R275, R284). -/
structure Levels where
  drven : Bool := false
  tripLow : Nat := 15
  vdrv : Bool := false
  /-- islands whose VP, and whose VN, is good -/
  vp : Nat := 0
  vn : Nat := 0
  deriving DecidableEq, Repr

/-- Drivers and bridge protection (R265 to R291). -/
structure Gate where
  levels : Levels := {}
  latches : List Latch := []
  /-- instant DRVEN fell, while it is low -/
  drvenLowAt : Option Nat := none
  /-- end of a soft turn-off in progress, per channel -/
  softUntil : Vector Nat 64 := Vector.replicate 64 0
  /-- gate commanded on by the Batten schedule -/
  sched : Vector Bool 64 := Vector.replicate 64 false
  /-- release instant of a turn-on pending in its dead time -/
  pendOn : Vector (Option Nat) 64 := Vector.replicate 64 none
  /-- Miller clamp engaged -/
  clamp : Vector Bool 64 := Vector.replicate 64 false
  /-- releases of the last two turn-ons, newest first (R402) -/
  onRel : Vector (List Nat) 64 := Vector.replicate 64 []
  /-- release of the last turn-off -/
  offRel : Vector (Option Nat) 64 := Vector.replicate 64 none
  /-- land instant of the last edge commanded, of a protection its own (R266, R269) -/
  cmdAt : Vector Nat 64 := Vector.replicate 64 0
  /-- state of the gate that the monitor has seen to differ from the command (R269) -/
  seen : Vector (Option Bool) 64 := Vector.replicate 64 none
  /-- a turn-off held on to MINPFLOOR: instant at which it is due -/
  minHold : Vector (Option Nat) 64 := Vector.replicate 64 none
  /-- chopper energy bucket in joules and its block (R289) -/
  bucket : Rat := 0
  chopBlock : Bool := false
  /-- islands at which CD6 is missing -/
  clkMissing : Vector Bool 32 := Vector.replicate 32 false
  deriving DecidableEq, Repr

/-- One safety-input channel: its debounced level, the frames in a row that found it stuck or cross-shorted, and whether its CHATTER cause still stands (R420 to R422). -/
structure SinCh where
  deb : Bool := false
  stuckRun : Nat := 0
  crossRun : Nat := 0
  chat : Bool := false
  deriving DecidableEq, Repr

/-- One safety-input pair: its channels, the fault kind of SLT_SINFLT, the frames tested well since, and whether the running frame has found a fault or left a channel untested. -/
structure SinPair where
  a : SinCh := {}
  b : SinCh := {}
  kind : Nat := 0
  goodFrames : Nat := 0
  frameBad : Bool := false
  differSince : Option Nat := none
  deriving DecidableEq, Repr

/-- A class B fault whose condition holds back the release of its stages (R412, R494). -/
structure Cond where
  code : Nat
  item : Nat
  stages : Nat
  serial : Nat
  deriving DecidableEq, Repr

/-- The Slate and what the SP does through it (R394 to R425). -/
structure Slate where
  /-- safe state of each stage: 0 none, 1 all off, 2 low-side ASC, 3 high-side ASC -/
  kind : Vector Nat 9 := Vector.replicate 9 0
  /-- stages held under class A (R409), and since when (Table 9.8) -/
  classA : Nat := 0
  classAAt : Vector Nat 9 := Vector.replicate 9 0
  /-- ASC chosen by a later fault of a running class B transition (R257, R410) -/
  want : Vector Nat 9 := Vector.replicate 9 0
  /-- 10 ms timer per stage in a class B transition -/
  timer : Vector (Option Nat) 9 := Vector.replicate 9 none
  conds : List Cond := []
  /-- stages with a short-circuit record since the last boot: low side, high side -/
  scLow : Nat := 0
  scHigh : Nat := 0
  /-- since when E has stayed at or below 0.8 × VDC (R258) -/
  lowEmfSince : Option Nat := none
  arming : Option Nat := none
  armedAt : Nat := 0
  dueCount : Nat := 0
  question : BitVec 16 := 0
  questionAt : Nat := 0
  /-- answer words received to the question, all of them right so far; whether the answer has been judged -/
  words : Nat := 0
  judged : Bool := false
  sin : Vector SinPair 4 := Vector.replicate 4 {}
  /-- CD5 or CD6 lost, CD3 lost -/
  clkLost : List SltClock := []
  /-- traction sets whose class A hold has a cause that belongs to the whole drive (R259) -/
  driveA : Nat := 0
  /-- trip entries whose code is beyond its threshold -/
  beyond : List Nat := []
  /-- RSTREQ: level, press and release instants; a press counts only when it was preceded by a release -/
  rstPressAt : Option Nat := none
  rstReleaseAt : Option Nat := none
  rstClean : Bool := false
  /-- instants since which the in-line currents of each set stay within 5 % of full scale (R425) -/
  lowCurrentSince : Vector (Option Nat) 2 := Vector.replicate 2 none
  /-- stages found with a wrong gate path, sets found with an implausible torque -/
  gateBad : Nat := 0
  torqueBad : Nat := 0
  /-- start of the last test pulse on TPSA and TPSB (R419) -/
  pulseAt : Vector Nat 2 := Vector.replicate 2 0
  /-- frame of the last test pulse, and of the last sample, on TPSA and TPSB (R419, R420) -/
  pulseFrame : Vector Nat 2 := Vector.replicate 2 0
  sampleFrame : Vector Nat 2 := Vector.replicate 2 0
  /-- causes of a lost SP already recorded: bit 0 a missed answer, bit 1 the lockstep comparator (R397) -/
  lostBy : Nat := 0
  limitsBad : Bool := false
  cd11Bad : Bool := false
  deriving DecidableEq, Repr

/-- A carrier: a sequence of period starts (R136 to R141). Instants are fine ticks of the model clock. -/
structure Carrier where
  running : Bool := false
  /-- RUN is set and the first period has not started: its instant, where known -/
  waiting : Bool := false
  /-- start of the period before the running one, while the carrier has run without a stop -/
  prev : Option Nat := none
  /-- start of the running period and of the next one -/
  cur : Nat := 0
  next : Nat := 0
  /-- effective period of the running period, and the one the guard has found for the next -/
  eff : Nat := 0
  nextEff : Nat := 0
  /-- phase offset in force (followers) and the PHASE it came from -/
  offset : Nat := 0
  phaseIn : Nat := 0
  stopping : Bool := false
  /-- the reference has stopped (R139) -/
  refLost : Bool := false
  /-- the guard of the next period has begun -/
  guarded : Bool := false
  /-- PERIOD is below the effective period: the cause of PERCLAMP (R111, R140) -/
  clamp : Bool := false
  deriving DecidableEq, Repr

/-- One scheduled edge: its channel, its direction and the instant it appears at the land. -/
structure Edge where
  ch : Nat
  on : Bool
  land : Nat
  deriving DecidableEq, Repr

/-- What the Batten has decided for the next period of a half-bridge (R146 to R156): its high interval, or in mode 2 those of its two channels, from rise for dOut ticks. -/
structure HbPlan where
  mode : Nat := 0
  /-- compares in force for the period -/
  on0 : Nat := 0
  off0 : Nat := 0
  on1 : Nat := 0
  off1 : Nat := 0
  rise : Int := 0
  dOut : Int := 0
  rise1 : Int := 0
  dOut1 : Int := 0
  carry0 : Int := 0
  carry1 : Int := 0
  clamp : Bool := false
  order : Bool := false
  drops : Nat := 0
  dropHi : Bool := false
  dropLo : Bool := false
  refresh : Bool := false
  /-- the period's own low interval serves as the refresh pulse -/
  refreshOwn : Bool := false
  /-- delay of R153 in fine ticks -/
  stretch : Int := 0
  /-- the period has a low-side on-pulse of at least TREFR_eff -/
  lowOk : Bool := false
  taken : Bool := false
  deriving DecidableEq, Repr

/-- What a window unit has decided for the next period (R158, R159). -/
structure WinPlan where
  w0 : Nat := 0
  sampled : Nat := 0
  later : Nat := 0
  earlier : Nat := 0
  fail : Bool := false
  moved : Bool := false
  deriving DecidableEq, Repr

/-- A half-bridge as the Batten keeps it. -/
structure HbState where
  on0 : Nat := 0
  off0 : Nat := 0
  on1 : Nat := 0
  off1 : Nat := 0
  fresh : Bool := false
  writtenAt : Nat := 0
  carry0 : Int := 0
  carry1 : Int := 0
  mode : Nat := 0
  carryCfg : Bool := false
  tminp : Nat := 0
  noLow : Nat := 0
  bstForce : Bool := false
  fails : Nat := 0
  /-- a refresh pulse's low-side turn-off is due: the comparator is sampled there -/
  sample : Bool := false
  bstUv : Bool := false
  /-- channel states at the end of the scheduled edges -/
  endHi : Bool := false
  endLo : Bool := false
  /-- land instant of the last scheduled low-side turn-on -/
  lowOnAt : Nat := 0
  /-- a latch, a block or DRVEN low has stood in the running period: the high and the low side resume with the next one (R283) -/
  bar0 : Bool := false
  bar1 : Bool := false
  plan : Option HbPlan := none
  /-- the on-pulse of the running period was dropped (R336) -/
  noPulse : Bool := false
  deriving DecidableEq, Repr

/-- The Batten (R133 to R159). -/
structure Batten where
  cars : Vector Carrier 16 := Vector.replicate 16 {}
  hbs : Vector HbState 32 := Vector.replicate 32 {}
  /-- scheduled edges not yet released -/
  edges : List Edge := []
  recalAt : Nat := 0
  /-- half-bridges under window placement, per unit, as a mask -/
  winOn : Vector Nat 2 := Vector.replicate 2 0
  winPlan : Vector (Option WinPlan) 2 := Vector.replicate 2 none
  deriving DecidableEq, Repr

/-- A Gauze channel beside its registers (R163 to R189). -/
structure GzCh where
  /-- outputs of each path still to pass before words are valid again (Table 7.4) -/
  compLeft : Nat := 0
  fastLeft : Nat := 0
  fineLeft : Nat := 0
  /-- average mode: a period must start at or after this instant to count -/
  avgFrom : Nat := 0
  /-- direction of the overrange whose clamp code the paths hold: 1 up, -1 down, 0 none -/
  ovr : Int := 0
  /-- the input is out of range now -/
  ovrIn : Bool := false
  /-- start of the last overrange, and the input's return -/
  ovrAt : Option Nat := none
  backAt : Option Nat := none
  /-- the clamp holds per path until its recovery has passed -/
  clampComp : Bool := false
  clampFast : Bool := false
  clampFine : Bool := false
  /-- instant from which a restarted modulator runs -/
  upAt : Nat := 0
  compTime : Nat := 0
  fastTime : Nat := 0
  fineTime : Nat := 0
  compFlags : Nat := 0
  fastFlags : Nat := 0
  fineFlags : Nat := 0
  /-- a flat external bitstream, and the FAST outputs still to pass after its run -/
  flat : Bool := false
  flatLeft : Nat := 0
  leadDone : Bool := false
  /-- instant of the last conversion of a SLOT channel, and the instants on its carrier that are scheduled and not yet converted -/
  lastConv : Option Nat := none
  convs : List Nat := []
  /-- start of the period whose average or window word has been delivered -/
  wordOf : Option Nat := none
  deriving DecidableEq, Repr

/-- An injected conversion pending (R178). -/
structure Injection where
  ticket : Ticket
  ch : Nat
  /-- centre of the conversion; for a copied FINE output, its instant -/
  centre : Nat
  /-- the result is a copy of the regular FINE output -/
  copy : Bool
  deriving DecidableEq, Repr

/-- A calibration requested or running (R180 to R183). -/
structure Calibration where
  mask : Nat := 0
  waiting : Bool := false
  startAt : Nat := 0
  deriving DecidableEq, Repr

/-- Gauze (R162 to R189). -/
structure Gauze where
  chans : Vector GzCh 72 := Vector.replicate 72 {}
  injections : List Injection := []
  cal : Option Calibration := none
  /-- instant at which each group's reference buffer powered up -/
  refUpAt : Vector (Option Nat) 4 := Vector.replicate 4 none
  refBad : Vector Bool 4 := Vector.replicate 4 false
  deriving DecidableEq, Repr

/-- A PI block (R210). -/
structure PiBlock where
  state : F32 := 0
  out : F32 := 0
  sat : Bool := false
  deriving DecidableEq, Repr

/-- A link word and the instant it was written (R205). -/
structure LinkWord where
  value : Word := 0
  time : Option Nat := none
  deriving DecidableEq, Repr

/-- A Gauze output held back while a slot runs (R196). -/
structure HeldInput where
  path : GzPath
  ch : Nat
  word : Word
  flags : Nat
  deriving DecidableEq, Repr

/-- An LWAIT in progress (R205). -/
structure LinkWait where
  engine : Nat
  link : Nat
  flagReg : Nat
  since : Nat
  until_ : Nat
  deriving DecidableEq, Repr

/-- Feedforward of one half-bridge: the values last posted in time (R216). -/
structure FfHb where
  hb : Nat
  on : Nat
  vleg : F32
  vlegPrev : F32
  weight : F32
  posted : Bool
  deriving DecidableEq, Repr

/-- A loop engine (R193 to R221). -/
structure Engine where
  code : List Word := []
  pc : Nat := 0
  v : Vector Word 32 := Vector.replicate 32 0
  /-- data memory, words other than 0, addresses rising (R195) -/
  mem : List (Nat × Word) := []
  bankA : List (Nat × Word) := []
  bankB : List (Nat × Word) := []
  table : List (Nat × Word) := []
  pi : Vector PiBlock 8 := Vector.replicate 8 {}
  links : Vector LinkWord 16 := Vector.replicate 16 {}
  held : List HeldInput := []
  /-- a slot runs, from its start to END -/
  inSlot : Bool := false
  pacingAt : Nat := 0
  deadline : Nat := 0
  interval : Nat := 0
  lastPacing : Option Nat := none
  /-- carrier pacing: pacing instants whose slot has not started, each with the next one, oldest first (R197, R198) -/
  pacings : List (Nat × Nat) := []
  /-- word index of the first instruction (Table 8.8) -/
  entry : Nat := 0
  slots : Nat := 0
  posted : Bool := false
  late : Bool := false
  prevLate : Bool := false
  /-- compare-staging words written in this slot -/
  staged : List Nat := []
  cycles : Nat := 0
  /-- running LOOPs, innermost first: first and last instruction, passes left -/
  loops : List (Nat × Nat × Nat) := []
  pendMode : Option Nat := none
  pendTable : List (Nat × Word) := []
  /-- a PI block saturated in this slot -/
  satNow : Bool := false
  ffClamped : Bool := false
  satTicks : Nat := 0
  feTicks : Nat := 0
  dwellSince : Option Nat := none
  satDone : Bool := false
  feDone : Bool := false
  dwellDone : Bool := false
  late3Done : Bool := false
  late10Done : Bool := false
  wait : Option LinkWait := none
  waitFine : Bool := false
  /-- Batten time of the WAIT that gates the engine -/
  waitAt : Nat := 0
  ff : List FfHb := []
  /-- last valid input voltage since the engine left STOP, and whether one has come since the previous period -/
  vin : Option Rat := none
  vinNew : Bool := false
  /-- period start the feedforward unit last counted a period for -/
  ffFor : Nat := 0
  ffStopped : Bool := false
  deriving DecidableEq, Repr

/-- A bank swap the host waits for (R207): the engines still to swap. -/
structure SwapWait where
  ticket : Ticket
  mask : Nat
  deriving DecidableEq, Repr

/-- The traction drive beside its registers (R226 to R262). -/
structure Trc where
  /-- sets armed by DRIVE_ARM -/
  sets : Nat := 0
  /-- sets retired (R262), and those retired while held, which stay out from the next DRIVE_ARM on (R391) -/
  retired : Nat := 0
  retireDue : Nat := 0
  torque : F32 := 0
  ramp : F32 := 0
  /-- limits of SPEED_LIMIT_SET, none before the first (R233) -/
  fwdLimit : Option F32 := none
  revLimit : Option F32 := none
  speedMode : Bool := false
  /-- the DRIVE_START not yet answered -/
  start : Option Ticket := none
  listenAt : Nat := 0
  listenFor : Nat := 0
  /-- operational ASC ends in a stop, otherwise in the start decision -/
  ascForStop : Bool := false
  /-- since when E has stayed below 0.8 × VDC (R238) -/
  ascLowSince : Option Nat := none
  stopAt : Nat := 0
  brakeAt : Nat := 0
  brakeZeroSince : Option Nat := none
  slowSince : Option Nat := none
  /-- DSTATE left at a loss of rotor position, and the instant of the loss -/
  lossFrom : Nat := 0
  lossAt : Nat := 0
  agreeRun : Nat := 0
  disagreeRun : Nat := 0
  /-- consecutive periods of each condition of Table 9.7, and of none -/
  badRun : Vector Nat 4 := Vector.replicate 4 0
  goodRun : Nat := 0
  /-- periods for which the amplitude rows are not evaluated -/
  ampSkip : Nat := 0
  /-- a resolver fault is declared, an overspeed recorded -/
  resFault : Bool := false
  overDone : Bool := false
  /-- speed from which the angle is extrapolated, and the observer's speed (R252, R254) -/
  nLoss : Rat := 0
  nObs : Rat := 0
  /-- line-voltage peak last measured with the gates off (R237) -/
  eMeas : Rat := 0
  /-- torque that LE4 applies, the pacing instant of its last slot under torque, and the torque at which a stop or a loss of rotor position began (R232, R236, R252) -/
  torqueNow : Rat := 0
  torqueAt : Option Nat := none
  torqueFrom : Rat := 0
  /-- the stop has come to its d-axis ramp (R236) -/
  dRamp : Bool := false
  /-- d-axis current that LE4 asks for, and the squared phase-voltage demand of each set (R231) -/
  idNow : Rat := 0
  demand : Vector Rat 2 := Vector.replicate 2 0
  /-- what a left operational ASC still adds to the current references of each set, and its largest value (R238) -/
  bias : Vector (Rat × Rat) 2 := Vector.replicate 2 (0, 0)
  biasFrom : Rat := 0
  /-- sets under operational ASC, and sets that leave it (R238) -/
  ascSets : Nat := 0
  ascLeave : Nat := 0
  /-- since when a retired set ramps its currents to zero (R262) -/
  retireAt : Vector (Option Nat) 2 := Vector.replicate 2 none
  /-- Batten time of a positive zero crossing of EXC (R247) -/
  excAt : Nat := 0
  /-- LE5's tracking loop: resolver turns, turns per second, and the Batten time they hold for (R249) -/
  resTheta : Rat := 0
  resOmega : Rat := 0
  resAt : Nat := 0
  /-- the amplitudes of the first 100 ms after boot: sum and count (Table 9.7) -/
  ampSum : Rat := 0
  ampCount : Nat := 0
  /-- LE0 has replaced a link word of LE5 by extrapolation since LE5's last period (R249) -/
  lateWord : Bool := false
  /-- the same of the last period without a fault sample, whose comparison LE13 still has to make (R252) -/
  cand : Option (Rat × Rat × Nat) := none
  /-- electrical turns, turns per second and Batten time of the last period in which the position check passed (R252) -/
  goodTheta : Rat := 0
  goodOmega : Rat := 0
  goodAt : Nat := 0
  /-- the observer's electrical turns and turns per second (R251) -/
  obsTheta : Rat := 0
  obsOmega : Rat := 0
  deriving DecidableEq, Repr

/-- The stage map, channel owners and island use in force (R14, R17, R125). -/
structure StageMap where
  /-- function code of HB0 to HB31 -/
  codes : Vector Nat 32
  /-- HB6 declared a half-bridge (R15) -/
  hb6Half : Bool
  ch13 : Nat
  /-- owning engine named by the record; 255 for the default of R17 -/
  owners : Vector Nat 64
  islands : Nat
  deriving DecidableEq, Repr

/-- A configuration image that passed its checks (R124, R125). -/
structure Image where
  version : Nat
  fields : List (Nat × Nat × Nat)
  map : StageMap
  bytes : List Byte
  deriving DecidableEq, Repr

/-- A firmware image of a slot: its header's version and rollback index, the bytes its hash and its signatures cover, and its signature block. The image put in at manufacture is marked; its bytes are not in the spec. -/
structure FwImage where
  version : Nat := 0
  rollback : Nat := 0
  factory : Bool := false
  signed : List Byte := []
  signature : List Byte := []
  deriving DecidableEq, Repr

/-- Images, firmware slots and what the identity block keeps beside its registers (R124 to R130, R470 to R483). -/
structure Ident where
  /-- target 0 slots A and B, target 1 slots A and B -/
  fw : Vector (Option FwImage) 4 := Vector.replicate 4 none
  /-- targets whose FW_ACTIVATE waits for its reset -/
  activated : Nat := 0
  /-- the two configuration image slots and the active-slot pointer -/
  slots : Vector (Option Image) 2 := Vector.replicate 2 none
  imgActive : Nat := 0
  /-- the image that the last boot applied -/
  booted : Option Image := none
  /-- the staged image and the session it belongs to -/
  staged : Option (Word × Image) := none
  /-- an IMG_COMMIT being written -/
  commit : Option (Ticket × Word) := none
  /-- IDN_DEBUG.UNLOCK has been written since the end of the boot -/
  unlockSpent : Bool := false
  /-- versions of the programs loaded into LE14 and LE15: header and code as loaded -/
  le14 : List Byte := []
  le15 : List Byte := []
  deriving DecidableEq, Repr

/-- The Ridge's modes (Table 16.3). -/
inductive RdgMode
  | retention | woken | running
  deriving DecidableEq, Repr

/-- A numbered entry or record of the Ridge with the day it belongs to (R452). -/
structure RdgRec where
  num : Nat
  day : Nat
  bytes : List Byte
  deriving DecidableEq, Repr

/-- What a closed day's seal counts (Table 16.9). -/
structure RdgDay where
  day : Nat
  flags : Nat
  closedAt : Nat
  odo : Nat
  imp : Nat
  exp : Nat
  lec : Nat
  /-- first number and count of motion entries, energy entries, sessions and events -/
  motion : Nat × Nat
  energy : Nat × Nat
  session : Nat × Nat
  event : Nat × Nat
  root : List Byte
  /-- closed outside Running, or its signing was broken off by a loss of VRDG -/
  late : Bool
  deriving DecidableEq, Repr

/-- A day's seal as stored, with its signature block where it is signed. -/
structure RdgSeal where
  day : Nat
  bytes : List Byte
  signature : List Byte
  deriving DecidableEq, Repr

/-- A charge session in progress (R444). -/
structure RdgSession where
  start : Nat
  imp0 : Rat
  exp0 : Rat
  odo0 : Nat
  peakImp : Rat
  peakExp : Rat
  phases : Nat
  flags : Nat
  disagree : Int
  lastAbove : Nat
  below : Nat
  lowVolt : Nat
  /-- energy registers and odometer at the end of the session's last second -/
  impEnd : Rat
  expEnd : Rat
  odoEnd : Nat
  deriving DecidableEq, Repr

/-- The control-side and Ridge figures of R446 in one direction. -/
structure RdgMismatch where
  on : Bool := false
  good : Nat := 0
  own : Rat := 0
  deriving DecidableEq, Repr

/-- The Ridge (R430 to R468, R484). -/
structure Ridge where
  mode : RdgMode
  /-- QP runs: one firmware slot has verified -/
  alive : Bool := false
  fwActive : Nat := 0
  /-- Ridge time in seconds at the instant timeAt; it stands while the RTC has stopped -/
  timeBase : Nat := 0
  timeAt : Nat := 0
  rtcStopped : Bool := false
  /-- BKP has fallen away: without VRDG nothing in the Ridge runs (R25, R436) -/
  bkpGone : Bool := false
  timeValid : Bool := false
  timeStored : Nat := 0
  sealed : Nat := 0
  keysErased : Bool := false
  /-- a mesh found broken before QP starts: its event waits for QP (R450) -/
  meshDue : Bool := false
  lec : Nat := 0
  /-- sealed parameters that differ from shipment, by identifier -/
  params : List (Nat × Word) := []
  pendParams : List (Nat × Word) := []
  parFlag : Bool := false
  fails : List Nat := []
  lockoutUntil : Option Nat := none
  rejects : Nat := 0
  /-- odometer in metres with its remainder -/
  odo : Rat := 0
  lastPulse : Option Nat := none
  secPulses : Nat := 0
  /-- pulses counted towards the wheel-pulse wake (R47) -/
  wakePulses : Nat := 0
  /-- instant of the pulse before the first of this second -/
  secFrom : Option Nat := none
  speed : Nat := 0
  wokenPulses : Nat := 0
  wokenAt : Nat := 0
  unpowered : Bool := false
  minOdo : Rat := 0
  minSpeed : Nat := 0
  curSec : Nat := 0
  curMin : Nat := 0
  curQuarter : Nat := 0
  curDay : Nat := 0
  qImp : Rat := 0
  qExp : Rat := 0
  qInt : Bool := false
  /-- segment and kilometre of R447 -/
  segPulses : Nat := 0
  segRev : Int := 0
  segLost : Bool := false
  km : List (Option Rat) := []
  distOn : Bool := false
  /-- R448: revolutions since the last pulse, the condition and its end -/
  absRev : Int := 0
  absOn : Bool := false
  absFrom : Nat := 0
  absFirst : Option (Nat × Int) := none
  absPulses : Nat := 0
  wpiOpen : Bool := false
  wpiGood : Nat := 0
  fieldOn : Bool := false
  fieldRun : Nat := 0
  fieldPeak : Nat := 0
  mbLoss : Nat := 0
  mbFlat : Nat := 0
  mmImp : RdgMismatch := {}
  mmExp : RdgMismatch := {}
  /-- control-side increments of the minute and whether every frame arrived valid -/
  ctlImp : Nat := 0
  ctlExp : Nat := 0
  ctlFrames : Nat := 0
  ctlBad : Bool := false
  /-- sums over the samples of the second: power, squared phase voltages -/
  sampN : Nat := 0
  sampP : Rat := 0
  sampV : Vector Rat 3 := Vector.replicate 3 0
  imp : Rat := 0
  exp : Rat := 0
  sesRun : Nat := 0
  ses : Option RdgSession := none
  /-- the session as it stood at the end of its last second at or above SES_P (R444) -/
  sesTop : Option RdgSession := none
  /-- odometer before the running second, before the first second of the run, and the flags of the run's seconds -/
  secOdo : Nat := 0
  runOdo : Nat := 0
  runFlags : Nat := 0
  /-- peaks of the run of seconds that may begin a session -/
  runImp : Rat := 0
  runExp : Rat := 0
  runPeakImp : Rat := 0
  runPeakExp : Rat := 0
  /-- receiving end of the witness line: last sequence per type -/
  rxSeq : Vector (Option Nat) 5 := Vector.replicate 5 none
  hbAt : Option Nat := none
  hbPower : Nat := 0
  angleAt : Nat := 0
  witLost : Bool := false
  mirrorAt : Option Nat := none
  mirrorMerged : Nat := 0
  mirrorAddr : Nat := 0
  mirrorWriter : Nat := 0
  /-- interruption of VRDG in progress: instant and Ridge time of its start -/
  lossAt : Option (Nat × Nat) := none
  /-- open short-interruption record: start, end, count, instant of the end -/
  short : Option (Nat × Nat × Nat × Nat) := none
  nMotion : Nat := 0
  nEnergy : Nat := 0
  nSession : Nat := 0
  nEvent : Nat := 0
  /-- numbers with which the present day begins -/
  dMotion : Nat := 0
  dEnergy : Nat := 0
  dSession : Nat := 0
  dEvent : Nat := 0
  dInvalid : Bool := false
  motions : List RdgRec := []
  energies : List RdgRec := []
  sessions : List RdgRec := []
  events : List RdgRec := []
  /-- every event of the present day, newest first: a day's root covers those that the ring no longer holds too (R453, R455) -/
  dayEvents : List RdgRec := []
  /-- closed days not yet signed, oldest first; seals stored, newest first -/
  closed : List RdgDay := []
  seals : List RdgSeal := []
  prevHash : List Byte := []
  newestDay : Nat := 0
  /-- long results, day number and bytes: of the query line per session (R90), and of RLINK -/
  longQuery : List (Word × Nat × List Byte) := []
  longRlink : Option (Nat × List Byte) := none
  deriving DecidableEq, Repr

/-- A query forwarded to the Ridge and not yet answered (R433). -/
structure Forward where
  ticket : Ticket
  params : List Byte
  since : Nat
  deriving DecidableEq, Repr

/-- The main die's end of the lines to the Ridge (Table 16.1). -/
structure Wit where
  seq : Vector Nat 5 := Vector.replicate 5 0
  /-- mirror-write notices not yet sent: address and writer -/
  notices : List (Nat × Nat) := []
  /-- control-side energy registers at the last energy frame -/
  impSent : Nat := 0
  expSent : Nat := 0
  fineMissed : Bool := false
  forwards : List Forward := []
  /-- motor revolutions summed from LE5's increments and not yet sent, and LE5's last resolver angle in turns (R249, Table 16.2) -/
  turns : Rat := 0
  turnFrom : Option Rat := none
  mirrorAt : Option Nat := none
  /-- bytes of the last witness frame (R434) -/
  last : List Byte := []
  /-- the interval of Batten time in which the last heartbeat, angle and energy frame was sent (Table 16.2) -/
  sentAt : Vector Nat 3 := Vector.replicate 3 0
  deriving DecidableEq, Repr

/-- The charger beside its registers (R292 to R313). -/
structure Chg where
  /-- a ramp of the grid power: from, to and its start -/
  rampFrom : Rat := 0
  rampTo : Rat := 0
  rampAt : Nat := 0
  /-- what the ramp to zero is for: 0 none, 1 CHG_SESSION_END, 2 a pause, 3 the end of the fallback -/
  zeroFor : Nat := 0
  endTickets : List Ticket := []
  /-- W/s of the running ramp -/
  rampRate : Rat := 0
  /-- target and battery limit of the last CHG_SET -/
  setTarget : F32 := 0
  battLimit : F32 := 0
  exportOk : Bool := false
  ises : F32 := 0
  fallbackAt : Nat := 0
  /-- a charger fault since the last CHG_SESSION_BEGIN (PORTLAMP) -/
  faulted : Bool := false
  /-- control-side energy in mWh with its remainder, and its values at the session's begin -/
  imp : Rat := 0
  exp : Rat := 0
  sesImp : Rat := 0
  sesExp : Rat := 0
  /-- last grid power computed, and the grid powers of the last 1 s with their instants, newest first (R310) -/
  pNow : Rat := 0
  recent : List (Nat × Rat) := []
  /-- sums of the squared phase voltages over the running grid cycle with their count, and the RMS of the last whole one in V (R302) -/
  vSq : Vector Rat 3 := Vector.replicate 3 0
  vSqN : Nat := 0
  vRms : Vector Rat 3 := Vector.replicate 3 0
  /-- per FINE output instant: the last one integrated -/
  fineAt : Nat := 0
  /-- candidate pilot state and how often it has been seen; 6 none -/
  pilotCand : Nat := 0
  pilotRun : Nat := 0
  pilotOkSince : Option Nat := none
  /-- VBAT as LE8 last derived it, and VPFC as LE7 or LE8 has -/
  vbat : Rat := 0
  vpfc : Rat := 0
  /-- the PLL of LE7: grid angle in turns, frequency in Hz and the instant they hold for (R293) -/
  theta : Rat := 0
  omega : Rat := 0
  thetaAt : Nat := 0
  /-- amplitude of the current references in A, what the target grid power exceeds the measured one by, and the DAB's phase shift (R293) -/
  amp : Rat := 0
  gap : Rat := 0
  shift : Rat := 0
  /-- slot count of LE7 at the last stop, its instant and whether the fallback applied, for events of one slot (R307) -/
  stopSlot : Option Nat := none
  stopAt : Nat := 0
  fellBack : Bool := false
  deriving DecidableEq, Repr

/-- The auxiliary converter beside its registers (R315 to R345). -/
structure Aux where
  startAt : Nat := 0
  /-- VSET_R: value at an instant, ramping at 1 V/ms -/
  vrBase : Rat := 0
  vrAt : Nat := 0
  v48Since : Option Nat := none
  rot : Nat := 0
  rotAt : Nat := 0
  /-- outgoing phases of shedding transitions, the start of each one's, and the level they lead to -/
  outgoing : Nat := 0
  shedAt : Vector Nat 8 := Vector.replicate 8 0
  shedTo : Nat := 0
  /-- phases retiring through the transition -/
  retiring : Nat := 0
  /-- in burst: idle, the last burst's begin and its master periods so far (R330) -/
  burstIdle : Bool := false
  burstAt : Nat := 0
  burstRun : Nat := 0
  brakeFrom : Nat := 0
  regulatedAt : Nat := 0
  stopping : Bool := false
  stopAt : Nat := 0
  tickets : List Ticket := []
  /-- instant of the first AUX_SET in reverse -/
  preAt : Option Nat := none
  openRun : Vector Nat 8 := Vector.replicate 8 0
  /-- phases under a latch of class C, over temperature, open, and in over-temperature warning (Table 12.4, R337) -/
  latched : Nat := 0
  hot : Nat := 0
  opened : Nat := 0
  warned : Nat := 0
  /-- AUX_PHASE_MASK waiting for braking, burst or a transition to end (Table 12.3) -/
  maskNext : Option Nat := none
  /-- newly permitted phases that wait for a CAR6 period start, and since when (R340) -/
  permit : Nat := 0
  permitAt : Nat := 0
  /-- reverse: pulse width of the DCX secondary, and the V48 that LE2 holds (R343) -/
  preW : Nat := 0
  v48Ref : Rat := 0
  /-- FAST values of each phase current over the last 64 master periods, newest first (R324) -/
  iph : Vector (List Rat) 8 := Vector.replicate 8 []
  /-- trims at the start of each phase's transition (R327) -/
  trim0 : Vector Rat 8 := Vector.replicate 8 0
  /-- the master period that LE2's running slot has written, for the leg voltages of its POST (R319) -/
  legs : Option Nat := none
  deriving DecidableEq, Repr

/-- An actuator's motion and commutation (R347 to R366). -/
structure Act where
  /-- 0 none, 1 towards a position or an end of the stroke, 2 stop search of homing, 3 final move of homing -/
  kind : Nat := 0
  /-- instant of the motion's start, and of the end ramp's -/
  since : Nat := 0
  ending : Option Nat := none
  /-- target position in mm, or towards engagement (1) or release (0) -/
  target : Rat := 0
  /-- end of the SHIFT_TO time limit, or of the final move of homing -/
  deadline : Nat := 0
  /-- profile segments still to begin: Batten instant on the model clock and acceleration -/
  segs : List (Nat × Rat) := []
  profEnd : Nat := 0
  /-- profile at its last segment's start: position, speed, acceleration, instant -/
  pPos : Rat := 0
  pSpeed : Rat := 0
  pAcc : Rat := 0
  pAt : Nat := 0
  /-- end of the wait's gap counts from here; the end ramp leads to a wait for a retry; it follows a locked rotor, and lasts 1 ms at most (R358) -/
  retryAt : Nat := 0
  retry : Bool := false
  locked : Bool := false
  /-- start of the motion's period at 0 % (R348) -/
  startAt : Nat := 0
  /-- time spent outside BLOCKED and RETRY_WAIT up to the instant spentAt (R361) -/
  spent : Nat := 0
  spentAt : Nat := 0
  blockedAt : Nat := 0
  hall : Nat := 0
  edges : List Nat := []
  /-- the last edge went in the positive direction -/
  up : Bool := true
  /-- phase currents of the last period with current, leg voltages last staged, and the sign of each phase's last back-EMF above 0.2 V (R351, R352) -/
  amps : List Rat := [0, 0, 0]
  legs : List Rat := [0, 0, 0]
  emfSign : List Int := [0, 0, 0]
  skips : List Nat := []
  /-- Hall-counted position -/
  counted : Rat := 0
  lastEmf : Nat := 0
  noCurrent : Nat := 0
  /-- slot count of the engine when the time limit ended the motion (Table 13.4) -/
  limitSlot : Option Nat := none
  /-- serial of the fault that put the actuator in FAULT -/
  faultSerial : Option Nat := none
  /-- PARK_SWITCH_DISAGREE recorded since the pawl was last found in a state -/
  disagreed : Bool := false
  /-- park: instant ACT_VSPD_HOST was last written -/
  hostAt : Option Nat := none
  deriving DecidableEq, Repr

/-- One NTC as LE11 and the SP use it (R372 to R375, R381). -/
structure Ntc where
  seen : Bool := false
  last : Rat := 0
  modelAtLast : Rat := 0
  rise : Rat := 0
  /-- instant of the last valid reading; a word delivered since then was invalid -/
  lastAt : Nat := 0
  missing : Bool := false
  deriving DecidableEq, Repr

/-- Rainflow counting of one switch (R385). -/
structure Rain where
  /-- turning points, newest first -/
  points : List Rat := []
  /-- half cycles of an ended run that the queue of LE11 has not yet had room for (R386) -/
  due : List Word := []
  deriving DecidableEq, Repr

/-- The thermal model and wear beside their registers (R369 to R391). -/
structure Thm where
  z : Vector (List Rat) 64 := Vector.replicate 64 []
  /-- published loss of each switch: sum and count of the windows since the previous model step (R376) -/
  lossSum : Vector Rat 64 := Vector.replicate 64 0
  lossN : Vector Nat 64 := Vector.replicate 64 0
  /-- half-bridges without a fresh loss word, and the stages held for it (R371) -/
  lossHeld : Nat := 0
  /-- the loss window last published, and the window in which each half-bridge began to switch (R369, R371) -/
  lossWin : Nat := 0
  lossOn : Vector (Option Nat) 32 := Vector.replicate 32 none
  ntc : Vector Ntc 6 := Vector.replicate 6 {}
  dieAt : Nat := 0
  dieFault : Bool := false
  throttleAt : Option Nat := none
  inhibitAt : Option Nat := none
  coolSince : Option Nat := none
  slotAt : Nat := 0
  lost : Bool := false
  tcoolAt : Option Nat := none
  rain : Vector Rain 64 := Vector.replicate 64 {}
  tenth : Nat := 0
  /-- coolant temperature Tc last in use -/
  tc : Rat := 0
  /-- stages that switched at the last model step -/
  wasOn : Nat := 0
  /-- counted cycles waiting in LE11, oldest first -/
  cycles : List Word := []
  /-- derating factor k_s of each stage in force (R379) -/
  k : Vector Rat 9 := Vector.replicate 9 1
  /-- factor k_p of each buck phase in force -/
  kp : Vector Rat 8 := Vector.replicate 8 1
  /-- life consumption in full precision; the registers show it as floats -/
  life : Vector Rat 64 := Vector.replicate 64 0
  /-- the account as last saved in MRAM: life and counted cycles (R387) -/
  saved : Vector Rat 64 := Vector.replicate 64 0
  savedCyc : Vector Nat 64 := Vector.replicate 64 0
  saveAt : Nat := 0
  /-- channels whose account has changed since the last save -/
  dirty : List Nat := []
  eosDone : Nat := 0
  /-- retired chopper switches, buck phases and the DCX (Table 14.3) -/
  chopRetired : Nat := 0
  buckRetired : Nat := 0
  /-- buck phases retired while the stage was held, which leave at its next start (R391) -/
  buckDue : Nat := 0
  dcxRetired : Bool := false
  /-- a stage has stopped since the last save -/
  runEnded : Bool := false
  /-- judged once: sensors over NTCMAX, switches over temperature -/
  overDone : Nat := 0
  ntcDone : Nat := 0
  deriving DecidableEq, Repr

/-- Telemetry of the stages (R96, R345, R367). -/
structure Tlm where
  /-- the last 10 samples of each stage, newest first: stage, and per quantity code the value, where the spec gives it -/
  hist : List (Nat × List (Nat × Option Rat)) := []
  /-- per stage and quantity code: minimum and maximum since the peaks were reset -/
  peaks : List (Nat × Nat × Rat × Rat) := []
  deriving DecidableEq, Repr

/-- Why a step stops with a fault. The model raises none: every command of the block has an effect that the spec gives, and a command whose condition does not hold changes nothing. -/
inductive Fault
  /-- reserved for a stop the spec would give without a following state; no meaning raises it (safe) -/
  | stopped
  deriving DecidableEq, Repr

/-- Why a command has no meaning. -/
inductive Refusal
  /-- raised by exec for a command whose meaning has not been written (safe: the model stops where the block goes on) -/
  | notModelled (mnemonic : String)
  deriving DecidableEq, Repr

/-- The OX760: its registers, its units and the queue of waiting commands. -/
structure State where
  /-- model clock in fine ticks (R3); it never runs backwards -/
  now : Nat
  /-- register words that differ from their reset word, addresses rising -/
  regs : List (Nat × Word)
  /-- shadowed writes waiting for their boundary (R116) -/
  shadow : List PendWrite
  incs : CycleIncs
  com : Com
  pwr : Pwr
  log : FaultLog
  slt : Slate
  gate : Gate
  bat : Batten
  gz : Gauze
  le : Vector Engine 16
  swaps : List SwapWait
  trc : Trc
  map : StageMap
  idn : Ident
  chg : Chg
  aux : Aux
  shift : Act
  park : Act
  thm : Thm
  tlm : Tlm
  rdg : Ridge
  wit : Wit
  /-- free values drawn so far: the model's own field -/
  free : Nat
  /-- commands waiting, first in, first out -/
  pending : List Instr
  deriving DecidableEq, Repr

/-- What every meaning answers. -/
abbrev Out := Host.Outcome State Fault Refusal

/-- The canonical function codes of HB0 to HB31 (Tables 1.5 and 5.7). -/
def StageMap.canonicalCodes : List Nat :=
  [0x00, 0x01, 0x02, 0x10, 0x11, 0x12, 0x20, 0x30, 0x31, 0x32, 0x40, 0x41, 0x42, 0x43, 0x50, 0x51,
   0x52, 0x53, 0x60, 0x61, 0x62, 0x63, 0x64, 0x65, 0x66, 0x67, 0x70, 0x71, 0x72, 0x80, 0x81, 0x82]

/-- The allocation in force without an image (Table 5.7). (Assumption 6 DESIGN CHOICE) -/
def StageMap.canonical : StageMap where
  codes := Vector.ofFn fun i => StageMap.canonicalCodes.getD i 0xF0
  hb6Half := false
  ch13 := 0xF0
  owners := Vector.replicate 64 255
  islands := 0xFFFFFFFF

/-- A firmware image as it leaves manufacture (R485): slot A of each target holds one. (Assumption 6 DESIGN CHOICE) -/
def FwImage.atManufacture (version rollback : Nat) : FwImage := { version := version, rollback := rollback, factory := true }

/-- The machine after reset: STANDBY reached on the Reset column of every register map, no configuration image, nothing switching, nothing latched, no session, no waiting command (R6). (Assumption 5 DESIGN CHOICE, 6 DESIGN CHOICE, 7 DESIGN CHOICE, 148 DESIGN CHOICE) -/
def State.reset : State where
  now := 0
  regs := []
  shadow := []
  incs := {}
  com := {}
  pwr := { step := 9, eaveRuns := true }
  log := {}
  slt := {}
  gate := { bucket := 100000, drvenLowAt := some 0 }
  bat := {}
  gz := {}
  le := Vector.replicate 16 {}
  swaps := []
  trc := {}
  map := StageMap.canonical
  idn := { fw := #v[some (FwImage.atManufacture 0x03020000 4), none, some (FwImage.atManufacture 0x02040000 2), none] }
  chg := { pilotCand := 6 }
  aux := {}
  shift := {}
  park := {}
  thm := {}
  tlm := {}
  rdg := { mode := .running, alive := true, prevHash := List.replicate 32 0 }
  wit := {}
  free := 0
  pending := []

end Sys2Proof.Machine
end

