-- ==== Sys2Proof/Machine/Ops.lean ====
section
/-! DEFINITION. The named operations over registers, shadows, counters, events and time that every meaning uses. -/

namespace Sys2Proof.Machine

open Sys2Proof

/-- The word listed at an address, if one is listed. -/
def sparseFind (a : Nat) : List (Nat × Word) → Option Word
  | [] => none
  | (b, w) :: rest => if b = a then some w else if a < b then none else sparseFind a rest

/-- A sparse list with one address changed: addresses stay rising, and the word that an unlisted address reads as is not listed. -/
def sparsePut (dflt : Word) (a : Nat) (w : Word) : List (Nat × Word) → List (Nat × Word)
  | [] => if w = dflt then [] else [(a, w)]
  | (b, v) :: rest =>
    if b = a then (if w = dflt then rest else (a, w) :: rest)
    else if a < b then (if w = dflt then (b, v) :: rest else (a, w) :: (b, v) :: rest)
    else (b, v) :: sparsePut dflt a w rest

/-- The word in force at a register address. -/
def State.getW (s : State) (a : Nat) : Word := (sparseFind a s.regs).getD (resetWord a)

/-- The state with one register word changed. -/
def State.setW (s : State) (a : Nat) (w : Word) : State := { s with regs := sparsePut (resetWord a) a w s.regs }

/-- A field's value within a word. -/
def Fld.of (f : Fld) (w : Word) : Nat := bitsOf w.toNat f.hi f.lo

/-- A word with a field replaced; the value is taken modulo the field's width. -/
def Fld.into (f : Fld) (w : Word) (v : Nat) : Word :=
  let n := w.toNat
  BitVec.ofNat 32 (n / 2 ^ (f.hi + 1) * 2 ^ (f.hi + 1) + v % 2 ^ (f.hi + 1 - f.lo) * 2 ^ f.lo + n % 2 ^ f.lo)

/-- The value in force in a field. -/
def State.getF (s : State) (f : Fld) : Nat := f.of (s.getW f.addr)

/-- The state with one field changed. -/
def State.setF (s : State) (f : Fld) (v : Nat) : State := s.setW f.addr (f.into (s.getW f.addr) v)

/-- A one-bit field read as a flag. -/
def State.getB (s : State) (f : Fld) : Bool := s.getF f != 0

/-- A one-bit field written from a flag. -/
def State.setB (s : State) (f : Fld) (b : Bool) : State := s.setF f (if b then 1 else 0)

/-- A binary32 field. -/
def State.getFl (s : State) (f : Fld) : F32 := BitVec.ofNat 32 (s.getF f)

/-- The value of a binary32 field that holds a finite number. -/
def State.getQ (s : State) (f : Fld) : Rat := F32.toRat (s.getFl f)

/-- The state with a binary32 field set to the pattern given. -/
def State.setFl (s : State) (f : Fld) (x : F32) : State := s.setF f x.toNat

/-- The state with a binary32 field set to the value nearest to a rational. -/
def State.setQ (s : State) (f : Fld) (x : Rat) : State := s.setFl f (F32.ofRat x)

/-- Bit n of a field. -/
def State.bit (s : State) (f : Fld) (n : Nat) : Bool := bitAt (s.getF f) n

/-- A field with bit n set or cleared. -/
def setBitN (v n : Nat) (b : Bool) : Nat :=
  if bitAt v n then (if b then v else v - 2 ^ n) else (if b then v + 2 ^ n else v)

/-- The state with bit n of a field set or cleared. -/
def State.setBit (s : State) (f : Fld) (n : Nat) (b : Bool) : State := s.setF f (setBitN (s.getF f) n b)

/-- The clock moved to an instant; it never runs backwards. (Assumption 1 DEDUCED, 135 DESIGN CHOICE) -/
def State.advance (s : State) (t : Nat) : State := { s with now := max s.now t }

/-- The CD3 cycle of the present instant, counted from the start of Batten time (R133, R488). -/
def State.cycle (s : State) : Nat := (s.now - s.pwr.battenBase) / 16

/-- Batten time: fine ticks since step 2 of the boot (R133). -/
def State.battenTime (s : State) : Nat := s.now - s.pwr.battenBase

/-- Whether a span of fine ticks has passed since an instant. -/
def State.elapsed (s : State) (since span : Nat) : Bool := decide (since + span ≤ s.now)

/-- A free value and the state that has drawn it. (Assumption 8 DEDUCED) -/
def State.draw (s : State) : Word × State := (Config.freeWord s.free, { s with free := s.free + 1 })

/-- An event of an RCS register occurs: its bit sets and SEQ increments modulo 256 (R110). -/
def State.event (s : State) (f : Fld) : State :=
  let w := s.getW f.addr
  let seq : Fld := ⟨f.addr, 31, 24⟩
  s.setW f.addr (seq.into (f.into w 1) (seq.of w + 1))

/-- An event in bit n of an RCS field of several bits (R110). -/
def State.eventBit (s : State) (f : Fld) (n : Nat) : State := s.event ⟨f.addr, f.lo + n, f.lo + n⟩

/-- The increments recorded in the running CD3 cycle for a field (R109). -/
def State.incsOf (s : State) (f : Fld) : Nat :=
  if s.incs.cycle = s.cycle then ((s.incs.incs.filter fun i => i.1 == f.addr && i.2.1 == f.lo).map fun i => i.2.2).sum else 0

/-- A counter is incremented and saturates at its maximum; the increment is kept for a write in the same cycle (R109, R161). -/
def State.bumpBy (s : State) (f : Fld) (k : Nat) : State :=
  let kept := if s.incs.cycle = s.cycle then s.incs.incs else []
  { s.setF f (satAdd (f.hi + 1 - f.lo) (s.getF f) k) with incs := ⟨s.cycle, (f.addr, f.lo, k) :: kept⟩ }

/-- A counter is incremented by one. -/
def State.bump (s : State) (f : Fld) : State := s.bumpBy f 1

/-- A wrapping counter is incremented by one. -/
def State.wrap (s : State) (f : Fld) : State := s.setF f (s.getF f + 1)

/-- A write applied to a word: the masked bits take the value's. -/
def overlay (w : Word) (mask value : Nat) : Word :=
  (w &&& ~~~(BitVec.ofNat 32 mask)) ||| (BitVec.ofNat 32 value &&& BitVec.ofNat 32 mask)

/-- What a read of a word returns: an RWS field gives the value last written, pending or applied (R106, R121). -/
def State.readW (s : State) (a : Nat) : Word :=
  s.shadow.foldl (fun w p => if p.addr = a then overlay w (Nat.land p.mask p.shown) p.value else w) (s.getW a)

/-- What a read of a field returns. -/
def State.readF (s : State) (f : Fld) : Nat := f.of (s.readW f.addr)

/-- A shadow once the bits out w of each write have been applied: they leave the write, and an earlier write to the same word that still waits no longer shows them (R106, R116). -/
def applied (out : PendWrite → Nat) : List PendWrite → List PendWrite
  | [] => []
  | w :: rest =>
    let later := rest.foldl (fun k x => if x.addr = w.addr then Nat.lor k (out x) else k) 0
    { w with mask := w.mask - Nat.land w.mask (out w), shown := w.shown - Nat.land w.shown later } :: applied out rest

/-- The bits out w of each shadowed write take effect, in the order the writes were made; a write with none left leaves the shadow (R116). -/
def State.applyBits (s : State) (out : PendWrite → Nat) : State :=
  let rest := { s with shadow := (applied out s.shadow).filter fun w => w.mask != 0 }
  s.shadow.foldl (fun (t : State) w => if out w = 0 then t else t.setW w.addr (overlay (t.getW w.addr) (Nat.land w.mask (out w)) w.value)) rest

/-- A level that a driver or an island sees changes; the register that shows it follows (Tables 10.7, 10.10). -/
def State.seeDrven (s : State) (b : Bool) : State := { s with gate := { s.gate with levels := { s.gate.levels with drven := b } } }.setB F.GD_STAT_DRVEN b
def State.seeTrip (s : State) (n : Nat) (low : Bool) : State :=
  { s with gate := { s.gate with levels := { s.gate.levels with tripLow := setBitN s.gate.levels.tripLow n low } } }.setBit F.GD_STAT_TRIPIN n low
def State.seeVdrv (s : State) (b : Bool) : State := { s with gate := { s.gate with levels := { s.gate.levels with vdrv := b } } }.setB F.GD_STAT_VDRV_OK b
def State.seeVp (s : State) (n : Nat) (b : Bool) : State :=
  { s with gate := { s.gate with levels := { s.gate.levels with vp := setBitN s.gate.levels.vp n b } } }.setB (F.GD_CH_STAT_VP_OK n) b
def State.seeVn (s : State) (n : Nat) (b : Bool) : State :=
  { s with gate := { s.gate with levels := { s.gate.levels with vn := setBitN s.gate.levels.vn n b } } }.setB (F.GD_CH_STAT_VN_OK n) b

/-- The registers show the levels once the main die has left its reset (R6). -/
def State.showLevels (s : State) : State :=
  let l := s.gate.levels
  let a := ((s.setB F.GD_STAT_DRVEN l.drven).setF F.GD_STAT_TRIPIN l.tripLow).setB F.GD_STAT_VDRV_OK l.vdrv
  (List.range 32).foldl (fun (t : State) n => (t.setB (F.GD_CH_STAT_VP_OK n) (bitAt l.vp n)).setB (F.GD_CH_STAT_VN_OK n) (bitAt l.vn n)) a

/-- The shadowed writes that satisfy p take effect (R116). -/
def State.applyShadow (s : State) (p : PendWrite → Bool) : State := s.applyBits fun w => if p w then w.mask else 0

/-- The bits of m of a register's shadowed writes that no hold keeps back take effect (R116). -/
def State.applyPart (s : State) (addr m : Nat) : State := s.applyBits fun w => if w.addr = addr ∧ !w.held then Nat.land w.mask m else 0

/-- The open hold belongs to a session (R117). -/
def State.holdOf (s : State) (session : Word) : Bool :=
  match s.com.hold with
  | some h => h.session == session
  | none => false

/-- The writes an open hold keeps back. -/
def State.heldWrites (s : State) : Nat := (s.shadow.filter fun x => x.held).length

/-- The power state code (R39). -/
def State.power (s : State) : Nat := s.getF F.PWR_STATE_STATE

def pOFF : Nat := 0
def pVAULT : Nat := 1
def pSLEEP : Nat := 2
def pSTANDBY : Nat := 3
def pARMED : Nat := 4
def pRUN : Nat := 5
def pSAFE : Nat := 6
def pTEST : Nat := 15

/-- The main die runs: STANDBY and above, outside a reset (Table 3.1). -/
def State.mainUp (s : State) : Bool := decide (3 ≤ s.power) && !s.pwr.inReset && s.pwr.boot.isNone

/-- The Gauze runs: with the main die, and in a boot from its step 7 on (R129, Table 5.8). -/
def State.gzUp (s : State) : Bool :=
  s.mainUp || (s.pwr.boot.isSome && s.pwr.step == 8 && !s.pwr.inReset && s.pwr.handover.isNone)

/-- A transition of the power state: the previous code and the reason are kept (Table 3.7). -/
def State.toPower (s : State) (st reason : Nat) : State :=
  let prev := s.power
  ((s.setF F.PWR_STATE_STATE st).setF F.PWR_STATE_PREV prev).setF F.PWR_STATE_REASON reason

/-- Eave time in 1/32,768 s: CD0 counts, and a pending correction is slewed in at no more than 1 ms per second (R51, R52). (Assumption 15 DEDUCED) -/
def State.eaveTicks (s : State) : Nat :=
  if s.pwr.eaveRuns then
    let ran := (s.now - s.pwr.eaveAt) * 32768 / ticksPerS
    let most : Int := ((s.now - s.pwr.eaveAt) * 32768 / (1000 * ticksPerS) : Nat)
    let corr := clampInt (-most) most s.pwr.eaveSlew
    (((s.pwr.eaveBase + ran : Nat) : Int) + corr).toNat
  else s.pwr.eaveBase

/-- Eave time in seconds, as its 32-bit field holds it. -/
def State.eaveSeconds (s : State) : Nat := s.eaveTicks / 32768 % 2 ^ 32

/-- Element n of a vector of the state, the given value where there is none. -/
def vget {α : Type} {m : Nat} (v : Vector α m) (n : Nat) (d : α) : α := v.toList.getD n d

/-- A vector with element n replaced; unchanged where there is none. -/
def vset {α : Type} {m : Nat} (v : Vector α m) (n : Nat) (x : α) : Vector α m :=
  if h : n < m then v.set n x h else v

/-- The numbers below k that satisfy p. -/
def below (k : Nat) (p : Nat → Bool) : List Nat := (List.range k).filter p

/-- The mask whose bits are the numbers listed. -/
def maskOf (l : List Nat) : Nat := l.foldl (fun m n => setBitN m n true) 0

/-- The bits set in a mask of k bits. -/
def bitsList (k m : Nat) : List Nat := below k fun n => bitAt m n

end Sys2Proof.Machine
end

