-- ==== Sys2Proof/Machine/Alloc.lean ====
section
/-! DEFINITION. The stage map at work: which half-bridge carries which function, who owns a channel, what a Gauze word codes, which stage switches. -/

namespace Sys2Proof.Machine

open Sys2Proof

/-- The function code of a half-bridge; unused (0xF0) beyond HB31 (R125). -/
def State.hbCode (s : State) (hb : Nat) : Nat := vget s.map.codes hb 0xF0

/-- The function code of a channel: in HB6 mode 0 the two channels of HB6 carry their own (R125). -/
def State.chCode (s : State) (ch : Nat) : Nat :=
  if ch = 13 && !s.map.hb6Half then s.map.ch13 else s.hbCode (ch / 2)

/-- Whether a half-bridge carries a function (R127). -/
def State.hbUsed (s : State) (hb : Nat) : Bool :=
  s.hbCode hb / 16 != 15 || (hb == 6 && !s.map.hb6Half && s.map.ch13 / 16 != 15)

/-- The half-bridges whose function belongs to a stage of R96. -/
def State.hbsOf (s : State) (st : Nat) : List Nat :=
  below 32 fun h => s.hbCode h / 16 == st || (st == 2 && h == 6 && !s.map.hb6Half && s.map.ch13 == 0x21)

/-- The stage of a half-bridge as a mask of one bit, 0 where it serves no stage. -/
def State.stageMask (s : State) (hb : Nat) : Nat := if s.hbCode hb / 16 ≤ 8 then 2 ^ (s.hbCode hb / 16) else 0

/-- The half-bridge of a function code. -/
def State.hbOfCode (s : State) (code : Nat) : Option Nat := (below 32 fun h => s.hbCode h == code).head?

/-- The half-bridge of the brake chopper (R288). -/
def State.chopperHb (s : State) : Option Nat := s.hbOfCode 0x20

/-- The channels of the brake chopper's switches (R288, R289). -/
def State.chopperChs (s : State) : List Nat :=
  match s.chopperHb with
  | some h => if h = 6 && !s.map.hb6Half && s.map.ch13 = 0x21 then [12, 13] else [2 * h]
  | none => []

/-- The engine of a stage's current or position loop (R17). -/
def engineOfStage : Nat → Nat
  | 0 => 0 | 1 => 1 | 2 => 0 | 3 => 6 | 4 => 8 | 5 => 9 | 6 => 2 | 7 => 3 | _ => 10

/-- The canonical owner of a channel by its number (R17). -/
def engineOfChannel (ch : Nat) : Nat :=
  if ch < 6 then 0 else if ch < 12 then 1 else if ch < 14 then 0 else if ch < 20 then 6 else if ch < 28 then 8
  else if ch < 36 then 9 else if ch < 52 then 2 else if ch < 58 then 3 else 10

/-- The one engine that owns a channel; none for a channel without a function (R11, R17). -/
def State.owner (s : State) (ch : Nat) : Option Nat :=
  let code := s.chCode ch
  if code / 16 = 15 then none
  else
    let o := vget s.map.owners ch 255
    if o < 16 then some o
    else if code / 16 ≤ 8 then some (engineOfStage (code / 16)) else some (engineOfChannel ch)

/-- Whether an island is declared used (R27). -/
def State.islandUsed (s : State) (n : Nat) : Bool := bitAt s.map.islands n

/-- The mode of a half-bridge in force (R142). -/
def State.hbMode (s : State) (hb : Nat) : Nat := s.getF (F.PWM_HB_CFG_MODE hb)

/-- A stage switches while one of its half-bridges is out of mode 0. -/
def State.switching (s : State) (st : Nat) : Bool := (s.hbsOf st).any fun h => s.hbMode h != 0

/-- Some stage other than the brake chopper switches (R39, R288). -/
def State.anySwitching (s : State) : Bool := [0, 1, 3, 4, 5, 6, 7, 8].any fun st => s.switching st

/-- The power state follows the stages: RUN while one other than the chopper switches, ARMED otherwise (R40). -/
def State.settleRun (s : State) : State :=
  if s.power = pARMED && s.anySwitching then s.toPower pRUN 0x07
  else if s.power = pRUN && !s.anySwitching then s.toPower pARMED 0x07
  else s

/-- Whether the Slate holds a stage in a safe state (R411). -/
def State.held (s : State) (st : Nat) : Bool := vget s.slt.kind st 0 != 0

/-- Whether an ASC pattern is applied to a traction set (R13). -/
def State.ascOn (s : State) (st : Nat) : Bool := vget s.slt.kind st 0 ≥ 2

/-- Whether a channel codes single-ended (R164, R188). -/
def State.gzSingle (s : State) (ch : Nat) : Bool := s.getB (F.GZ_CH_CFG_SE ch)

/-- The value of a 24-bit code in a channel's coding (R164). -/
def State.gzValue (s : State) (ch : Nat) (code : Nat) : Int := if s.gzSingle ch then ((code % 2 ^ 24 : Nat) : Int) else signExt 24 code

/-- A code as a 32-bit word, with the alignment of the channel (R166). -/
def State.gzWord (s : State) (ch : Nat) (code : Nat) : Word :=
  if s.getB (F.GZ_CH_CFG_ALIGN ch) then BitVec.ofNat 32 (code % 2 ^ 24 * 256)
  else BitVec.ofNat 32 (toBits 32 (s.gzValue ch code))

/-- The 24-bit code of an aligned word (R166). -/
def State.gzCode (s : State) (ch : Nat) (w : Word) : Nat :=
  if s.getB (F.GZ_CH_CFG_ALIGN ch) then w.toNat / 256 else w.toNat % 2 ^ 24

/-- The latest FAST code of a channel as an integer. -/
def State.fastValue (s : State) (ch : Nat) : Int := s.gzValue ch (s.gzCode ch (s.getW (F.GZ_CH_FAST ch).addr))

/-- The latest COMP code of a channel as an integer. -/
def State.compValue (s : State) (ch : Nat) : Int := s.gzValue ch (s.gzCode ch (s.getW (F.GZ_CH_COMP ch).addr))

/-- The latest FINE code of a channel as an integer. -/
def State.fineValue (s : State) (ch : Nat) : Int := s.gzValue ch (s.gzCode ch (s.getW (F.GZ_CH_FINE ch).addr))

/-- The engine of a number. -/
def State.eng (s : State) (e : Nat) : Engine := vget s.le e {}

/-- The state with an engine replaced. -/
def State.setEng (s : State) (e : Nat) (x : Engine) : State := { s with le := vset s.le e x }

/-- A link word is fresh: written after the reader's current pacing instant (R205). -/
def State.fresh (s : State) (reader from_ k : Nat) : Bool :=
  match (vget (s.eng from_).links k {}).time with
  | some x => decide ((s.eng reader).pacingAt < x)
  | none => false

/-- Engines that wait for a link word go on with flag 1 once it is fresh (R205). -/
def State.wakeWaiters (s : State) (e k : Nat) : State :=
  (List.range 16).foldl (fun (x : State) n =>
    let g := x.eng n
    match g.wait with
    | some w => if w.engine = e ∧ w.link = k ∧ x.fresh n e k then x.setEng n { g with v := vset g.v w.flagReg 1, wait := none, cycles := g.cycles + (x.now - w.since) / 16 } else x
    | none => x) s

/-- A link word of an engine is written, with its instant; whoever waits for it goes on (R205). -/
def State.putLink (s : State) (e k : Nat) (v : Word) : State :=
  let x := s.eng e
  (s.setEng e { x with links := vset x.links k { value := v, time := some s.now } }).wakeWaiters e k

/-- MODE of an engine: 0 STOP, 1 AUTO, 2 MANUAL. -/
def State.leMode (s : State) (e : Nat) : Nat := s.getF (F.LE_MODE_MODE e)

/-- The carrier that paces an engine (Table 8.5). -/
def State.leCar (s : State) (e : Nat) : Nat := s.getF (F.LE_CFG_CAR e)

/-- DIV in force; 0 acts as 1. -/
def State.leDiv (s : State) (e : Nat) : Nat := max 1 (s.getF (F.LE_CFG_DIV e))

/-- How long before the next pacing instant the deadline of a slot lies (R198). -/
def State.leMargin (s : State) (e : Nat) : Nat := 1088 + 640 * s.getF (F.LE_SLOT_DLMARGIN e)

/-- The derating flag of a stage in an engine's STAGES is set (R221). -/
def State.leDerate (s : State) (e : Nat) : Bool := Nat.land (s.getF (F.LE_CFG_STAGES e)) (s.getF F.THM_DERATE_FLAGS) != 0

/-- The dwell timer follows the derating flags: it runs while one is set, and is 0 otherwise (R221). -/
def State.leDwell (s : State) (e : Nat) : State :=
  let x := s.eng e
  if s.leDerate e then s.setEng e { x with dwellSince := some (x.dwellSince.getD s.now) }
  else s.setEng e { x with dwellSince := none, dwellDone := false }

/-- DWELL_T in 0.1 s as it stands (R221). -/
def State.dwellTime (s : State) (e : Nat) : Nat :=
  match (s.eng e).dwellSince with
  | some d => min 65535 ((s.now - d) / (100 * ticksPerMs))
  | none => 0

/-- A link word of an engine. -/
def State.linkWord (s : State) (e k : Nat) : Word := (vget (s.eng e).links k {}).value

/-- The Gauze channel of an island whose function may move: the channels of a moved island move with it (R14); side 0 is the high-side island. The canonical channel of Table 1.6 stands where no half-bridge carries the function. -/
def State.gzOf (s : State) (code side canon : Nat) : Nat :=
  match s.hbOfCode code with
  | some h => if h < 16 then 32 + 2 * h + side else canon
  | none => canon

/-- The channel of VDC, on the low-side island of the brake chopper's half-bridge (Table 1.6, R14). -/
def State.gzVdc (s : State) : Nat := s.gzOf 0x20 1 45

/-- The channel of IBRK (Table 1.6, R14). -/
def State.gzBrk (s : State) : Nat := s.gzOf 0x20 0 44

/-- The in-line current channels of a traction set: phases U and W (Table 1.6, R14). -/
def State.gzPhases (s : State) (set : Nat) : List Nat :=
  if set = 0 then [s.gzOf 0x00 0 32, s.gzOf 0x02 0 36] else [s.gzOf 0x10 0 38, s.gzOf 0x12 0 42]

/-- The channel of IDCX, on the low-side island of the DCX's first half-bridge (Table 1.6, R14). -/
def State.gzIdcx (s : State) : Nat := s.gzOf 0x50 1 61

/-- VDC in volts: the FAST value of its channel (R237), in volts per code as SLT_VSCALE gives them. -/
def State.vdc (s : State) : Rat := (s.fastValue s.gzVdc : Rat) * s.getQ F.SLT_VSCALE

/-- E, the line back-EMF peak shown in TRC_EMF (R237). -/
def State.emf (s : State) : Rat := s.getQ F.TRC_EMF

/-- The nominal full scale of a channel's code: 0.8 of its span (R163, R164). -/
def State.fullScale (s : State) (ch : Nat) : Int := if s.gzSingle ch then 0xCCCCCC else 0x666666

/-- The reference of carrier n (R137). -/
def State.carRef (s : State) (n : Nat) : Nat := s.getF (F.PWM_CAR_CTRL_REF n)

/-- The carrier of half-bridge h. -/
def State.hbCar (s : State) (h : Nat) : Nat := s.getF (F.PWM_HB_CFG_CAR h)

/-- The half-bridges assigned to carrier n. -/
def State.carHbs (s : State) (n : Nat) : List Nat := below 32 fun h => s.hbCar h == n

/-- DT_eff of a channel (R148). -/
def State.dtEff (s : State) (ch : Nat) : Nat := max (s.getF (F.PWM_CH_DT ch)) (s.getF (F.SLT_HB_DTFLOOR (ch / 2)))

/-- tMINP_eff of a half-bridge (R148). -/
def State.tminpEff (s : State) (h : Nat) : Nat := max (s.getF (F.PWM_HB_MINP_TMINP h)) (s.getF (F.SLT_HB_MINPFLOOR h))

/-- The effective values of R148 shown in PWM_CHn_DTEFF and PWM_HBn_MINP. -/
def State.showEff (s : State) (h : Nat) : State :=
  ((s.setF (F.PWM_CH_DTEFF (2 * h)) (s.dtEff (2 * h))).setF (F.PWM_CH_DTEFF (2 * h + 1)) (s.dtEff (2 * h + 1))).setF
    (F.PWM_HB_MINP_TMINP_EFF h) (s.tminpEff h)

/-- The carrier at whose period start a PWM_ field's shadow applies (Table 5.5, R138): PHASE at its reference's, a half-bridge's fields at its carrier's, a window unit's at its bridge's. -/
def State.pwmOwner (s : State) (a : Nat) : Option Nat :=
  if a < 0x10100 then none
  else if a < 0x10300 then
    let n := (a - 0x10100) / 0x20
    some (if (a - 0x10100) % 0x20 = 8 then s.carRef n else n)
  else if a < 0x11000 then none
  else if a < 0x11400 then some (s.hbCar ((a - 0x11000) / 0x20))
  else if a < 0x12000 then none
  else if a < 0x12400 then some (s.hbCar ((a - 0x12000) / 0x20))
  else if a < 0x13000 then none
  else if a < 0x13040 then some (s.hbCar (s.getF (F.PWM_WIN_CFG_HBA ((a - 0x13000) / 0x20))))
  else none

/-- Whether a shadowed write belongs to the stage whose switching period starts: the AUX_ fields, at a master period start of the buck (Table 5.5, R340). -/
def State.auxOwner (s : State) (a n : Nat) : Bool :=
  a / 65536 == 7 && (s.hbsOf 6).any fun h => s.carRef (s.hbCar h) == n

/-- The bits of a shadowed write whose natural boundary comes from a carrier: the PWM_ fields it owns, the AUX_ fields of the buck on it, the LE_ fields of an engine it paces, and the GZ_ fields of a path whose outputs it times (Table 5.5). -/
def State.carBits (s : State) (n : Nat) (w : PendWrite) : Nat :=
  let b := w.addr / 65536
  let e := (w.addr - 0x31000) / 0x80
  let c := (w.addr - 0x21000) / 0x40
  let fast := if (w.addr - 0x21000) % 0x40 = 8 then Nat.land w.mask 0xFFFF else 0
  let mode := s.getF (F.GZ_CH_CFG_MODE c)
  let here := s.getF (F.GZ_CH_CFG_CAR c) == n
  let win := s.hbCar (s.getF (F.PWM_WIN_CFG_HBA (s.getF (F.GZ_CH_CFG_WINU c)))) == n
  if w.held then 0
  else if b = 1 then (if s.pwmOwner w.addr = some n then w.mask else 0)
  else if b = 7 then (if s.auxOwner w.addr n then w.mask else 0)
  else if b = 3 then (if s.getF (F.LE_CFG_PACE e) = 0 ∧ s.leCar e = n then w.mask else 0)
  else if b = 2 then
    (if mode = 2 && !s.getB (F.GZ_CH_CFG_FREE c) && here then w.mask
     else if (mode = 1 && s.getB (F.GZ_CH_CFG_AVG c) && here) || (mode = 3 && win) then fast else 0)
  else 0

/-- A carrier stands still: what waits for a boundary that it gave applies at once (R116). -/
def State.freeCar (s : State) (n : Nat) : State := (List.range 16).foldl (fun x e => x.leDwell e) ((s.carHbs n).foldl (fun x h => x.showEff h) (s.applyBits (s.carBits n)))

end Sys2Proof.Machine
end

