-- ==== Sys2Proof/Machine/Operands.lean ====
section
/-! DEFINITION. The operand forms of requests: header, CRC-32C, transports, status codes, sessions and the order in which a request is checked (R73 to R94). -/

namespace Sys2Proof.Machine

open Sys2Proof

def stOK : Nat := 0x0000
def stDeferred : Nat := 0x0001
def stBadOpcode : Nat := 0x0010
def stBadLength : Nat := 0x0011
def stBadParam : Nat := 0x0012
def stBadCrc : Nat := 0x0013
def stNotPrivileged : Nat := 0x0020
def stAuthFailed : Nat := 0x0021
def stLocked : Nat := 0x0030
def stWriteOnceSpent : Nat := 0x0031
def stStaleSeq : Nat := 0x0032
def stStateRefused : Nat := 0x0040
def stTripActive : Nat := 0x0041
def stReverseTooFast : Nat := 0x0042
def stSafeHeld : Nat := 0x0043
def stBusy : Nat := 0x0050
def stTempInhibit : Nat := 0x0051
def stSigInvalid : Nat := 0x0060
def stRollback : Nat := 0x0061
def stRidgeOnly : Nat := 0x0070

/-- One bit step of the reflected CRC-32C (R76). -/
def crcBit (c : Nat) : Nat := if c % 2 = 1 then Nat.xor (c / 2) 0x82F63B78 else c / 2

/-- One byte of the CRC-32C. -/
def crcByte (c : Nat) (b : Byte) : Nat :=
  crcBit (crcBit (crcBit (crcBit (crcBit (crcBit (crcBit (crcBit (Nat.xor c b.toNat))))))))

/-- CRC-32C of a byte string: reflected polynomial 0x1EDC6F41, initial value and final XOR 0xFFFFFFFF (R76). -/
def crc32c (bs : List Byte) : Nat := Nat.xor (bs.foldl crcByte 0xFFFFFFFF) 0xFFFFFFFF

/-- The 16 header bytes of a packet (Table 4.1). -/
def headerBytes (version flags : Byte) (seq : BitVec 16) (opcode plen : Nat) (session reserved : Word) : List Byte :=
  [version, flags] ++ beBytes 2 seq.toNat ++ beBytes 2 opcode ++ beBytes 2 plen ++ beBytes 4 session.toNat ++ beBytes 4 reserved.toNat

end Sys2Proof.Machine

namespace Sys2Proof

open Sys2Proof.Machine

/-- The CRC a request must carry (R76). -/
def Req.wantCrc (r : Req) (opcode : Nat) : Nat :=
  crc32c (headerBytes r.version r.flags r.seq opcode r.plen.toNat r.session r.reserved ++ r.params)

/-- A request with its parameter length and CRC made right. -/
def Req.withCrc (r : Req) (opcode : Nat) : Req :=
  let q := { r with plen := BitVec.ofNat 16 r.params.length }
  { q with crc := BitVec.ofNat 32 (q.wantCrc opcode) }

end Sys2Proof

namespace Sys2Proof.Machine

open Sys2Proof

/-- The largest packet of a transport, header to CRC (Table 4.2). (Assumption 19 DEDUCED) -/
def maxPacket (p : Port) (fd : Bool) : Nat :=
  match p with
  | .eth => 1500
  | .can0 => if fd then 64 else 2048
  | .can1 => if fd then 64 else 2048
  | .spi => 4096

end Sys2Proof.Machine

namespace Sys2Proof

open Sys2Proof.Machine

/-- Bytes from header to CRC. -/
def Req.total (r : Req) : Nat := 20 + r.params.length

/-- Whether a request has an intact header (R81). -/
def Req.intact (r : Req) : Bool :=
  r.version == 1 && r.plen.toNat == r.params.length && decide (r.total ≤ maxPacket r.port r.fd)

/-- Whether a reply with n bytes of result data fits the transport (R82 step 7). (Assumption 19 DEDUCED) -/
def Req.fits (r : Req) (n : Nat) : Bool := decide (22 + n ≤ maxPacket r.port r.fd)

/-- n parameter bytes from an offset, as a number (R5). -/
def Req.num (r : Req) (off n : Nat) : Nat := beAt r.params off n

/-- A binary32 parameter. -/
def Req.fl (r : Req) (off : Nat) : F32 := BitVec.ofNat 32 (r.num off 4)

end Sys2Proof

namespace Sys2Proof.Machine

open Sys2Proof

/-- The sender address that binds a session: only on 1000BASE-T1 (R91). -/
def senderKey (p : Port) (mac : BitVec 48) : BitVec 48 := if p = .eth then mac else 0

end Sys2Proof.Machine

namespace Sys2Proof

open Sys2Proof.Machine

/-- Where the reply to a request goes (R77). -/
def Req.ticket (r : Req) (opcode : Nat) : Ticket where
  port := r.port
  fd := r.fd
  mac := senderKey r.port r.mac
  vlan := r.vlan
  opcode := opcode
  seq := r.seq
  session := r.session
  crc := r.crc

end Sys2Proof

namespace Sys2Proof.Machine

open Sys2Proof

/-- Opcodes that a broadcast frame may carry: PING, GET_VERSION, IDENT_READ (R78). -/
def broadcastOps : List Nat := [0x0001, 0x0004, 0x0C00]

/-- Opcodes accepted in recovery mode (R483). -/
def recoveryOps : List Nat :=
  [0x0001, 0x0002, 0x0004, 0x0005, 0x0010, 0x0011, 0x0012, 0x0A00, 0x0A01, 0x0A02, 0x0A03, 0x0B03, 0x0B04, 0x0C00, 0x0C02]

/-- Whether a transport carries packets now: enabled, and on 1000BASE-T1 with its link up (R78, Table 4.11). (Assumption 20 DEDUCED) -/
def State.portOpen (s : State) (p : Port) : Bool :=
  match p with
  | .spi => s.getB F.COM_CFG_SPI_EN
  | .eth => s.getB F.COM_CFG_ETH_EN && s.com.linkUp
  | .can0 => s.getB F.COM_CFG_CAN0_EN
  | .can1 => s.getB F.COM_CFG_CAN1_EN

/-- Whether the module receives a request at all: STANDBY reached, not entering SLEEP, transport open, frame addressed to it (R78, R79, R489, R491). (Assumption 11 DEDUCED) -/
def State.receives (s : State) (r : Req) (opcode : Nat) : Bool :=
  s.mainUp && s.pwr.sleep.isNone && s.portOpen r.port &&
  match r.port with
  | .spi => true
  | .eth => r.dest == .own || (r.dest == .broadcast && broadcastOps.contains opcode)
  | _ => r.canId.toNat == s.getF F.COM_CAN_ID_REQ_ID

/-- The open session of an identifier, bound to a transport and sender (R82 step 4, R91). -/
def State.session (s : State) (id : Word) : Option Session := s.com.sessions.find? fun x => x.id == id

/-- The session a request names, where it is open and bound to the request's transport and sender. -/
def State.boundSession (s : State) (t : Ticket) : Option Session :=
  match s.session t.session with
  | some x => if x.port = t.port ∧ x.mac = t.mac then some x else none
  | none => none

/-- A session replaced by its changed form. -/
def State.mapSession (s : State) (id : Word) (g : Session → Session) : State :=
  { s with com := { s.com with sessions := s.com.sessions.map fun x => if x.id = id then g x else x } }

/-- A packet of the module: its header with the flags given, its parameters and its CRC-32C (Table 4.1, R74 to R76). -/
def packet (flags : Byte) (seq : BitVec 16) (opcode : Nat) (session : Word) (params : List Byte) : List Byte :=
  let body := headerBytes 1 flags seq opcode params.length session 0 ++ params
  body ++ beBytes 4 (crc32c body)

/-- The bytes of a reply: flags REPLY, then status and result data (R74, R75). -/
def Reply.packet (r : Reply) : List Byte := Machine.packet 0x01 r.seq r.opcode r.session (beBytes 2 r.status ++ r.data)

/-- The next data length that CAN FD allows. -/
def fdLength (n : Nat) : Nat := ([8, 12, 16, 20, 24, 32, 48, 64].find? fun k => decide (n ≤ k)).getD n

/-- The frame that carries a packet to where a ticket names (R77 to R80). -/
def State.frame (s : State) (t : Ticket) (bs : List Byte) : Frame :=
  let can := fun (c : Nat) =>
    if t.fd then Frame.canFd c (s.getF F.COM_CAN_ID_RSP_ID) (bs ++ List.replicate (fdLength bs.length - bs.length) 0)
    else .canXl c (s.getF F.COM_CAN_ID_RSP_ID) (s.getF F.COM_CAN_ID_SDT) 0 0 bs
  match t.port with
  | .eth => .eth t.mac t.vlan bs
  | .can0 => can 0
  | .can1 => can 1
  | .spi => .spi bs

/-- A reply on its way out, framed for its transport. -/
def State.sends (s : State) (t : Ticket) (r : Reply) : Sent := .reply t r (s.frame t r.packet)

/-- One reply leaves: on SPI it becomes pending, elsewhere it is sent (R77, R80). -/
def State.emit (s : State) (t : Ticket) (r : Reply) : State :=
  if t.port = .spi then { s with com := { s.com with spiOut := s.com.spiOut ++ [(s.now, t, r)] } }
  else { s with com := { s.com with sent := s.sends t r :: s.com.sent } }

/-- Replies that may leave now, in order: one that is not background waits for every earlier one of its transport and sender (R87), and one for the host SPI waits while no room is left among the 8 that may be pending there (R80). (Assumption 168 DEDUCED) -/
def flushable : Nat → List (Port × BitVec 48) → List Slot → List (Ticket × Reply) × List Slot
  | _, _, [] => ([], [])
  | room, blocked, x :: rest =>
    let key := (x.ticket.port, x.ticket.mac)
    let spi := x.ticket.port == .spi
    match x.ready with
    | some r =>
      if (x.background || !blocked.contains key) && !(spi && room == 0) then
        let (go, keep) := flushable (if spi then room - 1 else room) blocked rest
        ((x.ticket, r) :: go, keep)
      else
        let (go, keep) := flushable room blocked rest
        (go, x :: keep)
    | none =>
      let (go, keep) := flushable room (if x.background then blocked else key :: blocked) rest
      (go, x :: keep)

/-- Every reply that may leave leaves; on the host SPI at most 8 are pending, and a further one follows when a delivery makes room (R80, R87). (Assumption 10 DEDUCED, 168 DEDUCED) -/
def State.flush (s : State) : State :=
  let (go, keep) := flushable (8 - s.com.spiOut.length) [] s.com.slots
  go.foldl (fun t p => t.emit p.1 p.2) { s with com := { s.com with slots := keep } }

/-- A reply in the session's cache: kept for the request it answers, or the request taken out when it was refused with BUSY (R85). (Assumption 23 DEDUCED) -/
def State.cacheReply (s : State) (t : Ticket) (r : Reply) : State :=
  s.mapSession t.session fun x =>
    if r.status = stBusy then { x with cache := (x.cache.filter fun e => !(e.seq == t.seq && e.crc == t.crc && e.reply.isNone)).take 16 }
    else { x with cache := (x.cache.map fun e => if e.seq = t.seq ∧ e.crc = t.crc then { e with reply := some r } else e).take 16 }

/-- The reply packet's content; result data only with OK or OK_DEFERRED (R75). -/
def mkReply (t : Ticket) (status : Nat) (data : List Byte) : Reply where
  opcode := t.opcode
  seq := t.seq
  session := t.session
  status := status
  data := if status ≤ 1 then data else []

/-- The slot of a request takes its reply. -/
def fillSlot (t : Ticket) (r : Reply) : List Slot → List Slot
  | [] => []
  | x :: rest => if x.ticket = t ∧ x.ready.isNone then { x with ready := some r } :: rest else x :: fillSlot t r rest

/-- The slot of a request that gets no reply of its own is dropped (R85). -/
def dropSlot (t : Ticket) : List Slot → List Slot
  | [] => []
  | x :: rest => if x.ticket = t ∧ x.ready.isNone then rest else x :: dropSlot t rest

/-- A request is answered: its reply enters the cache and leaves in its turn (R84, R85, R87). -/
def State.answer (s : State) (t : Ticket) (status : Nat) (data : List Byte) : State :=
  let r := mkReply t status data
  let u := s.cacheReply t r
  ({ u with com := { u.com with slots := fillSlot t r u.com.slots } }).flush

/-- A request that fails at steps 1 to 4 is answered; the cache keeps what it has for the request of that sequence (R85). -/
def State.reject (s : State) (t : Ticket) (status : Nat) : State :=
  ({ s with com := { s.com with slots := fillSlot t (mkReply t status []) s.com.slots } }).flush

/-- What carrying out a request answers: a status with result data, or a reply that follows later. -/
inductive Res
  | done (status : Nat) (data : List Byte) (s : State)
  | later (s : State)

/-- What an opcode asks of a request before its own conditions: its level, the lengths it allows and whether its reply is background (Tables 4.4, 4.5). -/
structure Op where
  code : Nat
  level : Nat := 1
  background : Bool := false
  lens : List Nat := [0]

/-- An opcode with its session level given by the request itself. -/
def Op.at (o : Op) (level : Nat) : Op := { o with level := level }

/-- A request is entered in its session's cache; what it pushes out leaves once it is known that the request is not refused with BUSY (R85). (Assumption 23 DEDUCED) -/
def State.enterCache (s : State) (t : Ticket) : State :=
  s.mapSession t.session fun x => { x with cache := ⟨t.seq, t.crc, none⟩ :: x.cache }

/-- The cache of a session holds its last 16 requests: the request that goes on executing has been entered (R85). -/
def State.trimCache (s : State) (t : Ticket) : State := s.mapSession t.session fun x => { x with cache := x.cache.take 16 }

/-- How the checks common to all requests end (R81, R82): the request goes on to its own values and conditions, or it is finished. -/
inductive Admit
  | served (s : State)
  | ended (s : State)

/-- The checks after step 4 of R82 for a request whose session, if any, has been found: duplicate and length. (Assumption 22 DEDUCED) -/
def admitIn (lenOk : Bool) (r : Req) (t : Ticket) (s : State) : Admit :=
  let run := fun (u : State) => if lenOk then Admit.served u else .ended (u.answer t stBadLength [])
  if r.session = 0 then run s
  else
    let s1 := s.mapSession r.session fun x => { x with lastAt := s.now }
    match s1.session r.session with
    | none => run s1
    | some x =>
      match x.cache.find? fun e => e.seq == t.seq with
      | some e =>
        if e.crc = t.crc then
          let s2 := s1.bump F.COM_ERR_DUP
          match e.reply with
          | some rep => .ended ({ s2 with com := { s2.com with slots := fillSlot t rep s2.com.slots } }).flush
          | none => .ended { s2 with com := { s2.com with slots := (dropSlot t s2.com.slots.reverse).reverse } }
        else .ended ({ s1 with com := { s1.com with slots := fillSlot t (mkReply t stBadParam []) s1.com.slots } }).flush
      | none => run (s1.enterCache t)

/-- Step 4 of R82: the session of a request is open, bound to its transport and sender, and high enough. Session 0 passes only where the opcode needs none. -/
def State.privileged (s : State) (level : Nat) (t : Ticket) : Bool :=
  if t.session = 0 then level == 0
  else match s.boundSession t with
    | some x => decide (level ≤ x.level)
    | none => false

/-- A request other than its SESSION_OPEN has been received in the session it names (R86). (Assumption 170 DEDUCED) -/
def State.markUsed (s : State) (t : Ticket) : State :=
  match s.boundSession t with
  | some x => s.mapSession x.id fun y => { y with used := true }
  | none => s

/-- A request awaits its reply: it takes its place among the replies of its transport and sender (R87). -/
def State.enqueue (s : State) (o : Op) (r : Req) : State :=
  { s with com := { s.com with slots := s.com.slots ++ [({ ticket := r.ticket o.code, background := o.background, ready := none } : Slot)] } }

/-- The checks common to all requests, in the order of R81 and R82. Nothing authenticates the sender of a request in an OPERATE session (R95). -/
def admitReq (o : Op) (lenOk : Nat → Bool) (r : Req) (s0 : State) : Admit :=
  let s := s0.advance r.time
  if !s.receives r o.code then .ended s
  else if r.port = .spi ∧ 8 ≤ s.com.spiOut.length then .ended (s.bump F.COM_ERR_DISCARD)
  else if !r.intact then .ended (s.bump F.COM_ERR_DISCARD)
  else
    let t := r.ticket o.code
    let s1 := s.enqueue o r
    if r.crc.toNat ≠ r.wantCrc o.code then .ended ((s1.bump F.COM_ERR_CRC_ERR).reject t stBadCrc)
    else
      let s2 := { s1 with com := { s1.com with lastContact := s1.now, hostAt := some s1.now } }.markUsed t
      if r.flags ≠ 0 ∨ r.reserved ≠ 0 then .ended (s2.reject t stBadParam)
      else if s2.getB F.SYS_BOOT_RECOVERY && !recoveryOps.contains o.code then .ended (s2.reject t stStateRefused)
      else if !s2.privileged o.level t then .ended (s2.reject t stNotPrivileged)
      else admitIn (lenOk r.params.length) r t s2

/-- A request handled in the order of R81 and R82; body is its values, conditions and execution. -/
def serve (o : Op) (lenOk : Nat → Bool) (r : Req) (body : Ticket → State → Res) (s0 : State) : State :=
  match admitReq o lenOk r s0 with
  | .ended s => s
  | .served s =>
    match body (r.ticket o.code) s with
    | .done st d v => v.answer (r.ticket o.code) st d
    | .later v => v.trimCache (r.ticket o.code)

/-- The checks on a request whose opcode lists its parameter lengths. -/
def admitOp (o : Op) (r : Req) (s : State) : Admit := admitReq o (fun n => o.lens.contains n) r s

/-- A request whose parameter length is one of those its opcode lists. -/
def serveOp (o : Op) (r : Req) (body : Ticket → State → Res) (s : State) : Out :=
  .next (serve o (fun n => o.lens.contains n) r body s)

/-- A request answered with a status alone. -/
def refuse (st : Nat) (s : State) : Res := .done st [] s

/-- A request answered OK with result data. -/
def okWith (d : List Byte) (s : State) : Res := .done stOK d s

/-- Square root of a rational, rounded down to a millionth. (Assumption 105 DESIGN CHOICE) -/
def sqrtMicro (x : Rat) : Rat := if x ≤ 0 then 0 else mkRat (isqrtAux 120 (floorNat (x * 10 ^ 12)) 0 : Nat) (10 ^ 6)

end Sys2Proof.Machine
end

