-- ==== Sys2Proof/Machine/Telemetry.lean ====
section
/-! DEFINITION. Telemetry and last-fault quantities of the stages (R96, R345, R367, Tables 12.7 and 13.6): what each stage samples, its last 10 samples and its peaks. -/

namespace Sys2Proof.Machine

open Sys2Proof

/-- The latest FAST value of a channel in the unit of a scale register. -/
def State.fastQ (s : State) (ch : Nat) (scale : Fld) : Rat := (s.fastValue ch : Rat) * s.getQ scale

/-- V48 in volts: the GZ11 code scaled by FFSCALE of LE2 (R318). (Assumption 102 DEDUCED) -/
def State.v48 (s : State) : Rat := s.fastQ 11 (F.LE_FFSCALE 2)

/-- VOUT, IOUT and the current of buck phase Pk (Table 12.8). (Assumption 102 DEDUCED) -/
def State.vout (s : State) : Rat := s.fastQ 12 F.AUX_VSCALE
def State.iout (s : State) : Rat := s.fastQ 13 F.AUX_IOSCALE
def State.iph (s : State) (k : Nat) : Rat := s.fastQ (3 + k) F.AUX_IPSCALE

/-- VACT, the 24 V supply of the actuators: GZ21 scaled as LE3's feedforward scales it (Table 13.1). -/
def State.vact (s : State) : Rat := s.fastQ 21 (F.LE_FFSCALE 3)

/-- The share of the running period for which a half-bridge is high, from its compares in force. -/
def State.duty (s : State) (h : Nat) : Rat :=
  let x := vget s.bat.hbs h {}
  let p := (vget s.bat.cars (s.getF (F.PWM_HB_CFG_CAR h)) {}).eff
  if s.hbMode h = 0 || p = 0 then 0 else ((min x.off0 p - min x.on0 p : Nat) : Rat) / (p : Rat)

/-- The higher junction estimate of the two switches of a half-bridge. -/
def State.hbTj (s : State) (h : Nat) : Rat := maxRat (s.getQ (F.THM_TJ (2 * h))) (s.getQ (F.THM_TJ (2 * h + 1)))

/-- The highest junction estimate of the half-bridges listed; 0 for none. -/
def State.topTj (s : State) (hs : List Nat) : Rat :=
  match hs with
  | [] => 0
  | h :: rest => rest.foldl (fun m k => maxRat m (s.hbTj k)) (s.hbTj h)

/-- The phase current of an actuator as its engine last had it (R352, Table 13.6). -/
def State.actAmp (s : State) (st k : Nat) : Rat := (if st = 8 then s.park else s.shift).amps.getD k 0

/-- The four quantities of one index: voltage, current, power, temperature (R96). (Assumption 102 DEDUCED) -/
def quad (i : Nat) (v a p t : Option Rat) : List (Nat × Option Rat) := [(16 * i, v), (16 * i + 1, a), (16 * i + 2, p), (16 * i + 3, t)]

/-- The quantities of a stage at this instant; none where the spec gives no way to compute one (Tables 12.7, 13.6). The spec lists no quantities for stages 0 to 4. (Assumption 32 DESIGN CHOICE) -/
def State.quantities (s : State) (st : Nat) : List (Nat × Option Rat) :=
  if st = 5 then
    let i := s.fastQ s.gzIdcx F.AUX_IDSCALE
    quad 0 (some s.vdc) (some i) (some (s.vdc * i)) (some (s.getQ (F.THM_NTCT 4)))
      ++ quad 1 (some s.v48) (some (16 * i)) (some (s.v48 * (16 * i))) (some (s.topTj (s.hbsOf 5)))
  else if st = 6 then
    ((List.range 8).flatMap fun k =>
      match s.hbOfCode (0x60 + k) with
      | some h =>
        let v := s.duty h * s.v48
        quad k (some v) (some (s.iph k)) (some (v * s.iph k)) (some (s.hbTj h))
      | none => quad k none none none none)
      ++ quad 15 (some s.vout) (some s.iout) (some (s.vout * s.iout)) (some (s.getQ (F.THM_NTCT 5)))
  else if st = 7 || st = 8 then
    ((List.range 3).flatMap fun k =>
      match s.hbOfCode (16 * st + k) with
      | some h =>
        let v := s.duty h * s.vact
        quad k (some v) (some (s.actAmp st k)) (some (v * s.actAmp st k)) (some (s.hbTj h))
      | none => quad k none none none none)
      ++ quad 15 (some s.vact) (some (sqrtMicro ((([0, 1, 2].map fun k => s.actAmp st k * s.actAmp st k).sum) * 2 / 3)))
          (some (([0, 1, 2].map fun k => match s.hbOfCode (16 * st + k) with
            | some h => s.duty h * s.vact * s.actAmp st k
            | none => 0).sum)) (some (s.topTj (s.hbsOf st)))
  else []

/-- Peaks of one stage with a sample taken in. -/
def takePeaks (st : Nat) (q : List (Nat × Option Rat)) (old : List (Nat × Nat × Rat × Rat)) : List (Nat × Nat × Rat × Rat) :=
  let new := q.filterMap fun x => x.2.map fun v =>
    match old.find? fun p => p.1 == st && p.2.1 == x.1 with
    | some p => (st, x.1, minRat p.2.2.1 v, maxRat p.2.2.2 v)
    | none => (st, x.1, v, v)
  new ++ old.filter fun p => p.1 != st

/-- A SERVICE or FACTORY session is open. -/
def State.serviceOpen (s : State) : Bool := s.com.sessions.any fun x => decide (2 ≤ x.level)

/-- The telemetry of a stage is accumulated and served (R345, R367). (Assumption 33 DEDUCED) -/
def State.tlmServed (s : State) (st : Nat) : Bool :=
  let a := s.getF F.AUX_STAT_ASTATE
  if st = 5 || st = 6 then
    s.serviceOpen || (a != 0 && ((6 ≤ a && a ≤ 8) || !s.getB F.AUX_STAT_REGULATED || !s.elapsed s.aux.regulatedAt (10 * ticksPerS)))
  else if st = 7 || st = 8 then s.serviceOpen
  else true

/-- A stage takes one sample: one master period of the buck, one carrier period of an actuator. (Assumption 33 DEDUCED) -/
def State.sampleStage (s : State) (st : Nat) : State :=
  let q := s.quantities st
  let mine := (s.tlm.hist.filter fun x => x.1 == st).take 9
  { s with tlm := { hist := (st, q) :: mine ++ s.tlm.hist.filter (fun x => x.1 != st), peaks := if s.tlmServed st then takePeaks st q s.tlm.peaks else s.tlm.peaks } }

/-- The mean of a quantity over samples; none where the spec does not give it. -/
def meanOf (code : Nat) (hist : List (List (Nat × Option Rat))) : Option Rat :=
  let vs := hist.filterMap fun q => (q.find? fun x => x.1 == code).bind fun x => x.2
  if vs.isEmpty then none else some (vs.sum / (vs.length : Rat))

/-- The quantity codes of a stage's telemetry and last-fault records. (Assumption 32 DESIGN CHOICE) -/
def State.quantityCodes (s : State) (st : Nat) : List Nat := if st ≤ 4 then Config.quantityCodes st else (s.quantities st).map fun x => x.1

/-- The values of a last-fault record: the mean of the last 10 samples, a free value where the spec gives none (R345, R367). (Assumption 33 DEDUCED) -/
def State.lastValues (s : State) (st : Nat) : List (Nat × F32) × State :=
  let hist := (s.tlm.hist.filter fun x => x.1 == st).map fun x => x.2
  let use := if hist.isEmpty then [s.quantities st] else hist
  (s.quantityCodes st).foldl (fun (acc : List (Nat × F32) × State) c =>
    match meanOf c use with
    | some v => (acc.1 ++ [(c, F32.ofRat v)], acc.2)
    | none => let (w, t) := acc.2.draw; (acc.1 ++ [(c, w)], t)) ([], s)

/-- Whether a fault fills the last-fault record of a stage it affects: classes A, B and C. For the auxiliary converter and the actuators class A counts on their half-bridges, not where a clock, the supply or DRVEN of the module goes; for the converter classes B and C count as its own faults (R345, R367). -/
def fillsRecord (st cls code : Nat) : Bool :=
  if st ≤ 4 then decide (cls ≤ 3)
  else if cls = 1 then !([0x100A, 0x9003, 0xA001].contains code)
  else decide (cls ≤ 3) && (decide (7 ≤ st) || code / 4096 == 4)

end Sys2Proof.Machine
end

