-- ==== Sys2Proof/Machine/StageStop.lean ====
section
/-! DEFINITION. What each stage's own state becomes when the Slate takes the stage to its safe state (R226, R306, R342, Table 13.4), and the ends of operation that a stop of any other cause shares. -/

namespace Sys2Proof.Machine

open Sys2Proof

/-- A half-bridge's MODE set at once, outside its shadow: what a program's stop or start brings into force. -/
def State.setMode (s : State) (hb mode : Nat) : State := s.setF (F.PWM_HB_CFG_MODE hb) mode

/-- The gate of a channel is commanded to a state, with the instant at which its edge lands; a difference that the monitor has seen ends where the command agrees with it (R269). -/
def State.commanded (s : State) (ch : Nat) (on : Bool) (land : Nat) : State :=
  { s with gate := { s.gate with cmdAt := vset s.gate.cmdAt ch land, seen := if vget s.gate.seen ch none = some on then vset s.gate.seen ch none else s.gate.seen } }

/-- The gate of a channel is turned off by the Slate: released at once, with its pending turn-on and its held turn-off cancelled (R276, R277). -/
def State.chOff (s : State) (ch : Nat) : State :=
  let t := if vget s.gate.sched ch false then ({ s with gate := { s.gate with offRel := vset s.gate.offRel ch (some s.now) } }).commanded ch false s.now else s
  { t with gate := { t.gate with sched := vset t.gate.sched ch false, pendOn := vset t.gate.pendOn ch none, minHold := vset t.gate.minHold ch none } }

/-- The gates of a half-bridge commanded off, with its pending turn-ons cancelled. -/
def State.gatesOff (s : State) (hb : Nat) : State := (s.chOff (2 * hb)).chOff (2 * hb + 1)

/-- MODE 0 in force at once: a MODE write still in its shadow is void, and the carry is cleared (R145, R154). (Assumption 66 DEDUCED) -/
def State.forceOff (s : State) (hb : Nat) : State :=
  let f := F.PWM_HB_CFG_MODE hb
  let t := s.setF f 0
  let sh := (t.shadow.map fun p => if p.addr = f.addr then { p with mask := p.mask / 4 * 4 } else p).filter fun p => p.mask != 0
  let h := vget t.bat.hbs hb {}
  let u := { t with shadow := sh, bat := { t.bat with hbs := vset t.bat.hbs hb { h with carry0 := 0, carry1 := 0, mode := 0, plan := none, endHi := false, endLo := false }, edges := t.bat.edges.filter fun e => e.ch / 2 != hb } }
  u.setF (F.PWM_HB_CARRYVAL hb) 0

/-- Switching of a stage ends at once: MODE 0 and gates off on each of its half-bridges. -/
def State.stopSwitching (s : State) (st : Nat) : State := (s.hbsOf st).foldl (fun x h => (x.forceOff h).gatesOff h) s

/-- The control-side energy of the session, imported and exported, as CHG_SESSION_END returns it in Wh (Table 4.5). -/
def State.sessionEnergy (s : State) : List Byte :=
  beBytes 4 (F32.ofRat ((s.chg.imp - s.chg.sesImp) / 1000)).toNat ++ beBytes 4 (F32.ofRat ((s.chg.exp - s.chg.sesExp) / 1000)).toNat

/-- The session's stop lies in the present slot of LE7, or at this very instant where LE7 runs no slots (R307). -/
def State.stopHere (s : State) : Bool :=
  s.chg.stopSlot == some (s.eng 7).slots && (s.chg.stopAt == s.now || (s.leMode 7 != 0 && (vget s.bat.cars (s.leCar 7) {}).running))

/-- A charge session ends: switching stopped, S2 open, CSTATE 0, the reason shown; a CHG_SESSION_END still waiting is answered (R300, R306). Of two ends in one slot of LE7 the smaller reason stays (Table 11.9). -/
def State.chgEnd (s : State) (reason : Nat) : State :=
  if s.getF F.CHG_STAT_CSTATE = 0 then
    if s.stopHere && decide (reason < s.getF F.CHG_STAT_ENDREASON) then s.setF F.CHG_STAT_ENDREASON reason else s
  else
    let a := (s.stopSwitching 3).stopSwitching 4
    let b := ((((((((a.setF F.CHG_STAT_CSTATE 0).setB F.CHG_STAT_S2 false).setB F.CHG_STAT_FALLBACK false).setF F.CHG_STAT_PAUSE 0).setF F.CHG_STAT_PHASES 0).setB
      F.CHG_STAT_QUALIFIED false).setB F.CHG_STAT_PRECHARGED false).setF F.CHG_STAT_ENDREASON reason).event F.CHG_EVT_ENDED
    let c := b.setFl F.CHG_TARGET 0
    let d := { c with chg := { c.chg with rampFrom := 0, rampTo := 0, zeroFor := 0, endTickets := [], stopSlot := some (s.eng 7).slots, stopAt := s.now, fellBack := s.getB F.CHG_STAT_FALLBACK } }
    s.chg.endTickets.foldl (fun x t => x.answer t stOK s.sessionEnergy) d

/-- A charger that the Slate stops ends its session with ENDREASON 5 (R306). -/
def State.chgHeld (s : State) : State := s.chgEnd 5

/-- A half-bridge under some latch. -/
def State.latched (s : State) (h : Nat) : Bool := s.gate.latches.any fun l => l.hb == h

/-- The half-bridge of phase Pk. -/
def State.phaseHb (s : State) (k : Nat) : Option Nat := s.hbOfCode (0x60 + k)

/-- Phases in mode 1, as AUX_STAT.ACTIVE shows them. -/
def State.activePhases (s : State) : Nat := maskOf (below 8 fun k => match s.phaseHb k with
  | some h => s.hbMode h == 1
  | none => false)

/-- Available phases and their number n. -/
def State.availPhases (s : State) : Nat := s.getF F.AUX_STAT_AVAIL
def State.nAvail (s : State) : Nat := (bitsList 8 s.availPhases).length

/-- A driver latch has made a phase unavailable, or stands on it now (Table 12.4 code 6). -/
def State.phaseHeld (s : State) (k : Nat) : Bool := bitAt s.aux.latched k || (match s.phaseHb k with
  | some h => s.latched h
  | none => false)

/-- The reason a phase is unavailable, 0 while it is available: the lowest code of Table 12.4 that applies. (Assumption 98 DEDUCED, 99 DEDUCED) -/
def State.phaseReason (s : State) (k : Nat) : Nat :=
  if !s.bit F.AUX_CFG_PRESENT k then 1
  else if !s.bit F.AUX_CFG_MASK k || bitAt s.aux.permit k then 2
  else if bitAt s.aux.opened k then 3
  else if bitAt s.aux.hot k then 4
  else if bitAt s.thm.buckRetired k && !bitAt s.aux.retiring k then 5
  else if s.phaseHeld k then 6
  else 0

/-- AUX_PHSTAT and AVAIL show the phases as they stand (R336). -/
def State.showPhases (s : State) : State :=
  let rs := (List.range 8).map fun k => s.phaseReason k
  (s.setF F.AUX_PHSTAT ((List.range 8).foldl (fun m k => m + rs.getD k 0 * 16 ^ k) 0)).setF F.AUX_STAT_AVAIL (maskOf (below 8 fun k => rs.getD k 0 == 0))

/-- The converter begins to stop: MODE 0 on every buck phase; a mask kept back is taken, as the state it waited for ends (R342, Table 12.3). (Assumption 64 DEDUCED) -/
def State.auxHalt (s : State) : State :=
  if s.getF F.AUX_STAT_ASTATE = 0 || s.aux.stopping then s
  else
    let a := ((s.hbsOf 6).foldl (fun (x : State) h => x.setMode h 0) s).setF F.AUX_CFG_MASK (s.aux.maskNext.getD (s.getF F.AUX_CFG_MASK))
    let b := { a with aux := { a.aux with stopping := true, stopAt := a.now, outgoing := 0, retiring := 0, permit := 0, maskNext := none, legs := none } }
    ((b.setB F.AUX_STAT_SHEDDING false).setF F.AUX_STAT_ACTIVE 0).showPhases

/-- A carrier is told to stop: a running one at the end of its period, a waiting one at once (R141, R116). -/
def State.quietCar (s : State) (n : Nat) : State :=
  let c := vget s.bat.cars n {}
  let a := s.setF (F.PWM_CAR_CTRL_RUN n) 0
  let b := { a with bat := { a.bat with cars := vset a.bat.cars n { c with stopping := c.running, waiting := false } } }
  if c.waiting && !c.running then b.freeCar n else b

/-- The converter has stopped: CAR5 and CAR6 stop, ASTATE is 0, waiting AUX_DISABLE requests are answered (R342). -/
def State.auxDone (s : State) : State :=
  let b := (s.quietCar 5).quietCar 6
  let c := (((((b.setF F.AUX_STAT_ASTATE 0).setF F.AUX_STAT_LEVEL 0).setB F.AUX_STAT_REGULATED false).setB F.AUX_STAT_REMOTE_OK false).event F.AUX_EVT_STOPPED)
  let d := { c with aux := { c.aux with stopping := false, burstIdle := false, preAt := none, v48Since := none, tickets := [] } }
  s.aux.tickets.foldl (fun x t => x.answer t stOK []) d

/-- The auxiliary converter taken off by the Slate or by a change of the power state: every gate of both stages off at once, and the rest of its stop (R342, R344). -/
def State.auxStopped (s : State) : State :=
  if s.getF F.AUX_STAT_ASTATE = 0 then s else ((s.auxHalt.stopSwitching 5).stopSwitching 6).auxDone

/-- Faults of class C that stop the converter where they concern a stage of it: those for which no rule of their own lets the unit go on (R342, Table 15.5). (Assumption 218 DEDUCED) -/
def stopsAux (cls code stages : Nat) : Bool :=
  cls == 3 && Nat.land stages 0x60 != 0 && [0x7003, 0x7004, 0x7005, 0x7006, 0x7008].contains code

/-- SSTATE and PSTATE (Table 13.7). -/
def State.sstate (s : State) : Nat := s.getF F.ACT_STAT_SSTATE
def State.pstate (s : State) : Nat := s.getF F.ACT_STAT_PSTATE

/-- SPOS or PPOS in volts: single-ended, 3.125 V of span (R164, R353, R360). (Assumption 104 DEDUCED) -/
def State.sensorVolts (s : State) (ch : Nat) : Rat := (s.fastValue ch : Rat) * 3125 / (1000 * 2 ^ 24)

/-- The fork position in mm (R353). -/
def State.forkPos (s : State) : Rat := s.sensorVolts 22 * s.getQ F.ACT_SPOS_GAIN + s.getQ F.ACT_SPOS_OFS

/-- The vehicle speed, none while unknown (R362). -/
def State.vspd (s : State) : Option Rat :=
  let i := s.getF F.ACT_STAT_SPOSIDX
  let kmh := if i < 8 then s.getQ (F.ACT_KMH i) else 0
  let motor := if s.sstate = 0 && kmh != 0 && s.getB F.TRC_STAT_RES_OK then some (absRat (s.getQ F.TRC_SPEED) * kmh / 1000) else none
  let host := match s.park.hostAt with
    | some x => if s.elapsed x (200 * ticksPerMs) then none else some (s.getQ F.ACT_VSPD_HOST)
    | none => none
  match motor, host with
  | some a, some b => some (maxRat a b)
  | some a, none => some a
  | none, b => b

/-- ACT_VSPD and VSPD_KNOWN. (Assumption 104 DEDUCED) -/
def State.showVspd (s : State) : State :=
  match s.vspd with
  | some v => (s.setQ F.ACT_VSPD v).setB F.ACT_STAT_VSPD_KNOWN true
  | none => (s.setFl F.ACT_VSPD 0).setB F.ACT_STAT_VSPD_KNOWN false

/-- The lowest index whose position lies within POS_TOL, 15 where none does (R355). -/
def State.posIndex (s : State) : Nat :=
  let tol : Rat := (s.getF F.ACT_TOL_POS_TOL : Rat) / 1000
  ((below (min 8 (s.getF F.ACT_CFG_NPOS)) fun i => decide (absRat (s.forkPos - s.getQ (F.ACT_POS i)) ≤ tol)).head?).getD 15

/-- SSTATE becomes IDLE, with SPOSIDX (R355). -/
def State.shiftIdle (s : State) : State := ((s.setF F.ACT_STAT_SSTATE 0).setF F.ACT_STAT_SPOSIDX s.posIndex).showVspd

/-- An actuator's motion is abandoned: nothing pends for it (Table 13.4). -/
def Act.abandon (a : Act) : Act := { a with kind := 0, ending := none, segs := [], retry := false, locked := false }

/-- The shift actuator held by the Slate: its motion is abandoned and SSTATE becomes IDLE, unless it is in FAULT (R355, Table 13.4). -/
def State.shiftHeld (s : State) : State :=
  let t := { s with shift := s.shift.abandon }
  if t.sstate = 0 || t.sstate = 4 then t else t.shiftIdle

/-- The park actuator held by the Slate: its motion is abandoned; PSTATE is UNKNOWN until R360 finds a state, unless it is in FAULT. -/
def State.parkHeld (s : State) : State :=
  let t := { s with park := s.park.abandon }
  if s.park.kind = 0 then t else if t.getF F.ACT_STAT_PSTATE = 7 then t else t.setF F.ACT_STAT_PSTATE 0

/-- The sets in use: those armed, or those present while none is armed (R226). -/
def State.setsInUse (s : State) : Nat := if s.trc.sets = 0 then s.getF F.TRC_CFG_SETS else s.trc.sets

/-- The drive is in DSTATE 8 once every set in use is held; a DRIVE_START still listening is answered SAFE_STATE_HELD (R226, Table 9.3). -/
def State.driveHeld (s : State) : State :=
  let used := (bitsList 2 s.setsInUse)
  if used.isEmpty || !(used.all fun k => vget s.slt.kind k 0 != 0) then s
  else
    let u := { s with trc := { s.trc with ascSets := 0, ascLeave := 0 } }
    let t := (u.setF F.TRC_STAT_DSTATE 8).setB F.TRC_STAT_ASC_OP false
    match s.trc.start with
    | some k => ({ t with trc := { t.trc with start := none } }).answer k stSafeHeld []
    | none => t

/-- What the safe state of a stage does to the stage's own state. -/
def State.stageHeld (s : State) (st : Nat) : State :=
  if st ≤ 1 then s.driveHeld
  else if st = 3 || st = 4 then s.chgHeld
  else if st = 5 || st = 6 then s.auxStopped
  else if st = 7 then s.shiftHeld
  else if st = 8 then s.parkHeld
  else s

end Sys2Proof.Machine
end

