-- ==== Sys2Proof/Machine/FaultCodes.lean ====
section
/-! DEFINITION. The fault codes of every block (Tables 3.6, 4.10, 5.10, 6.7, 7.7, 8.9, 9.10, 10.6, 11.11, 12.7, 13.6, 14.6, 15.11, 17.7). Where a table gives two classes by a condition, the class here is its first and the raiser names the other. -/

namespace Sys2Proof.Machine

/-- A fault: its code and its class, 1 for A to 4 for D (Tables 15.5, 15.7). -/
structure FaultKind where
  code : Nat
  cls : Nat
  deriving DecidableEq, Repr

end Sys2Proof.Machine

namespace Sys2Proof.Machine.Flt

/-- GD_SHORT_CIRCUIT, class A -/
def GD_SHORT_CIRCUIT : FaultKind := ⟨0x1001, 1⟩
/-- SHOOT_BLOCK, class A -/
def SHOOT_BLOCK : FaultKind := ⟨0x1002, 1⟩
/-- GD_EXT_TRIP, class A -/
def GD_EXT_TRIP : FaultKind := ⟨0x1003, 1⟩
/-- GD_VP_UV, class A or C -/
def GD_VP_UV : FaultKind := ⟨0x1004, 1⟩
/-- GD_VN_UV, class A or C -/
def GD_VN_UV : FaultKind := ⟨0x1005, 1⟩
/-- GD_VDRV_UV, class A or C -/
def GD_VDRV_UV : FaultKind := ⟨0x1006, 1⟩
/-- GD_GATE_MISMATCH, class A -/
def GD_GATE_MISMATCH : FaultKind := ⟨0x1007, 1⟩
/-- GD_DC_OV, class A -/
def GD_DC_OV : FaultKind := ⟨0x1008, 1⟩
/-- GD_CHOP_FULL, class C -/
def GD_CHOP_FULL : FaultKind := ⟨0x1009, 3⟩
/-- GD_DRVEN_LOSS, class A -/
def GD_DRVEN_LOSS : FaultKind := ⟨0x100A, 1⟩
/-- GD_CLEAR_REFUSED, class D -/
def GD_CLEAR_REFUSED : FaultKind := ⟨0x100B, 4⟩
/-- GD_LATCH_CLEARED, class D -/
def GD_LATCH_CLEARED : FaultKind := ⟨0x100C, 4⟩
/-- BST_REFRESH_FAIL, class C -/
def BST_REFRESH_FAIL : FaultKind := ⟨0x1101, 3⟩
/-- CMP_FOREIGN, class D -/
def CMP_FOREIGN : FaultKind := ⟨0x1102, 4⟩
/-- PERIOD_CLAMPED, class D -/
def PERIOD_CLAMPED : FaultKind := ⟨0x1103, 4⟩
/-- CARRIER_REF_LOST, class D -/
def CARRIER_REF_LOST : FaultKind := ⟨0x1104, 4⟩
/-- TRC_REVERSE_REFUSED, class D -/
def TRC_REVERSE_REFUSED : FaultKind := ⟨0x2001, 4⟩
/-- TRC_START_DISAGREE, class C -/
def TRC_START_DISAGREE : FaultKind := ⟨0x2002, 3⟩
/-- TRC_RES_FAULT, class C -/
def TRC_RES_FAULT : FaultKind := ⟨0x2003, 3⟩
/-- TRC_ROTOR_LOSS, class D -/
def TRC_ROTOR_LOSS : FaultKind := ⟨0x2004, 4⟩
/-- TRC_ROTOR_LOST, class B -/
def TRC_ROTOR_LOST : FaultKind := ⟨0x2005, 2⟩
/-- TRC_OVERSPEED, class B -/
def TRC_OVERSPEED : FaultKind := ⟨0x2006, 2⟩
/-- TRC_HALF_AXLE, class C -/
def TRC_HALF_AXLE : FaultKind := ⟨0x2007, 3⟩
/-- TRC_BRAKE_ABORT, class C -/
def TRC_BRAKE_ABORT : FaultKind := ⟨0x2008, 3⟩
/-- TRC_ASC_OPERATIONAL, class D -/
def TRC_ASC_OPERATIONAL : FaultKind := ⟨0x2009, 4⟩
/-- TRC_SET_RETIRED, class C -/
def TRC_SET_RETIRED : FaultKind := ⟨0x200A, 3⟩
/-- TRC_BOTH_SETS_LOST, class B -/
def TRC_BOTH_SETS_LOST : FaultKind := ⟨0x200B, 2⟩
/-- CHG_GRID_TRIP, class C -/
def CHG_GRID_TRIP : FaultKind := ⟨0x3001, 3⟩
/-- CHG_PLUG_REMOVED, class C -/
def CHG_PLUG_REMOVED : FaultKind := ⟨0x3002, 3⟩
/-- CHG_PILOT_LOST, class C -/
def CHG_PILOT_LOST : FaultKind := ⟨0x3003, 3⟩
/-- CHG_HOSTLESS, class C -/
def CHG_HOSTLESS : FaultKind := ⟨0x3004, 3⟩
/-- CHG_HOSTLESS_STOP, class C -/
def CHG_HOSTLESS_STOP : FaultKind := ⟨0x3005, 3⟩
/-- CHG_XB_LOST, class C -/
def CHG_XB_LOST : FaultKind := ⟨0x3006, 3⟩
/-- CHG_CONNECT_DRIVE, class C -/
def CHG_CONNECT_DRIVE : FaultKind := ⟨0x3007, 3⟩
/-- CHG_VBAT_WINDOW, class C -/
def CHG_VBAT_WINDOW : FaultKind := ⟨0x3008, 3⟩
/-- AUX_PHASE_OPEN, class C -/
def AUX_PHASE_OPEN : FaultKind := ⟨0x4001, 3⟩
/-- AUX_SENSE_LOST, class C -/
def AUX_SENSE_LOST : FaultKind := ⟨0x4002, 3⟩
/-- AUX_PHASE_OTW, class D -/
def AUX_PHASE_OTW : FaultKind := ⟨0x4003, 4⟩
/-- AUX_PHASE_OTS, class C -/
def AUX_PHASE_OTS : FaultKind := ⟨0x4004, 3⟩
/-- AUX_PHASE_RETIRED, class C -/
def AUX_PHASE_RETIRED : FaultKind := ⟨0x4005, 3⟩
/-- AUX_BELOW_MIN, class B -/
def AUX_BELOW_MIN : FaultKind := ⟨0x4006, 2⟩
/-- AUX_V48_WINDOW, class C -/
def AUX_V48_WINDOW : FaultKind := ⟨0x4007, 3⟩
/-- AUX_OVERLOAD, class D -/
def AUX_OVERLOAD : FaultKind := ⟨0x4008, 4⟩
/-- AUX_VOUT_HIGH, class B -/
def AUX_VOUT_HIGH : FaultKind := ⟨0x4009, 2⟩
/-- AUX_PRECHARGE_TIMEOUT, class C -/
def AUX_PRECHARGE_TIMEOUT : FaultKind := ⟨0x400A, 3⟩
/-- AUX_DCX_RETIRED, class B -/
def AUX_DCX_RETIRED : FaultKind := ⟨0x400B, 2⟩
/-- AUX_PHASE_LATCHED, class C -/
def AUX_PHASE_LATCHED : FaultKind := ⟨0x400C, 3⟩
/-- LOCKED_ROTOR, class D -/
def LOCKED_ROTOR : FaultKind := ⟨0x5001, 4⟩
/-- ACT_LOCKED_RETRIES, class C -/
def ACT_LOCKED_RETRIES : FaultKind := ⟨0x5002, 3⟩
/-- ACT_HALL_FAULT, class C -/
def ACT_HALL_FAULT : FaultKind := ⟨0x5003, 3⟩
/-- ACT_WINDOW_LOST, class C -/
def ACT_WINDOW_LOST : FaultKind := ⟨0x5004, 3⟩
/-- ACT_POS_SENSOR, class C -/
def ACT_POS_SENSOR : FaultKind := ⟨0x5005, 3⟩
/-- ACT_SHIFT_TIMEOUT, class C -/
def ACT_SHIFT_TIMEOUT : FaultKind := ⟨0x5006, 3⟩
/-- ACT_HOME_FAIL, class C -/
def ACT_HOME_FAIL : FaultKind := ⟨0x5007, 3⟩
/-- PARK_SPEED_REFUSED, class D -/
def PARK_SPEED_REFUSED : FaultKind := ⟨0x5008, 4⟩
/-- PARK_ABORT_SPEED, class C -/
def PARK_ABORT_SPEED : FaultKind := ⟨0x5009, 3⟩
/-- PARK_MOTION_ENGAGED, class C -/
def PARK_MOTION_ENGAGED : FaultKind := ⟨0x500A, 3⟩
/-- PARK_SWITCH_DISAGREE, class C -/
def PARK_SWITCH_DISAGREE : FaultKind := ⟨0x500B, 3⟩
/-- PARK_NOT_ENGAGED, class C -/
def PARK_NOT_ENGAGED : FaultKind := ⟨0x500C, 3⟩
/-- PARK_MOVE_TIMEOUT, class C -/
def PARK_MOVE_TIMEOUT : FaultKind := ⟨0x500D, 3⟩
/-- GZ_OVERRANGE, class D -/
def GZ_OVERRANGE : FaultKind := ⟨0x6001, 4⟩
/-- GZ_XB_FLAT, class C -/
def GZ_XB_FLAT : FaultKind := ⟨0x6002, 3⟩
/-- GZ_REF_FAULT, class C in STANDBY and TEST; B in ARMED, RUN and SAFE -/
def GZ_REF_FAULT : FaultKind := ⟨0x6003, 3⟩
/-- GZ_ISLAND_CLOCK, class A -/
def GZ_ISLAND_CLOCK : FaultKind := ⟨0x6004, 1⟩
/-- GZ_CAL_FAIL, class C -/
def GZ_CAL_FAIL : FaultKind := ⟨0x6005, 3⟩
/-- GZ_SLOT_LEAD, class D -/
def GZ_SLOT_LEAD : FaultKind := ⟨0x6006, 4⟩
/-- LE_LATE3, class C -/
def LE_LATE3 : FaultKind := ⟨0x7001, 3⟩
/-- LE_LATE10, class B -/
def LE_LATE10 : FaultKind := ⟨0x7002, 2⟩
/-- LE_HUNG, class B or C -/
def LE_HUNG : FaultKind := ⟨0x7003, 2⟩
/-- LE_MEM_ERR, class B or C -/
def LE_MEM_ERR : FaultKind := ⟨0x7004, 2⟩
/-- LE_SAT_EXPIRED, class C or B by SATCLS -/
def LE_SAT_EXPIRED : FaultKind := ⟨0x7005, 3⟩
/-- LE_FE_EXPIRED, class C or B by FECLS -/
def LE_FE_EXPIRED : FaultKind := ⟨0x7006, 3⟩
/-- LE_DERATE_DWELL, class C -/
def LE_DERATE_DWELL : FaultKind := ⟨0x7007, 3⟩
/-- LE_FF_VIN, class B or C -/
def LE_FF_VIN : FaultKind := ⟨0x7008, 2⟩
/-- LE_WCET, class D -/
def LE_WCET : FaultKind := ⟨0x7009, 4⟩
/-- THM_DERATE, class C -/
def THM_DERATE : FaultKind := ⟨0x8001, 3⟩
/-- THM_OVERTEMP, class B -/
def THM_OVERTEMP : FaultKind := ⟨0x8002, 2⟩
/-- THM_NTC_OVER, class B -/
def THM_NTC_OVER : FaultKind := ⟨0x8003, 2⟩
/-- THM_SENSOR_BROKEN, class C -/
def THM_SENSOR_BROKEN : FaultKind := ⟨0x8004, 3⟩
/-- THM_MODEL_LOST, class C -/
def THM_MODEL_LOST : FaultKind := ⟨0x8005, 3⟩
/-- THM_LOSS_MISSING, class C -/
def THM_LOSS_MISSING : FaultKind := ⟨0x8006, 3⟩
/-- THM_DIE_SENSOR, class C -/
def THM_DIE_SENSOR : FaultKind := ⟨0x8007, 3⟩
/-- THM_THROTTLE, class D -/
def THM_THROTTLE : FaultKind := ⟨0x8008, 4⟩
/-- THM_MRAM_INHIBIT, class D -/
def THM_MRAM_INHIBIT : FaultKind := ⟨0x8009, 4⟩
/-- THM_LOG_LOST, class D -/
def THM_LOG_LOST : FaultKind := ⟨0x800A, 4⟩
/-- END_OF_SPARE, class C -/
def END_OF_SPARE : FaultKind := ⟨0x800B, 3⟩
/-- THM_STAGE_RETIRED, class B -/
def THM_STAGE_RETIRED : FaultKind := ⟨0x800C, 2⟩
/-- THM_WEAR_RESET, class D -/
def THM_WEAR_RESET : FaultKind := ⟨0x800D, 4⟩
/-- SLT_QA_MISS, class B -/
def SLT_QA_MISS : FaultKind := ⟨0x9001, 2⟩
/-- SP_LOCKSTEP, class B -/
def SP_LOCKSTEP : FaultKind := ⟨0x9002, 2⟩
/-- SLT_CLOCK_LOSS, class A for CD5, CD6; B for CD3 -/
def SLT_CLOCK_LOSS : FaultKind := ⟨0x9003, 1⟩
/-- SLT_CD11_DRIFT, class B -/
def SLT_CD11_DRIFT : FaultKind := ⟨0x9004, 2⟩
/-- SLT_EDGE_FLOOR, class A -/
def SLT_EDGE_FLOOR : FaultKind := ⟨0x9005, 1⟩
/-- SLT_COMP_TRIP, class A -/
def SLT_COMP_TRIP : FaultKind := ⟨0x9006, 1⟩
/-- SLT_LIMIT_CORRUPT, class B -/
def SLT_LIMIT_CORRUPT : FaultKind := ⟨0x9007, 2⟩
/-- SLT_SELFTEST_FAIL, class C -/
def SLT_SELFTEST_FAIL : FaultKind := ⟨0x9008, 3⟩
/-- SLT_SELFTEST_DUE, class C -/
def SLT_SELFTEST_DUE : FaultKind := ⟨0x9009, 3⟩
/-- SLT_B_OVERRUN, class B -/
def SLT_B_OVERRUN : FaultKind := ⟨0x900A, 2⟩
/-- SLT_FIFO_OVF, class D -/
def SLT_FIFO_OVF : FaultKind := ⟨0x900B, 4⟩
/-- SLT_GATE_PATH, class B -/
def SLT_GATE_PATH : FaultKind := ⟨0x900C, 2⟩
/-- SP_TORQUE_IMPLAUSIBLE, class B -/
def SP_TORQUE_IMPLAUSIBLE : FaultKind := ⟨0x900D, 2⟩
/-- SIN_TORQUE_OFF, class B -/
def SIN_TORQUE_OFF : FaultKind := ⟨0x9010, 2⟩
/-- SIN_SERVICE_OPEN, class B -/
def SIN_SERVICE_OPEN : FaultKind := ⟨0x9011, 2⟩
/-- CROSS_SHORT, class B -/
def CROSS_SHORT : FaultKind := ⟨0x9012, 2⟩
/-- SIN_STUCK, class B -/
def SIN_STUCK : FaultKind := ⟨0x9013, 2⟩
/-- SIN_DISCREPANCY, class B -/
def SIN_DISCREPANCY : FaultKind := ⟨0x9014, 2⟩
/-- CHATTER, class B -/
def CHATTER : FaultKind := ⟨0x9015, 2⟩
/-- TPS_OVERLOAD, class B -/
def TPS_OVERLOAD : FaultKind := ⟨0x9016, 2⟩
/-- RESET_ACCEPTED, class D -/
def RESET_ACCEPTED : FaultKind := ⟨0x9020, 4⟩
/-- RESET_HELD, class D -/
def RESET_HELD : FaultKind := ⟨0x9021, 4⟩
/-- RESET_STUCK, class C -/
def RESET_STUCK : FaultKind := ⟨0x9022, 3⟩
/-- RESET_REFUSED, class D -/
def RESET_REFUSED : FaultKind := ⟨0x9023, 4⟩
/-- VSUP_LOSS, class A -/
def VSUP_LOSS : FaultKind := ⟨0xA001, 1⟩
/-- VSUP_LOW, class B -/
def VSUP_LOW : FaultKind := ⟨0xA002, 2⟩
/-- SUPPLY_INTERRUPTED, class D -/
def SUPPLY_INTERRUPTED : FaultKind := ⟨0xA010, 4⟩
/-- BKP_NO_CELL, class D -/
def BKP_NO_CELL : FaultKind := ⟨0xA020, 4⟩
/-- BKP_NTC_FAULT, class C -/
def BKP_NTC_FAULT : FaultKind := ⟨0xA021, 3⟩
/-- BKP_TIMER, class C -/
def BKP_TIMER : FaultKind := ⟨0xA022, 3⟩
/-- BKP_DEAD, class C -/
def BKP_DEAD : FaultKind := ⟨0xA023, 3⟩
/-- BKP_OVERVOLTAGE, class C -/
def BKP_OVERVOLTAGE : FaultKind := ⟨0xA024, 3⟩
/-- TIME_INVALID, class D -/
def TIME_INVALID : FaultKind := ⟨0xA030, 4⟩
/-- SESSION_AUTH_FAIL, class D -/
def SESSION_AUTH_FAIL : FaultKind := ⟨0xB001, 4⟩
/-- AUTH_LOCKOUT, class D -/
def AUTH_LOCKOUT : FaultKind := ⟨0xB002, 4⟩
/-- ETH_LINK_DOWN, class D -/
def ETH_LINK_DOWN : FaultKind := ⟨0xB003, 4⟩
/-- LOCK_VIOLATION, class D -/
def LOCK_VIOLATION : FaultKind := ⟨0xB010, 4⟩
/-- HOLD_EXPIRED, class D -/
def HOLD_EXPIRED : FaultKind := ⟨0xB011, 4⟩
/-- IMG_INVALID, class C -/
def IMG_INVALID : FaultKind := ⟨0xB012, 3⟩
/-- FW_SLOT_FALLBACK, class C -/
def FW_SLOT_FALLBACK : FaultKind := ⟨0xB013, 3⟩
/-- FW_NONE, class C -/
def FW_NONE : FaultKind := ⟨0xB014, 3⟩
/-- LOOP_SET_INVALID, class C -/
def LOOP_SET_INVALID : FaultKind := ⟨0xB015, 3⟩
/-- IDN_DIE_MISMATCH, class D -/
def IDN_DIE_MISMATCH : FaultKind := ⟨0xB020, 4⟩
/-- IDN_CERT_INVALID, class C -/
def IDN_CERT_INVALID : FaultKind := ⟨0xB021, 3⟩
/-- FW_ACTIVATED, class D -/
def FW_ACTIVATED : FaultKind := ⟨0xB022, 4⟩
/-- ROLLBACK_RAISED, class D -/
def ROLLBACK_RAISED : FaultKind := ⟨0xB023, 4⟩
/-- DEBUG_UNLOCKED, class D -/
def DEBUG_UNLOCKED : FaultKind := ⟨0xB024, 4⟩

end Sys2Proof.Machine.Flt
end

