-- ==== Sys2Proof/Machine/Faults.lean ====
section
/-! DEFINITION. Raising a fault: the record of Table 15.7, the class ladder of Table 15.5, the MRAM queue and the rate limits. -/

namespace Sys2Proof.Machine

open Sys2Proof

/-- What a fault carries besides its code: stages affected, the item of byte 22, the latch source of byte 23, the dead-time mark and the detail. -/
structure FaultInfo where
  stages : Nat := 0
  item : Nat := 255
  source : Nat := 255
  inDt : Bool := false
  detail : Nat := 0
  deriving DecidableEq, Repr

/-- The stage byte of a record: the one stage, 0xFF for none, 0xFE for several (R414). -/
def stageByte (stages : Nat) : Nat :=
  match bitsList 9 stages with
  | [] => 0xFF
  | [s] => s
  | _ => 0xFE

/-- A record of the present instant (Table 15.7). -/
def State.faultRec (s : State) (k : FaultKind) (i : FaultInfo) (idx : Nat) : FaultRec where
  serial := s.log.serial
  idx := idx
  cls := k.cls
  acked := false
  inDt := i.inDt
  spLost := s.getB F.SLT_STAT_SP_LOST
  safe := s.power == pSAFE
  code := k.code
  merged := 0
  batten := s.battenTime
  eave := s.eaveSeconds
  pstate := s.power
  stages := i.stages
  item := i.item
  source := i.source
  detail := i.detail

/-- The 32 bytes of a record (Table 15.7); with several stages the mask stands in bytes 30 and 31 (R414). -/
def FaultRec.bytes (r : FaultRec) : List Byte :=
  let flags := (if r.acked then 1 else 0) + (if r.inDt then 2 else 0) + (if r.spLost then 4 else 0) + (if r.safe then 8 else 0)
  let detail := if stageByte r.stages = 0xFE then r.detail / 65536 * 65536 + r.stages else r.detail
  beBytes 2 r.idx ++ beBytes 1 r.cls ++ beBytes 1 flags ++ beBytes 2 r.code ++ beBytes 2 r.merged ++ beBytes 8 r.batten
    ++ beBytes 4 r.eave ++ beBytes 1 r.pstate ++ beBytes 1 (stageByte r.stages) ++ beBytes 1 r.item ++ beBytes 1 r.source
    ++ beBytes 8 detail

/-- Words waiting in the MRAM queue. (Assumption 122 DEDUCED) -/
def State.queueWords (s : State) : Nat := (s.log.queue.map fun q => q.words).sum

/-- The queue set, with its fill in THM_STAT.QUEUE. -/
def State.setQueue (s : State) (q : List MramItem) : State :=
  let t := { s with log := { s.log with queue := q } }
  t.setF F.THM_STAT_QUEUE (t.queueWords * 100 / 1024)

/-- Whether a write of some words fits: at once outside an inhibit, otherwise in the queue (R384). -/
def State.mramFits (s : State) (words : Nat) : Bool :=
  !s.getB F.THM_STAT_MRAM_INH || decide (s.queueWords + words ≤ 1024)

/-- An item that a record of class A, B or C or a retirement may displace: a class D record or a wear save (R384). -/
def MramItem.yields (i : MramItem) : Bool := (i.kind == 0 && i.cls == 4) || i.kind == 1

/-- A queue from whose front, the oldest end, as many class D records and wear saves have been taken as free the words needed (R384). (Assumption 222 DEDUCED) -/
def displace : Nat → List MramItem → List MramItem
  | _, [] => []
  | need, i :: rest => if need = 0 then i :: rest else if i.yields then displace (need - i.words) rest else i :: displace need rest

/-- An item enters the MRAM: written at once, queued, queued in place of older items, or dropped (R384). The flag says whether it was kept. (Assumption 122 DEDUCED, 222 DEDUCED) -/
def State.mramPut (s : State) (i : MramItem) (urgent : Bool) : Bool × State :=
  if !s.getB F.THM_STAT_MRAM_INH then (true, s)
  else
    let q := if i.kind == 1 then s.log.queue.filter fun x => !(x.kind == 1 && x.key == i.key) else s.log.queue
    let used := (q.map fun x => x.words).sum
    if used + i.words ≤ 1024 then (true, s.setQueue (q ++ [i]))
    else
      let q' := displace (used + i.words - 1024) q
      if urgent && decide ((q'.map fun x => x.words).sum + i.words ≤ 1024) then (true, s.setQueue (q' ++ [i])) else (false, s)

/-- A record joins the ring of 256; an unacknowledged record pushed out is kept until a FAULT_ACK covers it (R414, R415). (Assumption 121 DEDUCED) -/
def State.ringPush (s : State) (r : FaultRec) : State :=
  let all := r :: s.log.recs
  let out := (all.drop 256).filter fun x => !x.acked
  let t := { s with log := { s.log with recs := all.take 256, gone := out ++ s.log.gone, serial := s.log.serial + 1 } }
  t.setF F.SLT_LOGIDX_NEWEST r.idx

/-- The index that the next record takes (R414). -/
def State.nextIdx (s : State) : Nat := (s.getF F.SLT_LOGIDX_NEWEST + 1) % 65536

/-- The write of a record that is dropped for want of room: LOGLOST counts it, and THM_LOG_LOST is queued once per inhibit, in place of older class D records and wear saves; where the queue holds none of these its record is due with the end of the inhibit (R384). (Assumption 232 DEDUCED) -/
def State.logLost (s : State) : State :=
  let t := (s.bump F.THM_CNT_LOGLOST).event F.THM_EVT_LOGLOST
  if t.log.lostRec = 1 then t
  else
    let r := t.faultRec Flt.THM_LOG_LOST {} t.nextIdx
    let (kept, v) := t.mramPut ⟨0, r.serial, 4, 8⟩ true
    if kept then ({ v with log := { v.log with lostRec := 1 } }).ringPush r else { t with log := { t.log with lostRec := 2 } }

/-- A retirement is written to MRAM; under the MRAM inhibit it is queued, in place of older class D records and wear saves (R384, R391). (Assumption 243 DEDUCED) -/
def State.queueRetire (s : State) (key : Nat) : State :=
  let (kept, t) := s.mramPut ⟨2, key, 0, 1⟩ true
  if kept then t else t.logLost

/-- A record is written to the log, subject to the MRAM inhibit (R384, R417). During a boot it waits for step 9 (Table 5.8). -/
def State.logPut (s : State) (r : FaultRec) : State :=
  if s.pwr.boot.isSome then
    { s with log := { s.log with bootRecs := s.log.bootRecs ++ [r], serial := s.log.serial + 1 } }
  else
    let r' := { r with idx := s.nextIdx }
    let (kept, t) := s.mramPut ⟨0, r.serial, r.cls, 8⟩ (decide (r.cls ≤ 3))
    if kept then t.ringPush r' else ({ s with log := { s.log with serial := s.log.serial + 1 } }).logLost

/-- The last-fault record of every stage affected takes the time, the code and the values (R96, R345, R367). -/
def State.noteLast (s : State) (k : FaultKind) (stages : Nat) : State :=
  ((bitsList 9 stages).filter fun st => fillsRecord st k.cls k.code).foldl (fun (x : State) st =>
    let (q, y) := x.lastValues st
    let r : LastFault := { time := y.battenTime, code := k.code, quantities := q }
    { y with log := { y.log with last := (st, r) :: y.log.last.filter fun e => e.1 != st } }) s

/-- A fault of class A, B or C of the charger, or of its two stages, shows on PORTLAMP until the next session (Table 11.10). (Assumption 97 DEDUCED) -/
def State.noteCharger (s : State) (k : FaultKind) (stages : Nat) : State :=
  if decide (k.cls ≤ 3) && (k.code / 4096 == 3 || Nat.land stages 0x18 != 0) then { s with chg := { s.chg with faulted := true } } else s

/-- A class A event enters the hardware FIFO of 32; when it overflows the newest are kept and SLT_FIFO_OVF is recorded with the number lost (R417). -/
def State.fifoPut (s : State) (r : FaultRec) : State :=
  let q := s.log.fifo ++ [r]
  let s1 := { s with log := { s.log with serial := s.log.serial + 1 } }
  if q.length ≤ 32 then { s1 with log := { s1.log with fifo := q } }
  else
    let t := { s1 with log := { s1.log with fifo := q.drop 1, fifoLost := s1.log.fifoLost + 1 } }
    let u := t.event F.SLT_EVT_FIFOOVF
    u.logPut (u.faultRec Flt.SLT_FIFO_OVF { detail := u.log.fifoLost } u.nextIdx)

/-- SAFE is entered from STANDBY, ARMED or RUN (Table 3.2, R411); an entry into SLEEP that has not begun is given up, since no row leads from SAFE to SLEEP. (Assumption 119 DEDUCED, 120 DEDUCED, 158 DEDUCED, 176 DEDUCED) -/
def State.enterSafe (s : State) : State :=
  if s.mainUp && (s.power == pSTANDBY || s.power == pARMED || s.power == pRUN) then
    let from_ := s.power
    let t := s.toPower pSAFE 0x03
    { t with pwr := { t.pwr with safeFrom := from_, sleep := none }, slt := if from_ = pSTANDBY then { t.slt with armedAt := t.now, dueCount := 0 } else t.slt }
  else s

/-- A class A or B fault ends an arming sequence at once (R406). -/
def State.abortArming (s : State) : State := { s with slt := { s.slt with arming := none } }

/-- TRC_STAT shows the safe state of the two sets, SLT_STAT whether an ASC pattern is applied (R226, Table 15.12). -/
def State.showSafe (s : State) : State :=
  let a := vget s.slt.kind 0 0
  let b := vget s.slt.kind 1 0
  let held := maskOf (below 9 fun st => vget s.slt.kind st 0 != 0)
  (((s.setF F.TRC_STAT_SAFEKIND_A a).setF F.TRC_STAT_SAFEKIND_B b).setF F.SLT_STAT_HELD held).setB F.SLT_STAT_ASC (decide (a ≥ 2) || decide (b ≥ 2))

/-- The more conservative of two safe states of a stage: an ASC before all gates off (R410). -/
def worse (a b : Nat) : Nat := if a ≥ 2 then a else if b ≥ 2 then b else max a b

/-- The ASC that the short-circuit records select: low side, high side after a low-side record, all off after records of both sides (Table 9.8); a switch under a driver latch for supply undervoltage or gate mismatch counts as one that reported a short circuit (R279). -/
def State.ascChoice (s : State) (st : Nat) : Nat :=
  let dead := s.gate.latches.filter fun l => (l.source == 9 || l.source == 10 || l.source == 12) && (s.hbsOf st).contains l.hb
  let low := bitAt s.slt.scLow st || dead.any fun l => l.ch % 2 == 1
  let high := bitAt s.slt.scHigh st || dead.any fun l => l.ch % 2 == 0
  if low && high then 1 else if low then 3 else 2

/-- The safe state Table 9.8 gives a set for a class B fault at this instant. -/
def State.classBKind (s : State) (st : Nat) : Nat :=
  if st ≥ 2 then 1
  else if s.vdc * (9 / 10) < s.emf then s.ascChoice st else 1

/-- The safe state that the SP asks for: the one chosen as the faults arrived, or that of this instant where no fault has chosen one (R257). -/
def State.bChoice (s : State) (st : Nat) : Nat := if vget s.slt.want st 0 = 0 then s.classBKind st else vget s.slt.want st 0

/-- A latch kept by a driver rather than the Slate: sources 8 to 14 (Tables 10.4, 10.8). -/
def Latch.driver (l : Latch) : Bool := decide (8 ≤ l.source)

/-- A driver latch holds the gate of a channel (R279). -/
def State.driverHeld (s : State) (ch : Nat) : Bool := s.gate.latches.any fun l => l.driver && l.ch == ch

/-- The own supply of a gate output is above its undervoltage threshold: VP of the island, and VN unless UVN is 0, or VDRV (R28, R268). -/
def State.supplied (s : State) (ch : Nat) : Bool :=
  if ch < 32 then s.getB (F.GD_CH_STAT_VP_OK ch) && (s.getF (F.GD_CH_PROT_UVN ch) == 0 || s.getB (F.GD_CH_STAT_VN_OK ch))
  else s.getB F.GD_STAT_VDRV_OK

/-- An ASC pattern turns a channel on, unless its driver or its supply holds it off; a turn-on ends the Miller clamp (R13, R267, R279). -/
def State.ascTurnOn (s : State) (ch : Nat) : State :=
  let t := s.commanded ch true s.now
  if !s.driverHeld ch && s.supplied ch && decide (vget s.gate.softUntil ch 0 ≤ s.now) then { t with gate := { t.gate with clamp := vset t.gate.clamp ch false } } else t

/-- The end of an ASC pattern turns a channel off (R258, R284). -/
def State.ascTurnOff (s : State) (ch : Nat) : State :=
  ({ s with gate := { s.gate with offRel := vset s.gate.offRel ch (some s.now) } }).commanded ch false s.now

/-- The channels that an ASC pattern turns on: the low sides of the set for kind 2, the high sides for kind 3 (R13). -/
def State.ascChs (s : State) (st kind : Nat) : List Nat :=
  if 1 < st ∨ kind < 2 then [] else (s.hbsOf st).map fun h => 2 * h + (if kind = 2 then 1 else 0)

/-- The safe state of a stage takes a kind: 0 none, 1 all gates off, 2 and 3 the ASC patterns, whose channels turn on or off with it (R13). -/
def State.setKind (s : State) (st k : Nat) : State :=
  let old := vget s.slt.kind st 0
  if old = k then s
  else
    let t := { s with slt := { s.slt with kind := vset s.slt.kind st k } }
    (s.ascChs st k).foldl (fun (x : State) c => x.ascTurnOn c) ((s.ascChs st old).foldl (fun (x : State) c => x.ascTurnOff c) t)

/-- The safe state that may be applied: while DRVEN is low no ASC pattern is (R284), and of the ASC patterns the one that the short-circuit records select (R410, Table 9.8). -/
def State.applicable (s : State) (st kind : Nat) : Nat :=
  if kind < 2 then kind else if s.getB F.GD_STAT_DRVEN then s.ascChoice st else 1

/-- The Slate takes a stage to a safe state and holds it: every gate of the stage off, or the ASC pattern of a set while DRVEN is high (R284); MODE forced to 0; the brake chopper's bridge is left to R398 when keepChopper is set. (Assumption 123 DEDUCED) -/
def State.applySafe (s : State) (st kind : Nat) : State :=
  let t := (s.hbsOf st).foldl (fun x h => (x.forceOff h).gatesOff h) s
  let u := t.setKind st (s.applicable st (worse (vget s.slt.kind st 0) kind))
  let v := if st ≤ 1 then u.setF F.TRC_STAT_SWITCHING (setBitN (u.getF F.TRC_STAT_SWITCHING) st false) else u
  (v.showSafe.enterSafe).stageHeld st

/-- The class A reaction on the stages affected: gates off at once and held under the class A row (R279, R409, Table 9.8). -/
def State.holdClassA (s : State) (stages : Nat) : State :=
  (bitsList 9 stages).foldl (fun t st =>
    let u := { t with slt := { t.slt with classA := setBitN t.slt.classA st true, classAAt := if bitAt t.slt.classA st then t.slt.classAAt else vset t.slt.classAAt st t.now } }
    u.applySafe st 1) s

/-- A class A fault that belongs to one set: the gate, island and short-circuit faults of its half-bridges (Table 9.9). (Assumption 237 DEDUCED) -/
def oneSetA (code : Nat) : Bool := [0x1001, 0x1002, 0x1004, 0x1005, 0x1007, 0x6004].contains code

/-- The sets to which a class A fault of the whole drive comes (R259). -/
def State.noteDrive (s : State) (code stages : Nat) : State :=
  if oneSetA code then s else { s with slt := { s.slt with driveA := Nat.lor s.slt.driveA (Nat.land stages 3) } }

/-- A class B fault starts the 10 ms transition of the stages it adds, with the safe state that Table 9.8 gives at its arrival; a set already in transition goes to an ASC that either fault chooses (R257, R408, R409). (Assumption 123 DEDUCED) -/
def State.startTransition (s : State) (stages : Nat) : State :=
  let used := (bitsList 9 stages).filter fun st => !(s.hbsOf st).isEmpty
  let t := used.foldl (fun t st =>
    let u := if (vget t.slt.timer st none).isNone then { t with slt := { t.slt with timer := vset t.slt.timer st (some (t.now + 10 * ticksPerMs)), want := vset t.slt.want st 0 } } else t
    { u with slt := { u.slt with want := vset u.slt.want st (worse (vget u.slt.want st 0) (u.classBKind st)) } }) s
  if used.isEmpty then t else t.enterSafe

/-- A rate-limited fault of the same key within its span merges into the last record (Table 15.7 bytes 6 and 7). (Assumption 42 DEDUCED) -/
def State.mergeRate (s : State) (k : FaultKind) (key span : Nat) : Option State :=
  match s.log.rates.find? fun e => e.code == k.code && e.key == key with
  | some e =>
    if s.now < e.time + span then
      some { s with log := { s.log with recs := s.log.recs.map fun r => if r.serial = e.serial then { r with merged := satAdd 16 r.merged 1 } else r } }
    else none
  | none => none

/-- A fault that the Eave finds in SLEEP waits for the next boot, which records it (R70); the other units are down. (Assumption 159 DEDUCED) -/
def State.eaveFault (s : State) (k : FaultKind) (i : FaultInfo) : State :=
  if s.power = pSLEEP ∧ k.code / 4096 = 0xA then
    { s with log := { s.log with bootRecs := s.log.bootRecs ++ [{ s.faultRec k i 0 with batten := 0 }], serial := s.log.serial + 1 } }
  else s

/-- A fault is raised: recorded, and answered as its class gives (R408, Table 15.5). Class B conditions are kept for the release of R412. While the main die is down only the Eave's own faults are kept, for the next boot to record (R70). -/
def State.raise (s : State) (k : FaultKind) (i : FaultInfo) : State :=
  if decide (s.power < 3) && s.pwr.boot.isNone then s.eaveFault k i
  else
    let r := s.faultRec k i s.nextIdx
    let noted := (s.noteLast k i.stages).noteCharger k i.stages
    if k.cls = 1 then
      (((noted.fifoPut r).abortArming).noteDrive k.code i.stages).holdClassA i.stages
    else if k.cls = 2 then
      let t := (noted.logPut r).abortArming
      let u := { t with slt := { t.slt with conds := ⟨k.code, i.item, i.stages, r.serial⟩ :: t.slt.conds } }
      if u.getB F.SLT_STAT_SP_LOST then u.enterSafe else u.startTransition i.stages
    else if stopsAux k.cls k.code i.stages then (noted.logPut r).auxHalt
    else noted.logPut r

/-- A fault recorded at most once per span for a key; within the span the occurrence merges. -/
def State.raiseRate (s : State) (k : FaultKind) (i : FaultInfo) (key span : Nat) : State :=
  match s.mergeRate k key span with
  | some t => t
  | none =>
    let ser := s.log.serial
    let t := s.raise k i
    { t with log := { t.log with rates := ⟨k.code, key, s.now, ser⟩ :: t.log.rates.filter fun e => !(e.code == k.code && e.key == key) } }

/-- The class of a fault table that gives B under a condition and C otherwise. -/
def FaultKind.orC (k : FaultKind) (b : Bool) : FaultKind := { k with cls := if b then 2 else 3 }

end Sys2Proof.Machine
end

