-- ==== Sys2Proof/Machine/Latches.lean ====
section
/-! DEFINITION. The latches of the half-bridges (Table 10.4): setting, causes, clearing, and whether a gate is on (R13). -/

namespace Sys2Proof.Machine

open Sys2Proof

/-- Whether the cause of a latch is active now (Table 10.4). -/
def State.causeActive (s : State) (l : Latch) : Bool :=
  if l.source < 4 then bitAt (s.getF F.GD_STAT_TRIPIN) l.source
  else if l.source = 4 then s.slt.beyond.contains l.entry
  else if l.source = 7 then s.getB F.GD_STAT_OV
  else if l.source = 8 then decide (s.now < vget s.gate.softUntil l.ch 0)
  else if l.source = 9 || l.source = 10 then !s.getB (F.GD_CH_STAT_VP_OK l.ch) || (s.getF (F.GD_CH_PROT_UVN l.ch) != 0 && !s.getB (F.GD_CH_STAT_VN_OK l.ch))
  else if l.source = 11 then vget s.gate.clkMissing l.ch false
  else if l.source = 13 then !s.getB F.GD_STAT_VDRV_OK
  else false

/-- Half-bridges under a Slate latch, as a mask. -/
def State.slateLatched (s : State) : Nat := maskOf (below 32 fun h => s.gate.latches.any fun l => l.hb == h && !l.driver)

/-- Half-bridges under a driver latch, as a mask. -/
def State.driverLatched (s : State) : Nat := maskOf (below 32 fun h => s.gate.latches.any fun l => l.hb == h && l.driver)

/-- Half-bridges with a latch whose cause is active, as a mask. -/
def State.causeMask (s : State) : Nat := maskOf (below 32 fun h => s.gate.latches.any fun l => l.hb == h && s.causeActive l)

/-- A stage with a latch on one of its half-bridges. -/
def State.stageLatched (s : State) (st : Nat) : Bool := (s.hbsOf st).any fun h => s.latched h

/-- The latch registers show the latches that stand (Tables 10.7, 10.10). -/
def State.showLatches (s : State) : State :=
  let t := (s.setF F.GD_SLATCH s.slateLatched).setF F.GD_DLATCH s.driverLatched
  (List.range 64).foldl (fun (x : State) c =>
    let sc := s.gate.latches.any fun l => l.ch == c && l.source == 8
    let mm := s.gate.latches.any fun l => l.ch == c && l.source == 12
    let y := if c < 32 && x.getB (F.GD_CH_STAT_SCLATCH c) != sc then x.setB (F.GD_CH_STAT_SCLATCH c) sc else x
    if y.getB (F.GD_CH_STAT_MISMATCH c) != mm then y.setB (F.GD_CH_STAT_MISMATCH c) mm else y) t

/-- The channels of a half-bridge with a turn-on pending in its dead time (R274). -/
def State.pendingOn (s : State) (h : Nat) : List Nat := [2 * h, 2 * h + 1].filter fun c => (vget s.gate.pendOn c none).isSome

/-- What the setting of latches on several half-bridges needs: source, channel, trip entry, the fault and its detail. -/
structure TripInfo where
  source : Nat
  /-- channel whose island or driver set the latch; none for a Slate latch -/
  ch : Option Nat := none
  entry : Nat := 0
  kind : FaultKind
  item : Option Nat := none
  detail : Nat := 0

/-- Latches are set on half-bridges by one source: their gates go off, a turn-on pending in dead time is cancelled and marked, and the fault is recorded (R276, R279, R290). (Assumption 90 DEDUCED) -/
def State.trip (s : State) (hbs : List Nat) (i : TripInfo) : State :=
  match hbs.getLast? with
  | none => s
  | some last =>
    let pend := hbs.filter fun h => !(s.pendingOn h).isEmpty
    let inDt := !pend.isEmpty
    let shown := pend.getLast?.getD last
    let canch := ((s.pendingOn shown).headD 0) % 2
    let serial := s.log.serial
    let new := hbs.map fun h => ({ hb := h, source := i.source, ch := i.ch.getD (2 * h), entry := i.entry, serial := serial, setAt := s.now } : Latch)
    let kept := s.gate.latches.filter fun l => !(hbs.contains l.hb && l.source == i.source && l.entry == i.entry && (i.ch.isNone || l.ch == i.ch.getD 0))
    let t := hbs.foldl (fun (x : State) h => (x.forceOff h).gatesOff h) s
    let u := ({ t with gate := { t.gate with latches := kept ++ new } }).showLatches
    let v := (((u.setF F.GD_LASTTRIP_HB shown).setF F.GD_LASTTRIP_SOURCE i.source).setB F.GD_LASTTRIP_INDT inDt).setF F.GD_LASTTRIP_CANCH canch
    let w := if inDt then v.event F.GD_EVT_INDT else v
    let stages := hbs.foldl (fun m h => Nat.lor m (s.stageMask h)) 0
    let x := w.raise i.kind { stages := stages, item := i.item.getD shown, source := i.source, inDt := inDt, detail := i.detail }
    let y := x.setF F.TRC_STAT_SWITCHING ((if x.switching 0 then 1 else 0) + (if x.switching 1 then 2 else 0))
    y.settleRun

/-- The ASC pattern of a set includes a channel (R13). -/
def State.ascIncludes (s : State) (ch : Nat) : Bool :=
  let st := s.hbCode (ch / 2) / 16
  st ≤ 1 && ((vget s.slt.kind st 0 == 2 && ch % 2 == 1) || (vget s.slt.kind st 0 == 3 && ch % 2 == 0))

/-- CD5 or CD6 is lost: edge times and dead times, or the islands, depend on it (Table 1.10). -/
def State.edgeClockLost (s : State) : Bool := s.slt.clkLost.any fun c => c == .cd5 || c == .cd6

/-- The Slate blocks the Batten's edges of a channel: DRVEN low, a latch, a hold of the stage, the chopper's block, CD5 or CD6 lost, or a module that has not left STANDBY for ARMED (R20, R129, R279, R284, R289). -/
def State.slateBlocks (s : State) (ch : Nat) : Bool :=
  let h := ch / 2
  let st := s.hbCode h / 16
  !s.getB F.GD_STAT_DRVEN || s.latched h || (st ≤ 8 && s.held st) ||
    (s.gate.chopBlock && s.chopperChs.contains ch) || s.edgeClockLost ||
    s.power == pSTANDBY || (s.power == pSAFE && s.pwr.safeFrom == pSTANDBY) || !s.mainUp

/-- Whether the gate of a channel is on (R13): the Batten's schedule, or an ASC pattern, unless the Slate, the island, the driver or a missing supply holds it off. -/
def State.gateOn (s : State) (ch : Nat) : Bool :=
  s.getB F.GD_STAT_DRVEN && s.supplied ch && !s.driverHeld ch && decide (vget s.gate.softUntil ch 0 ≤ s.now) &&
    (if s.ascIncludes ch then true
     else if s.hbCode (ch / 2) / 16 ≤ 1 && s.ascOn (s.hbCode (ch / 2) / 16) then false
     else vget s.gate.sched ch false && !s.slateBlocks ch)

/-- The state of a gate as its monitor sees it: that of the command unless it has been seen to differ (R269, R291). -/
def State.gateSeen (s : State) (ch : Nat) : Bool := (vget s.gate.seen ch none).getD (s.gateOn ch)

/-- A latch of a driver source on one channel, of class A while its stage switches or is in ASC, C otherwise (R268). -/
def State.driverClass (s : State) (k : FaultKind) (h : Nat) : FaultKind :=
  let st := s.hbCode h / 16
  if st ≤ 8 && (s.switching st || s.ascOn st) then { k with cls := 1 } else { k with cls := 3 }

end Sys2Proof.Machine
end

