-- ==== Sys2Proof/Machine/Batten.lean ====
section
/-! DEFINITION. The Batten (R133 to R159): carriers, the evaluation of a period in its shadow guard, the edges of a period and their release through the Slate. -/

namespace Sys2Proof.Machine

open Sys2Proof

/-- Carrier n. -/
def State.car (s : State) (n : Nat) : Carrier := vget s.bat.cars n {}

/-- The state with carrier n replaced; PWM_CARRUN follows. -/
def State.setCar (s : State) (n : Nat) (c : Carrier) : State :=
  ({ s with bat := { s.bat with cars := vset s.bat.cars n c } }).setBit F.PWM_CARRUN n c.running

/-- Half-bridge h as the Batten keeps it. -/
def State.hb (s : State) (h : Nat) : HbState := vget s.bat.hbs h {}

/-- The state with half-bridge h replaced; its carry shows in PWM_HBn_CARRYVAL. -/
def State.setHb (s : State) (h : Nat) (x : HbState) : State :=
  ({ s with bat := { s.bat with hbs := vset s.bat.hbs h x } }).setF (F.PWM_HB_CARRYVAL h) (toBits 32 x.carry0)

/-- The followers of carrier n. -/
def State.followers (s : State) (n : Nat) : List Nat := below 16 fun m => m != n && s.carRef m == n

/-- TREFR_eff of a bootstrapped half-bridge (R155). -/
def State.trefrEff (s : State) (h : Nat) : Nat := max (s.getF (F.PWM_HB_REFR_TREFR h)) (s.tminpEff h)

/-- The shortest period that FSWMAX of a half-bridge admits, in fine ticks (R140, R402). (Assumption 61 DEDUCED) -/
def State.fswPeriod (s : State) (h : Nat) : Nat :=
  let f := s.getF (F.SLT_HB_FSW h)
  if f = 0 then 0 else (64000000 + f - 1) / f

/-- The half-bridges that run on the period of a self-referenced carrier (R140). -/
def State.periodHbs (s : State) (n : Nat) : List Nat :=
  below 32 fun h => s.hbUsed h && (s.hbCar h == n || s.carRef (s.hbCar h) == n)

/-- The effective period of a self-referenced carrier (R140). (Assumption 61 DEDUCED) -/
def State.effPeriod (s : State) (n : Nat) : Nat :=
  (s.periodHbs n).foldl (fun m h =>
    let a := s.fswPeriod h
    let b := if s.hbMode h = 1 || s.hbMode h = 2 then 2 * s.tminpEff h + s.dtEff (2 * h) + s.dtEff (2 * h + 1) else 0
    max m (max a b)) (max (s.getF (F.PWM_CAR_PERIOD n)) 3200)

/-- The effective period of a carrier at this instant: its reference's, running or as a start would find it (R137, R140). -/
def State.carPeriod (s : State) (n : Nat) : Nat :=
  let r := s.carRef n
  if (s.car r).running then (s.car r).eff else s.effPeriod r

/-- The phase offset of a follower for a PHASE and an effective period of its reference (R137). (Assumption 178 DESIGN CHOICE) -/
def phaseOffset (mode phase eff : Nat) : Nat := if mode = 1 then eff * phase / 2 ^ 24 else if eff = 0 then 0 else phase % eff

/-- The guard has passed a carrier's boundary: its PWM_ writes that no hold keeps back apply at the coming start (R116). -/
def State.armCar (s : State) (n : Nat) : State :=
  { s with shadow := s.shadow.map fun w => if !w.held && s.pwmOwner w.addr == some n then { w with armed := true } else w }

/-- The shadowed writes of a carrier that its guard has passed apply, and those of the AUX_ block, which has no guard, as they stand at the boundary (R116). -/
def State.applyCar (s : State) (n : Nat) : State :=
  let t := s.applyShadow fun w => (w.armed && s.pwmOwner w.addr == some n) || (!w.held && s.auxOwner w.addr n)
  (s.carHbs n).foldl (fun x h => x.showEff h) t

/-- The values of a carrier's fields in the period that starts next, from the writes it takes at that start (R116). -/
def State.comingCar (s : State) (n : Nat) : State := if (s.car n).guarded then s.applyCar n else (s.armCar n).applyCar n

/-- The effective period of a carrier from its next start on (R138, R140). (Assumption 190 DEDUCED) -/
def State.comingPeriod (s : State) (n : Nat) : Nat :=
  let c := s.car n
  if c.guarded then c.nextEff
  else
    let v := s.comingCar n
    let r := v.carRef n
    let m := s.car r
    if r = n then v.effPeriod n
    else if m.next ≤ c.next then (if m.guarded then m.nextEff else (s.comingCar r).effPeriod r)
    else m.eff

/-- An engine paced by a carrier. -/
def State.pacedBy (s : State) (n e : Nat) : Bool := s.getF (F.LE_CFG_PACE e) == 0 && s.leCar e == n && (s.leMode e != 0 || (s.eng e).pendMode.isSome)

/-- The pacing instant that follows the running period of a carrier, as far as its periods are known (R197). -/
def State.nextPacing (s : State) (n e : Nat) : Nat :=
  let c := s.car n
  c.next + (s.leDiv e - 1 - s.getF (F.PWM_CAR_COUNT n) % s.leDiv e) * c.eff

/-- The next pacing instant of the engines on a carrier has moved, and the deadline of the last paced slot moves with it (R198). -/
def State.repace (s : State) (n : Nat) : State :=
  (below 16 (s.pacedBy n)).foldl (fun (x : State) e =>
    let g := x.eng e
    let d := x.nextPacing n e
    x.setEng e (match g.pacings.reverse with
      | (p, _) :: rest => { g with pacings := ((p, d) :: rest).reverse }
      | [] => if g.inSlot then { g with deadline := d - x.leMargin e } else g)) s

/-- A period start of a carrier paces the engines whose DIV divides the period count (Table 8.5). -/
def State.pace (s : State) (n t0 : Nat) : State :=
  ((below 16 fun e => s.pacedBy n e && s.getF (F.PWM_CAR_COUNT n) % s.leDiv e == 0).foldl (fun (x : State) e =>
    let g := x.eng e
    x.setEng e { g with pacings := g.pacings ++ [(t0, x.nextPacing n e)] }) s).repace n

/-- A carrier stands still: the engines it paces have no next slot start (R493). -/
def State.unpace (s : State) (n : Nat) : State :=
  (below 16 (s.pacedBy n)).foldl (fun (x : State) e => x.setEng e { x.eng e with pacings := [] }) s

/-- The high interval of a period and the carry it leaves (R150, R152): d_out, carry, high pulse dropped, low pulse dropped. (Assumption 62 DEDUCED) -/
def decideCarry (en : Bool) (p tminp dtHi dtLo d c : Int) : Int × Int × Bool × Bool :=
  let dw := d + max c 0 - max (-c) 0
  let hi := dw - dtHi
  let lo := (p - dw) - dtLo
  if hi < tminp then (0, if en then max hi 0 else 0, true, false)
  else if lo < tminp then (p, if en then -(max lo 0) else 0, false, true)
  else (dw, 0, false, false)

/-- Where the high interval starts once its length has changed (R151). (Assumption 179 DESIGN CHOICE) -/
def placeRise (on off d dOut p tminp : Int) : Int :=
  let off' := off + (dOut - d)
  if off' < on || off' > p - tminp then max 0 (on + d - dOut) else on

/-- A channel's high interval from its compares (Table 6.4, R150 to R152): rise, d_out, carry, drops, flags. -/
structure Interval where
  rise : Int
  dOut : Int
  carry : Int
  dropHi : Bool
  dropLo : Bool
  clamp : Bool
  order : Bool
  special : Bool

/-- The codes of Table 6.4 and the carry rule at work on one pair of compares. (Assumption 181 DEDUCED, 238 DESIGN CHOICE) -/
def interval (en : Bool) (p tminp dtHi dtLo : Nat) (on off : Nat) (c : Int) : Interval :=
  if off = 0 then ⟨0, 0, 0, false, false, false, false, true⟩
  else if off = 0xFFFFFF then ⟨0, p, 0, false, false, false, false, true⟩
  else
    let clamp := decide (p ≤ off)
    let off1 : Nat := if clamp then p - tminp else off
    let order := decide (off1 ≤ on)
    let on1 : Nat := if order then off1 else on
    let d : Int := (off1 : Int) - on1
    let (dOut, c', hi, lo) := decideCarry en p tminp dtHi dtLo d c
    let rise := if dOut = 0 || dOut = p then 0 else placeRise on1 off1 d dOut p tminp
    ⟨rise, dOut, c', hi, lo, clamp, order, false⟩

/-- The compares that will be active in the coming period (R147): the shadows where the owner has written them before the guard, which holds its first instant, otherwise the active ones. (Assumption 62 DEDUCED) -/
def State.nextCompares (s : State) (h t0 : Nat) : Nat × Nat × Nat × Nat × Bool :=
  let x := s.hb h
  if x.fresh && decide (x.writtenAt + 1024 < t0) then
    (s.getF (F.PWM_CH_ON (2 * h)), s.getF (F.PWM_CH_OFF (2 * h)), s.getF (F.PWM_CH_ON (2 * h + 1)), s.getF (F.PWM_CH_OFF (2 * h + 1)), true)
  else (x.on0, x.off0, x.on1, x.off1, false)

/-- Whether the coming period begins with a refresh pulse (R155, R156). -/
def State.refreshDue (s : State) (h : Nat) : Bool :=
  let x := s.hb h
  decide (16 ≤ h) && (x.bstForce || x.bstUv || decide (max 1 (s.getF (F.PWM_HB_REFR_NREFR h)) ≤ x.noLow))

/-- The evaluation of a half-bridge for the period of p ticks that starts at t0 (Table 6.5, first row). (Assumption 62 DEDUCED) -/
def State.planHb (s : State) (h p t0 : Nat) : HbPlan :=
  let x := s.hb h
  let mode := s.hbMode h
  let dtH := s.dtEff (2 * h)
  let dtL := s.dtEff (2 * h + 1)
  let tm := s.tminpEff h
  let en := s.getB (F.PWM_HB_CFG_CARRY h)
  let keep := x.mode == mode && x.carryCfg == en && x.tminp == tm
  let c0 := if keep then x.carry0 else 0
  let c1 := if keep then x.carry1 else 0
  let (on0, off0, on1, off1, taken) := s.nextCompares h t0
  let base : HbPlan := { mode := mode, on0 := on0, off0 := off0, on1 := on1, off1 := off1, taken := taken }
  let due := s.refreshDue h
  let tr := s.trefrEff h
  if mode = 1 then
    let i := interval en p tm dtH dtL on0 off0 c0
    { base with rise := i.rise, dOut := i.dOut, carry0 := i.carry, clamp := i.clamp, order := i.order, dropHi := i.dropHi, dropLo := i.dropLo,
                drops := (if i.dropHi then 1 else 0) + (if i.dropLo then 1 else 0), refresh := due }
  else if mode = 2 then
    let i := interval en p tm dtH 0 on0 off0 c0
    let j := interval en p tm dtL 0 on1 off1 c1
    let from_ : Int := if x.endLo && x.lowOnAt ≤ t0 then 0 else dtL
    let lowFrom : Int := if x.endLo && decide (x.lowOnAt ≤ t0) && decide (j.rise = 0) then (x.lowOnAt : Int) - t0 else j.rise + dtL
    let own := due && decide (j.rise = 0) && decide (from_ + tr ≤ j.dOut) && (decide (i.dOut = 0) || decide (from_ + tr ≤ i.rise))
    -- a refresh pulse, and a special code on either channel, clear the carry of both (R154)
    let none_ := (due && !own) || i.special || j.special
    { base with rise := i.rise, dOut := i.dOut, rise1 := j.rise, dOut1 := j.dOut,
                carry0 := if none_ then 0 else i.carry, carry1 := if none_ then 0 else j.carry,
                clamp := i.clamp || j.clamp, order := i.order || j.order, dropHi := i.dropHi || j.dropHi, dropLo := i.dropLo || j.dropLo,
                drops := (if i.dropHi then 1 else 0) + (if i.dropLo then 1 else 0) + (if j.dropHi then 1 else 0) + (if j.dropLo then 1 else 0),
                refresh := due, refreshOwn := own, lowOk := (decide (0 < j.dOut) && decide ((tr : Int) ≤ j.rise + j.dOut - lowFrom)) || due }
  else base

/-- The stretch of R153 and the refresh of R155 for a mode 1 period, judged on the interval as the windows have placed it. A low-side pulse counts for the refresh counter in a period in which it is on and reaches TREFR_eff. (Assumption 234 DEDUCED) -/
def State.finishPlan (s : State) (h p t0 : Nat) (q : HbPlan) : HbPlan :=
  if q.mode != 1 then q
  else
    let x := s.hb h
    let dtH := s.dtEff (2 * h)
    let dtL := s.dtEff (2 * h + 1)
    let tm := s.tminpEff h
    let tr := s.trefrEff h
    let en := s.getB (F.PWM_HB_CFG_CARRY h)
    -- the low-side pulse running at the start is held to tMINP_eff
    let lowAt : Int := if x.endLo then (x.lowOnAt : Int) - t0 else dtL
    let lowRuns := x.endLo || decide (0 < q.rise)
    let st : Int := if q.dOut = 0 || !lowRuns then 0 else max 0 (lowAt + tm - q.rise)
    let lost := decide (q.rise + q.dOut < q.rise + st + dtH + tm) && decide (q.dOut < p) && decide (0 < st)
    let dOut := if lost then 0 else q.dOut
    let own := q.refresh && decide (dOut < p) && (decide (dOut = 0) || decide ((tr : Int) ≤ q.rise - max lowAt 0))
    let sep := q.refresh && !own && decide (((dtL + tr + dtH + tm : Nat) : Int) ≤ q.rise + dOut)
    -- a separate refresh pulse, with or without room for the high pulse behind it, clears the carry
    let clears := q.refresh && !own
    -- the low-side pulses of the period: the one that runs or starts ahead of the high interval, and the one behind it
    let lowEnd : Int := if dOut = 0 then p else q.rise + st
    let front := (lowRuns || decide (dOut = 0)) && decide (0 < lowEnd) && decide ((tr : Int) ≤ lowEnd - lowAt)
    let back := decide (0 < dOut) && decide ((tr : Int) ≤ (p : Int) - (q.rise + dOut + dtL))
    let owed := if lost then (if en then q.carry0 + max 0 (q.dOut - dtH) else 0)
      else if q.off0 = 0 || q.off0 = 0xFFFFFF then 0 else q.carry0 + st
    { q with dOut := if clears && !sep then 0 else dOut, carry0 := if clears then 0 else owed, refreshOwn := q.refresh && !sep,
             dropHi := q.dropHi || (lost && !clears), drops := q.drops + (if lost && !clears then 1 else 0), stretch := if sep then 0 else st,
             lowOk := front || back || q.refresh }

/-- A phase of a window unit: start and length of its high interval and its dead times. -/
structure WinPhase where
  rise : Int
  dOut : Int
  dtH : Int
  dtL : Int
  tm : Int

/-- A phase clear of the window (R158). -/
def WinPhase.clear (x : WinPhase) (w0 w1 : Int) : Bool := x.dOut == 0 || decide (x.rise + x.dOut + x.dtL ≤ w0) || decide (w1 ≤ x.rise)

/-- A phase with an edge inside the window (R158). -/
def WinPhase.edgeIn (x : WinPhase) (p w0 w1 : Int) : Bool :=
  decide (0 < x.dOut) && decide (x.dOut < p) &&
    [x.rise, x.rise + x.dtH, x.rise + x.dOut, x.rise + x.dOut + x.dtL].any fun e => decide (w0 < e) && decide (e < w1)

/-- The earlier position of a phase, where it is possible (R158 step 2). -/
def WinPhase.early (x : WinPhase) (p w0 : Int) : Option Int :=
  let r := w0 - x.dtL - x.dOut
  if 0 ≤ r && r + x.dOut ≤ p - x.tm then some r else none

/-- The later position of a phase, where it is possible (R158 step 2). -/
def WinPhase.late (x : WinPhase) (p w1 : Int) : Option Int := if w1 + x.dOut ≤ p - x.tm then some w1 else none

/-- The possible position that moves a pulse less, the later one where both move it alike (R158 step 4). -/
def WinPhase.nearest (x : WinPhase) (p w0 w1 : Int) : Int :=
  match x.early p w0, x.late p w1 with
  | some e, some l => if (x.rise - e).natAbs < (l - x.rise).natAbs then e else l
  | some e, none => e
  | none, some l => l
  | none, none => x.rise

/-- The unsampled phase moved so that its pulse spans the window, or to the nearer possible position (R158 step 5). (Assumption 247 DESIGN CHOICE) -/
def WinPhase.span (x : WinPhase) (p w0 w1 : Int) : Int :=
  let lo := max 0 (w1 - x.dOut)
  let hi := min (w0 - x.dtH) (p - x.tm - x.dOut)
  if lo ≤ hi then clampInt lo hi x.rise else x.nearest p w0 w1

/-- Where the two sampled phases go: both unclear to opposite sides, one unclear to its nearer side (R158 steps 3 and 4). (Assumption 240 DESIGN CHOICE) -/
def placePair (a b : WinPhase) (p w0 w1 : Int) : Int × Int :=
  if !a.clear w0 w1 && !b.clear w0 w1 then
    match a.early p w0, b.late p w1, a.late p w1, b.early p w0 with
    | some ea, some lb, _, _ => (ea, lb)
    | _, _, some la, some eb => (la, eb)
    | ea, lb, la, eb => ((ea.or la).getD a.rise, (lb.or eb).getD b.rise)
  else if !a.clear w0 w1 then (a.nearest p w0 w1, b.rise)
  else if !b.clear w0 w1 then (a.rise, b.nearest p w0 w1)
  else (a.rise, b.rise)

/-- The phases of a bridge by rising d_out (R158 step 1). (Assumption 180 DESIGN CHOICE) -/
def orderByD (x : Nat → WinPhase) : Nat × Nat × Nat :=
  let lt := fun i j => decide ((x i).dOut ≤ (x j).dOut)
  if lt 0 1 then (if lt 1 2 then (0, 1, 2) else if lt 0 2 then (0, 2, 1) else (2, 0, 1))
  else (if lt 0 2 then (1, 0, 2) else if lt 1 2 then (1, 2, 0) else (2, 1, 0))

/-- The half-bridges of a window unit. -/
def State.winHb (s : State) (k i : Nat) : Nat :=
  if i = 0 then s.getF (F.PWM_WIN_CFG_HBA k) else if i = 1 then s.getF (F.PWM_WIN_CFG_HBB k) else s.getF (F.PWM_WIN_CFG_HBC k)

/-- A window unit acts: enabled, and its three half-bridges in mode 1 on one carrier (R157). (Assumption 65 DEDUCED) -/
def State.winActive (s : State) (k : Nat) : Bool :=
  s.getB (F.PWM_WIN_CFG_EN k) && [0, 1, 2].all fun i => s.hbMode (s.winHb k i) == 1 && s.hbCar (s.winHb k i) == s.hbCar (s.winHb k 0)

/-- The window [w0, w1) of a unit in a period of p ticks (R158). (Assumption 65 DEDUCED) -/
def State.window (s : State) (k p : Nat) : Nat × Nat :=
  let tw := s.getF (F.PWM_WIN_TWIN k)
  let pos := s.getF (F.PWM_WIN_POS k)
  let w0 := if pos = 0 then (p - tw) / 2 else pos
  (w0, w0 + tw)

/-- Window placement of a unit for the coming period: the pulses moved (R158). -/
def State.planWindow (s : State) (k p : Nat) : State :=
  let (w0n, w1n) := s.window k p
  let w0 : Int := w0n
  let w1 : Int := w1n
  let ph := fun i =>
    let h := s.winHb k i
    let q := ((s.hb h).plan).getD {}
    (⟨q.rise, q.dOut, s.dtEff (2 * h), s.dtEff (2 * h + 1), s.tminpEff h⟩ : WinPhase)
  let (a, b, c) := orderByD ph
  let (ra, rb) := placePair (ph a) (ph b) p w0 w1
  let rc := if (ph c).edgeIn p w0 w1 then (ph c).span p w0 w1 else (ph c).rise
  let newRise := fun i => if i = a then ra else if i = b then rb else rc
  let moved := [0, 1, 2].filter fun i => newRise i != (ph i).rise
  let wp : WinPlan := { w0 := w0n, later := maskOf (moved.filter fun i => decide ((ph i).rise < newRise i)),
                        earlier := maskOf (moved.filter fun i => decide (newRise i < (ph i).rise)), moved := !moved.isEmpty }
  let t := [0, 1, 2].foldl (fun (x : State) i =>
    let h := s.winHb k i
    let y := x.hb h
    x.setHb h { y with plan := y.plan.map fun q => { q with rise := newRise i } }) s
  { t with bat := { t.bat with winPlan := vset t.bat.winPlan k (some wp) } }

/-- The half-bridges that a unit places, as a mask: its three while it acts (R157). -/
def State.winMask (s : State) (k : Nat) : Nat := if s.winActive k then maskOf ([0, 1, 2].map fun i => s.winHb k i) else 0

/-- The start or end of window placement by a unit clears the carry of each half-bridge of a carrier for which it starts or ends (R154). -/
def State.winEdge (s : State) (k n : Nat) : State :=
  let new := s.winMask k
  ((s.carHbs n).filter fun h => bitAt (vget s.bat.winOn k 0) h != bitAt new h).foldl (fun (x : State) h =>
    let y := { x with bat := { x.bat with winOn := vset x.bat.winOn k (setBitN (vget x.bat.winOn k 0) h (bitAt new h)) } }
    y.setHb h { y.hb h with carry0 := 0, carry1 := 0 }) s

/-- Edges of mode 1 and of a refresh pulse ahead of it, in absolute land time (R142, R143, R153, R155). The result carries the states of the two channels at the end and the land time of the last low-side turn-on. -/
def edgesMode1 (q : HbPlan) (x : HbState) (hiCh : Nat) (dtH dtL tr p t0 : Nat) : List Edge × Bool × Bool × Nat :=
  let lo := hiCh + 1
  let at_ := fun (d : Int) => ((t0 : Int) + d).toNat
  let r := q.rise
  let f := q.rise + q.dOut
  let tail : List Edge := [⟨hiCh, false, at_ f⟩, ⟨lo, true, at_ (f + dtL)⟩]
  if q.refresh && !q.refreshOwn then
    let on := if x.endLo then max t0 x.lowOnAt else t0 + dtL
    let off := on + tr
    let hiOn := max (off + dtH) (at_ (r + dtH))
    let head : List Edge := (if x.endHi then [⟨hiCh, false, t0⟩] else []) ++ (if x.endLo then [] else [⟨lo, true, on⟩]) ++ [⟨lo, false, off⟩, ⟨hiCh, true, hiOn⟩]
    if f < p then (head ++ tail, false, true, at_ (f + dtL)) else (head, true, false, on)
  else if q.dOut = 0 then
    if x.endLo then ([], false, true, x.lowOnAt)
    else ((if x.endHi then [⟨hiCh, false, t0⟩] else []) ++ [⟨lo, true, t0 + dtL⟩], false, true, t0 + dtL)
  else
    let startHi := x.endHi && decide (r = 0)
    let head : List Edge :=
      if startHi then []
      else if x.endLo then [⟨lo, false, at_ (r + q.stretch)⟩, ⟨hiCh, true, at_ (r + q.stretch + dtH)⟩]
      else if r = 0 then [⟨hiCh, true, at_ dtH⟩]
      else (if x.endHi then [⟨hiCh, false, t0⟩] else []) ++ [⟨lo, true, t0 + dtL⟩, ⟨lo, false, at_ (r + q.stretch)⟩, ⟨hiCh, true, at_ (r + q.stretch + dtH)⟩]
    if q.dOut = p then (head, true, false, x.lowOnAt)
    else (head ++ tail, false, true, at_ (f + dtL))

/-- The edges of a mode 1 half-bridge that land in the coming period, as offsets from its start: those scheduled already and those of its plan. -/
def State.phaseEdges (s : State) (h p t0 : Nat) : List Int :=
  let x := s.hb h
  let due := s.bat.edges.filter fun e => e.ch / 2 == h
  let new := (edgesMode1 (x.plan.getD {}) x (2 * h) (s.dtEff (2 * h)) (s.dtEff (2 * h + 1)) (s.trefrEff h) p t0).1
  (due ++ new).map fun e => (e.land : Int) - t0

/-- The high interval of a planned mode 1 period as a phase of its window unit, behind its stretch and a separate refresh pulse (R153, R155). -/
def State.finalPhase (s : State) (h t0 : Nat) : WinPhase :=
  let x := s.hb h
  let q := x.plan.getD {}
  let lowAt : Int := if x.endLo then max 0 ((x.lowOnAt : Int) - t0) else s.dtEff (2 * h + 1)
  let rise := if q.refresh && !q.refreshOwn then max q.rise (lowAt + s.trefrEff h) else q.rise + q.stretch
  ⟨rise, if q.dOut = 0 then 0 else max 0 (q.rise + q.dOut - rise), s.dtEff (2 * h), s.dtEff (2 * h + 1), s.tminpEff h⟩

/-- What a window gives in the coming period, judged on the edges as they will be emitted: the phases whose shunts are valid, and whether it fails (R159). -/
def State.judgeWindow (s : State) (k p t0 : Nat) : State :=
  let (w0, w1) := s.window k p
  let hs := [0, 1, 2].map fun i => s.winHb k i
  let inW := hs.any fun h => (s.phaseEdges h p t0).any fun e => decide ((w0 : Int) < e) && decide (e < (w1 : Int))
  let clear := [0, 1, 2].filter fun i => (s.finalPhase (s.winHb k i) t0).clear w0 w1
  let judged := fun (w : WinPlan) => { w with sampled := if inW then 0 else maskOf clear, fail := inW || decide (clear.length < 2) }
  { s with bat := { s.bat with winPlan := vset s.bat.winPlan k ((vget s.bat.winPlan k none).map judged) } }

/-- The evaluation of the coming period of a carrier from the writes whose boundary has passed: the next effective period is found, every assigned half-bridge is evaluated, and windows are placed (R147, R158, Table 6.5). Only the plans are kept: the writes themselves apply at the period start. -/
def State.planCar (a : State) (n : Nat) : State :=
  let c := a.car n
  -- the values in force from the period start on
  let v := a.applyCar n
  let r := v.carRef n
  let p := if r = n then v.effPeriod n else
    let m := a.car r
    if m.guarded && decide (m.next ≤ c.next) then m.nextEff else m.eff
  let mine := fun (x : State) (k : Nat) => x.hbCar (x.winHb k 0) == n
  let v1 := [0, 1].foldl (fun (x : State) k => x.winEdge k n) v
  let v2 := (v1.carHbs n).foldl (fun (x : State) h => x.setHb h { x.hb h with plan := some (v1.planHb h p c.next) }) v1
  let v3 := [0, 1].foldl (fun (x : State) k =>
    if !mine x k then x else if x.winActive k then x.planWindow k p else { x with bat := { x.bat with winPlan := vset x.bat.winPlan k none } }) v2
  let v4 := (v3.carHbs n).foldl (fun (x : State) h => x.setHb h { x.hb h with plan := (x.hb h).plan.map (x.finishPlan h p c.next) }) v3
  let v5 := [0, 1].foldl (fun (x : State) k => if mine x k then x.judgeWindow k p c.next else x) v4
  { a with bat := v5.bat }.setCar n { c with guarded := true, nextEff := p }

/-- The guard of a carrier's coming period, once per period: shadowed writes reach their boundary and the period is evaluated (R116, R147). (Assumption 43 DEDUCED) -/
def State.guardCar (s : State) (n : Nat) : State := if (s.car n).guarded then s else (s.armCar n).planCar n

/-- A compare word written inside the guard voids the transfer of its half-bridge: the coming period is evaluated again without it (R147). -/
def State.voidLate (s : State) (n : Nat) : State :=
  let t0 := (s.car n).next
  let late := (s.carHbs n).any fun h => (((s.hb h).plan).getD {}).taken && decide (t0 ≤ (s.hb h).writtenAt + 1024)
  if late then s.planCar n else s

/-- Edges of one channel in mode 2 (Table 6.3): on from ON + DT_eff to OFF; a channel on at the end of the period before stays on where this period begins high. -/
def edgesMode2 (ch : Nat) (rise dOut : Int) (on : Bool) (dt p t0 : Nat) : List Edge × Bool :=
  let at_ := fun (d : Int) => ((t0 : Int) + d).toNat
  if dOut = 0 then (if on then [⟨ch, false, t0⟩] else [], false)
  else
    let head : List Edge := if on && rise = 0 then [] else (if on then [⟨ch, false, t0⟩] else []) ++ [⟨ch, true, at_ (rise + dt)⟩]
    if dOut = p then (head, true) else (head ++ [⟨ch, false, at_ (rise + dOut)⟩], false)

/-- Edges of the low side of a mode 2 period that begins with a refresh pulse from `a` to `b`: its own pulse joins it where the two meet, and follows it otherwise (R155). (Assumption 182 DEDUCED) -/
def refreshLow (ch : Nat) (rise dOut : Int) (on : Bool) (dt p t0 a b : Nat) : List Edge × Bool :=
  let at_ := fun (d : Int) => ((t0 : Int) + d).toNat
  let from_ := if on && rise = 0 then t0 else at_ (rise + dt)
  let lead : List Edge := if on then [] else [⟨ch, true, min a from_⟩]
  let lead' : List Edge := if on then [] else [⟨ch, true, a⟩]
  if dOut = 0 then (lead' ++ [⟨ch, false, b⟩], false)
  else if from_ ≤ b then (if dOut = p then (lead, true) else (lead ++ [⟨ch, false, max b (at_ (rise + dOut))⟩], false))
  else if dOut = p then (lead' ++ [⟨ch, false, b⟩, ⟨ch, true, from_⟩], true)
  else (lead' ++ [⟨ch, false, b⟩, ⟨ch, true, from_⟩, ⟨ch, false, at_ (rise + dOut)⟩], false)

/-- Edges of the high side of a mode 2 period that begins with a refresh pulse which ends at `b`: it turns on after its dead time, or at its own ON where that lies later, and not at all where less than the minimum pulse would be left (R149, R155). (Assumption 182 DEDUCED) -/
def refreshHigh (ch : Nat) (rise dOut : Int) (on : Bool) (dt tm p t0 b : Nat) : List Edge × Bool :=
  let at_ := fun (d : Int) => ((t0 : Int) + d).toNat
  let head : List Edge := if on then [⟨ch, false, t0⟩] else []
  let up := max (at_ (rise + dt)) (b + dt)
  if dOut = 0 then (head, false)
  else if dOut = p then (head ++ [⟨ch, true, up⟩], true)
  else if at_ (rise + dOut) < up + tm then (head, false)
  else (head ++ [⟨ch, true, up⟩, ⟨ch, false, at_ (rise + dOut)⟩], false)

/-- A schedule without the turn-ons of a half-bridge that would land from an instant on. -/
def cutOns (h t0 : Nat) (es : List Edge) : List Edge := es.filter fun e => !(e.ch / 2 == h && e.on && decide (t0 ≤ e.land))

/-- The edges of a half-bridge's period join the schedule, and the half-bridge keeps what the period leaves. In MODE 0 the refresh counter starts again from 0. (Assumption 242 DESIGN CHOICE) -/
def State.startHb (s : State) (h p t0 : Nat) : State :=
  let x := s.hb h
  -- without a plan, as after a stop inside the guard, the active compares stay
  let q := x.plan.getD { on0 := x.on0, off0 := x.off0, on1 := x.on1, off1 := x.off1 }
  let dtH := s.dtEff (2 * h)
  let dtL := s.dtEff (2 * h + 1)
  let tr := s.trefrEff h
  -- outside mode 1 a low-side turn-on still due from the period before is given up
  let lowOn := x.endLo && decide (x.lowOnAt ≤ t0)
  let kept := if q.mode = 1 then s.bat.edges else cutOns h t0 s.bat.edges
  let (es, hi, lo, lowAt) : List Edge × Bool × Bool × Nat :=
    if q.mode = 1 then edgesMode1 q x (2 * h) dtH dtL tr p t0
    else if q.mode = 2 then
      if q.refresh && !q.refreshOwn then
        let on := if lowOn then t0 else t0 + dtL
        let (e0, hi) := refreshHigh (2 * h) q.rise q.dOut x.endHi dtH (s.tminpEff h) p t0 (on + tr)
        let (e1, lo) := refreshLow (2 * h + 1) q.rise1 q.dOut1 lowOn dtL p t0 on (on + tr)
        (e0 ++ e1, hi, lo, on)
      else
        let (e0, hi) := edgesMode2 (2 * h) q.rise q.dOut x.endHi dtH p t0
        let (e1, lo) := edgesMode2 (2 * h + 1) q.rise1 q.dOut1 lowOn dtL p t0
        (e0 ++ e1, hi, lo, x.lowOnAt)
    else ((if x.endHi then [⟨2 * h, false, t0⟩] else []) ++ (if lowOn then [⟨2 * h + 1, false, t0⟩] else []), false, false, x.lowOnAt)
  let y : HbState := { x with on0 := q.on0, off0 := q.off0, on1 := q.on1, off1 := q.off1, fresh := x.fresh && !q.taken,
                              carry0 := q.carry0, carry1 := q.carry1, mode := q.mode, carryCfg := s.getB (F.PWM_HB_CFG_CARRY h), tminp := s.tminpEff h,
                              noLow := if q.lowOk then 0 else x.noLow + 1, bstForce := x.bstForce && !q.refresh, sample := x.sample || q.refresh,
                              endHi := hi && !s.slateBlocks (2 * h), endLo := lo && !s.slateBlocks (2 * h + 1), lowOnAt := lowAt, plan := none, noPulse := q.dropHi, bar0 := s.slateBlocks (2 * h), bar1 := s.slateBlocks (2 * h + 1) }
  let t := { s with bat := { s.bat with edges := kept ++ es } }
  let t1 := t.setHb h (if 16 ≤ h && q.mode != 0 then y else { y with noLow := 0, bstForce := false, bstUv := false, sample := false })
  let t2 := if q.clamp then t1.event (F.PWM_HB_EVT_CMPCLAMP h) else t1
  let t3 := if q.order then t2.event (F.PWM_HB_EVT_CMPORDER h) else t2
  let t4 := if q.dropHi then t3.event (F.PWM_HB_EVT_DROP_HI h) else t3
  let t5 := if q.dropLo then t4.event (F.PWM_HB_EVT_DROP_LO h) else t4
  let t6 := if 0 < q.stretch then t5.event (F.PWM_HB_EVT_STRETCH h) else t5
  let t7 := if q.refresh then (t6.event (F.PWM_HB_EVT_REFR h)).bump (F.PWM_HB_CNT_REFRESHES h) else t6
  if q.drops = 0 then t7 else t7.bumpBy (F.PWM_HB_CNT_DROPS h) q.drops

/-- What a window unit shows of the period that starts (R158, R159). -/
def State.showWindow (s : State) (k : Nat) : State :=
  match vget s.bat.winPlan k none with
  | none => s
  | some w =>
    let a := ((((s.setF (F.PWM_WIN_STAT_SAMPLED k) w.sampled).setF (F.PWM_WIN_STAT_LATER k) w.later).setF (F.PWM_WIN_STAT_EARLIER k) w.earlier).setB
      (F.PWM_WIN_STAT_WINFAIL k) w.fail).setF (F.PWM_WIN_START k) w.w0
    let b := if w.moved then a.bump (F.PWM_WIN_CNT_SHIFTS k) else a
    let c := if w.fail then b.bump (F.PWM_WIN_CNT_FAILS k) else b
    { c with bat := { c.bat with winPlan := vset c.bat.winPlan k none } }

/-- TRC_STAT.SWITCHING, AUX_STAT.ACTIVE and the power state follow the modes in force (R39, R40, R346). -/
def State.showModes (s : State) : State :=
  let m := (if s.switching 0 then 1 else 0) + (if s.switching 1 then 2 else 0)
  ((s.setF F.TRC_STAT_SWITCHING m).setF F.AUX_STAT_ACTIVE s.activePhases).settleRun

/-- Both channels of a half-bridge are turned off by the Batten at an instant, and its carry is cleared (R141, R154). (Assumption 184 DEDUCED, 242 DESIGN CHOICE) -/
def State.quietHb (s : State) (h t0 : Nat) : State :=
  let x := s.hb h
  let es := (if x.endHi then [⟨2 * h, false, t0⟩] else []) ++ (if x.endLo then [⟨2 * h + 1, false, t0⟩] else [])
  let t := { s with bat := { s.bat with edges := cutOns h t0 s.bat.edges ++ es } }
  t.setHb h { x with carry0 := 0, carry1 := 0, endHi := false, endLo := false, plan := none, noLow := 0, bstForce := false, bstUv := false, sample := false }

/-- A carrier stops at the end of its running period (R141); its followers then stop at the ends of theirs, and the loss is recorded (R139). Shadowed writes of the stopped carrier apply at once (R116). (Assumption 63 DEDUCED, 183 DEDUCED) -/
def State.stopCar (s : State) (n : Nat) : State :=
  let c := s.car n
  let t1 := if c.refLost then s.setF (F.PWM_CAR_CTRL_RUN n) 0 else s
  -- RUN set again while its reference stands still: the follower waits for it (R137)
  let again := t1.getB (F.PWM_CAR_CTRL_RUN n)
  let t1 := t1.setCar n { c with running := false, waiting := again, next := if again then 0 else c.next, stopping := false, guarded := false, refLost := false, clamp := false }
  let u := ((t1.carHbs n).foldl (fun x h => x.quietHb h c.next) (t1.freeCar n)).unpace n
  let fs := (u.followers n).filter fun m => (u.car m).running
  if fs.isEmpty then u.showModes
  else
    let v := fs.foldl (fun (x : State) m => (x.setCar m { x.car m with stopping := true, refLost := true }).event F.PWM_EVT_REFLOST) u
    (v.raise Flt.CARRIER_REF_LOST {}).showModes

/-- At a period start of the reference its followers take their phase: a waiting one learns its first start, a running one with a changed PHASE has its period lengthened (R137, R138). (Assumption 63 DEDUCED) -/
def State.phaseFollower (s : State) (t0 p m : Nat) : State :=
  let f := s.car m
  let mode := s.getF (F.PWM_CAR_CTRL_PHMODE m)
  let ph := s.getF (F.PWM_CAR_PHASE m)
  let new := phaseOffset mode ph p
  if f.waiting then s.setCar m { f with next := t0 + new, offset := new, phaseIn := ph, guarded := false }
  -- a follower whose own period starts at the same instant takes its phase behind that start
  else if f.running && f.next != t0 then
    let old := phaseOffset mode f.phaseIn p
    let base := if f.cur = t0 then t0 + p else t0
    let next := if f.phaseIn = ph then base + new else base + old + (((new : Int) - old) % (max p 1 : Nat)).toNat
    (s.setCar m { f with next := next, offset := new, phaseIn := ph, guarded := f.guarded && f.next == next }).repace m
  else s

/-- A follower that has started a period at the instant of its reference's period start takes its phase behind that start, whichever of the two starts was taken first (R137, R138). (Assumption 244 DEDUCED) -/
def State.phaseSelf (s : State) (t0 n : Nat) : State :=
  let r := s.carRef n
  if r != n && (s.car r).running && (s.car r).cur == t0 then s.phaseFollower t0 (s.car r).eff n else s

/-- A period starts with PERIOD below the effective period: PERCLAMP, not repeated while the bit stays set over the same cause (R111, R140, R160). (Assumption 138 DEDUCED) -/
def State.perClamp (s : State) (n : Nat) : State :=
  let c := s.car n
  let t := s.setCar n { c with clamp := true }
  (if c.clamp && t.getB F.PWM_EVT_PERCLAMP then t else t.event F.PWM_EVT_PERCLAMP).raiseRate Flt.PERIOD_CLAMPED { item := n } n (100 * ticksPerMs)

/-- A SLOT channel on a carrier converts in every DIV-th period, OFS after the period start (R173). (Assumption 186 DEDUCED) -/
def State.slotPeriods (s : State) (n t0 : Nat) : State :=
  let hit := fun (c : Nat) => s.getF (F.GZ_CH_CFG_MODE c) == 2 && !s.getB (F.GZ_CH_CFG_FREE c) && s.getF (F.GZ_CH_CFG_CAR c) == n
    && s.getF (F.PWM_CAR_COUNT n) % max 1 (s.getF (F.GZ_CH_SCHED_DIV c)) == 0
  (below 72 hit).foldl (fun (x : State) c =>
    let g := vget x.gz.chans c {}
    { x with gz := { x.gz with chans := vset x.gz.chans c { g with convs := g.convs ++ [t0 + x.getF (F.GZ_CH_SCHED_OFS c)] } } }) s

/-- Listening begins with a CAR0 period, all gates of the armed sets off, and lasts two electrical periods at the resolver speed in whole CAR0 periods, at most 5 ms (R240). (Assumption 81 DEDUCED) -/
def State.listenNow (s : State) (t0 p : Nat) : State :=
  if s.trc.start.isSome && s.getF F.TRC_STAT_DSTATE == 1 then
    let f := absRat (s.getQ F.TRC_SPEED) * (s.getF F.TRC_CFG_POLE_PAIRS : Rat)
    let two : Nat := if f = 0 then 5 * ticksPerMs else (120 * (ticksPerS : Rat) / f).ceil.toNat
    ({ s with trc := { s.trc with listenAt := t0, listenFor := min (5 * ticksPerMs) ((two + p - 1) / p * p) } }).setF F.TRC_STAT_DSTATE 2
  else s

/-- The half-bridges of the front end that switch in a session: phase C is held off in a single-phase session (R294). -/
def State.frontHbs (s : State) : List Nat := (s.hbsOf 3).filter fun h => s.hbCode h % 16 != 2 || s.getF F.CHG_STAT_PHASES == 3

/-- The front end switches: MODE 1 on its half-bridges and CSTATE 3 (R301). (Assumption 95 DEDUCED) -/
def State.chgStart (s : State) : State :=
  let a := s.frontHbs.foldl (fun (x : State) h => if x.latched h then x else x.setMode h 1) s
  ({ a with chg := { a.chg with gap := 0 } }.setF F.CHG_STAT_CSTATE 3).setF F.CHG_STAT_PAUSE 0 |>.showModes

/-- A precharged session starts its front end with a CAR3 period, at zero power (R301). -/
def State.frontNow (s : State) : State :=
  if s.getF F.CHG_STAT_CSTATE == 2 && s.getB F.CHG_STAT_PRECHARGED then
    { s with chg := { s.chg with rampFrom := 0, rampTo := 0, rampAt := s.now, zeroFor := 0 } }.chgStart
  else s

/-- A carrier's period starts: shadows transfer, shadowed writes apply, the effective period is shown, edges are scheduled, followers take their phase (R136, R147). -/
def State.startPeriod (s0 : State) (n : Nat) : State :=
  let s := (s0.guardCar n).voidLate n
  let c := s.car n
  let t0 := c.next
  let p := c.nextEff
  let a := s.applyCar n
  let b := a.setCar n { c with running := true, waiting := false, prev := if c.running then some c.cur else none, cur := t0, next := t0 + p, eff := p, guarded := false }
  let b1 := (b.setF (F.PWM_CAR_EFF n) p).wrap (F.PWM_CAR_COUNT n)
  let below_ := b1.carRef n == n && decide (b1.getF (F.PWM_CAR_PERIOD n) < p)
  let b2 := if below_ then b1.perClamp n else b1.setCar n { b1.car n with clamp := false }
  let b3 := (b2.carHbs n).foldl (fun x h => x.startHb h p t0) b2
  let b4 := [0, 1].foldl (fun (x : State) k => if x.hbCar (x.winHb k 0) = n then x.showWindow k else x) b3
  let b5 := if b4.carRef n = n then (b4.followers n).foldl (fun x m => x.phaseFollower t0 p m) b4 else b4.phaseSelf t0 n
  let b6 := (b5.slotPeriods n t0).pace n t0
  (if n = 0 then b6.listenNow t0 p else if n = 3 then b6.frontNow else b6).showModes

/-- CARRIER_RUN at work: RUN is written 1 (R136, R137, R141). A follower whose reference still runs goes on without a break; the stop of the reference stops it again (R139). (Assumption 136 DEDUCED, 183 DEDUCED) -/
def State.carrierRun (s : State) (n : Nat) : State :=
  let t := s.setF (F.PWM_CAR_CTRL_RUN n) 1
  let c := t.car n
  let r := t.carRef n
  if c.running then t.setCar n { c with stopping := c.stopping && r != n && !(t.car r).running, refLost := false }
  else if c.waiting then t
  else
    let cleared := (t.carHbs n).foldl (fun (x : State) h => x.setHb h { x.hb h with carry0 := 0, carry1 := 0 }) t
    if t.carRef n = n then
      let start := t.getF (F.PWM_CAR_START_H n) * 2 ^ 32 + t.getF (F.PWM_CAR_START_L n)
      let first := if start = 0 || start < t.battenTime + 6400 then t.now + 6400 else t.pwr.battenBase + start
      cleared.setCar n { c with waiting := true, next := first, guarded := false, stopping := false, refLost := false }
    else cleared.setCar n { c with waiting := true, next := 0, guarded := false, stopping := false, refLost := false }

/-- CARRIER_STOP at work: RUN is written 0 and the carrier stops at the end of its running period (R141). -/
def State.carrierStop (s : State) (n : Nat) : State :=
  let t := s.setF (F.PWM_CAR_CTRL_RUN n) 0
  let c := t.car n
  if c.running then t.setCar n { c with stopping := true }
  else t.setCar n { c with waiting := false, next := 0, guarded := false }

/-- SHADOW_GUARD (R147): within 1,024 fine ticks before its next start a carrier is evaluated. -/
def execShadowGuard (t : Nat) (n : Fin 16) (s0 : State) : Out :=
  let s := s0.advance t
  let c := s.car n
  if s.mainUp && (c.running || c.waiting) && decide (c.next ≤ s.now + 1024) && decide (0 < c.next) && !(c.stopping && c.running) then .next (s.guardCar n)
  else .next s

/-- DELAY_LINE_RECAL (R133): transparent; it moves no edge. -/
def execDelayLineRecal (t : Nat) (s0 : State) : Out :=
  let s := s0.advance t
  .next { s with bat := { s.bat with recalAt := s.now } }

/-- The bootstrap voltage of a half-bridge is below 7.2 V: BSTUV, not repeated while the bit stays set over the same undervoltage, and a refresh at the next period (R111, R156). -/
def State.bstLow (s : State) (n : Nat) : State :=
  let u := if (s.hb n).bstUv && s.getB (F.PWM_HB_EVT_BSTUV n) then s else s.event (F.PWM_HB_EVT_BSTUV n)
  u.setHb n { u.hb n with bstForce := true, bstUv := true }

/-- BOOTSTRAP_UNDERVOLTAGE (R156): BSTn − SWn below 7.2 V in mode 1 or 2. (Assumption 184 DEDUCED) -/
def execBootstrapUndervoltage (t : Nat) (n : Fin 32) (mv : Nat) (s0 : State) : Out :=
  let s := s0.advance t
  if s.mainUp && decide (16 ≤ n.val) && (s.hbMode n == 1 || s.hbMode n == 2) && decide (mv < 7200) then .next (s.bstLow n) else .next s

end Sys2Proof.Machine
end

