-- ==== Sys2Proof/Machine/Sessions.lean ====
section
/-! DEFINITION. Host sessions, their authentication, chunked transfers, long results, the mailbox's owner, the hold, and the packet events that are no opcode (R81 to R94, R113, R114, R117, R489). -/

namespace Sys2Proof.Machine

open Sys2Proof

/-- The FWSTAT field of a slot of a target: 0 empty, 1 receiving, 2 staged or verified, 3 invalid (Table 17.8). -/
def fwStateFld (target slot : Nat) : Fld :=
  if slot = 0 then F.IDN_FWSTAT_STATE_A target else F.IDN_FWSTAT_STATE_B target

/-- The slot of a target that the module did not boot from (R481). -/
def State.idleSlot (s : State) (target : Nat) : Nat :=
  1 - s.getF (F.IDN_FWSTAT_BOOTED target)

/-- What remains at the module of an abandoned transfer: a firmware slot being received stays empty (R481), a receiving image stage is empty again (R126). -/
def State.abandoned (s : State) (x : Transfer) : State :=
  if x.opcode = 0x0B03 then s.setF (fwStateFld x.unit (s.idleSlot x.unit)) 0
  else if x.opcode = 0x0B01 ∧ s.getF F.SYS_IMG_STAGE_STATE = 1 then s.setF F.SYS_IMG_STAGE_STATE 0
  else s

/-- The transfers that satisfy p are abandoned (R89). -/
def State.abandonTransfers (s : State) (p : Transfer → Bool) : State :=
  let gone := s.com.transfers.filter p
  let t := { s with com := { s.com with transfers := s.com.transfers.filter fun x => !p x } }
  gone.foldl (fun u x => u.abandoned x) t

/-- Every held write is discarded: HOLD_EXPIRED is recorded and SYS_WRSTAT.HOLD_EXP sets (R117). -/
def State.discardHold (s : State) : State :=
  match s.com.hold with
  | none => s
  | some _ =>
    let t := { s with shadow := s.shadow.filter fun w => !w.held, com := { s.com with hold := none } }
    let u := (t.setF F.SYS_APPLY_HOLD 0).setF F.SYS_APPLY_HELD 0
    (u.raise Flt.HOLD_EXPIRED {}).event F.SYS_WRSTAT_HOLD_EXP

/-- The snapshot lapses: VALID clears and EXPIRED sets (R114). -/
def State.mbxLapse (s : State) : State :=
  if s.getB F.SYS_MBX_CTRL_VALID then (s.setF F.SYS_MBX_CTRL_VALID 0).setF F.SYS_MBX_CTRL_EXPIRED 1 else s

/-- The next multiple of a grid that is not before an instant of Batten time. -/
def gridUp (g x : Nat) : Nat := (x + g - 1) / g * g

/-- INJ_PENDING shows the injections that stand (Table 7.8). -/
def State.showInj (s : State) : State := s.setF F.GZ_STAT_INJ_PENDING s.gz.injections.length

/-- A waiting calibration may start once no masked channel has an injection pending: at the next FINE output instant (R182). An injection accepted after that instant is chosen does not move it. (Assumption 219 DESIGN CHOICE) -/
def State.calReady (s : State) : State :=
  match s.gz.cal with
  | some c =>
    if c.waiting && c.startAt = 0 && !(s.gz.injections.any fun i => bitAt c.mask i.ch) then
      { s with gz := { s.gz with cal := some { c with startAt := gridUp 655360 (s.battenTime + 1) } } }
    else s
  | none => s

/-- The injections that satisfy p are abandoned: no word is delivered, and their requests are answered NOT_PRIVILEGED, the status of a closed session (R84, R179). (Assumption 229 DESIGN CHOICE) -/
def State.dropInjections (s : State) (p : Injection → Bool) : State :=
  let t := (({ s with gz := { s.gz with injections := s.gz.injections.filter fun i : Injection => !p i } }).showInj).calReady
  (s.gz.injections.filter p).foldl (fun (x : State) i => x.answer i.ticket stNotPrivileged []) t

/-- A session closes: its stream ends, its transfers, injections, long results, held writes, unread snapshot and staged image go, and its cache is discarded (R94, R89, R90, R114, R117, R128). No power stage changes. -/
def State.closeSession (s : State) (id : Word) : State :=
  let t := (s.abandonTransfers fun x => x.session == id).dropInjections fun i => i.ticket.session == id
  let streams := match t.com.stream with
    | some x => if x.session = id then none else some x
    | none => none
  let u := { t with com := { t.com with sessions := t.com.sessions.filter fun x => x.id != id, longs := t.com.longs.filter fun x => x.session != id, stream := streams } }
  let v := if u.com.mbxOwner = some id then u.mbxLapse else u
  let w := match v.com.hold with
    | some h => if h.session = id then v.discardHold else v
    | none => v
  match w.idn.staged with
  | some (own, _) => if own = id then ({ w with idn := { w.idn with staged := none } }).setF F.SYS_IMG_STAGE_STATE 0 else w
  | none => w

/-- Every session that satisfies p closes. -/
def State.closeSessions (s : State) (p : Session → Bool) : State :=
  (s.com.sessions.filter p).foldl (fun t x => t.closeSession x.id) s

/-- The authentication lockout applies (R93). (Assumption 26 DEDUCED) -/
def State.lockedOut (s : State) : Bool :=
  match s.com.lockoutUntil with
  | some u => decide (s.now < u)
  | none => false

/-- An AUTH_FAILED is given: counted always; outside a lockout it is recorded, and the third within 10 min starts a lockout of 10 min (R93). -/
def State.authFailed (s : State) : State :=
  let t := s.bump F.COM_ERR_AUTH_FAIL
  if t.lockedOut then t
  else
    let u := t.raise Flt.SESSION_AUTH_FAIL {}
    let fails := u.now :: u.com.authFails.filter fun x => decide (u.now < x + 600 * ticksPerS)
    if fails.length < 3 then { u with com := { u.com with authFails := fails } }
    else ({ u with com := { u.com with authFails := [], lockoutUntil := some (u.now + 600 * ticksPerS) } }).raise Flt.AUTH_LOCKOUT {}

/-- A challenge is valid for 60 s (R91). -/
def State.challengeLive (s : State) (x : Session) : Bool :=
  x.challenge.isSome && !x.lapsed && decide (s.now < x.openedAt + 60 * ticksPerS)

/-- The first of w, w + 1, ... that is neither 0 nor in use; with four sessions one of six is (R91). (Assumption 25 DESIGN CHOICE) -/
def State.freshId (s : State) (w : Word) : Word :=
  (((List.range 6).map fun k => w + BitVec.ofNat 32 k).find? fun x => x != 0 && (s.session x).isNone).getD w

/-- A challenge of 32 random bytes and the state that has drawn it (R91). (Assumption 25 DESIGN CHOICE) -/
def State.drawChallenge (s : State) : List Byte × State :=
  (List.range 8).foldl (fun acc _ => let (w, t) := acc.2.draw; (acc.1 ++ beBytes 4 w.toNat, t)) ([], s)

/-- The result data of a SESSION_OPEN (Table 4.5). -/
def openData (id : Word) (challenge : Option (List Byte)) : List Byte := beBytes 4 id.toNat ++ challenge.getD []

/-- A cached reply is sent again in place of execution and counted as a duplicate (R85, R86). -/
def State.resend (s : State) (t : Ticket) (r : Reply) : State :=
  let u := s.bump F.COM_ERR_DUP
  ({ u with com := { u.com with slots := fillSlot t r u.com.slots } }).flush

/-- The SESSION_OPEN whose unchanged retry this is: same transport, sender, sequence and CRC, its session open and otherwise unused (R86). -/
def State.retryOf (s : State) (t : Ticket) : Option OpenEntry :=
  match s.com.opens.find? fun e => e.port == t.port && e.mac == t.mac && e.seq == t.seq && e.crc == t.crc with
  | some e =>
    match s.session (BitVec.ofNat 32 (beNat (e.reply.data.take 4))) with
    | some x => if x.used then none else some e
    | none => none
  | none => none

/-- The proof of a session is being verified: it counts as pending until its end, also past the 60 s of its challenge (R91). (Assumption 167 DEDUCED) -/
def State.proving (s : State) (id : Word) : Bool :=
  match s.com.sigJob with
  | some (.proof t _) => t.session == id
  | _ => false

/-- A SESSION_OPEN of a valid level is executed; an OPERATE session opens with no proof (R91, R93, R95). -/
def openSession (level : Nat) (t : Ticket) (s : State) : Res :=
  if 2 ≤ level ∧ s.lockedOut then refuse stAuthFailed s.authFailed
  else if 4 ≤ s.com.sessions.length then refuse stBusy s
  else if 2 ≤ level ∧ s.com.sessions.any (fun x => decide (2 ≤ x.level) || s.challengeLive x || s.proving x.id) then refuse stBusy s
  else
    let (w, s1) := s.draw
    let id := s.freshId w
    let (ch, s2) := if level = 1 then (none, s1) else let (c, u) := s1.drawChallenge; (some c, u)
    let x : Session := { id := id, port := t.port, mac := t.mac, level := 1, want := level, challenge := ch, openedAt := s.now, lastAt := s.now, lapsed := false, used := false, cache := [] }
    let d := openData id ch
    let e : OpenEntry := ⟨t.port, t.mac, t.seq, t.crc, mkReply t stOK d⟩
    okWith d { s2 with com := { s2.com with
      sessions := x :: s2.com.sessions
      opens := e :: s2.com.opens.filter fun o => !(o.port == t.port && o.mac == t.mac) } }

/-- SESSION_OPEN (R86, R91). -/
def execSessionOpen (r : Req) (s : State) : Out :=
  serveOp { code := 0x0010, level := 0, lens := [1] } r (fun t s =>
    match s.retryOf t with
    | some e => .later (s.resend t e.reply)
    | none =>
      let level := r.num 0 1
      if level = 0 ∨ 3 < level then refuse stBadParam s else openSession level t s) s

/-- A chunk that reaches the total it names, after its opcode's leading bytes: the last chunk, whose reply is background (R89, Table 4.4). (Assumption 24 DEDUCED) -/
def lastChunk (r : Req) (lead : Nat) : Bool := r.num lead 4 + (r.params.length - (lead + 8)) == r.num (lead + 4) 4

/-- How a chunk joins its transfer (R89). -/
inductive ChunkRes
  | bad
  | busy
  | more (s : State)
  | whole (bytes : List Byte) (s : State)

/-- A chunk of a transfer: bounds and order first, then the one transfer of the opcode; the transfer that reaches its total is handed over whole, and is no longer open while it is checked. (Assumption 251 DESIGN CHOICE) -/
def State.chunk (s : State) (opcode unit max : Nat) (session : Word) (off total : Nat) (data : List Byte) : ChunkRes :=
  let mine := s.com.transfers.find? fun x => x.opcode == opcode && x.session == session
  let put := fun (x : Transfer) =>
    let rest := s.com.transfers.filter fun y => !(y.opcode == opcode && y.session == session)
    if x.data.length = total then ChunkRes.whole x.data { s with com := { s.com with transfers := rest } }
    else .more { s with com := { s.com with transfers := x :: rest } }
  if max < total ∨ total < off + data.length ∨ data.isEmpty then .bad
  else if off = 0 then
    if s.com.transfers.any fun x => x.opcode == opcode && x.session != session then .busy
    else put ⟨opcode, session, unit, total, data⟩
  else match mine with
    | some x => if x.unit = unit ∧ x.data.length = off ∧ x.total = total then put { x with data := x.data ++ data } else .bad
    | none => .bad

/-- A chunk refused with BAD_PARAM abandons the transfer of its opcode in its session (R89). -/
def refuseChunk (opcode : Nat) (session : Word) (s : State) : Res :=
  refuse stBadParam (s.abandonTransfers fun x => x.opcode == opcode && x.session == session)

/-- AUTH_FAILED closes the session (R93). -/
def failProof (t : Ticket) (s : State) : State := ((s.authFailed).answer t stAuthFailed []).closeSession t.session

/-- SESSION_PROVE (R89, R91, R92, R93): the proof's verification ends with PROOF_VERIFIED. (Assumption 24 DEDUCED) -/
def execSessionProve (r : Req) (s : State) : Out :=
  .next (serve { code := 0x0011, background := lastChunk r 0 } (fun n => decide (9 ≤ n)) r (fun t s =>
    match s.chunk 0x0011 0 8240 r.session (r.num 0 4) (r.num 4 4) (r.params.drop 8) with
    | .bad => refuseChunk 0x0011 r.session s
    | c =>
      match s.session r.session with
      | none => refuse stNotPrivileged s
      | some x =>
        if x.challenge.isNone then refuse stStateRefused s
        else if !s.challengeLive x then .later (failProof t s)
        else match c with
          | .more u => okWith [] u
          | .whole bytes u =>
            if s.com.sigJob.isSome then refuse stBusy s
            else .later { u with com := { u.com with sigJob := some (.proof t bytes) } }
          | _ => refuse stBusy s) s)

/-- The module serial, 8 bytes (R470). -/
def State.serialBytes (s : State) : List Byte := beBytes 4 (s.getF F.IDN_SERIAL_H) ++ beBytes 4 (s.getF F.IDN_SERIAL_L)

/-- Whether a signature block of 8,240 bytes verifies under the keys of a valid certificate (R475, R476). (Assumption 56 DESIGN CHOICE) -/
def blockVerifies (cert : Nat) (message block : List Byte) : Bool :=
  Config.certOk cert && block.length == 8240 && Config.sigOk cert message block

/-- Whether a proof verifies: both signatures over challenge, session, serial and level (R92). -/
def State.proofOk (s : State) (x : Session) (bytes : List Byte) : Bool :=
  blockVerifies (if x.want = 2 then 6 else 7)
    (x.challenge.getD [] ++ beBytes 4 x.id.toNat ++ s.serialBytes ++ beBytes 1 x.want) bytes

/-- PROOF_VERIFIED (R93): the level is granted, or AUTH_FAILED closes the session. A session that has closed meanwhile has no challenge left, and its proof fails as after an expired one. (Assumption 24 DEDUCED, 166 DEDUCED) -/
def execProofVerified (t : Nat) (s0 : State) : Out :=
  let s := s0.advance t
  match s.com.sigJob with
  | some (.proof tk bytes) =>
    let u := { s with com := { s.com with sigJob := none } }
    match u.session tk.session with
    | none => .next (failProof tk u)
    | some x =>
      if u.proofOk x bytes then
        .next ((u.mapSession x.id fun y => { y with level := y.want, challenge := none }).answer tk stOK (beBytes 1 x.want))
      else .next (failProof tk u)
  | _ => .next s

/-- AUTH_LOCKOUT_END (R93): 10 min after its start the lockout expires. -/
def execAuthLockoutEnd (t : Nat) (s0 : State) : Out :=
  let s := s0.advance t
  .next (if s.lockedOut then s else { s with com := { s.com with lockoutUntil := none } })

/-- SESSION_CLOSE (R94). -/
def execSessionClose (r : Req) (s : State) : Out :=
  serveOp { code := 0x0012 } r (fun t s => .later ((s.answer t stOK []).closeSession r.session)) s

/-- SESSION_IDLE in force: values below 5 act as 5 (Table 4.11). -/
def State.sessionIdle (s : State) : Nat := max 5 (s.getF F.COM_CFG_SESSION_IDLE) * ticksPerS

/-- SESSION_IDLE_EXPIRY (R94): no request in the session has passed step 4 of R82 for SESSION_IDLE. -/
def execSessionIdleExpiry (t : Nat) (session : Word) (s0 : State) : Out :=
  let s := s0.advance t
  match s.session session with
  | some x => .next (if s.mainUp && s.elapsed x.lastAt s.sessionIdle then s.closeSession session else s)
  | none => .next s

/-- CHALLENGE_EXPIRY (R91): 60 s after SESSION_OPEN the challenge can no longer be used. -/
def execChallengeExpiry (t : Nat) (session : Word) (s0 : State) : Out :=
  let s := s0.advance t
  match s.session session with
  | some x => .next (if x.challenge.isSome && s.elapsed x.openedAt (60 * ticksPerS) then s.mapSession session fun y => { y with lapsed := true } else s)
  | none => .next s

/-- ETH_LINK_DOWN (R94, R99, R101): the stream stops, sessions on the link close, and the loss is recorded where one was open. -/
def execEthLinkDown (t : Nat) (s0 : State) : Out :=
  let s := s0.advance t
  if !s.com.linkUp then .next s
  else
    let u := { s with com := { s.com with linkUp := false, stream := none } }
    let v := if u.com.sessions.any fun x => x.port == .eth then u.raise Flt.ETH_LINK_DOWN {} else u
    .next (v.closeSessions fun x => x.port == .eth)

/-- ETH_LINK_UP (R78): the link carries packets again. -/
def execEthLinkUp (t : Nat) (s0 : State) : Out :=
  let s := s0.advance t
  .next (if s.mainUp then { s with com := { s.com with linkUp := true } } else s)

/-- APPLY_HOLD (R117). (Assumption 27 DEDUCED) -/
def execApplyHold (r : Req) (s : State) : Out :=
  serveOp { code := 0x0104 } r (fun _ s =>
    match s.com.hold with
    | some h => if h.session = r.session then okWith [] s else refuse stBusy s
    | none => okWith [] (({ s with com := { s.com with hold := some ⟨r.session, s.now⟩ } }).setF F.SYS_APPLY_HOLD 1)) s

/-- The hold closes: held writes join their owners' shadows (R117). -/
def State.releaseHold (s : State) : State :=
  let t := { s with shadow := s.shadow.map (fun w : PendWrite => { w with held := false }), com := { s.com with hold := none } }
  (t.setF F.SYS_APPLY_HOLD 0).setF F.SYS_APPLY_HELD 0

/-- HOLD_EXPIRED (R117): 100 ms after APPLY_HOLD. -/
def execHoldExpired (t : Nat) (s0 : State) : Out :=
  let s := s0.advance t
  match s.com.hold with
  | some h => .next (if s.elapsed h.since (100 * ticksPerMs) then s.discardHold else s)
  | none => .next s

/-- LOCK (R118): every RWL field locks until the next boot. -/
def execLock (r : Req) (s : State) : Out :=
  serveOp { code := 0x0106 } r (fun _ s => okWith [] (s.setF F.SYS_LOCK_LOCK 1)) s

/-- The owning session has read the last word of its snapshot (R114). -/
def State.mbxRead (s : State) (session : Word) : State :=
  if s.com.mbxOwner = some session ∧ s.getB F.SYS_MBX_CTRL_VALID then s.setF F.SYS_MBX_CTRL_VALID 0 else s

/-- MBX_LAST_WORD_READ (R114). -/
def execMbxLastWordRead (t : Nat) (session : Word) (s0 : State) : Out := .next ((s0.advance t).mbxRead session)

/-- MBX_EXPIRY (R114): 100 ms after the snapshot. -/
def execMbxExpiry (t : Nat) (s0 : State) : Out :=
  let s := s0.advance t
  .next (if s.elapsed s.com.mbxAt (100 * ticksPerMs) then s.mbxLapse else s)

/-- Highest class among unacknowledged records: 0 none, 1 A to 4 D (Table 4.6). -/
def State.topClass (s : State) : Nat :=
  ((s.log.recs ++ s.log.gone).filter fun x => !x.acked).foldl (fun m x => if m = 0 ∨ x.cls < m then x.cls else m) 0

/-- PING (R96): any 0 to 64 bytes come back. -/
def execPing (r : Req) (s : State) : Out :=
  .next (serve { code := 0x0001, level := 0 } (fun n => decide (n ≤ 64)) r (fun _ s =>
    if r.fits r.params.length then okWith r.params s else refuse stBadParam s) s)

/-- GET_STATE (R39). -/
def execGetState (r : Req) (s : State) : Out :=
  serveOp { code := 0x0002, level := 0 } r (fun _ s => okWith (beBytes 4 (s.getW F.PWR_STATE_STATE.addr).toNat) s) s

/-- Opcodes that are defined, and the three of the Ridge's authority (Table 4.5). -/
def definedOps : List Nat :=
  [0x0001, 0x0002, 0x0003, 0x0004, 0x0005, 0x0010, 0x0011, 0x0012, 0x0100, 0x0101, 0x0102, 0x0103, 0x0104, 0x0105, 0x0106]
  ++ [0x0200, 0x0201, 0x0202, 0x0203, 0x0300, 0x0301, 0x0302, 0x0303, 0x0304, 0x0305, 0x0400, 0x0401, 0x0402, 0x0403]
  ++ [0x0500, 0x0501, 0x0502, 0x0503, 0x0600, 0x0601, 0x0602, 0x0603, 0x0700, 0x0701, 0x0702, 0x0703, 0x0704]
  ++ [0x0800, 0x0801, 0x0802, 0x0803, 0x0900, 0x0901, 0x0902, 0x0A00, 0x0A01, 0x0A02, 0x0A03, 0x0A80, 0x0A81, 0x0A82]
  ++ [0x0B00, 0x0B01, 0x0B02, 0x0B03, 0x0B04, 0x0C00, 0x0C01, 0x0C02, 0x0D00, 0x0D01, 0x0D02, 0x0E00, 0x0E01, 0x0E02]

/-- A request whose opcode has no execution on a main-die transport: steps 1 to 3 of R82 decide its reply. -/
def serveNone (code status : Nat) (r : Req) (s0 : State) : State :=
  let s := s0.advance r.time
  if !s.receives r code then s
  else if r.port = .spi ∧ 8 ≤ s.com.spiOut.length then s.bump F.COM_ERR_DISCARD
  else if !r.intact then s.bump F.COM_ERR_DISCARD
  else
    let t := r.ticket code
    let s1 := { s with com := { s.com with slots := s.com.slots ++ [({ ticket := t, background := false, ready := none } : Slot)] } }
    if r.crc.toNat ≠ r.wantCrc code then (s1.bump F.COM_ERR_CRC_ERR).reject t stBadCrc
    else
      let s2 := { s1 with com := { s1.com with lastContact := s1.now, hostAt := some s1.now } }.markUsed t
      s2.reject t (if r.flags ≠ 0 ∨ r.reserved ≠ 0 then stBadParam else status)

/-- UNDEFINED_OPCODE (R82 step 3). -/
def execUndefinedOpcode (r : Req) (opcode : BitVec 16) (s : State) : Out :=
  .next (if definedOps.contains opcode.toNat then s.advance r.time else serveNone opcode.toNat stBadOpcode r s)

/-- Whether the bytes of a packet make an intact header on a transport (R81). On CAN and 1000BASE-T1 padding may follow. (Assumption 11 DEDUCED, 21 DEDUCED) -/
def intactBytes (p : Port) (bs : List Byte) : Bool :=
  let n := beAt bs 6 2 + 20
  decide (20 ≤ bs.length) && bs.getD 0 0 == 1 && (if p = .spi then n == bs.length else decide (n ≤ bs.length)) && decide (n ≤ maxPacket p false)

/-- PACKET_DISCARD (R81): counted, no reply. (Assumption 21 DEDUCED) -/
def execPacketDiscard (t : Nat) (port : Port) (bytes : List Byte) (s0 : State) : Out :=
  let s := s0.advance t
  .next (if s.mainUp && s.pwr.sleep.isNone && s.portOpen port && !intactBytes port bytes then s.bump F.COM_ERR_DISCARD else s)

/-- BOOT_PACKET_DISCARD (R489): before STANDBY is reached a packet leaves no trace. -/
def execBootPacketDiscard (t : Nat) (_port : Port) (_bytes : List Byte) (s : State) : Out := .next (s.advance t)

end Sys2Proof.Machine
end

