-- ==== Sys2Proof/Machine/Gate.lean ====
section
/-! DEFINITION. Drivers and bridge protection (R265 to R291): the release of an edge through the Slate, the island protections, the trip inputs and DRVEN. -/

namespace Sys2Proof.Machine

open Sys2Proof

/-- How far ahead of its land time an edge is released: 200 ns on isolated channels, 60 ns on the others (Table 10.1). -/
def releaseLead (ch : Nat) : Nat := if ch < 32 then 1280 else 384

/-- The release instant of an edge (R274). One that lies before its period start is checked as that period starts, when the period takes its compares over (R147). (Assumption 224 DEDUCED) -/
def Edge.release (e : Edge) : Nat := e.land - releaseLead e.ch

/-- The scheduled edge of a channel that lands first. -/
def nextEdge (ch : Nat) (es : List Edge) : Option Edge :=
  (es.filter fun e => e.ch == ch).foldl (fun best e => match best with
    | none => some e
    | some b => if e.land < b.land then some e else some b) none

/-- The next turn-off of a channel that is scheduled. -/
def nextOff (ch : Nat) (es : List Edge) : Option Edge := nextEdge ch (es.filter fun e => !e.on)

/-- HB6 run as two independent switches has no interlock (R15, R278). -/
def State.interlocked (s : State) (h : Nat) : Bool := h != 6 || s.map.hb6Half

/-- The other channel of a half-bridge. -/
def otherCh (ch : Nat) : Nat := if ch % 2 = 0 then ch + 1 else ch - 1

/-- Which floor a cancelled turn-on would break: 1 dead time, 2 minimum pulse, 3 rate (R149, R402); 0 none. -/
def State.floorBroken (s : State) (ch rel : Nat) : Nat :=
  let h := ch / 2
  let other := otherCh ch
  let dt := match vget s.gate.offRel other none with
    | some r => decide (rel < r + s.getF (F.SLT_HB_DTFLOOR h))
    | none => false
  let mp := match nextOff ch s.bat.edges with
    | some e => decide (e.release < rel + s.getF (F.SLT_HB_MINPFLOOR h))
    | none => false
  let rate := match (vget s.gate.onRel ch []).drop 1 with
    | r :: _ => decide (rel < r + s.fswPeriod h)
    | [] => false
  if dt then 1 else if mp then 2 else if rate then 3 else 0

/-- The schedule of a channel takes the edge of a release instant, which lands with the release lead (R274). -/
def State.setSched (s : State) (ch : Nat) (on : Bool) (rel : Nat) : State :=
  ({ s with gate := { s.gate with sched := vset s.gate.sched ch on } }).commanded ch on (rel + releaseLead ch)

/-- The edge-floor latch with its record (R402). -/
def State.edgeFloor (s : State) (h floor : Nat) : State := s.trip [h] { source := 6, kind := Flt.SLT_EDGE_FLOOR, detail := floor }

/-- The bootstrap comparator is sampled at the low-side turn-off of a refresh pulse; three failures in a row latch the half-bridge. An undervoltage met earlier in the period still gives the next period its refresh pulse (R156). -/
def State.refreshSample (s : State) (h : Nat) (bad : Bool) : State :=
  let x := s.hb h
  if !bad then s.setHb h { x with sample := false, fails := 0, bstUv := false }
  else
    let t := (s.setHb h { x with sample := false, fails := x.fails + 1 }).bstLow h
    if 3 ≤ x.fails + 1 then
      let u := (t.setHb h { t.hb h with fails := 0 }).event (F.PWM_HB_EVT_REFRFAIL h)
      u.trip [h] { source := 14, ch := some (2 * h), kind := Flt.BST_REFRESH_FAIL }
    else t

/-- A turn-off released; a turn-on of the other channel that follows it becomes pending (R274). -/
def State.offDone (s : State) (ch : Nat) (on : Bool) (rel : Nat) (bstLow : Bool) : State :=
  let h := ch / 2
  let t := s.setSched ch false rel
  let t1 := { t with gate := { t.gate with offRel := vset t.gate.offRel ch (some rel) } }
  let other := otherCh ch
  let t2 := match nextEdge other t1.bat.edges with
    | some e => if e.on && on then { t1 with gate := { t1.gate with pendOn := vset t1.gate.pendOn other (some e.release) } } else t1
    | none => t1
  if ch % 2 = 1 && (t2.hb h).sample then t2.refreshSample h bstLow else t2

/-- A turn-off edge at its release (R149): earlier than MINPFLOOR after its turn-on it is held, otherwise released. -/
def State.releaseOff (s : State) (ch rel : Nat) (bstLow : Bool) : State :=
  let on := vget s.gate.sched ch false
  let minp := s.getF (F.SLT_HB_MINPFLOOR (ch / 2))
  match vget s.gate.onRel ch [] with
  | r :: _ =>
    if on && rel < r + minp then { s with gate := { s.gate with minHold := vset s.gate.minHold ch (some (r + minp)) } }
    else s.offDone ch on rel bstLow
  | [] => s.offDone ch on rel bstLow

/-- A channel stays off until the next period start of its carrier (R283). -/
def State.barred (s : State) (ch : Nat) : Bool := if ch % 2 = 0 then (s.hb (ch / 2)).bar0 else (s.hb (ch / 2)).bar1

/-- A block has kept a channel off in the running period: off at its end too, it resumes with the next one (R283). -/
def State.bar (s : State) (ch : Nat) : State :=
  let x := s.hb (ch / 2)
  s.setHb (ch / 2) (if ch % 2 = 0 then { x with bar0 := true, endHi := false } else { x with bar1 := true, endLo := false })

/-- Every gate is blocked at once: off, with every pending turn-on cancelled, until the next period starts after the block (R20, R283, R284). -/
def State.blockAll (s : State) : State :=
  (List.range 32).foldl (fun (x : State) h => ((x.gatesOff h).bar (2 * h)).bar (2 * h + 1)) s

/-- A turn-on edge at its release (R148, R149, R278, R283, R402): blocked, cancelled with a latch, or released. -/
def State.releaseOn (s : State) (ch rel : Nat) : State :=
  let h := ch / 2
  let t := { s with gate := { s.gate with pendOn := vset s.gate.pendOn ch none } }
  if t.slateBlocks ch || t.barred ch then t.bar ch
  else if t.interlocked h && vget t.gate.sched (otherCh ch) false then
    (t.event F.GD_EVT_SHOOT).trip [h] { source := 5, kind := Flt.SHOOT_BLOCK }
  else
    let f := t.floorBroken ch rel
    if f ≠ 0 then t.edgeFloor h f
    else
      let u := t.setSched ch true rel
      { u with gate := { u.gate with onRel := vset u.gate.onRel ch (rel :: (vget u.gate.onRel ch []).take 1), clamp := vset u.gate.clamp ch false } }

/-- EDGE_RELEASE (R135, R274): the earliest scheduled edge of a channel reaches its release instant. bstLow is the bootstrap comparator at a low-side turn-off (R156). -/
def execEdgeRelease (t : Nat) (n : Fin 64) (bstLow : Bool) (s0 : State) : Out :=
  let s := s0.advance t
  match nextEdge n s.bat.edges with
  | some e =>
    if s.mainUp && e.release ≤ s.now then
      let u := { s with bat := { s.bat with edges := s.bat.edges.erase e } }
      .next (if e.on then u.releaseOn n e.release else u.releaseOff n e.release bstLow)
    else .next s
  | none => .next s

/-- The end of a minimum pulse that was held: the channel goes off, and its half-bridge latches (R149). -/
def State.holdEnds (s : State) (n d : Nat) : State :=
  let u := s.setSched n false d
  ({ u with gate := { u.gate with minHold := vset u.gate.minHold n none, offRel := vset u.gate.offRel n (some d) } }).edgeFloor (n / 2) 2

/-- MIN_PULSE_HOLD_END (R149): the Slate turns off a channel held to MINPFLOOR and latches its half-bridge. -/
def execMinPulseHoldEnd (t : Nat) (n : Fin 64) (s0 : State) : Out :=
  let s := s0.advance t
  match vget s.gate.minHold n none with
  | some d =>
    if d ≤ s.now then .next (s.holdEnds n d) else .next s
  | none => .next s

/-- MILLER_CLAMP (R267): the clamp engages once the channel is commanded off and GOFF is within 2.0 V of VN. -/
def execMillerClamp (t : Nat) (n : Fin 64) (mv : Nat) (s0 : State) : Out :=
  let s := s0.advance t
  if n.val < 32 && s.getB (F.GD_CH_DRV_MCLAMP n) && !s.gateOn n && decide (mv ≤ 2000) && decide (vget s.gate.softUntil n 0 ≤ s.now)
  then .next { s with gate := { s.gate with clamp := vset s.gate.clamp n true } } else .next s

/-- TRIP_INPUT_LOW (R275): TRIPn_N goes low and latches the half-bridges of its map. -/
def execTripInputLow (t : Nat) (n : Fin 4) (s0 : State) : Out :=
  let s := (s0.advance t).seeTrip n true
  let map := s.getF (F.GD_TRIPMAP n)
  if s.mainUp && map != 0 then .next ((s.event F.GD_EVT_EXTTRIP).trip (bitsList 32 map) { source := n, kind := Flt.GD_EXT_TRIP }) else .next s

/-- TRIP_INPUT_HIGH (R280): the cause of the external-trip latches of this input is gone; the latches stay. -/
def execTripInputHigh (t : Nat) (n : Fin 4) (s0 : State) : Out := .next ((s0.advance t).seeTrip n false)

/-- Every ASC pattern is released to all gates off (R284). (Assumption 89 DEDUCED) -/
def State.releaseAsc (s : State) : State :=
  ([0, 1].foldl (fun (x : State) st => if x.ascOn st then x.setKind st 1 else x) s).showSafe

/-- The stages that switch or stand in ASC. -/
def State.activeStages (s : State) : Nat := maskOf (below 9 fun st => s.switching st || s.ascOn st)

/-- DRVEN low: every gate is blocked and no ASC pattern applies (R284). -/
def State.drvenDrops (s : State) : State :=
  let d := s.seeDrven false
  let low := { d with gate := { d.gate with drvenLowAt := match s.gate.drvenLowAt with
    | some x => some x
    | none => some s.now } }
  low.blockAll.releaseAsc

/-- DRVEN_LOW (R284): every gate is blocked and no ASC pattern applies; with a stage switching or in ASC, GD_DRVEN_LOSS. -/
def execDrvenLow (t : Nat) (s0 : State) : Out :=
  let s := s0.advance t
  if s.mainUp && s.activeStages != 0 then .next (((s.drvenDrops.event F.GD_EVT_DRVENLOSS).raise Flt.GD_DRVEN_LOSS { stages := s.activeStages }).showModes)
  else .next s.drvenDrops

/-- The CD11 cycle of an instant (R282). -/
def State.cd11 (s : State) (t : Nat) : Nat := (t - s.pwr.slateBase) * 3 / 400

/-- A clear refused: counted, its half-bridge and source shown, recorded at most once per 100 ms (R281, R282). -/
def State.refuseClear (s : State) (ls : List Latch) : State :=
  match ls.getLast? with
  | none => s
  | some l =>
    let t := s.bumpBy F.GD_CNT_REFUSED ls.length
    let u := ((t.setF F.GD_REFUSEDSRC_HB l.hb).setF F.GD_REFUSEDSRC_SOURCE l.source).event F.GD_EVT_REFUSED
    u.raiseRate Flt.GD_CLEAR_REFUSED { item := l.hb, source := l.source } 0 (100 * ticksPerMs)

/-- DRVEN is high. -/
def State.drvenHigh (s : State) : State :=
  let t := s.seeDrven true
  { t with gate := { t.gate with drvenLowAt := none } }

/-- A DRVEN cycle long enough: every driver latch whose cause is gone clears, and the others are refused (R282). -/
def State.drvenClear (s : State) : State :=
  let here := fun (l : Latch) => s.cd11 l.setAt == s.cd11 s.now
  let active := s.gate.latches.filter fun l => l.driver && s.causeActive l
  let gone := s.gate.latches.filter fun l => l.driver && !s.causeActive l && !here l
  let kept := s.gate.latches.filter fun l => !(l.driver && !s.causeActive l && !here l)
  let high := s.drvenHigh
  let u := (({ high with gate := { high.gate with latches := kept } }).showLatches).bump F.GD_CNT_DRVCYC
  let v := gone.foldl (fun (x : State) l => x.raise Flt.GD_LATCH_CLEARED { stages := s.stageMask l.hb, item := l.hb, source := l.source }) u
  v.refuseClear active

/-- DRVEN_CYCLE (R280, R282): DRVEN rises; after at least 10 µs low, on the CD11 of a running main die, every driver latch whose cause is gone clears. -/
def execDrvenCycle (t : Nat) (s0 : State) : Out :=
  let s := s0.advance t
  match s.gate.drvenLowAt with
  | none => .next s.drvenHigh
  | some since => if s.now < since + 10 * ticksPerUs || !s.mainUp then .next s.drvenHigh else .next s.drvenClear

/-- The duration of a soft turn-off in fine ticks (R271). -/
def softTicks (v : Nat) : Nat := ([12800, 19200, 25600, 38400] : List Nat).getD v 12800

/-- A short circuit at a channel: soft turn-off, count, event and driver latch (R270, R271). -/
def State.shortCircuit (s : State) (n : Nat) : State :=
  let st := s.hbCode (n / 2) / 16
  let u := { s with gate := { s.gate with softUntil := vset s.gate.softUntil n (s.now + softTicks (s.getF (F.GD_CH_DRV_SOFT_T n))), clamp := vset s.gate.clamp n false },
                    slt := if n % 2 = 1 then { s.slt with scLow := setBitN s.slt.scLow st true } else { s.slt with scHigh := setBitN s.slt.scHigh st true } }
  let v := ((u.setB (F.GD_CH_STAT_SOFT n) true).bump (F.GD_CH_CNT_SCCNT n)).event F.GD_EVT_SC
  v.trip [n / 2] { source := 8, ch := some n, kind := Flt.GD_SHORT_CIRCUIT }

/-- The detector of a channel may still act: the channel is on, or its turn-off was released within the 150 ns of the detection (R270). -/
def State.scWatched (s : State) (n : Nat) : Bool :=
  s.gateOn n || (match vget s.gate.offRel n none with
    | some r => decide (s.now ≤ r + 960) && decide (vget s.gate.softUntil n 0 ≤ s.now)
    | none => false)

/-- GD_SHORT_CIRCUIT (R270, R271): SNS − KS of mv millivolts, seen after the blanking while the channel is on, for a turn-on that began `on` ticks ago. -/
def execGdShortCircuit (t : Nat) (n : Fin 32) (mv : Nat) (on : Nat) (s0 : State) : Out :=
  let s := s0.advance t
  let blk := 640 * (s.getF (F.GD_CH_PROT_SC_BLK n) + 1)
  let th := 100 * (s.getF (F.GD_CH_PROT_SC_TH n) + 1)
  if s.mainUp && s.getB (F.GD_CH_PROT_SC_EN n) && s.scWatched n && decide (blk ≤ on) && decide (th < mv) then .next (s.shortCircuit n)
  else .next s

/-- The soft turn-off of a channel is over: its island goes to the SNK step, and to the Miller clamp where MCLAMP is set (R271). -/
def State.softEnds (s : State) (n : Nat) : State :=
  let t := s.setB (F.GD_CH_STAT_SOFT n) false
  if t.getB (F.GD_CH_DRV_MCLAMP n) then { t with gate := { t.gate with clamp := vset t.gate.clamp n true } } else t

/-- What a driver's output does: it sources a step, sinks a step, or clamps the gate to VN. -/
inductive DriveOut
  | source (step : Nat) | sink (step : Nat) | clamp
  deriving DecidableEq, Repr

/-- The drive of a channel in force (R266, R267, R271): SRC1 for T1 × 20 ns from the turn-on, then SRC2; off, SOFTSNK during a soft turn-off, the Miller clamp once it is on, otherwise SNK. -/
def State.driveOut (s : State) (n : Nat) : DriveOut :=
  if s.gateOn n then .source (s.getF (if n < 32 ∧ s.now < vget s.gate.cmdAt n 0 + 128 * s.getF (F.GD_CH_DRV_T1 n) then F.GD_CH_DRV_SRC1 n else F.GD_CH_DRV_SRC2 n))
  else if n < 32 ∧ s.now < vget s.gate.softUntil n 0 then .sink (s.getF (F.GD_CH_DRV_SOFTSNK n))
  else if vget s.gate.clamp n false then .clamp
  else .sink (s.getF (F.GD_CH_DRV_SNK n))

/-- SOFT_TURN_OFF_END (R271, R272): SOFT_T has elapsed; the island goes to the SNK step or the clamp, and the Slate's held turn-off is released. -/
def execSoftTurnOffEnd (t : Nat) (n : Fin 32) (s0 : State) : Out :=
  let s := s0.advance t
  if s.getB (F.GD_CH_STAT_SOFT n) && decide (vget s.gate.softUntil n 0 ≤ s.now) then .next (s.softEnds n) else .next s

/-- The VP threshold in mV (Table 10.2). -/
def uvpThreshold (v : Nat) : Int := 9000 + 2000 * (v : Int)

/-- The level of an island's VP (source 9) or VN (source 10) is low. -/
def State.supplyGone (s : State) (n source : Nat) : State := if source = 9 then s.seeVp n false else s.seeVn n false

/-- An island supply enters undervoltage: the gate goes off and a driver latch sets (R268). (Assumption 88 DEDUCED) -/
def State.islandUv (s : State) (n source : Nat) (k : FaultKind) : State :=
  let h := n / 2
  let kind := s.driverClass k h
  ((s.supplyGone n source).event F.GD_EVT_ISLUV).trip [h] { source := source, ch := some n, kind := kind }

/-- An island supply enters undervoltage: its gate goes off; while the main die runs the driver latch sets and the Slate is told, while it is down only the level is kept (R27, R28, R268). -/
def State.supplyLost (s : State) (n source : Nat) (k : FaultKind) : State :=
  if s.mainUp then s.islandUv n source k else s.supplyGone n source

/-- GD_VP_UV (R268): VP − KS below its threshold for 1 µs. (Assumption 88 DEDUCED, 177 DEDUCED) -/
def execGdVpUv (t : Nat) (n : Fin 32) (mv held : Nat) (s0 : State) : Out :=
  let s := s0.advance t
  if s.islandUsed n && s.getB (F.GD_CH_STAT_VP_OK n) && decide (ticksPerUs ≤ held) && decide ((mv : Int) < uvpThreshold (s.getF (F.GD_CH_PROT_UVP n)))
  then .next (s.supplyLost n 9 Flt.GD_VP_UV) else .next s

/-- GD_VN_UV (R268): VN − KS above its threshold for 1 µs; not checked with UVN 0. (Assumption 88 DEDUCED, 177 DEDUCED) -/
def execGdVnUv (t : Nat) (n : Fin 32) (mv : Int) (held : Nat) (s0 : State) : Out :=
  let s := s0.advance t
  let uvn := s.getF (F.GD_CH_PROT_UVN n)
  if s.islandUsed n && s.getB (F.GD_CH_STAT_VN_OK n) && uvn != 0 && decide (ticksPerUs ≤ held) && decide (-1000 * (uvn : Int) < mv)
  then .next (s.supplyLost n 10 Flt.GD_VN_UV) else .next s

/-- Half-bridges latch for VDRV with a record of a class. -/
def State.vdrvTrip (s : State) (hbs : List Nat) (cls : Nat) : State := s.trip hbs { source := 13, kind := { Flt.GD_VDRV_UV with cls := cls } }

/-- VDRV undervoltage: every low-voltage channel goes off, and the half-bridges whose MODE is not 0 latch, those of a stage that switches with class A and the others with C (R268). -/
def State.vdrvLost (s : State) : State :=
  let hit := below 32 fun h => decide (16 ≤ h) && s.hbMode h != 0
  let live := fun (h : Nat) => (s.driverClass Flt.GD_VDRV_UV h).cls == 1
  let u := ((List.range 16).foldl (fun (x : State) k => x.gatesOff (16 + k)) (s.seeVdrv false)).event F.GD_EVT_VDRVUV
  if hit.isEmpty then u.raise { Flt.GD_VDRV_UV with cls := 3 } { source := 13 }
  else (u.vdrvTrip (hit.filter live) 1).vdrvTrip (hit.filter fun h => !live h) 3

/-- GD_VDRV_UV (R268): VDRV below 9.0 V for 1 µs turns off every low-voltage channel and latches the half-bridges whose MODE is not 0. (Assumption 177 DEDUCED) -/
def execGdVdrvUv (t : Nat) (mv held : Nat) (s0 : State) : Out :=
  let s := s0.advance t
  if s.getB F.GD_STAT_VDRV_OK && decide (ticksPerUs ≤ held) && decide (mv < 9000) then .next (if s.mainUp then s.vdrvLost else s.seeVdrv false) else .next s

/-- LEAVES_UNDERVOLTAGE (R268): a supply is back inside its threshold by the hysteresis for 1 µs. The latch it set stays until a DRVEN cycle. -/
def execLeavesUndervoltage (t : Nat) (supply : Supply) (mv : Int) (held : Nat) (s0 : State) : Out :=
  let s := s0.advance t
  if held < ticksPerUs then .next s
  else
    match supply with
    | .vp n => .next (if uvpThreshold (s.getF (F.GD_CH_PROT_UVP n)) + 500 ≤ mv then s.seeVp n true else s)
    | .vn n =>
      let uvn := s.getF (F.GD_CH_PROT_UVN n)
      .next (if uvn = 0 || mv ≤ -1000 * (uvn : Int) - 300 then s.seeVn n true else s)
    | .vdrv => .next (if 9500 ≤ mv then s.seeVdrv true else s)

/-- The gate monitor of a channel is not suspended by a soft turn-off (R269). -/
def State.monitorsGate (s : State) (n gmon : Nat) : Bool :=
  decide (vget s.gate.softUntil n 0 + gmon ≤ s.now) || vget s.gate.softUntil n 0 == 0

/-- A gate mismatch: count, event and driver latch (R269). -/
def State.gateMismatch (s : State) (n : Nat) : State :=
  ((s.bump (F.GD_CH_CNT_GMCNT n)).event F.GD_EVT_GMON).trip [n / 2] { source := 12, ch := some n, kind := Flt.GD_GATE_MISMATCH }

/-- The monitor of a channel reports the state it sees (R269). -/
def State.noteSeen (s : State) (n : Nat) (seen : Bool) : State :=
  { s with gate := { s.gate with seen := vset s.gate.seen n (if seen = s.gateOn n then none else some seen) } }

/-- The monitor may judge a difference: longer than GMON_T has passed since the commanded edge (R269). -/
def State.monitorDue (s : State) (n gmon held : Nat) : Bool := decide (gmon < held) || decide (vget s.gate.cmdAt n 0 + gmon < s.now)

/-- GD_GATE_MISMATCH (R269): the gate seen differs from the command for longer than GMON_T after its edge, or at any time after that; suspended while a soft turn-off runs. -/
def execGdGateMismatch (t : Nat) (n : Fin 64) (seen : Bool) (held : Nat) (s0 : State) : Out :=
  let s := s0.advance t
  let gmon := 3200 * (s.getF (F.GD_CH_DRV_GMON_T n) + 1)
  if !s.mainUp || !s.monitorsGate n gmon then .next s
  else
    let u := s.noteSeen n seen
    .next (if seen != s.gateOn n && s.monitorDue n gmon held then u.gateMismatch n else u)

/-- CD6 missing at an island marks its Gauze channel invalid (R21). -/
def State.markClock (s : State) (n : Nat) (lost : Bool) : State :=
  let t := (s.setB (F.GD_CH_STAT_CLKOK n) (!lost)).setB (F.GZ_CH_STAT_CLKLOSS (32 + n)) lost
  if lost then t.setB (F.GZ_CH_STAT_VALID (32 + n)) false else t

/-- The island clock of a channel is lost: its words are invalid, and its half-bridge latches (R21). -/
def State.clockLost (s : State) (n : Nat) : State :=
  ({ s with gate := { s.gate with clkMissing := vset s.gate.clkMissing n true } }.markClock n true).trip [n / 2]
    { source := 11, ch := some n, kind := Flt.GZ_ISLAND_CLOCK }

/-- GZ_ISLAND_CLOCK (R21): CD6 missing at an island for more than 1 µs; a length of 0 says that it is back. -/
def execGzIslandClock (t : Nat) (n : Fin 32) (missing : Nat) (s0 : State) : Out :=
  let s := s0.advance t
  if missing = 0 then
    let u := { s with gate := { s.gate with clkMissing := vset s.gate.clkMissing n false } }
    .next (if s.mainUp || s.pwr.step == 8 then u.markClock n false else u)
  else if decide (ticksPerUs < missing) && !vget s.gate.clkMissing n false then
    .next (if s.mainUp then s.clockLost n else { s with gate := { s.gate with clkMissing := vset s.gate.clkMissing n true } })
  else .next s

end Sys2Proof.Machine
end

