-- ==== Sys2Proof/Machine/Reset.lean ====
section
/-! DEFINITION. The reset of the main die (R44): what it clears and what survives it. -/

namespace Sys2Proof.Machine

open Sys2Proof

/-- Bits that a reset of the main die leaves: fields the Eave or MRAM holds (R6), and the Eave's own registers. (Assumption 13 DEDUCED) -/
def surviveMask (a : Nat) : Nat := if a / 65536 = 0xB then 0xFFFFFFFF else heldMask a

/-- The register words after a reset of the main die. -/
def surviveRegs (rs : List (Nat × Word)) : List (Nat × Word) :=
  rs.filterMap fun (a, w) =>
    let v := overlay (resetWord a) (surviveMask a) w.toNat
    if v = resetWord a then none else some (a, v)

/-- Fault records that had reached MRAM: those still in the queue are lost with it (R54, R384). -/
def FaultLog.written (l : FaultLog) : List FaultRec :=
  l.recs.filter fun r => !(l.queue.any fun q => q.kind == 0 && q.key == r.serial)

/-- The log after a reset of the main die: the records stay, those in the MRAM queue with them, since only a hand-over discards it, and class A events still in the FIFO are written by the next boot (R44, R384). (Assumption 13 DEDUCED) -/
def FaultLog.afterReset (l : FaultLog) : FaultLog :=
  { recs := l.recs, gone := l.gone, serial := l.serial, bootRecs := l.bootRecs ++ l.fifo, last := l.last }

/-- A retirement that had not reached MRAM is undone with the queue (R54, R384). -/
def State.unretire (s : State) (key : Nat) : State :=
  if key < 2 then { s with trc := { s.trc with retired := setBitN s.trc.retired key false, retireDue := setBitN s.trc.retireDue key false } }
  else if key < 32 then { s with thm := { s.thm with buckRetired := setBitN s.thm.buckRetired (key - 16) false, buckDue := setBitN s.thm.buckDue (key - 16) false } }
  else if key < 48 then { s with thm := { s.thm with chopRetired := setBitN s.thm.chopRetired (key - 32) false } }
  else { s with thm := { s.thm with dcxRetired := false } }

/-- A firmware slot whose last chunks waited in the queue is empty without them (R384, R481). (Assumption 227 DEDUCED) -/
def State.loseChunk (s : State) (target : Nat) : State :=
  { s with idn := { s.idn with fw := vset s.idn.fw (2 * target + 1 - s.getF (F.IDN_FWSTAT_BOOTED target)) none } }

/-- The hand-over discards the MRAM queue: its records are gone, the newest index shown returns to the newest record written, its retirements are undone, and a firmware slot that it was to fill is empty (R54, R384). -/
def State.loseQueue (s : State) : State :=
  let s := ((s.log.queue.filter fun q => q.kind == 3).map fun q => q.key).foldl (fun (x : State) k => x.loseChunk k) s
  let t := ((s.log.queue.filter fun q => q.kind == 2).map fun q => q.key).foldl (fun (x : State) k => x.unretire k) s
  let u := { t with log := { t.log with recs := s.log.written, queue := [] } }
  if s.log.queue.isEmpty then s else u.setF F.SLT_LOGIDX_NEWEST (match s.log.written with
    | r :: _ => r.idx
    | [] => 0xFFFF)

/-- The accounts in MRAM once the wear saves of the queue have been written. -/
def State.savedAfter (s : State) : Vector Rat 64 × Vector Nat 64 :=
  (s.log.queue.filter fun i => i.kind == 1).foldl (fun (a : Vector Rat 64 × Vector Nat 64) i =>
    (vset a.1 i.key (vget s.thm.life i.key 0), vset a.2 i.key (s.getF (F.THM_CYC i.key)))) (s.thm.saved, s.thm.savedCyc)

/-- A reset of the main die (R44): every register returns to its Reset column and every unit to its idle state; driver latches, the Eave, the Ridge, what MRAM holds and the lockout survive. The wear account is persistent (R6, R387). (Assumption 13 DEDUCED, 26 DEDUCED, 165 DEDUCED) -/
def State.mainReset (s : State) : State :=
  let t : State :=
    { State.reset with
      now := s.now
      regs := surviveRegs s.regs
      com := { authFails := s.com.authFails, lockoutUntil := s.com.lockoutUntil, lastContact := s.com.lastContact, lastHeartbeat := s.com.lastHeartbeat, hostAt := s.com.hostAt, sent := s.com.sent }
      pwr := { s.pwr with boot := none, step := 0, inReset := false, safeFrom := 0, sleep := none, activateAt := none }
      log := s.log.afterReset
      gate := { levels := s.gate.levels, bucket := State.reset.gate.bucket, latches := s.gate.latches.filter fun l => l.driver, drvenLowAt := s.gate.drvenLowAt, clkMissing := s.gate.clkMissing }
      idn := { fw := s.idn.fw, slots := s.idn.slots, imgActive := s.idn.imgActive }
      thm := { life := s.thm.life, saved := s.savedAfter.1, savedCyc := s.savedAfter.2, eosDone := s.thm.eosDone, chopRetired := s.thm.chopRetired, buckRetired := s.thm.buckRetired, buckDue := s.thm.buckDue, dcxRetired := s.thm.dcxRetired, dirty := s.thm.dirty }
      trc := { retired := s.trc.retired, retireDue := s.trc.retireDue }
      rdg := s.rdg
      free := s.free
      pending := s.pending }
  t.showLatches

/-- What has accrued since the last save is lost with the supply: the wear account returns to MRAM's (R387). (Assumption 165 DEDUCED) -/
def State.loseUnsaved (s : State) : State :=
  let t := { s with thm := { s.thm with life := s.thm.saved, dirty := [] } }
  (List.range 64).foldl (fun (x : State) c => (x.setQ (F.THM_LIFE c) (vget s.thm.saved c 0)).setF (F.THM_CYC c) (vget s.thm.savedCyc c 0)) t

/-- The main die held in reset, with the REASON that its next boot will show. (Assumption 236 DESIGN CHOICE) -/
def State.holdReset (s : State) (reason : Nat) : State :=
  let t := s.mainReset
  { t with pwr := { t.pwr with inReset := true, bootReason := reason } }

/-- A reset whose release follows at once: the boot begins (R44). -/
def State.resetAndBoot (s : State) (reason : Nat) : State :=
  let t := s.mainReset
  { t with pwr := { t.pwr with boot := some s.now, bootReason := reason } }

end Sys2Proof.Machine
end

