-- ==== Sys2Proof/Machine/Slate.lean ====
section
/-! DEFINITION. The Slate and the safety processor (R394 to R413): mutual checks, COMP trips, the chopper bucket, class B transitions, holds and their release. -/

namespace Sys2Proof.Machine

open Sys2Proof

/-- The stages that the Slate takes over when it acts alone: every one but the brake chopper (R398). (Assumption 91 DEDUCED, 116 DEDUCED, 201 DEDUCED) -/
def slateStages : Nat := 0x1FB

/-- The Slate acts alone on stages (R398): a traction set takes the class A row of Table 9.8 with its 10 ms window from now, an ASC that is applied stays; every other stage has all gates off; the brake chopper is left alone and its transition ends (R408). -/
def State.slateAlone (s : State) (stages : Nat) : State :=
  (bitsList 9 stages).foldl (fun (t : State) st =>
    if st = 2 then { t with slt := { t.slt with timer := vset t.slt.timer st none } }
    else if (t.hbsOf st).isEmpty then t
    else
      let u := { t with slt := { t.slt with classA := setBitN t.slt.classA st true, classAAt := vset t.slt.classAAt st t.now, timer := vset t.slt.timer st none } }
      u.applySafe st 1) s

/-- The SP is lost: SP_LOST sets, the fault is recorded, and the Slate holds every stage alone from the first such fault on (R397). (Assumption 116 DEDUCED) -/
def State.spLost (s : State) (k : FaultKind) (ev : Option Fld) : State :=
  let a := match ev with
    | some f => s.event f
    | none => s
  let b := (a.setB F.SLT_STAT_SP_LOST true).raise { k with cls := 2 } { stages := slateStages }
  if s.getB F.SLT_STAT_SP_LOST then b else b.slateAlone slateStages

/-- A cause that loses the SP, recorded once until SP_LOST clears: 0 a missed answer, 1 the lockstep comparator (R397). -/
def State.loseSp (s : State) (cause : Nat) (k : FaultKind) (ev : Fld) : State :=
  if bitAt s.slt.lostBy cause then s
  else ({ s with slt := { s.slt with lostBy := setBitN s.slt.lostBy cause true } }).spLost k (some ev)

/-- Edges of a clock that 1,024 CD11 cycles hold, times 48 (R20). -/
def clkNominal : SltClock → Nat
  | .cd3 => 1024 * 400
  | .cd5 => 1024 * 200
  | .cd6 => 1024 * 20

/-- A clock is missing for 8 CD11 cycles, or its count over 1,024 of them is more than 3 % off (R20). -/
def clockBad (clk : SltClock) (missing count : Nat) : Bool :=
  let d : Int := (count * 48 : Nat) - (clkNominal clk : Int)
  decide (8 ≤ missing) || decide (3 * clkNominal clk < 100 * d.natAbs)

/-- The clock checks act from step 2 of the boot on (R129). -/
def State.clocksWatched (s : State) : Bool := s.mainUp || (s.pwr.boot.isSome && decide (2 ≤ s.pwr.step) && !s.pwr.inReset)

/-- SLT_CLOCK_LOSS (R20, Table 1.10): CD5 or CD6 turns every gate off, an ASC pattern included, and is class A on every stage; CD3 loses the SP. A count back in its window ends the condition. (Assumption 116 DEDUCED) -/
def execSltClockLoss (t : Nat) (clk : SltClock) (missing count : Nat) (s0 : State) : Out :=
  let s := s0.advance t
  if !s.clocksWatched then .next s
  else if !clockBad clk missing count then .next { s with slt := { s.slt with clkLost := s.slt.clkLost.filter fun c => c != clk } }
  else if s.slt.clkLost.contains clk then .next s
  else
    let u := { s with slt := { s.slt with clkLost := clk :: s.slt.clkLost } }
    match clk with
    | .cd3 => .next (u.spLost Flt.SLT_CLOCK_LOSS none)
    | _ => .next ((u.blockAll.releaseAsc).raise Flt.SLT_CLOCK_LOSS { stages := 0x1FF }).showModes

/-- A miss (R397): counted; the first one is recorded and loses the SP. -/
def State.qaMiss (s : State) : State :=
  let a := ({ s with slt := { s.slt with judged := true } }.setB F.SLT_STAT_QA_OK false).bump F.SLT_QA_MISSES
  a.loseSp 0 Flt.SLT_QA_MISS F.SLT_EVT_QAMISS

/-- A question is open and its answer not judged. -/
def State.qaOpen (s : State) : Bool := s.slt.questionAt != 0 && !s.slt.judged

/-- SLT_QUESTION (R396): every 48,000 CD11 cycles a question is posted; one left without its answer is a miss. (Assumption 141 DEDUCED) -/
def execSltQuestion (t : Nat) (s0 : State) : Out :=
  let s := s0.advance t
  if s.mainUp && (s.slt.questionAt == 0 || s.elapsed s.slt.questionAt ticksPerMs) then
    let a := if s.qaOpen then s.qaMiss else s
    let (w, b) := a.draw
    .next ({ b with slt := { b.slt with question := BitVec.ofNat 16 w.toNat, questionAt := b.now, words := 0, judged := false } }.wrap F.SLT_QA_QUESTIONS)
  else .next s

/-- SP_ANSWER_WORD (R396): the words must be right and in order, and the last must arrive from 250 µs to 900 µs after the question; anything else is a miss, a fifth word after a good answer too. (Assumption 212 DEDUCED) -/
def execSpAnswerWord (t : Nat) (word : BitVec 16) (s0 : State) : Out :=
  let s := s0.advance t
  if !s.mainUp || s.slt.questionAt = 0 then .next s
  else
    let n := s.slt.words
    let age := s.now - s.slt.questionAt
    if 4 ≤ n then .next (if s.getB F.SLT_STAT_QA_OK then s.qaMiss else s)
    else if s.slt.judged then .next s
    else if word ≠ Config.answerWord s.slt.question n then .next s.qaMiss
    else
      let u := { s with slt := { s.slt with words := n + 1 } }
      if n < 3 then .next u
      else if 250 * ticksPerUs ≤ age && age ≤ 900 * ticksPerUs then .next ({ u with slt := { u.slt with judged := true } }.setB F.SLT_STAT_QA_OK true)
      else .next u.qaMiss

/-- SLT_QA_MISS (R397): no complete answer within 900 µs of the question. -/
def execSltQaMiss (t : Nat) (s0 : State) : Out :=
  let s := s0.advance t
  if s.mainUp && s.qaOpen && decide (s.slt.questionAt + 900 * ticksPerUs < s.now) then .next s.qaMiss else .next s

/-- SP_LOCKSTEP (R395, R397): the lockstep comparator reports a mismatch. -/
def execSpLockstep (t : Nat) (s0 : State) : Out :=
  let s := s0.advance t
  if s.mainUp then .next (s.loseSp 1 Flt.SP_LOCKSTEP F.SLT_EVT_LOCKSTEP) else .next s

/-- The word that layers 1 and 2 give a register: its Reset column under the image that the last boot applied (R123). -/
def State.layerWord (s : State) (a : Nat) : Word :=
  match s.idn.booted with
  | none => resetWord a
  | some i => i.fields.foldl (fun w f => if f.1 = a then overlay w f.2.1 f.2.2 else w) (resetWord a)

/-- A field at least as high, at least as low, equal, or with bits only added, as Table 15.2 allows a limit to change. -/
inductive Bound
  | raise | lower | same | bits
  deriving DecidableEq

/-- Whether a new value is equal to the image's or on its safe side; a threshold is compared in its channel's coding. -/
def Bound.ok (b : Bound) (old new : Int) : Bool :=
  match b with
  | .raise => decide (old ≤ new)
  | .lower => decide (new ≤ old)
  | .same => old == new
  | .bits => (bitsList 32 old.toNat).all fun n => bitAt new.toNat n

/-- The limit fields of a register word with the direction in which each may move (Table 15.2). (Assumption 115 DEDUCED) -/
def limitFields (a : Nat) : List (Nat × Nat × Bound) :=
  if 0xA0020 ≤ a && a < 0xA0030 then [(8, 0, .bits), (9, 9, .bits)]
  else if a = 0xA0100 || a = 0xA0104 || a = 0xA0108 then [(15, 0, .lower), (31, 16, .lower)]
  else if a = 0xA010C || a = 0xA0110 then [(31, 0, .same)]
  else if 0xA1000 ≤ a && a < 0xA1100 then (if a % 8 = 0 then [(15, 0, .raise), (31, 16, .raise)] else [(15, 0, .lower)])
  else if 0xA2000 ≤ a && a < 0xA2200 then
    if a % 16 = 0 then [(6, 0, .same), (7, 7, .bits), (8, 8, .bits), (9, 9, .bits)]
    else if a % 16 = 4 then [(23, 0, .lower)]
    else if a % 16 = 8 then [(23, 0, .raise)]
    else [(31, 0, .bits)]
  else if 0x40020 ≤ a && a < 0x40030 then [(31, 0, .bits)]
  else []

/-- A limit word is one that R400 governs. -/
def isLimit (a : Nat) : Bool := !(limitFields a).isEmpty

/-- A word leaves every limit field equal to the image's or more conservative (R400), and every FSWMAX of a used half-bridge at 4 or above (R401). (Assumption 41 DEDUCED) -/
def State.limitOk (s : State) (a : Nat) (w : Word) : Bool :=
  let img := s.layerWord a
  let coded := fun (v : Nat) =>
    if 0xA2000 ≤ a && a < 0xA2200 && (a % 16 = 4 || a % 16 = 8) then s.gzValue ((F.SLT_TRIP_CH ((a - 0xA2000) / 16)).of (s.getW (a / 16 * 16))) v else (v : Int)
  ((limitFields a).all fun f => f.2.2.ok (coded (bitsOf img.toNat f.1 f.2.1)) (coded (bitsOf w.toNat f.1 f.2.1))) &&
    (!(0xA1000 ≤ a && a < 0xA1100 && a % 8 = 4 && s.hbUsed ((a - 0xA1000) / 8)) || decide (4 ≤ bitsOf w.toNat 15 0))

/-- The addresses of the limit store in the order of SLT_LIMCRC (R400). (Assumption 115 DEDUCED) -/
def limitStore : List Nat :=
  ((List.range 4).map fun k => 0xA0020 + 4 * k) ++ ((List.range 5).map fun k => 0xA0100 + 4 * k) ++ ((List.range 64).map fun k => 0xA1000 + 4 * k) ++
    ((List.range 128).map fun k => 0xA2000 + 4 * k) ++ ((List.range 4).map fun k => 0x40020 + 4 * k)

/-- The CRC-32C of the limit store (R400). (Assumption 115 DEDUCED) -/
def State.limitCrc (s : State) : Nat := crc32c (limitStore.flatMap fun a => beBytes 4 (s.getW a).toNat)

/-- The store passes the SP's check against the image (R400). -/
def State.storeOk (s : State) : Bool := limitStore.all fun a => s.limitOk a (s.getW a)

/-- The limit store is found corrupt (R395): recorded once, until a check passes. -/
def State.limitsFail (s : State) : State :=
  if s.slt.limitsBad then s
  else (({ s with slt := { s.slt with limitsBad := true } }).event F.SLT_EVT_LIMIT).raise Flt.SLT_LIMIT_CORRUPT { stages := slateStages }

/-- SLT_LIMIT_CORRUPT (R395): the store fails its parity, or the SP's check of it against the image; a check that passes ends the condition. -/
def execSltLimitCorrupt (t : Nat) (parity : Bool) (s0 : State) : Out :=
  let s := s0.advance t
  if !s.mainUp then .next s
  else if parity || !s.storeOk then .next s.limitsFail
  else .next { s with slt := { s.slt with limitsBad := false } }

/-- CD11 more than 5 % off over 10 ms, given in units of 0.1 %, against the Slate's reference (Table 15.1). -/
def State.checkDrift (s : State) (dev : Int) (held : Nat) : State :=
  let drift := decide (50 < dev.natAbs)
  if drift && !s.slt.cd11Bad && decide (10 * ticksPerMs ≤ held) then ({ s with slt := { s.slt with cd11Bad := true } }).raise Flt.SLT_CD11_DRIFT { stages := slateStages }
  else if drift then s else { s with slt := { s.slt with cd11Bad := false } }

/-- Gate paths of stages that newly disagree with the Slate (Table 15.1). -/
def State.checkGates (s : State) (gateBad : Nat) : State :=
  let new := maskOf (below 9 fun st => bitAt gateBad st && !bitAt s.slt.gateBad st)
  let b := { s with slt := { s.slt with gateBad := gateBad } }
  if new = 0 then b else b.raise Flt.SLT_GATE_PATH { stages := new }

/-- Torque of a set above TLIM_eff by more than 10 % of TMAX for 20 ms (Table 15.1). -/
def State.checkTorque (s : State) (torqueA torqueB : Rat) (held : Nat) : State :=
  let limit := s.getQ F.TRC_TLIM + s.getQ F.TRC_TMAX / 10
  let above := fun (q : Rat) => decide (limit < absRat q) && decide (20 * ticksPerMs ≤ held)
  let now := (if above torqueA then 1 else 0) + (if above torqueB then 2 else 0)
  let fresh := maskOf (below 2 fun k => bitAt now k && !bitAt s.slt.torqueBad k)
  let d := { s with slt := { s.slt with torqueBad := now } }
  if fresh = 0 then d else d.raise Flt.SP_TORQUE_IMPLAUSIBLE { stages := fresh }

/-- SP_PERIODIC_CHECK (Table 15.1): the SP's periodic checks of clock, gate paths and torque. -/
def execSpPeriodicCheck (t : Nat) (cd11Dev : Int) (gateBad : BitVec 9) (torqueA torqueB : Rat) (held : Nat) (s0 : State) : Out :=
  let s := s0.advance t
  if !s.mainUp || s.getB F.SLT_STAT_SP_LOST then .next s
  else .next (((s.checkDrift cd11Dev held).checkGates gateBad.toNat).checkTorque torqueA torqueB held)

/-- A class B fault whose source stands in the left column of Table 9.9: a slot or memory fault of LE0 or LE1 (R259). -/
def Cond.oneSet (c : Cond) : Bool :=
  (c.code == Flt.LE_LATE10.code || c.code == Flt.LE_HUNG.code || c.code == Flt.LE_MEM_ERR.code) && decide (c.item ≤ 1)

/-- A fault that belongs to the whole drive has taken a set to its safe state (R259). -/
def State.driveFault (s : State) (k : Nat) : Bool := bitAt s.slt.driveA k || s.slt.conds.any fun c => bitAt c.stages k && !c.oneSet

/-- What becomes of set 1 - k when set k is lost (R260): its own safe state where HALFAXLE_EN is 0 or the fault belongs to the drive; half-axle operation where it switches and is free of faults. (Assumption 142 DEDUCED) -/
def State.loseSet (s : State) (k : Nat) (drive : Bool) : State :=
  let o := 1 - k
  if drive || !s.getB F.TRC_CFG_HALFAXLE_EN then s.applySafe o (s.bChoice o)
  else if s.switching o && (vget s.slt.timer o none).isNone && !s.getB F.TRC_STAT_HALFAXLE then
    ((s.setB F.TRC_STAT_HALFAXLE true).event F.TRC_EVT_HALFAXLE).raise Flt.TRC_HALF_AXLE { stages := 2 ^ k }
  else s

/-- A set is in use and not retired (R226, R262). -/
def State.setUsed (s : State) (k : Nat) : Bool := bitAt s.setsInUse k && !bitAt s.trc.retired k

/-- What SAFE_STATE_REQUEST leaves of a traction set's partner (R260, R261); TRC_BOTH_SETS_LOST where the set was the remaining one. -/
def State.partner (s : State) (k : Nat) : State :=
  let o := 1 - k
  if s.held 0 && s.held 1 then
    if s.getB F.TRC_STAT_HALFAXLE then (s.setB F.TRC_STAT_HALFAXLE false).raise Flt.TRC_BOTH_SETS_LOST { stages := 3 } else s
  else if !s.setUsed o || s.held o then
    if s.getB F.TRC_STAT_HALFAXLE && bitAt s.trc.sets k then (s.setB F.TRC_STAT_HALFAXLE false).raise Flt.TRC_BOTH_SETS_LOST { stages := 2 ^ k } else s
  else s.loseSet k (s.driveFault k)

/-- SAFE_STATE_REQUEST (R394, R256, R257): the SP asks for the safe state of a stage. The Slate only ever takes a stage towards a safe state; a lost SP is ignored. -/
def execSafeStateRequest (t : Nat) (stage : Fin 9) (s0 : State) : Out :=
  let s := s0.advance t
  if !s.mainUp || s.getB F.SLT_STAT_SP_LOST || (s.hbsOf stage).isEmpty then .next s
  else
    let k := if bitAt s.slt.classA stage then 1 else s.bChoice stage
    let u := (s.applySafe stage k).showModes
    .next (if stage.val ≤ 1 then (u.partner stage).showModes else u)

/-- SAFE_STATE_CONFIRM (R408): the SP confirms that stages have reached their safe state; their 10 ms timers end. -/
def execSafeStateConfirm (t : Nat) (stages : BitVec 9) (s0 : State) : Out :=
  let s := s0.advance t
  if s.getB F.SLT_STAT_SP_LOST then .next s
  else
    .next ((bitsList 9 stages.toNat).foldl (fun (x : State) st =>
      if x.held st then { x with slt := { x.slt with timer := vset x.slt.timer st none, want := vset x.slt.want st 0 } } else x) s)

/-- The stages whose 10 ms timer has run out. -/
def State.overdue (s : State) : Nat := maskOf (below 9 fun st => match vget s.slt.timer st none with
  | some d => decide (d ≤ s.now)
  | none => false)

/-- SLT_B_OVERRUN (R408): a class B transition unconfirmed after 10 ms; the Slate applies R398 to its stages. -/
def execSltBOverrun (t : Nat) (s0 : State) : Out :=
  let s := s0.advance t
  if s.mainUp && s.overdue != 0 then
    let u := (s.event F.SLT_EVT_OVERRUN).raise Flt.SLT_B_OVERRUN { stages := s.overdue }
    .next (u.slateAlone s.overdue).showModes
  else .next s

/-- SP_ASC_RELEASE (R258): with E at or below 0.8 × VDC for 1 s the SP lets a class B ASC go to all off, where the set has no short-circuit record. -/
def execSpAscRelease (t : Nat) (setB : Bool) (s0 : State) : Out :=
  let s := s0.advance t
  let st := if setB then 1 else 0
  let long := match s.slt.lowEmfSince with
    | some x => s.elapsed x ticksPerS
    | none => false
  if s.mainUp && !s.getB F.SLT_STAT_SP_LOST && s.ascOn st && !bitAt s.slt.classA st && !bitAt s.slt.scLow st && !bitAt s.slt.scHigh st && long
  then .next (s.setKind st 1).showSafe else .next s

/-- An unacknowledged record of class A or B (Table 15.4, R413). -/
def State.unacked (s : State) (p : FaultRec → Bool) : Bool :=
  (s.log.recs ++ s.log.gone ++ s.log.fifo ++ s.log.bootRecs).any fun r => !r.acked && decide (r.cls ≤ 2) && p r

/-- The safety-input pair with both channels high (R421). -/
def State.pairSafe (s : State) (p : Nat) : Bool :=
  let x := vget s.slt.sin p {}
  x.a.deb && x.b.deb

/-- A pair's wiring fault is gone (R423). -/
def State.pairSound (s : State) (p : Nat) : Bool := (vget s.slt.sin p {}).kind == 0

/-- The channels of the used switches of a stage. -/
def State.stageChs (s : State) (st : Nat) : List Nat := below 64 fun c => s.chCode c / 16 == st

/-- The condition of a class B fault is gone (R494, Table 15.15). -/
def State.condGone (s : State) (st : Nat) (c : Cond) : Bool :=
  if c.code = Flt.VSUP_LOW.code then (match s.pwr.vsupHighAt with
    | some x => s.elapsed x (10 * ticksPerMs)
    | none => false)
  else if c.code = Flt.GZ_REF_FAULT.code then bitAt (s.getF F.GZ_STAT_REF_OK) c.item
  else if c.code = Flt.LE_FF_VIN.code then !(s.eng c.item).ffStopped
  else if c.code = Flt.TRC_ROTOR_LOST.code then s.getB F.TRC_STAT_RES_OK
  else if c.code = Flt.TRC_OVERSPEED.code then decide (absRat (s.getQ F.TRC_SPEED) ≤ s.getQ F.TRC_OVERSPEED)
  else if c.code = Flt.AUX_BELOW_MIN.code then decide (3 ≤ (bitsList 8 (s.getF F.AUX_STAT_AVAIL)).length)
  else if c.code = Flt.AUX_VOUT_HIGH.code then decide ((s.fastValue 12 : Rat) * s.getQ F.AUX_VSCALE ≤ s.getQ F.AUX_VSET * (23 / 20))
  else if c.code = Flt.THM_OVERTEMP.code then (s.stageChs st).all fun ch => decide (s.getQ (F.THM_TJ ch) < s.getQ (F.THM_STG_TJLIM_EFF st))
  else if c.code = Flt.THM_NTC_OVER.code then decide ((vget s.thm.ntc c.item {}).last ≤ (s.getF F.THM_NTCCFG_NTCMAX : Rat))
  else if c.code = Flt.SLT_CD11_DRIFT.code then !s.slt.cd11Bad
  else if c.code = Flt.SLT_LIMIT_CORRUPT.code then !s.slt.limitsBad
  else if c.code = Flt.SIN_TORQUE_OFF.code || c.code = Flt.SIN_SERVICE_OPEN.code then s.pairSafe c.item && s.pairSound c.item
  else if Flt.CROSS_SHORT.code ≤ c.code && c.code ≤ Flt.CHATTER.code then s.pairSound c.item
  else if c.code = Flt.TPS_OVERLOAD.code then [0, 1, 2, 3].all fun p => s.pairSound p
  else if c.code = Flt.SLT_QA_MISS.code || c.code = Flt.SP_LOCKSTEP.code || c.code = Flt.SLT_CLOCK_LOSS.code then false
  else !(s.unacked (fun r => r.serial == c.serial))

/-- A stage's hold may end (R412). -/
def State.mayRelease (s : State) (st : Nat) : Bool :=
  let low := match s.slt.lowEmfSince with
    | some x => s.elapsed x ticksPerS
    | none => false
  s.held st && !s.getB F.SLT_STAT_SP_LOST && !s.stageLatched st && (vget s.slt.timer st none).isNone && (!s.ascOn st || low) &&
    !(s.unacked (fun r => bitAt r.stages st)) && ((s.slt.conds.filter fun c => bitAt c.stages st).all fun c => s.condGone st c)

/-- The power state once no stage is held (R412). (Assumption 120 DEDUCED) -/
def State.leaveSafe (s : State) : State :=
  if s.power = pSAFE && (below 9 fun st => s.held st).isEmpty && !s.getB F.SLT_STAT_SP_LOST then
    if s.pwr.safeFrom = pSTANDBY then s.toPower pSTANDBY 0x08
    else s.toPower (if s.anySwitching then pRUN else pARMED) 0x08
  else s

/-- The hold of a stage ends: all gates off, MODE 0; a set switches again only after DRIVE_ARM, and a drive in DSTATE 8 without a held set is in DSTATE 0 (R258, R412). (Assumption 241 DEDUCED) -/
def State.endHold (s : State) (st : Nat) : State :=
  let z := s.setKind st 0
  let a := { z with slt := { z.slt with classA := setBitN z.slt.classA st false, want := vset z.slt.want st 0, driveA := setBitN z.slt.driveA st false,
                                        conds := (z.slt.conds.map fun c : Cond => { c with stages := setBitN c.stages st false }).filter fun c : Cond => c.stages != 0 } }
  let b := a.showSafe
  if 1 < st then b
  else if b.getF F.TRC_STAT_DSTATE = 8 then (if b.held 0 || b.held 1 then b else { b.setF F.TRC_STAT_DSTATE 0 with trc := { b.trc with sets := 0 } })
  else { b with trc := { b.trc with sets := setBitN b.trc.sets st false } }

/-- SP_HOLD_RELEASE (R412): the SP releases the hold of a stage; with the last one the power state leaves SAFE. -/
def execSpHoldRelease (t : Nat) (stage : Fin 9) (s0 : State) : Out :=
  let s := s0.advance t
  if s.mainUp && s.mayRelease stage then .next (s.endHold stage).leaveSafe else .next s

/-- SLT_SELFTEST_DUE (R407): more than 24 h in ARMED, RUN or SAFE. (Assumption 119 DEDUCED) -/
def execSltSelftestDue (t : Nat) (s0 : State) : Out :=
  let s := s0.advance t
  if s.mainUp && pARMED ≤ s.power && s.power ≤ pSAFE && s.elapsed s.slt.armedAt (24 * 3600 * (s.slt.dueCount + 1) * ticksPerS) then
    .next (({ s with slt := { s.slt with dueCount := s.slt.dueCount + 1 } }).raise Flt.SLT_SELFTEST_DUE {})
  else .next s

/-- SAFE_STATUS (R416): SLT_STAT, GD_SLATCH, GD_DLATCH, SLT_SIN. -/
def execSafeStatus (r : Req) (s : State) : Out :=
  serveOp { code := 0x0900 } r (fun _ s =>
    okWith ([F.SLT_STAT_HELD.addr, F.GD_SLATCH.addr, F.GD_DLATCH.addr, F.SLT_SIN.addr].flatMap fun a => beBytes 4 (s.getW a).toNat) s) s

/-- A code lies beyond a trip entry's enabled thresholds (R403). -/
def State.beyondEntry (s : State) (k ch code : Nat) : Bool :=
  let v := s.gzValue ch code
  (s.getB (F.SLT_TRIP_HIEN k) && decide (s.gzValue ch (s.getF (F.SLT_TRIP_HI k)) < v)) ||
    (s.getB (F.SLT_TRIP_LOEN k) && decide (v < s.gzValue ch (s.getF (F.SLT_TRIP_LO k))))

/-- A COMP-trip entry whose code lies beyond its threshold sets its latches (R403). -/
def State.latchEntry (s : State) (ch code k : Nat) : State :=
  let u := s.event F.GD_EVT_COMPTRIP
  let detail := ch * 2 ^ 56 + code * 2 ^ 32
  let hbs := bitsList 32 (s.getF (F.SLT_TRIP_HBMASK k))
  if hbs.isEmpty then u.raise Flt.SLT_COMP_TRIP { item := k, source := 4, detail := detail }
  else u.trip hbs { source := 4, entry := k, kind := Flt.SLT_COMP_TRIP, item := some k, detail := detail }

/-- One trip entry against a COMP word of its channel: a code that goes beyond sets the COMP-trip latches (R403). Before a boot reaches STANDBY the code is noted alone (R129). (Assumption 87 DEDUCED) -/
def State.tripEntry (s : State) (ch code k : Nat) : State :=
  if !s.getB (F.SLT_TRIP_EN k) || s.getF (F.SLT_TRIP_CH k) != ch then s
  else if s.beyondEntry k ch code then
    if s.slt.beyond.contains k then s
    else
      let u := { s with slt := { s.slt with beyond := k :: s.slt.beyond } }
      if s.pwr.boot.isSome then u else u.latchEntry ch code k
  else { s with slt := { s.slt with beyond := s.slt.beyond.filter fun x => x != k } }

/-- The half-bridges of the DC-link overvoltage latch: the traction sets, the DAB and the DCX primary (R287). -/
def State.ovHbs (s : State) : List Nat := below 32 fun h =>
  let c := s.hbCode h
  c / 16 == 0 || c / 16 == 1 || c / 16 == 4 || c == 0x50 || c == 0x51

/-- A COMP word of VDC: the overvoltage latch, and the ASC of a set under the class A row within its 10 ms (R287, Table 9.8). -/
def State.compVdc (s : State) (code : Nat) : State :=
  let v : Rat := (s.gzValue s.gzVdc code : Rat) * s.getQ F.SLT_VSCALE
  let trip : Rat := (s.getF F.SLT_OV_OV_TRIP : Rat)
  let a := s.setB F.GD_STAT_OV (decide (trip - 20 < v))
  let b := if trip < v && !(a.gate.latches.any fun l => l.source == 7) then
      (a.event F.GD_EVT_DCOV).trip a.ovHbs { source := 7, kind := Flt.GD_DC_OV } else a
  if (s.getF F.SLT_OV_OV_ASC : Rat) < v then
    [0, 1].foldl (fun (x : State) st =>
      if bitAt x.slt.classA st && x.held st && decide (x.now ≤ vget x.slt.classAAt st 0 + 10 * ticksPerMs) && !x.ascOn st && x.ascChoice st ≥ 2 && x.getB F.GD_STAT_DRVEN
      then x.applySafe st (x.ascChoice st) else x) b
  else b

/-- The energy bucket of the chopper at a COMP word of IBRK (R289). -/
def State.compBrake (s : State) (code : Nat) : State :=
  let vdc : Rat := (s.compValue s.gzVdc : Rat) * s.getQ F.SLT_VSCALE
  let i := maxRat ((s.gzValue s.gzBrk code : Rat) * s.getQ F.SLT_ISCALE) 0
  let pcont : Rat := (s.getF F.SLT_BUDGET_CHOP_PCONT : Rat) * 100
  let budget : Rat := (s.getF F.SLT_BUDGET_CHOP_BUDGET : Rat) * 1000
  let e := maxRat (s.gate.bucket + (vdc * i - pcont) * (4 / 10000000)) 0
  let up := s.gate.chopBlock || decide (budget ≤ e)
  let block := up && !decide (e ≤ budget / 2)
  let a := { s with gate := { s.gate with bucket := e, chopBlock := block } }
  let b := (a.setF F.GD_CHOP_BUCKET (min 65535 (floorNat (e * 65535 / budget)))).setB F.GD_STAT_CHOP_BLOCK block
  if block && !s.gate.chopBlock then
    let c := s.chopperChs.foldl (fun (x : State) ch => (x.chOff ch).bar ch) b
    ((c.bump F.GD_CHOP_BLOCKS).event F.GD_EVT_CHOPFULL).raise Flt.GD_CHOP_FULL { stages := 4 }
  else b

/-- In-line currents of a traction set within 5 % of nominal full scale (R425). -/
def State.compCurrent (s : State) (ch code : Nat) : State :=
  let k := if (s.gzPhases 0).contains ch then 0 else 1
  let small := decide (20 * (s.gzValue ch code).natAbs ≤ (s.fullScale ch).natAbs)
  let since := if small then (match vget s.slt.lowCurrentSince k none with
    | some x => some x
    | none => some s.now) else none
  { s with slt := { s.slt with lowCurrentSince := vset s.slt.lowCurrentSince k since } }

/-- A COMP word reaches the Slate, which in a boot notes alone what lies beyond a threshold (R129, R287, R289, R403, R425). (Assumption 68 DEDUCED) -/
def State.slateComp (s : State) (ch code : Nat) : State :=
  let a := (List.range 32).foldl (fun (x : State) k => x.tripEntry ch code k) s
  let b := if !s.mainUp then a else if ch = s.gzVdc then a.compVdc code else if ch = s.gzBrk then a.compBrake code else a
  if (s.gzPhases 0).contains ch || (s.gzPhases 1).contains ch then b.compCurrent ch code else b

end Sys2Proof.Machine
end

