-- ==== Sys2Proof/Machine/Gauze.lean ====
section
/-! DEFINITION. Gauze channels, paths, overrange, injected conversions and calibration (R162 to R192, R492, R496). -/

namespace Sys2Proof.Machine

open Sys2Proof

/-- A Gauze channel beside its registers. -/
def State.gzCh (s : State) (n : Nat) : GzCh := vget s.gz.chans n {}

/-- The state with a Gauze channel replaced. -/
def State.setGzCh (s : State) (n : Nat) (c : GzCh) : State := { s with gz := { s.gz with chans := vset s.gz.chans n c } }

/-- MODE of a channel: 0 OFF, 1 CONT, 2 SLOT, 3 WIN. -/
def State.gzMode (s : State) (n : Nat) : Nat := s.getF (F.GZ_CH_CFG_MODE n)

/-- FAST in average mode: AVG with MODE 1 (R170). -/
def State.gzAvg (s : State) (n : Nat) : Bool := s.gzMode n == 1 && s.getB (F.GZ_CH_CFG_AVG n)

/-- COMP runs continuously (R169, R172). (Assumption 68 DEDUCED) -/
def State.gzComp (s : State) (n : Nat) : Bool := s.gzMode n == 1 || s.gzMode n == 3

/-- A core channel delivers nothing until 50 µs after its group's buffer powers up (R175). -/
def State.gzRefUp (s : State) (n : Nat) : Bool :=
  if n < 32 then
    match vget s.gz.refUpAt (n / 8) none with
    | some x => s.elapsed x (50 * 6400)
    | none => true
  else true

/-- A channel under a running calibration (R181). -/
def State.gzCalibrating (s : State) (n : Nat) : Bool := s.getB (F.GZ_CH_STAT_CAL n)

/-- The input of a channel is invalid: island clock missing, flat bitstream, reference fault (R187, R189, R21). -/
def State.gzBad (s : State) (n : Nat) : Bool :=
  s.getB (F.GZ_CH_STAT_CLKLOSS n) || (s.gzCh n).flat || (decide (n < 32) && vget s.gz.refBad (n / 8) false)

/-- The running span of a scheduled conversion before and after its instant: FAST or FINE (R173). -/
def convSpan (fine : Bool) : Nat × Nat := if fine then (3636480, 1638400) else (54720, 7360)

/-- The grid of the scheduled conversions of a SLOT channel on the FINE grid (R173). -/
def State.freeGrid (s : State) (n : Nat) : Nat := 655360 * max 1 (s.getF (F.GZ_CH_SCHED_DIV n))

/-- The first conversion of a SLOT channel on its carrier that is not before an instant and whose period has not started; none while the carrier stands (R173). -/
def State.carConv (s : State) (n from_ : Nat) : Option Nat :=
  let c := s.car (s.getF (F.GZ_CH_CFG_CAR n))
  if c.running && c.eff != 0 then
    let div := max 1 (s.getF (F.GZ_CH_SCHED_DIV n))
    let count := s.getF (F.PWM_CAR_COUNT (s.getF (F.GZ_CH_CFG_CAR n)))
    let first := c.next + (div - 1 - count % div) * c.eff + s.getF (F.GZ_CH_SCHED_OFS n)
    some (first + gridUp (c.eff * div) (from_ - first))
  else none

/-- The scheduled conversions of a SLOT channel around the present instant, in absolute time (R173). -/
def State.nearConvs (s : State) (n : Nat) : List Nat :=
  let span := convSpan (s.getB (F.GZ_CH_CFG_PATH n))
  if s.getB (F.GZ_CH_CFG_FREE n) then
    let g := s.freeGrid n
    [s.pwr.battenBase + s.battenTime / g * g, s.pwr.battenBase + s.battenTime / g * g + g]
  else (s.gzCh n).convs ++ (match s.carConv n (s.now - span.2) with
    | some x => [x]
    | none => []) ++ (match (s.gzCh n).lastConv with
    | some x => [x]
    | none => [])

/-- Two conversions closer than this keep the modulator powered between them: the running time of R173 and 10 µs (R174). -/
def leadSpan (fine : Bool) : Nat := if fine then 5338880 else 126080

/-- The present instant lies between two conversions so close that the modulator stays powered (R174). -/
def State.shortGap (s : State) (n : Nat) : Bool :=
  let near := s.nearConvs n
  near.any fun x => decide (x ≤ s.now) && near.any fun y => decide (s.now < y) && decide (y < x + leadSpan (s.getB (F.GZ_CH_CFG_PATH n)))

/-- Whether the modulator of a channel is powered: in CONT and WIN; in SLOT and OFF around each conversion that is scheduled or injected, and for a calibration (R173, R174, R175, R178, R181). -/
def State.gzPowered (s : State) (n : Nat) : Bool :=
  let within := fun (x : Nat) (span : Nat × Nat) => decide (x ≤ s.now + span.1) && decide (s.now ≤ x + span.2)
  let regular := s.gzMode n == 2 && (s.shortGap n || (s.nearConvs n).any fun x => within x (convSpan (s.getB (F.GZ_CH_CFG_PATH n))))
  let injected := s.gz.injections.any fun i => i.ch == n && within (s.pwr.battenBase + i.centre) (convSpan true)
  let cal := match s.gz.cal with
    | some c => bitAt c.mask n && (!c.waiting || (c.startAt != 0 && decide (c.startAt ≤ s.battenTime + 32000)))
    | none => false
  s.gzComp n || regular || injected || cal

/-- The clamp code of a channel in a direction (Table 7.2). -/
def State.clampCode (s : State) (n : Nat) (up : Bool) : Nat :=
  if s.gzSingle n then (if up then 0xFFFFFF else 0) else (if up then 0x7FFFFF else 0x800000)

/-- A filter result as its word codes it: corrected by the offset and the gain of the channel's calibration, held inside the code span, and with the bits below the native step of the path 0 (R165, R180). A result at a clamp code stays there (Table 7.2). (Assumption 69 DEDUCED, 220 DESIGN CHOICE) -/
def State.gzForm (s : State) (n step code : Nat) : Nat :=
  if code = s.clampCode n true || (!s.gzSingle n && code = s.clampCode n false) then code
  else
    let v := s.gzValue n code + 16 * signExt 16 (s.getF (F.GZ_CH_CAL_OFFSET n))
    let w := v * (10000000 + signExt 16 (s.getF (F.GZ_CH_CAL_GAIN n))) / 10000000
    let top := s.gzValue n (s.clampCode n true)
    if top ≤ w then s.clampCode n true
    else toBits 24 (max (s.gzValue n (s.clampCode n false)) (w / (step : Int) * step))

/-- The weighted mean of the modulator samples of one carrier period of p ticks from a Batten time: a sample stands for the 320 ticks from its instant on, and counts with those that lie inside the period (R170). (Assumption 185 DEDUCED) -/
def periodMean (start p : Nat) (samples : List Int) : Int :=
  let first := start / 320
  let weight := fun (k : Nat) => min (320 * (first + k + 1)) (start + p) - max (320 * (first + k)) start
  let sum := (samples.zipIdx.map fun x => x.1 * (weight x.2 : Int)).sum
  sum / (max 1 p : Nat)

/-- The FAST words of a core channel are disturbed by an overrange of another channel of its group (R186). -/
def State.gzNbr (s : State) (n : Nat) : Bool :=
  let near := fun (x : Option Nat) => match x with
    | some y => decide (s.now ≤ y + 5 * 6400)
    | none => false
  decide (n < 32) && (List.range 8).any fun k =>
    let m := n / 8 * 8 + k
    m != n && (near (s.gzCh m).ovrAt || near (s.gzCh m).backAt)

/-- Bits [6:0] of GZ_CHn_STAT (Table 7.17). -/
def gzFlags (valid ovr nbr cal tag short bad : Bool) : Nat :=
  (if valid then 1 else 0) + (if ovr then 2 else 0) + (if nbr then 4 else 0) + (if cal then 8 else 0) + (if tag then 16 else 0) +
    (if short then 32 else 0) + (if bad then 64 else 0)

/-- An output of a path: its word, code, flags and timestamp. -/
structure GzOut where
  word : Word
  code : Nat
  flags : Nat
  time : Nat

/-- An output enters the path's register, with its flags in STAT (Tables 7.16, 7.17). (Assumption 139 DEDUCED) -/
def State.gzStore (s : State) (p : GzPath) (n : Nat) (o : GzOut) : State :=
  let f := match p with
    | .comp => F.GZ_CH_COMP n
    | .fast => F.GZ_CH_FAST n
    | .fine => F.GZ_CH_FINE n
  let t := (s.setF f o.word.toNat).setF ⟨(F.GZ_CH_STAT_VALID n).addr, 6, 0⟩ o.flags
  let c := t.gzCh n
  t.setGzCh n (match p with
    | .comp => { c with compTime := o.time, compFlags := o.flags }
    | .fast => { c with fastTime := o.time, fastFlags := o.flags }
    | .fine => { c with fineTime := o.time, fineFlags := o.flags })

/-- An output instant on a grid of Batten time: the last one not after the present instant (R167). -/
def State.gridInstant (s : State) (grid : Nat) : Nat := s.battenTime / grid * grid

/-- A COMP word is formed: the clamp code in overrange and recovery, VALID 0 while settling (R167, R181, R184, R185). (Assumption 67 DEDUCED) -/
def State.compWord (s : State) (n code : Nat) : Option (State × GzOut) :=
  if !s.gzUp || !s.gzComp n || !s.gzRefUp n then none
  else
    let c := s.gzCh n
    let started := decide (c.upAt ≤ s.now)
    let clamp := c.ovrIn || c.clampComp
    let v := if clamp then s.clampCode n (decide (0 < c.ovr)) else s.gzForm n (2 ^ 17) code
    let settled := c.compLeft == 0 && started && !c.ovrIn
    let cal := s.gzCalibrating n
    let bad := s.gzBad n
    let left := if c.ovrIn || !started then c.compLeft else c.compLeft - 1
    let o : GzOut := ⟨s.gzWord n v, v, gzFlags (settled && !cal && !bad && !clamp) clamp false cal false false bad, s.gridInstant 2560 - 2240⟩
    some ((s.setGzCh n { c with compLeft := left, clampComp := c.ovrIn || (c.clampComp && left != 0) }).gzStore .comp n o, o)

/-- A regular output skipped for a calibration is counted (R181). -/
def State.gzSkip (s : State) (n : Nat) : State := s.bump (F.GZ_CH_CNT_SKIPS n)

/-- An external channel's FAST result at a clamp code is an overrange (R187). (Assumption 70 DEDUCED) -/
def extClamp (n code : Nat) : Bool := decide (64 ≤ n) && (code == 0x7FFFFF || code == 0x800000)

/-- An overrange begins: OVR, OVRCNT, the record, and the clamp code on every path (R184, R191). (Assumption 70 DEDUCED) -/
def State.gzOverrange (s : State) (n : Nat) (up : Bool) : State :=
  let c := s.gzCh n
  if c.ovrIn then s
  else
    let t := s.setGzCh n { c with ovrIn := true, ovr := if up then 1 else -1, ovrAt := some s.now, backAt := none, clampComp := true, clampFast := true, clampFine := true }
    (((t.setB (F.GZ_CH_STAT_OVR n) true).eventBit (F.GZ_OVR_OVR (n / 24)) (n % 24)).bump (F.GZ_CH_CNT_OVRCNT n)).raiseRate
      Flt.GZ_OVERRANGE { item := n } n (100 * ticksPerMs)

/-- The FAST word of the present instant: its timestamp, whether its period counts after a recovery, whether its phase is sampled, and whether its window is short. -/
structure FastNow where
  time : Nat
  fits : Bool := true
  sampled : Bool := true
  short : Bool := false
  /-- start and length of the period it averages, or the start of the one it samples -/
  period : Option (Nat × Nat) := none

/-- The FAST word that the mode delivers at the present instant, one per period in average and window mode; none where it delivers none now (R167, R170, R171, R172). (Assumption 67 DEDUCED) -/
def State.fastTime (s : State) (n : Nat) : Option FastNow :=
  let fresh := fun (p : Nat) (x : FastNow) => if (s.gzCh n).wordOf = some p then none else some x
  if s.gzMode n = 1 then
    if s.getB (F.GZ_CH_CFG_AVG n) then
      let c := s.car (s.getF (F.GZ_CH_CFG_CAR n))
      match c.running, c.prev with
      | true, some p => fresh p { time := p - s.pwr.battenBase, fits := decide ((s.gzCh n).avgFrom ≤ p), period := some (p, c.cur - p) }
      | _, _ => none
    else some { time := s.gridInstant 5120 - 7360 }
  else if s.gzMode n = 3 then
    let u := s.getF (F.GZ_CH_CFG_WINU n)
    let c := s.car (s.hbCar (s.winHb u 0))
    let w1 := (s.window u c.eff).2
    if s.getB (F.PWM_WIN_CFG_EN u) && c.running && decide (c.cur + w1 ≤ s.now) then
      fresh c.cur { time := c.cur + w1 - 14720 - s.pwr.battenBase, sampled := bitAt (s.getF (F.PWM_WIN_STAT_SAMPLED u)) (s.getF (F.GZ_CH_CFG_WINPH n)),
                    short := decide (s.getF (F.PWM_WIN_TWIN u) < 16000), period := some (c.cur, c.eff) }
    else none
  else none

/-- The code of a FAST word: the mean over its period in average mode, the filter's result otherwise, corrected and at its native step (R165, R170). -/
def State.fastCode (s : State) (n code : Nat) (w : FastNow) (samples : List Int) : Nat :=
  match s.gzAvg n, w.period with
  | true, some (p, len) => s.gzForm n 1 (toBits 24 (periodMean (p - s.pwr.battenBase) len samples))
  | _, _ => s.gzForm n (2 ^ 11) code

/-- The fast path after an output: outputs still to pass, and its clamp. -/
def GzCh.fastPassed (c : GzCh) (avg fits : Bool) : GzCh :=
  if c.ovrIn then c
  else if avg then { c with fastLeft := 0, clampFast := c.clampFast && !fits }
  else { c with fastLeft := c.fastLeft - 1, clampFast := c.clampFast && c.fastLeft > 1 }

/-- The flat mark of an external channel after a FAST output: it ends with the third output that shows no clamp code (R187). -/
def GzCh.flatPassed (c : GzCh) (n code : Nat) : GzCh :=
  if c.flat && !extClamp n code then { c with flatLeft := c.flatLeft - 1, flat := c.flatLeft > 1 } else c

/-- A FAST word is formed (R167 to R172, R185 to R187). Answers the state alone where a calibration skips the output. -/
def State.fastWord (s0 : State) (n code : Nat) (samples : List Int) : State × Option GzOut :=
  if !s0.gzUp || !s0.gzRefUp n then (s0, none)
  else match s0.fastTime n with
    | none => (s0, none)
    | some w =>
      let s1 := s0.setGzCh n { s0.gzCh n with wordOf := w.period.map fun p => p.1 }
      if s1.gzCalibrating n then (s1.gzSkip n, none)
      else
        let s := if extClamp n code then s1.gzOverrange n (code == 0x7FFFFF) else s1
        let c := s.gzCh n
        let avg := s.gzAvg n
        let started := decide (c.upAt ≤ s.now)
        let settled := started && !c.ovrIn && (if avg then w.fits else c.fastLeft == 0)
        let clamp := c.ovrIn || (c.clampFast && !(if avg then w.fits else c.fastLeft == 0))
        let v := if clamp then s.clampCode n (decide (0 < c.ovr)) else s.fastCode n code w samples
        let bad := s.gzBad n
        let o : GzOut := ⟨s.gzWord n v, v, gzFlags (settled && w.sampled && !bad && !clamp) clamp (s.gzNbr n) false false w.short bad, w.time⟩
        let d := if started then c.fastPassed avg w.fits else c
        ((s.setGzCh n (d.flatPassed n code)).gzStore .fast n o, some o)

/-- A FINE word is formed (R167, R181, R185, R188). (Assumption 67 DEDUCED) -/
def State.fineWord (s : State) (n code : Nat) : State × Option GzOut :=
  if !s.gzUp || !s.gzComp n || !s.gzRefUp n then (s, none)
  else if s.gzCalibrating n then (s.gzSkip n, none)
  else
    let c := s.gzCh n
    let started := decide (c.upAt ≤ s.now)
    let clamp := c.ovrIn || (c.clampFine && c.fineLeft != 0)
    let settled := c.fineLeft == 0 && started && !c.ovrIn
    let v := if clamp then s.clampCode n (decide (0 < c.ovr)) else s.gzForm n 1 code
    let bad := s.gzBad n
    let out := s.gridInstant 655360
    let tag := n == 31 && out / 655360 % 2 == 1
    let o : GzOut := ⟨s.gzWord n v, v, gzFlags (settled && !bad && !clamp) clamp false false tag false bad, out - 1638400⟩
    let d := if c.ovrIn || !started then c else { c with fineLeft := c.fineLeft - 1, clampFine := c.clampFine && c.fineLeft > 1 }
    ((s.setGzCh n d).gzStore .fine n o, some o)

/-- OVERRANGE (R184): the input of a core or island channel leaves its range. -/
def execOverrange (t : Nat) (n : Fin 72) (up : Bool) (s0 : State) : Out :=
  let s := s0.advance t
  .next (if s.gzUp && decide (n.val < 64) && (s.gzMode n != 0 || s.gzPowered n) then s.gzOverrange n up else s)

/-- OVERRANGE_END (R185): the input returns; each path stays clamped until its outputs of Table 7.4 have passed. -/
def execOverrangeEnd (t : Nat) (n : Fin 72) (s0 : State) : Out :=
  let s := s0.advance t
  let c := s.gzCh n
  .next (if s.gzUp && c.ovrIn then s.setGzCh n { c with ovrIn := false, backAt := some s.now, compLeft := 3, fastLeft := 3, fineLeft := 5, avgFrom := s.now + 15360 } else s)

/-- A group's channels are all OFF. -/
def State.groupOff (s : State) (g : Nat) : Bool := (List.range 8).all fun k => s.gzMode (8 * g + k) == 0

/-- 50 µs have passed since a group's buffer powered up (R175). -/
def State.refDue (s : State) (group : Fin 4) : Bool :=
  match vget s.gz.refUpAt group none with
  | some x => s.elapsed x (50 * 6400)
  | none => true

/-- A group's reference is up (R175). -/
def State.refReady (s : State) (group : Fin 4) : State :=
  let u := { s with gz := { s.gz with refUpAt := vset s.gz.refUpAt group none } }
  (u.setBit F.GZ_STAT_REF_ON group true).setBit F.GZ_STAT_REF_OK group (!vget u.gz.refBad group false)

/-- REF_BUFFER_READY (R175): 50 µs after a group's buffer powered up. -/
def execRefBufferReady (t : Nat) (group : Fin 4) (s0 : State) : Out :=
  let s := s0.advance t
  if s.gzUp && !s.groupOff group && s.refDue group then .next (s.refReady group) else .next s

/-- The buffer of a group follows its channels' modes (R175). -/
def State.refBuffer (s : State) (g : Nat) (wasOff : Bool) : State :=
  if g ≥ 4 then s
  else if s.groupOff g then
    ((({ s with gz := { s.gz with refUpAt := vset s.gz.refUpAt g none, refBad := vset s.gz.refBad g false } }).setBit F.GZ_STAT_REF_ON g false).setBit F.GZ_STAT_REF_OK g false)
  else if wasOff then
    ((({ s with gz := { s.gz with refUpAt := vset s.gz.refUpAt g (some s.now) } }).setBit F.GZ_STAT_REF_ON g true).setBit F.GZ_STAT_REF_OK g false)
  else s

/-- A channel restarts: its paths settle again, after the 5 µs start-up of a modulator that was powered down (R176). -/
def State.gzRestart (s : State) (n : Nat) (wasDown : Bool) : State :=
  let up := s.now + (if wasDown then 32000 else 0)
  let c := s.gzCh n
  let d := { c with compLeft := 3, fastLeft := 3, fineLeft := 5, upAt := up, avgFrom := up + 15360, lastConv := none, convs := [], wordOf := none, clampComp := c.ovrIn, clampFast := c.ovrIn, clampFine := c.ovrIn }
  (s.setGzCh n d).setB (F.GZ_CH_STAT_SLOTLEAD n) false

/-- A configuration word is one Table 7.12 allows on a channel (R496). (Assumption 152 DEDUCED) -/
def gzCfgOk (n : Nat) (w : Nat) : Bool :=
  let mode := bitsOf w 1 0
  bitsOf w 14 13 != 3 && (!bitAt w 4 || mode == 1) && (decide (n < 64) || !bitAt w 2) && (decide (n < 32) || !bitAt w 3)
    && (n != 31 || (bitAt w 2 && bitAt w 3))

/-- A write of GZ_CHn_CFG with the values it leaves in force: BUSY during an injection or calibration, otherwise a restart where a field changes (R175, R176). -/
def State.gzWriteCfg (s : State) (n : Nat) (w : Word) : Nat × State :=
  let a := (F.GZ_CH_CFG_MODE n).addr
  if s.getW a = w then (stOK, s)
  else if (s.gz.injections.any fun i => i.ch == n) || s.gzCalibrating n then (stBusy, s)
  else
    let g := n / 8
    let off := decide (n < 32) && s.groupOff g
    let t := s.setW a w
    (stOK, ((t.gzRestart n (!s.gzPowered n)).refBuffer g off))

/-- The latest word of a path of a channel with its timestamp and flags (R192). -/
def State.gzReadData (s : State) (n p : Nat) : List Byte :=
  let c := s.gzCh n
  if p = 0 then beBytes 4 (s.getF (F.GZ_CH_COMP n)) ++ beBytes 8 c.compTime ++ beBytes 1 c.compFlags
  else if p = 1 then beBytes 4 (s.getF (F.GZ_CH_FAST n)) ++ beBytes 8 c.fastTime ++ beBytes 1 c.fastFlags
  else beBytes 4 (s.getF (F.GZ_CH_FINE n)) ++ beBytes 8 c.fineTime ++ beBytes 1 c.fineFlags

/-- GZ_READ (R192, R96). -/
def execGzRead (r : Req) (s : State) : Out :=
  serveOp { code := 0x0803, lens := [2] } r (fun _ s =>
    if 72 ≤ r.num 0 1 ∨ 2 < r.num 1 1 then refuse stBadParam s
    else okWith (s.gzReadData (r.num 0 1) (r.num 1 1)) s) s

/-- The conversion of a SLOT channel whose span has ended and whose word is due, with what stays scheduled: on the FINE grid or on its carrier (R173). -/
def State.slotDueConv (s : State) (n : Nat) : Option (Nat × List Nat) :=
  let c := s.gzCh n
  let back := (convSpan (s.getB (F.GZ_CH_CFG_PATH n))).2
  if s.getB (F.GZ_CH_CFG_FREE n) then
    let g := s.freeGrid n
    let x := s.pwr.battenBase + (s.battenTime - back) / g * g
    let done := match c.lastConv with
      | some y => decide (x ≤ y)
      | none => false
    if done || s.battenTime < back then none else some (x, [])
  else match c.convs with
    | x :: rest => if x + back ≤ s.now then some (x, rest) else none
    | [] => none

/-- A conversion is delivered: SLOTLEAD says whether the one before it or the one after it lies too close, with its record once per boot (R174). (Assumption 246 DEDUCED) -/
def State.noteConv (s : State) (n x : Nat) (rest : List Nat) (fine : Bool) : State :=
  let c := s.gzCh n
  let lead := (s.nearConvs n).any fun y => y != x && decide (x < y + leadSpan fine) && decide (y < x + leadSpan fine)
  let t := (s.setGzCh n { c with lastConv := some x, convs := rest, leadDone := c.leadDone || lead }).setB (F.GZ_CH_STAT_SLOTLEAD n) lead
  if lead && !c.leadDone then t.raise Flt.GZ_SLOT_LEAD { item := n } else t

/-- A SLOT conversion delivers its word on the path of PATH, centred at its instant; a pause, the settling of a restart and an overrange apply as to any output (R173, R181). On GZ31 the FINE words alternate as in CONT (R188). -/
def State.slotWord (s0 : State) (n code : Nat) : State × Option (GzPath × GzOut) :=
  if !s0.gzUp || s0.gzMode n != 2 || !s0.gzRefUp n then (s0, none)
  else match s0.slotDueConv n with
  | none => (s0, none)
  | some (x, rest) =>
    let fine := s0.getB (F.GZ_CH_CFG_PATH n)
    if s0.gzCalibrating n then ((s0.setGzCh n { s0.gzCh n with lastConv := some x, convs := rest }).gzSkip n, none)
    else
      let s1 := s0.noteConv n x rest fine
      let s := if !fine && extClamp n code then s1.gzOverrange n (code == 0x7FFFFF) else s1
      let c := s.gzCh n
      let settling := if fine then 512 * 6400 else 15360
      let settled := decide (c.upAt + settling ≤ s.now)
      let recovering := match c.backAt with
        | some y => decide (s.now < y + settling)
        | none => false
      let clamp := c.ovrIn || (recovering && if fine then c.clampFine else c.clampFast)
      let v := if clamp then s.clampCode n (decide (0 < c.ovr)) else s.gzForm n (if fine then 1 else 2 ^ 11) code
      let bad := s.gzBad n
      let time := x - s.pwr.battenBase
      let tag := n == 31 && fine && time % (2 * 655360) != 0
      let o : GzOut := ⟨s.gzWord n v, v, gzFlags ((settled || c.upAt == 0) && !bad && !clamp) clamp (!fine && s.gzNbr n) false tag false bad, time⟩
      let u := s.setGzCh n (if fine then c else c.flatPassed n code)
      (u.gzStore (if fine then .fine else .fast) n o, some (if fine then .fine else .fast, o))

/-- The centre of an injected conversion with time 0, and whether its result copies the next regular FINE output (R178). A SLOT channel whose carrier stands has no scheduled conversion. (Assumption 71 DEDUCED, 230 DESIGN CHOICE) -/
def State.injectNext (s : State) (n : Nat) : Nat × Bool :=
  let b := s.battenTime
  if s.gzComp n then (gridUp 655360 (b + 1), true)
  else if s.gzMode n = 2 then
    let want := b + 600 * 6400
    if s.getB (F.GZ_CH_CFG_FREE n) then (gridUp (s.freeGrid n) want, false)
    else
      let due := (s.gzCh n).convs.find? fun x => decide (s.now + 600 * 6400 ≤ x)
      match due.or (s.carConv n (s.now + 600 * 6400)) with
      | some x => (x - s.pwr.battenBase, false)
      | none => (gridUp 40960 want, false)
  else (gridUp 40960 (b + 600 * 6400), false)

/-- The earliest Batten time an injected conversion may be asked for, from now on (R178): a powered-down channel needs the longer lead. (Assumption 71 DEDUCED) -/
def State.injectLead (s : State) (n : Nat) : Nat :=
  (if s.gzPowered n then 300 else 600) * 6400

/-- The injected conversion of a request is queued (R178, R179). -/
def State.addInjection (s : State) (t : Ticket) (n at_ : Nat) : State :=
  let (centre, copy) := if at_ = 0 then s.injectNext n else (gridUp 40960 at_, false)
  ({ s with gz := { s.gz with injections := s.gz.injections ++ [({ ticket := t, ch := n, centre := centre, copy := copy } : Injection)] } }).showInj

/-- GZ_INJECT is answered BUSY: an injection of the channel waits, eight wait, or the channel is being calibrated (R179). -/
def State.injectBusy (s : State) (n : Nat) : Bool :=
  (s.gz.injections.any fun i => i.ch == n) || decide (8 ≤ s.gz.injections.length) || s.gzCalibrating n

/-- GZ_INJECT (R178, R179). The reply follows its conversion. -/
def execGzInject (r : Req) (s : State) : Out :=
  serveOp { code := 0x0801, background := true, lens := [9] } r (fun t s =>
    let n := r.num 0 1
    let at_ := r.num 1 8
    if 72 ≤ n ∨ (at_ ≠ 0 ∧ (at_ < s.battenTime + s.injectLead n ∨ s.battenTime + 10 * ticksPerS < at_)) then refuse stBadParam s
    else if s.injectBusy n then refuse stBusy s
    else .later (s.addInjection t n at_)) s

/-- The instant at which an injected conversion is complete (R178). (Assumption 71 DEDUCED) -/
def Injection.due (i : Injection) : Nat := if i.copy then i.centre else i.centre + 1638400

/-- An injected conversion is complete: its word, aligned, goes into the reply with its timestamp, and its flags into STAT (R178, R185). On GZ31 its centre says what it measures (R188). (Assumption 231 DESIGN CHOICE) -/
def State.deliverInjection (s : State) (n : Nat) (code : Nat) (i : Injection) : State :=
  let c := s.gzCh n
  let since := fun (x : Option Nat) (d : Nat) => match x with
    | some y => decide (i.centre ≤ y - s.pwr.battenBase + d + 1638400)
    | none => false
  let clamp := c.ovrIn || since c.backAt (512 * 6400)
  let v := if clamp then s.clampCode n (decide (0 < c.ovr)) else s.gzForm n 1 code
  let word := if i.copy then s.getF (F.GZ_CH_FINE n) else (s.gzWord n v).toNat
  let time := if i.copy then c.fineTime else i.centre
  let bad := s.gzBad n
  let flags := if i.copy then c.fineFlags else gzFlags (!bad && !clamp) clamp false false (n == 31 && i.centre % (2 * 655360) != 0) false bad
  let u := { s with gz := { s.gz with injections := s.gz.injections.filter fun j => j.ch != n } }
  let w := u.showInj.setF ⟨(F.GZ_CH_STAT_VALID n).addr, 6, 0⟩ flags
  (w.calReady).answer i.ticket stOK (beBytes 4 word ++ beBytes 8 time)

/-- INJECTION_DELIVERED (R178, R185). -/
def execInjectionDelivered (t : Nat) (n : Fin 72) (code : Code24) (s0 : State) : Out :=
  let s := s0.advance t
  match s.gz.injections.find? fun i => i.ch == n.val with
  | none => .next s
  | some i => if !s.mainUp || s.battenTime < i.due then .next s else .next (s.deliverInjection n code.toNat i)

/-- GZ_CALIBRATE (R180, R182). -/
def execGzCalibrate (r : Req) (s : State) : Out :=
  serveOp { code := 0x0802, level := 2, lens := [9] } r (fun _ s =>
    let m := r.num 0 9
    if 2 ^ 64 ≤ m then refuse stBadParam s
    else if s.power ≠ pSTANDBY then refuse stStateRefused s
    else if s.gz.cal.isSome then refuse stBusy s
    else if s.gz.injections.any fun i => bitAt m i.ch then
      .done stDeferred [] (({ s with gz := { s.gz with cal := some { mask := m, waiting := true, startAt := 0 } } }).setB F.GZ_STAT_CAL_WAIT true)
    else okWith [] { s with gz := { s.gz with cal := some { mask := m, waiting := true, startAt := gridUp 655360 (s.battenTime + 1) } } }) s

/-- The masked channels pause and calibration begins (R181, R182). -/
def State.beginCal (s : State) (c : Calibration) : State :=
  let u := { s with gz := { s.gz with cal := some { c with waiting := false, startAt := s.now } } }
  let v := (u.setB F.GZ_STAT_CAL_WAIT false).setB F.GZ_STAT_CAL_BUSY true
  (bitsList 64 c.mask).foldl (fun (x : State) n => x.setB (F.GZ_CH_STAT_CAL n) true) v

/-- CALIBRATION_START (R181, R182): at a FINE output instant, on every masked channel together. -/
def execCalibrationStart (t : Nat) (s0 : State) : Out :=
  let s := s0.advance t
  match s.gz.cal with
  | some c => if s.mainUp && c.waiting && c.startAt != 0 && decide (c.startAt ≤ s.battenTime) then .next (s.beginCal c) else .next s
  | none => .next s

/-- One channel's calibration result: refused beyond ±1 % of nominal full scale in offset, beyond ±0.5 % in gain (R183). Offset in codes, gain in 0.1 ppm against the factory trim. (Assumption 69 DEDUCED) -/
def State.calResult (s : State) (n : Nat) (offset gain : Int) : Bool :=
  decide (100 * offset.natAbs ≤ (s.fullScale n).natAbs) && decide (gain.natAbs ≤ 50000)

/-- A calibration result enters the channel's correction, or is refused and recorded (R183). (Assumption 69 DEDUCED, 220 DESIGN CHOICE) -/
def State.applyCal (s : State) (n : Nat) (offset gain : Int) : State :=
  if s.calResult n offset gain then
    (s.setF (F.GZ_CH_CAL_OFFSET n) (toBits 16 (clampInt (-32768) 32767 (offset / 16)))).setF (F.GZ_CH_CAL_GAIN n) (toBits 16 (clampInt (-32768) 32767 gain))
  else
    let t := if s.getB F.GZ_STAT_CAL_FAIL then s else (s.setB F.GZ_STAT_CAL_FAIL true).setF F.GZ_STAT_CAL_FAILCH n
    t.raise Flt.GZ_CAL_FAIL { item := n }

/-- Calibration ends: the regular outputs resume and the results of the masked channels are taken in order (R181, R183). -/
def State.endCal (s : State) (c : Calibration) (results : List (Nat × Int × Int)) : State :=
  let u := ({ s with gz := { s.gz with cal := none } }).setB F.GZ_STAT_CAL_BUSY false
  let v := ((bitsList 64 c.mask).foldl (fun (x : State) n => x.setB (F.GZ_CH_STAT_CAL n) false) u).setB F.GZ_STAT_CAL_FAIL false
  let res := (bitsList 64 c.mask).filterMap fun n => results.find? fun x => x.1 == n
  res.foldl (fun (x : State) y => x.applyCal y.1 y.2.1 y.2.2) v

/-- CALIBRATION_DONE (R181, R183): 2,355.2 µs after the start. -/
def execCalibrationDone (t : Nat) (results : List (Nat × Int × Int)) (s0 : State) : Out :=
  let s := s0.advance t
  match s.gz.cal with
  | some c => if s.mainUp && !c.waiting && s.elapsed c.startAt 15073280 then .next (s.endCal c results) else .next s
  | none => .next s

/-- The stages that use a channel of a core group: through the engines its outputs go to, and through enabled trip entries (R189). -/
def State.groupStages (s : State) (g : Nat) : Nat :=
  let chs := (List.range 8).map fun k => 8 * g + k
  let engs := below 16 fun e => chs.any fun n => bitAt (s.getF (F.GZ_CH_ROUTE_FASTMASK n)) e || bitAt (s.getF (F.GZ_CH_ROUTE_FINEMASK n)) e
  let byEngine := engs.foldl (fun m e => Nat.lor m (s.getF (F.LE_CFG_STAGES e))) 0
  let entries := below 32 fun k => s.getB (F.SLT_TRIP_EN k) && chs.contains (s.getF (F.SLT_TRIP_CH k))
  entries.foldl (fun m k => (bitsList 32 (s.getF (F.SLT_TRIP_HBMASK k))).foldl (fun x h => Nat.lor x (s.stageMask h)) m) byEngine

/-- The reference check of a group at a FINE output of GZ31; the deviation is in parts per million of the nominal value (R189). -/
def State.refCheck (s : State) (g : Nat) (dev : Int) : State :=
  let bad := decide (5000 < dev.natAbs)
  if s.groupOff g || vget s.gz.refBad g false = bad then s
  else
    let t := ({ s with gz := { s.gz with refBad := vset s.gz.refBad g bad } }).setBit F.GZ_STAT_REF_OK g (!bad)
    if bad then
      let u := t.eventBit F.GZ_FLT_REF_FAULT g
      let b := u.power == pARMED || u.power == pRUN || u.power == pSAFE
      u.raise (Flt.GZ_REF_FAULT.orC b) { stages := if b then u.groupStages g else 0, item := g }
    else t

end Sys2Proof.Machine
end

