-- ==== Sys2Proof/Machine/Engines.lean ====
section
/-! DEFINITION. The loop engines: pacing, slots, data memory, banks, modes, loading, late rules, feedforward and supervision (R193 to R225, R493). -/

namespace Sys2Proof.Machine

open Sys2Proof

/-- An engine holds a program. -/
def State.leLoaded (s : State) (e : Nat) : Bool := s.bit F.LE_RUN_LOADED e

/-- The timer period in force: PERIOD, or PERIOD_ALT after PACE 1; 0 cannot pace and acts as 1 (Table 8.5). -/
def State.lePeriod (s : State) (e : Nat) : Nat := max 1 (if s.getB (F.LE_MODE_ALT e) then s.getF (F.LE_TIMER2 e) else s.getF (F.LE_TIMER e))

/-- The pacing interval in fine ticks (Table 8.3). (Assumption 61 DEDUCED) -/
def State.leInterval (s : State) (e : Nat) : Nat :=
  let p := s.getF (F.LE_CFG_PACE e)
  if p = 0 then (s.car (s.leCar e)).eff * s.leDiv e
  else if p = 1 then 655360 * s.leDiv e
  else if p = 2 then s.lePeriod e
  else 0

/-- The pacing instant whose slot starts next, on the model clock, where the engine has one (R197): of a carrier the oldest one still unserved, of the grid the last one whose SLOTOFS has passed, of the timer the last one not after now. -/
def State.lePacing (s : State) (e : Nat) : Option Nat :=
  let p := s.getF (F.LE_CFG_PACE e)
  if p = 0 then (if (s.car (s.leCar e)).running then (s.eng e).pacings.head?.map fun x => x.1 else none)
  else if p = 1 then
    let ofs := s.getF (F.LE_SLOT_SLOTOFS e)
    if s.battenTime < ofs then none else some (s.pwr.battenBase + (s.battenTime - ofs) / (655360 * s.leDiv e) * (655360 * s.leDiv e))
  else if p = 2 then
    match (s.eng e).lastPacing with
    | some x => if s.now < x + s.lePeriod e then some x else some (x + s.lePeriod e)
    | none => some (s.now - s.getF (F.LE_SLOT_SLOTOFS e))
  else none

/-- An engine has a next slot start: it runs, and its pacing source runs (R493). (Assumption 78 DEDUCED) -/
def State.hasSlots (s : State) (e : Nat) : Bool :=
  s.leMode e != 0 && (s.getF (F.LE_CFG_PACE e) == 1 || s.getF (F.LE_CFG_PACE e) == 2 || (s.getF (F.LE_CFG_PACE e) == 0 && (s.car (s.leCar e)).running))

/-- The next slot start of an engine that has one (R198). -/
def State.nextSlot (s : State) (e : Nat) : Nat :=
  let ofs := s.getF (F.LE_SLOT_SLOTOFS e)
  let p := s.getF (F.LE_CFG_PACE e)
  if p = 0 then (s.lePacing e).getD (s.nextPacing (s.leCar e) e) + ofs
  else if p = 1 then
    let x := s.pwr.battenBase + gridUp (655360 * s.leDiv e) (s.battenTime - ofs)
    (if (s.eng e).lastPacing = some x then x + 655360 * s.leDiv e else x) + ofs
  else
    let fresh := match s.lePacing e with
      | some x => decide (s.now ≤ x + ofs) && (s.eng e).lastPacing != some x
      | none => false
    if fresh then (s.lePacing e).getD 0 + ofs
    else (s.eng e).lastPacing.getD s.now + s.lePeriod e + ofs

/-- The active bank of an engine: false A, true B. -/
def State.leBankB (s : State) (e : Nat) : Bool := s.bit F.LE_BANK_ACTIVE e

/-- A word of the active bank. -/
def State.bankWord (s : State) (e a : Nat) : Word :=
  (sparseFind a (if s.leBankB e then (s.eng e).bankB else (s.eng e).bankA)).getD 0

/-- The region of Table 8.2 that holds a data address: its first word and its length. -/
def leRegion (a : Nat) : Nat × Nat :=
  if a < 0x48 then (0, 0x48) else if a < 0x90 then (0x48, 0x48) else if a < 0xD8 then (0x90, 0x48) else if a < 0xE0 then (0xD8, 8)
  else if a < 0x100 then (0xE0, 0x20) else if a < 0x180 then (0x100, 0x80) else if a < 0x1A0 then (0x180, 0x20) else if a < 0x1A8 then (0x1A0, 8)
  else if a < 0x1A9 then (0x1A8, 1) else if a < 0x200 then (0x1A9, 0x57) else if a < 0x300 then (0x200, 0x100) else if a < 0x700 then (0x300, 0x400)
  else (0x700, 0x100)

/-- A program may store to an address (Table 8.2). (Assumption 72 DEDUCED) -/
def leWritable (a : Nat) : Bool := (decide (0x100 ≤ a) && decide (a < 0x1A9)) || (decide (0x300 ≤ a) && decide (a < 0x700))

/-- The address an operand names: static, or base plus index kept inside the base's region. (Assumption 72 DEDUCED) -/
def leAddress (x : Engine) (a : LeAddr) : Nat :=
  match a with
  | .abs b => b.val
  | .idx b r => let g := leRegion b.val; g.1 + (b.val - g.1 + (vget x.v r.val 0).toNat) % g.2

/-- A word of an engine's data memory as its program reads it: channels that are not routed read 0, and 0x200 onwards is the active bank (R195). -/
def State.leRead (s : State) (e a : Nat) : Word :=
  let raw := (sparseFind a (s.eng e).mem).getD 0
  let fast := fun n => bitAt (s.getF (F.GZ_CH_ROUTE_FASTMASK n)) e
  let fine := fun n => bitAt (s.getF (F.GZ_CH_ROUTE_FINEMASK n)) e
  if a < 0x48 then (if fast a then raw else 0)
  else if a < 0x90 then (if fine (a - 0x48) then raw else 0)
  else if a < 0xD8 then (if fast (a - 0x90) || fine (a - 0x90) then raw else 0)
  else if a < 0xE0 then raw
  else if a < 0x100 then 0
  else if a < 0x1A9 then raw
  else if a < 0x200 then 0
  else if a < 0x300 then s.bankWord e (a - 0x200)
  else if a < 0x700 then raw
  else 0

/-- A word of data memory set. -/
def Engine.putMem (x : Engine) (a : Nat) (w : Word) : Engine := { x with mem := sparsePut 0 a w x.mem }

/-- A word of data memory. -/
def Engine.memAt (x : Engine) (a : Nat) : Word := (sparseFind a x.mem).getD 0

/-- A working register. -/
def Engine.reg (x : Engine) (k : Fin 32) : Word := x.v.get k

/-- A working register written. -/
def Engine.setReg (x : Engine) (k : Fin 32) (w : Word) : Engine := { x with v := x.v.set k w }

/-- A Gauze output placed in data memory: its word, and its flags with NEWF or NEWN (Table 8.2). -/
def Engine.input (x : Engine) (h : HeldInput) : Engine :=
  match h.path with
  | .comp => x
  | .fast =>
    let old := (x.memAt (0x90 + h.ch)).toNat
    (x.putMem h.ch h.word).putMem (0x90 + h.ch) (BitVec.ofNat 32 (old / 512 * 512 + 256 + h.flags % 256))
  | .fine =>
    let old := (x.memAt (0x90 + h.ch)).toNat
    (x.putMem (0x48 + h.ch) h.word).putMem (0x90 + h.ch) (BitVec.ofNat 32 (old % 512 + 512))

/-- A Gauze output reaches one engine: held while a slot runs, one deep per channel and path, otherwise written (R196). -/
def State.leInput (s : State) (e : Nat) (h : HeldInput) : State :=
  let x := s.eng e
  if x.inSlot then s.setEng e { x with held := x.held.filter (fun g : HeldInput => !(g.ch == h.ch && g.path == h.path)) ++ [h] }
  else s.setEng e (x.input h)

/-- The program selects the timer period: the next pacing instant moves, and the deadline of a running slot with it (R197, R198, Table 8.4). (Assumption 239 DEDUCED) -/
def State.setAlt (s : State) (e : Nat) (alt : Bool) : State :=
  let t := s.setB (F.LE_MODE_ALT e) alt
  let x := t.eng e
  if x.inSlot && t.getF (F.LE_CFG_PACE e) == 2 then t.setEng e { x with deadline := x.pacingAt + t.lePeriod e - t.leMargin e } else t

/-- A valid VIN word reaches the feedforward unit of an engine: it is kept, and VIN_AGE returns to 0 (R216, R217). -/
def State.takeVin (s : State) (e : Nat) (v : Rat) : State :=
  (s.setEng e { s.eng e with vin := some v, vinNew := true, ffStopped := false }).setF (F.LE_FFSTAT_VIN_AGE e) 0

/-- A Gauze output reaches every engine its route names (R168), and the feedforward units that use the channel (R216). -/
def State.routeOut (s : State) (p : GzPath) (n : Nat) (o : GzOut) : State :=
  let m := match p with
    | .comp => 0
    | .fast => s.getF (F.GZ_CH_ROUTE_FASTMASK n)
    | .fine => s.getF (F.GZ_CH_ROUTE_FINEMASK n)
  let t := (bitsList 16 m).foldl (fun (x : State) e => x.leInput e ⟨p, n, o.word, o.flags⟩) s
  if p = .fast then
    [0, 1, 2, 3].foldl (fun (x : State) e =>
      let v : Rat := (x.gzValue n o.code : Rat) * x.getQ (F.LE_FFSCALE e)
      if x.getF (F.LE_FFCFG_VIN e) = n && o.flags % 4 == 1 && F32.isFinite (x.getFl (F.LE_FFSCALE e)) && decide (1 ≤ v) then
        x.takeVin e v
      else x) t
  else t

/-- An engine's STAGES include a stage that switches. -/
def State.leSwitching (s : State) (e : Nat) : Bool := (bitsList 9 (s.getF (F.LE_CFG_STAGES e))).any fun st => s.switching st

/-- The shadowed writes of an engine's fields apply, STAGES among them (Table 5.5, R221). -/
def State.applyEngine (s : State) (e : Nat) : State :=
  (s.applyShadow fun w => !w.held && decide (0x31000 + 0x80 * e ≤ w.addr) && decide (w.addr < 0x31080 + 0x80 * e)).leDwell e

/-- Banks exchange (R207, R208). -/
def State.swapBank (s : State) (e : Nat) : State :=
  (s.setBit F.LE_BANK_ACTIVE e (!s.leBankB e)).setBit F.LE_BANK_PEND e false

/-- LE_BANK.ACTIVE as LE_BANK_SWAP returns it. -/
def State.activeBanks (s : State) : List Byte := beBytes 2 (s.getF F.LE_BANK_ACTIVE)

/-- Engine e has swapped: a LE_BANK_SWAP that waited for it alone is answered (R207). -/
def State.swapDone (s : State) (e : Nat) : State :=
  let upd := s.swaps.map fun w : SwapWait => { w with mask := setBitN w.mask e false }
  let fin := upd.filter fun w => w.mask == 0
  let t := { s with swaps := upd.filter fun w => w.mask != 0 }
  fin.foldl (fun x w => x.answer w.ticket stOK x.activeBanks) t

/-- A pending swap is made. -/
def State.pendingSwap (s : State) (e : Nat) : State :=
  if s.bit F.LE_BANK_PEND e then (s.swapBank e).swapDone e else s

/-- Pending table entries apply together (R214). -/
def State.pendingTable (s : State) (e : Nat) : State :=
  let x := s.eng e
  s.setEng e { x with table := x.pendTable.foldl (fun t p => sparsePut 0 p.1 p.2 t) x.table, pendTable := [] }

/-- A MANUAL value register of a block. -/
def manReg (e k : Nat) : Fld := [F.LE_MAN0 e, F.LE_MAN1 e, F.LE_MAN2 e, F.LE_MAN3 e].getD k (F.LE_MAN0 e)

/-- A block is tracked: MANUAL, k below 4, its TRACK bit set (R211). -/
def State.tracked (s : State) (e k : Nat) : Bool := s.leMode e == 2 && decide (k < 4) && s.bit (F.LE_MODE_TRACK e) k

/-- MODE of an engine takes effect: HALTED clears, MANUAL after AUTO loads the last outputs of the tracked blocks (R211), leaving STOP begins a new count of slots at the program's entry. -/
def State.applyMode (s : State) (e m : Nat) : State :=
  let old := s.leMode e
  let x := s.eng e
  let y := if old = 0 && m != 0 then { x with slots := 0, lastPacing := none, pacings := [], vin := none, vinNew := false, inSlot := false, posted := false, staged := [], late := false, prevLate := false, satNow := false,
                                              waitFine := false, wait := none, pendMode := none, pc := x.entry, loops := [], cycles := 0 } else { x with pendMode := none }
  let t := (s.setEng e y).setF (F.LE_MODE_MODE e) m
  let u := t.setBit F.LE_RUN_RUNNING e (m != 0)
  let v := if m = 0 then u else u.setB (F.LE_MODE_HALTED e) false
  if m = 2 && old == 1 then
    [0, 1, 2, 3].foldl (fun (z : State) k =>
      if z.bit (F.LE_MODE_TRACK e) k then z.setFl (manReg e k) (vget y.pi k {}).out else z) v
  else v

/-- A pending mode takes effect. -/
def State.pendingMode (s : State) (e : Nat) : State :=
  match (s.eng e).pendMode with
  | some m => s.applyMode e m
  | none => s

/-- An engine enters STOP: what waited for its next slot start happens at once (R207, R214, R493). -/
def State.stopEngine (s : State) (e : Nat) : State :=
  let t := s.applyMode e 0
  let x := t.eng e
  let u := t.setEng e { x with inSlot := false, wait := none, held := [], pacings := [] }
  ((u.pendingSwap e).pendingTable e).applyEngine e

/-- Class B if STAGES include a switching stage, otherwise C (R202). -/
def State.haltClass (s : State) (e : Nat) (k : FaultKind) : State :=
  let st := s.getF (F.LE_CFG_STAGES e)
  let b := s.leSwitching e
  let t := ((s.stopEngine e).setB (F.LE_MODE_HALTED e) true).event (F.LE_EVT_HUNG e)
  t.raise (k.orC b) { stages := st, item := e }

/-- What the ECC of an engine's memories finds: 0 nothing, 1 an error corrected and counted, 2 one that cannot be corrected and halts the engine (R203). -/
def State.ecc (s : State) (e : Nat) (found : Fin 3) : State :=
  if found = 0 then s
  else if found = 1 then s.bump (F.LE_CNT_ECC e)
  else s.haltClass e Flt.LE_MEM_ERR

/-- The flags NEWF and NEWN of every channel clear at the end of the slot that has seen them. -/
def Engine.clearNew (x : Engine) : Engine :=
  { x with mem := (x.mem.map fun p : Nat × Word => if 0x90 ≤ p.1 ∧ p.1 < 0xD8 then (p.1, p.2 &&& 0xFF) else p).filter fun p => p.2 != 0 }

/-- The slot information words (Table 8.3). -/
def State.slotInfo (s : State) (e : Nat) : State :=
  let x := s.eng e
  let bt := x.pacingAt - s.pwr.battenBase
  let w := (if x.prevLate then 1 else 0) + (if s.leMode e = 2 then 2 else 0) + (if s.leDerate e then 4 else 0) + (if s.leBankB e then 8 else 0) + (if s.getB (F.LE_MODE_ALT e) then 16 else 0)
  let ws := [bt / 2 ^ 32, bt, x.interval, x.slots, w, x.deadline - x.pacingAt]
  s.setEng e ((List.range 6).foldl (fun (y : Engine) k => y.putMem (0xD8 + k) (BitVec.ofNat 32 (ws.getD k 0))) x)

/-- A slot of an engine is due: its pacing instant has no slot yet and SLOTOFS has passed (R197, R198). (Assumption 189 DEDUCED) -/
def State.slotDue (s : State) (e : Nat) : Option Nat :=
  if !s.mainUp || (s.leMode e = 0 && (s.eng e).pendMode.isNone) || (s.eng e).inSlot then none
  else match s.lePacing e with
    | some x => if (s.eng e).lastPacing != some x && x + s.getF (F.LE_SLOT_SLOTOFS e) ≤ s.now then some x else none
    | none => none

/-- A slot starts: inputs freeze, what waited for the slot start takes effect before the program runs (R196 to R198, R207, R209, R214). (Assumption 10 DEDUCED) -/
def State.slotBegin (s : State) (e pacing : Nat) : State :=
  let s1 := (((s.applyEngine e).pendingSwap e).pendingTable e).pendingMode e
  let iv := s1.leInterval e
  let x := s1.eng e
  let (next, rest) := if s1.getF (F.LE_CFG_PACE e) = 0 then (match x.pacings with
      | (_, d) :: r => (d, r)
      | [] => (pacing + iv, [])) else (pacing + iv, x.pacings)
  let y := { x with inSlot := true, pacingAt := pacing, lastPacing := some pacing, interval := iv, pacings := rest,
                    deadline := next - s1.leMargin e,
                    posted := false, prevLate := x.late, late := false, staged := [], cycles := 0, loops := [], pc := x.entry, satNow := false, wait := none }
  let t := (s1.setEng e y).slotInfo e
  let z := t.eng e
  (t.setEng e { z with slots := (z.slots + 1) % 2 ^ 32 }).leDwell e

/-- A slot is late: its staged words are discarded, the counters and the events follow (R200, R201). -/
def State.lateSlot (s : State) (e : Nat) : State :=
  let x := s.eng e
  if x.late then s
  else
    let t := (s.setEng e { x with late := true, staged := [] }).bump (F.LE_CNT_LATES e)
    let u := (t.bump (F.LE_CNT_CONSEC e)).event (F.LE_EVT_LATE e)
    let c := u.getF (F.LE_CNT_CONSEC e)
    let st := u.getF (F.LE_CFG_STAGES e)
    let v := if 3 ≤ c && !(u.eng e).late3Done then
        ((u.setEng e { u.eng e with late3Done := true }).event (F.LE_EVT_LATE3 e)).raise Flt.LE_LATE3 { stages := st, item := e } else u
    if 10 ≤ c && st % 4 != 0 && !(v.eng e).late10Done then
      ((v.setEng e { v.eng e with late10Done := true }).event (F.LE_EVT_LATE10 e)).raise Flt.LE_LATE10 { stages := st, item := e }
    else v

/-- LATE_SLOT (R200): the deadline of a running slot passes before its POST. -/
def execLateSlot (t : Nat) (e : Fin 16) (s0 : State) : Out :=
  let s := s0.advance t
  let x := s.eng e
  .next (if x.inSlot && !x.posted && decide (x.deadline < s.now) then s.lateSlot e else s)

/-- The deadline of the slot after the running one, where its pacing instant is known (R202). -/
def State.nextDeadline (s : State) (e : Nat) : Option Nat :=
  let x := s.eng e
  if s.getF (F.LE_CFG_PACE e) = 0 then x.pacings.head?.map fun p => p.2 - s.leMargin e
  else some (x.deadline + s.leInterval e)

/-- LE_HUNG (R202): no END by the deadline of the slot after the one in which the program started. -/
def execLeHung (t : Nat) (e : Fin 16) (s0 : State) : Out :=
  let s := s0.advance t
  let x := s.eng e
  .next (if x.inSlot && ((s.nextDeadline e).any fun d => decide (d ≤ s.now)) then s.haltClass e Flt.LE_HUNG else s)

/-- A compare word of a channel from an engine: taken into the shadow where the engine owns the channel, otherwise discarded and recorded (R11, R147). -/
def State.compare (s : State) (e ch : Nat) (off : Bool) (w : Nat) : State :=
  if s.owner ch = some e then
    let t := s.setF (if off then F.PWM_CH_OFF ch else F.PWM_CH_ON ch) w
    t.setHb (ch / 2) { t.hb (ch / 2) with fresh := true, writtenAt := t.now }
  else
    ((((s.event F.PWM_EVT_FOREIGN).setF F.PWM_FOREIGN_CHANNEL ch).setF F.PWM_FOREIGN_ENGINE e).raiseRate Flt.CMP_FOREIGN { item := ch } e (100 * ticksPerMs))

/-- A compare word staged by a Yargan program: it goes out at POST, and not at all where the slot is late (R200, R204). -/
def State.stage (s : State) (e ch : Nat) (off : Bool) (w : Word) : State :=
  let x := s.eng e
  let a := 0x100 + 2 * ch + (if off then 1 else 0)
  s.setEng e { x.putMem a w with staged := a :: x.staged }

/-- A half-bridge under the feedforward of an engine (R215). -/
def State.underFf (s : State) (e h : Nat) : Bool := decide (e < 4) && s.bit (F.LE_FFHB e) h

/-- The feedforward entry of a half-bridge. -/
def Engine.ffOf (x : Engine) (h : Nat) : FfHb := (x.ff.find? fun f => f.hb == h).getD ⟨h, 0, 0, 0, 0, false⟩

/-- The feedforward entry of a half-bridge replaced. -/
def Engine.setFf (x : Engine) (f : FfHb) : Engine := { x with ff := f :: x.ff.filter fun g : FfHb => g.hb != f.hb }

/-- A Yargan program stages a leg voltage: ON 0, and OFF the voltage where the half-bridge is under the engine's feedforward (R215, R230). -/
def State.stageLeg (s : State) (e h : Nat) (v : F32) : State :=
  if s.underFf e h then (s.stage e (2 * h) false 0).stage e (2 * h) true v else s

/-- POST sends the staged words that the slot has written, and the feedforward words of the half-bridges under feedforward (R204, R215). (Assumption 79 DEDUCED) -/
def State.postWords (s : State) (e : Nat) : State :=
  let x := s.eng e
  let ws := x.staged.reverse.eraseDups
  let t := ws.foldl (fun (y : State) a =>
    let ch := (a - 0x100) / 2
    let off := a % 2 == 1
    let w := (x.memAt a)
    if off && ch % 2 == 0 && y.underFf e (ch / 2) && y.owner ch == some e then
      let z := y.eng e
      y.setEng e (z.setFf { z.ffOf (ch / 2) with vleg := w, posted := true })
    else y.compare e ch off w.toNat) s
  if e < 4 then
    (bitsList 32 (t.getF (F.LE_FFHB e))).foldl (fun (y : State) h =>
      let z := y.eng e
      y.setEng e (z.setFf { z.ffOf h with weight := z.memAt (0x180 + h) })) t
  else t

/-- The slot reaches POST: late past its deadline, otherwise its words go out and the run of late slots ends (R200, R201, R204). -/
def State.post (s : State) (e : Nat) : State :=
  let x := s.eng e
  if x.posted then s
  else
    let s1 := s.setEng e { x with posted := true }
    if x.late then s1
    else if x.inSlot && decide (x.deadline < s.now) && s.getF (F.LE_CFG_PACE e) != 3 then s1.lateSlot e
    else
      let t := (s1.setF (F.LE_CNT_CONSEC e) 0).postWords e
      t.setEng e { t.eng e with late3Done := false, late10Done := false }

/-- The supervision timers take the slot in (R219 to R221). -/
def State.supervise (s : State) (e : Nat) : State :=
  let x := s.eng e
  let sat := if s.getF (F.LE_SAT_SAT_LIM e) = 0 then 0 else if s.leDerate e then x.satTicks else if x.satNow || x.ffClamped then x.satTicks + x.interval else 0
  let fe := (x.memAt 0x1A8)
  let above := F32.lt (s.getFl (F.LE_FELIM e)) fe
  let ft := if s.getF (F.LE_FE_FE_LIM e) = 0 then 0 else if x.late then x.feTicks else if above then x.feTicks + x.interval else 0
  let y := { x with satTicks := sat, feTicks := ft, ffClamped := false, satDone := x.satDone && sat != 0, feDone := x.feDone && ft != 0 }
  (((s.setEng e y).setF (F.LE_SAT_SAT_T e) (min 65535 (sat / ticksPerMs))).setF (F.LE_FE_FE_T e) (min 65535 (ft / ticksPerMs))).leDwell e

/-- The program reaches END, which gates a background engine like WAIT and lets it begin again: POST if it has not, the OUT words, the counts and the timers; then the held inputs are written (R196, R200, R204, R219, R220). (Assumption 188 DEDUCED, 189 DEDUCED) -/
def State.endSlot (s : State) (e : Nat) : State :=
  let s1 := s.post e
  let x := s1.eng e
  let outs := [F.LE_OUT0 e, F.LE_OUT1 e, F.LE_OUT2 e, F.LE_OUT3 e, F.LE_OUT4 e, F.LE_OUT5 e, F.LE_OUT6 e, F.LE_OUT7 e]
  let s2 := if x.late then s1 else (List.range 8).foldl (fun (y : State) k => y.setF (outs.getD k (F.LE_OUT0 e)) (x.memAt (0x1A0 + k)).toNat) s1
  let s3 := (s2.setF (F.LE_EXEC e) x.cycles).setF (F.LE_PEAK e) (max x.cycles (s2.getF (F.LE_PEAK e)))
  let s4 := s3.supervise e
  let back := s4.getF (F.LE_CFG_PACE e) == 3
  let y := { (s4.eng e).clearNew with inSlot := false, held := [], staged := [], waitFine := (s4.eng e).waitFine || back, waitAt := if back then s4.battenTime else (s4.eng e).waitAt, pc := if back then (s4.eng e).entry else (s4.eng e).pc }
  s4.setEng e (x.held.foldl (fun z h => z.input h) y)

/-- The saturation timer of an engine has expired: its event, and its fault in the class SATCLS gives (R219). -/
def State.satExpired (s : State) (e : Fin 16) : State :=
  ((s.setEng e { s.eng e with satDone := true }).event (F.LE_EVT_SATEXP e)).raise { Flt.LE_SAT_EXPIRED with cls := if s.getB (F.LE_CFG_SATCLS e) then 2 else 3 } { stages := s.getF (F.LE_CFG_STAGES e), item := e }

/-- LE_SAT_EXPIRED (R219). -/
def execLeSatExpired (t : Nat) (e : Fin 16) (s0 : State) : Out :=
  let s := s0.advance t
  let lim := s.getF (F.LE_SAT_SAT_LIM e) * ticksPerMs
  if s.mainUp && lim != 0 && decide (lim ≤ (s.eng e).satTicks) && !(s.eng e).satDone then .next (s.satExpired e) else .next s

/-- The following-error timer of an engine has expired (R220). -/
def State.feExpired (s : State) (e : Fin 16) : State :=
  ((s.setEng e { s.eng e with feDone := true }).event (F.LE_EVT_FEEXP e)).raise { Flt.LE_FE_EXPIRED with cls := if s.getB (F.LE_CFG_FECLS e) then 2 else 3 } { stages := s.getF (F.LE_CFG_STAGES e), item := e }

/-- LE_FE_EXPIRED (R220). -/
def execLeFeExpired (t : Nat) (e : Fin 16) (s0 : State) : Out :=
  let s := s0.advance t
  let lim := s.getF (F.LE_FE_FE_LIM e) * ticksPerMs
  if s.mainUp && lim != 0 && decide (lim ≤ (s.eng e).feTicks) && !(s.eng e).feDone then .next (s.feExpired e) else .next s

/-- The derating dwell of an engine has expired (R221). -/
def State.dwellExpired (s : State) (e : Fin 16) : State :=
  ((s.setEng e { s.eng e with dwellDone := true }).event (F.LE_EVT_DWELLEXP e)).raise Flt.LE_DERATE_DWELL { stages := s.getF (F.LE_CFG_STAGES e), item := e }

/-- LE_DERATE_DWELL (R221). -/
def execLeDerateDwell (t : Nat) (e : Fin 16) (s0 : State) : Out :=
  let s := (s0.advance t).leDwell e
  match (s.eng e).dwellSince with
  | some d =>
    if s.mainUp && s.elapsed d (s.getF (F.LE_DWELL_DWELL_LIM e) * 100 * ticksPerMs) && !(s.eng e).dwellDone then .next (s.dwellExpired e)
    else .next s
  | none => .next s

/-- LWAIT_TIMEOUT (R205): the cycles have passed; the flag says whether the word is fresh. -/
def execLwaitTimeout (t : Nat) (e : Fin 16) (s0 : State) : Out :=
  let s := s0.advance t
  let x := s.eng e
  match x.wait with
  | some w =>
    if w.until_ ≤ s.now then .next (s.setEng e { x with v := vset x.v w.flagReg (if s.fresh e w.engine w.link then 1 else 0), wait := none, cycles := x.cycles + (w.until_ - w.since) / 16 }) else .next s
  | none => .next s

/-- The engine whose feedforward a half-bridge is under. -/
def State.ffEngine (s : State) (h : Nat) : Option Nat := [0, 1, 2, 3].find? fun e => s.underFf e h

/-- A new period of the feedforward unit: the flags of the last one clear, and VIN_AGE counts a period without a valid word (R217). -/
def State.ffPeriod (s : State) (e start : Nat) : State :=
  let x := s.eng e
  if x.ffFor = start then s
  else
    let t := ((s.setB (F.LE_FFSTAT_CLAMPED e) false).setB (F.LE_FFSTAT_MODEERR e) false)
    let some1 := (bitsList 32 (t.getF (F.LE_FFHB e))).any fun h => (t.comingCar (t.hbCar h)).hbMode h == 1
    let u := t.setEng e { x with ffFor := start, vinNew := false }
    if !some1 || x.vinNew then u
    else
      let v := u.bump (F.LE_FFSTAT_VIN_AGE e)
      if 8 ≤ v.getF (F.LE_FFSTAT_VIN_AGE e) && !x.ffStopped then
        let st := v.getF (F.LE_CFG_STAGES e)
        let b := Nat.land st 0x183 != 0
        ((v.setEng e { v.eng e with ffStopped := true }).event (F.LE_EVT_FFVIN e)).raise (Flt.LE_FF_VIN.orC b) { stages := st, item := e }
      else v

/-- The OFF shadow that feedforward computes for one half-bridge (R216): the word, whether it was clamped, and the leg voltage used. -/
def ffOff (nan : F32) (vleg vprev : F32) (accen : Bool) (kacc ffacc w : F32) (vin : Rat) (on p : Nat) : Nat × Bool × F32 :=
  let add := if accen then F32.mul nan (F32.mul nan kacc ffacc) w else 0
  let v0 := F32.add nan vleg add
  let bad := !F32.isFinite v0
  let v := if bad then vprev else v0
  let d := F32.toRat v / vin
  if d ≤ 0 then (0, true, v)
  else if 1 ≤ d then (0xFFFFFF, true, v)
  else (on + (roundRat (d * p)).toNat, bad, v)

/-- The feedforward unit writes the OFF word of a half-bridge for a period of p fine ticks at a supply voltage (R216). (Assumption 80 DEDUCED, 190 DEDUCED) -/
def State.ffWrite (s : State) (e h p : Nat) (vin : Rat) : State :=
  let x := s.eng e
  let f := x.ffOf h
  let (off, clamped, v) := ffOff 0x7FC00000 f.vleg f.vlegPrev (s.getB (F.LE_FFCFG_ACCEN e)) (s.getFl (F.LE_KACC e)) (s.getFl (F.LE_FFACC e)) f.weight vin (s.getF (F.PWM_CH_ON (2 * h))) p
  let b := s.setEng e { x.setFf { f with vlegPrev := v } with ffClamped := x.ffClamped || clamped }
  let d := if clamped then b.setB (F.LE_FFSTAT_CLAMPED e) true else b
  d.compare e (2 * h) true (min off 0xFFFFFF)

/-- FEEDFORWARD (R216 to R218): 1,088 fine ticks before a period start of the half-bridge's carrier. (Assumption 80 DEDUCED) -/
def execFeedforward (t : Nat) (n : Fin 32) (s0 : State) : Out :=
  let s := s0.advance t
  match s.ffEngine n with
  | none => .next s
  | some e =>
    let c := s.car (s.hbCar n)
    if !s.mainUp || s.leMode e = 0 || !c.running || s.now + 1088 < c.next then .next s
    else
      let a := s.ffPeriod e (c.next - c.offset)
      if (s.comingCar (s.hbCar n)).hbMode n != 1 then .next (a.setB (F.LE_FFSTAT_MODEERR e) true)
      else if (a.eng e).ffStopped then .next a
      else match (a.eng e).vin with
        | none => .next a
        | some vin => .next (a.ffWrite e n (s.comingPeriod (s.hbCar n)) vin)

/-- Words of the inactive bank of an engine from a coefficient index on (R206). -/
def State.putBank (s : State) (e first : Nat) (ws : List Word) : State :=
  let x := s.eng e
  let put := fun (l : List (Nat × Word)) => (List.range ws.length).foldl (fun m k => sparsePut 0 (first + k) (ws.getD k 0) m) l
  s.setEng e (if s.leBankB e then { x with bankA := put x.bankA } else { x with bankB := put x.bankB })

/-- The words after the first three bytes of a request. -/
def reqWords (r : Req) : List Word := (List.range ((r.params.length - 3) / 4)).map fun k => BitVec.ofNat 32 (r.num (3 + 4 * k) 4)

/-- LE_BANK_WRITE (R206). (Assumption 151 DEDUCED) -/
def execLeBankWrite (r : Req) (s : State) : Out :=
  .next (serve { code := 0x0701 } (fun n => decide (3 ≤ n) && n % 4 == 3) r (fun _ s =>
    let e := r.num 0 1
    let first := r.num 1 2
    if 16 ≤ e ∨ 256 < first + (r.params.length - 3) / 4 then refuse stBadParam s
    else if s.bit F.LE_BANK_PEND e then refuse stBusy s
    else okWith [] (s.putBank e first (reqWords r))) s)

/-- A background engine that is not stopped. -/
def State.background (s : State) (e : Nat) : Bool := s.leMode e != 0 && s.getF (F.LE_CFG_PACE e) == 3

/-- A swap of an engine's banks waits for its next slot start, in a background engine for its next wake (R207). -/
def State.swapWaits (s : State) (e : Nat) : Bool := s.hasSlots e || s.background e

/-- Some bank of the engines listed swaps more than 1.5 ms from now (R493). -/
def State.swapFar (s : State) (es : List Nat) : Bool :=
  (es.filter s.swapWaits).any fun e => s.background e || decide (s.now + 3 * ticksPerMs / 2 < s.nextSlot e)

/-- The banks of the engines listed swap at once or are marked to (R207). (Assumption 78 DEDUCED) -/
def State.requestSwap (s : State) (es : List Nat) : State :=
  let u := (es.filter fun e => !s.swapWaits e).foldl (fun (x : State) e => x.swapBank e) s
  (es.filter s.swapWaits).foldl (fun (x : State) e => x.setBit F.LE_BANK_PEND e true) u

/-- LE_BANK_SWAP (R207, R208, R493). -/
def execLeBankSwap (r : Req) (s : State) : Out :=
  serveOp { code := 0x0702, lens := [2] } r (fun t s =>
    let es := bitsList 16 (r.num 0 2)
    if es.any fun e => s.bit F.LE_BANK_PEND e then refuse stBusy s
    else
      let v := s.requestSwap es
      let wait := es.filter s.swapWaits
      if wait.isEmpty then okWith v.activeBanks v
      else if s.swapFar es then .done stDeferred v.activeBanks v
      else .later { v with swaps := v.swaps ++ [({ ticket := t, mask := maskOf wait } : SwapWait)] }) s

/-- An engine whose channels serve a stage that switches (R209). -/
def State.ownsSwitching (s : State) (e : Nat) : Bool :=
  s.leSwitching e || (List.range 64).any fun c => s.owner c == some e && decide (s.chCode c / 16 ≤ 8) && s.switching (s.chCode c / 16)

/-- LE_MODE is answered STATE_REFUSED: no program, STOP while its stages switch, MANUAL of a traction engine while a set switches (R209). -/
def State.modeRefused (s : State) (e m : Nat) : Bool :=
  (m != 0 && !s.leLoaded e) || (m == 0 && s.ownsSwitching e) || (m == 2 && s.getF (F.LE_CFG_STAGES e) % 4 != 0 && (s.switching 0 || s.switching 1))

/-- A mode is taken: at the next slot start, or at once by an engine that has none (R209). (Assumption 78 DEDUCED) -/
def State.takeMode (s : State) (e m : Nat) : State :=
  if s.hasSlots e then s.setEng e { s.eng e with pendMode := some m } else if m = 0 then s.stopEngine e else s.applyMode e m

/-- LE_MODE (R209). -/
def execLeMode (r : Req) (s : State) : Out :=
  serveOp { code := 0x0703, level := 2, lens := [2] } r (fun _ s =>
    let e := r.num 0 1
    let m := r.num 1 1
    if 16 ≤ e ∨ 2 < m then refuse stBadParam s
    else if s.modeRefused e m then refuse stStateRefused s
    else if (bitsList 9 (s.getF (F.LE_CFG_STAGES e))).any fun k => s.held k then refuse stSafeHeld s
    else okWith [] (s.takeMode e m)) s

/-- Table entries wait for the engine's next slot start; an engine without slots takes them at once (R214). -/
def State.putTable (s : State) (e : Nat) (ws : List (Nat × F32)) : State :=
  let x := s.eng e
  let t := s.setEng e { x with pendTable := x.pendTable ++ ws }
  if s.hasSlots e then t else t.pendingTable e

/-- LE_TABLE_WRITE (R214). (Assumption 151 DEDUCED) -/
def execLeTableWrite (r : Req) (s : State) : Out :=
  .next (serve { code := 0x0704, level := 2 } (fun n => decide (3 ≤ n) && n % 4 == 3) r (fun _ s =>
    let e := r.num 0 1
    let first := r.num 1 2
    if 16 ≤ e ∨ 1024 < first + (r.params.length - 3) / 4 ∨ ((reqWords r).any fun w => !F32.isFinite w) then refuse stBadParam s
    else okWith [] (s.putTable e ((List.range (reqWords r).length).map fun k => (first + k, (reqWords r).getD k 0)))) s)

/-- The header of a program is sound for a transfer of its length (Table 8.8). -/
def progHeaderOk (bs : List Byte) : Bool :=
  let n := beAt bs 6 2
  decide (16 ≤ bs.length) && beAt bs 0 4 == 0x4F4C4550 && beAt bs 4 2 == 1 && decide (1 ≤ n) && decide (n ≤ 4092) && bs.length == 16 + 4 * n
    && decide (beAt bs 8 2 < n) && beAt bs 10 2 == 1 && beAt bs 12 4 == 0

/-- The code words of a program. -/
def progWords (bs : List Byte) : List Word := (List.range (beAt bs 6 2)).map fun k => BitVec.ofNat 32 (beAt bs (16 + 4 * k) 4)

/-- The first check of R222 that refuses a program: the error code and the word index. (Assumption 59 DESIGN CHOICE) -/
def progError (ws : List Word) : Option (Nat × Nat) :=
  let codes := (List.range ws.length).map fun k => Config.leWordCheck ws k
  ([2, 3, 4, 5].filterMap fun c => (codes.findIdx? fun x => x == c).map fun i => (c, i)).head?

/-- LE_LOADSTAT after the last chunk of a LE_LOAD (Table 8.12). -/
def State.loadStat (s : State) (e code word : Nat) : State :=
  ((s.setF F.LE_LOADSTAT_ENGINE e).setF F.LE_LOADSTAT_ERRCODE code).setF F.LE_LOADSTAT_ERRWORD word

/-- WCET as the register shows it, never 0 for a loaded program (R199). (Assumption 59 DESIGN CHOICE) -/
def wcetWord (n : Nat) : Nat := max 1 (min n 0xFFFFFF)

/-- A verified program is loaded into an engine: code, entry point, its working memory, banks and table cleared (R195, R222). -/
def State.putProgram (s : State) (e : Nat) (bs : List Byte) : State :=
  let ws := progWords bs
  let x := s.eng e
  let y := { x with code := ws, entry := beAt bs 8 2, pc := beAt bs 8 2, mem := x.mem.filter (fun p : Nat × Word => !(decide (0x300 ≤ p.1) || (decide (0x180 ≤ p.1) && decide (p.1 < 0x1A0)))), bankA := [], bankB := [], table := [], pendTable := [] }
  let t := (((s.setEng e y).setBit F.LE_RUN_LOADED e true).setF (F.LE_WCET e) (wcetWord (Config.leWcet ws))).setF (F.LE_PEAK e) 0
  let u := { t with idn := if e = 14 then { t.idn with le14 := bs } else { t.idn with le15 := bs } }
  u.loadStat e 0 0xFFF

/-- A whole program is verified and, where it passes, loaded (R195, R222). -/
def State.loadProgram (s : State) (e : Nat) (bs : List Byte) : Res :=
  if !progHeaderOk bs then refuse stBadParam (s.loadStat e 1 0xFFF)
  else match progError (progWords bs) with
    | some (c, i) => refuse stBadParam (s.loadStat e c i)
    | none => okWith [] (s.putProgram e bs)

/-- LE_LOAD (R89, R222). -/
def execLeLoad (r : Req) (s : State) : Out :=
  .next (serve { code := 0x0700, level := 2 } (fun n => decide (10 ≤ n)) r (fun _ s =>
    let e := r.num 0 1
    if e ≠ 14 ∧ e ≠ 15 then refuseChunk 0x0700 r.session s
    else match s.chunk 0x0700 e 16384 r.session (r.num 1 4) (r.num 5 4) (r.params.drop 9) with
      | .bad => refuseChunk 0x0700 r.session s
      | c =>
        if s.power ≠ pSTANDBY ∨ s.leMode e ≠ 0 then refuse stStateRefused s
        else match c with
          | .more u => okWith [] u
          | .whole bytes u => u.loadProgram e bytes
          | _ => refuse stBusy s) s)

/-- The slot budget of an engine in cycles, 0 where the margins exceed the interval (R199). -/
def State.leBudget (s : State) (e : Nat) : Nat :=
  let i := if s.getF (F.LE_CFG_PACE e) = 0 && !(s.car (s.leCar e)).running then s.carPeriod (s.leCar e) * s.leDiv e else s.leInterval e
  (i - (s.leMargin e + s.getF (F.LE_SLOT_SLOTOFS e))) / 16

/-- The first engine whose worst case does not fit its budget (R199). -/
def State.overBudget (s : State) : Option Nat :=
  (below 16 fun e => s.leMode e != 0 && (s.getF (F.LE_CFG_PACE e) == 0 || s.getF (F.LE_CFG_PACE e) == 2) && (s.leBudget e == 0 || decide (s.leBudget e < s.getF (F.LE_WCET e)))).head?

end Sys2Proof.Machine
end

