-- ==== Sys2Proof/Machine/Control.lean ====
section
/-! DEFINITION. Arithmetic that the Yargan loop programs share: angles, transforms, zero-sequence injection, ramps and control blocks (R210, R211, R229, R230, R351). -/

namespace Sys2Proof.Machine

open Sys2Proof

/-- √3 and 2π as the programs carry them. (Assumption 191 DESIGN CHOICE) -/
def root3 : Rat := 1732050808 / 1000000000
def twoPi : Rat := 6283185307 / 1000000000

/-- The part of a turn of an angle in turns. -/
def fracTurn (x : Rat) : Rat := x - x.floor

/-- An angle in turns as an unsigned fraction of a turn in 32 bits, and back. -/
def turnWord (x : Rat) : Word := BitVec.ofInt 32 (x * (2 ^ 32 : Nat)).floor
def wordTurn (w : Word) : Rat := mkRat w.toNat (2 ^ 32)

/-- A difference of two angles in turns, from −1/2 to 1/2. -/
def wrapTurn (d : Rat) : Rat := d - (d + 1 / 2).floor

/-- α and β of a current pair in line, the third being the negative of their sum (R229). -/
def clarke (iu iw : Rat) : Rat × Rat :=
  let iv := -(iu + iw)
  (iu, (iv - iw) / root3)

/-- d and q of a vector at an angle, and the vector of d and q at an angle. -/
def toDq (v : Rat × Rat) (a : Word) : Rat × Rat := (v.1 * Config.cosTurn a + v.2 * Config.sinTurn a, v.2 * Config.cosTurn a - v.1 * Config.sinTurn a)
def fromDq (v : Rat × Rat) (a : Word) : Rat × Rat := (v.1 * Config.cosTurn a - v.2 * Config.sinTurn a, v.1 * Config.sinTurn a + v.2 * Config.cosTurn a)

/-- The three phase values of a vector. -/
def toPhases (v : Rat × Rat) : List Rat := [v.1, v.2 * root3 / 2 - v.1 / 2, -(v.2 * root3 / 2) - v.1 / 2]

/-- Phase values with min-max zero-sequence injection (R230, R351). -/
def minMaxed (l : List Rat) : List Rat :=
  let hi := l.foldl maxRat (l.headD 0)
  let lo := l.foldl minRat (l.headD 0)
  l.map fun v => v - (hi + lo) / 2

/-- A value moved towards a goal by at most a step. -/
def stepTo (x goal step : Rat) : Rat := if absRat (goal - x) ≤ step then goal else if x < goal then x + step else x - step

/-- The pattern a NaN result reads as: a quiet NaN whose other bits are free (R194). (Assumption 73 DEDUCED) -/
def State.nan (s : State) : F32 := (Config.freeWord s.free &&& 0x803FFFFF) ||| 0x7FC00000

/-- What a PI block computes from an error, its state and kp, ki, lo, hi (R210): output, next state, saturated. (Assumption 76 DEDUCED) -/
def piRule (nan : F32) (k ki lo hi err st : F32) : F32 × F32 × Bool :=
  let u := F32.add nan (F32.mul nan k err) st
  let up := F32.lt hi u
  let u1 := if up then hi else u
  let dn := F32.lt u1 lo
  let u2 := if dn then lo else u1
  let up' := up && !dn
  let wind := (up' && F32.lt 0 err) || (dn && F32.lt err 0)
  (u2, if wind then st else F32.add nan st (F32.mul nan ki err), up || dn)

/-- A PI block of a Yargan program: kp and ki from the active bank at the address of the program, the limits given; a tracked block gives its MANUAL value (R210, R211). What saturates marks the slot but in LE2, which marks its slots itself (R219, R321). -/
def State.progPi (s : State) (e k : Nat) (err lo hi : F32) (kp : Bool) : F32 × State :=
  let x := s.eng e
  let c := fun n => s.bankWord e (Config.yarganCoef e k + n)
  let g := if kp then c 0 else 0
  let b := vget x.pi k {}
  if s.tracked e k then
    let m := s.getFl (manReg e k)
    (m, s.setEng e { x with pi := vset x.pi k { state := F32.sub s.nan m (F32.mul s.nan g err), out := m, sat := false } })
  else
    let (out, st, sat) := piRule s.nan g (c 1) lo hi err b.state
    (out, s.setEng e { x with pi := vset x.pi k { state := st, out := out, sat := sat }, satNow := x.satNow || (sat && e != 2) })

/-- A PI block of a Yargan program with its limits from the active bank. -/
def State.bankPi (s : State) (e k : Nat) (err : F32) : F32 × State :=
  let c := fun n => s.bankWord e (Config.yarganCoef e k + n)
  s.progPi e k err (c 2) (c 3) true

/-- The state of a PI block is preset (R212). -/
def State.presetPi (s : State) (e k : Nat) (v : F32) : State :=
  let x := s.eng e
  s.setEng e { x with pi := vset x.pi k { vget x.pi k {} with state := v } }

/-- The value of a channel's FAST code as an engine's program reads it. -/
def State.readValue (s : State) (e ch : Nat) : Int := s.gzValue ch (s.gzCode ch (s.leRead e ch))

/-- VDC in volts as an engine's program reads it (R237). -/
def State.vdcRead (s : State) (e : Nat) : Rat := (s.readValue e s.gzVdc : Rat) * s.getQ F.SLT_VSCALE

/-- The pacing interval of an engine in seconds. -/
def State.leSeconds (s : State) (e : Nat) : Rat := (s.leInterval e : Rat) / (ticksPerS : Rat)

/-- VSET_R now: it moves towards VSET at 1 V/ms (R341). -/
def State.vsetR (s : State) : Rat :=
  let step : Rat := ((s.now - s.aux.vrAt : Nat) : Rat) / (ticksPerMs : Rat)
  let set := s.getQ F.AUX_VSET
  if s.aux.vrBase ≤ set then minRat set (s.aux.vrBase + step) else maxRat set (s.aux.vrBase - step)

/-- The master period in which a phase's next period starts: the running one, or the next, whose length is p (R319). (Assumption 100 DESIGN CHOICE) -/
def State.phasePeriod (s : State) (h p : Nat) : Nat :=
  let c := s.hbCar h
  let r := s.car 6
  if c != 6 && (s.car c).running && r.running && decide ((s.car c).next < r.next) then r.eff else p

/-- The leg voltage of phase Pk on half-bridge h that its next period needs, with the next master period p (R319). -/
def State.legVolt (s : State) (k h p : Nat) : Rat :=
  s.vsetR * (s.getF F.AUX_PNOM : Rat) / (s.phasePeriod h p : Rat) * (1 + s.getQ (F.AUX_TRIM k))

/-- LE2 stages, as it posts, the leg voltage of every phase for the master period its slot has written (R319, R328). -/
def State.postLegs (s : State) : State :=
  match s.aux.legs with
  | some p => (List.range 8).foldl (fun (x : State) k => match x.phaseHb k with
      | some h => x.stageLeg 2 h (F32.ofRat (x.legVolt k h p))
      | none => x) { s with aux := { s.aux with legs := none } }
  | none => s

end Sys2Proof.Machine
end

