-- ==== Sys2Proof/Machine/Drive.lean ====
section
/-! DEFINITION. The current loops of the traction sets (R229, R230, R238) and the resolver as LE5 decodes it (R228, R246 to R249). -/

namespace Sys2Proof.Machine

open Sys2Proof

/-- DSTATE (Table 9.1). -/
def State.dstate (s : State) : Nat := s.getF F.TRC_STAT_DSTATE

/-- The drive enters a drive state. -/
def State.toD (s : State) (d : Nat) : State := s.setF F.TRC_STAT_DSTATE d

/-- The half-bridges of a set in the order U, V, W. -/
def State.legsOf (s : State) (set : Nat) : List Nat := [0, 1, 2].filterMap fun i => s.hbOfCode (16 * set + i)

/-- The electrical frame of a set behind that of set A, in turns (R228). -/
def State.frameShift (s : State) (set : Nat) : Rat := if set = 1 && s.getB F.TRC_CFG_SETB_SHIFT then 1 / 12 else 0

/-- The electrical speed in rad/s that LE5 has put into its link word 1. -/
def State.linkOmega (s : State) : Rat := F32.toRat (s.linkWord 5 1)

/-- The electrical angle of a set in turns at the pacing instant of its current loop: LE5's word, carried on from the instant it holds for where the two differ (R229, R249). (Assumption 197 DEDUCED) -/
def State.loopAngle (s : State) (set : Nat) : Rat :=
  let dt : Rat := (((s.eng set).pacingAt : Int) - ((s.eng 5).pacingAt : Int) : Int) / (ticksPerS : Rat)
  wordTurn (s.linkWord 5 0) + s.linkOmega / twoPi * dt - s.frameShift set

/-- The rotation of a set's frame in so many fine ticks, in turns. -/
def State.rotation (s : State) (ticks : Rat) : Rat := s.linkOmega / twoPi * ticks / (ticksPerS : Rat)

/-- The current of an in-line channel in A, and the voltage of a phase channel in V, as an engine's program reads them. -/
def State.lineAmps (s : State) (e ch : Nat) : Rat := Config.phaseAmps (s.readValue e ch)
def State.lineVolts (s : State) (e ch : Nat) : Rat := Config.phaseVolts (s.readValue e ch)

/-- The period averages of a set's in-line currents: U and W. -/
def State.setAmps (s : State) (set : Nat) : Rat × Rat :=
  let chs := s.gzPhases set
  (s.lineAmps set (chs.getD 0 32), s.lineAmps set (chs.getD 1 36))

/-- Link words 0 to 3 of a current loop: id, iq, iα, iβ (Table 9.2). -/
def State.showCurrents (s : State) (set : Nat) (dq ab : Rat × Rat) : State :=
  (((s.putLink set 0 (F32.ofRat dq.1)).putLink set 1 (F32.ofRat dq.2)).putLink set 2 (F32.ofRat ab.1)).putLink set 3 (F32.ofRat ab.2)

/-- Leg voltages of a set are staged for its feedforward (R230). -/
def State.stageLegs (s : State) (set : Nat) (vs : List Rat) : State :=
  ((s.legsOf set).zip vs).foldl (fun (x : State) p => x.stageLeg set p.1 (F32.ofRat p.2)) s

/-- The torque ramp in force in N·m per second: the stored rate, a stop within 50 ms, a loss of rotor position within 1 ms (R236, R252). (Assumption 199 DEDUCED) -/
def State.torqueRate (s : State) : Rat :=
  if s.dstate = 6 then 1000 * absRat s.trc.torqueFrom
  else if s.dstate = 7 then maxRat (F32.toRat s.trc.ramp) (20 * absRat s.trc.torqueFrom)
  else F32.toRat s.trc.ramp

/-- The current of a left operational ASC ramps towards zero at the rate of the torque ramp, within 50 ms for a stop or where no rate is stored (R238). (Assumption 199 DEDUCED) -/
def State.rampBias (s : State) (set : Nat) (dt : Rat) : State :=
  let b := vget s.trc.bias set (0, 0)
  let rate := maxRat (absRat (Config.torqueCurrent s.torqueRate)) (if s.dstate = 7 || F32.isZero s.trc.ramp then 20 * s.trc.biasFrom else 0)
  { s with trc := { s.trc with bias := vset s.trc.bias set (stepTo b.1 0 (rate * dt), stepTo b.2 0 (rate * dt)) } }

/-- The current references of a set: those of LE4 and what a left operational ASC adds (R238, Table 9.2). -/
def State.currentRef (s : State) (set : Nat) : Rat × Rat :=
  let b := vget s.trc.bias set (0, 0)
  (F32.toRat (s.linkWord 4 (2 * set)) + b.1, F32.toRat (s.linkWord 4 (2 * set + 1)) + b.2)

/-- Dead-time compensation of one phase: DT_eff / p × VDC in the direction of its current, linear within 2 % of IMAX (R230). -/
def State.deadTime (s : State) (set h p : Nat) (i : Rat) : Rat :=
  let lin := s.getQ F.TRC_IMAX / 50
  let dir := if lin ≤ 0 then (if i < 0 then -1 else if 0 < i then 1 else 0) else clampRat (-1) 1 (i / lin)
  (s.dtEff (2 * h) : Rat) / (p : Rat) * s.vdcRead set * dir

/-- The d and q voltages that the PI blocks and the decoupling of a set give for its currents and references (Table 9.2). (Assumption 198 DESIGN CHOICE) -/
def State.dqVoltage (s : State) (set : Nat) (dq : Rat × Rat) : (Rat × Rat) × State :=
  let r := s.currentRef set
  let (d, a) := s.bankPi set 0 (F32.ofRat (r.1 - dq.1))
  let (q, b) := a.bankPi set 1 (F32.ofRat (r.2 - dq.2))
  ((F32.toRat d + Config.decouple 0 dq.1 dq.2 s.linkOmega, F32.toRat q + Config.decouple 1 dq.1 dq.2 s.linkOmega), b)

/-- Regulation of one set: the voltages at an angle, injection and dead-time compensation, about half of VDC (R229, R230). -/
def State.regulateSet (s : State) (set p : Nat) (dq : Rat × Rat) (amps : List Rat) (at_ : Word) : State :=
  let (v, a) := s.dqVoltage set dq
  let legs := (minMaxed (toPhases (fromDq v at_))).map fun x => x + s.vdcRead set / 2
  let comp := ((s.legsOf set).zip amps).map fun x => s.deadTime set x.1 p x.2
  let b := { a with trc := { a.trc with demand := vset a.trc.demand set (v.1 * v.1 + v.2 * v.2) } }
  (b.stageLegs set ((legs.zip comp).map fun x => x.1 + x.2)).rampBias set ((p : Rat) / (ticksPerS : Rat))

/-- The first step out of operational ASC: integrators at 0 V, references at the measured currents, half of VDC on every leg (R238). -/
def State.leaveAscStep (s : State) (set : Nat) (dq : Rat × Rat) : State :=
  let r := s.currentRef set
  let b := (dq.1 - r.1, dq.2 - r.2)
  let a := (s.presetPi set 0 0).presetPi set 1 0
  let c := { a with trc := { a.trc with bias := vset a.trc.bias set b, biasFrom := maxRat a.trc.biasFrom (maxRat (absRat b.1) (absRat b.2)), ascLeave := setBitN a.trc.ascLeave set false } }
  let v := s.vdcRead set / 2
  c.stageLegs set [v, v, v]

/-- The current loop of a set regulates: an armed set in DSTATE 3 to 7 that no retirement has ended (Table 9.1, R262). -/
def State.loopRuns (s : State) (set : Nat) : Bool :=
  decide (3 ≤ s.dstate) && decide (s.dstate ≤ 7) && bitAt s.trc.sets set
    && (!bitAt s.trc.retired set || (vget s.trc.retireAt set none).isSome || bitAt s.trc.ascSets set)

/-- One slot of LE0 or LE1 up to its POST: currents of the ended period at its middle, voltages for the middle of the period after the next, two periods of rotation on (R229, R230, R238). A word of LE5 that LE0 has not received in time counts as a fault sample (R249). (Assumption 197 DEDUCED) -/
def State.currentLoop (s : State) (set : Nat) : State :=
  let p := (s.car (s.leCar set)).eff
  let mid := s.loopAngle set - s.rotation ((p : Rat) / 2)
  let i := s.setAmps set
  let ab := clarke i.1 i.2
  let dq := toDq ab (turnWord mid)
  let a := s.showCurrents set dq ab
  let b := if set = 0 && !s.fresh 0 5 0 then { a with trc := { a.trc with lateWord := true } } else a
  if !s.loopRuns set then b
  else if bitAt s.trc.ascSets set then b.stageLegs set [0, 0, 0]
  else if bitAt s.trc.ascLeave set then b.leaveAscStep set dq
  else b.regulateSet set p dq [i.1, -(i.1 + i.2), i.2] (turnWord (mid + s.rotation (2 * (p : Rat))))

/-- What LE0 and LE1 have computed by their POST, which waits for the words of LE5 (R205, R249), and what LE2 stages for the periods that follow its POST (R319). (Assumption 79 DEDUCED, 197 DEDUCED) -/
def State.loopPost (s : State) (e : Nat) : State :=
  if !(s.eng e).inSlot || (s.eng e).posted then s
  else if e < 2 then s.currentLoop e
  else if e = 2 then s.postLegs
  else s

/-- Electrical turns per turn of the resolver, and the sign of the positive direction (R228). -/
def State.polesPer (s : State) : Rat := mkRat (s.getF F.TRC_CFG_POLE_PAIRS) (s.getF F.TRC_CFG_RES_PP)
def State.dirSign (s : State) : Rat := if s.getB F.TRC_CFG_DIR_INV then -1 else 1

/-- The electrical angle of set A in turns for a resolver angle in turns; the positive direction does not enter it (R228). (Assumption 221 DEDUCED) -/
def State.elecTurn (s : State) (th : Rat) : Rat := fracTurn ((th + mkRat (s.getF F.TRC_RES_OFFSET) 65536) * s.polesPer)

/-- The phase of EXC in turns at a Batten time: a sine of period TEX from its last noted positive zero crossing on (R246, R247). -/
def State.excPhase (s : State) (t : Nat) : Rat :=
  fracTurn (((t : Int) - (s.trc.excAt : Int) : Int) * (256 : Rat) / (s.getF F.TRC_EXC : Rat))

/-- One sample of the resolver: Batten time, angle in turns, excitation value, amplitude, and the excitation monitor with the value expected of it. -/
structure ResSample where
  time : Nat
  angle : Rat
  exc : Rat
  amp : Rat
  monitor : Rat
  expected : Rat

/-- The sample that LE5 reads: ATAN2 of SIN and COS with the sign of the excitation at their timestamp, PHASE behind EXC (R246). (Assumption 196 DEDUCED) -/
def State.resSample (s : State) : ResSample :=
  let ts := (s.gzCh 0).fastTime
  let out := s.excPhase ts - mkRat (s.getF F.TRC_RES_PHASE) 256
  let v := fun (k : Nat) => (s.readValue 5 k : Rat)
  let sign : Rat := if fracTurn out < 1 / 2 then 1 else -1
  { time := ts, angle := Config.atan2Turn (F32.ofRat (sign * v 0)) (F32.ofRat (sign * v 1)), exc := absRat (Config.sinTurn (turnWord out)),
    amp := sqrtMicro (v 0 * v 0 + v 1 * v 1), monitor := absRat (v 2), expected := absRat (Config.excExpected (s.getF F.TRC_RES_AMP) (s.excPhase ts)) }

/-- The angle in turns that the tracking loop expects at a Batten time (R249). -/
def State.trackAhead (s : State) (t : Nat) : Rat := s.trc.resTheta + s.trc.resOmega * (((t : Int) - (s.trc.resAt : Int) : Int) / (ticksPerS : Rat))

/-- The tracking loop takes a sample in, weighted by the square of its excitation value (R249). -/
def State.track (s : State) (x : ResSample) : State :=
  let dt : Rat := ((x.time : Int) - (s.trc.resAt : Int) : Int) / (ticksPerS : Rat)
  let r := Config.trackStep (s.trackAhead x.time) s.trc.resOmega x.angle (x.exc * x.exc) dt
  { s with trc := { s.trc with resTheta := r.1, resOmega := r.2, resAt := x.time } }

/-- The amplitude of the first 100 ms after boot, corrected for the excitation (Table 9.7). -/
def State.learnAmp (s : State) (x : ResSample) : State :=
  if s.battenTime < 100 * ticksPerMs && x.exc != 0 then
    { s with trc := { s.trc with ampSum := s.trc.ampSum + x.amp / x.exc, ampCount := s.trc.ampCount + 1 } }
  else s

end Sys2Proof.Machine
end

