-- ==== Sys2Proof/Machine/EngineOps.lean ====
section
/-! DEFINITION. The loop-engine instructions (Table 8.4, R193 to R197, R204, R205, R210 to R213). Each command is one instruction that an ungated engine executes. -/

namespace Sys2Proof.Machine

open Sys2Proof

/-- After an instruction the engine goes on to the next one, or to the start of the innermost LOOP whose last instruction it was. -/
def Engine.stepPc (x : Engine) : Engine :=
  match x.loops with
  | (first, last, left) :: rest =>
    if x.pc = last then
      if 1 < left then { x with pc := first, loops := (first, last, left - 1) :: rest } else { x with pc := x.pc + 1, loops := rest }
    else { x with pc := x.pc + 1 }
  | [] => { x with pc := x.pc + 1 }

/-- An instruction of some cycles has been executed. -/
def Engine.tick (x : Engine) (cycles : Nat) : Engine := { x.stepPc with cycles := x.cycles + cycles }

/-- A loop engine executes its program: it is not in STOP, a slot is open or a background pass runs, and no LWAIT, WAIT or END gates it (R196, R197, R205, Table 8.7). (Assumption 60 DESIGN CHOICE) -/
def State.executes (s : State) (e : Nat) : Bool :=
  s.leMode e != 0 && (s.eng e).wait.isNone && (if s.getF (F.LE_CFG_PACE e) == 3 then !(s.eng e).waitFine else (s.eng e).inSlot)

/-- What an instruction does on an engine that executes; one that does not execute leaves everything as it is. (Assumption 60 DESIGN CHOICE) -/
def State.onEngine (s : State) (e : Nat) (r : Out) : Out := if s.executes e then r else .next s

/-- An instruction that writes one register. (Assumption 60 DESIGN CHOICE) -/
def State.leSet (s : State) (e : Fin 16) (d : Fin 32) (w : Word) (cycles : Nat) : State :=
  s.setEng e (((s.eng e).setReg d w).tick cycles)

/-- A float result written to a register; a NaN takes a fresh free value. -/
def State.leFloat (s : State) (e : Fin 16) (d : Fin 32) (w : F32) (cycles : Nat) : State :=
  let t := s.leSet e d w cycles
  if F32.isNaN w then { t with free := t.free + 1 } else t

/-- A register of an engine. -/
def State.leReg (s : State) (e : Fin 16) (k : Fin 32) : Word := (s.eng e).reg k

/-- LD (R195): a word of data memory; its ECC first (R203). -/
def execLd (e : Fin 16) (d : Fin 32) (a : LeAddr) (found : Fin 3) (s : State) : Out := s.onEngine e <|
  let t := s.ecc e found
  if found = 2 then .next t else .next (t.leSet e d (t.leRead e (leAddress (t.eng e) a)) 1)

/-- LDB (R195): a word of the active bank. -/
def execLdb (e : Fin 16) (d : Fin 32) (a : LeAddr) (found : Fin 3) (s : State) : Out := s.onEngine e <|
  let t := s.ecc e found
  let k := match a with
    | .abs b => b.val % 256
    | .idx b r => (b.val + (t.leReg e r).toNat) % 256
  if found = 2 then .next t else .next (t.leSet e d (t.bankWord e k) 1)

/-- ST (R195): a word of data memory; a read region keeps its word. (Assumption 72 DEDUCED) -/
def execSt (e : Fin 16) (x : Fin 32) (a : LeAddr) (s : State) : Out := s.onEngine e <|
  let g := s.eng e
  let k := leAddress g a
  let w := g.reg x
  let h := if leWritable k then g.putMem k w else g
  let i := if 0x100 ≤ k ∧ k < 0x180 then { h with staged := k :: h.staged } else h
  .next (s.setEng e (i.tick 1))

/-- FADD (R194). (Assumption 60 DESIGN CHOICE) -/
def execFadd (e : Fin 16) (d x y : Fin 32) (s : State) : Out := s.onEngine e (.next (s.leFloat e d (F32.add s.nan (s.leReg e x) (s.leReg e y)) 1))

/-- FSUB (R194). -/
def execFsub (e : Fin 16) (d x y : Fin 32) (s : State) : Out := s.onEngine e (.next (s.leFloat e d (F32.sub s.nan (s.leReg e x) (s.leReg e y)) 1))

/-- FMUL (R194). -/
def execFmul (e : Fin 16) (d x y : Fin 32) (s : State) : Out := s.onEngine e (.next (s.leFloat e d (F32.mul s.nan (s.leReg e x) (s.leReg e y)) 1))

/-- FMA (R194): x * y + z with one rounding. -/
def execFma (e : Fin 16) (d x y z : Fin 32) (s : State) : Out := s.onEngine e (.next (s.leFloat e d (F32.fma s.nan (s.leReg e x) (s.leReg e y) (s.leReg e z)) 1))

/-- The smaller (or larger) of two patterns. Of a NaN and another value, and of two zeros of unlike sign, the spec does not say which results: a free value. (Assumption 73 DEDUCED) -/
def State.leMinMax (s : State) (e : Fin 16) (d x y : Fin 32) (wantMax : Bool) : State :=
  let a := s.leReg e x
  let b := s.leReg e y
  if F32.isNaN a || F32.isNaN b then
    let t := s.leSet e d (Config.freeWord s.free) 1
    { t with free := t.free + 1 }
  else if F32.lt a b then s.leSet e d (if wantMax then b else a) 1
  else if F32.lt b a then s.leSet e d (if wantMax then a else b) 1
  else if a = b then s.leSet e d a 1
  else
    let t := s.leSet e d (if (Config.freeWord s.free).getLsbD 0 then a else b) 1
    { t with free := t.free + 1 }

/-- FMIN (R194). -/
def execFmin (e : Fin 16) (d x y : Fin 32) (s : State) : Out := s.onEngine e (.next (s.leMinMax e d x y false))

/-- FMAX (R194). -/
def execFmax (e : Fin 16) (d x y : Fin 32) (s : State) : Out := s.onEngine e (.next (s.leMinMax e d x y true))

/-- FABS (R194). -/
def execFabs (e : Fin 16) (d x : Fin 32) (s : State) : Out := s.onEngine e (.next (s.leSet e d (F32.abs (s.leReg e x)) 1))

/-- FNEG (R194). -/
def execFneg (e : Fin 16) (d x : Fin 32) (s : State) : Out := s.onEngine e (.next (s.leSet e d (F32.neg (s.leReg e x)) 1))

/-- FDIV (R194). -/
def execFdiv (e : Fin 16) (d x y : Fin 32) (s : State) : Out := s.onEngine e (.next (s.leFloat e d (F32.div s.nan (s.leReg e x) (s.leReg e y)) 8))

/-- FSQRT (R194). -/
def execFsqrt (e : Fin 16) (d x : Fin 32) (s : State) : Out := s.onEngine e (.next (s.leFloat e d (F32.sqrt s.nan (s.leReg e x)) 8))

/-- Saturation to the 32-bit two's complement range. -/
def satQ (i : Int) : Word := BitVec.ofInt 32 (clampInt (-(2 ^ 31)) (2 ^ 31 - 1) i)

/-- Fraction bits of a fixed-point format. -/
def fracBits (q : QFmt) : Nat :=
  match q with
  | .q131 => 31
  | .q1616 => 16

/-- QADD (R194): saturating. -/
def execQadd (e : Fin 16) (_q : QFmt) (d x y : Fin 32) (s : State) : Out := s.onEngine e (.next (s.leSet e d (satQ ((s.leReg e x).toInt + (s.leReg e y).toInt)) 1))

/-- QSUB (R194): saturating. -/
def execQsub (e : Fin 16) (_q : QFmt) (d x y : Fin 32) (s : State) : Out := s.onEngine e (.next (s.leSet e d (satQ ((s.leReg e x).toInt - (s.leReg e y).toInt)) 1))

/-- An exact value in units of the last place becomes a saturated word: a value between two units gives either, as a free bit says, since the spec states no rounding. (Assumption 74 DESIGN CHOICE) -/
def State.leQuantize (s : State) (e : Fin 16) (d : Fin 32) (v : Rat) (cycles : Nat) : State :=
  let lo := v.floor
  if v = (lo : Rat) then s.leSet e d (satQ lo) cycles
  else
    let t := s.leSet e d (satQ (if (Config.freeWord s.free).getLsbD 0 then lo + 1 else lo)) cycles
    { t with free := t.free + 1 }

/-- QMUL (R194): saturating. (Assumption 74 DESIGN CHOICE) -/
def execQmul (e : Fin 16) (q : QFmt) (d x y : Fin 32) (s : State) : Out :=
  s.onEngine e (.next (s.leQuantize e d (mkRat ((s.leReg e x).toInt * (s.leReg e y).toInt) (2 ^ fracBits q)) 1))

/-- CVTQF (R194): fixed point to float, rounded to nearest even. -/
def execCvtqf (e : Fin 16) (q : QFmt) (d x : Fin 32) (s : State) : Out :=
  s.onEngine e (.next (s.leSet e d (F32.ofRat (mkRat (s.leReg e x).toInt (2 ^ fracBits q))) 1))

/-- CVTFQ (R194): float to fixed point, saturating; of a NaN the result is free. -/
def execCvtfq (e : Fin 16) (q : QFmt) (d x : Fin 32) (s : State) : Out := s.onEngine e <|
  let a := s.leReg e x
  if F32.isNaN a then
    let t := s.leSet e d (Config.freeWord s.free) 1
    .next { t with free := t.free + 1 }
  else if F32.isInf a then .next (s.leSet e d (satQ (if F32.sign a then -(2 ^ 31) else 2 ^ 31 - 1)) 1)
  else .next (s.leQuantize e d (F32.toRat a * (2 ^ fracBits q : Nat)) 1)

/-- SINCOS (R194): sine and cosine of an unsigned fraction of a turn; values within the stated error are the module's own. (Assumption 75 DEDUCED) -/
def execSincos (e : Fin 16) (ds dc x : Fin 32) (s : State) : Out := s.onEngine e <|
  let a := s.leReg e x
  let g := ((s.eng e).setReg ds (F32.ofRat (Config.sinTurn a))).setReg dc (F32.ofRat (Config.cosTurn a))
  .next (s.setEng e (g.tick 4))

/-- ATAN2 (R194): the angle as an unsigned fraction of a turn; free within the stated error, and where an operand is not finite. (Assumption 75 DEDUCED) -/
def execAtan2 (e : Fin 16) (d y x : Fin 32) (s : State) : Out :=
  s.onEngine e (.next (s.leSet e d (BitVec.ofNat 32 (toBits 32 (Config.atan2Turn (s.leReg e y) (s.leReg e x) * (2 ^ 32 : Nat)).floor)) 12))

/-- CVTG (R166): the code of a channel's word in data memory, scaled to a float. -/
def execCvtg (e : Fin 16) (d : Fin 32) (ch : Fin 72) (fine : Bool) (s : State) : Out := s.onEngine e <|
  let w := s.leRead e (if fine then 0x48 + ch.val else ch.val)
  let v := s.gzValue ch (s.gzCode ch w)
  .next (s.leSet e d (F32.ofRat (mkRat v (if s.gzSingle ch then 2 ^ 24 else 2 ^ 23))) 2)

/-- CVTC (R198): a fraction of the pacing carrier's effective period in fine ticks, rounded to nearest; a result no word holds is free. (Assumption 73 DEDUCED) -/
def execCvtc (e : Fin 16) (d x : Fin 32) (s : State) : Out := s.onEngine e <|
  let a := s.leReg e x
  let v := roundRat (F32.toRat a * (s.getF (F.PWM_CAR_EFF (s.leCar e)) : Rat))
  if F32.isFinite a && decide (-(2 ^ 31) ≤ v) && decide (v < 2 ^ 32) then .next (s.leSet e d (BitVec.ofInt 32 v) 2)
  else
    let t := s.leSet e d (Config.freeWord s.free) 2
    .next { t with free := t.free + 1 }

/-- PI (R210, R211): coefficients kp, ki, lo, hi from four consecutive words of the active bank. (Assumption 76 DEDUCED) -/
def execPiBlock (e : Fin 16) (k : Fin 8) (d x : Fin 32) (coef : Fin 253) (s : State) : Out := s.onEngine e <|
  let err := s.leReg e x
  let c := fun n => s.bankWord e (coef.val + n)
  let g := s.eng e
  let b := g.pi.get k
  if s.tracked e k then
    let m := s.getFl (manReg e k)
    let b' : PiBlock := { state := F32.sub s.nan m (F32.mul s.nan (c 0) err), out := m, sat := false }
    let t := (s.setEng e { g with pi := g.pi.set k b' }).leFloat e d m 3
    .next t
  else
    let (out, st, sat) := piRule s.nan (c 0) (c 1) (c 2) (c 3) err b.state
    let t := (s.setEng e { g with pi := g.pi.set k { state := st, out := out, sat := sat }, satNow := g.satNow || sat }).leFloat e d out 3
    .next t

/-- PRESET (R212): the state of a block from a register. -/
def execPreset (e : Fin 16) (k : Fin 8) (x : Fin 32) (s : State) : Out := s.onEngine e <|
  let g := s.eng e
  let b := g.pi.get k
  .next (s.setEng e (({ g with pi := g.pi.set k { b with state := g.reg x } }).tick 1))

/-- SAT: the spec names the instruction and its one cycle and states no result: a free value. (Assumption 73 DEDUCED) -/
def execSat (e : Fin 16) (d _x : Fin 32) (s : State) : Out := s.onEngine e <|
  let t := s.leSet e d (Config.freeWord s.free) 1
  .next { t with free := t.free + 1 }

/-- TLOOK (R213): interpolation between two entries of the table, from the last to the first. -/
def execTlook (e : Fin 16) (d x : Fin 32) (s : State) : Out := s.onEngine e <|
  let g := s.eng e
  let p := (g.reg x).toNat
  let i := bitsOf p 31 22
  let f := F32.ofRat (mkRat (bitsOf p 21 0 : Nat) (2 ^ 22))
  let a := (sparseFind i g.table).getD 0
  let b := (sparseFind ((i + 1) % 1024) g.table).getD 0
  .next (s.leFloat e d (F32.add s.nan a (F32.mul s.nan f (F32.sub s.nan b a))) 3)

/-- TIME (R135): the 64-bit Batten time in one access. -/
def execTime (e : Fin 16) (dh dl : Fin 32) (s : State) : Out := s.onEngine e <|
  let b := s.battenTime
  .next (s.setEng e ((((s.eng e).setReg dh (BitVec.ofNat 32 (b / 2 ^ 32))).setReg dl (BitVec.ofNat 32 b)).tick 1))

/-- LPUT (R205): link word k of the engine, at once. -/
def execLput (e : Fin 16) (k : Fin 16) (x : Fin 32) (s : State) : Out := s.onEngine e <|
  let t := s.putLink e k (s.leReg e x)
  .next (t.setEng e ((t.eng e).tick 1))

/-- LINK (R205): a link word with its fresh flag. -/
def execLink (e : Fin 16) (d dflag : Fin 32) (from_ : Fin 16) (k : Fin 16) (s : State) : Out := s.onEngine e <|
  let w := s.linkWord from_ k
  let f : Word := if s.fresh e from_ k then 1 else 0
  .next (s.setEng e ((((s.eng e).setReg d w).setReg dflag f).tick 1))

/-- LWAIT (R205): the engine is gated until the word is fresh or the cycles have passed. (Assumption 78 DEDUCED) -/
def execLwait (e : Fin 16) (dflag : Fin 32) (from_ : Fin 16) (k : Fin 16) (cycles : Nat) (s : State) : Out := s.onEngine e <|
  if s.fresh e from_ k then .next (s.leSet e dflag 1 0)
  else if cycles = 0 then .next (s.leSet e dflag 0 0)
  else
    let g := (s.eng e).tick 0
    .next (s.setEng e { g with wait := some { engine := from_, link := k, flagReg := dflag, since := s.now, until_ := s.now + 16 * cycles } })

/-- BR: forward, conditional; the condition is given as it was found. -/
def execBr (e : Fin 16) (taken : Bool) (target : Fin 4096) (s : State) : Out := s.onEngine e <|
  let g := (s.eng e).tick 1
  .next (s.setEng e (if taken && decide ((s.eng e).pc < target.val) then { g with pc := target } else g))

/-- LOOP: the instructions up to `last` run count times, 1 to 4,096, nested at most 4 deep. -/
def execLoop (e : Fin 16) (count : Nat) (last : Fin 4096) (s : State) : Out := s.onEngine e <|
  let g := s.eng e
  let h := { g with pc := g.pc + 1, cycles := g.cycles + 1 }
  .next (s.setEng e (if 1 ≤ count ∧ count ≤ 4096 ∧ g.loops.length < 4 ∧ g.pc < last.val then { h with loops := (g.pc + 1, last.val, count) :: h.loops } else h))

/-- POST (R201, R204, R229). (Assumption 60 DESIGN CHOICE) -/
def execPost (e : Fin 16) (s : State) : Out := s.onEngine e <|
  let t := s.loopPost e
  .next ((t.setEng e ((t.eng e).tick 2)).post e)

/-- END (R204): with the two cycles of the POST it implies. -/
def execEndSlot (e : Fin 16) (s : State) : Out := s.onEngine e <|
  let t := s.loopPost e
  let g := t.eng e
  .next ((t.setEng e (g.tick (if g.posted then 1 else 3))).endSlot e)

/-- PACE (R197): PERIOD or PERIOD_ALT. -/
def execPace (e : Fin 16) (alt : Bool) (s : State) : Out := s.onEngine e (.next ((s.setEng e ((s.eng e).tick 1)).setAlt e alt))

/-- WAIT (R197): gates a background engine until the next FINE output instant; one pass of its program is complete. -/
def execWait (e : Fin 16) (s : State) : Out := s.onEngine e <|
  let g := s.eng e
  let t := (s.setF (F.LE_EXEC e) g.cycles).setF (F.LE_PEAK e) (max g.cycles (s.getF (F.LE_PEAK e)))
  .next (t.setEng e { g.stepPc.clearNew with waitFine := true, waitAt := t.battenTime })

end Sys2Proof.Machine
end

