-- ==== Sys2Proof/Machine/Sha256.lean ====
section
/-! DEFINITION. SHA-256 as FIPS 180-4 gives it, which the spec names for body hashes, parameter hashes and reports (R124, R455, R475, R477, R479). -/

namespace Sys2Proof.Machine

/-- The eight words that a row of 256 bits holds, the highest first. -/
def shaRow (r : BitVec 256) : List (BitVec 32) := (List.range 8).map fun i => r.extractLsb' (224 - 32 * i) 32

/-- The 64 round constants, eight to a row: the first 32 fraction bits of the cube roots of the first 64 primes. -/
def shaK : List (BitVec 32) :=
  ([0x428a2f9871374491b5c0fbcfe9b5dba53956c25b59f111f1923f82a4ab1c5ed5,
    0xd807aa9812835b01243185be550c7dc372be5d7480deb1fe9bdc06a7c19bf174,
    0xe49b69c1efbe47860fc19dc6240ca1cc2de92c6f4a7484aa5cb0a9dc76f988da,
    0x983e5152a831c66db00327c8bf597fc7c6e00bf3d5a7914706ca635114292967,
    0x27b70a852e1b21384d2c6dfc53380d13650a7354766a0abb81c2c92e92722c85,
    0xa2bfe8a1a81a664bc24b8b70c76c51a3d192e819d6990624f40e3585106aa070,
    0x19a4c1161e376c082748774c34b0bcb5391c0cb34ed8aa4a5b9cca4f682e6ff3,
    0x748f82ee78a5636f84c878148cc7020890befffaa4506cebbef9a3f7c67178f2] : List (BitVec 256)).flatMap shaRow

/-- The eight initial hash words: the first 32 fraction bits of the square roots of the first 8 primes. -/
def shaInit : List (BitVec 32) := shaRow 0x6a09e667bb67ae853c6ef372a54ff53a510e527f9b05688c1f83d9ab5be0cd19

/-- Word i of a list of hash words. -/
def shaAt (l : List (BitVec 32)) (i : Nat) : BitVec 32 := l.getD i 0

/-- One round. -/
def shaRound (h : List (BitVec 32)) (k w : BitVec 32) : List (BitVec 32) :=
  let a := shaAt h 0
  let e := shaAt h 4
  let s1 := e.rotateRight 6 ^^^ e.rotateRight 11 ^^^ e.rotateRight 25
  let ch := (e &&& shaAt h 5) ^^^ (~~~e &&& shaAt h 6)
  let t1 := shaAt h 7 + s1 + ch + k + w
  let s0 := a.rotateRight 2 ^^^ a.rotateRight 13 ^^^ a.rotateRight 22
  let mj := (a &&& shaAt h 1) ^^^ (a &&& shaAt h 2) ^^^ (shaAt h 1 &&& shaAt h 2)
  [t1 + s0 + mj, a, shaAt h 1, shaAt h 2, shaAt h 3 + t1, e, shaAt h 5, shaAt h 6]

/-- The message schedule extended by n words; the list holds the last 16, oldest first. -/
def shaRounds : Nat → List (BitVec 32) → List (BitVec 32) → List (BitVec 32) → List (BitVec 32)
  | 0, _, _, h => h
  | _, _, [], h => h
  | n + 1, w, k :: ks, h =>
    let x1 := shaAt w 1
    let x14 := shaAt w 14
    let s0 := x1.rotateRight 7 ^^^ x1.rotateRight 18 ^^^ (x1 >>> 3)
    let s1 := x14.rotateRight 17 ^^^ x14.rotateRight 19 ^^^ (x14 >>> 10)
    shaRounds n (w.drop 1 ++ [shaAt w 0 + s0 + shaAt w 9 + s1]) ks (shaRound h k (shaAt w 0))

/-- The words of a block of 64 bytes. -/
def shaWords : Nat → List Byte → List (BitVec 32)
  | 0, _ => []
  | n + 1, bs => BitVec.ofNat 32 (beNat (bs.take 4)) :: shaWords n (bs.drop 4)

/-- One block folded into the hash. -/
def shaBlock (h : List (BitVec 32)) (bs : List Byte) : List (BitVec 32) :=
  List.zipWith (· + ·) h (shaRounds 64 (shaWords 16 bs) shaK h)

/-- n blocks folded into the hash. -/
def shaBlocks : Nat → List Byte → List (BitVec 32) → List (BitVec 32)
  | 0, _, h => h
  | n + 1, bs, h => shaBlocks n (bs.drop 64) (shaBlock h (bs.take 64))

/-- The padded message: the bit 1, zeros, and the length in bits. -/
def shaPad (bs : List Byte) : List Byte :=
  bs ++ [0x80] ++ List.replicate ((119 - bs.length % 64) % 64) 0 ++ beBytes 8 (8 * bs.length)

/-- The 32 bytes of SHA-256 of a byte string. (Assumption 131 PRESUMED) -/
def sha256 (bs : List Byte) : List Byte :=
  let p := shaPad bs
  (shaBlocks (p.length / 64) p shaInit).flatMap fun w => beBytes 4 w.toNat

end Sys2Proof.Machine
end

