-- ==== Sys2Proof/Machine/Ridge.lean ====
section
/-! DEFINITION. The Ridge: its time, events, pulses, energy, cross-witnessing, tamper detection and daily blocks (R430 to R456, R484). -/

namespace Sys2Proof.Machine

open Sys2Proof

/-- The state with the Ridge replaced. -/
def State.setR (s : State) (r : Ridge) : State := { s with rdg := r }

/-- QP runs: in Running or Woken, on firmware that has verified (Table 16.3, R484). -/
def State.qpOn (s : State) : Bool := s.rdg.alive && s.rdg.mode != .retention

/-- QP runs in Running. -/
def State.qpRunning (s : State) : Bool := s.rdg.alive && s.rdg.mode == .running

/-- Ridge time in seconds (R436). -/
def State.rdgTime (s : State) : Nat :=
  (s.rdg.timeBase + if s.rdg.rtcStopped then 0 else (s.now - s.rdg.timeAt) / ticksPerS) % 2 ^ 32

/-- Ridge time in 1/32,768 s, as the Eave takes it over (R51, R52). -/
def State.rdgTicks (s : State) : Nat :=
  (s.rdg.timeBase * 32768 + if s.rdg.rtcStopped then 0 else (s.now - s.rdg.timeAt) * 32768 / ticksPerS) % 2 ^ 47

/-- Identifiers and values at shipment of the sealed parameters, in identifier order (Table 16.13). -/
def rdgParamTable : List (Nat × Word) :=
  [(0x0001, 0x45FA0000), (0x0002, 1), (0x0010, 0x3F800000), (0x0011, 0x3F800000), (0x0012, 0x3F800000), (0x0013, 0x3F800000),
   (0x0014, 0x3F800000), (0x0015, 0x3F800000), (0x0016, 0x3F800000), (0x0017, 0x3F800000), (0x0020, 0x3F), (0x0021, 0x43660000)]
  ++ [(0x0030, 0), (0x0031, 0), (0x0032, 0), (0x0033, 0), (0x0034, 0), (0x0035, 0), (0x0040, 0), (0x0041, 0), (0x0042, 0),
   (0x0043, 0), (0x0044, 0), (0x0045, 0), (0x0050, 0), (0x0051, 0), (0x0052, 0), (0x0060, 0x41200000), (0x0061, 0x43FA0000)]

/-- The value of an identifier in a list of changes over Table 16.13. -/
def paramIn (l : List (Nat × Word)) (id : Nat) : Word :=
  match l.find? fun e => e.1 == id with
  | some e => e.2
  | none => match rdgParamTable.find? fun e => e.1 == id with
    | some e => e.2
    | none => 0

/-- A sealed parameter in force. -/
def State.param (s : State) (id : Nat) : Word := paramIn s.rdg.params id

/-- A sealed parameter that is a float. -/
def State.paramQ (s : State) (id : Nat) : Rat := F32.toRat (s.param id)

/-- A sealed parameter that is a signed integer. -/
def State.paramI (s : State) (id : Nat) : Int := signExt 32 (s.param id).toNat

/-- The parameter-set hash of a list of changes (R457). -/
def paramHash (l : List (Nat × Word)) : List Byte :=
  sha256 (rdgParamTable.flatMap fun e => beBytes 2 e.1 ++ beBytes 4 (paramIn l e.1).toNat)

/-- WPI_K, wheel pulses per km. -/
def State.wpiK (s : State) : Rat := s.paramQ 0x0001

/-- The ratios in use (Table 16.13). -/
def State.ratios (s : State) : List Rat := (List.range (s.param 0x0002).toNat).map fun i => s.paramQ (0x0010 + i)

/-- The odometer in whole metres (R439). (Assumption 127 DEDUCED) -/
def State.odometer (s : State) : Nat := floorNat s.rdg.odo

/-- The energy registers in whole mWh (R443). -/
def State.rdgImp (s : State) : Nat := floorNat s.rdg.imp
def State.rdgExp (s : State) : Nat := floorNat s.rdg.exp

/-- Bytes that a held day takes in the daily-block store (Table 16.6). -/
def State.dayBytes (s : State) (day : Nat) (fixed : Nat) : Nat :=
  fixed + 6 * (s.rdg.motions.filter fun e => e.day == day).length + 10 * (s.rdg.energies.filter fun e => e.day == day).length

/-- Bytes used in the daily-block store. -/
def State.storeBytes (s : State) : Nat :=
  (s.rdg.seals.map fun x => 144 + x.signature.length).sum + 144 * s.rdg.closed.length
    + 6 * s.rdg.motions.length + 10 * s.rdg.energies.length

/-- The oldest whole days are overwritten until the store has room (R451); seals stand newest first. (Assumption 124 DEDUCED) -/
def pruneDays : Nat → State → State
  | 0, s => s
  | n + 1, s =>
    if s.storeBytes ≤ 7241728 then s
    else match s.rdg.seals.getLast? with
      | none => s
      | some x => pruneDays n (s.setR { s.rdg with
          seals := s.rdg.seals.dropLast
          motions := s.rdg.motions.filter fun e => e.day != x.day
          energies := s.rdg.energies.filter fun e => e.day != x.day })

/-- The store after an addition (R451). (Assumption 124 DEDUCED) -/
def State.prune (s : State) : State := pruneDays s.rdg.seals.length s

/-- Detail bytes of an event, filled up to 16 with 0 (Table 16.11). -/
def pad16 (d : List Byte) : List Byte := (d ++ List.replicate 16 0).take 16

/-- An event record is written (Table 16.11); the ring holds 8,192, and Ridge time is stored with it (R436, R451). -/
def State.rdgEvent (s : State) (code : Nat) (ends : Bool) (detail : List Byte) : State :=
  let r := s.rdg
  let flags := (if r.timeValid then 0 else 1) + (if r.sealed = 2 then 2 else 0) + (if r.mode = .woken then 4 else 0) + (if ends then 8 else 0)
  let bytes := beBytes 4 r.nEvent ++ beBytes 4 s.rdgTime ++ beBytes 2 code ++ beBytes 1 flags ++ beBytes 1 0 ++ beBytes 4 r.lec ++ pad16 detail
  s.setR { r with events := (⟨r.nEvent, r.curDay, bytes⟩ :: r.events).take 8192, dayEvents := ⟨r.nEvent, r.curDay, bytes⟩ :: r.dayEvents, nEvent := r.nEvent + 1, timeStored := s.rdgTime }

/-- The legal event counter increments; it never passes 0xFFFF_FFFF (R463). (Assumption 126 DEDUCED) -/
def State.bumpLec (s : State) : State := s.setR { s.rdg with lec := if s.rdg.lec < 0xFFFFFFFF then s.rdg.lec + 1 else s.rdg.lec }

/-- The Ridge firmware version of this edition (R485). (Assumption 132 DESIGN CHOICE) -/
def ridgeFwVersion : Nat := 0x01010000

/-- The hash of the Ridge firmware in use (R484). (Assumption 132 DESIGN CHOICE) -/
def State.ridgeHash (s : State) : List Byte := (List.range 32).map fun k => Config.ridgeFwHash s.rdg.fwActive k

/-- The flags that run in motion entries (Table 16.7). -/
def State.motionFlags (s : State) : Nat :=
  let r := s.rdg
  (if r.unpowered then 1 else 0) + (if r.absOn || r.wpiOpen then 2 else 0) + (if r.distOn then 4 else 0)
    + (if r.fieldOn then 8 else 0) + (if r.timeValid then 0 else 16)

/-- The motion entry of the minute that has ended: written with distance or a flag (R452). (Assumption 144 DEDUCED) -/
def State.motionEntry (s : State) : State :=
  let r := s.rdg
  let dist := floorNat r.odo - floorNat r.minOdo
  let f := s.motionFlags
  let cleared := { r with minOdo := r.odo, minSpeed := 0 }
  if dist = 0 ∧ f = 0 then s.setR cleared
  else
    let bytes := beBytes 2 (r.curMin % 1440 * 32 + f) ++ beBytes 2 (min dist 65535) ++ beBytes 2 (min r.minSpeed 65535)
    (s.setR { cleared with motions := ⟨r.nMotion, r.curDay, bytes⟩ :: r.motions, nMotion := r.nMotion + 1, timeStored := s.rdgTime }).prune

/-- The flags that run in energy entries (Table 16.8). (Assumption 125 DEDUCED) -/
def State.energyFlags (s : State) : Nat :=
  let r := s.rdg
  (if r.mbLoss != 0 || r.mbFlat != 0 then 1 else 0) + (if r.mmImp.on || r.mmExp.on then 2 else 0) + (if r.qInt then 4 else 0)
    + (if r.fieldOn then 8 else 0) + (if r.timeValid then 0 else 16) + (if r.parFlag then 32 else 0)

/-- The energy entry of the quarter hour that has ended: written with energy or a flag (R452). -/
def State.energyEntry (s : State) : State :=
  let r := s.rdg
  let i := floorNat r.imp - floorNat r.qImp
  let e := floorNat r.exp - floorNat r.qExp
  let f := s.energyFlags
  let cleared := { r with qImp := r.imp, qExp := r.exp, qInt := false, parFlag := false }
  if i = 0 ∧ e = 0 ∧ f = 0 then s.setR cleared
  else
    let bytes := beBytes 1 (r.curQuarter % 96) ++ beBytes 1 f ++ beBytes 4 i ++ beBytes 4 e
    (s.setR { cleared with energies := ⟨r.nEnergy, r.curDay, bytes⟩ :: r.energies, nEnergy := r.nEnergy + 1, timeStored := s.rdgTime }).prune

/-- The largest power of two below n, for n at least 2 (RFC 6962). (Assumption 131 PRESUMED) -/
def splitPow : Nat → Nat → Nat → Nat
  | 0, p, _ => p
  | k + 1, p, n => if 2 * p < n then splitPow k (2 * p) n else p

/-- The Merkle tree hash over leaf hashes (R453). (Assumption 131 PRESUMED) -/
def merkle : Nat → List (List Byte) → List Byte
  | _, [] => sha256 []
  | _, [h] => h
  | 0, _ => []
  | k + 1, l =>
    let p := splitPow l.length 1 l.length
    sha256 (1 :: (merkle k (l.take p) ++ merkle k (l.drop p)))

/-- Leaf hashes of the records of a day, in number order (R453). -/
def dayLeaves (type : Byte) (day : Nat) (l : List RdgRec) : List (List Byte) :=
  ((l.filter fun e => e.day == day).reverse).map fun e => sha256 (0 :: type :: e.bytes)

/-- The Merkle root of a day (R453). -/
def State.dayRoot (s : State) (day : Nat) : List Byte :=
  let r := s.rdg
  let l := dayLeaves 1 day r.motions ++ dayLeaves 2 day r.energies ++ dayLeaves 3 day r.sessions ++ dayLeaves 4 day r.dayEvents
  merkle l.length l

/-- The 144 bytes of a day's seal (Table 16.9). -/
def State.sealBytes (s : State) (d : RdgDay) (flags time : Nat) : List Byte :=
  [0x4F, 0x52, 0x44, 0x42, 0, 1] ++ beBytes 1 s.rdg.sealed ++ beBytes 1 flags ++ beBytes 4 d.day ++ beBytes 4 time
    ++ beBytes 8 d.odo ++ beBytes 8 d.imp ++ beBytes 8 d.exp ++ beBytes 4 d.lec ++ beBytes 4 d.motion.1 ++ beBytes 2 d.motion.2
    ++ beBytes 2 0 ++ beBytes 4 d.energy.1 ++ beBytes 1 d.energy.2 ++ beBytes 1 0 ++ beBytes 2 d.session.2 ++ beBytes 4 d.session.1
    ++ beBytes 4 d.event.1 ++ beBytes 2 d.event.2 ++ beBytes 2 0 ++ s.serialBytes ++ d.root ++ s.rdg.prevHash

/-- A closed day's seal is stored; the next day's seal takes its hash (R455). -/
def State.storeSeal (s : State) (d : RdgDay) (bytes sig : List Byte) : State :=
  (s.setR { s.rdg with
    seals := ⟨d.day, bytes, sig⟩ :: s.rdg.seals
    closed := s.rdg.closed.filter fun x => x.day != d.day
    prevHash := sha256 bytes
    newestDay := d.day }).prune

/-- Every closed day not yet signed is stored without signatures, oldest first (R455). -/
def State.storeUnsigned (s : State) : State :=
  s.rdg.closed.foldl (fun t d => t.storeSeal d (t.sealBytes d (d.flags + 1 + if d.late then 2 else 0) d.closedAt) []) s

/-- The present day closes; it waits for its signature, or is stored unsigned once the keys are gone (R455). -/
def State.closeDay (s : State) (forward : Bool) : State :=
  let r := s.rdg
  let flags := (if r.dInvalid || !r.timeValid then 4 else 0) + (if forward then 8 else 0)
  let d : RdgDay := { day := r.curDay, flags := flags, closedAt := s.rdgTime, odo := s.odometer, imp := s.rdgImp, exp := s.rdgExp, lec := r.lec, motion := (r.dMotion, r.nMotion - r.dMotion), energy := (r.dEnergy, r.nEnergy - r.dEnergy), session := (r.dSession, r.nSession - r.dSession), event := (r.dEvent, r.nEvent - r.dEvent), root := s.dayRoot r.curDay, late := r.mode != .running }
  let t := s.setR { r with closed := r.closed ++ [d], dMotion := r.nMotion, dEnergy := r.nEnergy, dSession := r.nSession, dEvent := r.nEvent, dayEvents := [], dInvalid := !r.timeValid }
  if r.keysErased then t.storeUnsigned else t

/-- The day closes where Ridge time has left it; days passed over have no block (R455, R462). -/
def State.rollDay (s : State) (forward : Bool) : State :=
  let day := s.rdgTime / 86400
  if s.rdg.curDay < day then
    let t := s.closeDay forward
    t.setR { t.rdg with curDay := day }
  else s

/-- The mesh was found broken before QP started: its event and the unsigned seals follow now (R450). (Assumption 235 DEDUCED) -/
def State.meshRecorded (s : State) : State :=
  if s.rdg.meshDue then ((s.setR { s.rdg with meshDue := false }).rdgEvent 0xC020 false (beBytes 1 0)).storeUnsigned else s

/-- A firmware slot for QP: the active one, else the other, which is an activation and counts; with neither QP does not run (R484, R463). -/
def State.qpStart (s : State) (mode : RdgMode) : State :=
  let r := s.rdg
  let t :=
    if r.rtcStopped then
      let back := s.setR { r with rtcStopped := false, timeBase := r.timeStored, timeAt := s.now, timeValid := false, dInvalid := true, mode := mode }
      (back.rdgEvent 0xC011 false (beBytes 4 r.timeStored)).meshRecorded
    else s.setR { r with mode := mode }
  let u :=
    if Config.ridgeFwOk r.fwActive then t.setR { t.rdg with alive := true }
    else if Config.ridgeFwOk (1 - r.fwActive) then
      let v := (t.setR { t.rdg with alive := true, fwActive := 1 - r.fwActive }).bumpLec
      v.rdgEvent 0xC006 false (beBytes 4 ridgeFwVersion ++ v.ridgeHash.take 12)
    else t.setR { t.rdg with alive := false }
  let m := if u.rdg.curMin < u.rdgTime / 60 then u.motionEntry else u
  let q := if m.rdg.curQuarter < m.rdgTime / 900 then m.energyEntry else m
  q.setR { q.rdg with curSec := q.rdgTime, curMin := q.rdgTime / 60, curQuarter := q.rdgTime / 900, secPulses := 0, wokenPulses := 0, wokenAt := q.now, speed := 0 }

/-- 100 m of wheel pulses (R447, R448). -/
def State.segLen (s : State) : Rat := s.wpiK / 10

/-- The deviation of a segment of p pulses and m revolutions; none for an uncoupled one (R447). -/
def State.deviation (s : State) (p : Nat) (m : Rat) : Option Rat :=
  let rs := s.ratios
  let top := rs.foldl maxRat 0
  if m * top < (p : Rat) / 2 then none
  else some ((rs.map fun x => absRat ((p : Rat) / (m * x) - 1)).foldl minRat 1000000)

/-- Revolutions from a count of 2^-16 revolution, without sign. -/
def revs (i : Int) : Rat := absRat ((i : Rat) / 65536)

/-- A segment of 100 m ends; every tenth ends a kilometre, which is judged when at least 5 segments were coupled (R447). (Assumption 147 DEDUCED) -/
def State.endSegment (s : State) : State :=
  let r := s.rdg
  let d := if r.segLost || r.witLost then none else s.deviation r.segPulses (revs r.segRev)
  let km := r.km ++ [d]
  let t := s.setR { r with segPulses := 0, segRev := 0, segLost := false, km := if km.length < 10 then km else [] }
  let cs := km.filterMap fun x => x
  if km.length < 10 ∨ cs.length < 5 then t
  else
    let mean := cs.sum / (cs.length : Rat)
    let on := decide ((3 : Rat) / 100 < mean)
    if on = r.distOn then t
    else (t.setR { t.rdg with distOn := on }).rdgEvent 0xC031 (!on) (beBytes 2 (min 65535 (floorNat (mean * 10000))) ++ beBytes 1 cs.length)

/-- A pulse in the condition of R448, or the restart of its sum; while the witness is lost the condition is suspended and does not end (R449). -/
def State.pulseAbsent (s : State) : State :=
  let r := s.rdg
  if r.absOn then
    let first := r.absFirst.getD (s.now, r.absRev)
    let n := if r.witLost then r.absPulses else r.absPulses + 1
    if !r.witLost ∧ s.segLen ≤ (n : Rat) then
      let m := revs first.2
      let t := s.rdgEvent 0xC024 true (beBytes 4 (F32.ofRat m).toNat ++ beBytes 4 ((first.1 - r.absFrom) / ticksPerS))
      t.setR { t.rdg with absOn := false, absRev := 0, absFrom := s.now, absFirst := none, absPulses := 0 }
    else s.setR { r with absFirst := some first, absPulses := n }
  else s.setR { r with absRev := 0, absFrom := s.now }

/-- A pulse counted in Woken: 10 m begin motion-while-unpowered (R450). -/
def State.pulseWoken (s : State) : State :=
  let r := s.rdg
  if r.mode = .woken then
    let n := r.wokenPulses + 1
    let t := s.setR { r with wokenPulses := n }
    if !r.unpowered ∧ 10 * s.wpiK ≤ (n : Rat) * 1000 then (t.setR { t.rdg with unpowered := true }).rdgEvent 0xC026 false [] else t
  else s

/-- One wheel pulse is counted; the first ever ends no period (R439, R440, R447, R448, R450). (Assumption 127 DEDUCED) -/
def State.countPulse (s : State) : State :=
  let r := s.rdg
  let from_ := if r.secPulses = 0 then r.lastPulse else r.secFrom
  let odo := if 0 < s.wpiK then r.odo + 1000 / s.wpiK else r.odo
  let t := s.setR { r with odo := odo, lastPulse := some s.now, secPulses := if r.lastPulse.isSome then r.secPulses + 1 else r.secPulses, wakePulses := r.wakePulses + 1, secFrom := from_, segPulses := r.segPulses + 1 }
  let u := t.pulseAbsent.pulseWoken
  if u.segLen ≤ (u.rdg.segPulses : Rat) then u.endSegment else u

/-- WPI_PULSE (R439, R48): in Retention the pulse wakes QP. -/
def execWpiPulse (t : Nat) (s0 : State) : Out :=
  let s := s0.advance t
  let u := if s.rdg.mode = .retention ∧ !s.rdg.bkpGone then s.qpStart .woken else s
  .next (if u.qpOn then u.countPulse else u)

/-- Woken ends: motion-while-unpowered, where it had begun, is recorded with its distance and duration (R450). -/
def State.endWoken (s : State) : State :=
  let r := s.rdg
  if r.mode = .woken ∧ r.unpowered then
    let dist := if s.wpiK = 0 then 0 else floorNat ((r.wokenPulses : Rat) * 1000 / s.wpiK)
    let t := s.rdgEvent 0xC026 true (beBytes 4 dist ++ beBytes 4 ((s.now - r.wokenAt) / ticksPerS))
    t.setR { t.rdg with unpowered := false, wokenPulses := 0 }
  else s

/-- QP returns to Retention (Table 16.3). -/
def State.toRetention (s : State) : State :=
  let u := s.endWoken
  u.setR { u.rdg with mode := .retention }

/-- QP_RETENTION (Table 16.3): 60 s after the last pulse QP returns to Retention. -/
def execQpRetention (t : Nat) (s0 : State) : Out :=
  let s := s0.advance t
  let since := max s.rdg.wokenAt (s.rdg.lastPulse.getD 0)
  .next (if s.rdg.mode = .woken ∧ s.elapsed since (60 * ticksPerS) then s.toRetention else s)

/-- The mesh is broken: the signing keys are erased, BROKEN is set for good, and the closed days are stored unsigned (R450). -/
def State.thatchBroken (s : State) : State :=
  let code := match s.rdg.mode with | .retention => 0 | .woken => 1 | .running => 2
  let u := (s.setR { s.rdg with sealed := 2, keysErased := true }).rdgEvent 0xC020 false (beBytes 1 code)
  u.storeUnsigned

/-- THATCH_CHECK (R450): a broken mesh erases the signing keys, sets BROKEN for good, and stores the closed days unsigned. The first check after both supplies were absent comes before QP starts, which then records it. (Assumption 216 DEDUCED, 235 DEDUCED) -/
def execThatchCheck (t : Nat) (broken : Bool) (s0 : State) : Out :=
  let s := s0.advance t
  if !broken ∨ s.rdg.sealed = 2 then .next s
  else if s.rdg.rtcStopped then .next (s.setR { s.rdg with sealed := 2, keysErased := true, meshDue := true })
  else .next s.thatchBroken

/-- A check finds the field above the limit; the third in a row begins the condition (R450). -/
def State.fieldAbove (s : State) (field : Nat) : State :=
  let r := s.rdg
  let run := r.fieldRun + 1
  let peak := max r.fieldPeak field
  let u := s.setR { r with fieldRun := run, fieldPeak := peak }
  if 3 ≤ run ∧ !r.fieldOn then (u.setR { u.rdg with fieldOn := true }).rdgEvent 0xC021 false (beBytes 2 (min peak 65535)) else u

/-- A check finds no field above the limit: a running condition ends (R450). (Assumption 145 DEDUCED) -/
def State.fieldBelow (s : State) : State :=
  let r := s.rdg
  let u := if r.fieldOn then s.rdgEvent 0xC021 true (beBytes 2 (min r.fieldPeak 65535)) else s
  u.setR { u.rdg with fieldOn := false, fieldRun := 0, fieldPeak := 0 }

/-- FIELD_CHECK (R450): more than 10 mT in 3 consecutive checks begins the condition; the first check without it ends it. The field is in 0.1 mT. -/
def execFieldCheck (t : Nat) (field : Nat) (s0 : State) : Out :=
  let s := s0.advance t
  if !s.qpRunning then .next s
  else if 100 < field then .next (s.fieldAbove field)
  else .next s.fieldBelow

/-- The sensor line reads open: the fault begins once (R441). -/
def State.wpiOpened (s : State) : State :=
  let u := s.setR { s.rdg with wpiOpen := true, wpiGood := 0 }
  if s.rdg.wpiOpen then u else u.rdgEvent 0xC025 false []

/-- A test finds the sensor line sound: the third in a row ends the fault (R441). -/
def State.wpiSound (s : State) : State :=
  let r := s.rdg
  if !r.wpiOpen then s
  else if r.wpiGood + 1 < 3 then s.setR { r with wpiGood := r.wpiGood + 1 }
  else (s.setR { r with wpiOpen := false, wpiGood := 0 }).rdgEvent 0xC025 true []

/-- WPI_OPEN_TEST (R441): above 1.0 V the sensor is open; 3 consecutive tests without it end the fault. -/
def execWpiOpenTest (t : Nat) (mv : Int) (s0 : State) : Out :=
  let s := s0.advance t
  if !s.qpRunning then .next s
  else if 1000 < mv then .next s.wpiOpened
  else .next s.wpiSound

/-- A bitstream input that MB_USED names as used (R442, Table 16.13). (Assumption 125 DEDUCED) -/
def State.mbUsed (s : State) (n : Nat) : Bool := bitAt (s.param 0x0020).toNat n

/-- RDG_MB_LOSS (R450): a used input with 1,024 identical bits is lost until it toggles again. -/
def execRdgMbLoss (t : Nat) (n : Fin 8) (run : Nat) (s0 : State) : Out :=
  let s := s0.advance t
  let r := s.rdg
  let on := decide (1024 ≤ run)
  if !s.qpRunning ∨ !s.mbUsed n.val ∨ on = bitAt r.mbLoss n.val then .next s
  else .next ((s.setR { r with mbLoss := setBitN r.mbLoss n.val on }).rdgEvent 0xC022 (!on) (beBytes 1 (2 ^ n.val)))

/-- RDG_MB_FLAT (R450): codes of a used input that span fewer than 4 codes over 1 s. -/
def execRdgMbFlat (t : Nat) (n : Fin 8) (span : Nat) (s0 : State) : Out :=
  let s := s0.advance t
  let r := s.rdg
  let on := decide (span < 4)
  if !s.qpRunning ∨ !s.mbUsed n.val ∨ on = bitAt r.mbFlat n.val then .next s
  else .next ((s.setR { r with mbFlat := setBitN r.mbFlat n.val on }).rdgEvent 0xC023 (!on) (beBytes 1 (2 ^ n.val)))

/-- The phases in use: one on MB0 and MB3, or three (R442, R443). -/
def State.rdgPhases (s : State) : Nat := if (s.param 0x0020).toNat = 0x3F then 3 else 1

/-- While KV or KI of a used input is 0 no energy is registered (R457). (Assumption 129 DEDUCED) -/
def State.rdgScaled (s : State) : Bool :=
  (List.range s.rdgPhases).all fun k => !F32.isZero (s.param (0x0030 + k)) && !F32.isZero (s.param (0x0033 + k))

/-- The code of an MB input; a lost one reads 0 (R450). -/
def State.mbCode (s : State) (codes : Vector Code24 6) (n : Nat) : Rat :=
  if bitAt s.rdg.mbLoss n then 0 else ((vget codes n 0).toInt : Rat)

/-- The voltage of a phase, delayed by PHk: an undelayed one is computed, a delayed one is a free value (R443). (Assumption 128 DESIGN CHOICE) -/
def State.rdgVolt (s : State) (codes : Vector Code24 6) (k : Nat) : Rat :=
  if s.paramI (0x0050 + k) = 0 then s.mbCode codes k * s.paramQ (0x0030 + k) * (1 + (s.paramI (0x0040 + k) : Rat) / 1000000)
  else Config.delayedVolt (s.free + k)

/-- The current of a phase (R443). -/
def State.rdgAmp (s : State) (codes : Vector Code24 6) (k : Nat) : Rat :=
  s.mbCode codes (3 + k) * s.paramQ (0x0033 + k) * (1 + (s.paramI (0x0043 + k) : Rat) / 1000000)

/-- One sample of the six inputs: the power over the used phases and the squares of the voltages (R442, R443). -/
def State.energySample (s : State) (codes : Vector Code24 6) : State :=
  let ks := List.range s.rdgPhases
  let p := (ks.map fun k => s.rdgVolt codes k * s.rdgAmp codes k).sum
  let v := ks.foldl (fun acc k => vset acc k (vget acc k 0 + s.rdgVolt codes k * s.rdgVolt codes k)) s.rdg.sampV
  { s with free := s.free + 3 }.setR { s.rdg with sampN := s.rdg.sampN + 1, sampP := s.rdg.sampP + p, sampV := v }

/-- RIDGE_ENERGY_SAMPLE (R442, R443): voltage times current summed over the used phases. -/
def execRidgeEnergySample (t : Nat) (codes : Vector Code24 6) (s0 : State) : Out :=
  let s := s0.advance t
  if !s.qpRunning then .next s else .next (s.energySample codes)

/-- Whether the voltage of a phase over the second is below half of VNOM_R (R444). -/
def State.phaseLow (s : State) (k : Nat) : Bool :=
  let lim := s.paramQ 0x0021 / 2
  decide (vget s.rdg.sampV k 0 < lim * lim * (s.rdg.sampN : Rat)) || s.rdg.sampN == 0

/-- The flags a session takes from the conditions of a second (Table 16.10). -/
def State.sessionFlags (s : State) : Nat :=
  let r := s.rdg
  (if r.mbLoss != 0 || r.mbFlat != 0 then 2 else 0) + (if r.mmImp.on || r.mmExp.on then 4 else 0)
    + (if r.fieldOn then 8 else 0) + (if r.timeValid then 0 else 16)

/-- Bits of either of two flag bytes. -/
def orBits (a b : Nat) : Nat := maskOf (below 8 fun n => bitAt a n || bitAt b n)

/-- A session ends and its record of 48 bytes is written, with its energies and odometer at its last second (R444, Table 16.10); the ring holds 6,144. -/
def State.endSession (s : State) (x : RdgSession) (end_ : Nat) (vrdg : Bool) : State :=
  let r := s.rdg
  let flags := orBits (orBits x.flags (if vrdg then 1 else 0)) (if x.odo0 < x.odoEnd then 32 else 0)
  let peak := fun (p : Rat) => min 65535 (floorNat (p / 10))
  let bytes := beBytes 4 r.nSession ++ beBytes 4 x.start ++ beBytes 4 end_ ++ beBytes 8 (floorNat x.impEnd - floorNat x.imp0)
    ++ beBytes 8 (floorNat x.expEnd - floorNat x.exp0) ++ beBytes 8 x.odo0 ++ beBytes 2 (peak x.peakImp) ++ beBytes 2 (peak x.peakExp)
    ++ beBytes 1 x.phases ++ beBytes 1 flags ++ beBytes 2 (toBits 16 x.disagree) ++ beBytes 4 0
  s.setR { r with ses := none, sesTop := none, sesRun := 0, sessions := (⟨r.nSession, r.curDay, bytes⟩ :: r.sessions).take 6144, nSession := r.nSession + 1, timeStored := s.rdgTime }

/-- A session with the figures of the second that has just ended as its last. -/
def State.sessionNow (s : State) (x : RdgSession) : RdgSession := { x with impEnd := s.rdg.imp, expEnd := s.rdg.exp, odoEnd := s.odometer }

/-- The session as its last second at or above SES_P left it, with the disagreements since (R444, R446). (Assumption 245 DEDUCED) -/
def State.sessionTop (s : State) (x : RdgSession) : RdgSession :=
  match s.rdg.sesTop with
  | some y => { y with disagree := x.disagree, lastAbove := x.lastAbove }
  | none => x

/-- The session rules of one second of mean power p (R444). -/
def State.sessionSecond (s : State) (p : Rat) : State :=
  let r := s.rdg
  let big := decide (s.paramQ 0x0061 ≤ absRat p)
  match r.ses with
  | some x =>
    let low := (List.range s.rdgPhases).all fun k => s.phaseLow k
    let y := s.sessionNow { x with
      peakImp := maxRat x.peakImp p
      peakExp := maxRat x.peakExp (-p)
      flags := orBits x.flags s.sessionFlags
      lastAbove := if big then r.curSec else x.lastAbove
      below := if big then 0 else x.below + 1
      lowVolt := if low then x.lowVolt + 1 else 0 }
    let t := s.setR { r with ses := some y, sesTop := if big then some y else r.sesTop }
    if 60 ≤ y.below then t.endSession (t.sessionTop y) y.lastAbove false
    else if 2 ≤ y.lowVolt then t.endSession y r.curSec false
    else t
  | none =>
    if !big then s.setR { r with sesRun := 0 }
    else
      let first := r.sesRun = 0
      let n := r.sesRun + 1
      let t := s.setR { r with
        sesRun := n
        runOdo := if first then r.secOdo else r.runOdo
        runFlags := if first then s.sessionFlags else orBits r.runFlags s.sessionFlags
        runPeakImp := if first then maxRat p 0 else maxRat r.runPeakImp p
        runPeakExp := if first then maxRat (-p) 0 else maxRat r.runPeakExp (-p) }
      if n < 10 then t
      else
        let up := ((List.range 3).filter fun k => !s.phaseLow k).length
        let x : RdgSession := { start := r.curSec - 9, imp0 := t.rdg.runImp, exp0 := t.rdg.runExp, odo0 := t.rdg.runOdo, peakImp := t.rdg.runPeakImp, peakExp := t.rdg.runPeakExp, phases := if up ≤ 1 then 1 else 3, flags := t.rdg.runFlags, disagree := 0, lastAbove := r.curSec, below := 0, lowVolt := 0, impEnd := r.imp, expEnd := r.exp, odoEnd := s.odometer }
        t.setR { t.rdg with ses := some x, sesTop := some x }

/-- The energy of one second: registered when its mean power reaches PSTART (R443). -/
def State.energySecond (s : State) : State :=
  let r := s.rdg
  let p := if s.rdgScaled then r.sampP / 4000 else 0
  let reg := decide (s.paramQ 0x0060 ≤ absRat p)
  let t := s.setR { r with
    imp := if reg && decide (0 < p) then r.imp + p * 5 / 18 else r.imp
    exp := if reg && decide (p < 0) then r.exp - p * 5 / 18 else r.exp
    runImp := if r.sesRun = 0 then r.imp else r.runImp
    runExp := if r.sesRun = 0 then r.exp else r.runExp }
  let u := t.sessionSecond p
  u.setR { u.rdg with sampN := 0, sampP := 0, sampV := Vector.replicate 3 0, secOdo := u.odometer }

/-- The speed of the second in 0.1 km/h (R440). -/
def State.speedSecond (s : State) : State :=
  let r := s.rdg
  let sp :=
    match r.secFrom, r.lastPulse with
    | some a, some b =>
      if r.secPulses = 0 then (if b + 2 * ticksPerS < s.now then 0 else r.speed)
      else if b ≤ a ∨ s.wpiK = 0 then 0
      else (roundRat (36000 * (ticksPerS : Rat) * (r.secPulses : Rat) / (s.wpiK * ((b - a : Nat) : Rat)))).toNat
    | none, some b => if b + 2 * ticksPerS < s.now then 0 else r.speed
    | _, none => 0
  s.setR { r with speed := sp, minSpeed := max r.minSpeed sp, secPulses := 0, secFrom := r.lastPulse }

/-- Merged mirror-write notices are recorded once 10 s have passed since the last record (R449). (Assumption 146 DEDUCED) -/
def State.mirrorRecord (s : State) : State :=
  let r := s.rdg
  let due := match r.mirrorAt with
    | some a => s.elapsed a (10 * ticksPerS)
    | none => true
  if r.mirrorMerged = 0 ∨ !due then s
  else
    let t := s.rdgEvent 0xC033 false (beBytes 4 r.mirrorAddr ++ beBytes 1 r.mirrorWriter ++ beBytes 1 0 ++ beBytes 2 (min 65535 r.mirrorMerged))
    t.setR { t.rdg with mirrorAt := some s.now, mirrorMerged := 0 }

/-- A second of Ridge time ends (R440, R443, R444). -/
def State.secondEnds (s : State) : State :=
  let u := s.speedSecond
  let v := if u.rdg.mode = .running then u.energySecond else u
  (v.setR { v.rdg with curSec := v.rdgTime }).mirrorRecord

/-- RIDGE_SECOND (R440, R443, R444): each second of Ridge time while QP runs. -/
def execRidgeSecond (t : Nat) (s0 : State) : Out :=
  let s := s0.advance t
  if !s.qpOn ∨ s.rdgTime ≤ s.rdg.curSec then .next s else .next s.secondEnds

/-- The comparison of a minute in one direction (R446): Ridge figure, control figure; returns the mismatch and whether an event begins or ends. (Assumption 143 DEDUCED) -/
def judgeMinute (m : RdgMismatch) (own ctl : Rat) (valid : Bool) : RdgMismatch × Option Bool :=
  let big := maxRat own ctl
  if !valid ∨ big < 20000 then (m, none)
  else if big * 2 < absRat (own - ctl) * 100 then ({ m with on := true, good := 0 }, if m.on then none else some false)
  else if !m.on then (m, none)
  else if m.good + 1 < 3 then ({ m with good := m.good + 1 }, none)
  else ({ m with on := false, good := 0 }, some true)

/-- A disagreement in 0.01 % of the larger figure, positive when the control side is higher (Table 16.10). -/
def disagreement (own ctl : Rat) : Int :=
  let big := maxRat own ctl
  if big = 0 then 0 else roundRat ((ctl - own) * 10000 / big)

/-- The larger in magnitude of two disagreements. -/
def widest (a b : Int) : Int := if a.natAbs < b.natAbs then b else a

/-- The energy comparison of the minute (R446). (Assumption 143 DEDUCED) -/
def State.compareMinute (s : State) : State :=
  let r := s.rdg
  let ok := !r.ctlBad && decide (0 < r.ctlFrames)
  let oi := r.imp - r.mmImp.own
  let oe := r.exp - r.mmExp.own
  let (mi, ei) := judgeMinute r.mmImp oi r.ctlImp ok
  let (me, ee) := judgeMinute r.mmExp oe r.ctlExp ok
  let dis := if ok then widest (if maxRat oi r.ctlImp < 20000 then 0 else disagreement oi r.ctlImp) (if maxRat oe r.ctlExp < 20000 then 0 else disagreement oe r.ctlExp) else 0
  let ses := match r.ses with
    | some x => some { x with disagree := clampInt (-32768) 32767 (widest x.disagree dis) }
    | none => none
  let t := s.setR { r with mmImp := { mi with own := r.imp }, mmExp := { me with own := r.exp }, ses := ses, ctlImp := 0, ctlExp := 0, ctlFrames := 0, ctlBad := false }
  let put := fun (u : State) (e : Option Bool) (dir : Nat) (own : Rat) (ctl : Nat) =>
    match e with
    | some ends => u.rdgEvent 0xC030 ends (beBytes 1 dir ++ beBytes 3 0 ++ beBytes 4 (floorNat own) ++ beBytes 4 ctl)
    | none => u
  put (put t ei 0 oi r.ctlImp) ee 1 oe r.ctlExp

/-- Written parameters take effect (R460). -/
def State.takeParams (s : State) : State :=
  let r := s.rdg
  if r.pendParams.isEmpty then s
  else s.setR { r with params := r.pendParams ++ r.params.filter (fun e => !(r.pendParams.any fun p => p.1 == e.1)), pendParams := [], parFlag := true }

/-- A minute of Ridge time ends (R436, R446, R452, R460). -/
def State.minuteEnds (s : State) : State :=
  let u := s.compareMinute.motionEntry
  let v := u.setR { u.rdg with curMin := u.rdgTime / 60, timeStored := if u.rdg.mode = .running then u.rdgTime else u.rdg.timeStored }
  v.takeParams

/-- RIDGE_MINUTE (R436, R446, R452, R460): each minute of Ridge time while QP runs. -/
def execRidgeMinute (t : Nat) (s0 : State) : Out :=
  let s := s0.advance t
  if !s.qpOn ∨ s.rdgTime / 60 ≤ s.rdg.curMin then .next s else .next s.minuteEnds

/-- RIDGE_QUARTER_HOUR (R452). -/
def execRidgeQuarterHour (t : Nat) (s0 : State) : Out :=
  let s := s0.advance t
  if !s.qpOn ∨ s.rdgTime / 900 ≤ s.rdg.curQuarter then .next s
  else
    let u := s.energyEntry
    .next (u.setR { u.rdg with curQuarter := u.rdgTime / 900 })

/-- DAY_CLOSE (R455). -/
def execDayClose (t : Nat) (s0 : State) : Out := .next ((s0.advance t).rollDay false)

/-- A closed day is sealed with the Ridge's signature, its bytes the signature engine's own (R454, R455). -/
def State.sealDay (s : State) (d : RdgDay) : State :=
  let b := s.sealBytes d (d.flags + if d.late then 2 else 0) s.rdgTime
  s.storeSeal d b ((List.range 8240).map fun k => Config.signByte 4 b k)

/-- SEAL_SIGNED (R454, R455): the oldest closed day is signed in Running. -/
def execSealSigned (t : Nat) (s0 : State) : Out :=
  let s := s0.advance t
  match s.rdg.closed with
  | [] => .next s
  | d :: _ =>
    if !s.qpRunning ∨ s.rdg.keysErased then .next s else .next (s.sealDay d)

/-- The Ridge hands over to BKP: a session's energy is closed, the running sums end, the closed days become late (R59, R436, R444). -/
def State.ridgeHandover (s : State) : State :=
  let u := match s.rdg.ses with
    | some x => s.endSession (s.sessionNow x) s.rdgTime true
    | none => s
  u.setR { u.rdg with mode := .retention, lossAt := some (u.now, u.rdgTime), timeStored := u.rdgTime, qInt := true, sesRun := 0, sampN := 0, sampP := 0, sampV := Vector.replicate 3 0, closed := u.rdg.closed.map fun d : RdgDay => { d with late := true } }

/-- VRDG and BKP are both absent: the RTC stops, and QP with it (R436). -/
def State.rtcStop (s : State) : State :=
  s.setR { s.rdg with mode := .retention, timeBase := s.rdgTime, timeAt := s.now, rtcStopped := true, unpowered := false, wokenPulses := 0 }

/-- RIDGE_VRDG_LOSS (R25, R59, R436, R444): below 6.5 V for 50 µs the Ridge hands over to BKP; where BKP is gone, its RTC stops. -/
def execRidgeVrdgLoss (t : Nat) (vrdgMv held : Nat) (s0 : State) : Out :=
  let s := s0.advance t
  if s.rdg.mode ≠ .running ∨ 6500 ≤ vrdgMv ∨ held < 50 * ticksPerUs then .next s
  else .next (if s.rdg.bkpGone then s.ridgeHandover.rtcStop else s.ridgeHandover)

/-- A closed record of interruptions is written as its event: start, end and count (R59, Table 16.12). (Assumption 125 DEDUCED) -/
def State.intEvent (s : State) (start end_ count : Nat) : State :=
  s.rdgEvent 0xC010 false (beBytes 4 start ++ beBytes 4 end_ ++ beBytes 2 (min count 65535))

/-- An open short-interruption record closes (R59). -/
def State.closeShort (s : State) : State :=
  match s.rdg.short with
  | some (start, end_, count, _) => (s.setR { s.rdg with short := none }).intEvent start end_ count
  | none => s

/-- A short interruption without an open record opens one (R59). -/
def State.openShort (s : State) (start : Nat) : State :=
  s.setR { s.rdg with short := some (start, s.rdgTime, 1, s.now) }

/-- The return ends the interruption: 1 s or longer gets a record of its own and closes an open one; a shorter one opens a record or is merged into the open one (R59). (Assumption 214 DEDUCED) -/
def State.endInterruption (s : State) : State :=
  match s.rdg.lossAt with
  | none => s
  | some (lost, start) =>
    let u := s.setR { s.rdg with lossAt := none, qInt := true }
    if u.elapsed lost ticksPerS then
      let v := u.closeShort
      v.intEvent start v.rdgTime 1
    else match u.rdg.short with
      | none => u.openShort start
      | some (first, _, count, last) =>
        if lost < last + 60 * ticksPerS then u.setR { u.rdg with short := some (first, u.rdgTime, count + 1, u.now) }
        else u.closeShort.openShort start

/-- The Ridge is in Running again, and the interruption is recorded (R59). -/
def State.ridgeReturns (s : State) : State :=
  let u := s.endWoken
  let v := if u.rdg.mode = .retention ∨ !u.rdg.alive then u.qpStart .running else u.setR { u.rdg with mode := .running }
  v.endInterruption

/-- RIDGE_START (R436, R484): QP starts, in Running on VRDG, which ends an interruption (R59), or on BKP in Woken. -/
def execRidgeStart (t : Nat) (vrdg : Bool) (s0 : State) : Out :=
  let s := s0.advance t
  if !(s.rdg.mode = .retention ∨ s.rdg.rtcStopped ∨ !s.rdg.alive) then .next s
  else if vrdg then .next s.ridgeReturns
  else .next (if s.rdg.bkpGone then s else s.qpStart .woken)

/-- RIDGE_VRDG_RETURN (R25, R59): above 7.5 V for 10 ms the Ridge is in Running again. -/
def execRidgeVrdgReturn (t : Nat) (vrdgMv held : Nat) (s0 : State) : Out :=
  let s := s0.advance t
  if s.rdg.mode = .running ∨ vrdgMv ≤ 7500 ∨ held < 10 * ticksPerMs then .next s else .next s.ridgeReturns

/-- SHORT_INTERRUPTION_CLOSE (R59): 60 s after its last interruption an open record closes. -/
def execShortInterruptionClose (t : Nat) (s0 : State) : Out :=
  let s := s0.advance t
  match s.rdg.short with
  | some (_, _, _, last) => .next (if s.elapsed last (60 * ticksPerS) ∧ s.rdg.lossAt.isNone then s.closeShort else s)
  | none => .next s

/-- Interval of Batten time, in fine ticks, at which a heartbeat, an angle or an energy frame is sent (Table 16.2). -/
def witnessPeriod (type : Nat) : Nat := if type = 0 then 100 * ticksPerMs else if type = 1 then 10 * ticksPerMs else ticksPerS

/-- A timed frame of a type is due: none has been sent in this interval of Batten time. (Assumption 252 DEDUCED) -/
def State.witnessDue (s : State) (type : Nat) : Bool := s.mainUp && s.battenTime / witnessPeriod type != vget s.wit.sentAt type 0

/-- The bytes of a frame: type, sequence, payload, and a CRC-32C over them (R434). -/
def frameBytes (type q : Nat) (payload : List Byte) : List Byte :=
  let b := beBytes 1 type ++ beBytes 1 q ++ payload
  b ++ beBytes 4 (crc32c b)

/-- The main die sends a witness frame of a type: its sequence increases by 1 (R434). -/
def State.sendWitness (s : State) (type : Nat) (payload : List Byte) : Nat × State :=
  let q := vget s.wit.seq type 0
  let sent := if type ≤ 2 then vset s.wit.sentAt type (s.battenTime / witnessPeriod type) else s.wit.sentAt
  (q, { s with wit := { s.wit with seq := vset s.wit.seq type ((q + 1) % 256), last := frameBytes type q payload, sentAt := sent } })

/-- The Ridge receives an intact frame: whether frames of the type were lost before it (R434). -/
def State.gotWitness (s : State) (type seq : Nat) : Bool × State :=
  let gap := match vget s.rdg.rxSeq type none with
    | some p => (p + 1) % 256 != seq
    | none => false
  (gap, s.setR { s.rdg with rxSeq := vset s.rdg.rxSeq type (some seq) })

/-- A request or frame discarded by the Ridge (R431). -/
def State.rdgReject (s : State) : State := s.setR { s.rdg with rejects := satAdd 16 s.rdg.rejects 1 }

/-- A witness frame of a type is sent, and handled by the Ridge where QP runs and it arrived intact. -/
def witnessFrame (type : Nat) (payload : List Byte) (intact : Bool) (handle : Bool → State → State) (s : State) : State :=
  let (q, t) := s.sendWitness type payload
  if !t.qpOn then t
  else if !intact then t.rdgReject
  else
    let (gap, u) := t.gotWitness type q
    handle gap u

/-- WITNESS_HEARTBEAT (R434, R449). -/
def execWitnessHeartbeat (t : Nat) (intact : Bool) (s0 : State) : Out :=
  let s := s0.advance t
  if !s.witnessDue 0 then .next s
  else .next (witnessFrame 0 (beBytes 1 s.power ++ [0]) intact (fun _ u => u.setR { u.rdg with hbPower := s.power, hbAt := if u.rdg.hbAt.isNone then some s.now else u.rdg.hbAt }) s)

/-- A loss of the witness ends and is recorded (R449). -/
def State.witnessBack (s : State) : State :=
  if s.rdg.witLost then (s.setR { s.rdg with witLost := false, segLost := true }).rdgEvent 0xC032 true (beBytes 1 s.rdg.hbPower) else s

/-- Revolutions arriving with an angle frame (R447, R448). -/
def State.angleArrived (s : State) (gap : Bool) (revsIn : Int) : State :=
  let s1 := s.witnessBack
  let r := s1.rdg
  let t := s1.setR { r with angleAt := s.now, segRev := r.segRev + revsIn, segLost := r.segLost || gap, absRev := if r.absOn && r.absFirst.isSome then r.absRev else r.absRev + revsIn }
  let low := (t.ratios.map fun x => x).foldl minRat 1000000
  if t.rdg.mode = .running ∧ !t.rdg.absOn ∧ 0 < t.wpiK ∧ t.wpiK / 5 ≤ revs t.rdg.absRev * low then
    (t.setR { t.rdg with absOn := true, absPulses := 0, absFirst := none }).rdgEvent 0xC024 false []
  else t

/-- The payload of an angle frame: LE5's increments since the one before, in whole 2^-16 revolution; the rest stays for the next (Table 16.2). -/
def State.takeTurns (s : State) : Int × State :=
  let n := (s.wit.turns * 65536).floor
  (n, { s with wit := { s.wit with turns := s.wit.turns - mkRat n 65536 } })

/-- The payload of an angle frame: the revolutions, RES_OK, and whether a traction set switches (Table 16.2). -/
def State.anglePayload (s : State) (revs : Int) : List Byte :=
  beBytes 4 (toBits 32 revs) ++ beBytes 1 ((if s.getB F.TRC_STAT_RES_OK then 1 else 0) + if s.switching 0 || s.switching 1 then 2 else 0)

/-- WITNESS_ANGLE (R434, R447 to R449): the motor revolutions since the frame before; a frame that is lost on the line leaves a gap in the sequence. -/
def execWitnessAngle (t : Nat) (intact lost : Bool) (s0 : State) : Out :=
  let s := s0.advance t
  if !s.witnessDue 1 then .next s
  else
    let (revs, u) := s.takeTurns
    .next (if lost then (u.sendWitness 1 (u.anglePayload revs)).2 else witnessFrame 1 (u.anglePayload revs) intact (fun gap v => v.angleArrived gap revs) u)

/-- WITNESS_MIRROR_WRITE (R120, R449): the oldest notice is sent; the Ridge records at most once per 10 s. -/
def execWitnessMirrorWrite (t : Nat) (intact : Bool) (s0 : State) : Out :=
  let s := s0.advance t
  match s.wit.notices with
  | [] => .next s
  | (a, w) :: rest =>
    let u := { s with wit := { s.wit with notices := rest } }
    .next (witnessFrame 3 (beBytes 4 a ++ beBytes 1 w) intact (fun _ v => (v.setR { v.rdg with mirrorMerged := v.rdg.mirrorMerged + 1, mirrorAddr := a, mirrorWriter := w }).mirrorRecord) u)

/-- The sleep frame sent on entry to SLEEP, as the Ridge takes it: a loss of the witness ends with it (R434, R449). -/
def State.sleepFrame (s : State) (intact : Bool) : State :=
  witnessFrame 4 [] intact (fun _ u => let v := u.witnessBack; v.setR { v.rdg with hbAt := none }) s

/-- WITNESS_SLEEP (R434): the frame of an entry into SLEEP reaches the Ridge. -/
def execWitnessSleep (t : Nat) (intact : Bool) (s0 : State) : Out :=
  let s := s0.advance t
  .next (if s.power = pSLEEP ∧ s.pwr.boot.isNone then s.sleepFrame intact else s)

/-- RDG_WITNESS_LOST (R449): no valid angle frame for 1 s after an active heartbeat. -/
def execRdgWitnessLost (t : Nat) (s0 : State) : Out :=
  let s := s0.advance t
  match s.rdg.hbAt with
  | none => .next s
  | some h =>
    if !s.qpOn ∨ s.rdg.witLost ∨ !s.elapsed (max h s.rdg.angleAt) ticksPerS then .next s
    else .next ((s.setR { s.rdg with witLost := true, segLost := true }).rdgEvent 0xC032 false (beBytes 1 s.rdg.hbPower))

/-- RIDGE_LOCKOUT_END (R459): 10 min after its start the authority lockout expires. -/
def execRidgeLockoutEnd (t : Nat) (s0 : State) : Out :=
  let s := s0.advance t
  match s.rdg.lockoutUntil with
  | some u => .next (if u ≤ s.now then s.setR { s.rdg with lockoutUntil := none } else s)
  | none => .next s

end Sys2Proof.Machine
end

