-- ==== Sys2Proof/Machine/Power.lean ====
section
/-! DEFINITION. Power states, wake sources, Eave time, the hand-over and the backup-cell charger (R39 to R72). -/

namespace Sys2Proof.Machine

open Sys2Proof

/-- The Eave runs on VSUP, a hand-over or a boot from OFF included: its wake monitors see their sources (R47, R48, Table 3.1). -/
def State.eaveUp (s : State) : Bool := decide (2 ≤ s.power) || s.pwr.boot.isSome || s.pwr.handover.isSome

/-- A wake source qualifies (R47): an enabled one sets its bit and, in SLEEP, starts the boot; during an entry into SLEEP it is kept for its end (R42). A bit set in a hand-over starts the boot at the return from the backup cell (R58, R490). -/
def State.wake (s : State) (n : Nat) : State :=
  if !bitAt (s.getF F.PWR_WAKE_EN) n || !s.eaveUp then s
  else
    let t := s.eventBit F.PWR_WAKE_SRC_SRC n
    match t.pwr.sleep with
    | some q => { t with pwr := { t.pwr with sleep := some { q with wake := true } } }
    | none =>
      if t.power = pSLEEP && t.pwr.boot.isNone && !t.pwr.inReset && t.pwr.handover.isNone then { t with pwr := { t.pwr with boot := some t.now, step := 0, bootReason := 2 } } else t

/-- The enabled wake sources that are active (R490): WAKE_N and the pilot by level, the others by their bit. -/
def State.activeWakes (s : State) : List Nat :=
  below 6 fun n => bitAt (s.getF F.PWR_WAKE_EN) n &&
    (if n = 0 then s.pwr.wakeN else if n = 2 then s.pwr.cpWake else s.bit F.PWR_WAKE_SRC_SRC n)

/-- An enabled level source is active (R490). (Assumption 17 DEDUCED) -/
def State.levelWake (s : State) : Bool := s.activeWakes.any fun n => n == 0 || n == 2

/-- The module goes to SLEEP (R491): sessions close, the TC10 sleep request is sent on a link that is up, and the main die is powered down. A wake qualified meanwhile starts the boot at once (R42). -/
def State.enterSleep (s : State) (reason : Nat) (again : Bool) : State :=
  let a := s.closeSessions fun _ => true
  let b := if a.com.linkUp then { a with com := { a.com with sent := .sleepRequest :: a.com.sent } } else a
  let c := (b.mainReset).toPower pSLEEP reason
  if again then { c with pwr := { c.pwr with boot := some c.now, bootReason := 2 } } else c

/-- Eave time in force written from the Ridge RTC; a Ridge time that is not valid sets TIME_INVALID (R51). (Assumption 14 DEDUCED) -/
def State.eaveLoad (s : State) : State :=
  let t := { s with pwr := { s.pwr with eaveBase := s.rdgTicks, eaveAt := s.now, eaveSlew := 0, eaveRuns := true, realignAt := s.now } }
  let u := t.setB F.PWR_STATE_TIME_INVALID (!s.rdg.timeValid)
  if s.rdg.timeValid then u else u.raise Flt.TIME_INVALID {}

/-- Eave time stands still while CD0 is stopped, in VAULT and OFF (Table 1.9). -/
def State.eaveStop (s : State) : State :=
  { s with pwr := { s.pwr with eaveBase := s.eaveTicks, eaveAt := s.now, eaveSlew := 0, eaveRuns := false } }

/-- PWR_STATE_SET (R41, R42, R491): requests SLEEP from STANDBY, or TEST in a FACTORY session. (Assumption 16 DEDUCED, 28 DEDUCED) -/
def execPwrStateSet (r : Req) (s : State) : Out :=
  let level := if r.params.head? = some 0x0F then 3 else 1
  serveOp { code := 0x0200, level := level, lens := [1] } r (fun t s =>
    let st := r.num 0 1
    if st = 0x0F then
      if s.power = pSTANDBY then okWith [] (s.abortArming.toPower pTEST 0x01) else refuse stStateRefused s
    else if st ≠ 0x02 then refuse stBadParam s
    else if s.power = pSAFE then refuse stSafeHeld s
    else if s.power ≠ pSTANDBY then refuse stStateRefused s
    else if !s.activeWakes.isEmpty then
      refuse stStateRefused (s.activeWakes.foldl (fun (x : State) n => if x.bit F.PWR_WAKE_SRC_SRC n then x else x.eventBit F.PWR_WAKE_SRC_SRC n) s)
    else okWith [] { s with pwr := { s.pwr with sleep := some ⟨t, s.now, false, false⟩ }, slt := { s.slt with arming := none } }) s

/-- SLEEP_ENTRY (R491): the reply has left, or on the host SPI has been delivered, and the entry begins. -/
def execSleepEntry (t : Nat) (s0 : State) : Out :=
  let s := s0.advance t
  match s.pwr.sleep with
  | some q =>
    let left := !(s.com.slots.any fun x => x.ticket == q.ticket)
    if s.power == pSTANDBY && left && (q.ticket.port != .spi || q.delivered) then .next (s.enterSleep 0x01 q.wake) else .next s
  | none => .next s

/-- SLEEP_REPLY_EXPIRED (R491): an SPI reply to SLEEP undelivered after 100 ms is discarded and the entry begins. -/
def execSleepReplyExpired (t : Nat) (s0 : State) : Out :=
  let s := s0.advance t
  match s.pwr.sleep with
  | some q =>
    match s.com.spiOut.find? fun x => x.2.1 == q.ticket with
    | some x =>
      if s.power = pSTANDBY && q.ticket.port = .spi && s.elapsed x.1 (100 * ticksPerMs) then
        .next (({ s with com := { s.com with spiOut := s.com.spiOut.filter fun y => y.2.1 != q.ticket } }).enterSleep 0x01 q.wake)
      else .next s
    | none => .next s
  | none => .next s

/-- SLEEP_TIMEOUT (R43): no host contact for SLEEP_TIMEOUT in STANDBY and no enabled level source active. (Assumption 17 DEDUCED) -/
def execSleepTimeout (t : Nat) (s0 : State) : Out :=
  let s := s0.advance t
  let limit := s.getF F.PWR_CFG_SLEEP_TIMEOUT
  if s.mainUp && s.power == pSTANDBY && s.pwr.sleep.isNone && limit != 0 && s.elapsed s.com.lastContact (limit * ticksPerS) && !s.levelWake
  then .next (s.enterSleep 0x06 false) else .next s

/-- WAKE_SOURCES (R47): writes PWR_WAKE_EN and PWR_ALARM and returns PWR_WAKE_SRC. -/
def execWakeSources (r : Req) (s : State) : Out :=
  serveOp { code := 0x0201, lens := [5] } r (fun _ s =>
    let en := r.num 0 1
    if 64 ≤ en then refuse stBadParam s
    else
      let t := (s.setF F.PWR_WAKE_EN en).setF F.PWR_ALARM (r.num 1 4)
      okWith (beBytes 4 (t.getW F.PWR_WAKE_SRC_SRC.addr).toNat) t) s

/-- WAKE_N_QUALIFIED (Table 3.3): WAKE_N low for 50 µs; otherwise the level is gone. (Assumption 12 DEDUCED) -/
def execWakeNQualified (t : Nat) (low : Bool) (held : Nat) (s0 : State) : Out :=
  let s := s0.advance t
  if low && 50 * ticksPerUs ≤ held then .next (({ s with pwr := { s.pwr with wakeN := true } }).wake 0)
  else if low then .next s
  else .next { s with pwr := { s.pwr with wakeN := false } }

/-- TC10_WAKE (Table 3.3): a wake-up on the 1000BASE-T1 lines. -/
def execTc10Wake (t : Nat) (s0 : State) : Out := .next ((s0.advance t).wake 1)

/-- CP_WAKE (Table 3.3): CP high above 6 V, or oscillating, for 10 ms; otherwise the condition is gone. (Assumption 12 DEDUCED) -/
def execCpWake (t : Nat) (highMv : Int) (osc : Bool) (held : Nat) (s0 : State) : Out :=
  let s := s0.advance t
  if decide (6000 < highMv) || osc then
    if 10 * ticksPerMs ≤ held then .next (({ s with pwr := { s.pwr with cpWake := true } }).wake 2) else .next s
  else .next { s with pwr := { s.pwr with cpWake := false } }

/-- WHEEL_PULSE_WAKE (R47, R49): the Ridge has counted 2 WPI pulses. (Assumption 156 DEDUCED) -/
def execWheelPulseWake (t : Nat) (s0 : State) : Out :=
  let s := s0.advance t
  if 2 ≤ s.rdg.wakePulses then .next ((s.setR { s.rdg with wakePulses := 0 }).wake 4) else .next s

/-- RTC_ALARM (Table 3.3): Eave time at or past a PWR_ALARM other than 0, with valid time; PWR_ALARM is then 0. -/
def execRtcAlarm (t : Nat) (s0 : State) : Out :=
  let s := s0.advance t
  let a := s.getF F.PWR_ALARM
  if s.eaveUp && a != 0 && decide (a ≤ s.eaveSeconds) && !s.getB F.PWR_STATE_TIME_INVALID then .next ((s.setF F.PWR_ALARM 0).wake 5)
  else .next s

/-- EAVE_REALIGN (R52): once an hour, counted from the last load or realignment, Eave time is slewed towards the Ridge RTC. (Assumption 15 DEDUCED, 164 DEDUCED) -/
def execEaveRealign (t : Nat) (s0 : State) : Out :=
  let s := s0.advance t
  if 2 ≤ s.power && s.pwr.handover.isNone && s.pwr.eaveRuns && s.elapsed s.pwr.realignAt (3600 * ticksPerS) then
    let e := s.eaveTicks
    let diff : Int := (s.rdgTicks : Int) - (e : Int)
    .next ({ s with pwr := { s.pwr with eaveBase := e, eaveAt := s.now, eaveSlew := diff, realignAt := s.now } }.setB F.PWR_STATE_TIME_INVALID (!s.rdg.timeValid))
  else .next s

/-- The charger's current in mA by its profile: its phase's share of C, or the safe default of C/20 and at most 15 mA (Table 3.4, R67). -/
def State.profileMa (s : State) : Nat :=
  let c := s.pwr.charger.capacity
  let ph := s.getF F.PWR_BKP_STAT_PHASE
  if ph = 0 || 3 < ph then 0
  else if s.getB F.PWR_BKP_STAT_FALLBACK then min (c / 20) 15
  else if ph = 1 then c / 10
  else if ph = 2 then min (s.getF F.PWR_BKP_CTRL_FAST_MA) (c / 2)
  else c / 20

/-- The charger's current: its profile's, cut back to what the Eave's own 40 to 60 µA (Table 2.15) leave of the 50 mA, in whole mA (R53). (Assumption 160 DEDUCED) -/
def State.chargeMa (s : State) : Nat := min s.profileMa 49

/-- The charger's running times brought up to the present; the 8 h of the safe defaults count what is charged while they apply. (Assumption 18 DEDUCED, 226 DESIGN CHOICE) -/
def State.countCharge (s : State) : State :=
  let c := s.pwr.charger
  let ph := s.getF F.PWR_BKP_STAT_PHASE
  let d := s.now - c.countedAt
  let runs := 1 ≤ ph && ph ≤ 3
  { s with pwr := { s.pwr with charger := { c with countedAt := s.now, ran := if runs then c.ran + d else c.ran, defaultRan := if runs && s.getB F.PWR_BKP_STAT_FALLBACK then c.defaultRan + d else c.defaultRan } } }

/-- CURRENT_MA follows the phase; the instant at which the current became 0 is kept (R64). -/
def State.showCurrent (s : State) : State :=
  let old := s.getF F.PWR_BKP_STAT_CURRENT_MA
  let new := s.chargeMa
  let t := s.setF F.PWR_BKP_STAT_CURRENT_MA new
  if new = 0 && old ≠ 0 then { t with pwr := { t.pwr with charger := { t.pwr.charger with zeroAt := t.now } } } else t

/-- The charger enters a phase: its timers start, and C is the CAPACITY in force (R72). -/
def State.toPhase (s : State) (ph : Nat) : State :=
  let c := s.pwr.charger
  let t := (s.setF F.PWR_BKP_STAT_PHASE ph)
  ({ t with pwr := { t.pwr with charger := { c with countedAt := t.now, ran := 0, capacity := s.getF F.PWR_BKP_CTRL_CAPACITY, vMax := 0, temps := [] } } }).showCurrent

/-- A charge begins (Table 3.4): Precharge below 3.0 V, otherwise Fast; the 8 h of the safe defaults start anew. -/
def State.startCharge (s : State) (ph : Nat) : State :=
  let t := s.toPhase ph
  { t with pwr := { t.pwr with charger := { t.pwr.charger with defaultRan := 0 } } }

/-- The charger stops in Fault (Table 3.4). -/
def State.chargeFault (s : State) (k : FaultKind) (term : Nat) (cause : Nat) : State :=
  let t := s.toPhase 6
  let u := if term = 0 then t else t.setF F.PWR_BKP_STAT_TERM term
  ({ u with pwr := { u.pwr with charger := { u.pwr.charger with cause := cause } } }).raise k {}

/-- The Eave rail is fed from VSUP, outside a hand-over: the charger may run (R62). -/
def State.chargerOn (s : State) : Bool := decide (2 ≤ s.power) && s.pwr.handover.isNone

/-- What ENABLE and the currents of PWR_BKP_CTRL ask for: with ENABLE 0 the charger goes to Idle unless it is in Fault or finds no cell, and CURRENT_MA follows (R62, Table 3.13). -/
def State.chargerFollows (s : State) : State :=
  let ph := s.getF F.PWR_BKP_STAT_PHASE
  (if s.getF F.PWR_BKP_CTRL_ENABLE = 0 && ph ≠ 6 && ph ≠ 7 then s.toPhase 0 else s).showCurrent

/-- The charger's settings written (R67): a Fault whose cause has gone ends, and ENABLE 0 stops a charge. (Assumption 18 DEDUCED) -/
def State.bkpSet (s : State) (en ma tm : Nat) : State :=
  let t := ((s.countCharge.setF F.PWR_BKP_CTRL_ENABLE en).setF F.PWR_BKP_CTRL_FAST_MA ma).setF F.PWR_BKP_CTRL_FAST_TIMER tm
  let ph := t.getF F.PWR_BKP_STAT_PHASE
  let gone := decide (t.pwr.charger.cause = 0)
  let u := if ph = 6 then (if gone then t.toPhase 0 else t)
    else if ph = 7 then { t with pwr := { t.pwr with charger := { t.pwr.charger with underFault := t.pwr.charger.underFault && !gone } } }
    else if en = 0 then t.toPhase 0 else t
  u.showCurrent

/-- BKP_CHARGER_SET (R67): ENABLE, FAST_MA at most C/2, FAST_TIMER; it also leaves a Fault whose cause has gone. -/
def execBkpChargerSet (r : Req) (s : State) : Out :=
  serveOp { code := 0x0202, lens := [3] } r (fun _ s =>
    let en := r.num 0 1
    let ma := r.num 1 1
    let tm := r.num 2 1
    if 1 < en || s.getF F.PWR_BKP_CTRL_CAPACITY < 2 * ma || 15 < tm then refuse stBadParam s
    else okWith [] (s.bkpSet en ma tm)) s

/-- BKP_STATUS (R68): PWR_BKP_STAT and PWR_SUPPLY. -/
def execBkpStatus (r : Req) (s : State) : Out :=
  serveOp { code := 0x0203 } r (fun _ s =>
    okWith (beBytes 4 (s.getW F.PWR_BKP_STAT_PHASE.addr).toNat ++ beBytes 4 (s.getW F.PWR_SUPPLY_VSUP_MV.addr).toNat) s) s

/-- Termination of Fast at a sample (R63): 1 −ΔV, 2 dT/dt, 0 none. Both wait for 5 min; −ΔV does not act under the safe defaults (R67). (Assumption 18 DEDUCED) -/
def State.fastEnds (s : State) (bkpMv : Nat) (temp : Int) : Nat :=
  let c := s.pwr.charger
  if c.ran < 300 * ticksPerS then 0
  else if !s.getB F.PWR_BKP_STAT_FALLBACK && bkpMv + 15 ≤ c.vMax then 1
  else if c.temps.any fun x => decide (s.now ≤ x.1 + 60 * ticksPerS) && decide (x.2 + 1 ≤ temp) then 2
  else 0

/-- The 10 s sample of the charger is due (R63). -/
def State.sampleDue (s : State) : Bool :=
  match s.pwr.charger.sampledAt with
  | some x => s.elapsed x (10 * ticksPerS)
  | none => true

/-- No host contact within the last 60 s, or none since the Eave powered up (R67). (Assumption 162 DEDUCED) -/
def State.hostSilent (s : State) : Bool :=
  match s.com.hostAt with
  | some x => s.elapsed x (60 * ticksPerS)
  | none => true

/-- The charger's 60 s have passed: they count from the last host contact and start again at the end of a boot (R67, R97). (Assumption 162 DEDUCED) -/
def State.hostGone (s : State) : Bool := s.hostSilent && s.elapsed s.com.lastContact (60 * ticksPerS)

/-- What a sample notes: the readings, the end of the fallback on host contact, the highest voltage and the temperatures of the last minute (R63, R67). -/
def State.noteSample (s : State) (bkpMv : Nat) (temp : Int) : State :=
  let a := (s.countCharge.setF F.PWR_SUPPLY_BKP_MV (min bkpMv 65535)).setF F.PWR_BKP_STAT_CELL_TEMP (toBits 8 temp)
  let b := if a.hostSilent then a else a.setB F.PWR_BKP_STAT_FALLBACK false
  let c := b.pwr.charger
  { b with pwr := { b.pwr with charger := { c with sampledAt := some b.now, vMax := max c.vMax bkpMv, temps := ((b.now, temp) :: c.temps).take 7, cause := if c.cause = 2 ∧ bkpMv ≤ 4800 then 0 else c.cause } } }

/-- The phase after a sample: Precharge leads to Fast at 3.0 V, a termination leads from Fast to Top-off (Table 3.4). (Assumption 18 DEDUCED) -/
def State.bkpSampled (s : State) (bkpMv : Nat) (temp : Int) : State :=
  let d := s.noteSample bkpMv temp
  let ph := d.getF F.PWR_BKP_STAT_PHASE
  if ph = 1 && 3000 ≤ bkpMv then d.toPhase 2
  else if ph = 2 then
    let k := d.fastEnds bkpMv temp
    if k = 0 then d else (d.toPhase 3).setF F.PWR_BKP_STAT_TERM k
  else d

/-- BKP_SAMPLE (R61, R63, R67): the 10 s sample of BKP, and of the cell temperature, which the Eave reads with its own converter. -/
def execBkpSample (t : Nat) (bkpMv : Nat) (temp : Int) (s0 : State) : Out :=
  let s := s0.advance t
  if !s.chargerOn || !s.sampleDue then .next s else .next (s.bkpSampled bkpMv temp).showCurrent

/-- BKP_DEAD (Table 3.4): Precharge lasting 1 h. (Assumption 155 DEDUCED) -/
def execBkpDead (t : Nat) (s0 : State) : Out :=
  let s := (s0.advance t).countCharge
  if s.chargerOn && s.getF F.PWR_BKP_STAT_PHASE = 1 && 3600 * ticksPerS ≤ s.pwr.charger.ran then .next (s.chargeFault Flt.BKP_DEAD 0 0) else .next s

/-- BKP_TIMER (R65): the fast timer, 3 h by default, expires. (Assumption 155 DEDUCED) -/
def execBkpTimer (t : Nat) (s0 : State) : Out :=
  let s := (s0.advance t).countCharge
  if s.chargerOn && s.getF F.PWR_BKP_STAT_PHASE = 2 && max 1 (s.getF F.PWR_BKP_CTRL_FAST_TIMER) * 3600 * ticksPerS ≤ s.pwr.charger.ran
  then .next (s.chargeFault Flt.BKP_TIMER 3 0) else .next s

/-- TOPOFF_END (Table 3.4): 30 min of top-off. -/
def execTopoffEnd (t : Nat) (s0 : State) : Out :=
  let s := (s0.advance t).countCharge
  if s.chargerOn && s.getF F.PWR_BKP_STAT_PHASE = 3 && 1800 * ticksPerS ≤ s.pwr.charger.ran then .next (s.toPhase 4) else .next s

/-- BKP_REST (R64): after 60 s at zero current the rest voltage decides a recharge. -/
def execBkpRest (t : Nat) (bkpMv : Nat) (s0 : State) : Out :=
  let s := (s0.advance t).countCharge
  let ph := s.getF F.PWR_BKP_STAT_PHASE
  if s.chargerOn && s.getB F.PWR_BKP_CTRL_ENABLE && s.elapsed s.pwr.charger.zeroAt (60 * ticksPerS) && decide (bkpMv < 3750) && !s.pwr.charger.ntcBad then
    if ph = 0 then .next (s.startCharge (if bkpMv < 3000 then 1 else 2))
    else if ph = 4 then .next (s.startCharge 2)
    else .next s
  else .next s

/-- CELL_TEMP_SUSPEND (Table 3.4): outside 0 to 45 °C a running phase is suspended with its timers held; at 1 to 44 °C it resumes. -/
def execCellTempSuspend (t : Nat) (temp : Int) (s0 : State) : Out :=
  let s := ((s0.advance t).countCharge).setF F.PWR_BKP_STAT_CELL_TEMP (toBits 8 temp)
  let ph := s.getF F.PWR_BKP_STAT_PHASE
  if !s.chargerOn then .next s
  else if 1 ≤ ph && ph ≤ 3 && (decide (temp < 0) || decide (45 < temp)) then
    let u := s.setF F.PWR_BKP_STAT_PHASE 5
    .next ({ u with pwr := { u.pwr with charger := { u.pwr.charger with interrupted := ph } } }).showCurrent
  else if ph = 5 && decide (1 ≤ temp) && decide (temp ≤ 44) then .next (s.setF F.PWR_BKP_STAT_PHASE s.pwr.charger.interrupted).showCurrent
  else .next s

/-- BKP_NTC leaves its range: the fault is recorded, and a phase other than Idle, Fault and no cell ends in Fault (R65). -/
def State.ntcLeaves (s : State) : State :=
  let ph := s.getF F.PWR_BKP_STAT_PHASE
  let a := { s with pwr := { s.pwr with charger := { s.pwr.charger with ntcBad := true } } }
  if ph = 0 || ph = 6 || ph = 7 then (if s.pwr.charger.ntcBad then a else a.raise Flt.BKP_NTC_FAULT {})
  else a.chargeFault Flt.BKP_NTC_FAULT 0 1

/-- BKP_NTC is inside its range: the cause of a BKP_NTC_FAULT has gone (Table 3.4). -/
def State.ntcInRange (s : State) : State :=
  let c := s.pwr.charger
  { s with pwr := { s.pwr with charger := { c with ntcBad := false, cause := if c.cause = 1 then 0 else c.cause } } }

/-- BKP_NTC_FAULT (R61, R65): BKP_NTC below 0.1 V or above 3.2 V on the Eave's own converter; a reading inside says that the cause has gone. -/
def execBkpNtcFault (t : Nat) (ntcMv : Nat) (s0 : State) : Out :=
  let s := (s0.advance t).countCharge
  if !s.chargerOn then .next s
  else if ntcMv < 100 || 3200 < ntcMv then .next s.ntcLeaves
  else .next s.ntcInRange

/-- BKP_OVERVOLTAGE (R70): BKP above 4.8 V while charging. -/
def execBkpOvervoltage (t : Nat) (bkpMv : Nat) (s0 : State) : Out :=
  let s := (s0.advance t).countCharge
  if s.chargerOn && s.getF F.PWR_BKP_STAT_CURRENT_MA ≠ 0 && 4800 < bkpMv then .next (s.chargeFault Flt.BKP_OVERVOLTAGE 4 2) else .next s

/-- BKP_NO_CELL (R66): BKP below 0.5 V, or above 5.2 V with the charger current flowing. (Assumption 163 DEDUCED) -/
def execBkpNoCell (t : Nat) (bkpMv : Nat) (s0 : State) : Out :=
  let s := (s0.advance t).countCharge
  if s.chargerOn && s.getF F.PWR_BKP_STAT_PHASE ≠ 7 && (decide (bkpMv < 500) || (decide (5200 < bkpMv) && s.getF F.PWR_BKP_STAT_CURRENT_MA != 0)) then
    let under := decide (s.getF F.PWR_BKP_STAT_PHASE = 6)
    let u := s.toPhase 7
    .next ({ u with pwr := { u.pwr with charger := { u.pwr.charger with retryAt := u.now, underFault := under } } }.raise Flt.BKP_NO_CELL {})
  else .next s

/-- BKP_NO_CELL_RETRY (R66): every 60 s an absent pack is looked for again; a pack that is back finds the charger in the Fault it left, or Idle. (Assumption 163 DEDUCED) -/
def execBkpNoCellRetry (t : Nat) (bkpMv : Nat) (s0 : State) : Out :=
  let s := (s0.advance t).countCharge
  if s.chargerOn && s.getF F.PWR_BKP_STAT_PHASE = 7 && s.elapsed s.pwr.charger.retryAt (60 * ticksPerS) then
    if bkpMv < 500 || 5200 < bkpMv then .next { s with pwr := { s.pwr with charger := { s.pwr.charger with retryAt := s.now } } }
    else .next (s.toPhase (if s.pwr.charger.underFault then 6 else 0))
  else .next s

/-- CHARGER_FALLBACK (R67): 60 s without host contact put the charger on its safe defaults. -/
def execChargerFallback (t : Nat) (s0 : State) : Out :=
  let s := (s0.advance t).countCharge
  if s.chargerOn && s.hostGone then .next (s.setB F.PWR_BKP_STAT_FALLBACK true).showCurrent else .next s

/-- CHARGE_8H_LIMIT (R67): 8 h of charging current under the safe defaults end the charge in Complete. -/
def execCharge8hLimit (t : Nat) (s0 : State) : Out :=
  let s := (s0.advance t).countCharge
  let ph := s.getF F.PWR_BKP_STAT_PHASE
  if s.chargerOn && s.getB F.PWR_BKP_STAT_FALLBACK && 1 ≤ ph && ph ≤ 3 && 8 * 3600 * ticksPerS ≤ s.pwr.charger.defaultRan
  then .next ((s.toPhase 4).setF F.PWR_BKP_STAT_TERM 5) else .next s

/-- The charger stops with the hand-over; a Fault whose cause has gone ends with the interruption (R54, Table 3.4). -/
def State.chargerHandover (s : State) : State :=
  let t := s.countCharge
  let c := t.pwr.charger
  let faulted := decide (t.getF F.PWR_BKP_STAT_PHASE = 6) || (decide (t.getF F.PWR_BKP_STAT_PHASE = 7) && c.underFault)
  t.toPhase (if faulted && decide (c.cause ≠ 0) then 6 else 0)

/-- VSUP as an event reports it: PWR_SUPPLY.VSUP_MV shows it (Table 3.11), and since when it has stayed above 7.5 V is kept. (Assumption 161 DEDUCED) -/
def State.vsupSeen (s : State) (mv : Nat) (highAt : Option Nat) : State :=
  { s with pwr := { s.pwr with vsupMv := mv, vsupHighAt := highAt } }.setF F.PWR_SUPPLY_VSUP_MV (min mv 65535)

/-- HANDOVER_TO_BKP (R54, R56): VSUP below 6.5 V for 50 µs. In STANDBY or above this is VSUP_LOSS, class A, with all gates off; the main die is held in reset, and wear accrued since the last save is lost (R387). -/
def execHandoverToBkp (t : Nat) (vsupMv held : Nat) (s0 : State) : Out :=
  let s := s0.advance t
  if (2 ≤ s.power || s.pwr.boot.isSome) && s.pwr.handover.isNone && decide (vsupMv < 6500) && decide (50 * ticksPerUs ≤ held) then
    let lost := s.getF F.CHG_STAT_CSTATE != 0
    let a := if 3 ≤ s.power && s.pwr.boot.isNone && !s.pwr.inReset then s.raise Flt.VSUP_LOSS { stages := 0x1FF } else s
    let b := (a.loseQueue.loseUnsaved.holdReset 0).bump F.PWR_CFG_HANDOVER
    .next ({ b with pwr := { b.pwr with handover := some b.now, interruptions := b.pwr.interruptions + 1, chargeLost := b.pwr.chargeLost || lost } }.vsupSeen vsupMv none).chargerHandover
  else .next s

/-- HANDOVER_COMPLETE (R54, R57): the module is in VAULT. -/
def execHandoverComplete (t : Nat) (s0 : State) : Out :=
  let s := s0.advance t
  match s.pwr.handover with
  | some _ =>
    let u := (s.toPower pVAULT 0x0A).eaveStop
    .next { u with pwr := { u.pwr with handover := none, handEnd := u.now, inReset := false } }
  | none => .next s

/-- VSUP_LOW (R55): VSUP below 7.5 V for 1 ms in ARMED or RUN, class B on every stage but the chopper. (Assumption 12 DEDUCED) -/
def execVsupLow (t : Nat) (vsupMv held : Nat) (s0 : State) : Out :=
  let s := s0.advance t
  if vsupMv < 7500 then
    let u := s.vsupSeen vsupMv none
    if u.mainUp && (u.power == pARMED || u.power == pRUN) && decide (ticksPerMs ≤ held) then .next (u.raise Flt.VSUP_LOW { stages := 0x1FB }) else .next u
  else .next s

/-- What starts the boot at a return from the backup cell (R58): an active level source, which sets its bit, or an event source whose bit stands. (Assumption 157 DEDUCED) -/
def State.wakeAtReturn (s : State) : State :=
  let w := (s.activeWakes.filter fun n => n == 0 || n == 2).foldl (fun (x : State) n => x.wake n) s
  if w.pwr.boot.isNone && !w.activeWakes.isEmpty then { w with pwr := { w.pwr with boot := some w.now, step := 0, bootReason := 2 } } else w

/-- VSUP_VALID (R58): VSUP above 7.5 V for 10 ms, counted at the earliest from the completion of the last hand-over, in VAULT and in OFF. VAULT leads to SLEEP, and to the boot where an enabled wake source is active; OFF leads to the boot. -/
def execVsupValid (t : Nat) (vsupMv held : Nat) (s0 : State) : Out :=
  let s := s0.advance t
  if decide (7500 < vsupMv) && decide (10 * ticksPerMs ≤ held) && s.pwr.handover.isNone then
    let u := s.vsupSeen vsupMv (some (s.now - held))
    if !u.elapsed u.pwr.handEnd (10 * ticksPerMs) then .next u
    else if u.power = pVAULT then .next (u.toPower pSLEEP 0x04).eaveLoad.wakeAtReturn
    else if u.power = pOFF && u.pwr.boot.isNone then .next { u with pwr := { u.pwr with boot := some u.now, step := 0, bootReason := 0x0D } }
    else .next u
  else .next s

/-- BKP_RISE (Table 3.2): BKP above 2.7 V while VSUP is absent, OFF to VAULT. (Assumption 154 DEDUCED, 213 DEDUCED) -/
def execBkpRise (t : Nat) (bkpMv vsupMv : Nat) (s0 : State) : Out :=
  let s := s0.advance t
  let u := if 2700 < bkpMv then s.setR { s.rdg with bkpGone := false } else s
  if u.power = pOFF && u.pwr.boot.isNone && 2700 < bkpMv && vsupMv < 6500 then .next (u.toPower pVAULT 0x0C) else .next u

/-- The Eave loses its supply: what it holds returns to its Reset column, PWR_STATE apart (R6, R72), and the hand-overs not yet recorded are gone. (Assumption 137 DEDUCED) -/
def State.loseEave (s : State) : State :=
  let t := { s with regs := s.regs.filter fun x => x.1 / 65536 != 0xB || x.1 == F.PWR_STATE_STATE.addr }
  { t with pwr := { t.pwr with interruptions := 0, charger := {}, vsupHighAt := none }, com := { t.com with hostAt := none } }

/-- BKP is gone: a Ridge that runs on it stops, its RTC included (R25, R436). -/
def State.ridgeBkpLost (s : State) : State :=
  let u := s.setR { s.rdg with bkpGone := true }
  if u.rdg.mode = .running ∨ u.rdg.rtcStopped then u else u.rtcStop

/-- BKP_FALL (Table 3.2, R72, R436): BKP below 2.4 V, VAULT to OFF, where the Eave loses its supply. In every state the Ridge loses its retention supply. (Assumption 137 DEDUCED, 213 DEDUCED) -/
def execBkpFall (t : Nat) (bkpMv : Nat) (s0 : State) : Out :=
  let s := s0.advance t
  if 2400 ≤ bkpMv then .next s
  else
    let u := s.ridgeBkpLost
    .next (if u.power = pVAULT then (u.toPower pOFF 0x0B).loseEave else u)

/-- NRST (R44): low for 10 µs, the main die is reset whenever it is powered, a boot in progress included. (Assumption 12 DEDUCED) -/
def execNrst (t : Nat) (held : Nat) (s0 : State) : Out :=
  let s := s0.advance t
  if (3 ≤ s.power || s.pwr.boot.isSome) && s.pwr.handover.isNone && 10 * ticksPerUs ≤ held then .next (s.holdReset 0x05) else .next s

/-- NRST_RELEASE (R44): the boot to STANDBY starts. -/
def execNrstRelease (t : Nat) (s0 : State) : Out :=
  let s := s0.advance t
  if s.pwr.inReset && s.pwr.handover.isNone then .next { s with pwr := { s.pwr with inReset := false, boot := some s.now, step := 0 } } else .next s

end Sys2Proof.Machine
end

