-- ==== Sys2Proof/Machine/RidgeLink.lean ====
section
/-! DEFINITION. The Ridge towards the outside: authority commands, queries on the query line and on RLINK, and the mirror (R431, R433, R457 to R467). -/

namespace Sys2Proof.Machine

open Sys2Proof

/-- Whether a value lies in the range of its identifier (Table 16.13); an unknown identifier has no value. -/
def paramValid (id : Nat) (v : Word) : Bool :=
  let q := F32.toRat v
  let span := fun (lo hi : Rat) => F32.isFinite v && decide (lo ≤ q) && decide (q ≤ hi)
  let int := fun (m : Int) => decide (-m ≤ signExt 32 v.toNat) && decide (signExt 32 v.toNat ≤ m)
  if id = 0x0001 then span 500 50000
  else if id = 0x0002 then decide (1 ≤ v.toNat) && decide (v.toNat ≤ 8)
  else if 0x0010 ≤ id ∧ id ≤ 0x0017 then span (1 / 100) 1000
  else if id = 0x0020 then v == 0x09 || v == 0x3F
  else if id = 0x0021 then span 100 300
  else if 0x0030 ≤ id ∧ id ≤ 0x0035 then F32.isPosFinite v
  else if 0x0040 ≤ id ∧ id ≤ 0x0045 then int 50000
  else if 0x0050 ≤ id ∧ id ≤ 0x0052 then int 10000
  else if id = 0x0060 then span 1 500
  else if id = 0x0061 then span 100 5000
  else false

/-- Check 1 of R459: format, serial, key slot and expected counter of an envelope (Table 16.14). -/
def State.envelopeOk (s : State) (code : Nat) (env : List Byte) : Bool :=
  let slot := beAt env 6 1
  let len := beAt env 20 2
  decide (24 ≤ env.length) && beAt env 0 4 == 0x4F524143 && beAt env 4 2 == code && (decide (slot ≤ 3) || slot == 0xFF)
    && beAt env 7 1 == 0 && (env.drop 8).take 8 == s.serialBytes && beAt env 16 4 == s.rdg.lec && beAt env 22 2 == 0
    && env.length == 24 + len + (if slot = 0xFF then 0 else 8240)

/-- The authority lockout applies (R459). -/
def State.rdgLocked (s : State) : Bool :=
  match s.rdg.lockoutUntil with
  | some u => decide (s.now < u)
  | none => false

/-- A signature that fails: recorded, and the third within 10 min locks the authority out for 10 min (R459). -/
def State.rdgAuthFailed (s : State) (code slot : Nat) : State :=
  let fails := s.now :: s.rdg.fails.filter fun x => decide (s.now < x + 600 * ticksPerS)
  let t := s.rdgEvent 0xC005 false (beBytes 2 code ++ beBytes 1 slot ++ beBytes 1 (min 255 fails.length))
  if fails.length < 3 then t.setR { t.rdg with fails := fails }
  else t.setR { t.rdg with fails := [], lockoutUntil := some (s.now + 600 * ticksPerS) }

/-- The entries of a RIDGE_PARAM_WRITE body; none where the body breaks its format (R460). -/
def paramEntries : Nat → List Byte → Option (List (Nat × Word))
  | 0, bs => if bs.isEmpty then some [] else none
  | n + 1, bs =>
    if bs.length < 8 ∨ beAt bs 2 2 ≠ 0 ∨ !paramValid (beAt bs 0 2) (BitVec.ofNat 32 (beAt bs 4 4)) then none
    else match paramEntries n (bs.drop 8) with
      | some l => some ((beAt bs 0 2, BitVec.ofNat 32 (beAt bs 4 4)) :: l)
      | none => none

/-- The legal event counter can take no further increment (R463). (Assumption 126 DEDUCED) -/
def State.lecFull (s : State) : Bool := decide (0xFFFFFFFF ≤ s.rdg.lec)

/-- RIDGE_PARAM_WRITE after checks 1 to 3 (R460). -/
def State.rdgParamWrite (s : State) (slot : Nat) (body : List Byte) : Nat × State :=
  let n := beAt body 0 1
  match if body.length < 4 ∨ n = 0 ∨ 32 < n ∨ beAt body 1 3 ≠ 0 then none else paramEntries n (body.drop 4) with
  | none => (stBadParam, s)
  | some l =>
    if s.rdg.sealed ≠ 0 ∧ (slot = 0xFF ∨ s.lecFull) then (stStateRefused, s)
    else
      let pend := l.reverse ++ s.rdg.pendParams
      let uniq := rdgParamTable.filterMap fun e => (pend.find? fun p => p.1 == e.1)
      let t := s.setR { s.rdg with pendParams := uniq }
      let u := if s.rdg.sealed = 0 then t else t.bumpLec
      let h := paramHash (uniq ++ u.rdg.params.filter fun e => !(uniq.any fun p => p.1 == e.1))
      (stOK, u.rdgEvent 0xC002 false (beBytes 1 slot ++ beBytes 1 n ++ beBytes 2 0 ++ h.take 12))

/-- RIDGE_SEAL after checks 1 to 3 (R461). (Assumption 129 DEDUCED) -/
def State.rdgSeal (s : State) (slot : Nat) (body : List Byte) : Nat × State :=
  let h := paramHash s.rdg.params
  if body ≠ h then (stBadParam, s)
  else if s.rdg.sealed = 1 then (stWriteOnceSpent, s)
  else if s.rdg.sealed = 2 ∨ slot = 0xFF ∨ !s.rdgScaled ∨ s.lecFull then (stStateRefused, s)
  else
    let t := (s.setR { s.rdg with sealed := 1 }).bumpLec
    (stOK, t.rdgEvent 0xC001 false (h.take 16))

/-- RIDGE_TIME_ADJUST after checks 1 to 3 (R462); a session goes on, its end in the new time (R468). (Assumption 130 DEDUCED) -/
def State.rdgTimeAdjust (s : State) (slot : Nat) (body : List Byte) : Nat × State :=
  let step := signExt 32 (beNat body)
  let t0 := s.rdgTime
  if body.length ≠ 4 ∨ step = 0 ∨ 86400 < step.natAbs then (stBadParam, s)
  else if step < 0 ∧ slot = 0xFF then (stRollback, s.rdgEvent 0xC004 false (beBytes 4 (toBits 32 step)))
  else if step < 0 ∧ (t0 : Int) + step < ((s.rdg.curDay * 86400 : Nat) : Int) then (stBadParam, s)
  else if 0 < step ∧ slot = 0xFF ∧ s.rdg.sealed ≠ 0 then (stStateRefused, s)
  else if s.rdg.sealed ≠ 0 ∧ s.lecFull then (stStateRefused, s)
  else
    let t1 := ((t0 : Int) + step).toNat
    let closed := if s.rdg.curDay < t1 / 86400 then s.closeDay true else s
    let moved := closed.setR { closed.rdg with ses := closed.rdg.ses.map fun (x : RdgSession) => { x with lastAbove := ((x.lastAbove : Int) + step).toNat }, timeBase := t1, timeAt := s.now, rtcStopped := false, timeValid := true, curDay := max s.rdg.curDay (t1 / 86400), curSec := t1, curMin := t1 / 60, curQuarter := t1 / 900 }
    let u := if s.rdg.sealed = 0 then moved else moved.bumpLec
    (stOK, u.rdgEvent 0xC003 false (beBytes 1 slot ++ beBytes 3 0 ++ beBytes 4 (toBits 32 step) ++ beBytes 4 t0))

/-- An authority command in the order of R459. -/
def State.authority (s : State) (code : Nat) (env : List Byte) : Nat × State :=
  let slot := beAt env 6 1
  let len := beAt env 20 2
  let body := (env.drop 24).take len
  if !s.envelopeOk code env then (stBadParam, s)
  else if s.rdgLocked then (stAuthFailed, s)
  else if slot ≠ 0xFF ∧ !blockVerifies (8 + slot) (env.take (24 + len)) (env.drop (24 + len)) then (stSigInvalid, s.rdgAuthFailed code slot)
  else if code = 0x0A80 then s.rdgParamWrite slot body
  else if code = 0x0A81 then s.rdgSeal slot body
  else s.rdgTimeAdjust slot body

/-- The data of RIDGE_STATUS (Table 4.5). -/
def State.ridgeStatusData (s : State) : List Byte :=
  beBytes 1 s.rdg.sealed ++ beBytes 4 s.rdg.lec ++ beBytes 4 s.rdgTime ++ beBytes 1 (if s.rdg.timeValid then 1 else 0)
    ++ beBytes 4 ridgeFwVersion ++ s.ridgeHash

/-- Records by number from a first one, oldest first (R466, R415). -/
def fromNumber (first count : Nat) (l : List RdgRec) : List RdgRec := ((l.filter fun e => decide (first ≤ e.num)).reverse).take count

/-- A reply of records whose count is reduced to what fits in n bytes of result data (R90). -/
def countedReply (n size : Nat) (items : List (List Byte)) : List Byte :=
  let l := items.take ((n - 2) / size)
  beBytes 2 l.length ++ l.flatten

/-- RIDGE_READ_RECORDS at the Ridge (R466, Table 16.15); room is what the reply's transport leaves for result data. -/
def State.ridgeRecords (s : State) (params : List Byte) (room : Nat) : Nat × List Byte :=
  let type := beAt params 0 1
  let first := beAt params 1 4
  let count := beAt params 5 2
  let withDay := fun (e : RdgRec) => beBytes 4 e.num ++ beBytes 4 e.day ++ e.bytes
  if type = 1 then (stOK, countedReply room 14 ((fromNumber first count s.rdg.motions).map withDay))
  else if type = 2 then (stOK, countedReply room 18 ((fromNumber first count s.rdg.energies).map withDay))
  else if type = 3 then (stOK, countedReply room 48 ((fromNumber first count s.rdg.sessions).map fun e => e.bytes))
  else if type = 4 then
    (stOK, countedReply room 144 ((((s.rdg.seals.filter fun x => decide (first ≤ x.day)).reverse).take count).map fun x => x.bytes))
  else (stBadParam, [])

/-- RIDGE_READ_EVENTS at the Ridge (R466). -/
def State.ridgeEvents (s : State) (params : List Byte) (room : Nat) : Nat × List Byte :=
  (stOK, countedReply room 32 ((fromNumber (beAt params 0 4) (beAt params 4 2) s.rdg.events).map fun e => e.bytes))

/-- A long result's reply from an offset: total length, then bytes up to the maximum length and the transport's room (R90). (Assumption 38 DEDUCED) -/
def longReply (bytes : List Byte) (off maxLen room : Nat) : Nat × List Byte :=
  if bytes.length < off then (stBadParam, [])
  else (stOK, beBytes 4 bytes.length ++ (bytes.drop off).take (min maxLen (room - 4)))

/-- The long result of a day (R466): its seal and signature block; a day not held has none. -/
def State.dayResult (s : State) (day : Nat) : Nat × List Byte :=
  match s.rdg.seals.find? fun x => x.day == day with
  | some x => (stOK, x.bytes ++ x.signature)
  | none => if s.rdg.closed.any fun d => d.day == day then (stBusy, []) else (stBadParam, [])

/-- RIDGE_READ_SEAL at the Ridge on one of its lines (R90, R466): status, data and the line's buffer afterwards. -/
def State.ridgeReadSealAt (s : State) (buf : Option (Nat × List Byte)) (params : List Byte) (room : Nat) : Nat × List Byte × Option (Nat × List Byte) :=
  let day := beAt params 0 4
  let off := beAt params 4 4
  let maxLen := beAt params 8 2
  if off = 0 then
    let (st, b) := s.dayResult day
    if st ≠ stOK then (st, [], buf) else let (st2, d) := longReply b 0 maxLen room; (st2, d, some (day, b))
  else match buf with
    | some (d0, b) => if d0 = day then let (st, d) := longReply b off maxLen room; (st, d, buf) else (stBadParam, [], buf)
    | none => (stBadParam, [], buf)

/-- One of the four queries at the Ridge: status, data and the buffer of the line. -/
def State.ridgeQuery (s : State) (code : Nat) (params : List Byte) (room : Nat) (buf : Option (Nat × List Byte)) : Nat × List Byte × Option (Nat × List Byte) :=
  if code = 0x0A00 then (stOK, s.ridgeStatusData, buf)
  else if code = 0x0A01 then let (st, d) := s.ridgeRecords params room; (st, d, buf)
  else if code = 0x0A02 then s.ridgeReadSealAt buf params room
  else let (st, d) := s.ridgeEvents params room; (st, d, buf)

/-- A query of the host is forwarded to the Ridge, a RIDGE_STATUS where its reply of 46 data bytes fits (R82 step 7, R431, R433). (Assumption 133 DEDUCED) -/
def forwardQuery (code len : Nat) (r : Req) (s : State) : Out :=
  serveOp { code := code, background := true, lens := [len] } r (fun t s =>
    if code = 0x0A00 ∧ !r.fits 46 then refuse stBadParam s
    else .later { s with wit := { s.wit with forwards := s.wit.forwards ++ [⟨t, r.params, s.now⟩] } }) s

/-- RIDGE_STATUS (R96, R431). -/
def execRidgeStatus (r : Req) (s : State) : Out := forwardQuery 0x0A00 0 r s

/-- RIDGE_READ_RECORDS (R466). -/
def execRidgeReadRecords (r : Req) (s : State) : Out := forwardQuery 0x0A01 7 r s

/-- RIDGE_READ_SEAL (R466). -/
def execRidgeReadSeal (r : Req) (s : State) : Out := forwardQuery 0x0A02 10 r s

/-- RIDGE_READ_EVENTS (R466). -/
def execRidgeReadEvents (r : Req) (s : State) : Out := forwardQuery 0x0A03 6 r s

/-- The long result kept for a session: the day and its bytes (R90). (Assumption 171 DEDUCED) -/
def State.keptSeal (s : State) (session : Word) : Option (Nat × List Byte) := (s.rdg.longQuery.find? fun e => e.1 == session).map fun e => e.2

/-- A long result is kept for its session in place of the one before (R90). (Assumption 171 DEDUCED) -/
def State.keepSeal (s : State) (session : Word) (buf : Option (Nat × List Byte)) : State :=
  let rest := s.rdg.longQuery.filter fun e => e.1 != session
  s.setR { s.rdg with longQuery := match buf with
    | some b => (session, b) :: rest
    | none => rest }

/-- The Ridge's answer to a forwarded query reaches its host (R433, R466). -/
def State.ridgeAnswers (s : State) (f : Forward) (rest : List Forward) : State :=
  let u := { s with wit := { s.wit with forwards := rest } }
  let (st, d, buf) := u.ridgeQuery f.ticket.opcode f.params (maxPacket f.ticket.port f.ticket.fd - 22) (u.keptSeal f.ticket.session)
  (u.keepSeal f.ticket.session buf).answer f.ticket st d

/-- RIDGE_REPLY (R433): the Ridge answers the oldest forwarded query within 18 ms. -/
def execRidgeReply (t : Nat) (s0 : State) : Out :=
  let s := s0.advance t
  match s.wit.forwards with
  | [] => .next s
  | f :: rest => if !s.mainUp ∨ !s.qpOn ∨ s.elapsed f.since (18 * ticksPerMs) then .next s else .next (s.ridgeAnswers f rest)

/-- RIDGE_QUERY_TIMEOUT (R433): 18 ms without a reply are answered BUSY. -/
def execRidgeQueryTimeout (t : Nat) (s0 : State) : Out :=
  let s := s0.advance t
  match s.wit.forwards with
  | [] => .next s
  | f :: rest =>
    if s.mainUp ∧ s.elapsed f.since (18 * ticksPerMs) then .next (({ s with wit := { s.wit with forwards := rest } }).answer f.ticket stBusy [])
    else .next s

/-- A request packet from its bytes, as RLINK and the host SPI carry it. -/
def parseReq (time : Nat) (port : Port) (bs : List Byte) : Req where
  time := time
  port := port
  version := bs.getD 0 0
  flags := bs.getD 1 0
  seq := BitVec.ofNat 16 (beAt bs 2 2)
  plen := BitVec.ofNat 16 (beAt bs 6 2)
  session := BitVec.ofNat 32 (beAt bs 8 4)
  reserved := BitVec.ofNat 32 (beAt bs 12 4)
  params := (bs.drop 16).take (bs.length - 20)
  crc := BitVec.ofNat 32 (beAt bs (bs.length - 4) 4)

/-- The parameter lengths of what the Ridge takes on RLINK (R465, Table 4.5). -/
def rlinkLenOk (code n : Nat) : Bool :=
  if code = 0x0001 then decide (n ≤ 64)
  else if code = 0x0A00 then n == 0
  else if code = 0x0A01 then n == 7
  else if code = 0x0A02 then n == 10
  else if code = 0x0A03 then n == 6
  else true

/-- The opcodes of R465. -/
def rlinkOps : List Nat := [0x0001, 0x0A00, 0x0A01, 0x0A02, 0x0A03, 0x0A80, 0x0A81, 0x0A82]

/-- A reply of the Ridge on RLINK; result data only with OK (R75, R465). -/
def State.rlinkReply (s : State) (code : Nat) (r : Req) (st : Nat) (d : List Byte) : State :=
  { s with com := { s.com with sent := .rlink code r.seq.toNat st (if st ≤ 1 then d else []) :: s.com.sent } }

/-- The Ridge handles a packet on RLINK, in the order of R82 as far as R465 leaves it, and replies (R464, R465). -/
def State.rlinkPacket (s : State) (code : Nat) (r : Req) : State :=
  let reply := fun (u : State) (st : Nat) (d : List Byte) => u.rlinkReply code r st d
  if !s.qpRunning then s
  else if r.version ≠ 1 ∨ r.plen.toNat ≠ r.params.length ∨ 12288 < r.total then s.rdgReject
  else if r.crc.toNat ≠ r.wantCrc code then reply s stBadCrc []
  else if r.flags ≠ 0 ∨ r.reserved ≠ 0 then reply s stBadParam []
  else if !rlinkOps.contains code then reply s stBadOpcode []
  else if r.session ≠ 0 then reply s stNotPrivileged []
  else if !rlinkLenOk code r.params.length then reply s stBadLength []
  else if code = 0x0001 then reply s stOK r.params
  else if code < 0x0A80 then
    let (st, d, buf) := s.ridgeQuery code r.params (12288 - 22) s.rdg.longRlink
    reply (s.setR { s.rdg with longRlink := buf }) st d
  else
    let (st, u) := s.authority code r.params
    reply u st []

/-- RLINK_FRAME (R464): the bytes after the low level are L and the packet. (Assumption 133 DEDUCED) -/
def execRlinkFrame (t : Nat) (frame : List Byte) (s0 : State) : Out :=
  let s := s0.advance t
  let len := beAt frame 0 2
  let bs := frame.drop 2
  if !s.qpRunning then .next s
  else if frame.length < 2 ∨ 12288 < len ∨ bs.length ≠ len ∨ len < 20 then .next s.rdgReject
  else .next (s.rlinkPacket (beAt bs 4 2) (parseReq t .spi bs))

/-- An authority opcode: handled on RLINK, RIDGE_ONLY on a main-die transport (R19, R459). -/
def authorityCommand (code : Nat) (r : Req) (rlink : Bool) (s : State) : State :=
  if rlink then (s.advance r.time).rlinkPacket code r else serveNone code stRidgeOnly r s

/-- RIDGE_PARAM_WRITE (R460). -/
def execRidgeParamWrite (r : Req) (rlink : Bool) (s : State) : Out := .next (authorityCommand 0x0A80 r rlink s)

/-- RIDGE_SEAL (R461). -/
def execRidgeSeal (r : Req) (rlink : Bool) (s : State) : Out := .next (authorityCommand 0x0A81 r rlink s)

/-- RIDGE_TIME_ADJUST (R462). -/
def execRidgeTimeAdjust (r : Req) (rlink : Bool) (s : State) : Out := .next (authorityCommand 0x0A82 r rlink s)

/-- The conditions in progress as RDG_STAT.ACTIVE shows them (Table 16.16). -/
def State.rdgActive (s : State) : Nat :=
  let r := s.rdg
  (if r.fieldOn then 1 else 0) + (if r.mbLoss != 0 || r.mbFlat != 0 then 2 else 0) + (if r.absOn || r.wpiOpen then 4 else 0)
    + (if r.mmImp.on || r.mmExp.on then 8 else 0) + (if r.distOn then 16 else 0) + (if r.witLost then 32 else 0)

/-- A 64-bit value in two registers. -/
def State.setF64 (s : State) (hi lo : Fld) (v : Nat) : State := (s.setF hi (v / 2 ^ 32)).setF lo (v % 2 ^ 32)

/-- The mirror as an update fills it (R467, Table 16.16). -/
def State.fillMirror (s : State) : State :=
  let a := (((((s.setF F.RDG_STAT_SEAL s.rdg.sealed).setB F.RDG_STAT_TIME_VALID s.rdg.timeValid).setB F.RDG_STAT_STALE false).setB F.RDG_STAT_LOCKOUT s.rdgLocked).setF F.RDG_STAT_ACTIVE s.rdgActive).setF F.RDG_STAT_REJECTS s.rdg.rejects
  let b := (a.setF F.RDG_TIME s.rdgTime).setF F.RDG_LEC s.rdg.lec
  let c := ((b.setF64 F.RDG_ODO_H F.RDG_ODO_L s.odometer).setF64 F.RDG_IMP_H F.RDG_IMP_L s.rdgImp).setF64 F.RDG_EXP_H F.RDG_EXP_L s.rdgExp
  let d := ((c.setF F.RDG_SPEED (min s.rdg.speed 65535)).setF F.RDG_EVTNEW (s.rdg.nEvent - 1)).setF F.RDG_DAYSEALED s.rdg.newestDay
  ((d.setF F.RDG_PENDING (min s.rdg.closed.length 65535)).setF F.RDG_FWVER ridgeFwVersion).setF F.RDG_AGE 0

/-- MIRROR_UPDATE (R467): once per second in Running. PWR_STATE.TIME_INVALID follows what the Ridge reports (R51). (Assumption 14 DEDUCED) -/
def execMirrorUpdate (t : Nat) (s0 : State) : Out :=
  let s := s0.advance t
  if !s.mainUp ∨ !s.qpRunning then .next s
  else
    let u := (s.fillMirror).setB F.PWR_STATE_TIME_INVALID (!s.rdg.timeValid)
    .next { u with wit := { u.wit with mirrorAt := some u.now } }

/-- Milliseconds since the last mirror update (Table 16.16). -/
def State.mirrorAge (s : State) : Nat :=
  match s.wit.mirrorAt with
  | some a => min 65535 ((s.now - a) / ticksPerMs)
  | none => 65535

/-- RIDGE_STALE (R433): no mirror update for 5 s. -/
def execRidgeStale (t : Nat) (s0 : State) : Out :=
  let s := s0.advance t
  .next (if s.mainUp ∧ 5000 ≤ s.mirrorAge then s.setB F.RDG_STAT_STALE true else s)

end Sys2Proof.Machine
end

