-- ==== Sys2Proof/Machine/Traction.lean ====
section
/-! DEFINITION. The traction drive: drive states, commands, flying start, operational ASC, resolver, rotor loss and re-acquisition, overspeed and retirement of a set (R226 to R264, R288). -/

namespace Sys2Proof.Machine

open Sys2Proof

/-- The sets present: those of TRC_CFG.SETS less the retired ones, and less those whose retirement this arming makes effective (R262, R391). -/
def State.setsPresent (s : State) : Nat := maskOf (below 2 fun k => s.bit F.TRC_CFG_SETS k && !bitAt s.trc.retired k && !bitAt s.trc.retireDue k)

/-- The armed sets that no safe state holds. (Assumption 86 DEDUCED) -/
def State.liveSets (s : State) : List Nat := (bitsList 2 s.trc.sets).filter fun k => !s.held k && !bitAt s.trc.retired k

/-- The armed sets start switching: MODE 1 on their half-bridges, with the coming period start (R226). (Assumption 83 DEDUCED, 86 DEDUCED) -/
def State.startSets (s : State) : State :=
  (s.liveSets.foldl (fun (x : State) k => (x.hbsOf k).foldl (fun y h => if y.latched h then y else y.setMode h 1) x) s).showModes

/-- The sets stop switching: MODE 0 (R226). -/
def State.stopSets (s : State) : State := ((s.stopSwitching 0).stopSwitching 1).showModes

/-- E from a speed alone (R237). -/
def State.emfAt (s : State) (n : Rat) : Rat := s.getQ F.TRC_KE * absRat n / 1000

/-- E exceeds 0.9 × VDC (R237, R238). -/
def State.emfHigh (s : State) : Bool := decide (s.vdc * (9 / 10) < s.emf)

/-- Operational ASC is entered (R238): every low side on, through the traction programs, which stage 0 V on every leg from then on. -/
def State.enterAsc (s : State) (forStop : Bool) : State :=
  let a := ((s.toD 4).setB F.TRC_STAT_ASC_OP true).event F.TRC_EVT_ASC_OP
  let b := { a with trc := { a.trc with ascForStop := forStop, ascLowSince := none, ascSets := a.trc.sets, ascLeave := 0, bias := Vector.replicate 2 (0, 0), biasFrom := 0, torqueNow := 0, torqueAt := none, idNow := 0, dRamp := false } }
  (b.raise Flt.TRC_ASC_OPERATIONAL { stages := b.trc.sets }).startSets

/-- A float parameter is positive and finite. -/
def posFinite (x : F32) : Bool := F32.isPosFinite x

/-- The switching frequency of a set lies within 4 kHz to 48 kHz (R227, Example 8.1). (Assumption 85 DEDUCED) -/
def State.setFreqOk (s : State) (k : Nat) : Bool :=
  (s.hbsOf k).all fun h =>
    let p := s.getF (F.PWM_CAR_PERIOD (s.carRef (s.hbCar h)))
    decide (133333 ≤ p) && decide (p ≤ 1600000)

/-- The conditions under which DRIVE_ARM is answered STATE_REFUSED (Table 9.3). (Assumption 83 DEDUCED) -/
def State.armRefused (s : State) (mask : Nat) : Bool :=
  !(s.power == pARMED || s.power == pRUN) || s.dstate != 0 || ((mask == 1 || mask == 2) && !s.getB F.TRC_CFG_HALFAXLE_EN)
    || !(posFinite (s.getFl F.TRC_RATED) && posFinite (s.getFl F.TRC_KE) && posFinite (s.getFl F.TRC_TMAX) && posFinite (s.getFl F.TRC_IMAX) && posFinite (s.getFl F.TRC_OVERSPEED))
    || s.getF F.TRC_VREGEN_VREGEN1 == 0 || decide (s.getF F.TRC_VREGEN_VREGEN2 ≤ s.getF F.TRC_VREGEN_VREGEN1)
    || !s.getB F.TRC_STAT_RES_OK || !((bitsList 2 mask).all fun k => s.setFreqOk k) || s.getF F.CHG_PP_CLASS != 0 || s.getF F.CHG_STAT_CSTATE != 0

/-- DRIVE_ARM (Table 9.3). (Assumption 136 DEDUCED) -/
def execDriveArm (r : Req) (s : State) : Out :=
  serveOp { code := 0x0300, lens := [1] } r (fun _ s =>
    let m := r.num 0 1
    if m = 0 ∨ Nat.land m s.setsPresent ≠ m then refuse stBadParam s
    else if (s.power = pSAFE ∧ (s.held 0 || s.held 1)) ∨ ((bitsList 2 m).any fun k => s.held k) then refuse stSafeHeld s
    else if s.armRefused m then refuse stStateRefused s
    else okWith [] (({ s with trc := { s.trc with sets := m, retired := Nat.lor s.trc.retired s.trc.retireDue, retireDue := 0, ascSets := 0, ascLeave := 0, bias := Vector.replicate 2 (0, 0), biasFrom := 0, torqueNow := 0, torqueAt := none, idNow := 0, dRamp := false } }).toD 1)) s

/-- The pending DRIVE_START is answered. -/
def State.answerStart (s : State) (st : Nat) (data : List Byte) : State :=
  match s.trc.start with
  | some t => ({ s with trc := { s.trc with start := none } }).answer t st data
  | none => s

/-- DRIVE_DISARM (Table 9.3); a DRIVE_START that still waits for its CAR0 period is answered STATE_REFUSED. (Assumption 81 DEDUCED) -/
def execDriveDisarm (r : Req) (s : State) : Out :=
  serveOp { code := 0x0305 } r (fun _ s =>
    if s.dstate = 8 then refuse stSafeHeld s
    else if s.dstate = 0 then okWith [] s
    else if s.dstate = 1 then okWith [] (((({ s with trc := { s.trc with sets := 0 } }).toD 0).setB F.TRC_STAT_HALFAXLE false).answerStart stStateRefused [])
    else refuse stStateRefused s) s

/-- TORQUE_SET (R232, Table 9.3). -/
def execTorqueSet (r : Req) (s : State) : Out :=
  serveOp { code := 0x0303, lens := [8] } r (fun _ s =>
    let q := r.fl 0
    let k := r.fl 4
    if !F32.isFinite q || decide (s.getQ F.TRC_TMAX < absRat (F32.toRat q)) || !posFinite k then refuse stBadParam s
    else if s.dstate = 0 ∨ s.dstate = 8 then refuse stStateRefused s
    else okWith (beBytes 4 (s.getF F.TRC_TLIM)) { s with trc := { s.trc with torque := q, ramp := k } }) s

/-- A speed limit is not negative, finite and at most OVERSPEED. -/
def State.speedLimitOk (s : State) (x : F32) : Bool := F32.isFinite x && decide (0 ≤ F32.toRat x) && decide (F32.toRat x ≤ s.getQ F.TRC_OVERSPEED)

/-- SPEED_LIMIT_SET (R233, Table 9.3). -/
def execSpeedLimitSet (r : Req) (s : State) : Out :=
  serveOp { code := 0x0304, lens := [8] } r (fun _ s =>
    if !s.speedLimitOk (r.fl 0) || !s.speedLimitOk (r.fl 4) then refuse stBadParam s
    else okWith [] { s with trc := { s.trc with fwdLimit := some (r.fl 0), revLimit := some (r.fl 4) } }) s

/-- The intended direction of a start is positive (R235). -/
def State.dirForward (s : State) : Bool :=
  decide (0 ≤ (if s.trc.speedMode then s.getQ F.TRC_SPEED_SET else F32.toRat s.trc.torque))

/-- The start decision of R241: a case of Table 9.4, or a refusal. -/
inductive StartCase
  | case (n : Nat) | disagree | reverse
  deriving DecidableEq, Repr

/-- The angle difference of two angles in degrees, brought to −180 to 180. -/
def wrapDeg (d : Rat) : Rat := d - 360 * ((d + 180) / 360).floor

/-- R241 on a speed, an angle difference where the phase voltages give one, and the direction. -/
def startDecision (rated n : Rat) (diff : Option Rat) (forward : Bool) : StartCase :=
  let bad := match diff with
    | some d => decide (15 < absRat d)
    | none => false
  if bad then .disagree
  else if absRat n < rated / 100 then .case 0
  else if (decide (0 < n)) == forward then .case 1
  else if absRat n ≤ rated / 4 then .case 2
  else .reverse

/-- The start is recorded in TRC_FLYREC, TRC_STAT and TRC_CNT (R245). -/
def State.flyRecord (s : State) (c us : Nat) (diff : Rat) : State :=
  let a := ((s.setF F.TRC_FLYREC_CASE c).setF F.TRC_FLYREC_LISTEN_US (min 65535 us)).setF F.TRC_FLYREC_ANGLE_DIFF (toBits 8 (diff * 256 / 360).floor)
  let b := if c ≤ 3 then a.setF F.TRC_STAT_CASE c else a
  if 1 ≤ c ∧ c ≤ 3 then b.bump F.TRC_CNT_STARTS else b

/-- Result data of DRIVE_START: case and speed. -/
def startData (c : Nat) (n : Rat) : List Byte := beBytes 1 c ++ beBytes 4 (F32.ofRat n).toNat

/-- The integrators of the armed sets are preset for a start (Table 9.4): 0 at standstill, otherwise q to the measured back-EMF phase peak, signed by the rotation in the electrical frame. (Assumption 221 DEDUCED) -/
def State.presetSets (s : State) (c : Nat) (n e : Rat) : State :=
  let q := if c = 0 then 0 else (if n < 0 then -1 else 1) * s.dirSign * e / root3
  (bitsList 2 s.trc.sets).foldl (fun (x : State) k => (x.presetPi k 0 0).presetPi k 1 (F32.ofRat q)) s

/-- Switching starts at zero current demand for a decided case (Table 9.4). (Assumption 81 DEDUCED) -/
def State.startCase (s : State) (c : Nat) : State :=
  let t := { s with trc := { s.trc with brakeAt := s.now, brakeZeroSince := none, slowSince := none, torqueNow := 0, torqueAt := none, idNow := 0, dRamp := false } }
  (t.toD (if c = 2 then 3 else 5)).startSets

/-- The mode of a start is taken over; a drive with one armed set, the retired ones apart, goes to half-axle operation (R261, R262). -/
def State.startMode (s : State) (speed : Bool) : State :=
  let a := { s with trc := { s.trc with speedMode := speed } }
  if a.liveSets.length = 1 && !a.getB F.TRC_STAT_HALFAXLE then (a.setB F.TRC_STAT_HALFAXLE true).event F.TRC_EVT_HALFAXLE else a

/-- DRIVE_START waits for the next CAR0 period, with which listening begins (R240). (Assumption 81 DEDUCED) -/
def State.listen (s : State) (t : Ticket) : State := { s with trc := { s.trc with start := some t } }

/-- DRIVE_START (R240, Table 9.3); a drive whose armed sets are all retired does not start (R388), nor one whose start is under way. (Assumption 81 DEDUCED, 136 DEDUCED) -/
def execDriveStart (r : Req) (s : State) : Out :=
  serveOp { code := 0x0301, lens := [1] } r (fun t s =>
    if 1 < r.num 0 1 then refuse stBadParam s
    else if (bitsList 2 s.setsInUse).any fun k => s.held k then refuse stSafeHeld s
    else if s.dstate ≠ 1 || s.trc.start.isSome || (bitsList 2 s.trc.sets).all (fun k => bitAt s.trc.retired k) then refuse stStateRefused s
    else
      let n := s.getQ F.TRC_SPEED
      let b := s.startMode (r.num 0 1 == 1)
      if b.vdc * (9 / 10) < b.emfAt n then okWith (startData 3 n) ((b.flyRecord 3 0 0).enterAsc false)
      else .later (b.listen t)) s

/-- The speed that R241 decides on, and the angle difference in degrees where the phase voltages give one. -/
def State.listened (s : State) (m : ListenMeas) : Rat × Option Rat :=
  if 20 ≤ m.eMeas then (m.nV, some (wrapDeg (mkRat (360 * s.getF F.TRC_ANGLE_RES_ANGLE) 65536 - m.angleV))) else (s.getQ F.TRC_SPEED, none)

/-- Listening ends early (R240): the line peak is above 0.9 × VDC, or an in-line current above 2 % of IMAX. -/
def State.listenCut (s : State) (m : ListenMeas) : Bool := decide (s.vdc * (9 / 10) < m.eMeas) || decide (s.getQ F.TRC_IMAX / 50 < m.iMax)

/-- LISTEN_END (R240, R241): listening is over, or ends early in operational ASC. (Assumption 81 DEDUCED, 174 DEDUCED) -/
def execListenEnd (t : Nat) (m : ListenMeas) (s0 : State) : Out :=
  let s := s0.advance t
  if !s.mainUp || s.dstate != 2 then .next s
  else
    let us := (s.now - s.trc.listenAt) / 6400
    let (n, diff) := s.listened m
    if s.listenCut m then .next (((s.flyRecord 3 us (diff.getD 0)).enterAsc false).answerStart stOK (startData 3 n))
    else if !s.elapsed s.trc.listenAt s.trc.listenFor then .next s
    else
      let shown := diff.getD 0
      match startDecision (s.getQ F.TRC_RATED) n diff s.dirForward with
      | .disagree =>
        .next (((((s.toD 1).flyRecord 5 us shown).event F.TRC_EVT_DISAGREE).raise Flt.TRC_START_DISAGREE { stages := s.trc.sets }).answerStart stStateRefused [])
      | .reverse =>
        .next (((((s.toD 1).flyRecord 4 us shown).event F.TRC_EVT_REVERSE).raise Flt.TRC_REVERSE_REFUSED { stages := s.trc.sets }).answerStart stReverseTooFast [])
      | .case c => .next ((((s.flyRecord c us shown).presetSets c n m.eMeas).startCase c).answerStart stOK (startData c n))

/-- The stop ramp begins from the torque in force (R236): DSTATE 7. (Assumption 199 DEDUCED) -/
def State.beginStop (s : State) : State := ({ s with trc := { s.trc with stopAt := s.now, torqueFrom := s.trc.torqueNow, dRamp := false } }).toD 7

/-- Operational ASC is left for a stop: the stop goes on from the ramp of the currents (R238, R244). -/
def State.stopFromAsc (s : State) : State :=
  let a := s.beginStop
  { a with trc := { a.trc with dRamp := true } }

/-- The currents of a stop have been ramped to zero (R236, R238). -/
def State.stopRamped (s : State) : Bool :=
  s.trc.torqueNow == 0 && s.trc.idNow == 0 && s.trc.ascLeave == 0 && s.trc.bias.toList.all fun b => b == (0, 0)

/-- DRIVE_STOP (R236, Table 9.3). With the rotor position lost the torque is ramping to zero already; the stop goes on once the position is found again (R253, R254). (Assumption 81 DEDUCED, 248 DESIGN CHOICE) -/
def execDriveStop (r : Req) (s : State) : Out :=
  serveOp { code := 0x0302 } r (fun _ s =>
    if s.dstate = 8 then refuse stSafeHeld s
    else if s.dstate = 2 then okWith [] ((s.toD 1).answerStart stStateRefused [])
    else if s.dstate = 4 then okWith [] { s with trc := { s.trc with ascForStop := true } }
    else if s.dstate = 6 then okWith [] { s with trc := { s.trc with lossFrom := 7, dRamp := s.trc.dRamp && s.trc.lossFrom == 7 } }
    else if s.dstate = 3 ∨ s.dstate = 5 then okWith [] s.beginStop
    else okWith [] s) s

/-- STOP_RAMP_END (R236): the torque has reached zero. Operational ASC where E is above 0.9 × VDC then; once the d-axis current is at zero too, switching stops and DSTATE is 1. -/
def execStopRampEnd (t : Nat) (s0 : State) : Out :=
  let s := s0.advance t
  if !s.mainUp || s.dstate != 7 || !(s.trc.torqueNow == 0) then .next s
  else if !s.trc.dRamp && s.emfHigh then .next (s.enterAsc true)
  else if s.stopRamped then .next ((s.toD 1).stopSets)
  else .next { s with trc := { s.trc with dRamp := true } }

/-- The drive goes out of operational ASC: the sets that are not retired leave it through switching (R238). -/
def State.leaveAsc (s : State) : State :=
  let keep := Nat.land s.trc.ascSets s.trc.retired
  ({ s with trc := { s.trc with ascLowSince := none, ascLeave := s.trc.ascSets - keep, ascSets := keep, biasFrom := 0 } }).setB F.TRC_STAT_ASC_OP (keep != 0)

/-- ASC_EXIT (R238, R242, R244): E has stayed below 0.8 × VDC for 100 ms; the drive leaves operational ASC through switching. -/
def execAscExit (t : Nat) (s0 : State) : Out :=
  let s := s0.advance t
  match s.trc.ascLowSince with
  | some since =>
    if !s.mainUp || s.dstate != 4 || !s.elapsed since (100 * ticksPerMs) then .next s
    else
      let u := s.leaveAsc
      if u.trc.ascForStop then .next u.stopFromAsc
      else match startDecision (u.getQ F.TRC_RATED) (u.getQ F.TRC_SPEED) none u.dirForward with
        | .case c => .next (u.startCase c)
        | _ => .next (((u.stopFromAsc).event F.TRC_EVT_REVERSE).raise Flt.TRC_REVERSE_REFUSED { stages := u.trc.sets })
  | none => .next s

/-- BRAKE_STANDSTILL (R242): |n| has stayed below 1 % of RATED for 50 ms. -/
def execBrakeStandstill (t : Nat) (s0 : State) : Out :=
  let s := s0.advance t
  match s.trc.slowSince with
  | some since => .next (if s.mainUp && s.dstate = 3 && s.elapsed since (50 * ticksPerMs) then s.toD 5 else s)
  | none => .next s

/-- TRC_BRAKE_ABORT (R243): BRAKE_S has passed, or the regenerative limit has held the torque at zero for 500 ms. -/
def execTrcBrakeAbort (t : Nat) (s0 : State) : Out :=
  let s := s0.advance t
  let zero := match s.trc.brakeZeroSince with
    | some x => s.elapsed x (500 * ticksPerMs)
    | none => false
  if s.mainUp && s.dstate = 3 && (zero || (s.elapsed s.trc.brakeAt (s.getF F.TRC_FLY_BRAKE_S * 100 * ticksPerMs) && decide (s.getQ F.TRC_RATED / 100 ≤ absRat (s.getQ F.TRC_SPEED)))) then
    .next (((s.event F.TRC_EVT_BRAKE_ABORT).raise Flt.TRC_BRAKE_ABORT { stages := s.trc.sets }).beginStop)
  else .next s

/-- The rotor position is lost (R250, R252): DSTATE 6, on an angle extrapolated from the last period in which the check passed. (Assumption 82 DEDUCED) -/
def State.rotorLoss (s : State) : State :=
  if decide (2 ≤ s.dstate) && decide (s.dstate ≤ 7) && s.dstate != 6 then
    let n := s.trc.goodOmega * 60 / (s.getF F.TRC_CFG_POLE_PAIRS : Rat)
    let t := { s with trc := { s.trc with lossFrom := s.dstate, lossAt := s.now, agreeRun := 0, disagreeRun := 0, nLoss := n, torqueFrom := s.trc.torqueNow } }
    ((t.event F.TRC_EVT_ROTOR_LOST).toD 6).raise Flt.TRC_ROTOR_LOSS { stages := s.trc.sets }
  else s

/-- Re-acquisition succeeds (R253). -/
def State.reacquire (s : State) : State :=
  if s.dstate = 6 && !s.elapsed s.trc.lossAt (20 * ticksPerMs + 1) then
    ((s.toD s.trc.lossFrom).bump F.TRC_CNT_REACQS).event F.TRC_EVT_REACQ
  else s

/-- TRC_ROTOR_LOST (R254): 20 ms after the loss; E is then the larger of the extrapolated and a valid observer's value. -/
def execTrcRotorLost (t : Nat) (s0 : State) : Out :=
  let s := s0.advance t
  if s.mainUp && s.dstate = 6 && s.elapsed s.trc.lossAt (20 * ticksPerMs) then
    let e := maxRat (s.emfAt s.trc.nLoss) (if s.getB F.TRC_STAT_OBS_VALID then s.emfAt s.trc.nObs else 0)
    .next ((s.setQ F.TRC_EMF e).raise Flt.TRC_ROTOR_LOST { stages := 3 })
  else .next s

/-- TEX_nom in fine ticks (R246). -/
def State.texNom (s : State) : Nat := ([640000, 1280000, 320000] : List Nat).getD (s.getF F.TRC_CFG_EXC_FREQ) 640000

/-- The excitation period for a CAR0 period, in 1/256 fine tick, and whether it is pulled (R247). -/
def excRule (nom p0 : Nat) : Nat × Bool :=
  let r2 := 2 * p0 % nom
  if p0 = 0 || (decide (nom ≤ 6 * r2) && decide (6 * r2 ≤ 5 * nom)) then (nom * 256, false)
  else
    let k := roundDiv (2 * p0) nom
    if k = 0 then (nom * 256, false) else (roundDiv (2 * p0 * 256) k, true)

/-- A positive zero crossing of the pulled generator as a Batten time: it has placed its phase so that the resolver output peaks at the timestamp of the words that LE5 has last read, and so of each that it reads (R247). (Assumption 225 DEDUCED) -/
def State.placedCrossing (s : State) (tex : Nat) : Nat :=
  let peak : Rat := (s.trc.resAt : Rat)
  let period : Rat := mkRat tex 256
  let x := peak - (1 / 4 + mkRat (s.getF F.TRC_RES_PHASE) 256) * period
  if period ≤ 0 then 0 else (x - period * (x / period).floor).floor.toNat

/-- The generator takes a period at its last positive zero crossing, with continuous phase; a pulled one places its phase. Only a new period rests the amplitude rows (R247, R250). (Assumption 196 DEDUCED) -/
def State.retime (s : State) (tex : Nat) (pulled : Bool) : State :=
  let old := s.getF F.TRC_EXC
  let b := s.battenTime
  let cross := if old = 0 then b else s.trc.excAt + (b - s.trc.excAt) * 256 / old * old / 256
  let at_ := if pulled then s.placedCrossing tex else cross
  ({ s with trc := { s.trc with ampSkip := if tex = old then s.trc.ampSkip else 16, excAt := at_ } }).setF F.TRC_EXC tex

/-- EXC_RETIME (R247): at a positive zero crossing of EXC the period follows P0; the amplitude rows rest for 16 periods (R250). (Assumption 150 DEDUCED) -/
def execExcRetime (t : Nat) (s0 : State) : Out :=
  let s := s0.advance t
  if !s.mainUp then .next s
  else
    let (tex, pulled) := excRule s.texNom (s.car 0).eff
    let a := if tex = s.getF F.TRC_EXC && (!pulled || s.getB F.TRC_STAT_EXC_PULLED) then s else s.retime tex pulled
    .next (a.setB F.TRC_STAT_EXC_PULLED pulled)

/-- OBS_MIN in min⁻¹ (Table 9.11). -/
def State.obsMin (s : State) : Rat := s.getQ F.TRC_RATED * s.getF F.TRC_FLY_OBS_MIN / 1000

/-- One of LE5's three inputs is not valid this period (Table 9.7). (Assumption 82 DEDUCED) -/
def State.resolverWordBad (s : State) : Bool :=
  [0, 1, 2].any fun k => (s.leRead 5 (0x90 + k)).toNat % 4 != 1

/-- An instant since which a condition holds, kept while it holds. -/
def sinceIf (c : Bool) (old : Option Nat) (now : Nat) : Option Nat :=
  if c then (match old with
    | some x => some x
    | none => some now) else none

/-- The rows of Table 9.7 that a sample of LE5 shows: amplitude, excitation, words, tracking error. (Assumption 196 DEDUCED) -/
def State.resolverRows (s : State) (x : ResSample) : List Bool :=
  let on := s.trc.ampSkip == 0
  let mean := s.trc.ampSum / (s.trc.ampCount : Rat)
  let known := decide (100 * ticksPerMs ≤ s.battenTime) && decide (0 < s.trc.ampCount)
  let amp := decide (x.amp < mean * x.exc / 2) || decide (mean * x.exc * 3 / 2 < x.amp)
  let exc := decide (x.monitor < x.expected * 3 / 4) || decide (x.expected * 5 / 4 < x.monitor)
  let err := absRat (wrapTurn (x.angle - s.trackAhead x.time)) * s.polesPer * 360
  [on && known && amp, on && exc, s.resolverWordBad || s.trc.lateWord, decide (10 < err)]

/-- The runs of the rows of Table 9.7 after a period. -/
def nextRuns (rows : List Bool) (run : Vector Nat 4) : Vector Nat 4 :=
  (List.range 4).foldl (fun v k => vset v k (if rows.getD k false then vget v k 0 + 1 else 0)) run

/-- The period's rows are counted; the amplitude rows rest for one period less (R250). -/
def State.countRows (s : State) (rows : List Bool) : State :=
  { s with trc := { s.trc with badRun := nextRuns rows s.trc.badRun, goodRun := if rows.any id then 0 else s.trc.goodRun + 1, ampSkip := s.trc.ampSkip - 1, lateWord := false } }

/-- A resolver fault is declared after 3 periods of a row, and ends after 16 of none (R250). (Assumption 82 DEDUCED) -/
def State.judgeResolver (s : State) : State :=
  let declared := s.trc.badRun.toList.any fun n => decide (3 ≤ n)
  if declared && !s.trc.resFault then
    let x := (({ s with trc := { s.trc with resFault := true } }).setB F.TRC_STAT_RES_OK false).event F.TRC_EVT_RES_FAULT
    if decide (x.dstate ≤ 1) then x.raise Flt.TRC_RES_FAULT { stages := x.setsInUse } else x.rotorLoss
  else if decide (16 ≤ s.trc.goodRun) && !declared then ({ s with trc := { s.trc with resFault := false } }).setB F.TRC_STAT_RES_OK true
  else s

/-- Overspeed is recorded once while it lasts (R255). -/
def State.judgeSpeed (s : State) (n : Rat) : State :=
  let above := decide (s.getQ F.TRC_OVERSPEED < absRat n) && s.dstate != 0 && s.dstate != 8
  if above && !s.trc.overDone then
    (({ s with trc := { s.trc with overDone := true } }).event F.TRC_EVT_OVERSPEED).raise Flt.TRC_OVERSPEED { stages := 3 }
  else if above then s else { s with trc := { s.trc with overDone := false } }

/-- Speed and angle of a period: the electrical angle at the pacing instant, the speed in min⁻¹; a slow rotor is timed (R228, R242, R249). -/
def State.showResolver (s : State) (th om : Rat) : State :=
  let n := om * s.dirSign * 60 / (s.getF F.TRC_CFG_RES_PP : Rat)
  let a := (s.setQ F.TRC_SPEED n).setF F.TRC_ANGLE_RES_ANGLE (s.elecTurn th * 65536).floor.toNat
  { a with trc := { a.trc with slowSince := sinceIf (decide (absRat (a.getQ F.TRC_SPEED) < a.getQ F.TRC_RATED / 100)) a.trc.slowSince a.now } }

/-- The position check has passed in the period before, whose angle an extrapolation then starts from; while the position is lost that angle stays (R252). -/
def State.noteGood (s : State) : State :=
  match s.trc.cand with
  | some (th, om, at_) => if s.dstate = 6 || s.trc.disagreeRun != 0 then s else { s with trc := { s.trc with goodTheta := th, goodOmega := om, goodAt := at_ } }
  | none => s

/-- The angle, speed and instant of a period enter as what the check of the period judges; a fault sample leaves none (R252). -/
def State.candidate (s : State) (ok : Bool) (th om : Rat) (at_ : Nat) : State := { s with trc := { s.trc with cand := if ok then some (th, om, at_) else none } }

/-- Link words 0 to 2 of LE5: angle and electrical speed, extrapolated while the rotor position is lost, and RES_OK (R249, R252). -/
def State.postAngle (s : State) (th om : Rat) (at_ : Nat) : State :=
  let lost := s.dstate == 6
  let a := if lost then s.trc.goodTheta + s.trc.goodOmega * (((at_ : Int) - (s.trc.goodAt : Int) : Int) / (ticksPerS : Rat)) else th
  let w := if lost then s.trc.goodOmega else om
  ((s.putLink 5 0 (turnWord a)).putLink 5 1 (F32.ofRat (w * twoPi))).putLink 5 2 (if s.getB F.TRC_STAT_RES_OK then 1 else 0)

/-- LE5's increment of the period goes on the witness path: motor revolutions, positive in the drive's direction (R228, R249). (Assumption 215 DEDUCED) -/
def State.sumTurns (s : State) (th : Rat) : State :=
  let d := match s.wit.turnFrom with
    | some x => wrapTurn (th - x) * s.dirSign / (s.getF F.TRC_CFG_RES_PP : Rat)
    | none => 0
  { s with wit := { s.wit with turns := s.wit.turns + d, turnFrom := some th } }

/-- One period of LE5 (R246 to R250, R252, R253, R255): the sample decoded and tracked, speed and angle at the pacing instant, the conditions of Table 9.7, overspeed. -/
def State.slotLE5 (s : State) : State :=
  let x := s.resSample
  let rows := s.resolverRows x
  let at_ := (s.eng 5).pacingAt - s.pwr.battenBase
  let a := (s.learnAmp x).track x
  let th := a.trackAhead at_
  let om := a.trc.resOmega
  let b := (((a.noteGood.sumTurns th).showResolver th om).countRows rows).judgeResolver
  let we := om * b.polesPer
  let c := b.candidate (!rows.any id) (b.elecTurn th) we at_
  let n := c.getQ F.TRC_SPEED
  let d := if c.dstate = 6 && c.getB F.TRC_STAT_RES_OK && decide (absRat n < c.obsMin) && decide (16 ≤ c.trc.goodRun) then c.reacquire else c
  (d.postAngle (d.elecTurn th) we at_).judgeSpeed n

/-- The set that the observer watches: A, or B when A does not switch and B is in use (R251). -/
def State.observed (s : State) : Nat := if !s.switching 0 && bitAt s.setsInUse 1 then 1 else 0

/-- The voltages of a set's phases as LE13 reads them (Table 9.2). -/
def State.phaseVolts (s : State) (set : Nat) : List Rat :=
  [0, 1, 2].map fun i => s.lineVolts 13 (s.gzOf (16 * set + i) 1 (if set = 0 then 33 + 2 * i else 39 + 2 * i))

/-- The observer takes one period in: the phase voltages and link words 2 and 3 of the observed set (R251). -/
def State.observe (s : State) : State :=
  let k := s.observed
  let r := Config.observe s.trc.obsTheta s.trc.obsOmega (s.phaseVolts k) (F32.toRat (s.linkWord k 2)) (F32.toRat (s.linkWord k 3)) (s.leSeconds 13)
  let valid := decide (s.obsMin ≤ absRat (s.getQ F.TRC_SPEED)) && (s.switching k || s.dstate == 2)
  let a := { s with trc := { s.trc with obsTheta := fracTurn r.1, obsOmega := r.2, nObs := r.2 * 60 / (s.getF F.TRC_CFG_POLE_PAIRS : Rat) } }
  let b := (a.setF F.TRC_ANGLE_OBS_ANGLE (fracTurn r.1 * 65536).floor.toNat).setB F.TRC_STAT_OBS_VALID valid
  (b.putLink 13 0 (turnWord r.1)).putLink 13 1 (if valid then 1 else 0)

/-- E of R237 with the peak measured while the gates are off, and what hangs on it. -/
def State.takeEmf (s : State) (peak : Rat) : State :=
  let off := !s.switching 0 && !s.switching 1 && !s.ascOn 0 && !s.ascOn 1
  let n := if s.dstate = 6 then s.trc.nLoss else s.getQ F.TRC_SPEED
  let a := s.setQ F.TRC_EMF (maxRat (s.emfAt n) (if off then peak else 0))
  let low := decide (a.emf < a.vdc * (4 / 5))
  { a with
    trc := { a.trc with eMeas := (if off then peak else a.trc.eMeas), ascLowSince := sinceIf (low && a.dstate = 4) a.trc.ascLowSince a.now,
                        brakeZeroSince := sinceIf (a.dstate == 3 && decide ((a.getF F.TRC_VREGEN_VREGEN2 : Rat) ≤ a.vdc)) a.trc.brakeZeroSince a.now },
    slt := { a.slt with lowEmfSince := sinceIf (decide (a.emf ≤ a.vdc * (4 / 5))) a.slt.lowEmfSince a.now } }

/-- The observer and the resolver are compared in electrical degrees (R251 to R253). -/
def State.compareAngles (s : State) : State :=
  let diff := wrapDeg (mkRat ((s.getF F.TRC_ANGLE_OBS_ANGLE : Int) - (s.getF F.TRC_ANGLE_RES_ANGLE : Int)) 65536 * 360)
  let valid := s.getB F.TRC_STAT_OBS_VALID
  let dis := if valid && decide (15 < absRat diff) then s.trc.disagreeRun + 1 else 0
  let agr := if valid && decide (absRat diff ≤ 5) then s.trc.agreeRun + 1 else 0
  { s with trc := { s.trc with disagreeRun := dis, agreeRun := agr } }

/-- E has risen above 0.9 × VDC in DSTATE 1: operational ASC (R238); a DRIVE_START that waits for its CAR0 period is case 3. (Assumption 81 DEDUCED) -/
def State.ascFromArmed (s : State) : State :=
  if s.trc.start.isSome then
    ((s.flyRecord 3 0 0).enterAsc false).answerStart stOK (startData 3 (s.getQ F.TRC_SPEED))
  else s.enterAsc true

/-- A retired set that holds operational ASC stops switching once E is no longer above 0.9 × VDC (R262). -/
def State.retiredAscEnds (s : State) : State :=
  if s.emfHigh || s.dstate = 4 then s
  else (bitsList 2 (Nat.land s.trc.ascSets s.trc.retired)).foldl (fun (x : State) k =>
    let y := { x with trc := { x.trc with ascSets := setBitN x.trc.ascSets k false } }
    ((y.stopSwitching k).setB F.TRC_STAT_ASC_OP (y.trc.ascSets != 0)).showModes) s

/-- One slot of LE13 (R237, R238, R251 to R253): E, the observer, operational ASC from DSTATE 1, re-acquisition. -/
def State.slotLE13 (s : State) (m : SlotMeas) : State :=
  let c := (((s.takeEmf m.ePeak).observe).compareAngles).retiredAscEnds
  if c.dstate = 1 && c.emfHigh then c.ascFromArmed
  else if 3 ≤ c.trc.disagreeRun && (c.dstate = 3 || c.dstate = 5 || c.dstate = 7) then c.rotorLoss
  else if c.dstate = 6 && c.getB F.TRC_STAT_RES_OK && decide (16 ≤ c.trc.agreeRun) then c.reacquire
  else c

/-- TLIM_eff from its terms (R232): the torque bounds given are the thermal limit and what the speed limiter allows; a torque against the rotation regenerates. (Assumption 84 DESIGN CHOICE) -/
def State.tlimEff (s : State) (thermal speed aim : Rat) : Rat :=
  let tmax := s.getQ F.TRC_TMAX
  let half := if s.getB F.TRC_STAT_HALFAXLE then tmax / 2 else tmax
  let v1 : Rat := (s.getF F.TRC_VREGEN_VREGEN1 : Rat)
  let v2 : Rat := (s.getF F.TRC_VREGEN_VREGEN2 : Rat)
  let regen := decide (aim * s.getQ F.TRC_SPEED < 0)
  let r := if regen && v1 < v2 then clampRat 0 tmax (tmax * (v2 - s.vdc) / (v2 - v1)) else tmax
  minRat (minRat tmax half) (minRat r (minRat thermal speed))

/-- The speed limiter of torque mode: a PI block that gives the driving torque it allows in the direction of rotation, TMAX without a limit (R233). (Assumption 198 DESIGN CHOICE, 200 DEDUCED) -/
def State.speedLimiter (s : State) (n : Rat) : Rat × State :=
  let tmax := s.getQ F.TRC_TMAX
  match (if n < 0 then s.trc.revLimit else s.trc.fwdLimit), s.trc.speedMode with
  | some l, false =>
    let (y, a) := s.progPi 4 1 (F32.ofRat (F32.toRat l - absRat n)) 0 (F32.ofRat tmax) true
    (F32.toRat y, a)
  | _, _ => (tmax, s)

/-- TRC_SPEED_SET inside the limits of SPEED_LIMIT_SET (R233). (Assumption 200 DEDUCED) -/
def State.speedGoal (s : State) : Rat :=
  let v := s.getQ F.TRC_SPEED_SET
  let a := match s.trc.fwdLimit with
    | some l => minRat v (F32.toRat l)
    | none => v
  match s.trc.revLimit with
  | some l => maxRat a (-(F32.toRat l))
  | none => a

/-- The torque that LE4 aims at before its limits: the command, the speed loop bounded by the command, braking against the rotation, or none (R233, R242, Table 9.1). -/
def State.torqueAim (s : State) (n : Rat) : Rat × State :=
  if s.dstate = 3 then ((if n < 0 then 1 else -1) * s.getQ F.TRC_TMAX * (s.getF F.TRC_FLY_BRAKE_PCT : Rat) / 100, s)
  else if s.dstate = 5 then
    if s.trc.speedMode then
      let b := absRat (F32.toRat s.trc.torque)
      let (y, a) := s.progPi 4 0 (F32.ofRat (s.speedGoal - n)) (F32.ofRat (-b)) (F32.ofRat b) true
      (F32.toRat y, a)
    else (F32.toRat s.trc.torque, s)
  else (0, s)

/-- Torque may be applied: DSTATE 3, 5, 6 and 7 (Table 9.1). -/
def State.torqued (s : State) : Bool := s.dstate == 3 || s.dstate == 5 || s.dstate == 6 || s.dstate == 7

/-- The torque moves towards its aim at the ramp rate, inside a limit (R232, R236, R252). -/
def State.rampTorque (s : State) (aim lim : Rat) : State :=
  let at_ := (s.eng 4).pacingAt
  let dt : Rat := match s.trc.torqueAt with
    | some x => ((at_ - x : Nat) : Rat) / (ticksPerS : Rat)
    | none => 0
  let t := clampRat (-lim) lim (stepTo s.trc.torqueNow (clampRat (-lim) lim aim) (s.torqueRate * dt))
  { s with trc := { s.trc with torqueNow := if s.torqued then t else 0, torqueAt := if s.torqued then some at_ else none } }

/-- The sets among which LE4 splits the torque (R232). -/
def State.torqueSets (s : State) : List Nat := s.liveSets.filter fun k => !bitAt s.trc.ascSets k

/-- What is left of the current references of a retired set, which ramp to zero within 50 ms (R262). -/
def State.retireLeft (s : State) (k : Nat) : Rat :=
  match vget s.trc.retireAt k none with
  | some x => maxRat 0 (1 - ((s.now - x : Nat) : Rat) / (50 * ticksPerMs : Nat))
  | none => 1

/-- The bound of the phase-voltage demand (R231). -/
def State.voltBound (s : State) : Rat := s.vdc * 95 / (100 * root3)

/-- The d-axis current of field weakening, up to IMAX, or its ramp to zero in a stop (R231, R236). -/
def State.weaken (s : State) (q : Rat) : State :=
  let imax := s.getQ F.TRC_IMAX
  let want := -(clampRat 0 imax (Config.fluxMap s.linkOmega q s.voltBound))
  let d := if !s.torqued then 0 else if s.dstate = 7 && s.trc.dRamp then stepTo s.trc.idNow 0 (20 * imax * s.leSeconds 4) else want
  { s with trc := { s.trc with idNow := d } }

/-- The part of the q-axis currents that stays once field weakening has used IMAX and a set's demand still exceeds the bound (R231). -/
def State.torqueCut (s : State) : Rat :=
  let most := maxRat (vget s.trc.demand 0 0) (vget s.trc.demand 1 0)
  if s.trc.idNow = -(s.getQ F.TRC_IMAX) && decide (s.voltBound * s.voltBound < most) then clampRat 0 1 (Config.fluxCut most s.voltBound) else 1

/-- The current references of both sets go into link words 0 to 3 of LE4; a torque in the positive direction drives the electrical angle backwards with DIR_INV (R228, R231, R232, Table 9.2). (Assumption 221 DEDUCED) -/
def State.giveCurrents (s : State) : State :=
  let share := s.torqueSets.filter fun k => !bitAt s.trc.retired k
  let q := if share.isEmpty then 0 else s.dirSign * Config.torqueCurrent (s.trc.torqueNow / (share.length : Rat))
  let a := s.weaken (if s.torqued then q else 0)
  [0, 1].foldl (fun (x : State) k =>
    let on := s.torqued && (share.contains k || (vget s.trc.retireAt k none).isSome)
    let f := if on then s.retireLeft k else 0
    (x.putLink 4 (2 * k) (F32.ofRat (f * a.trc.idNow))).putLink 4 (2 * k + 1) (F32.ofRat (f * q * a.torqueCut))) a

/-- The torque estimate of both sets from their measured currents, in the positive direction (R228, Table 9.11). -/
def State.torqueSeen (s : State) : Rat :=
  s.dirSign * ([0, 1].map fun k => Config.torqueOf (F32.toRat (s.linkWord k 0)) (F32.toRat (s.linkWord k 1))).sum

/-- The torque of a stop has reached zero: operational ASC where E is above 0.9 × VDC, otherwise the d-axis ramp begins (R236). -/
def State.stopProgress (s : State) : State :=
  if s.dstate = 7 && s.trc.torqueNow == 0 && !s.trc.dRamp then
    (if s.emfHigh then s.enterAsc true else { s with trc := { s.trc with dRamp := true } })
  else s

/-- One slot of LE0 (R283, R288, R379): the chopper's MODE is written back once its latch and the hold of stage 2 are gone, and its compares follow VDC, an overrange its direction, the duty derated by k_2; a retired switch of two stays off (Table 14.3). -/
def State.slotLE0 (s : State) : State :=
  match s.chopperHb with
  | none => s
  | some h =>
    if !(s.power == pARMED || s.power == pRUN || s.power == pSAFE) || s.held 2 || s.latched h then s
    else
      let mode := if h = 6 && !s.map.hb6Half then 2 else if h = 6 then 1 else 2
      let a := if s.hbMode h = 0 then s.setMode h mode else s
      let fl := (s.leRead 0 (0x90 + s.gzVdc)).toNat
      let v : Rat := (s.gzValue s.gzVdc (s.gzCode s.gzVdc (s.leRead 0 s.gzVdc)) : Rat) * s.getQ F.SLT_VSCALE
      let lo : Rat := (s.getF F.SLT_CHOP_CHOP_START : Rat)
      let hi : Rat := (s.getF F.SLT_CHOP_CHOP_FULL : Rat)
      let up := s.gzCode s.gzVdc (s.leRead 0 s.gzVdc) == s.clampCode s.gzVdc true
      let d0 : Rat := if fl % 4 / 2 = 1 then (if up then 1 else 0) else if fl % 2 = 0 || hi ≤ lo then 0 else clampRat 0 1 ((v - lo) / (hi - lo))
      let d := d0 * vget s.thm.k 2 1
      let p := (s.car (s.hbCar h)).eff
      let off := if d ≤ 0 then 0 else if 1 ≤ d then 0xFFFFFF else (roundRat (d * p)).toNat
      (s.chopperChs).foldl (fun (x : State) c =>
        (x.stage 0 c false 0).stage 0 c true (BitVec.ofNat 32 (if (a.chopperChs).length = 2 && bitAt a.thm.chopRetired (c - 12) then 0 else off))) a

/-- R260 after the retirement of a set of an armed drive: the other set goes on alone, or goes to its safe state (R262). -/
def State.retireOther (s : State) (k : Nat) : State :=
  if s.dstate = 0 || !s.setUsed (1 - k) || s.held (1 - k) then s else s.loseSet k false

/-- A retired set has ramped its currents to zero: it stops switching, or holds operational ASC while E is high, and R260 applies (R262). -/
def State.retireEnds (s : State) (k : Nat) : State :=
  let a := { s with trc := { s.trc with retireAt := vset s.trc.retireAt k none } }
  let hold := { a with trc := { a.trc with ascSets := setBitN a.trc.ascSets k true } }
  let b := if a.emfHigh then (((hold.setB F.TRC_STAT_ASC_OP true).event F.TRC_EVT_ASC_OP).raise Flt.TRC_ASC_OPERATIONAL { stages := 2 ^ k }) else (a.stopSwitching k).showModes
  b.retireOther k

/-- A set has been retired, or its retirement waits for the next DRIVE_ARM (R262, R391). -/
def State.setRetired (s : State) (k : Nat) : Bool := bitAt s.trc.retired k || bitAt s.trc.retireDue k

/-- A set is retired (R262): a switching one ramps its currents to zero within 50 ms; with the other set retired too, the drive is lost. While the Slate holds the set its retirement is recorded and applies with the next DRIVE_ARM (R391). -/
def State.retireSet (s : State) (k : Nat) : State :=
  let m := if s.held k then { s.trc with retireDue := setBitN s.trc.retireDue k true } else { s.trc with retired := setBitN s.trc.retired k true }
  let t := ({ s with trc := m }).queueRetire k
  let a := t.raise Flt.TRC_SET_RETIRED { stages := 2 ^ k }
  if a.setRetired (1 - k) || !bitAt (a.getF F.TRC_CFG_SETS) (1 - k) then a.raise Flt.TRC_BOTH_SETS_LOST { stages := 3 }
  else if s.held k then a
  else if a.switching k then { a with trc := { a.trc with retireAt := vset a.trc.retireAt k (some a.now) } }
  else a.retireOther k

/-- The retired sets whose 50 ms have passed. -/
def State.retireProgress (s : State) : State :=
  [0, 1].foldl (fun (x : State) k => match vget x.trc.retireAt k none with
    | some t => if x.elapsed t (50 * ticksPerMs) then x.retireEnds k else x
    | none => x) s

/-- One slot of LE4 (R231 to R233, R236, R262): the limits, the torque, the current references of both sets. The thermal term is the lower phase-current limit of the sets in use, converted to torque (Table 14.1). -/
def State.slotLE4 (s : State) : State :=
  let n := s.getQ F.TRC_SPEED
  let amps := (bitsList 2 s.setsInUse).foldl (fun a st => minRat a (vget s.thm.k st 1 * s.getQ F.TRC_IMAX)) (s.getQ F.TRC_IMAX)
  let (allow, a) := s.speedLimiter n
  let (aim, b) := a.torqueAim n
  let lim := b.tlimEff (Config.torqueAtCurrent amps) (if 0 < aim * n then allow else b.getQ F.TRC_TMAX) aim
  let c := ((b.rampTorque aim lim).setQ F.TRC_TLIM lim).giveCurrents
  ((c.setQ F.TRC_TORQUE c.torqueSeen).stopProgress).retireProgress

end Sys2Proof.Machine
end

