-- ==== Sys2Proof/Machine/GridCharger.lean ====
section
/-! DEFINITION. The bidirectional charger: pilot and proximity, sessions, grid trips, the host-less fallback, the control-side energy and its witness (R292 to R314). -/

namespace Sys2Proof.Machine

open Sys2Proof

/-- CSTATE (Table 11.5). -/
def State.cstate (s : State) : Nat := s.getF F.CHG_STAT_CSTATE

/-- The front end or the DAB switches. -/
def State.chgSwitching (s : State) : Bool := s.switching 3 || s.switching 4

/-- ICP of Table 11.3 in A from the duty in 0.1 %: none where the duty gives no pilot limit. -/
def icpOf (osc : Bool) (duty : Nat) : Option Rat :=
  if !osc then some 0
  else if duty < 30 then some 0
  else if duty ≤ 70 then none
  else if duty < 80 then some 0
  else if duty ≤ 100 then some 6
  else if duty ≤ 850 then some ((duty : Rat) * 6 / 100)
  else if duty ≤ 960 then some (((duty : Rat) / 10 - 64) * (5 / 2))
  else if duty ≤ 970 then some 80
  else some 0

/-- ICP as the pilot was last evaluated. -/
def State.icp (s : State) : Option Rat := icpOf (s.getB F.CHG_PILOT_OSC) (s.getF F.CHG_PILOT_DUTY)

/-- ICP is 0 A. -/
def State.icpZero (s : State) : Bool := s.icp == some 0

/-- The pilot allows current: oscillating with ICP not 0 A (Table 11.5). -/
def State.pilotOk (s : State) : Bool := s.getB F.CHG_PILOT_OSC && !s.icpZero

/-- IPP of a proximity class (Table 11.4). -/
def ippOf (cls : Nat) : Rat := if cls = 1 then 13 else if cls = 2 then 20 else if cls = 3 then 32 else if cls = 4 then 63 else 0

/-- The phases of the session. -/
def State.chgPhases (s : State) : Nat := s.getF F.CHG_STAT_PHASES

/-- IAC_EFF (R302): the smallest of the limits that apply in a session; IAC_MAX is lowered by the smaller derating factor of front end and DAB (Table 14.1). (Assumption 93 DEDUCED) -/
def State.iacEff (s : State) : Rat :=
  if s.cstate = 0 then 0
  else
    let a := minRat (F32.toRat s.chg.ises) (minRat (ippOf (s.getF F.CHG_PP_CLASS)) (s.getQ F.CHG_IAC_MAX * minRat (vget s.thm.k 3 1) (vget s.thm.k 4 1)))
    let b := match s.icp with
      | some i => minRat a i
      | none => a
    if s.getB F.CHG_STAT_FALLBACK then minRat b 16 else b

/-- The phases whose power counts: those of the session, or all three while none is open (R311). (Assumption 93 DEDUCED) -/
def State.usedPhases (s : State) : List Nat := if s.chgPhases = 1 && s.cstate != 0 then [0] else [0, 1, 2]

/-- The grid power at which the current of every used phase is IAC_EFF: by the measured voltages, by VNOM before LE7 has measured a grid cycle (R302). -/
def State.powerLimit (s : State) : Rat :=
  s.iacEff * (s.usedPhases.map fun k => let v := vget s.chg.vRms k 0; if v = 0 then (s.getF F.CHG_CFG_VNOM : Rat) else v).sum

/-- The grid power that the stored target asks for, within the limits of R302. -/
def State.wantedPower (s : State) : Rat :=
  let lim := s.powerLimit
  clampRat (-(minRat lim (s.getQ F.CHG_EXPORT_MAX))) (minRat lim (s.getQ F.CHG_IMPORT_MAX)) (s.getQ F.CHG_TARGET)

/-- The grid power as the running ramp gives it now. -/
def State.rampPower (s : State) : Rat :=
  let c := s.chg
  let step := c.rampRate * ((s.now - c.rampAt : Nat) : Rat) / (ticksPerS : Rat)
  if c.rampFrom ≤ c.rampTo then minRat c.rampTo (c.rampFrom + step) else maxRat c.rampTo (c.rampFrom - step)

/-- A ramp of the grid power begins from its present value (R302, Table 11.9). -/
def State.rampTo (s : State) (p rate : Rat) (why : Nat) : State :=
  { s with chg := { s.chg with rampFrom := s.rampPower, rampTo := p, rampAt := s.now, rampRate := rate, zeroFor := why } }

/-- The grid power ramps to zero for a reason (R300, R306, R309). A ramp to zero that already runs keeps its pace where that is the faster one, and the end it leads to (Table 11.9). -/
def State.rampZero (s : State) (rate : Rat) (why : Nat) : State :=
  let z := s.chg.zeroFor
  let keep := z = 3 || (z = 1 && why = 2)
  s.rampTo 0 (if z = 0 then rate else maxRat rate s.chg.rampRate) (if keep then z else why)

/-- The rate at which the grid power moves: RAMP, or faster where a fallen IAC_EFF must be reached within 5 s (R302). -/
def State.followRate (s : State) : Rat :=
  let excess := absRat s.rampPower - s.powerLimit
  maxRat (s.getQ F.CHG_RAMP) (excess / 5)

/-- The running session follows its target once the DAB switches, unless it ramps to zero (R301, R302). -/
def State.followTarget (s : State) : State :=
  if s.cstate = 3 && s.switching 4 && s.chg.zeroFor = 0 && s.chg.rampTo != s.wantedPower then s.rampTo s.wantedPower s.followRate 0 else s

/-- CHG_ILIM shows IAC_EFF. -/
def State.showIlim (s : State) : State := (s.setQ F.CHG_ILIM s.iacEff).followTarget

/-- S2 is closed: a session is open and the power state is ARMED or RUN (R298). -/
def State.s2Closed (s : State) : Bool := s.cstate != 0 && (s.power == pARMED || s.power == pRUN)

/-- A session stops (Table 11.7), with what the modes in force then show. (Assumption 96 DEDUCED) -/
def State.chgStop (s : State) (reason : Nat) : State := (s.chgEnd reason).showModes

/-- A session was open at the start of this LE7 slot: a stop event still records its fault (Table 11.9). -/
def State.chgOpen (s : State) : Bool := s.cstate != 0 || s.stopHere

/-- Switching of both charger stages stops at once. -/
def State.chgOff (s : State) : State :=
  let t := (s.stopSwitching 3).stopSwitching 4
  ({ t with chg := { t.chg with rampFrom := 0, rampTo := 0, zeroFor := if t.chg.zeroFor = 2 then 0 else t.chg.zeroFor } }).showModes

/-- CSTATE 4 is entered for a cause (Table 11.5). -/
def State.chgPause (s : State) (cause : Nat) : State := ((s.setF F.CHG_STAT_CSTATE 4).setF F.CHG_STAT_PAUSE cause).event F.CHG_EVT_PAUSED

/-- A paused session goes on: its power starts from what still flows (R306). -/
def State.chgResume (s : State) : State :=
  let p := if s.chgSwitching then s.rampPower else 0
  ({ s with chg := { s.chg with rampFrom := p, rampTo := p, rampAt := s.now, zeroFor := 0 } }.chgStart).followTarget

/-- WAIT becomes READY once the pilot and the grid allow it; READY falls back when the grid does not (Table 11.5). -/
def State.chgSettle (s : State) : State :=
  if s.cstate = 1 && s.getF F.CHG_PILOT_STATE = 2 && s.pilotOk && s.getB F.CHG_STAT_QUALIFIED then s.setF F.CHG_STAT_CSTATE 2
  else if s.cstate = 2 && !s.getB F.CHG_STAT_QUALIFIED then (s.setF F.CHG_STAT_CSTATE 1).setB F.CHG_STAT_PRECHARGED false
  else s

/-- The effective period of a carrier: of its running period, otherwise what its registers give. -/
def State.carEff (s : State) (n : Nat) : Nat := if (s.car n).running then (s.car n).eff else s.effPeriod n

/-- R292: carriers outside their ranges, or a charger stage the map leaves out. -/
def State.chargerUnfit (s : State) : Bool :=
  let a := s.carEff 3
  let b := s.carEff 4
  decide (a < 80000) || decide (160000 < a) || decide (3 * b < 160000) || decide (320000 < 3 * b) || (s.hbsOf 3).isEmpty || (s.hbsOf 4).isEmpty

/-- The conditions under which CHG_SESSION_BEGIN is answered STATE_REFUSED (Table 11.6, R388). (Assumption 96 DEDUCED) -/
def State.beginRefused (s : State) : Bool :=
  !(s.power == pARMED || s.power == pRUN) || s.cstate != 0 || s.dstate != 0 || !(decide (1 ≤ s.getF F.CHG_PP_CLASS) && decide (s.getF F.CHG_PP_CLASS ≤ 4))
    || decide (s.chg.vbat < (s.getF F.CHG_VBAT_VBAT_MIN : Rat)) || decide ((s.getF F.CHG_VBAT_VBAT_MAX : Rat) < s.chg.vbat)
    || F32.isZero (s.getFl F.CHG_XBVSCALE) || F32.isZero (s.getFl F.CHG_XBISCALE) || s.getF F.CHG_CFG_VNOM == 0 || s.chargerUnfit || s.bit F.THM_SPARE_RETIRED 3 || s.bit F.THM_SPARE_RETIRED 4

/-- A session opens: WAIT, S2 closed, target 0 (R300). -/
def State.beginSession (s : State) (phases : Nat) (exports : Bool) (amps : F32) : State :=
  let a := { s with chg := { s.chg with exportOk := exports, ises := amps, sesImp := s.chg.imp, sesExp := s.chg.exp, setTarget := 0, faulted := false, zeroFor := 0, rampFrom := 0, rampTo := 0, stopSlot := none, fellBack := false } }
  let b := ((((a.setF F.CHG_STAT_CSTATE 1).setB F.CHG_STAT_S2 true).setF F.CHG_STAT_PHASES phases).setFl F.CHG_TARGET 0).bump F.CHG_CNT_SESSIONS
  (((b.setB F.CHG_STAT_QUALIFIED false).setB F.CHG_STAT_PRECHARGED false).setF F.CHG_STAT_PAUSE 0).showIlim

/-- CHG_SESSION_BEGIN (R292, R300, R388). -/
def execChgSessionBegin (r : Req) (s : State) : Out :=
  serveOp { code := 0x0400, lens := [6] } r (fun _ s =>
    let ph := r.num 0 1
    let ex := r.num 1 1
    if (ph ≠ 1 ∧ ph ≠ 3) ∨ 1 < ex ∨ !posFinite (r.fl 2) then refuse stBadParam s
    else if s.held 3 || s.held 4 then refuse stSafeHeld s
    else if s.beginRefused then refuse stStateRefused s
    else okWith [] (s.beginSession ph (ex == 1) (r.fl 2))) s

/-- CHG_SET (R300, R308). -/
def execChgSet (r : Req) (s : State) : Out :=
  serveOp { code := 0x0401, lens := [8] } r (fun _ s =>
    let p := r.fl 0
    let b := r.fl 4
    let q := F32.toRat p
    if !F32.isFinite p || !posFinite b || decide (s.getQ F.CHG_IMPORT_MAX < q) || decide (q < -(s.getQ F.CHG_EXPORT_MAX)) then refuse stBadParam s
    else if s.cstate = 0 then refuse stStateRefused s
    else if q < 0 ∧ (!s.chg.exportOk || !s.getB F.CHG_CFG_EXPORT_EN || s.getB F.CHG_STAT_FALLBACK) then refuse stStateRefused s
    else
      let a := ({ s with chg := { s.chg with setTarget := p, battLimit := b } }).setFl F.CHG_TARGET p
      okWith [] a.followTarget) s

/-- CHG_SESSION_END (R300): the reply waits for a ramp. -/
def execChgSessionEnd (r : Req) (s : State) : Out :=
  serveOp { code := 0x0402, background := true } r (fun t s =>
    if s.cstate = 0 then refuse stStateRefused s
    else
      let a := { s with chg := { s.chg with endTickets := s.chg.endTickets ++ [t] } }
      if !s.chgSwitching || s.rampPower = 0 then .later (a.chgStop 1)
      else .later (a.rampZero (s.getQ F.CHG_RAMP) 1)) s

/-- The CHG_STAT word with S2 as it stands. -/
def State.pilotData (s : State) : List Byte :=
  beBytes 1 (65 + s.getF F.CHG_PILOT_STATE) ++ beBytes 2 (s.getF F.CHG_PILOT_DUTY) ++ beBytes 2 (s.getF F.CHG_PILOT_HIGH_MV) ++ beBytes 2 (s.getF F.CHG_PILOTLOW_LOW_MV)
    ++ beBytes 2 (s.getF F.CHG_PP_PP_OHM) ++ beBytes 1 (if s.s2Closed then 1 else 0)

/-- PILOT_STATUS (R300). -/
def execPilotStatus (r : Req) (s : State) : Out := serveOp { code := 0x0403 } r (fun _ s => okWith s.pilotData s) s

/-- Pilot state from the measured levels (Table 11.2), 0 to 5 for A to F; 6 where no row applies. (Assumption 92 DEDUCED) -/
def pilotState (high low : Int) (osc : Bool) : Nat :=
  if (-1500 ≤ high ∧ high ≤ 1500) ∨ (osc ∧ -10500 < low) then 4
  else if high < -10500 ∧ !osc then 5
  else if 10500 < high then 0
  else if 7500 ≤ high then 1
  else if 4500 ≤ high then 2
  else if 1500 ≤ high then 3
  else 6

/-- A ramp to zero is over: the session ends as the ramp's reason says, or its switching stops in a pause (R300, R306, R309). -/
def State.zeroReached (s : State) : State :=
  if s.chg.zeroFor = 1 then s.chgStop 1 else if s.chg.zeroFor = 3 then s.chgStop 4 else s.chgOff

/-- The pilot pauses a switching session: a ramp to zero within 3 s (Table 11.7). -/
def State.pilotPause (s : State) : State :=
  let p := s.rampPower
  if p = 0 then (s.chgPause 1).zeroReached else (s.chgPause 1).rampZero (maxRat (s.getQ F.CHG_RAMP) (absRat p / 3)) 2

/-- What the pilot does to an open session (Table 11.7): a pilot that is lost stops it at any evaluation, and is recorded too where another event of the slot has just stopped it. -/
def State.pilotEffects (s : State) (was : Nat) : State :=
  let st := s.getF F.CHG_PILOT_STATE
  let lost := st == 0 || st == 3 || st == 4 || st == 5
  if lost && (s.cstate != 0 || (s.chgOpen && st != was)) then (((s.event F.CHG_EVT_PILOT).raise Flt.CHG_PILOT_LOST {}).chgStop 3)
  else if s.cstate = 3 && st = 2 && !s.pilotOk then s.pilotPause
  else if s.cstate = 4 && s.getF F.CHG_STAT_PAUSE = 1 then
    match s.chg.pilotOkSince with
    | some x => if s.elapsed x ticksPerS && s.chg.zeroFor != 1 && s.chg.zeroFor != 3 && s.getB F.CHG_STAT_QUALIFIED then s.chgResume else s
    | none => s
  else s.chgSettle

/-- The levels and the duty of the pilot are shown (R295). -/
def State.showPilot (s : State) (highMv lowMv : Int) (osc : Bool) (duty : Nat) : State :=
  let a := ((((s.setB F.CHG_PILOT_OSC osc).setF F.CHG_PILOT_DUTY (min duty 1000)).setF F.CHG_PILOT_HIGH_MV (toBits 16 highMv)).setF F.CHG_PILOTLOW_LOW_MV (toBits 16 lowMv))
  a.setF F.CHG_PILOTLOW_ICP (match icpOf osc duty with
    | some i => floorNat (i * 10)
    | none => 0xFFFF)

/-- A pilot state seen in 3 consecutive evaluations is taken (R296). (Assumption 92 DEDUCED) -/
def State.countPilot (s : State) (cand : Nat) : State :=
  let run := if cand = s.chg.pilotCand then s.chg.pilotRun + 1 else 1
  let c := { s with chg := { s.chg with pilotCand := cand, pilotRun := run, pilotOkSince := sinceIf s.pilotOk s.chg.pilotOkSince s.now } }
  if decide (3 ≤ run) && cand != 6 then c.setF F.CHG_PILOT_STATE cand else c

/-- The duty in 0.1 %, averaged over the last 8 pilot cycles, each given in 0.001 % (R295). (Assumption 223 DESIGN CHOICE) -/
def pilotDuty (cycles : Vector Nat 8) : Nat := cycles.toList.sum / 800

/-- PILOT_EVALUATION (R295, R296): levels, duty and ICP; then the state, and what it does to a session. -/
def execPilotEvaluation (t : Nat) (highMv lowMv : Int) (osc : Bool) (duty : Vector Nat 8) (s0 : State) : Out :=
  let s := s0.advance t
  if !s.mainUp then .next s
  else .next ((((s.showPilot highMv lowMv osc (pilotDuty duty)).countPilot (pilotState highMv lowMv osc)).pilotEffects (s.getF F.CHG_PILOT_STATE)).showIlim)

/-- The proximity class of a resistance (Table 11.4): 0 none, 7 invalid. -/
def ppClassOf (ohm : Option Nat) : Nat :=
  match ohm with
  | none => 0
  | some r => if 4500 ≤ r then 0 else if 1100 ≤ r ∧ r ≤ 2460 then 1 else if 400 ≤ r ∧ r ≤ 936 then 2 else if 164 ≤ r ∧ r ≤ 308 then 3 else if 75 ≤ r ∧ r ≤ 140 then 4 else 7

/-- A new cable class takes effect (R306, R307, Table 11.10). (Assumption 92 DEDUCED) -/
def State.takeClass (s : State) (c : Nat) : State :=
  let was := s.getF F.CHG_PP_CLASS
  let a := s.setF F.CHG_PP_CLASS c
  if !s.mainUp then a
  else
    let b := if (c = 0 || c = 7) && a.chgOpen then (((a.event F.CHG_EVT_PLUG).raise Flt.CHG_PLUG_REMOVED {}).chgStop 2) else a
    let d := if c = 0 then { b with chg := { b.chg with faulted := false } } else b
    if was = 0 && c != 0 && decide (1 ≤ d.dstate) then d.raise Flt.CHG_CONNECT_DRIVE {} else d

/-- A proximity sample is counted, and shown while the main die runs (R297). -/
def State.countPp (s : State) (ohm : Option Nat) : State :=
  let c := ppClassOf ohm
  let run := if c = s.pwr.ppCand then s.pwr.ppRun + 1 else 1
  let a := { s with pwr := { s.pwr with ppCand := c, ppRun := min run 3 } }
  if s.mainUp then a.setF F.CHG_PP_PP_OHM (min (ohm.getD 0xFFFF) 0xFFFF) else a

/-- PP_SAMPLE (R297, R47): a class is taken after 3 consecutive samples in its band; the change is the proximity wake. A class that the main die does not show, because it left reset since, is shown with the sample. -/
def execPpSample (t : Nat) (ohm : Option Nat) (s0 : State) : Out :=
  let s := s0.advance t
  if s.power < 2 then .next s
  else
    let b := s.countPp ohm
    let c := ppClassOf ohm
    if 3 ≤ b.pwr.ppRun && c != b.pwr.ppClass then
      .next (((({ b with pwr := { b.pwr with ppClass := c } }).takeClass c).wake 3).showIlim)
    else if 3 ≤ b.pwr.ppRun && b.mainUp && c != b.getF F.CHG_PP_CLASS then .next (b.takeClass c).showIlim
    else .next b

/-- The grid is inside every window of Table 11.8, with the PLL locked and the peak within its bound (R301). -/
def State.gridGood (s : State) (g : GridMeas) : Bool :=
  let vn : Rat := (s.getF F.CHG_CFG_VNOM : Rat)
  decide (vn / 2 ≤ g.halfMin) && decide (vn * s.getF F.CHG_GRIDV_VLO / 100 ≤ g.rmsMin) && decide (g.rmsMax ≤ vn * s.getF F.CHG_GRIDV_VHI / 100)
    && decide ((s.getF F.CHG_GRIDF_FLO : Rat) / 100 ≤ g.freq) && decide (g.freq ≤ (s.getF F.CHG_GRIDF_FHI : Rat) / 100)
    && decide (absRat g.rocof ≤ (s.getF F.CHG_GRIDT_ROCOF : Rat) / 10)

/-- The grid allows a session: inside every window, the PLL locked, the peak below VPFC_REF / 1.1 (R301). (Assumption 205 DEDUCED) -/
def State.gridFit (s : State) (g : GridMeas) : Bool :=
  s.gridGood g && decide (absRat g.phaseErr < 2) && decide (g.peak * 11 / 10 < (s.getF F.CHG_VPFC : Rat))

/-- GRID_QUALIFIED (R301, R303): the grid has been fit for QUAL_MS; a grid that is not fit ends the qualification, and READY with it. (Assumption 205 DEDUCED) -/
def execGridQualified (t : Nat) (g : GridMeas) (s0 : State) : Out :=
  let s := s0.advance t
  if !s.mainUp || !(s.cstate == 1 || s.cstate == 2 || (s.cstate == 4 && !s.chgSwitching)) then .next s
  else if !s.gridFit g then .next (s.setB F.CHG_STAT_QUALIFIED false).chgSettle
  else if s.getF F.CHG_QUAL * ticksPerMs ≤ g.held then .next (s.setB F.CHG_STAT_QUALIFIED true).chgSettle
  else .next s

/-- VPFC_PRECHARGED (R301): above 0.95 × the rectified peak for 100 ms in READY; switching starts with the next CAR3 period. (Assumption 95 DEDUCED) -/
def execVpfcPrecharged (t : Nat) (vpfc peak : Rat) (held : Nat) (s0 : State) : Out :=
  let s := s0.advance t
  if s.mainUp && s.cstate = 2 && s.getB F.CHG_STAT_QUALIFIED && decide (peak * (95 / 100) < vpfc) && decide (100 * ticksPerMs ≤ held) then
    .next (s.setB F.CHG_STAT_PRECHARGED true)
  else .next s

/-- The trip of Table 11.8 that counts, as PAUSE codes it; 0 none. -/
def State.gridTrip (s : State) (g : GridMeas) : Nat :=
  let vn : Rat := (s.getF F.CHG_CFG_VNOM : Rat)
  if g.halfMin < vn / 2 then 2
  else if 10 < absRat g.phaseErr ∧ 2 * ticksPerMs ≤ g.held then 3
  else if (g.rmsMin < vn * s.getF F.CHG_GRIDV_VLO / 100 ∨ vn * s.getF F.CHG_GRIDV_VHI / 100 < g.rmsMax) ∧ s.getF F.CHG_GRIDV_V_DLY * ticksPerMs ≤ g.held then 4
  else if (g.freq < (s.getF F.CHG_GRIDF_FLO : Rat) / 100 ∨ (s.getF F.CHG_GRIDF_FHI : Rat) / 100 < g.freq) ∧ s.getF F.CHG_GRIDT_F_DLY * 10 * ticksPerMs ≤ g.held then 5
  else if (s.getF F.CHG_GRIDT_ROCOF : Rat) / 10 < absRat g.rocof then 6
  else 0

/-- The grid or its bitstream is gone while the charger switches: it stops without a ramp, in CSTATE 4 (R304, R313). A ramp for CHG_SESSION_END or the end of the fallback ends the session there. (Assumption 96 DEDUCED) -/
def State.gridStop (s : State) (cause : Nat) : State :=
  let why := s.chg.zeroFor
  let a := (((s.chgPause cause).chgOff).setB F.CHG_STAT_QUALIFIED false).setB F.CHG_STAT_PRECHARGED false
  if why = 1 then a.chgStop 1 else if why = 3 then a.chgStop 4 else a

/-- CHG_GRID_TRIP (R304). In a pause whose switching has stopped it becomes the cause of the pause, which then ends by way of CSTATE 1 (R303). -/
def execChgGridTrip (t : Nat) (g : GridMeas) (s0 : State) : Out :=
  let s := s0.advance t
  let c := s.gridTrip g
  if !s.mainUp || c = 0 then .next s
  else if s.cstate = 3 || (s.cstate = 4 && s.chgSwitching) then
    .next ((((s.event F.CHG_EVT_GRIDTRIP).bump F.CHG_CNT_GRIDTRIPS).raise Flt.CHG_GRID_TRIP { stages := 0x18, item := c }).gridStop c)
  else if s.cstate = 1 || s.cstate = 2 then .next (((s.setF F.CHG_STAT_CSTATE 1).setB F.CHG_STAT_QUALIFIED false).setB F.CHG_STAT_PRECHARGED false)
  else if s.cstate = 4 && s.getF F.CHG_STAT_PAUSE = 1 then .next (((s.setF F.CHG_STAT_PAUSE c).setB F.CHG_STAT_QUALIFIED false).setB F.CHG_STAT_PRECHARGED false)
  else .next s

/-- GRID_RECONNECT (R304): the grid has stayed within all windows for RECONNECT_S. -/
def execGridReconnect (t : Nat) (g : GridMeas) (s0 : State) : Out :=
  let s := s0.advance t
  if s.mainUp && s.cstate = 4 && decide (2 ≤ s.getF F.CHG_STAT_PAUSE) && !s.chgSwitching && s.gridGood g && decide (s.getF F.CHG_GRIDT_RECONNECT_S * ticksPerS ≤ g.held) then
    .next ((s.setF F.CHG_STAT_CSTATE 1).setF F.CHG_STAT_PAUSE 0)
  else .next s

/-- POWER_RAMP_END (R300, R306, R309): a ramp to zero is over, and what it was for follows. -/
def execPowerRampEnd (t : Nat) (s0 : State) : Out :=
  let s := s0.advance t
  if !s.mainUp || s.chg.zeroFor = 0 || s.rampPower != 0 then .next s else .next s.zeroReached

/-- The fallback of R308 begins: an export target goes to 0 and IAC_EFF falls. -/
def State.goHostless (s : State) : State :=
  let a := ((s.setB F.CHG_STAT_FALLBACK true).event F.CHG_EVT_HOSTLESS).raise Flt.CHG_HOSTLESS {}
  let b := { a with chg := { a.chg with fallbackAt := a.now } }
  (if b.getQ F.CHG_TARGET < 0 then b.setFl F.CHG_TARGET 0 else b).showIlim

/-- CHG_HOSTLESS (R308): no heartbeat contact for 2 s in CSTATE 1 to 4. -/
def execChgHostless (t : Nat) (s0 : State) : Out :=
  let s := s0.advance t
  if s.mainUp && s.cstate != 0 && !s.getB F.CHG_STAT_FALLBACK && s.elapsed s.com.lastHeartbeat (2 * ticksPerS) then .next s.goHostless else .next s

/-- The fallback applies to the session, or applied when another event of this slot stopped it. -/
def State.inFallback (s : State) : Bool := if s.cstate = 0 then s.stopHere && s.chg.fellBack else s.getB F.CHG_STAT_FALLBACK

/-- CHG_HOSTLESS_STOP (R309, Table 11.9): 60 s after entry into the fallback. -/
def execChgHostlessStop (t : Nat) (s0 : State) : Out :=
  let s := s0.advance t
  if s.mainUp && s.inFallback && s.chg.zeroFor != 3 && s.elapsed s.chg.fallbackAt (60 * ticksPerS) then
    let a := (if s.cstate = 0 then { s with chg := { s.chg with fellBack := false } } else s).raise Flt.CHG_HOSTLESS_STOP {}
    if a.chgSwitching && a.rampPower != 0 then .next (a.rampZero (a.getQ F.CHG_RAMP) 3) else .next (a.chgStop 4)
  else .next s

/-- Heartbeat contact ends the fallback within its 60 s: the last CHG_SET applies again (R309). -/
def State.endFallback (s : State) : State :=
  if s.getB F.CHG_STAT_FALLBACK && s.chg.zeroFor != 3 && !s.elapsed s.chg.fallbackAt (60 * ticksPerS) then
    ((s.setB F.CHG_STAT_FALLBACK false).setFl F.CHG_TARGET s.chg.setTarget).showIlim
  else s

/-- HEARTBEAT (R97, R98, R309). -/
def execHeartbeat (r : Req) (s : State) : Out :=
  serveOp { code := 0x0005, lens := [4] } r (fun _ s =>
    okWith (beBytes 1 s.power ++ beBytes 1 s.topClass ++ beBytes 2 (s.getF F.SLT_LOGIDX_NEWEST) ++ beBytes 4 s.eaveSeconds ++ r.params)
      ({ s with com := { s.com with lastHeartbeat := s.now } }).endFallback) s

/-- VBAT lies outside its window by more than 2 % (Table 11.11). -/
def State.vbatOut (s : State) (vbat : Rat) : Bool :=
  decide (vbat < (s.getF F.CHG_VBAT_VBAT_MIN : Rat) * (98 / 100)) || decide ((s.getF F.CHG_VBAT_VBAT_MAX : Rat) * (102 / 100) < vbat)

/-- CHG_VBAT_WINDOW (Table 11.11): VBAT outside its window by more than 2 % for 100 ms in CSTATE 3. -/
def execChgVbatWindow (t : Nat) (vbat : Rat) (held : Nat) (s0 : State) : Out :=
  let s := s0.advance t
  if s.mainUp && (s.cstate = 3 || (s.cstate = 0 && s.chgOpen)) && s.vbatOut vbat && decide (100 * ticksPerMs ≤ held) then
    .next ((s.raise Flt.CHG_VBAT_WINDOW { stages := 0x18 }).chgStop 5)
  else .next s

/-- A channel's bitstream is flat: its words are invalid until 3 FAST outputs after the run (R187). (Assumption 70 DEDUCED, 96 DEDUCED) -/
def State.xbFlat (s : State) (ch bit : Nat) : State :=
  ((s.setGzCh ch { s.gzCh ch with flat := true, flatLeft := 3 }).eventBit F.GZ_FLT_XB_FLAT bit).raise Flt.GZ_XB_FLAT { item := ch }

/-- GZ_XB_FLAT (R187, R313): 256 identical bits; the channel is invalid, and a charger input stops a switching session. -/
def execGzXbFlat (t : Nat) (n : Fin 8) (run : Nat) (s0 : State) : Out :=
  let s := s0.advance t
  let ch := 64 + n.val
  if !s.mainUp || run < 256 then .next s
  else if (s.gzCh ch).flat then .next (s.setGzCh ch { s.gzCh ch with flatLeft := 3 })
  else
    let a := s.xbFlat ch n
    if n.val < 6 && a.cstate = 3 then .next ((a.raise Flt.CHG_XB_LOST { stages := 0x18, item := ch }).gridStop 2) else .next a

/-- The grid power of one FINE output instant (R311). -/
def State.gridPower (s : State) : Rat :=
  (s.usedPhases.map fun k => (s.fineValue (64 + k) : Rat) * s.getQ F.CHG_XBVSCALE * ((s.fineValue (67 + k) : Rat) * s.getQ F.CHG_XBISCALE)).sum

/-- The grid power is shown as its mean over the last 1 s, and so is its sign (R310, Table 11.12). With no power computed in that second the last mean stays. -/
def State.showMean (s : State) : State :=
  let l := s.chg.recent.filter fun x => decide (s.now < x.1 + ticksPerS)
  let a := { s with chg := { s.chg with recent := l } }
  if l.isEmpty then a
  else
    let m := (l.map fun x => x.2).sum / (l.length : Rat)
    (a.setQ F.CHG_PGRID m).setB F.CHG_STAT_EXPORT (decide (m < 0))

/-- A grid power just computed joins the mean. -/
def State.meanPower (s : State) (p : Rat) : State := { s with chg := { s.chg with pNow := p, recent := (s.now, p) :: s.chg.recent } }.showMean

/-- GRID_ENERGY_INTEGRATION (R311): once per FINE output instant of GZ64 to GZ69, when the last of the six has come. (Assumption 94 DEDUCED) -/
def State.integrateGrid (s : State) (n : Nat) : State :=
  let at_ := (s.gzCh n).fineTime
  if !(decide (64 ≤ n) && decide (n ≤ 69)) || !([64, 65, 66, 67, 68, 69].all fun k => (s.gzCh k).fineTime == at_) || s.chg.fineAt = at_ then s
  else
    let a := { s with chg := { s.chg with fineAt := at_ } }
    if [64, 65, 66, 67, 68, 69].any fun k => (a.gzCh k).fineFlags % 4 != 1 then
      let b := (a.bump F.CHG_GAPS).event F.CHG_EVT_METERGAP
      { b with wit := { b.wit with fineMissed := true } }.showMean
    else
      let p := a.gridPower
      let e := p * (655360 : Rat) * 1000 / ((ticksPerS : Rat) * 3600)
      let b := if 0 ≤ p then { a with chg := { a.chg with imp := a.chg.imp + e } } else { a with chg := { a.chg with exp := a.chg.exp - e } }
      b.meanPower p

/-- The Ridge's control-side sums after a witness frame: the increments, and whether they are good (R446). -/
def State.witnessTaken (s : State) (di de : Nat) (bad : Bool) : State :=
  s.setR { s.rdg with ctlImp := s.rdg.ctlImp + di, ctlExp := s.rdg.ctlExp + de, ctlFrames := s.rdg.ctlFrames + 1, ctlBad := s.rdg.ctlBad || bad }

/-- WITNESS_ENERGY (R312, R434, R446): every 1 s the increments go to the Ridge, with their validity. -/
def execWitnessEnergy (t : Nat) (intact : Bool) (s0 : State) : Out :=
  let s := s0.advance t
  if !s.witnessDue 2 then .next s
  else
    let i := floorNat s.chg.imp
    let e := floorNat s.chg.exp
    .next (witnessFrame 2 (beBytes 4 (i - s.wit.impSent) ++ beBytes 4 (e - s.wit.expSent) ++ beBytes 1 (if s.wit.fineMissed then 0 else 1)) intact (fun gap u => u.witnessTaken (i - s.wit.impSent) (e - s.wit.expSent) (gap || s.wit.fineMissed))
      { s with wit := { s.wit with impSent := i, expSent := e, fineMissed := false } })

/-- The phase-to-neutral voltages and the phase currents that an engine's program reads of the used phases (R293, R311). -/
def State.gridVolts (s : State) (e : Nat) : List Rat := s.usedPhases.map fun k => (s.readValue e (64 + k) : Rat) * s.getQ F.CHG_XBVSCALE
def State.gridAmps (s : State) (e : Nat) : List Rat := s.usedPhases.map fun k => (s.readValue e (67 + k) : Rat) * s.getQ F.CHG_XBISCALE

/-- √2 as the programs carry it. (Assumption 191 DESIGN CHOICE) -/
def root2 : Rat := 1414213562 / 1000000000

/-- LE7 holds VPFC: the amplitude of the current references, within IAC_EFF (R293, R302). (Assumption 198 DESIGN CHOICE, 203 DEDUCED) -/
def State.holdVpfc (s : State) : State :=
  let (u, a) := s.bankPi 7 0 (F32.ofRat ((s.getF F.CHG_VPFC : Rat) - s.chg.vpfc))
  let top := s.iacEff * root2
  { a with chg := { a.chg with amp := clampRat (-top) top (F32.toRat u) } }

/-- LE7 measures the phase voltages: their RMS over each grid cycle of the PLL (R302). -/
def State.measureVolts (s : State) (wrapped : Bool) : State :=
  let c := s.chg
  let vs := (s.usedPhases.zip (s.gridVolts 7)).foldl (fun (x : Vector Rat 3) y => vset x y.1 (vget x y.1 0 + y.2 * y.2)) c.vSq
  let n := c.vSqN + 1
  if wrapped then { s with chg := { c with vSq := Vector.replicate 3 0, vSqN := 0, vRms := Vector.ofFn fun k => sqrtMicro (vget vs k 0 / (n : Rat)) } }
  else { s with chg := { c with vSq := vs, vSqN := n } }

/-- One slot of LE7: the PLL and its frequency, the grid power against its target, VPFC, and IAC_EFF (R293, R302). (Assumption 202 DEDUCED) -/
def State.slotLE7 (s : State) (m : SlotMeas) : State :=
  let r := Config.pllStep s.chg.theta s.chg.omega (s.gridVolts 7) (s.leSeconds 7)
  let a := { s with chg := { s.chg with theta := fracTurn r.1, omega := r.2, thetaAt := (s.eng 7).pacingAt, vpfc := m.vpfc, gap := s.rampPower - s.chg.pNow } }.setQ F.CHG_FGRID r.2
  let b := a.measureVolts (decide (fracTurn r.1 < s.chg.theta))
  (if b.switching 3 then b.holdVpfc else b).showIlim

/-- The grid angle of a phase at the pacing instant of an engine, as the PLL carries it on. -/
def State.gridAngle (s : State) (e k : Nat) : Rat :=
  s.chg.theta + s.chg.omega * ((((s.eng e).pacingAt : Int) - (s.chg.thetaAt : Int) : Int) / (ticksPerS : Rat)) - mkRat k 3

/-- The voltage of a phase of the front end: the grid's as feedforward less the regulation of its current to the reference in phase with it (R293). (Assumption 198 DESIGN CHOICE, 203 DEDUCED) -/
def State.phaseVolt (s : State) (k : Nat) (u i : Rat) : Rat × State :=
  let ref := s.chg.amp * Config.sinTurn (turnWord (s.gridAngle 6 k))
  let (c, a) := s.bankPi 6 k (F32.ofRat (ref - i))
  (u - F32.toRat c, a)

/-- The compares of a leg that is on from the period start for a part of the period (Table 6.4). -/
def State.frontLeg (s : State) (i : Nat) (part : Rat) : State :=
  match s.hbOfCode (0x30 + i) with
  | some h =>
    let p := s.carEff 3
    let off := if 1 ≤ part then 0xFFFFFF else (maxRat 0 part * (p : Rat)).floor.toNat
    (s.stage 6 (2 * h) false 0).stage 6 (2 * h) true (BitVec.ofNat 32 off)
  | none => s

/-- One slot of LE6 (R293, R294): three phases about half of VPFC, or the totem pole of a single phase, whose second leg follows the sign of the grid voltage. (Assumption 203 DEDUCED) -/
def State.slotLE6 (s : State) : State :=
  if !s.switching 3 || s.chg.vpfc ≤ 0 then s
  else
    let us := s.gridVolts 6
    let (vs, a) := (us.zip (s.gridAmps 6)).foldl (fun (acc : List Rat × State) x =>
      let (v, y) := acc.2.phaseVolt acc.1.length x.1 x.2
      (acc.1 ++ [v / s.chg.vpfc], y)) ([], s)
    match vs with
    | [v] => if 0 ≤ us.headD 0 then (a.frontLeg 0 v).frontLeg 1 0 else (a.frontLeg 0 (v + 1)).frontLeg 1 1
    | _ => (List.range vs.length).foldl (fun (x : State) i => x.frontLeg i (vs.getD i 0 + 1 / 2)) a

/-- MODE of the DAB's half-bridges; the power then follows its target (R301). (Assumption 95 DEDUCED) -/
def State.dabStart (s : State) : State :=
  let a := (s.hbsOf 4).foldl (fun (x : State) h => if x.latched h then x else x.setMode h 1) s
  let b := { a with chg := { a.chg with shift := 0, rampFrom := 0, rampTo := 0, rampAt := a.now } }
  b.showModes.followTarget

/-- The DAB power: the target corrected by what the grid power lacks, within the battery's current limit, VBAT_MAX when charging and VBAT_MIN when exporting; an IBAT measured above its limit takes the power back in proportion (R293). (Assumption 198 DESIGN CHOICE, 204 DESIGN CHOICE) -/
def State.dabPower (s : State) : Rat × State :=
  let lim := s.chg.battLimit
  let (ic, a) := s.progPi 8 0 (F32.ofRat ((s.getF F.CHG_VBAT_VBAT_MAX : Rat) - s.chg.vbat)) 0 lim true
  let (ie, b) := a.progPi 8 1 (F32.ofRat (s.chg.vbat - (s.getF F.CHG_VBAT_VBAT_MIN : Rat))) 0 lim true
  let p := clampRat (-(F32.toRat ie * s.chg.vbat)) (F32.toRat ic * s.chg.vbat) (s.rampPower + s.chg.gap)
  let i := absRat (Config.battAmps (s.readValue 8 59))
  (if F32.toRat lim < i then p * F32.toRat lim / i else p, b)

/-- The compares of a DAB half-bridge. -/
def State.dabWords (s : State) (code : Nat) (on off : Word) : State :=
  match s.hbOfCode code with
  | some h => (s.stage 8 (2 * h) false on).stage 8 (2 * h) true off
  | none => s

/-- The phase shift of the secondary for a power: its sign is the direction of flow, positive towards the battery (R293). (Assumption 204 DESIGN CHOICE) -/
def State.dabShift (s : State) (p : Rat) : Rat :=
  let m := absRat (Config.dabShift (absRat p) s.chg.vpfc s.chg.vbat)
  if p < 0 then -m else if p = 0 then 0 else m

/-- Both bridges of the DAB run at 50 % duty: the half-bridges of the primary in opposition, those of the secondary where the shift puts them (R293). (Assumption 204 DESIGN CHOICE) -/
def State.dabRun (s : State) : State :=
  let (p, a) := s.dabPower
  let sh := s.dabShift p
  let n := s.carEff 4
  let half := fun (x : State) (code on : Nat) => x.dabWords code (BitVec.ofNat 32 on) (BitVec.ofNat 32 (on + n / 2))
  let lead := fun (hb : Nat) => Config.dabLead hb sh n % max 1 (n / 2)
  let b := { a with chg := { a.chg with shift := sh } }
  half (half (half (half b 0x40 0) 0x41 (n - 1 - n / 2)) 0x42 (lead 0)) 0x43 (lead 1)

/-- One slot of LE8: VBAT and VPFC as it derives them; the DAB starts within 2 % of VPFC_REF, and runs (R293, R301). (Assumption 95 DEDUCED, 202 DEDUCED) -/
def State.slotLE8 (s : State) (m : SlotMeas) : State :=
  let a := { s with chg := { s.chg with vbat := m.vbat, vpfc := m.vpfc } }
  let ref : Rat := (a.getF F.CHG_VPFC : Rat)
  if a.switching 4 then a.dabRun
  else if a.cstate = 3 && a.switching 3 && decide (absRat (m.vpfc - ref) ≤ ref / 50) then a.dabStart.dabRun
  else a

end Sys2Proof.Machine
end

