-- ==== Sys2Proof/Machine/AuxConverter.lean ====
section
/-! DEFINITION. The auxiliary 24 V converter: commands, soft start, regulation, shedding, burst, braking, phase availability and reverse precharge (R315 to R345). -/

namespace Sys2Proof.Machine

open Sys2Proof

/-- ASTATE (Table 12.8): 0 OFF, 1 DCX_START, 2 BUCK_START, 3 RUN, 4 BURST, 5 BRAKE, 6 PRE_LINK, 7 PRE_RAISE, 8 PRE_DONE. -/
def State.astate (s : State) : Nat := s.getF F.AUX_STAT_ASTATE

/-- The converter runs forward. -/
def State.auxForward (s : State) : Bool := decide (1 ≤ s.astate) && decide (s.astate ≤ 5)

/-- The converter runs in reverse. -/
def State.auxReverse (s : State) : Bool := decide (6 ≤ s.astate)

/-- LE2 writes MODE to phases: it takes effect at the next period start of each (R326 to R331). (Assumption 206 DEDUCED) -/
def State.phasesTo (s : State) (mask mode : Nat) : State :=
  ((bitsList 8 mask).foldl (fun (x : State) k => match x.phaseHb k with
    | some h => if mode != 0 && x.latched h then x else x.setMode h mode
    | none => x) s).showModes

/-- A phase stops at once (R336). -/
def State.phaseCut (s : State) (k : Nat) : State :=
  match s.phaseHb k with
  | some h => (s.forceOff h).gatesOff h
  | none => s

/-- PHASE of the follower carriers for the phases available, slot j at j × 2^24 / n (R323). (Assumption 100 DESIGN CHOICE) -/
def State.reslot (s : State) : State :=
  let l := bitsList 8 s.availPhases
  let n := max 1 l.length
  (List.range l.length).foldl (fun (x : State) j =>
    match x.phaseHb (l.getD j 0) with
    | some h =>
      let c := x.hbCar h
      if x.carRef c = c then x else (x.setF (F.PWM_CAR_PHASE c) (j * 2 ^ 24 / n)).setF (F.PWM_CAR_CTRL_PHMODE c) 1
    | none => x) s

/-- The buck runs: from its start forward, and in reverse once its phases switch. -/
def State.buckRuns (s : State) : Bool := !s.aux.stopping && ((decide (2 ≤ s.astate) && decide (s.astate ≤ 5)) || (decide (6 ≤ s.astate) && s.activePhases != 0))

/-- Too few phases while the buck runs: AUX_BELOW_MIN (R339). -/
def State.belowMin (s : State) : State :=
  if s.nAvail < 3 && s.buckRuns then s.raise Flt.AUX_BELOW_MIN { stages := 0x60 } else s

/-- Phases active at a shed level: floor(i × n / m + r) mod n for the level's m; a phase on its way to retirement leaves all the same (R326, R338, Table 12.2). -/
def State.levelPhases (s : State) (lvl : Nat) : Nat :=
  let l := bitsList 8 s.availPhases
  let n := l.length
  let m := if lvl = 0 then n else if lvl = 1 then (n + 1) / 2 else (n + 3) / 4
  maskOf (((List.range m).map fun i => l.getD ((i * n / m + s.aux.rot) % n) 0).filter fun k => !bitAt s.aux.retiring k)

/-- The trims as a vector. -/
def State.trims (s : State) : Vector Rat 8 := Vector.ofFn fun k => s.getQ (F.AUX_TRIM k.val)

/-- The phases that leave are given: a shedding transition begins for each one that does not leave already (R327). -/
def State.beginShed (s : State) (leave lvl : Nat) : State :=
  let x := s.aux
  let new := fun (k : Nat) => bitAt leave k && !bitAt x.outgoing k
  ({ s with aux := { x with outgoing := leave, shedTo := lvl, shedAt := Vector.ofFn fun k => if new k then s.now else vget x.shedAt k 0,
                            trim0 := Vector.ofFn fun k => if new k then vget s.trims k 0 else vget x.trim0 k 0 } }).setB F.AUX_STAT_SHEDDING true

/-- No phase leaves any more: the level that the transitions led to is reached (R327). -/
def State.shedDone (s : State) : State :=
  if s.aux.outgoing = 0 && s.getB F.AUX_STAT_SHEDDING then (s.setB F.AUX_STAT_SHEDDING false).setF F.AUX_STAT_LEVEL s.aux.shedTo else s

/-- The buck moves to the phases of a level: those that join start, those that leave go through a transition (R326, R327). -/
def State.toLevel (s : State) (lvl : Nat) : State :=
  let want := s.levelPhases lvl
  let leave := maskOf ((bitsList 8 s.activePhases).filter fun k => !bitAt want k)
  let a := s.phasesTo want 1
  if leave = 0 then ({ a with aux := { a.aux with outgoing := 0, shedTo := lvl } }.setB F.AUX_STAT_SHEDDING false).setF F.AUX_STAT_LEVEL lvl
  else a.beginShed leave lvl

/-- The phases that switch become those of the present level, or of the one a transition leads to, where the buck switches (R326). -/
def State.relevel (s : State) : State :=
  if !s.aux.stopping && (s.astate == 2 || s.astate == 3 || (s.astate == 4 && !s.aux.burstIdle)) then
    s.toLevel (if s.aux.outgoing = 0 then s.getF F.AUX_STAT_LEVEL else s.aux.shedTo)
  else s

/-- A phase that may switch no longer, not even to leave through a transition (R336). -/
def State.phaseGone (s : State) (k : Nat) : Bool :=
  !s.bit F.AUX_CFG_PRESENT k || bitAt s.aux.opened k || bitAt s.aux.hot k || s.phaseHeld k

/-- Availability is worked out anew: AUX_PHSTAT and AVAIL, DROP for a phase that has become unavailable. One that switched stops at once, unless it is masked or retires and leaves through a transition; slots and the phases of the level follow a changed n, but nothing changes at the gates where an inactive phase is lost (R323, R326, R336, Table 12.3). (Assumption 98 DEDUCED) -/
def State.refreshAvail (s : State) : State :=
  let a := s.showPhases
  let lost := (bitsList 8 s.availPhases).filter fun k => !bitAt a.availPhases k
  let new := (bitsList 8 a.availPhases).filter fun k => !bitAt s.availPhases k
  let cut := (bitsList 8 a.activePhases).filter fun k => a.phaseGone k
  let b := cut.foldl (fun x k => x.phaseCut k) { a with aux := { a.aux with outgoing := maskOf ((bitsList 8 a.aux.outgoing).filter fun k => !cut.contains k) } }
  let c := if lost.isEmpty then b.shedDone else b.shedDone.event F.AUX_EVT_DROP
  let d := if c.nAvail = s.nAvail then c else c.reslot
  let e := if (cut.isEmpty || d.aux.outgoing != 0) && new.isEmpty then d else d.relevel
  if lost.isEmpty then e.showModes else e.showModes.belowMin

/-- The shed level, burst counting as 3. -/
def State.auxLevel (s : State) : Nat := if s.astate = 4 then 3 else s.getF F.AUX_STAT_LEVEL

/-- The entry threshold of a level in A: SHED1, SHED2, BURST_I. -/
def State.shedThr (s : State) (lvl : Nat) : Rat :=
  (([0, s.getF F.AUX_SHED_SHED1, s.getF F.AUX_SHED_SHED2, s.getF F.AUX_SHEDT_BURST_I].getD lvl 0 : Nat) : Rat)

/-- A mask is taken: newly masked phases leave through a transition, newly permitted ones of a running buck wait for the next CAR6 period start (R340). (Assumption 98 DEDUCED) -/
def State.takeMask (s : State) (m : Nat) : State :=
  let new := maskOf ((bitsList 8 m).filter fun k => !s.bit F.AUX_CFG_MASK k)
  let runs := s.astate != 0 && !s.aux.stopping
  let leave := Nat.land s.activePhases (255 - m % 256)
  let a := { s.setF F.AUX_CFG_MASK m with aux := { s.aux with maskNext := none, permit := if runs then Nat.lor (Nat.land s.aux.permit m) new else 0, permitAt := s.now } }
  if leave = 0 then a.refreshAvail else (a.beginShed leave (s.getF F.AUX_STAT_LEVEL)).refreshAvail

/-- Newly permitted phases become available with the period of CAR6 that a slot of LE2 belongs to (R340). (Assumption 206 DEDUCED) -/
def State.takePermit (s : State) : State :=
  if s.aux.permit = 0 ∨ (s.eng 2).pacingAt < s.aux.permitAt then s
  else { s with aux := { s.aux with permit := 0 } }.refreshAvail

/-- A mask waits: braking, burst or a transition runs (Table 12.3). -/
def State.maskWaits (s : State) : Bool := !s.aux.stopping && (s.astate == 4 || s.astate == 5 || s.aux.outgoing != 0)

/-- What the end of braking, burst or a transition lets happen. (Assumption 98 DEDUCED) -/
def State.auxSettle (s : State) : State :=
  match s.aux.maskNext with
  | some m => if s.maskWaits then s else s.takeMask m
  | none => s

/-- A buck phase is retired: an active one leaves through a transition (R338); while the Slate holds the stage the retirement is recorded and applies at its next start (R391). -/
def State.retirePhase (s : State) (k : Nat) : State :=
  let m := if s.held 6 then { s.thm with buckDue := setBitN s.thm.buckDue k true } else { s.thm with buckRetired := setBitN s.thm.buckRetired k true }
  let a := (({ s with thm := m }).queueRetire (16 + k)).event F.AUX_EVT_RETIRE
  let b := a.raise Flt.AUX_PHASE_RETIRED { stages := 0x40, item := k }
  if s.held 6 then b
  else if bitAt b.activePhases k then
    let c := { b with aux := { b.aux with retiring := setBitN b.aux.retiring k true } }
    c.beginShed (Nat.lor b.aux.outgoing (2 ^ k)) (if b.aux.outgoing = 0 then c.getF F.AUX_STAT_LEVEL else b.aux.shedTo)
  else b.refreshAvail

/-- Phases retired while the stage was held leave with its next start (R391). -/
def State.takeDue (s : State) : State := { s with thm := { s.thm with buckRetired := Nat.lor s.thm.buckRetired s.thm.buckDue, buckDue := 0 } }

/-- The regulated voltage v: at the load while the remote sense is sound (R320). -/
def State.auxV (s : State) : Rat := if s.getB F.AUX_STAT_REMOTE_OK then s.vout + s.fastQ 14 F.AUX_VOSSCALE else s.vout

/-- ILIM_EFF (R325, Table 14.1). -/
def State.ilimEff (s : State) : Rat :=
  let ilim := s.getQ F.AUX_ILIM
  let imax := s.getQ F.AUX_IPH_MAX
  let share := ((bitsList 8 s.availPhases).map fun k => vget s.thm.kp k 1 * imax).sum
  minRat (minRat ilim ((s.nAvail : Rat) * imax)) (minRat (vget s.thm.k 5 1 * ilim) share)

/-- Every phase current is below 5 % of IPH_MAX. -/
def State.phasesQuiet (s : State) : Bool := (List.range 8).all fun k => decide (absRat (s.iph k) < s.getQ F.AUX_IPH_MAX / 20)

/-- The converter begins to stop, with what the modes then show (R342). (Assumption 103 DEDUCED) -/
def State.auxStop (s : State) : State := s.auxHalt.showModes

/-- AUX_STOP_COMPLETE (R342): the phase currents have decayed, or 1 ms has passed; LE9 writes MODE 0 to the DCX, which acts with the end of its running period. -/
def execAuxStopComplete (t : Nat) (s0 : State) : Out :=
  let s := s0.advance t
  .next (if s.mainUp && s.aux.stopping && (s.phasesQuiet || s.elapsed s.aux.stopAt ticksPerMs) then
    ((s.hbsOf 5).foldl (fun (x : State) h => x.setMode h 0) s).auxDone.showModes else s)

/-- The stage map carries a whole DCX and a whole buck (R127). (Assumption 103 DEDUCED) -/
def State.auxComplete (s : State) : Bool :=
  ([0x50, 0x51, 0x52, 0x53].all fun c => (s.hbOfCode c).isSome) && (List.range 8).all fun k => (s.phaseHb k).isSome

/-- The conditions of R315. -/
def State.auxUnfit (s : State) : Bool :=
  let p := s.getF F.AUX_PMIN
  let e := s.carEff 5
  !s.auxComplete || decide (p < 16768) || ((s.hbsOf 6).any fun h => decide (p < s.fswPeriod h)) || decide (e < 21334) || decide (32000 < e)

/-- VDC within 544 V to 992 V (R318). -/
def State.vdcInside (s : State) : Bool := decide (544 ≤ s.vdc) && decide (s.vdc ≤ 992)

/-- Latches of class C that have cleared no longer keep their phases (Table 12.4 code 6). -/
def State.phaseUnlatch (s : State) : State :=
  { s with aux := { s.aux with latched := maskOf ((bitsList 8 s.aux.latched).filter fun k => match s.phaseHb k with
      | some h => s.latched h
      | none => false) } }

/-- The scales AUX_ENABLE asks for are positive and finite (Table 12.5). -/
def State.auxScaled (s : State) : Bool :=
  [F.AUX_VSCALE, F.AUX_VOSSCALE, F.AUX_IOSCALE, F.AUX_IPSCALE, F.AUX_IDSCALE].all fun f => posFinite (s.getFl f)

/-- The carriers of half-bridges run, their references first. -/
def State.runCars (s : State) (hs : List Nat) : State :=
  let cars := (hs.map fun h => s.hbCar h).eraseDups
  let refs := (cars.map fun c => s.carRef c).eraseDups
  (refs ++ cars.filter fun c => !refs.contains c).foldl (fun x c => x.carrierRun c) s

/-- The half-bridge words that LE9 stages: ON and OFF of a primary or rectifier half-bridge (R316). -/
def State.dcxWord (s : State) (code on off : Nat) : State :=
  match s.hbOfCode code with
  | some h => (s.stage 9 (2 * h) false (BitVec.ofNat 32 on)).stage 9 (2 * h) true (BitVec.ofNat 32 off)
  | none => s

/-- The same words written at once, outside a slot. -/
def State.dcxPut (s : State) (code on off : Nat) : State :=
  match s.hbOfCode code with
  | some h => (s.compare 9 (2 * h) false on).compare 9 (2 * h) true off
  | none => s

/-- tMINP_eff of a DCX half-bridge. -/
def State.dcxLeast (s : State) (code : Nat) : Nat := match s.hbOfCode code with
  | some h => s.tminpEff h
  | none => 0

/-- MODE of a DCX half-bridge. -/
def State.dcxMode (s : State) (code mode : Nat) : State :=
  match s.hbOfCode code with
  | some h => if mode != 0 && s.latched h then s else s.setMode h mode
  | none => s

/-- The compares of the soft start for a primary pulse width (R317). -/
def State.softWords (s : State) (w : Nat) : State :=
  let p := s.carEff 5
  (s.dcxPut 0x50 0 w).dcxPut 0x51 (p / 2) (p / 2 + w)

/-- AUX_ENABLE at work: forward, the DCX soft start begins on CAR5 (R317); in reverse the carriers of both stages run, and nothing switches yet (R343). (Assumption 64 DEDUCED) -/
def State.auxStart (s : State) (reverse : Bool) : State :=
  let a := ({ s with aux := { s.aux with startAt := s.now, v48Since := none, rot := 0, outgoing := 0, retiring := 0, burstIdle := false, preAt := none, stopping := false, openRun := Vector.replicate 8 0, iph := Vector.replicate 8 [] } }).phaseUnlatch.takeDue
  let b := ((a.setB F.AUX_STAT_REMOTE_OK (a.getB F.AUX_CFG_REMOTE_EN)).setB F.AUX_STAT_REGULATED false).setF F.AUX_STAT_LEVEL 0
  let c := ({ b with aux := { b.aux with permit := 0, preW := 0, v48Ref := 0, legs := none } }.setF F.AUX_STAT_ASTATE (if reverse then 6 else 1)).refreshAvail
  if reverse then (c.runCars (c.hbsOf 5 ++ c.hbsOf 6)).showModes
  else
    let d := (c.runCars (c.hbsOf 5)).softWords (c.dcxLeast 0x50)
    ((((d.dcxMode 0x50 1).dcxMode 0x51 1).dcxMode 0x52 0).dcxMode 0x53 0).showModes

/-- The conditions of both directions under which AUX_ENABLE is answered STATE_REFUSED (Table 12.5). -/
def State.enableRefused (s : State) : Bool :=
  let a := s.phaseUnlatch.takeDue
  let avail := below 8 fun k => a.phaseReason k == 0
  !(s.power == pARMED || s.power == pRUN) || s.astate != 0 || s.auxUnfit || decide (avail.length < 3) || !s.auxScaled || s.thm.dcxRetired

/-- The further conditions of a start in reverse (R343, Table 12.5). -/
def State.reverseRefused (s : State) : Bool :=
  !s.getB F.AUX_CFG_REVERSE_EN || decide (s.vout < 20) || decide (32 < s.vout) || s.switching 0 || s.switching 1 || s.chgSwitching

/-- AUX_ENABLE (R315, R339, R340, R388). -/
def execAuxEnable (r : Req) (s : State) : Out :=
  serveOp { code := 0x0500, lens := [1] } r (fun _ s =>
    let d := r.num 0 1
    if 1 < d then refuse stBadParam s
    else if s.held 5 || s.held 6 then refuse stSafeHeld s
    else if s.enableRefused then refuse stStateRefused s
    else if d = 0 then (if s.vdcInside then okWith [] (s.auxStart false) else refuse stStateRefused s)
    else if s.reverseRefused then refuse stStateRefused s
    else okWith [] (s.auxStart true)) s

/-- A write of an AUX_ field: kept back by the session's hold, or waiting for the next master period start, or applied at once while CAR6 stands (R116, R117, R340). -/
def State.auxLater (s : State) (held : Bool) (f : Fld) (v : Nat) : State :=
  let w : PendWrite := { addr := f.addr, mask := 0xFFFFFFFF, value := v, held := held, armed := false }
  let later := { s with shadow := s.shadow ++ [w] }
  if held then later.setF F.SYS_APPLY_HELD later.heldWrites
  else if (s.hbsOf 6).any fun h => (s.car (s.carRef (s.hbCar h))).running then later
  else later.applyPart f.addr 0xFFFFFFFF

/-- A float lies in a closed range. -/
def inRange (x : F32) (lo hi : Rat) : Bool := F32.isFinite x && decide (lo ≤ F32.toRat x) && decide (F32.toRat x ≤ hi)

/-- AUX_SET (R340, R343). Its two field writes belong to the hold of its session where one is open: BUSY where they would exceed the 64 writes held (R117). (Assumption 98 DEDUCED) -/
def execAuxSet (r : Req) (s : State) : Out :=
  serveOp { code := 0x0501, lens := [8] } r (fun _ s =>
    let v := r.fl 0
    let i := r.fl 4
    let held := s.holdOf r.session
    let full := held && decide (64 < s.heldWrites + 2)
    if s.auxReverse then
      if !(inRange v 100 992 || F32.isZero v) || !inRange i 0 100 then refuse stBadParam s
      else if full then refuse stBusy s
      else
        let a := { s with aux := { s.aux with preAt := some (s.aux.preAt.getD s.now) } }
        okWith [] ((a.auxLater held F.AUX_PRE_VDC v.toNat).auxLater held F.AUX_PRE_ILIM i.toNat)
    else if !inRange v 24 30 || !inRange i 0 357 then refuse stBadParam s
    else if full then refuse stBusy s
    else okWith [] ((s.auxLater held F.AUX_VSET v.toNat).auxLater held F.AUX_ILIM i.toNat)) s

/-- AUX_DISABLE (R342): the reply is sent when ASTATE is 0. -/
def execAuxDisable (r : Req) (s : State) : Out :=
  serveOp { code := 0x0502 } r (fun t s =>
    if s.astate = 0 then okWith [] s
    else
      let a := s.auxStop
      .later { a with aux := { a.aux with tickets := a.aux.tickets ++ [t] } }) s

/-- A mask is taken, or kept back while braking, burst or a transition runs (Table 12.3). -/
def State.setMask (s : State) (m : Nat) : State :=
  if s.maskWaits then { s with aux := { s.aux with maskNext := some m } } else s.takeMask m

/-- AUX_PHASE_MASK (R336, R340, Table 12.3). -/
def execAuxPhaseMask (r : Req) (s : State) : Out :=
  serveOp { code := 0x0503, level := 2, lens := [1] } r (fun _ s =>
    let m := r.num 0 1
    if (bitsList 8 (Nat.land m (s.getF F.AUX_CFG_PRESENT))).length < 3 then refuse stBadParam s
    else okWith (beBytes 1 (s.setMask m).activePhases) (s.setMask m)) s

/-- VDC or V48 is outside a window of R318; the lower bounds of V48 count from the end of the soft start, which charges it from 0 V (R317). (Assumption 98 DEDUCED) -/
def State.v48Out (s : State) : Bool :=
  !s.vdcInside || decide (62 < s.v48) || (decide (2 ≤ s.astate) && (decide (s.v48 < 34) || decide (s.v48 < s.vdc * 9 / 160)))

/-- AUX_V48_WINDOW (R317, R318): a window has been left for 1 ms, or the soft start has lasted 20 ms. -/
def execAuxV48Window (t : Nat) (held : Nat) (s0 : State) : Out :=
  let s := s0.advance t
  let slow := s.astate == 1 && s.elapsed s.aux.startAt (20 * ticksPerMs)
  if s.mainUp && s.auxForward && !s.aux.stopping && ((decide (ticksPerMs ≤ held) && s.v48Out) || slow) then .next ((s.raise Flt.AUX_V48_WINDOW { stages := 0x20 }).auxStop) else .next s

/-- IOUT has been above 1.25 × the level's own threshold for 1 ms (Table 12.2). -/
def State.shedUp (s : State) (held : Nat) : Bool :=
  decide (1 ≤ s.auxLevel) && decide (s.shedThr s.auxLevel * 5 / 4 < s.iout) && decide (ticksPerMs ≤ held)

/-- IOUT has been below the next level's threshold for 10 ms, regulated, with three phases and shedding on (R326, Table 12.2). -/
def State.shedDown (s : State) (held : Nat) : Bool :=
  decide (s.auxLevel ≤ 2) && s.getB F.AUX_STAT_REGULATED && decide (3 ≤ s.nAvail) && s.getB F.AUX_CFG_SHED_EN && decide (s.iout < s.shedThr (s.auxLevel + 1)) && decide (10 * ticksPerMs ≤ held)

/-- The next level up; burst ends (R326, R331). (Assumption 98 DEDUCED) -/
def State.levelUp (s : State) : State :=
  if s.auxLevel = 3 then (((({ s with aux := { s.aux with burstIdle := false } }).setF F.AUX_STAT_ASTATE 3).phasesTo (s.levelPhases 2) 1)).auxSettle
  else s.toLevel (s.auxLevel - 1)

/-- The next level down; below level 2 burst operation begins where it is enabled (R326, R330). -/
def State.levelDown (s : State) : State :=
  if s.auxLevel = 2 then
    if s.getB F.AUX_CFG_BURST_EN then
      ((({ s with aux := { s.aux with burstIdle := false, burstAt := s.now, burstRun := 0 } }).setF F.AUX_STAT_ASTATE 4).event F.AUX_EVT_BURST).bump F.AUX_CNT2_BURSTS
    else s
  else s.toLevel (s.auxLevel + 1)

/-- SHED_LEVEL_CHANGE (R326, Table 12.2). -/
def execShedLevelChange (t : Nat) (held : Nat) (s0 : State) : Out :=
  let s := s0.advance t
  if !s.mainUp || !(s.astate == 3 || s.astate == 4) || s.aux.stopping || s.aux.outgoing != 0 then .next s
  else if s.shedUp held then .next s.levelUp
  else if s.shedDown held then .next s.levelDown
  else .next s

/-- The rotation offset advances, and the phases of the level change with it (R326). -/
def State.rotate (s : State) : State := { s with aux := { s.aux with rot := (s.aux.rot + 1) % max 1 s.nAvail, rotAt := s.now } }.relevel

/-- SHED_ROTATION (R326, R329): every ROT_MS while the buck runs forward. -/
def execShedRotation (t : Nat) (s0 : State) : Out :=
  let s := s0.advance t
  if s.mainUp && decide (2 ≤ s.astate) && decide (s.astate ≤ 5) && !s.aux.stopping && s.elapsed s.aux.rotAt (s.getF F.AUX_SHEDT_ROT_MS * ticksPerMs) then .next s.rotate
  else .next s

/-- The phases whose transition has lasted SHED_T. -/
def State.shedDue (s : State) : Nat :=
  maskOf ((bitsList 8 s.aux.outgoing).filter fun k => s.elapsed (vget s.aux.shedAt k 0) (s.getF F.AUX_SHEDT_SHED_T * 64000))

/-- The phases whose transition is over stop, and what waited for its end follows (R327, R338). -/
def State.endShed (s : State) : State :=
  let due := s.shedDue
  let rest := fun (m : Nat) => maskOf ((bitsList 8 m).filter fun k => !bitAt due k)
  let a := ({ s with aux := { s.aux with outgoing := rest s.aux.outgoing, retiring := rest s.aux.retiring } }).phasesTo due 0
  ((a.shedDone.event F.AUX_EVT_SHED).bump F.AUX_CNT_SHEDS).refreshAvail.auxSettle

/-- SHEDDING_END (R327, R338): after SHED_T the outgoing phases are written MODE 0. -/
def execSheddingEnd (t : Nat) (s0 : State) : Out :=
  let s := s0.advance t
  if s.mainUp && s.shedDue != 0 then .next s.endShed else .next s

/-- A burst begins (R330). -/
def State.startBurst (s : State) : State :=
  (({ s with aux := { s.aux with burstIdle := false, burstAt := s.now, burstRun := 0 } }).bump F.AUX_CNT2_BURSTS).phasesTo (s.levelPhases 2) 1

/-- BURST_RESTART (R330): ROT_MS since the last burst began. -/
def execBurstRestart (t : Nat) (s0 : State) : Out :=
  let s := s0.advance t
  .next (if s.mainUp && s.astate == 4 && s.aux.burstIdle && !s.aux.stopping && s.elapsed s.aux.burstAt (s.getF F.AUX_SHEDT_ROT_MS * ticksPerMs) then s.startBurst else s)

/-- AUX_REGULATED (R341): v has stayed within 1 % of VSET for 1 ms. -/
def execAuxRegulated (t : Nat) (held : Nat) (s0 : State) : Out :=
  let s := s0.advance t
  let set := s.getQ F.AUX_VSET
  if s.mainUp && (s.astate == 2 || s.astate == 3) && !s.getB F.AUX_STAT_REGULATED && decide (absRat (s.auxV - set) ≤ set / 100) && decide (ticksPerMs ≤ held) then
    .next ({ s with aux := { s.aux with regulatedAt := s.now } }.setB F.AUX_STAT_REGULATED true)
  else .next s

/-- A phase is found open, or its sense lost (Table 12.4 code 3). -/
def State.phaseOpen (s : State) (k : Nat) : State :=
  if bitAt s.aux.opened k then s
  else
    let a := { s with aux := { s.aux with opened := setBitN s.aux.opened k true } }
    (a.raise Flt.AUX_PHASE_OPEN { stages := 0x40, item := k }).refreshAvail

/-- AUX_SENSE_LOST (R334 to R336): a sense pair's common mode stays above 2.7 V for 10 µs, whatever pulls it there, or the remote sense is implausible or invalid for 3 FAST outputs. Channel 8 is GZ14, channel k is the current of phase Pk. -/
def execAuxSenseLost (t : Nat) (ch : Fin 9) (mv held run : Nat) (s0 : State) : Out :=
  let s := s0.advance t
  let open_ := decide (2700 < mv) && decide (64000 ≤ held)
  if !s.mainUp then .next s
  else if ch.val < 8 then .next (if open_ then s.phaseOpen ch.val else s)
  else
    let bad := decide (3 ≤ run) && (decide (s.getQ F.AUX_VOSMAX < absRat (s.fastQ 14 F.AUX_VOSSCALE)) || (s.gzCh 14).fastFlags % 2 == 0)
    if s.getB F.AUX_STAT_REMOTE_OK && (open_ || bad) then
      .next (((s.setB F.AUX_STAT_REMOTE_OK false).event F.AUX_EVT_SENSELOST).raise Flt.AUX_SENSE_LOST { stages := 0x40 })
    else .next s

/-- AUX_OVERLOAD (R325): VOUT below 0.9 × VSET for 10 ms once REGULATED is set. -/
def execAuxOverload (t : Nat) (held : Nat) (s0 : State) : Out :=
  let s := s0.advance t
  if s.mainUp && s.getB F.AUX_STAT_REGULATED && decide (s.vout < s.getQ F.AUX_VSET * 9 / 10) && decide (10 * ticksPerMs ≤ held) then
    .next (s.raise Flt.AUX_OVERLOAD { stages := 0x40 })
  else .next s

/-- AUX_VOUT_HIGH (Table 12.6): VOUT above 1.15 × VSET for 100 µs. (Assumption 99 DEDUCED) -/
def execAuxVoutHigh (t : Nat) (held : Nat) (s0 : State) : Out :=
  let s := s0.advance t
  if s.mainUp && decide (s.getQ F.AUX_VSET * 23 / 20 < s.vout) && decide (640000 ≤ held) then .next (s.raise Flt.AUX_VOUT_HIGH { stages := 0x60 }) else .next s

/-- PRECHARGE_DONE (R343): VDC within ±1 % of PRE_VDC for 10 ms. -/
def execPrechargeDone (t : Nat) (held : Nat) (s0 : State) : Out :=
  let s := s0.advance t
  let set := s.getQ F.AUX_PRE_VDC
  if s.mainUp && s.astate == 7 && !s.aux.stopping && decide (absRat (s.vdc - set) ≤ set / 100) && decide (10 * ticksPerMs ≤ held) then
    .next ((s.setF F.AUX_STAT_ASTATE 8).event F.AUX_EVT_PREDONE)
  else .next s

/-- AUX_PRECHARGE_TIMEOUT (R343): PRE_DONE not reached within PRE_TMAX of the first AUX_SET. -/
def execAuxPrechargeTimeout (t : Nat) (s0 : State) : Out :=
  let s := s0.advance t
  match s.aux.preAt with
  | some x =>
    if s.mainUp && (s.astate == 6 || s.astate == 7) && !s.aux.stopping && s.elapsed x (s.getF F.AUX_PRE_TMAX * ticksPerMs) then
      .next ((s.raise Flt.AUX_PRECHARGE_TIMEOUT { stages := 0x60 }).auxStop)
    else .next s
  | none => .next s

end Sys2Proof.Machine
end

