-- ==== Sys2Proof/Machine/AuxSlots.lean ====
section
/-! DEFINITION. What the slots of LE2 and LE9 do for the auxiliary converter: supervision of the phases, braking, fast rejoin, burst, the ripple law, trims, the DCX waveforms (R316, R319 to R332, R336, R337, R343). -/

namespace Sys2Proof.Machine

open Sys2Proof

/-- TJLIM_EFF of a stage (R375). -/
def State.tjLim (s : State) (st : Nat) : Rat := s.getQ (F.THM_STG_TJLIM_EFF st)

/-- The junction estimate of a phase. -/
def State.phaseTj (s : State) (k : Nat) : Rat := match s.phaseHb k with
  | some h => s.hbTj h
  | none => 0

/-- Over-temperature of one phase: warning once within OTW_K, unavailable at the limit, until 20 K below it (R337). -/
def State.phaseHeat (s : State) (k : Nat) : State :=
  let tj := s.phaseTj k
  let lim := s.tjLim 6
  if s.phaseHb k = none then s
  else if lim ≤ tj && !bitAt s.aux.hot k then
    (({ s with aux := { s.aux with hot := setBitN s.aux.hot k true } }).raise Flt.AUX_PHASE_OTS { stages := 0x40, item := k }).refreshAvail
  else
    let a := if bitAt s.aux.hot k && tj ≤ lim - 20 then ({ s with aux := { s.aux with hot := setBitN s.aux.hot k false } }).refreshAvail else s
    let warn := decide (lim - (a.getF F.AUX_BRAKE_OTW_K : Rat) ≤ tj)
    if warn && !bitAt a.aux.warned k then
      (({ a with aux := { a.aux with warned := setBitN a.aux.warned k true } }).event F.AUX_EVT_OTW).raise Flt.AUX_PHASE_OTW { stages := 0x40, item := k }
    else if warn then a else { a with aux := { a.aux with warned := setBitN a.aux.warned k false } }

/-- A latch of class C on a phase's half-bridge makes it unavailable (Table 12.4 code 6). -/
def State.phaseLatch (s : State) (k : Nat) : State :=
  match s.phaseHb k with
  | some h =>
    if s.latched h && !bitAt s.aux.latched k then
      (({ s with aux := { s.aux with latched := setBitN s.aux.latched k true } }).raise Flt.AUX_PHASE_LATCHED { stages := 0x40, item := k }).refreshAvail
    else s
  | none => s

/-- The mean current of the active phases other than k. -/
def State.otherMean (s : State) (k : Nat) : Rat :=
  let l := (bitsList 8 s.activePhases).filter fun j => j != k
  if l.isEmpty then 0 else (l.map fun j => s.iph j).sum / (l.length : Rat)

/-- One master period of a phase under the open test: active, its pulse not dropped, no current while the others carry some (Table 12.4 code 3). -/
def State.phaseDead (s : State) (k : Nat) : Bool :=
  let dropped := match s.phaseHb k with
    | some h => (vget s.bat.hbs h {}).noPulse
    | none => true
  bitAt s.activePhases k && !dropped && decide (absRat (s.iph k) < s.getQ F.AUX_IPH_MAX / 20) && decide (s.getQ F.AUX_IPH_MAX / 4 < s.otherMean k)

/-- The open test of one phase: 8 master periods in a row. -/
def State.phaseTest (s : State) (k : Nat) : State :=
  let n := if s.phaseDead k then vget s.aux.openRun k 0 + 1 else 0
  let a := { s with aux := { s.aux with openRun := vset s.aux.openRun k n } }
  if 8 ≤ n then a.phaseOpen k else a

/-- Latches and temperatures of the phases, and their availability, in any state of the converter: with every estimate of the thermal model (R336, R337). -/
def State.phaseCare (s : State) : State := ((List.range 8).foldl (fun (x : State) k => (x.phaseLatch k).phaseHeat k) s).refreshAvail

/-- Supervision of every phase once per slot. -/
def State.phaseWatch (s : State) : State :=
  (List.range 8).foldl (fun x k => ((x.phaseLatch k).phaseHeat k).phaseTest k) s

/-- Outgoing phases that a fast rejoin does not bring back: those that retire, and those the mask no longer permits (R338, R340, Table 12.3). -/
def State.leaving (s : State) : Nat := maskOf ((bitsList 8 s.aux.outgoing).filter fun k => bitAt s.aux.retiring k || !bitAt s.availPhases k)

/-- The fast rejoin condition: of the present level or the one being entered, where these are shed levels (R328). -/
def State.rejoinNow (s : State) : Bool :=
  let out := s.aux.outgoing != s.leaving
  let lvls := [s.auxLevel, if out then s.aux.shedTo else 0]
  (out || decide (1 ≤ s.auxLevel)) && ((lvls.any fun l => decide (1 ≤ l) && decide (s.shedThr l * 3 / 2 < s.iout)) || decide (s.auxV < s.vsetR * 98 / 100))

/-- Fast rejoin: level 0, every available phase in mode 1 with its trim 0; a phase that retires or is masked still leaves (R328, Table 12.3). -/
def State.rejoin (s : State) : State :=
  let keep := s.leaving
  let a := { s with aux := { s.aux with outgoing := keep, shedTo := 0, burstIdle := false } }
  let b := ((a.setB F.AUX_STAT_SHEDDING (keep != 0)).setF F.AUX_STAT_LEVEL 0).setF F.AUX_STAT_ASTATE (if s.astate = 4 then 3 else s.astate)
  let c := b.phasesTo b.availPhases 1
  let d := (bitsList 8 c.availPhases).foldl (fun (x : State) k => if bitAt keep k then x else x.setFl (F.AUX_TRIM k) 0) c
  ((d.bump F.AUX_CNT_REJOINS).event F.AUX_EVT_REJOIN).auxSettle

/-- Braking begins or ends, or the fast rejoin acts (R328, R331, Table 12.3). -/
def State.brakeOrRejoin (s : State) : State :=
  let v := s.auxV
  let vr := s.vsetR
  let pct : Rat := (s.getF F.AUX_BRAKE_BRAKE_PCT : Rat) / 1000
  if s.astate = 5 then
    if v < vr * (1 + pct / 2) || s.phasesQuiet then
      let a := s.setF F.AUX_STAT_ASTATE s.aux.brakeFrom
      let b := a.phasesTo (a.levelPhases (a.getF F.AUX_STAT_LEVEL)) 1
      (if b.rejoinNow then b.rejoin else b).auxSettle
    else s
  else if s.getB F.AUX_CFG_BRAKE_EN && decide (vr * (1 + pct) < v) && s.activePhases != 0 then
    let a := { s with aux := { s.aux with brakeFrom := s.astate } }
    (((a.setF F.AUX_STAT_ASTATE 5).event F.AUX_EVT_BRAKE).bump F.AUX_CNT2_BRAKES).phasesTo 255 0
  else if s.rejoinNow then s.rejoin
  else s

/-- The burst comparison (R330). -/
def State.burstStep (s : State) : State :=
  if s.astate != 4 then s
  else
    let v := s.auxV
    let vr := s.vsetR
    let a := { s with aux := { s.aux with burstRun := s.aux.burstRun + 1 } }
    if a.aux.burstIdle then (if v < vr then a.startBurst else a)
    else if decide (vr * (1 + (s.getF F.AUX_SHEDT_BURST_BAND : Rat) / 1000) < v) && decide (4 ≤ a.aux.burstRun) then
      ({ a with aux := { a.aux with burstIdle := true } }).phasesTo 255 0
    else a

/-- A PI block of LE2 with the limits of R320. (Assumption 77 DESIGN CHOICE, 100 DESIGN CHOICE) -/
def State.auxPi (s : State) (k : Nat) (err lo hi : F32) (kp : Bool) : F32 × State := s.progPi 2 k err lo hi kp

/-- On-time of a phase in fine ticks (R319). -/
def State.phaseTon (s : State) (k : Nat) : Rat :=
  s.vsetR / s.v48 * (s.getF F.AUX_PNOM : Rat) * (1 + s.getQ (F.AUX_TRIM k))

/-- The ripple law: next master period before rounding, and its lower bound; PMAX while V48 gives no on-time (R320). -/
def State.nextMaster (s : State) (vint ulim : Rat) : Rat × Rat :=
  let pnom : Rat := (s.getF F.AUX_PNOM : Rat)
  let pmin : Rat := (s.getF F.AUX_PMIN : Rat)
  let pmax : Rat := (s.getF F.AUX_PMAX : Rat)
  if s.v48 ≤ 0 then (pmax, pmax)
  else
    let v := s.auxV
    let vr := s.vsetR
    let e := v - vr - vint + ulim
    let ripple : Rat := (s.getF F.AUX_RIP_RIPPLE : Rat) / 1000
    let raw := pnom * (if v < 1 then 1 else vr / v) * (1 + e / ripple)
    let ton := (bitsList 8 s.activePhases).foldl (fun m k => maxRat m (s.phaseTon k)) 0
    let low := maxRat pmin (ton + (s.getF F.AUX_RIP_TOFFMIN : Rat))
    (minRat (maxRat raw low) pmax, minRat low pmax)

/-- LE2 writes the master period of CAR6: it applies from the next CAR6 period start (R321). -/
def State.writeMaster (s : State) (p : Nat) : State :=
  let f := F.PWM_CAR_PERIOD 6
  let a := s.setF F.AUX_PERIOD p
  if (a.car 6).running then { a with shadow := a.shadow ++ [({ addr := f.addr, mask := 2 ^ 24 - 1, value := p, held := false, armed := false } : PendWrite)] } else a.setF f p

/-- The average of a phase current over the last 64 master periods. -/
def State.iphMean (s : State) (k : Nat) : Rat :=
  let l := vget s.aux.iph k []
  if l.isEmpty then 0 else l.sum / (l.length : Rat)

/-- The trims: outgoing phases ramp to −0.5, the others move towards the mean current (R324, R327, R337). -/
def State.moveTrims (s : State) : State :=
  let act := bitsList 8 s.activePhases
  let a := { s with aux := { s.aux with iph := act.foldl (fun (v : Vector (List Rat) 8) k => vset v k ((s.iph k :: vget v k []).take 64)) s.aux.iph } }
  let stay := act.filter fun k => !bitAt a.aux.outgoing k
  let mean : Rat := if stay.isEmpty then 0 else (stay.map fun k => a.iphMean k).sum / (stay.length : Rat)
  let span : Rat := (a.getF F.AUX_SHEDT_SHED_T * 64000 : Nat)
  act.foldl (fun (x : State) k =>
    if bitAt x.aux.outgoing k then
      let t0 := vget x.aux.trim0 k 0
      let q := clampRat 0 1 (((x.now - vget x.aux.shedAt k 0 : Nat) : Rat) / span)
      x.setQ (F.AUX_TRIM k) (t0 + (-(1 / 2) - t0) * q)
    else
      let want := if bitAt x.aux.warned k then mean * 3 / 4 else mean
      x.setQ (F.AUX_TRIM k) (clampRat (-(1 / 10)) (1 / 10) (x.getQ (F.AUX_TRIM k) + (want - x.iphMean k) / (1000 * x.getQ F.AUX_IPH_MAX)))) a

/-- The regulation of one slot forward (R319 to R321, R324, R325). -/
def State.regulate (s : State) : State :=
  let lim := s.getQ F.AUX_VSET / 100
  let (vint, a) := s.auxPi 0 (F32.ofRat (s.vsetR - s.auxV)) (F32.ofRat (-lim)) (F32.ofRat lim) false
  let hi := a.bankWord 2 (Config.yarganCoef 2 1 + 3)
  let (ulim, b) := a.auxPi 1 (F32.ofRat (a.iout - a.ilimEff)) 0 hi true
  let c := (b.setFl F.AUX_VINT vint).setQ F.AUX_ILIM_EFF b.ilimEff
  let (p, low) := c.nextMaster (F32.toRat vint) (F32.toRat ulim)
  let n := (roundRat p).toNat
  let e := c.eng 2
  let d := if p ≤ low || F32.lt 0 ulim then c.setEng 2 { e with satNow := true } else c
  let f := (d.moveTrims).writeMaster n
  { f with aux := { f.aux with legs := some n } }

/-- VSET_R as far as it has come becomes the base of the further ramp. -/
def State.rebaseVset (s : State) : State := { s with aux := { s.aux with vrBase := s.vsetR, vrAt := s.now } }

/-- The V48 that LE2 holds in reverse: VOUT + 4 V, then raised towards PRE_VDC / 16 while the power stays within 2,000 W (R343). (Assumption 101 DEDUCED) -/
def State.preGoal (s : State) : Rat :=
  if s.astate = 6 then s.vout + 4
  else
    let top := s.getQ F.AUX_PRE_VDC / 16
    let free := 2000 - absRat (s.vout * s.iout)
    let up := if free ≤ 0 then 0 else absRat (Config.preRate free) * s.leSeconds 2
    if s.aux.v48Ref ≤ top then minRat top (s.aux.v48Ref + up) else top

/-- LE2 in reverse: every available phase at the period PNOM, its leg voltage holding V48 (R343). (Assumption 101 DEDUCED) -/
def State.preBuck (s : State) : State :=
  let b := if s.activePhases = 0 then (s.phasesTo s.availPhases 1).belowMin else s
  let c := b.writeMaster (b.getF F.AUX_PNOM)
  let g := c.preGoal
  let (u, d) := { c with aux := { c.aux with v48Ref := g } }.bankPi 2 2 (F32.ofRat (g - c.v48))
  let v := F32.ofRat (c.vout - F32.toRat u)
  (List.range 8).foldl (fun (x : State) k => match x.phaseHb k with
    | some h => x.stageLeg 2 h v
    | none => x) d

/-- One slot of LE2 (R320 to R332, R336 to R339, R343). -/
def State.slotLE2 (s0 : State) : State :=
  let s := { s0.takePermit.auxSettle with aux := { s0.takePermit.auxSettle.aux with legs := none } }
  if s.aux.stopping || s.astate = 0 || s.astate = 1 then s
  else if s.auxForward then
    let a := (s.rebaseVset.phaseWatch)
    if a.astate = 0 then a
    else
      let b := if a.astate = 2 && a.vsetR = a.getQ F.AUX_VSET then a.setF F.AUX_STAT_ASTATE 3 else a
      let c := (b.brakeOrRejoin).burstStep
      ((c.regulate).sampleStage 5).sampleStage 6
  else
    let a := s.phaseWatch
    if a.astate < 6 || a.aux.preAt.isNone || F32.isZero (a.getFl F.AUX_PRE_VDC) then a
    else (a.preBuck.sampleStage 5).sampleStage 6

/-- The waveforms of the running DCX: half a period each way (R316). -/
def State.dcxRun (s : State) (p : Nat) : State :=
  (((s.dcxWord 0x50 0 (p / 2)).dcxWord 0x51 (p / 2) (p - 1)).dcxWord 0x52 0 (p / 2)).dcxWord 0x53 (p / 2) (p - 1)

/-- The soft-start pulse width w at this instant (R317). -/
def State.softWidth (s : State) (p : Nat) : Nat :=
  let lo := s.dcxLeast 0x50
  lo + (p / 2 - lo) * min (s.now - s.aux.startAt) (5 * ticksPerMs) / (5 * ticksPerMs)

/-- The first compares of the phases, which the feedforward unit has not yet written: the on-time that VSET_R and V48 give (R319). (Assumption 64 DEDUCED) -/
def State.firstLegs (s : State) : State :=
  (List.range 8).foldl (fun (x : State) k => match x.phaseHb k with
    | some h =>
      let y := x.setEng 2 ((x.eng 2).setFf { (x.eng 2).ffOf h with vleg := F32.ofRat (x.legVolt k h (x.getF F.AUX_PNOM)), posted := true })
      (y.compare 2 (2 * h) false 0).compare 2 (2 * h) true (roundRat (if y.v48 ≤ 0 then 0 else y.phaseTon k)).toNat
    | none => x) s

/-- The buck starts: CAR6 and its followers at PNOM, level 0, every available phase in mode 1, VSET_R from the measured VOUT (R317, R341). (Assumption 64 DEDUCED) -/
def State.startBuck (s : State) : State :=
  let a := { s with aux := { s.aux with vrBase := s.vout, vrAt := s.now, rot := 0, rotAt := s.now } }
  let b := (((a.setF F.AUX_STAT_ASTATE 2).dcxMode 0x52 1).dcxMode 0x53 1).setF F.AUX_STAT_LEVEL 0
  let c := ((b.writeMaster (b.getF F.AUX_PNOM)).runCars (b.hbsOf 6)).firstLegs
  (c.phasesTo c.availPhases 1).belowMin

/-- LE9 with the periods of CAR5 during the soft start, in which CAR6, its pacing carrier, stands still: the pulse width, and the start of the buck (R317, R341). -/
def State.softStep (s : State) (n : Nat) : State :=
  if n != 5 || s.astate != 1 || s.aux.stopping || s.leMode 9 == 0 then s
  else
    let p := s.carEff 5
    let w := s.softWidth p
    let high := decide (s.vdc * 95 / 1600 ≤ s.v48)
    let a := { s.softWords w with aux := { s.aux with v48Since := sinceIf high s.aux.v48Since s.now } }
    match a.aux.v48Since with
    | some x =>
      if decide (p / 2 ≤ w) && a.elapsed x 640000 then
        (((a.startBuck.dcxPut 0x50 0 (p / 2)).dcxPut 0x51 (p / 2) (p - 1)).dcxPut 0x52 0 (p / 2)).dcxPut 0x53 (p / 2) (p - 1)
      else a
    | none => a

/-- PERIOD_START (R147, R139, R141): the next period of a running or waiting carrier begins, or a stopping one ends. -/
def execPeriodStart (t : Nat) (n : Fin 16) (s0 : State) : Out :=
  let s := s0.advance t
  let c := s.car n
  if s.mainUp && (c.running || c.waiting) && decide (c.next ≤ s.now) && decide (0 < c.next) then
    if c.running && c.stopping then .next (s.stopCar n) else .next ((s.startPeriod n).softStep n)
  else .next s

/-- The pulse width of the DCX secondary in reverse: from tMINP_eff on, regulated so that the 24 V side stays within PRE_ILIM and 2,000 W (R343). (Assumption 101 DEDUCED) -/
def State.preWidth (s : State) (p : Nat) : Nat × State :=
  let lo := s.dcxLeast 0x52
  let a := if s.aux.preW = 0 then s.presetPi 9 0 (F32.ofNat lo) else s
  let lim := if s.vout ≤ 0 then s.getQ F.AUX_PRE_ILIM else minRat (s.getQ F.AUX_PRE_ILIM) (2000 / s.vout)
  let (u, b) := a.progPi 9 0 (F32.ofRat (lim - absRat s.iout)) (F32.ofNat lo) (F32.ofNat (p / 2)) false
  let w := max lo (min (p / 2) (floorNat (F32.toRat u)))
  (w, { b with aux := { b.aux with preW := w } })

/-- LE9 in reverse: HB14 and HB15 off, HB16 and HB17 with the pulse width; once it has reached P/2, PRE_RAISE (R343). -/
def State.preDcx (s : State) (p : Nat) : State :=
  let lo := s.dcxLeast 0x52
  let z := if s.aux.preW = 0 then (s.dcxPut 0x52 0 lo).dcxPut 0x53 (p / 2) (p / 2 + lo) else s
  let a := ((((z.dcxMode 0x50 0).dcxMode 0x51 0).dcxMode 0x52 1).dcxMode 0x53 1).showModes
  let (w, b) := a.preWidth p
  let c := (b.dcxWord 0x52 0 w).dcxWord 0x53 (p / 2) (p / 2 + w)
  if c.astate = 6 && decide (p / 2 ≤ w) then c.setF F.AUX_STAT_ASTATE 7 else c

/-- One slot of LE9 (R316, R317, R323, R343). -/
def State.slotLE9 (s : State) : State :=
  let p := s.carEff 5
  if s.aux.stopping || s.astate ≤ 1 then s
  else if s.auxForward then s.dcxRun p
  else if s.aux.preAt.isNone || F32.isZero (s.getFl F.AUX_PRE_VDC) then s
  else s.preDcx p

end Sys2Proof.Machine
end

