-- ==== Sys2Proof/Machine/FaultLog.lean ====
section
/-! DEFINITION. Reading, draining and acknowledging the main fault log (R281, R414 to R417). -/

namespace Sys2Proof.Machine

open Sys2Proof

/-- Index a is newer than index b by the shorter distance modulo 65,536 (R415). -/
def idxNewer (a b : Nat) : Bool :=
  let d := (a + 65536 - b) % 65536
  decide (1 ≤ d) && decide (d < 32768)

/-- The records held from a first index onwards, oldest first (R415). -/
def State.recordsFrom (s : State) (first : Nat) : List FaultRec :=
  s.log.recs.reverse.filter fun r => !idxNewer first r.idx

/-- FAULT_LOG_READ (R415). -/
def execFaultLogRead (r : Req) (s : State) : Out :=
  serveOp { code := 0x0901, lens := [3] } r (fun _ s =>
    let count := r.num 2 1
    if count = 0 ∨ 16 < count then refuse stBadParam s
    else
      let room := (maxPacket r.port r.fd - 23) / 32
      let out := (s.recordsFrom (r.num 0 2)).take (min count room)
      okWith (beBytes 1 out.length ++ out.flatMap fun x => x.bytes) s) s

/-- The SP, or the AP while SP_LOST is set, drains the class A FIFO into the log (R417). -/
def execFaultFifoDrain (t : Nat) (s0 : State) : Out :=
  let s := s0.advance t
  if !s.mainUp then .next s
  else .next (s.log.fifo.foldl (fun x r => x.logPut r) { s with log := { s.log with fifo := [], fifoLost := 0 } })

/-- A record is at or before an acknowledged index; a record that has left the ring is before every index the ring still holds (R415). (Assumption 121 DEDUCED) -/
def State.covers (s : State) (a : Nat) (r : FaultRec) : Bool :=
  !idxNewer r.idx a || (s.log.gone.contains r && decide ((s.getF F.SLT_LOGIDX_NEWEST + 65536 - a) % 65536 < 256))

/-- The record of a latch is covered by an acknowledged index (R281): a record not yet drained from the FIFO is not. -/
def State.coversLatch (s : State) (a : Nat) (l : Latch) : Bool :=
  match (s.log.recs ++ s.log.gone).find? fun r => r.serial == l.serial with
  | some r => s.covers a r
  | none => !(s.log.fifo ++ s.log.bootRecs).any fun r => r.serial == l.serial

/-- Serials of the records a FAULT_ACK covers. -/
def State.coveredSerials (s : State) (a : Nat) : List Nat := ((s.log.recs ++ s.log.gone).filter fun r => s.covers a r).map fun r => r.serial

/-- A FAULT_ACK answered OK: the covered records are acknowledged and the covered Slate latches clear (R281, R412, R415). (Assumption 121 DEDUCED) -/
def State.ackTo (s : State) (a : Nat) : State :=
  let recs := s.log.recs.map fun r => if s.covers a r then { r with acked := true } else r
  let gone := s.log.gone.filter fun r => !s.covers a r
  let ls := s.gate.latches.filter fun l => l.driver || !s.coversLatch a l
  let t := ({ s with log := { s.log with recs := recs, gone := gone }, gate := { s.gate with latches := ls } }).showLatches
  if idxNewer a (t.getF F.SLT_LOGIDX_ACKED) || t.getF F.SLT_LOGIDX_ACKED = 0xFFFF then t.setF F.SLT_LOGIDX_ACKED a else t

end Sys2Proof.Machine
end

