-- ==== Sys2Proof/Machine/SafetyInputs.lean ====
section
/-! DEFINITION. The safety inputs and RSTREQ (R418 to R425). -/

namespace Sys2Proof.Machine

open Sys2Proof

/-- A pair as the Slate keeps it. -/
def State.pair (s : State) (p : Nat) : SinPair := vget s.slt.sin p {}

/-- A pair is used: EN at 1 (R423). -/
def State.pairUsed (s : State) (p : Nat) : Bool := s.getB (F.SLT_SINMASK_EN p)

/-- The state with a pair replaced; SLT_SIN, SLT_SINFLT and the actuator's SWITCH_OK follow (R360, R423, Table 15.12). -/
def State.setPair (s : State) (p : Nat) (x : SinPair) : State :=
  let t := { s with slt := { s.slt with sin := vset s.slt.sin p x } }
  let nib := (if x.a.deb then 1 else 0) + (if x.b.deb then 2 else 0) + (if x.a.deb && x.b.deb && x.kind == 0 then 4 else 0) + (if x.kind ≠ 0 then 8 else 0)
  let u := (t.setF ⟨F.SLT_SIN.addr, 4 * p + 3, 4 * p⟩ nib).setF ⟨F.SLT_SINFLT.addr, 4 * p + 3, 4 * p⟩ x.kind
  if p = 1 || p = 2 then u.setB F.ACT_STAT_SWITCH_OK ([1, 2].all fun q => (vget u.slt.sin q {}).kind == 0) else u

/-- A channel of the pair has chattered and has not since been stable for 1 s (R422). -/
def SinPair.chats (x : SinPair) : Bool := x.a.chat || x.b.chat

/-- The fault of a kind of SLT_SINFLT. -/
def sinKind : Nat → FaultKind
  | 1 => Flt.CROSS_SHORT
  | 2 => Flt.SIN_STUCK
  | 3 => Flt.SIN_DISCREPANCY
  | 4 => Flt.CHATTER
  | _ => Flt.TPS_OVERLOAD

/-- A wiring fault of a pair: recorded for the stages of its mask unless the pair already carries it (R423). -/
def State.sinFault (s : State) (p kind : Nat) : State :=
  if !s.pairUsed p || (s.pair p).kind = kind then s
  else
    let a := s.setPair p { s.pair p with kind := kind, goodFrames := 0, frameBad := true }
    (a.event F.SLT_EVT_SINFAULT).raise (sinKind kind) { stages := s.getF (F.SLT_SINMASK_MASK p), item := p }

/-- Start of the test pulses of a supply, 20 ms apart: TPSA at the Slate's start, TPSB 10 ms later (R419). -/
def State.pulseBase (s : State) (b : Bool) : Nat := s.pwr.slateBase + if b then 10 * ticksPerMs else 0

/-- The frame whose pulse of a supply is the newest due, counted from 1; 0 before the first (R419). -/
def State.testFrame (s : State) (b : Bool) : Nat :=
  if s.now < s.pulseBase b then 0 else (s.now - s.pulseBase b) / (20 * ticksPerMs) + 1

/-- The pulse of a frame starts on a supply, at its place in the frame (R419). -/
def State.startPulse (s : State) (b : Bool) : State :=
  let i := if b then 1 else 0
  { s with slt := { s.slt with pulseFrame := vset s.slt.pulseFrame i (s.testFrame b), pulseAt := vset s.slt.pulseAt i (s.pulseBase b + (s.testFrame b - 1) * (20 * ticksPerMs)) } }

/-- TEST_PULSE (R419): a test pulse starts on TPSA or, with b, on TPSB, once in each frame. (Assumption 250 DEDUCED) -/
def execTestPulse (t : Nat) (b : Bool) (s0 : State) : Out :=
  let s := s0.advance t
  if s.mainUp && decide (vget s.slt.pulseFrame (if b then 1 else 0) 0 < s.testFrame b) then .next (s.startPulse b) else .next s

/-- One channel at a sample: of its own supply's pulse it must fall, of the other's it must stay high (R420). The result is the channel and the kind of a fault found. -/
def SinCh.sample (c : SinCh) (own level : Bool) : SinCh × Nat :=
  if own then
    let n := if c.deb && level then c.stuckRun + 1 else 0
    ({ c with stuckRun := n }, if 2 ≤ n then 2 else 0)
  else
    let n := if c.deb && !level then c.crossRun + 1 else 0
    ({ c with crossRun := n }, if 2 ≤ n then 1 else 0)

/-- A pair at a sample of TPSA or TPSB: faults, and at the end of a frame the count of frames tested well; three of them end a wiring fault (R420, R423). (Assumption 117 DEDUCED, 140 DEDUCED) -/
def State.samplePair (s : State) (b : Bool) (levels : Nat) (p : Nat) : State :=
  let x := s.pair p
  let (ca, ka) := x.a.sample (!b) (bitAt levels (2 * p))
  let (cb, kb) := x.b.sample b (bitAt levels (2 * p + 1))
  let bad := ca.stuckRun + ca.crossRun + cb.stuckRun + cb.crossRun ≠ 0 || !x.a.deb || !x.b.deb
  let frame := x.frameBad || bad
  let good := if !b then x.goodFrames else if frame then 0 else x.goodFrames + 1
  let gone := decide (3 ≤ good) && x.kind != 4
  let y : SinPair := { x with a := ca, b := cb, goodFrames := good, frameBad := if b then false else bad, kind := if gone then (if x.chats then 4 else 0) else x.kind }
  let t := s.setPair p y
  let u := if ka ≠ 0 then t.sinFault p ka else t
  if kb ≠ 0 then u.sinFault p kb else u

/-- The pulse of this frame has begun on a supply and its sample is due (R420). -/
def State.pulseSampled (s : State) (b : Bool) : Bool :=
  let i := if b then 1 else 0
  let f := s.testFrame b
  f != 0 && vget s.slt.pulseFrame i 0 == f && vget s.slt.sampleFrame i 0 != f && s.elapsed (vget s.slt.pulseAt i 0) (150 * ticksPerUs)

/-- SIN_SAMPLE (R420): each input is sampled 150 µs after the fall of a test pulse, once a pulse; bit 2p is channel A of pair p, bit 2p + 1 its channel B. (Assumption 250 DEDUCED) -/
def execSinSample (t : Nat) (b : Bool) (levels : BitVec 8) (s0 : State) : Out :=
  let s := s0.advance t
  if s.mainUp && s.pulseSampled b then
    let u := { s with slt := { s.slt with sampleFrame := vset s.slt.sampleFrame (if b then 1 else 0) (s.testFrame b) } }
    .next ([0, 1, 2, 3].foldl (fun (x : State) p => x.samplePair b levels.toNat p) u)
  else .next s

/-- The request fault of a pair that becomes active (Table 15.8). (Assumption 117 DEDUCED) -/
def State.sinRequest (s : State) (p : Nat) : State :=
  if !s.pairUsed p then s
  else if p = 0 then s.raise Flt.SIN_TORQUE_OFF { stages := s.getF (F.SLT_SINMASK_MASK 0), item := 0 }
  else if p = 3 then s.raise Flt.SIN_SERVICE_OPEN { stages := s.getF (F.SLT_SINMASK_MASK 3), item := 3 }
  else s

/-- A channel whose raw level has been stable takes it; 1 s of it ends that channel's CHATTER (R421, R422). -/
def SinCh.settle (c : SinCh) (raw : Bool) (held : Nat) : SinCh := { c with deb := raw, chat := c.chat && decide (held < ticksPerS) }

/-- A raw level that has been stable becomes the debounced level; a difference of the two channels is timed, and CHATTER is over when neither channel keeps its cause (R421, R422). (Assumption 117 DEDUCED) -/
def State.debounced (s : State) (p : Nat) (b raw : Bool) (held : Nat) : State :=
  let x := s.pair p
  let y := if b then { x with b := x.b.settle raw held } else { x with a := x.a.settle raw held }
  s.setPair p { y with kind := if y.kind == 4 && !y.chats then 0 else y.kind, differSince := if y.a.deb == y.b.deb then none else (match x.differSince with
    | some d => some d
    | none => some s.now) }

/-- SIN_DEBOUNCE (R421): a raw state stable for 3 ms is the debounced state; one stable for 1 s ends CHATTER (R422). (Assumption 117 DEDUCED) -/
def execSinDebounce (t : Nat) (pair : Fin 4) (b raw : Bool) (held : Nat) (s0 : State) : Out :=
  let s := s0.advance t
  if s.mainUp && decide (3 * ticksPerMs ≤ held) then
    let u := s.debounced pair b raw held
    .next (if s.pairSafe pair && !u.pairSafe pair then u.sinRequest pair else u)
  else .next s

/-- SIN_DISCREPANCY (R421): the debounced channels of a pair differ for 50 ms. -/
def execSinDiscrepancy (t : Nat) (pair : Fin 4) (s0 : State) : Out :=
  let s := s0.advance t
  match (s.pair pair).differSince with
  | some d => .next (if s.mainUp && s.elapsed d (50 * ticksPerMs) then s.sinFault pair 3 else s)
  | none => .next s

/-- A used pair keeps which of its channels chattered (R422). (Assumption 117 DEDUCED) -/
def State.markChat (s : State) (p : Nat) (b : Bool) : State :=
  let x := s.pair p
  if s.pairUsed p then s.setPair p (if b then { x with b := { x.b with chat := true } } else { x with a := { x.a with chat := true } }) else s

/-- CHATTER (R422): more than 8 raw transitions of a channel within 100 ms. -/
def execChatter (t : Nat) (pair : Fin 4) (b : Bool) (transitions : Nat) (s0 : State) : Out :=
  let s := s0.advance t
  if s.mainUp && 8 < transitions then .next ((s.markChat pair b).sinFault pair 4) else .next s

/-- TPS_OVERLOAD (R419): a test-pulse output differs from its command for 1 ms; every pair it feeds is faulted. -/
def execTpsOverload (t : Nat) (_b : Bool) (held : Nat) (s0 : State) : Out :=
  let s := s0.advance t
  let hit := below 4 fun p => s.pairUsed p && (s.pair p).kind != 5
  if s.mainUp && decide (ticksPerMs ≤ held) && !hit.isEmpty then
    let a := hit.foldl (fun (x : State) p => x.setPair p { x.pair p with kind := 5, goodFrames := 0, frameBad := true }) s
    .next ((a.event F.SLT_EVT_SINFAULT).raise Flt.TPS_OVERLOAD { stages := hit.foldl (fun m p => Nat.lor m (s.getF (F.SLT_SINMASK_MASK p))) 0 })
  else .next s

/-- 100 ms of release have been seen (R424). -/
def State.rstReady (s : State) : Bool :=
  !s.getB F.SLT_RST_LEVEL && s.elapsed (s.slt.rstReleaseAt.getD s.pwr.slateBase) (100 * ticksPerMs)

/-- The level of RSTREQ, which the boot finds at its step 1 (Table 15.9). -/
def State.keyLevel (s : State) (high : Bool) : State := { s with pwr := { s.pwr with rstHigh := high } }

/-- RSTREQ_PRESS (R424): RSTREQ reads high through its filter. -/
def execRstreqPress (t : Nat) (s0 : State) : Out :=
  let s := (s0.advance t).keyLevel true
  if s.mainUp && !s.getB F.SLT_RST_LEVEL then
    .next (({ s with slt := { s.slt with rstPressAt := some s.now, rstClean := s.rstReady } }.setB F.SLT_RST_LEVEL true).setB F.SLT_RST_READY false)
  else .next s

/-- The Slate refuses a reset while a traction half-bridge switches, or while a set in ASC has not kept low in-line currents for 1 s (R425). (Assumption 118 DEDUCED) -/
def State.resetRefused (s : State) : Bool :=
  [0, 1].any fun st => s.switching st || (s.ascOn st && (match vget s.slt.lowCurrentSince st none with
    | some x => !s.elapsed x ticksPerS
    | none => true))

/-- RSTREQ is released after a press that began at an instant: its length is shown (Table 15.9). -/
def State.rstReleased (s : State) (p : Nat) : State :=
  let a := ((s.setB F.SLT_RST_LEVEL false).setF F.SLT_RST_PRESS_MS (min 65535 ((s.now - p) / ticksPerMs))).setB F.SLT_RST_STUCK false
  { a with slt := { a.slt with rstPressAt := none, rstReleaseAt := some a.now } }

/-- RSTREQ_RELEASE (Table 15.9): the length of the press decides; in TEST, which NRST or VSUP alone leaves, the release is seen and has no outcome (Table 3.2). (Assumption 118 DEDUCED) -/
def execRstreqRelease (t : Nat) (s0 : State) : Out :=
  let s := (s0.advance t).keyLevel false
  match s.slt.rstPressAt with
  | none => .next s
  | some p =>
    if !s.mainUp || !s.getB F.SLT_RST_LEVEL then .next s
    else if s.power == pTEST then .next (s.rstReleased p)
    else
      let len := s.now - p
      let b := s.rstReleased p
      if s.getB F.SLT_RST_STUCK || len > 30 * ticksPerS then .next b
      else if len > 3 * ticksPerS then .next ((b.event F.SLT_EVT_RESET).raise Flt.RESET_HELD {})
      else if len < 50 * ticksPerMs || !s.slt.rstClean then .next b
      else if b.resetRefused then .next ((b.event F.SLT_EVT_RESET).raise Flt.RESET_REFUSED {})
      else
        let c := b.resetAndBoot 0x09
        .next { c with pwr := { c.pwr with resetAccepted := true } }

/-- RESET_STUCK (Table 15.9): a press reaches 30 s. -/
def execResetStuck (t : Nat) (s0 : State) : Out :=
  let s := s0.advance t
  match s.slt.rstPressAt with
  | some p =>
    if s.mainUp && s.elapsed p (30 * ticksPerS) && !s.getB F.SLT_RST_STUCK then
      .next (((s.setB F.SLT_RST_STUCK true).event F.SLT_EVT_RESET).raise Flt.RESET_STUCK {})
    else .next s
  | none => .next s

end Sys2Proof.Machine
end

