-- ==== Sys2Proof/Machine/Actuators.lean ====
section
/-! DEFINITION. The shift and park-lock actuators: commutation, profile, homing, locked rotor, pawl states and the speed interlock (R347 to R367), and FAULT_ACK, which releases an actuator from FAULT (R282, R359, R415). -/

namespace Sys2Proof.Machine

open Sys2Proof

/-- An actuator: false shift, true park. -/
def State.act (s : State) (park : Bool) : Act := if park then s.park else s.shift

/-- The state with an actuator replaced. -/
def State.setAct (s : State) (park : Bool) (a : Act) : State := if park then { s with park := a } else { s with shift := a }

/-- Stage code and engine of an actuator (Table 13.1). -/
def actStage (park : Bool) : Nat := if park then 8 else 7
def actEngine (park : Bool) : Nat := if park then 10 else 3

/-- The pawl position x (R360). -/
def State.pawlPos (s : State) : Rat := (s.sensorVolts 23 - s.getQ F.ACT_PPOS_REL) / (s.getQ F.ACT_PPOS_ENG - s.getQ F.ACT_PPOS_REL)

/-- The measurements of the actuators follow their FAST words (Table 13.7). -/
def State.showPos (s : State) (n : Nat) : State :=
  if n = 22 then s.setQ F.ACT_SPOS s.forkPos else if n = 23 then s.setQ F.ACT_PPOSX s.pawlPos else s

/-- The current limit of an actuator under its derating factor (R379). -/
def State.actLimit (s : State) (park : Bool) : Rat :=
  (if park then s.getQ F.ACT_PARK_IMAX else s.getQ F.ACT_SHIFT_IMAX) * vget s.thm.k (actStage park) 1

/-- The speed forbids an engagement: 3.0 km/h or above, or unknown (R363). -/
def State.tooFast (s : State) : Bool := match s.vspd with
  | some v => decide (3 ≤ v)
  | none => true

/-- The half-bridges of an actuator as a list of three. -/
def State.actHbs (s : State) (park : Bool) : List Nat := s.hbsOf (actStage park)

/-- R347: carrier, window unit or shunt channels do not fit. CFGERR, which shows at rest too, counts only where the unit could not act once a motion writes MODE 1: also where a latch keeps a half-bridge from it. -/
def State.actUnfit (s : State) (park : Bool) : Bool :=
  let hs := s.actHbs park
  let k := if park then 1 else 0
  let shunts := if park then [18, 19, 20] else [15, 16, 17]
  let c := s.hbCar (hs.headD 0)
  hs.length != 3 || s.carEff c != 320000 || !s.getB (F.PWM_WIN_CFG_EN k) || !([0, 1, 2].all fun i => hs.contains (s.winHb k i))
    || !(hs.all fun h => s.hbCar h == c) || (hs.any fun h => s.latched h) || !(shunts.all fun n => s.gzMode n == 3 && s.getF (F.GZ_CH_CFG_WINU n) == k)

/-- The first period start of an actuator's carrier after now. -/
def State.actStart (s : State) (park : Bool) : Nat :=
  let c := s.car (s.hbCar ((s.actHbs park).headD 0))
  if c.running then c.next else s.now

/-- The feedforward unit of an engine has no leg voltage for a half-bridge: its compares stay at exactly 0 % (R216, R348). -/
def State.noLeg (s : State) (e h : Nat) : State :=
  if s.underFf e h then s.setEng e ((s.eng e).setFf { (s.eng e).ffOf h with vleg := 0 }) else s

/-- Switching of a motion begins with a period at exactly 0 %, whatever the last motion left (R348). -/
def State.motionOn (s : State) (park : Bool) : State :=
  let e := actEngine park
  let t := s.setAct park { s.act park with startAt := s.actStart park }
  ((t.actHbs park).foldl (fun (x : State) h => if x.latched h then x else (((x.setMode h 1).compare e (2 * h) false 0).compare e (2 * h) true 0).noLeg e h) t).showModes

/-- An actuator waits for a retry (R358). -/
def State.actWaits (s : State) (park : Bool) : Bool := if park then s.pstate == 6 else s.sstate == 3

/-- A motion runs: it has begun, it neither ends nor waits for a retry. -/
def State.actMoves (s : State) (park : Bool) : Bool := (s.act park).kind != 0 && (s.act park).ending.isNone && !s.actWaits park

/-- The end ramp of a motion begins, or goes on without a retry (R348); MOTION_END follows. -/
def State.motionEnding (s : State) (park : Bool) : State :=
  let a := s.act park
  if a.kind = 0 then s
  else s.setAct park { a with ending := some (a.ending.getD s.now), segs := [], retry := false, locked := a.locked && a.ending.isSome }

/-- A motion that ends at once, without a ramp (R352). -/
def State.motionCut (s : State) (park : Bool) : State := ((s.setAct park (s.act park).abandon).stopSwitching (actStage park)).showModes

/-- What a motion that begins knows of the rotor: no edge, no back-EMF, no period without current (R349, R351, R352). -/
def Act.fresh (a : Act) (now : Nat) : Act :=
  { a with ending := none, retry := false, locked := false, lastEmf := now, noCurrent := 0, edges := [], legs := [0, 0, 0], emfSign := [0, 0, 0] }

/-- Fine ticks of a time in seconds, to the nearest. (Assumption 105 DESIGN CHOICE) -/
def toTicks (x : Rat) : Nat := (roundRat (x * (ticksPerS : Rat))).toNat

/-- The segments of a profile of distance d from speed v0 with acceleration a and top speed vmax, beginning at t0; the profile is triangular where the distance is too short (R354). -/
def profile (d v0 a vmax : Rat) (t0 : Nat) : List (Nat × Rat) :=
  if a ≤ 0 then []
  else
    let stop := v0 * absRat v0 / (2 * a)
    let up := decide (stop ≤ d)
    let sg : Rat := if up then 1 else -1
    let v := sg * v0
    let l := sg * d
    let vp := minRat vmax (sqrtMicro (a * l + v * v / 2))
    let t1 := (vp - v) / a
    let t2 := if vp ≤ 0 then 0 else maxRat 0 ((l - (2 * vp * vp - v * v) / (2 * a)) / vp)
    let p1 := t0 + toTicks t1
    let p2 := p1 + (if vp < vmax then 0 else toTicks t2)
    let p3 := p2 + toTicks (vp / a)
    [(t0, sg * a)] ++ (if p1 = p2 then [] else [(p1, 0)]) ++ [(p2, -(sg * a)), (p3, 0)]

/-- Profile speed now. -/
def State.profSpeed (s : State) : Rat := s.shift.pSpeed + s.shift.pAcc * ((s.now - s.shift.pAt : Nat) : Rat) / (ticksPerS : Rat)

/-- A motion of the fork towards a position: profile from the present position and speed after the period at 0 % (R348, R354). (Assumption 105 DESIGN CHOICE) -/
def State.planShift (s : State) (kind : Nat) (target : Rat) (v0 : Rat) (deadline : Nat) : State :=
  let moving := s.actMoves false
  let from_ := s.actStart false
  let t0 := if moving then max from_ (s.shift.startAt + 320000) else from_ + 320000
  let segs := profile (target - s.forkPos) v0 (s.getQ F.ACT_ACC) (s.getQ F.ACT_VMAX) t0
  let a := { (if moving then s.shift else s.shift.fresh s.now) with kind := kind, since := s.now, target := target, deadline := deadline, segs := segs, profEnd := (segs.getLast?.map fun x => x.1).getD t0, pPos := s.forkPos, pSpeed := v0, pAcc := 0, pAt := t0 }
  let t := { s with shift := a }
  if moving then t else t.motionOn false

/-- The conditions of Table 13.3 that every actuator command shares: power state and R347; a retired stage does not start (R388). -/
def State.actRefused (s : State) (park : Bool) : Bool :=
  !(s.power == pARMED || s.power == pRUN) || s.actUnfit park || s.bit F.THM_SPARE_RETIRED (actStage park)

/-- The further conditions under which SHIFT_TO is answered STATE_REFUSED: not homed, homing, in FAULT (Table 13.3). -/
def State.shiftRefused (s : State) : Bool := s.actRefused false || !s.getB F.ACT_STAT_SHOMED || s.sstate == 1 || s.sstate == 4

/-- SHIFT_TO is accepted: a shift that waits for its retry, or ramps down towards that wait, only takes target and limit; otherwise the profile is planned (R354, Table 13.4). (Assumption 107 DEDUCED) -/
def State.beginShift (s : State) (i lim : Nat) : State :=
  let d := s.now + lim * ticksPerMs
  let p := s.getQ (F.ACT_POS i)
  if s.sstate = 3 || s.shift.retry then { s with shift := { s.shift with target := p, deadline := d } }
  else s.planShift 1 p (if s.shift.kind = 1 && s.actMoves false then s.profSpeed else 0) d

/-- SHIFT_TO (R354, Tables 13.3 and 13.4). -/
def execShiftTo (r : Req) (s : State) : Out :=
  serveOp { code := 0x0600, lens := [3] } r (fun _ s =>
    let i := r.num 0 1
    let lim := r.num 1 2
    if s.getF F.ACT_CFG_NPOS ≤ i ∨ 8 ≤ i ∨ !F32.isFinite (s.getFl (F.ACT_POS i)) ∨ lim = 0 then refuse stBadParam s
    else if s.held 7 then refuse stSafeHeld s
    else if s.shiftRefused then refuse stStateRefused s
    else .done stDeferred [] (s.beginShift i lim)) s

/-- A segment of the profile begins: position and speed are carried to its instant, and its acceleration is written into FFACC of LE3; with the first the fork moves (R354). -/
def State.takeSegment (s : State) (at_ : Nat) (acc : Rat) (rest : List (Nat × Rat)) : State :=
  let dt : Rat := ((at_ - s.shift.pAt : Nat) : Rat) / (ticksPerS : Rat)
  let v := s.shift.pSpeed + s.shift.pAcc * dt
  let p := s.shift.pPos + s.shift.pSpeed * dt + s.shift.pAcc * dt * dt / 2
  let u := ({ s with shift := { s.shift with segs := rest, pPos := p, pSpeed := v, pAcc := acc, pAt := at_ } }).setQ (F.LE_FFACC 3) acc
  if u.sstate = 0 then (u.setF F.ACT_STAT_SSTATE 2).showVspd else u

/-- PROFILE_SEGMENT (R354): the Batten time of a segment is reached. -/
def execProfileSegment (t : Nat) (s0 : State) : Out :=
  let s := s0.advance t
  match s.shift.segs with
  | (at_, acc) :: rest => .next (if s.mainUp && decide (at_ ≤ s.now) then s.takeSegment at_ acc rest else s)
  | [] => .next s

/-- RETRY_WAIT is entered: its gap begins, and the time limit of a motion of the pawl rests (R358, R361). -/
def State.beginWait (s : State) (park : Bool) : State :=
  let a := s.act park
  (s.setAct park { a with retry := false, retryAt := s.now, spent := a.spent + (s.now - a.spentAt), spentAt := s.now }).setF
    (if park then F.ACT_STAT_PSTATE else F.ACT_STAT_SSTATE) (if park then 6 else 3)

/-- A motion has ended: MODE 0 on the three half-bridges; after a locked rotor with a retry left RETRY_WAIT begins (R348, R358). -/
def State.motionEnded (s : State) (park : Bool) : State :=
  let a := s.act park
  let t := s.setAct park { a with kind := if a.retry then a.kind else 0, ending := none, locked := false }
  let u := if a.retry then t.beginWait park else t
  ((u.actHbs park).foldl (fun (x : State) h => (x.setMode h 0).noLeg (actEngine park) h) u).showModes

/-- MOTION_END (R348): the current has been ramped to zero. (Assumption 107 DEDUCED) -/
def execMotionEnd (t : Nat) (park : Bool) (s0 : State) : Out :=
  let s := s0.advance t
  if s.mainUp && (s.act park).ending.isSome then .next (s.motionEnded park) else .next s

/-- The fork has reached its target: IDLE, the retry count back to 0, and the end ramp (R354, R356). -/
def State.shiftDone (s : State) : State :=
  let homing := s.shift.kind == 3
  let a := (s.shiftIdle).setF F.ACT_STAT_S_RETRY 0
  let b := if homing then a.setB F.ACT_STAT_SHOMED true else a
  ((b.event F.ACT_EVT_SDONE).bump F.ACT_CNT_SHIFTS).motionEnding false

/-- The fork rests within POS_TOL of its target, for SETTLE since the profile ended (R354). -/
def State.shiftSettled (s : State) (held : Nat) : Bool :=
  let tol : Rat := (s.getF F.ACT_TOL_POS_TOL : Rat) / 1000
  let settle := s.getF F.ACT_TOL_SETTLE * ticksPerMs
  (s.shift.kind == 1 || s.shift.kind == 3) && s.shift.ending.isNone && (s.sstate == 2 || s.sstate == 1) && s.shift.segs.isEmpty
    && decide (absRat (s.forkPos - s.shift.target) ≤ tol) && decide (settle ≤ held) && s.elapsed s.shift.profEnd settle

/-- SHIFT_TARGET_REACHED (R354). -/
def execShiftTargetReached (t : Nat) (held : Nat) (s0 : State) : Out :=
  let s := s0.advance t
  if s.mainUp && s.shiftSettled held then .next s.shiftDone else .next s

/-- The time limit of a shift has passed while it runs or waits (R355). -/
def State.shiftLate (s : State) : Bool :=
  s.shift.kind == 1 && decide (s.shift.deadline ≤ s.now) && (s.sstate == 2 || s.sstate == 3 || (s.sstate == 0 && s.shift.ending.isNone))

/-- The shift is given up: its fault, IDLE, and the end ramp where it moves (R355). -/
def State.shiftTimeout (s : State) : State :=
  let a := (s.raise Flt.ACT_SHIFT_TIMEOUT { stages := 0x80 }).shiftIdle
  let b := { a with shift := { a.shift with limitSlot := some (a.eng 3).slots } }
  if s.sstate = 3 && s.shift.ending.isNone then { b with shift := b.shift.abandon } else b.motionEnding false

/-- ACT_SHIFT_TIMEOUT (R355): the time limit of SHIFT_TO has passed. -/
def execActShiftTimeout (t : Nat) (s0 : State) : Out :=
  let s := s0.advance t
  if s.mainUp && s.shiftLate then .next s.shiftTimeout else .next s

/-- An actuator enters FAULT under a fault of class C; it leaves with the FAULT_ACK that covers the record (R359). A homing that the fault ends has failed (R356, R357). -/
def State.actFault (s : State) (park : Bool) (k : FaultKind) : State :=
  let ser := s.log.serial
  let homing := (s.act park).kind == 2 || (s.act park).kind == 3
  let r := (s.raise k { stages := 2 ^ actStage park }).event F.ACT_EVT_FAULT
  let a := if homing then r.raise Flt.ACT_HOME_FAIL { stages := 2 ^ actStage park } else r
  let b := a.setAct park { a.act park with faultSerial := some ser }
  if park then b.setF F.ACT_STAT_PSTATE 7 else b.setF F.ACT_STAT_SSTATE 4

/-- Whether an actuator is in FAULT. -/
def State.actInFault (s : State) (park : Bool) : Bool := if park then s.pstate == 7 else s.sstate == 4

/-- The sector of a Hall code, 0 to 5 (R349). (Assumption 107 DEDUCED) -/
def hallSector (code : Nat) : Option Nat := [0b001, 0b011, 0b010, 0b110, 0b100, 0b101].findIdx? fun c => c == code

/-- The field that shows the accepted Hall code of an actuator. -/
def hallField (park : Bool) : Fld := if park then F.ACT_HALL_HP else F.ACT_HALL_HS

/-- A new Hall code is accepted: an edge, counted in its direction; it may skip a sector (R349, R350, R353). -/
def State.hallTo (s : State) (park : Bool) (new : Nat) : State :=
  let a := s.act park
  let d := match hallSector (s.getF (hallField park)), hallSector new with
    | some x, some y => (y + 6 - x) % 6
    | _, _ => 0
  let skip := decide (2 ≤ d) && decide (d ≤ 4)
  let mm := s.getQ F.ACT_HALL_MM
  let move : Rat := if d = 1 || d = 2 then mm else if d = 4 || d = 5 then -mm else 0
  (s.setF (hallField park) new).setAct park
    { a with edges := (s.now :: a.edges).take 2, up := if d = 0 || d = 3 then a.up else decide (d ≤ 2), skips := if skip then (s.now :: a.skips).take 3 else a.skips, counted := a.counted + move, hall := new }

/-- HALL_EDGE (R349): a level stable for 1 µs is accepted. -/
def execHallEdge (t : Nat) (park : Bool) (level : BitVec 3) (held : Nat) (s0 : State) : Out :=
  let s := s0.advance t
  if !s.mainUp || held < 6400 || s.getF (hallField park) = level.toNat then .next s else .next (s.hallTo park level.toNat)

/-- Three changes within 100 ms have skipped a sector (R350). -/
def State.hallSkips (s : State) (park : Bool) : Bool :=
  match (s.act park).skips with
  | [_, _, x] => !s.elapsed x (100 * ticksPerMs)
  | _ => false

/-- The Hall code of an actuator is impossible, for 10 µs (R350). -/
def State.hallBad (s : State) (park : Bool) (held : Nat) : Bool :=
  let code := s.getF (hallField park)
  (code == 0 || code == 7) && decide (64000 ≤ held)

/-- ACT_HALL_FAULT (R350): code 0b000 or 0b111 for 10 µs, or 3 skipped sectors within 100 ms. -/
def execActHallFault (t : Nat) (park : Bool) (held : Nat) (s0 : State) : Out :=
  let s := s0.advance t
  if s.mainUp && (s.hallBad park held || s.hallSkips park) && !s.actInFault park then .next ((s.actFault park Flt.ACT_HALL_FAULT).motionEnding park) else .next s

/-- The two positions of the fork differ by more than 1.0 mm for 20 ms, or GZ22 has delivered 3 bad FAST outputs (R353). -/
def State.posBad (s : State) (invalidRun held : Nat) : Bool :=
  let fl := (s.gzCh 22).fastFlags
  (decide (3 ≤ invalidRun) && (fl % 2 == 0 || fl / 2 % 2 == 1)) || (decide (1 < absRat (s.forkPos - s.shift.counted)) && decide (20 * ticksPerMs ≤ held))

/-- ACT_POS_SENSOR (R353). -/
def execActPosSensor (t : Nat) (invalidRun held : Nat) (s0 : State) : Out :=
  let s := s0.advance t
  if s.mainUp && s.posBad invalidRun held && !s.actInFault false then
    .next (((s.actFault false Flt.ACT_POS_SENSOR).setB F.ACT_STAT_SHOMED false).motionEnding false)
  else .next s

/-- A motion of the pawl towards engagement (1) or release (0) begins or turns (R361, Table 13.4). -/
def State.movePawl (s : State) (target : Nat) : State :=
  let moving := s.actMoves true
  let a := { (if moving then s.park else s.park.fresh s.now) with kind := 1, since := s.now, target := (target : Rat), spent := 0, spentAt := s.now }
  let t := ({ s with park := a }).setF F.ACT_STAT_PSTATE (if target = 1 then 2 else 4)
  if moving then t else t.motionOn true

/-- The conditions under which ACT_HOME is answered STATE_REFUSED (Table 13.3). -/
def State.homeRefused (s : State) (park : Bool) : Bool :=
  s.actRefused park || (s.act park).kind != 0 || (if park then s.pstate != 1 else s.sstate != 0)

/-- Homing begins: the move towards the stop. SHOMED is 0 until it succeeds (R356, R357). -/
def State.beginHome (s : State) (park : Bool) : State :=
  let a := { (s.act park).fresh s.now with kind := 2, since := s.now, target := 0, segs := [] }
  let b := (s.setAct park a).motionOn park
  if park then b.setF F.ACT_STAT_PSTATE 4 else (b.setF F.ACT_STAT_SSTATE 1).setB F.ACT_STAT_SHOMED false

/-- ACT_HOME (R356, R357). -/
def execActHome (r : Req) (s : State) : Out :=
  serveOp { code := 0x0603, lens := [1] } r (fun _ s =>
    let n := r.num 0 1
    let park := n == 1
    if 1 < n then refuse stBadParam s
    else if s.held (actStage park) then refuse stSafeHeld s
    else if s.homeRefused park then refuse stStateRefused s
    else .done stDeferred [] (s.beginHome park)) s

/-- No Hall edge for a span, nor since a shorter motion began. -/
def State.noEdge (s : State) (park : Bool) (span : Nat) : Bool :=
  let a := s.act park
  s.elapsed (max a.since (a.edges.headD 0)) span

/-- A homing motion has met its stop: no Hall edge for 50 ms with the current at its limit (R356, R357). -/
def State.atStop (s : State) (park : Bool) (iq : Rat) : Bool :=
  let a := s.act park
  a.kind == 2 && a.ending.isNone && s.noEdge park (50 * ticksPerMs) && decide (s.actLimit park * (s.getF F.ACT_HOME_HOME_PCT : Rat) / 100 ≤ absRat iq)

/-- The pawl is homed where it rests released, otherwise its homing has failed (R357). (Assumption 107 DEDUCED) -/
def State.parkHomed (s : State) : State :=
  if s.pawlPos ≤ 1 / 10 then (((s.setB F.ACT_STAT_PHOMED true).setF F.ACT_STAT_P_RETRY 0).setF F.ACT_STAT_PSTATE 1).motionEnding true
  else ((s.raise Flt.ACT_HOME_FAIL { stages := 0x100 }).setF F.ACT_STAT_PSTATE 0).motionEnding true

/-- The fork's scale is set at its stop, and it moves on to position 0 within 1 s (R356). -/
def State.shiftZeroed (s : State) : State :=
  let b := (s.setQ F.ACT_SPOS_OFS (-(s.sensorVolts 22 * s.getQ F.ACT_SPOS_GAIN)))
  let c := ({ b with shift := { b.shift with counted := 0 } }).setQ F.ACT_SPOS b.forkPos
  c.planShift 3 (c.getQ (F.ACT_POS 0)) 0 (c.now + ticksPerS)

/-- HOME_STOP_FOUND (R356, R357). -/
def execHomeStopFound (t : Nat) (park : Bool) (iq : Rat) (s0 : State) : Out :=
  let s := s0.advance t
  if !s.mainUp || !s.atStop park iq then .next s
  else if park then .next s.parkHomed
  else .next s.shiftZeroed

/-- Homing has not found its stop within 5 s, or not made its final move within 1 s (R356, R357). -/
def State.homeLate (s : State) (park : Bool) : Bool :=
  let a := s.act park
  a.ending.isNone && ((a.kind == 2 && s.elapsed a.since (5 * ticksPerS)) || (a.kind == 3 && decide (a.deadline ≤ s.now)))

/-- ACT_HOME_FAIL (R356, R357). -/
def execActHomeFail (t : Nat) (park : Bool) (s0 : State) : Out :=
  let s := s0.advance t
  if s.mainUp && s.homeLate park then
    let b := (s.raise Flt.ACT_HOME_FAIL { stages := 2 ^ actStage park }).motionEnding park
    .next (if park then b.setF F.ACT_STAT_PSTATE 0 else b.shiftIdle)
  else .next s

/-- The rotor of an actuator is stuck: current at LOCK_PCT for TLOCK without an edge or a back-EMF crossing (R358). -/
def State.rotorStuck (s : State) (park : Bool) (iq : Rat) (held : Nat) : Bool :=
  let span := s.getF F.ACT_LOCK_TLOCK * 10 * ticksPerMs
  decide (s.actLimit park * (s.getF F.ACT_LOCK_LOCK_PCT : Rat) / 100 ≤ absRat iq) && decide (span ≤ held) && s.noEdge park span && s.elapsed (s.act park).lastEmf span

/-- A motion that a locked rotor ends: none in the stop search or BLOCKED (R358). -/
def State.lockable (s : State) (park : Bool) : Bool :=
  let a := s.act park
  (a.kind == 1 || a.kind == 3) && a.ending.isNone && (if park then s.pstate == 2 || s.pstate == 4 else s.sstate == 1 || s.sstate == 2)

/-- The shift's time limit ended it in the same slot of LE3 (Table 13.4). -/
def State.limitSameSlot (s : State) (park : Bool) : Bool :=
  !park && (s.act park).limitSlot == some (s.eng 3).slots && (s.act park).ending.isSome

/-- LOCKED_ROTOR is recorded and counted. (Assumption 106 DEDUCED) -/
def State.lockNoted (s : State) (park : Bool) : State :=
  ((s.raise Flt.LOCKED_ROTOR { stages := 2 ^ actStage park }).event F.ACT_EVT_LOCK).bump F.ACT_CNT_LOCKS

/-- The end ramp that a locked rotor starts: 1 ms at most, then RETRY_WAIT where a retry follows (R358). (Assumption 106 DEDUCED) -/
def State.lockEnding (s : State) (park retry : Bool) : State :=
  let t := s.motionEnding park
  t.setAct park { t.act park with locked := true, retry := retry }

/-- What a locked rotor does to its motion: the end ramp, then the wait for a retry, or FAULT when the retries are used up; a shift whose limit has passed times out (R358, R359, Table 13.4). (Assumption 106 DEDUCED) -/
def State.lockEffect (s : State) (park : Bool) : State :=
  if !park && (s.act park).kind = 1 && decide ((s.act park).deadline ≤ s.now) then
    ((s.raise Flt.ACT_SHIFT_TIMEOUT { stages := 0x80 }).shiftIdle).lockEnding false false
  else if s.getF F.ACT_LOCK_RETRIES ≤ s.getF (if park then F.ACT_STAT_P_RETRY else F.ACT_STAT_S_RETRY) then
    (s.lockEnding park false).actFault park Flt.ACT_LOCKED_RETRIES
  else s.lockEnding park true

/-- LOCKED_ROTOR (R358, Table 13.4). -/
def execLockedRotor (t : Nat) (park : Bool) (iq : Rat) (held : Nat) (s0 : State) : Out :=
  let s := s0.advance t
  if !s.mainUp || !s.rotorStuck park iq held || !(s.lockable park || s.limitSameSlot park) then .next s
  else if s.limitSameSlot park then .next (s.lockNoted park)
  else .next ((s.lockNoted park).lockEffect park)

/-- The gap after a locked rotor is over (R358). -/
def State.retryDue (s : State) (park : Bool) : Bool :=
  let a := s.act park
  s.actWaits park && a.ending.isNone && s.elapsed a.retryAt (s.getF F.ACT_LOCK_RETRY_GAP * 10 * ticksPerMs)

/-- The motion restarts from the present position towards the same target, and the retry is counted (R358). -/
def State.restartMotion (s : State) (park : Bool) : State :=
  let a := s.act park
  if park then
    let u := (s.setF F.ACT_STAT_P_RETRY (s.getF F.ACT_STAT_P_RETRY + 1)).setAct true { a.fresh s.now with since := s.now, spentAt := s.now }
    (u.setF F.ACT_STAT_PSTATE (if a.target = 1 then 2 else 4)).motionOn true
  else
    let u := s.setF F.ACT_STAT_S_RETRY (s.getF F.ACT_STAT_S_RETRY + 1)
    let v := ({ u with shift := { a with kind := 0 } }).planShift a.kind a.target 0 a.deadline
    v.setF F.ACT_STAT_SSTATE (if a.kind = 3 then 1 else 2)

/-- RETRY_RESTART (R358): after RETRY_GAP. (Assumption 106 DEDUCED) -/
def execRetryRestart (t : Nat) (park : Bool) (s0 : State) : Out :=
  let s := s0.advance t
  if s.mainUp && s.retryDue park then .next (s.restartMotion park) else .next s

/-- A pawl switch pair reports: both channels closed. -/
def State.switchOn (s : State) (p : Nat) : Bool := (s.pair p).a.deb && (s.pair p).b.deb

/-- A pawl switch pair is faulted; SWITCH_OK is then 0 (R360, R423). (Assumption 249 DEDUCED) -/
def State.switchBad (s : State) : Bool := [1, 2].any fun p => (s.pair p).kind != 0

/-- The pawl state that x gives, and the one that the switches give: 1 released, 3 engaged, 0 neither. -/
def State.xState (s : State) : Nat := if s.pawlPos ≤ 1 / 10 then 1 else if 9 / 10 ≤ s.pawlPos then 3 else 0
def State.switchState (s : State) : Nat :=
  if s.switchOn 2 && !s.switchOn 1 then 1 else if s.switchOn 1 && !s.switchOn 2 then 3 else 0

/-- PSTATE of Table 13.2, from x alone while a switch pair is faulted. -/
def State.restState (s : State) : Nat := if s.switchBad then s.xState else if s.xState = s.switchState then s.xState else 0

/-- The pawl has arrived: event, count and the end ramp (R361). -/
def State.pawlDone (s : State) (st : Nat) : State :=
  let a := (s.setF F.ACT_STAT_PSTATE st).setF F.ACT_STAT_P_RETRY 0
  let b := if st = 3 then (a.event F.ACT_EVT_PENG).bump F.ACT_CNT2_ENGAGES else a.event F.ACT_EVT_PREL
  b.motionEnding true

/-- PAWL_STATE (R360, R361): a combination of Table 13.2 has held for 20 ms, at rest or at the end of a motion. -/
def execPawlState (t : Nat) (held : Nat) (s0 : State) : Out :=
  let s := s0.advance t
  let st := s.restState
  if !s.mainUp || held < 20 * ticksPerMs || s.pstate = 7 then .next s
  else if s.park.kind = 0 then
    let u := if st = 0 then s else { s with park := { s.park with disagreed := false } }
    .next (u.setF F.ACT_STAT_PSTATE st)
  else if s.park.kind = 1 && s.park.ending.isNone && st != 0 && st == (if s.park.target = 1 then 3 else 1) && s.pstate != 6 then .next (s.pawlDone st)
  else .next s

/-- PARK_SWITCH_DISAGREE (R360): sound switches disagree with x for 100 ms at rest. -/
def execParkSwitchDisagree (t : Nat) (held : Nat) (s0 : State) : Out :=
  let s := s0.advance t
  if s.mainUp && s.park.kind == 0 && s.pstate != 7 && s.getB F.ACT_STAT_SWITCH_OK && s.xState != s.switchState && decide (100 * ticksPerMs ≤ held) then
    if s.park.disagreed then .next (s.setF F.ACT_STAT_PSTATE 0)
    else .next ((({ s with park := { s.park with disagreed := true } }).raise Flt.PARK_SWITCH_DISAGREE { stages := 0x100 }).setF F.ACT_STAT_PSTATE 0)
  else .next s

/-- PARK_ENGAGE (R361, R363, Table 13.3). -/
def execParkEngage (r : Req) (s : State) : Out :=
  serveOp { code := 0x0601 } r (fun _ s =>
    if s.held 8 then refuse stSafeHeld s
    else if s.actRefused true || s.pstate == 7 then refuse stStateRefused s
    else if s.tooFast then refuse stStateRefused (s.raise Flt.PARK_SPEED_REFUSED { stages := 0x100 })
    else if s.pstate = 3 then okWith [] s
    else if s.pstate = 6 || s.park.retry then .done stDeferred [] { s with park := { s.park with target := 1 } }
    else if s.pstate = 2 || s.pstate = 5 then .done stDeferred [] s
    else .done stDeferred [] (s.movePawl 1)) s

/-- PARK_RELEASE (R361, Table 13.3). -/
def execParkRelease (r : Req) (s : State) : Out :=
  serveOp { code := 0x0602 } r (fun _ s =>
    if s.held 8 then refuse stSafeHeld s
    else if s.actRefused true || s.pstate == 7 then refuse stStateRefused s
    else if s.pstate = 1 then okWith [] s
    else if s.pstate = 6 || s.park.retry then .done stDeferred [] { s with park := { s.park with target := 0 } }
    else if s.pstate = 4 && s.park.kind = 1 then .done stDeferred [] s
    else .done stDeferred [] (s.movePawl 0)) s

/-- The engaging pawl stands on a tooth: no Hall edge for 50 ms in the tooth band (R361). -/
def State.onTooth (s : State) : Bool :=
  let x := 100 * s.pawlPos
  s.pstate == 2 && s.park.kind == 1 && s.park.ending.isNone && s.noEdge true (50 * ticksPerMs) && decide ((s.getF F.ACT_PARK_TOOTH_LO : Rat) ≤ x) && decide (x < 90)

/-- BLOCKED is entered; the time limit of the motion rests (R361). -/
def State.pawlBlocked (s : State) : State :=
  let u := { s with park := { s.park with blockedAt := s.now, spent := s.park.spent + (s.now - s.park.spentAt), spentAt := s.now } }
  ((u.setF F.ACT_STAT_PSTATE 5).event F.ACT_EVT_BLOCKED).bump F.ACT_CNT2_BLOCKS

/-- PAWL_BLOCKED (R361). -/
def execPawlBlocked (t : Nat) (s0 : State) : Out :=
  let s := s0.advance t
  if s.mainUp && s.onTooth then .next s.pawlBlocked else .next s

/-- An engage is under way: ENGAGING, BLOCKED, or the wait of an engage (R363). -/
def State.engaging (s : State) : Bool := s.pstate == 2 || s.pstate == 5 || (s.pstate == 6 && s.park.target == 1)

/-- The speed interlock ends an engage: the pawl returns to released at once (R363). -/
def State.speedAbort (s : State) : State :=
  if s.engaging && s.tooFast then ((s.event F.ACT_EVT_ABORT).raise Flt.PARK_ABORT_SPEED { stages := 0x100 }).movePawl 0 else s

/-- PARK_NOT_ENGAGED (R361): BLOCKED for TOOTH_S; the speed abort comes first (Table 13.4). -/
def execParkNotEngaged (t : Nat) (s0 : State) : Out :=
  let s := s0.advance t
  if s.mainUp && s.pstate == 5 && s.elapsed s.park.blockedAt (s.getF F.ACT_PARK_TOOTH_S * ticksPerS) then
    if s.tooFast then .next s.speedAbort else .next ((s.raise Flt.PARK_NOT_ENGAGED { stages := 0x100 }).movePawl 0)
  else .next s

/-- PARK_MOVE_TIMEOUT (R361): 1 s without BLOCKED and RETRY_WAIT. -/
def execParkMoveTimeout (t : Nat) (s0 : State) : Out :=
  let s := s0.advance t
  if s.mainUp && s.park.kind == 1 && s.park.ending.isNone && (s.pstate == 2 || s.pstate == 4) && decide (ticksPerS ≤ s.park.spent + (s.now - s.park.spentAt)) then
    .next ((s.actFault true Flt.PARK_MOVE_TIMEOUT).motionEnding true)
  else .next s

/-- PARK_MOTION_ENGAGED (R363): 3.0 km/h or above for 1 s with the pawl engaged. -/
def execParkMotionEngaged (t : Nat) (held : Nat) (s0 : State) : Out :=
  let s := s0.advance t
  let fast := match s.vspd with
    | some v => decide (3 ≤ v)
    | none => false
  .next (if s.mainUp && s.pstate == 3 && fast && decide (ticksPerS ≤ held) then s.raise Flt.PARK_MOTION_ENGAGED { stages := 0x100 } else s)

/-- VSPD_HOST_EXPIRED (R362): the host's speed is older than 200 ms. -/
def execVspdHostExpired (t : Nat) (s0 : State) : Out :=
  let s := s0.advance t
  match s.park.hostAt with
  | some x => if s.mainUp && s.elapsed x (200 * ticksPerMs) then .next (({ s with park := { s.park with hostAt := none } }).showVspd) else .next s
  | none => .next s

/-- The phase currents of an actuator's period: from three or two valid shunt words, the third of a pair the negative of their sum; none in a period without current (R352). -/
def State.actAmps (s : State) (park : Bool) : Option (List Rat) :=
  let e := actEngine park
  let c0 := if park then 18 else 15
  let v := fun i => Config.shuntAmps (s.readValue e (c0 + i))
  let ok := fun i => (s.leRead e (0x90 + c0 + i)).toNat % 2 == 1
  match ok 0, ok 1, ok 2 with
  | true, true, true => some [v 0, v 1, v 2]
  | true, true, false => some [v 0, v 1, -(v 0 + v 1)]
  | true, false, true => some [v 0, -(v 0 + v 2), v 2]
  | false, true, true => some [-(v 1 + v 2), v 1, v 2]
  | _, _, _ => none

/-- The part of a sector that the rotor has covered since its last edge at the speed of the last two, held at its end; none without two edges since the motion began, or 50 ms after the last (R349). -/
def State.hallRun (s : State) (a : Act) : Option Rat :=
  match a.edges with
  | t1 :: t0 :: _ => if s.elapsed t1 (50 * ticksPerMs + 1) then none else some (if t1 ≤ t0 then 1 else minRat 1 (mkRat ((s.now - t1 : Nat) : Int) (t1 - t0)))
  | _ => none

/-- The electrical angle of an actuator in turns: the sector entered and the run into it, or its centre (R349). (Assumption 207 DEDUCED) -/
def State.hallTurn (s : State) (park : Bool) : Rat :=
  let a := s.act park
  let k : Rat := ((hallSector (s.getF (hallField park))).getD 0 : Nat)
  let x : Rat := match s.hallRun a with
    | some r => if a.up then r else 1 - r
    | none => 1 / 2
  (k + x) / 6 + mkRat (s.getF (if park then F.ACT_CFG_HOFS_P else F.ACT_CFG_HOFS_S)) 256

/-- The fork's speed in mm/s from the last two Hall edges. (Assumption 207 DEDUCED) -/
def State.hallSpeed (s : State) : Rat :=
  match s.hallRun s.shift, s.shift.edges with
  | some _, t1 :: t0 :: _ => (if s.shift.up then 1 else -1) * s.getQ F.ACT_HALL_MM * (ticksPerS : Rat) / ((t1 - t0 : Nat) : Rat)
  | _, _ => 0

/-- Profile position now (R354). -/
def State.profPos (s : State) : Rat :=
  let dt : Rat := ((s.now - s.shift.pAt : Nat) : Rat) / (ticksPerS : Rat)
  s.shift.pPos + s.shift.pSpeed * dt + s.shift.pAcc * dt * dt / 2

/-- What the end ramp leaves of the current reference: zero within 10 ms, after a locked rotor within 1 ms (R348, R358). -/
def State.endLeft (s : State) (park : Bool) : Rat :=
  match (s.act park).ending with
  | some x =>
    let span := if (s.act park).locked then ticksPerMs else 10 * ticksPerMs
    maxRat 0 (1 - mkRat ((s.now - x : Nat) : Int) span)
  | none => 1

/-- The q-axis reference of the outer loop before the end ramp: the cascade of the fork, the stop search, the current of the pawl towards its end or held on a tooth (R354, R356, R357, R361). (Assumption 198 DESIGN CHOICE, 208 DESIGN CHOICE) -/
def State.outerLoop (s : State) (park : Bool) : Rat × State :=
  let a := s.act park
  let lim := s.actLimit park
  let home := lim * (s.getF F.ACT_HOME_HOME_PCT : Rat) / 100
  if park then
    (if a.kind = 2 then -home else if a.target = 1 then (if s.pstate = 5 then lim * (s.getF F.ACT_PARK_HOLD_PCT : Rat) / 100 else lim) else -lim, s)
  else
    let bound := if a.kind = 2 then home else lim
    let v := if a.kind = 2 then -(s.getF F.ACT_HOME_HOME_V : Rat) else s.profSpeed + Config.positionGain * (s.profPos - s.forkPos)
    let (r, t) := s.progPi 3 2 (F32.ofRat (v - s.hallSpeed)) (F32.ofRat (-bound)) (F32.ofRat bound) true
    (F32.toRat r, t)

/-- The largest duty that the two lower phases may have so that window placement can move their pulses out of the window (R158, R351). (Assumption 209 DEDUCED) -/
def State.windowRoom (s : State) (park : Bool) (p : Nat) : Rat :=
  let (w0, w1) := s.window (if park then 1 else 0) p
  let h := (s.actHbs park).headD 0
  mkRat (max 0 (min ((w0 : Int) - (s.dtEff (2 * h + 1) : Int)) ((p : Int) - (s.tminpEff h : Int) - (w1 : Int)))) p

/-- The leg voltages for phase voltages: injected, clipped for the window, about half of the supply (R351). (Assumption 209 DEDUCED) -/
def actLegs (room vact : Rat) (v : List Rat) : List Rat :=
  let z := minMaxed v
  let mid := z.sum - z.foldl maxRat (z.headD 0) - z.foldl minRat (z.headD 0)
  let f := if mid ≤ 0 then 1 else clampRat 0 1 ((room - 1 / 2) * vact / mid)
  z.map fun x => f * x + vact / 2

/-- A leg voltage of an actuator is staged: for the feedforward, or as compares where the half-bridge has none (Table 13.1). -/
def State.stageVolt (s : State) (e h p : Nat) (v : Rat) : State :=
  if s.underFf e h then s.stageLeg e h (F32.ofRat v)
  else
    let d := if s.vact ≤ 0 then 0 else v / s.vact
    let off := if d ≤ 0 then 0 else if 1 ≤ d then 0xFFFFFF else (roundRat (d * p)).toNat
    (s.stage e (2 * h) false 0).stage e (2 * h) true (BitVec.ofNat 32 off)

/-- The back-EMF of each phase, e = vleg − R × i − L × di/dt, with R and L in words 0 and 1 of the active bank (R351). (Assumption 104 DEDUCED) -/
def State.backEmf (s : State) (park : Bool) (i : List Rat) (dt : Rat) : List Rat :=
  let a := s.act park
  let r := F32.toRat (s.bankWord (actEngine park) 0)
  let l := F32.toRat (s.bankWord (actEngine park) 1)
  [0, 1, 2].map fun k => a.legs.getD k 0 - r * i.getD k 0 - l * (i.getD k 0 - a.amps.getD k 0) / dt

/-- The signs of back-EMFs above 0.2 V; below it the last sign stays (R351). -/
def emfSigns (old : List Int) (e : List Rat) : List Int :=
  [0, 1, 2].map fun k => let x := e.getD k 0; if 1 / 5 < x then 1 else if x < -(1 / 5) then -1 else old.getD k 0

/-- A back-EMF has crossed zero: a change of sign with more than 0.2 V on both sides (R351). -/
def emfCrossed (old new : List Int) : Bool := [0, 1, 2].any fun k => old.getD k 0 * new.getD k 0 == -1

/-- The weights of the acceleration term of LE3's half-bridges follow the q axis (R216). (Assumption 210 DEDUCED) -/
def State.stageWeights (s : State) (park : Bool) (at_ : Word) : State :=
  if park then s
  else
    let w := toPhases (fromDq (0, 1) at_)
    ((s.actHbs park).zip w).foldl (fun (x : State) p => x.setEng 3 ((x.eng 3).putMem (0x180 + p.1) (F32.ofRat p.2))) s

/-- The current loop of an actuator in a period with current: d to 0, q to the reference of the outer loop; leg voltages and back-EMF (R351). -/
def State.actLoop (s : State) (park : Bool) (i : List Rat) : State :=
  let e := actEngine park
  let p := (s.car (s.leCar e)).eff
  let at_ := turnWord (s.hallTurn park)
  let dq := toDq (clarke (i.getD 0 0) (i.getD 2 0)) at_
  let (r, a) := s.outerLoop park
  let (d, b) := a.bankPi e 0 (F32.ofRat (-dq.1))
  let (q, c) := b.bankPi e 1 (F32.ofRat (r * s.endLeft park - dq.2))
  let legs := actLegs (s.windowRoom park p) s.vact (toPhases (fromDq (F32.toRat d, F32.toRat q) at_))
  let signs := emfSigns (s.act park).emfSign (s.backEmf park i (mkRat p ticksPerS))
  let t := c.setAct park { c.act park with amps := i, legs := legs, emfSign := signs, lastEmf := if emfCrossed (s.act park).emfSign signs then s.now else (s.act park).lastEmf }
  (((s.actHbs park).zip legs).foldl (fun (x : State) y => x.stageVolt e y.1 p y.2) t).stageWeights park at_

/-- What LE10 watches in each slot: the speed interlock, and the end of BLOCKED (R361, R363). -/
def State.watchPawl (s : State) : State :=
  let w := s.showVspd
  let x := if w.pstate = 5 && decide (9 / 10 ≤ w.pawlPos) then ({ w with park := { w.park with spentAt := w.now } }).setF F.ACT_STAT_PSTATE 2 else w
  x.speedAbort

/-- One slot of LE3 or LE10: the current loop of a motion from its period at 0 % on; a period without current holds it and counts towards ACT_WINDOW_LOST; the pawl's interlock and tooth are watched (R351, R352, R361, R363). -/
def State.slotAct (s : State) (park : Bool) : State :=
  let a := s.act park
  let moving := a.kind != 0 && decide (a.startAt ≤ s.now) && (s.actHbs park).any fun h => s.hbMode h == 1
  let i := s.actAmps park
  let n := if moving && i.isNone then a.noCurrent + 1 else 0
  let r := match moving, i with
    | true, some l => s.actLoop park l
    | _, _ => s
  let u := (r.setAct park { r.act park with noCurrent := n }).sampleStage (actStage park)
  let v := if park then u.watchPawl else u
  if 8 ≤ n then (v.actFault park Flt.ACT_WINDOW_LOST).motionCut park else v

/-- An actuator leaves FAULT once the record that put it there is acknowledged (R359). (Assumption 108 DEDUCED) -/
def State.actRelease (s : State) (covered : List Nat) : State :=
  let hit := fun (a : Act) => match a.faultSerial with
    | some k => covered.contains k
    | none => false
  let a := if hit s.shift && s.sstate = 4 then ({ s with shift := { s.shift with faultSerial := none } }).shiftIdle else s
  if hit a.park && a.pstate = 7 then ({ a with park := { a.park with faultSerial := none } }).setF F.ACT_STAT_PSTATE a.restState else a

/-- FAULT_ACK (R281, R359, R412, R415): refused while a covered latch has an active cause; otherwise the covered records are acknowledged, their Slate latches clear and the actuators they hold leave FAULT. (Assumption 108 DEDUCED, 121 DEDUCED) -/
def execFaultAck (r : Req) (s : State) : Out :=
  serveOp { code := 0x0902, lens := [2] } r (fun _ s =>
    let a := r.num 0 2
    if idxNewer a (s.getF F.SLT_LOGIDX_NEWEST) then refuse stBadParam s
    else
      let active := s.gate.latches.filter fun l => s.coversLatch a l && s.causeActive l
      if !active.isEmpty then refuse stTripActive (s.refuseClear active)
      else okWith [] ((s.ackTo a).actRelease (s.coveredSerials a))) s

end Sys2Proof.Machine
end

