-- ==== Sys2Proof/Machine/Thermal.lean ====
section
/-! DEFINITION. Losses, reference temperatures, junction model, derating, die temperature, rainflow and the wear account (R369 to R388, R391). -/

namespace Sys2Proof.Machine

open Sys2Proof

/-- A rational rounded to binary32, as an engine keeps it. -/
def rd (x : Rat) : Rat := F32.toRat (F32.ofRat x)

/-- The stage of a channel; none for a channel without a switch of a stage. -/
def State.chStage (s : State) (ch : Nat) : Option Nat :=
  let st := s.chCode ch / 16
  if st ≤ 8 then some st else none

/-- The used switches of a stage. -/
def State.switchesOf (s : State) (st : Nat) : List Nat := below 64 fun c => s.chStage c == some st

/-- The stages that carry a switch. -/
def State.usedStages (s : State) : List Nat := below 9 fun st => !(s.switchesOf st).isEmpty

/-- The engine that owns a half-bridge, by its high side (R17, R369). -/
def State.hbOwner (s : State) (h : Nat) : Option Nat := match s.owner (2 * h) with
  | some e => some e
  | none => s.owner (2 * h + 1)

/-- The used half-bridges that an engine owns, ascending (R370). -/
def State.ownedHbs (s : State) (e : Nat) : List Nat := below 32 fun h => s.hbUsed h && s.hbOwner h == some e

/-- The energy of one switch in one period, in joules, with VDC as it was in that period (R369). -/
def State.switchEnergy (s : State) (st : Nat) (i ton vdc : Rat) (nsw : Nat) : Rat :=
  let a := absRat i
  (s.getQ (F.THM_STG_V0 st) * a + s.getQ (F.THM_STG_R0 st) * i * i) * ton
    + s.getQ (F.THM_STG_ESW st) * (vdc / s.getQ (F.THM_STG_EVREF st)) * (a / s.getQ (F.THM_STG_EIREF st)) * (nsw : Rat)

/-- A loss power as a loss word carries it: units of 0.1 W, saturating (R370). (Assumption 109 DESIGN CHOICE) -/
def lossUnits (w : Rat) : Nat := min 65535 (roundRat (maxRat w 0 * 10)).toNat

/-- The mean loss of a switch over the window, in W, from the periods that the window overlaps (R369). -/
def State.windowLoss (s : State) (parts : List LossPart) (ch : Nat) : Rat :=
  match s.chStage ch with
  | some st => ((parts.filter fun p => p.ch.val == ch).map fun p => s.switchEnergy st p.amps p.ton p.vdc p.edges * p.share).sum * 10000
  | none => 0

/-- The engines whose Yargan programs publish loss words (R370). -/
def lossEngines : List Nat := [0, 1, 2, 3, 6, 8, 9, 10]

/-- One half-bridge's loss word is published; the two switches' windows are kept for the next model step (R370, R376). -/
def State.publishLoss (s : State) (e slot h : Nat) (parts : List LossPart) : State :=
  let hi := lossUnits (s.windowLoss parts (2 * h))
  let lo := lossUnits (s.windowLoss parts (2 * h + 1))
  let t := s.putLink e (8 + slot) (BitVec.ofNat 32 (hi * 65536 + lo))
  let m := t.thm
  let add := fun (v : Vector Rat 64) (c x : Nat) => vset v c (vget v c 0 + mkRat (x : Int) 10)
  let inc := fun (v : Vector Nat 64) (c : Nat) => vset v c (vget v c 0 + 1)
  { t with thm := { m with lossSum := add (add m.lossSum (2 * h) hi) (2 * h + 1) lo, lossN := inc (inc m.lossN (2 * h)) (2 * h + 1) } }

/-- Every running Yargan engine publishes the mean losses of its first 8 half-bridges (R370). -/
def State.publishLosses (s : State) (parts : List LossPart) : State :=
  (lossEngines.filter fun e => s.leMode e != 0).foldl (fun (x : State) e =>
    let hs := (x.ownedHbs e).take 8
    (List.range hs.length).foldl (fun y k => y.publishLoss e k (hs.getD k 0) parts) x) s

/-- Loss windows ended since the boot: 640,000 fine ticks of Batten time each, aligned to multiples of 640,000 (R369). -/
def State.lossEnded (s : State) : Nat := s.battenTime / 640000

/-- The loss window published now: the next one, or the oldest that is still within 400 µs of its end (R370). (Assumption 233 DEDUCED) -/
def State.lossDue (s : State) : Nat := max (s.thm.lossWin + 1) ((s.battenTime - 2560000 + 639999) / 640000)

/-- LOSS_WINDOW_END (R369, R370): once a window has ended, every running Yargan engine publishes the mean losses of its first 8 half-bridges over it. -/
def execLossWindowEnd (t : Nat) (parts : List LossPart) (s0 : State) : Out :=
  let s := s0.advance t
  .next (if s.mainUp && decide (s.lossDue ≤ s.lossEnded) then { s with thm := { s.thm with lossWin := s.lossDue } }.publishLosses parts else s)

/-- The loss word of a half-bridge and the instant it was written. -/
def State.lossWord (s : State) (h : Nat) : LinkWord :=
  match s.hbOwner h with
  | some e => match (s.ownedHbs e).findIdx? fun k => k == h with
    | some n => if n < 8 then vget (s.eng e).links (8 + n) {} else {}
    | none => {}
  | none => {}

/-- The loss of a switch for a model step: the mean of the windows since the last step, otherwise the last word received (R371, R376). -/
def State.stepLoss (s : State) (ch : Nat) : Rat :=
  let n := vget s.thm.lossN ch 0
  if n ≠ 0 then vget s.thm.lossSum ch 0 / (n : Rat)
  else
    let w := (s.lossWord (ch / 2)).value.toNat
    mkRat ((if ch % 2 = 0 then w / 65536 else w % 65536 : Nat) : Int) 10

/-- The loss window in which a half-bridge's loss word was last written. -/
def State.lossWordWin (s : State) (h : Nat) : Option Nat := (s.lossWord h).time.map fun x => (x - s.pwr.battenBase) / 640000

/-- A half-bridge has switched for 10 windows in a row without a fresh loss word (R371). (Assumption 111 DEDUCED) -/
def State.lossMissing (s : State) (h : Nat) : Bool :=
  match vget s.thm.lossOn h none with
  | some w => decide (max w ((s.lossWordWin h).getD w) + 10 ≤ s.lossEnded)
  | none => false

/-- A loss word of a half-bridge has come within the last 10 windows (R371). -/
def State.lossFresh (s : State) (h : Nat) : Bool :=
  match s.lossWordWin h with
  | some w => decide (s.lossEnded < w + 10)
  | none => false

/-- One half-bridge's loss words: THM_LOSS_MISSING is recorded once, and its stage is held until a fresh word arrives, whether or not it still switches (R371). -/
def State.watchHbLoss (s : State) (h : Nat) : State :=
  let on := s.hbUsed h && s.hbMode h != 0 && decide (s.hbCode h / 16 ≤ 8)
  let x := { s with thm := { s.thm with lossOn := vset s.thm.lossOn h (sinceIf on (vget s.thm.lossOn h none) s.lossEnded) } }
  let was := bitAt x.thm.lossHeld h
  if x.lossMissing h && !was then
    ({ x with thm := { x.thm with lossHeld := setBitN x.thm.lossHeld h true } }).raise Flt.THM_LOSS_MISSING { stages := x.stageMask h, item := h }
  else if was && x.lossFresh h then { x with thm := { x.thm with lossHeld := setBitN x.thm.lossHeld h false } }
  else x

/-- The loss words of every half-bridge, once per slot of LE11 (R371). -/
def State.watchLoss (s : State) : State := (List.range 32).foldl (fun (x : State) h => x.watchHbLoss h) s

/-- A stage with a half-bridge whose loss words are missing. -/
def State.lossHeldStage (s : State) (st : Nat) : Bool := (s.hbsOf st).any fun h => bitAt s.thm.lossHeld h

/-- An NTC reading in °C, none where the voltage is invalid (R372). -/
def State.ntcTemp (s : State) (code : Nat) : Option Rat :=
  let v := mkRat ((code : Int) * 3125) (1000 * 2 ^ 24)
  if v < 2 / 100 ∨ 245 / 100 < v then none
  else
    let r := s.getQ F.THM_RPU * v / (5 / 2 - v)
    some (1 / (20 / 5963 + Config.lnF (r / s.getQ F.THM_R26) / (s.getF F.THM_NTCCFG_B : Rat)) - 27315 / 100)

/-- An NTC as the model keeps it. -/
def State.ntc (s : State) (j : Nat) : Ntc := vget s.thm.ntc j {}
def State.setNtc (s : State) (j : Nat) (n : Ntc) : State := { s with thm := { s.thm with ntc := vset s.thm.ntc j n } }

/-- A sensor has been declared broken. (Assumption 111 DEDUCED) -/
def State.ntcBroken (s : State) (j : Nat) : Bool := s.bit F.THM_DERATE_BROKEN j

/-- Coolant temperature Tc: the host's, at most 2 s old, otherwise the lowest current reading of the sound sensors, otherwise as it was (R373). -/
def State.coolant (s : State) : Rat :=
  let host := match s.thm.tcoolAt with
    | some x => !s.elapsed x (2 * ticksPerS)
    | none => false
  if host then s.getQ F.THM_TCOOL
  else
    let l := (below 6 fun j => !s.ntcBroken j && (s.ntc j).seen && !(s.ntc j).missing).map fun j => (s.ntc j).last
    match l with
    | [] => s.thm.tc
    | x :: rest => rest.foldl minRat x

/-- The model of an NTC: Tc and the lagged rise (R373). -/
def State.ntcModel (s : State) (j : Nat) : Rat := s.thm.tc + (s.ntc j).rise

/-- The temperature of an NTC in use: its reading, bridged while missing, or its model once broken (R374, R375). (Assumption 110 DEDUCED) -/
def State.ntcUse (s : State) (j : Nat) : Rat :=
  let n := s.ntc j
  if s.ntcBroken j then s.ntcModel j
  else if n.seen && !n.missing then n.last
  else if n.seen then n.last + (s.ntcModel j - n.modelAtLast)
  else s.ntcModel j

/-- A reading of an NTC is missing (R374). -/
def State.ntcMiss (s : State) (j : Nat) : State := s.setNtc j { s.ntc j with missing := true }

/-- A word of an NTC channel, as LE11 and the SP take it; a valid reading at or below NTCMAX ends an over-temperature that the SP has recorded (R372, R374, R381). -/
def State.takeNtc (s : State) (j code flags : Nat) : State :=
  let sound := flags % 4 == 1
  match (if sound then s.ntcTemp code else none) with
  | some t =>
    let a := s.setNtc j { s.ntc j with seen := true, last := t, modelAtLast := s.ntcModel j, lastAt := s.now, missing := false }
    if t ≤ (s.getF F.THM_NTCCFG_NTCMAX : Rat) then { a with thm := { a.thm with ntcDone := setBitN a.thm.ntcDone j false } } else a
  | none => s.ntcMiss j

/-- The die temperature in °C. -/
def State.dieC (s : State) : Rat := mkRat (signExt 16 (s.getF F.THM_STAT_DIE_T)) 10

/-- The reference temperature of a stage (R373, R375). -/
def State.refTemp (s : State) (st : Nat) : Rat :=
  let r := s.getF (F.THM_STG_LIM_REFNTC st)
  if r < 6 then s.ntcUse r else if s.thm.dieFault then s.thm.tc else s.dieC

/-- The effective junction limit: 5 K lower behind a broken sensor (R375). -/
def State.limEff (s : State) (st : Nat) : Rat :=
  let l : Rat := (s.getF (F.THM_STG_LIM_TJLIM st) : Rat)
  let r := s.getF (F.THM_STG_LIM_REFNTC st)
  if r < 6 && s.ntcBroken r then l - 5 else l

/-- Foster elements of a stage: resistance and time constant. (Assumption 110 DEDUCED) -/
def State.foster (s : State) (st : Nat) : List (Rat × Rat) :=
  [(s.getQ (F.THM_STG_RTH1 st), s.getQ (F.THM_STG_TAU1 st)), (s.getQ (F.THM_STG_RTH2 st), s.getQ (F.THM_STG_TAU2 st)),
   (s.getQ (F.THM_STG_RTH3 st), s.getQ (F.THM_STG_TAU3 st)), (s.getQ (F.THM_STG_RTH4 st), s.getQ (F.THM_STG_TAU4 st))]

/-- One lag of a Foster element or of an NTC model over dt seconds (R373, R376). (Assumption 110 DEDUCED) -/
def lag (z r tau p dt : Rat) : Rat :=
  let a := rd (Config.expF (-dt / tau))
  rd (a * z + (1 - a) * r * p)

/-- The junction estimate of one switch, once per model step (R376). -/
def State.stepSwitch (s : State) (st ch : Nat) (dt : Rat) : State :=
  let p := s.stepLoss ch
  let old := vget s.thm.z ch []
  let fs := s.foster st
  let zs := (List.range 4).map fun k =>
    let (r, tau) := fs.getD k (0, 0)
    let z := old.getD k 0
    if r = 0 then z else lag z r tau p dt
  let tj := (List.range 4).foldl (fun acc k => if (fs.getD k (0, 0)).1 = 0 then acc else rd (acc + zs.getD k 0)) (s.refTemp st)
  ({ s with thm := { s.thm with z := vset s.thm.z ch zs } }).setQ (F.THM_TJ ch) tj

/-- The loss of all switches of the stages referred to an NTC. -/
def State.ntcLoss (s : State) (j : Nat) : Rat :=
  ((s.usedStages.filter fun st => s.getF (F.THM_STG_LIM_REFNTC st) == j).map fun st => ((s.switchesOf st).map fun c => s.stepLoss c).sum).sum

/-- The NTC models step with the gain and lag of the lowest stage referred to each (R373). (Assumption 110 DEDUCED) -/
def State.stepNtcs (s : State) (dt : Rat) : State :=
  (List.range 6).foldl (fun (x : State) j =>
    match (below 9 fun st => x.getF (F.THM_STG_LIM_REFNTC st) == j).head? with
    | some st =>
      let n := x.ntc j
      let g := x.getQ (F.THM_STG_RNTC st)
      let y := if g = 0 then x else x.setNtc j { n with rise := lag n.rise g (x.getQ (F.THM_STG_TAUNTC st)) (x.ntcLoss j) dt }
      y.setQ (F.THM_NTCT j) (y.ntcUse j)
    | none => x.setQ (F.THM_NTCT j) (x.ntcUse j)) s

/-- The highest estimate of a list of switches, none for none. -/
def State.hottest (s : State) (chs : List Nat) : Option Rat :=
  match chs.map fun c => s.getQ (F.THM_TJ c) with
  | [] => none
  | x :: rest => some (rest.foldl maxRat x)

/-- The thermal factor of a temperature under a stage's limit and band (R378). -/
def State.factor (s : State) (st : Nat) (tj : Rat) : Rat :=
  clampRat 0 1 ((s.limEff st - tj) / (s.getF (F.THM_STG_LIM_DERATE_K st) : Rat))

/-- The factor of a stage; 1 for a stage without switches, at most 0.5 while its loss words are missing (R371, R378). -/
def State.stageFactor (s : State) (st : Nat) : Rat :=
  let k := match s.hottest (s.switchesOf st) with
    | some t => s.factor st t
    | none => 1
  if s.lossHeldStage st then minRat k (1 / 2) else k

/-- The factor of a buck phase (R378). -/
def State.kPhase (s : State) (p : Nat) : Rat :=
  match s.phaseHb p with
  | some h =>
    let k := s.factor 6 (s.hbTj h)
    if s.lossHeldStage 6 then minRat k (1 / 2) else k
  | none => 1

/-- k_p as link words carry it: k_p × 65,535, rounded down (R378). -/
def kUnits (k : Rat) : Nat := floorNat (k * 65535)

/-- The factors are worked out, published in LE11's link words 0 to 12, shown, and in force (R378, R379). -/
def State.publishFactors (s : State) : State :=
  let ks := (List.range 9).map fun st => rd (s.stageFactor st)
  let ps := (List.range 8).map fun p => rd (s.kPhase p)
  let a := (List.range 9).foldl (fun (x : State) st => (x.setQ (F.THM_KFAC st) (ks.getD st 1)).putLink 11 st (F32.ofRat (ks.getD st 1))) s
  let b := (List.range 8).foldl (fun (x : State) p => x.setQ (F.THM_KPH p) (ps.getD p 1)) a
  let c := (List.range 4).foldl (fun (x : State) w => x.putLink 11 (9 + w) (BitVec.ofNat 32 (kUnits (ps.getD (2 * w) 1) * 65536 + kUnits (ps.getD (2 * w + 1) 1)))) b
  { c with thm := { c.thm with k := Vector.ofFn fun i => ks.getD i.val 1, kp := Vector.ofFn fun i => ps.getD i.val 1 } }

/-- The derating flags follow the factors; each rise is recorded (R378). -/
def State.derateFlags (s : State) : State :=
  let set := fun st => if st = 6 then (bitsList 8 s.availPhases).any fun p => decide (s.getQ (F.THM_KPH p) < 1) else decide (s.getQ (F.THM_KFAC st) < 1)
  let old := s.getF F.THM_DERATE_FLAGS
  let new := maskOf (below 9 set)
  let t := s.setF F.THM_DERATE_FLAGS new
  let u := if new = old then t else (List.range 16).foldl (fun (x : State) e => x.leDwell e) t
  ((bitsList 9 new).filter fun st => !bitAt old st).foldl (fun (x : State) st => (x.event F.THM_EVT_DERATE).raise Flt.THM_DERATE { stages := 2 ^ st }) u

/-- The model changes its rate: 10 kHz within 15 K of a limit, back to 1 kHz after 1 s more than 20 K below every limit (R377). -/
def State.modelRate (s : State) : State :=
  let gaps := s.usedStages.filterMap fun st => (s.hottest (s.switchesOf st)).map fun t => s.limEff st - t
  let near := gaps.any fun g => decide (g ≤ 15)
  let cool := gaps.all fun g => decide (20 < g)
  let a := { s with thm := { s.thm with coolSince := sinceIf cool s.thm.coolSince s.now } }
  if near then (a.setB F.THM_STAT_FAST true).setAlt 11 true
  else match a.thm.coolSince with
    | some x => if a.elapsed x ticksPerS then (a.setB F.THM_STAT_FAST false).setAlt 11 false else a
    | none => a

/-- Four-point rainflow on turning points, newest first: cycles closed, range and peak, and what is left (R385). -/
def rainClose : Nat → List Rat → List (Rat × Rat) × List Rat
  | 0, l => ([], l)
  | n + 1, d :: c :: b :: a :: rest =>
    let inner := absRat (c - b)
    if inner ≤ absRat (b - a) ∧ inner ≤ absRat (d - c) then
      let (out, left) := rainClose n (d :: a :: rest)
      ((inner, maxRat b c) :: out, left)
    else ([], d :: c :: b :: a :: rest)
  | _ + 1, l => ([], l)

/-- Turning points with a new estimate taken in: the newest point moves on in its direction, and a reversal counts only beyond the hysteresis (R385). -/
def turnPoint (hyst : Rat) (pts : List Rat) (x : Rat) : List Rat :=
  match pts with
  | [] => [x]
  | [a] => if absRat (x - a) ≤ hyst then [a] else [x, a]
  | b :: a :: rest =>
    if decide (a < b) = decide (b < x) && b ≠ x then x :: a :: rest
    else if absRat (x - b) ≤ hyst then b :: a :: rest
    else x :: b :: a :: rest

/-- The turning points taken in again from the oldest on: as many cycles close as there is room for, those held back by a full queue among them (R385, R386). -/
def rainScan : Nat → List Rat → List Rat → List (Rat × Rat) × List Rat
  | _, kept, [] => ([], kept)
  | room, kept, p :: rest =>
    let (out, left) := rainClose room (p :: kept)
    let (more, end_) := rainScan (room - out.length) left rest
    (out ++ more, end_)

/-- A counted cycle as the word of R386; a range below RF_MIN is no cycle. (Assumption 109 DESIGN CHOICE) -/
def State.cycleWord (s : State) (st ch : Nat) (half : Bool) (range top : Rat) : Option Word :=
  let r := (roundRat (range * 10)).toNat
  if range * 10 < (s.getF (F.THM_STG_RF_RF_MIN st) : Rat) || r = 0 then none
  else some (BitVec.ofNat 32 (ch + (if half then 64 else 0) + min r 4095 * 2 ^ 7 + (clampInt 0 8191 (roundRat ((top + 50) * 10))).toNat * 2 ^ 19))

/-- Rainflow of one switch with the present estimate; while the queue is full no cycle closes (R385, R386). (Assumption 112 DEDUCED) -/
def State.rainStep (s : State) (st ch : Nat) : State :=
  let pts := turnPoint (mkRat (s.getF (F.THM_STG_RF_RF_HYST st)) 10) (vget s.thm.rain ch {}).points (s.getQ (F.THM_TJ ch))
  let (closed, left) := rainScan (256 - s.thm.cycles.length) [] pts.reverse
  let ws := closed.filterMap fun c => s.cycleWord st ch false c.1 c.2
  { s with thm := { s.thm with rain := vset s.thm.rain ch { vget s.thm.rain ch {} with points := left }, cycles := s.thm.cycles ++ ws } }

/-- The ranges left in the residue of a switch, newest first. -/
def residue : List Rat → List (Rat × Rat)
  | a :: b :: rest => (absRat (a - b), maxRat a b) :: residue (b :: rest)
  | _ => []

/-- Half cycles of an ended run enter the queue as it has room (R386). -/
def State.rainDue (s : State) (ch : Nat) : State :=
  let r := vget s.thm.rain ch {}
  let room := 256 - s.thm.cycles.length
  { s with thm := { s.thm with rain := vset s.thm.rain ch { r with due := r.due.drop room }, cycles := s.thm.cycles ++ r.due.take room } }

/-- A stage has stopped switching: every range left counts as a half cycle, the oldest first, and the residue is cleared (R385). -/
def State.rainEnd (s : State) (st : Nat) : State :=
  let t := (s.switchesOf st).foldl (fun (x : State) c =>
    let r := vget x.thm.rain c {}
    let ws := (residue r.points).reverse.filterMap fun p => x.cycleWord st c true p.1 p.2
    ({ x with thm := { x.thm with rain := vset x.thm.rain c { points := [], due := r.due ++ ws } } }).rainDue c) s
  { t with thm := { t.thm with runEnded := true } }

/-- Rainflow of every used switch at 1 kHz, and the ends of runs; the slot's own rate says which estimates count (R385). -/
def State.rainAll (s0 : State) (fast : Bool) : State :=
  let s := s0.usedStages.foldl (fun (x : State) st => (x.switchesOf st).foldl (fun y c => y.rainDue c) x) s0
  let n := if fast then s.thm.tenth + 1 else 0
  let a := { s with thm := { s.thm with tenth := n % 10 } }
  let b := if fast && n % 10 != 0 then a else a.usedStages.foldl (fun (x : State) st => (x.switchesOf st).foldl (fun y c => y.rainStep st c) x) a
  let on := maskOf (below 9 fun st => b.switching st)
  let ended := (bitsList 9 b.thm.wasOn).filter fun st => !bitAt on st
  let c := ended.foldl (fun x st => x.rainEnd st) b
  { c with thm := { c.thm with wasOn := on } }

/-- LE11's step of the hand-over: up to two words while LE12 has taken the last ones (R386). -/
def State.handOver (s : State) : State :=
  if s.linkWord 12 0 != s.linkWord 11 15 then s
  else
    let l := s.thm.cycles
    let n := min 2 l.length
    let a := (s.putLink 11 13 (l.getD 0 0)).putLink 11 14 (l.getD 1 0)
    let b := { a with thm := { a.thm with cycles := l.drop n } }
    b.putLink 11 15 (b.linkWord 11 15 + BitVec.ofNat 32 n)

/-- The damage of a counted cycle (R385). -/
def State.damage (s : State) (st : Nat) (w range top : Rat) : Rat :=
  let a := s.getQ (F.THM_STG_LIFE_A st)
  if a = 0 then 0
  else w / (a * Config.powF range (-(s.getQ (F.THM_STG_LIFE_N st))) * Config.expF (s.getQ (F.THM_STG_LIFE_Q st) / (top + 27315 / 100)))

/-- LE12 adds one counted cycle to the account of its switch (R385, R386). -/
def State.addCycle (s : State) (w : Word) : State :=
  let n := w.toNat
  let ch := n % 64
  let half := bitAt n 6
  match s.chStage ch with
  | some st =>
    if n = 0 then s
    else
      let range := mkRat (bitsOf n 18 7 : Nat) 10
      let top := mkRat (bitsOf n 31 19 : Nat) 10 - 50
      let l := vget s.thm.life ch 0 + s.damage st (if half then 1 / 2 else 1) range top
      let t := { s with thm := { s.thm with life := vset s.thm.life ch l, dirty := if s.thm.dirty.contains ch then s.thm.dirty else ch :: s.thm.dirty } }
      (t.setQ (F.THM_LIFE ch) l).setF (F.THM_CYC ch) (satAdd 32 (t.getF (F.THM_CYC ch)) (if half then 1 else 2))
  | none => s

/-- LE12's step of the hand-over at one of its wakes (R386). -/
def State.takeCycles (s : State) : State :=
  let w := s.linkWord 11 15
  let n := (w - s.linkWord 12 0).toNat
  if n = 0 then s
  else
    let a := s.addCycle (s.linkWord 11 13)
    let b := if n = 1 then a else a.addCycle (s.linkWord 11 14)
    b.putLink 12 0 w

/-- Marks of judged over-temperatures end with them (R380). -/
def State.clearJudged (s : State) : State :=
  let above := maskOf ((bitsList 64 s.thm.overDone).filter fun c => match s.chStage c with
    | some st => decide (s.tjLim st + (s.getF (F.THM_STG_LIM_OT_K st) : Rat) ≤ s.getQ (F.THM_TJ c))
    | none => false)
  { s with thm := { s.thm with overDone := above } }

/-- One slot of LE11: the model step, the care of the buck phases, the factors, the rate, rainflow and the hand-over (R336, R337, R373 to R378, R382, R385, R386). (Assumption 113 DESIGN CHOICE) -/
def State.slotLE11 (s : State) : State :=
  let fast := s.getB F.THM_STAT_FAST
  let dt : Rat := if fast then 1 / 10000 else 1 / 1000
  let a := (s.watchLoss)
  let b := { a with thm := { a.thm with tc := a.coolant, slotAt := a.now, lost := false } }.setB F.THM_STAT_MODEL_OK true
  let c := b.stepNtcs dt
  let d := (List.range 9).foldl (fun (x : State) st => x.setQ (F.THM_STG_TJLIM_EFF st) (x.limEff st)) c
  let e := d.usedStages.foldl (fun (x : State) st => (x.switchesOf st).foldl (fun y ch => y.stepSwitch st ch dt) x) d
  let f := { e with thm := { e.thm with lossSum := Vector.replicate 64 0, lossN := Vector.replicate 64 0 } }
  ((((f.phaseCare.publishFactors).derateFlags).modelRate).rainAll fast).handOver.clearJudged

/-- A sensor is broken (R375). -/
def State.breakNtc (s : State) (j : Nat) : State :=
  ((s.setBit F.THM_DERATE_BROKEN j true).event F.THM_EVT_BROKEN).raise Flt.THM_SENSOR_BROKEN { item := j }

/-- The residual of a sensor: its reading minus its model. -/
def State.residual (s : State) (j : Nat) : Rat := (s.ntc j).last - s.ntcModel j

/-- A sensor has been missing for 1 s. -/
def State.ntcGone (s : State) (j : Nat) : Bool :=
  s.elapsed (max (s.ntc j).lastAt s.pwr.battenBase) ticksPerS && ((s.ntc j).missing || !(s.ntc j).seen || s.elapsed (s.ntc j).lastAt ticksPerS)

/-- A sensor's residual is above 10 K and parts from its neighbour's by more than 10 K, or the neighbour is broken (R374). -/
def State.ntcOdd (s : State) (j : Nat) : Bool :=
  let k := if j % 2 = 0 then j + 1 else j - 1
  decide (10 < absRat (s.residual j)) && (s.ntcBroken k || decide (10 < absRat (s.residual j - s.residual k))) && (s.ntc j).seen

/-- THM_SENSOR_BROKEN (R374, R375): missing for 1 s, or a residual above 10 K that parts from the neighbour's for 1 s. -/
def execThmSensorBroken (t : Nat) (n : Fin 6) (held : Nat) (s0 : State) : Out :=
  let s := s0.advance t
  if s.mainUp && !s.ntcBroken n && (s.ntcGone n || (s.ntcOdd n && decide (ticksPerS ≤ held))) then .next (s.breakNtc n) else .next s

/-- Throttling is entered (R383). (Assumption 111 DEDUCED) -/
def State.throttle (s : State) : State :=
  if s.getB F.THM_STAT_THROTTLE then s
  else (((s.setB F.THM_STAT_THROTTLE true).event F.THM_EVT_THROTTLE).bump F.THM_CNT_THROTTLES).raise Flt.THM_THROTTLE {}

/-- A wear save reaches MRAM. (Assumption 114 DEDUCED) -/
def State.saveNow (s : State) (ch : Nat) : State :=
  { s with thm := { s.thm with saved := vset s.thm.saved ch (vget s.thm.life ch 0), savedCyc := vset s.thm.savedCyc ch (s.getF (F.THM_CYC ch)) } }

/-- The MRAM inhibit ends: the queue is written in order (R384). (Assumption 114 DEDUCED) -/
def State.endInhibit (s : State) : State :=
  if !s.getB F.THM_STAT_MRAM_INH then s
  else
    let q := s.log.queue
    let a := (s.setB F.THM_STAT_MRAM_INH false).setQueue []
    let b := (q.filter fun i => i.kind == 1).foldl (fun (x : State) i => x.saveNow i.key) a
    let c := { b with log := { b.log with lostRec := 0 } }
    if s.log.lostRec = 2 then c.logPut (c.faultRec Flt.THM_LOG_LOST {} c.nextIdx) else c

/-- THM_DIE_SENSOR (R375): no valid die-temperature word for 10 ms. Throttling applies, the MRAM inhibit does not. -/
def execThmDieSensor (t : Nat) (s0 : State) : Out :=
  let s := s0.advance t
  if s.mainUp && !s.thm.dieFault && s.elapsed (max s.thm.dieAt s.pwr.battenBase) (10 * ticksPerMs) then
    .next (((({ s with thm := { s.thm with dieFault := true } }).raise Flt.THM_DIE_SENSOR {}).throttle).endInhibit)
  else .next s

/-- Every die-temperature word is compared with the gates (R383, Table 14.2); the temperature is in 0.1 °C. -/
def State.dieWord (s : State) (t : Int) (valid : Bool) : State :=
  if !valid then s
  else
    let a := ({ s with thm := { s.thm with dieAt := s.now, dieFault := false, throttleAt := sinceIf (decide (t < 1300)) s.thm.throttleAt s.now, inhibitAt := sinceIf (decide (t < 1400)) s.thm.inhibitAt s.now } }).setF F.THM_STAT_DIE_T (toBits 16 t)
    let b := if 1350 ≤ t then a.throttle else a
    if 1450 ≤ t && !b.getB F.THM_STAT_MRAM_INH then ((b.setB F.THM_STAT_MRAM_INH true).event F.THM_EVT_INHIBIT).raise Flt.THM_MRAM_INHIBIT {} else b

/-- THROTTLE_END (R383): the die has stayed below 130 °C for 1 s. -/
def execThrottleEnd (t : Nat) (s0 : State) : Out :=
  let s := s0.advance t
  match s.thm.throttleAt with
  | some x => .next (if s.mainUp && !s.thm.dieFault && s.elapsed x ticksPerS then s.setB F.THM_STAT_THROTTLE false else s)
  | none => .next s

/-- MRAM_INHIBIT_END (R383, R384): the die has stayed below 140 °C for 1 s; the queue is written. -/
def execMramInhibitEnd (t : Nat) (s0 : State) : Out :=
  let s := s0.advance t
  match s.thm.inhibitAt with
  | some x => .next (if s.mainUp && s.elapsed x ticksPerS then s.endInhibit else s)
  | none => .next s

/-- THM_OVERTEMP (R380): a switch's estimate has stayed at or above TJLIM_EFF + OT_K for 10 ms. On a traction set it belongs to the drive (R259). -/
def execThmOvertemp (t : Nat) (n : Fin 64) (held : Nat) (s0 : State) : Out :=
  let s := s0.advance t
  match s.chStage n with
  | some st =>
    let lim := s.tjLim st + (s.getF (F.THM_STG_LIM_OT_K st) : Rat)
    if s.mainUp && decide (lim ≤ s.getQ (F.THM_TJ n)) && decide (10 * ticksPerMs ≤ held) && !bitAt s.thm.overDone n then
      .next ((({ s with thm := { s.thm with overDone := setBitN s.thm.overDone n true } }).event F.THM_EVT_OVERTEMP).raise Flt.THM_OVERTEMP { stages := if st ≤ 1 then 3 else 2 ^ st, item := n })
    else .next s
  | none => .next s

/-- THM_NTC_OVER (R381): a valid reading of an unbroken sensor has stayed above NTCMAX for 100 ms, for every stage referred to it. -/
def execThmNtcOver (t : Nat) (n : Fin 6) (held : Nat) (s0 : State) : Out :=
  let s := s0.advance t
  let x := s.ntc n
  let sts := s.usedStages.filter fun st => s.getF (F.THM_STG_LIM_REFNTC st) == n.val
  if s.mainUp && !s.ntcBroken n && x.seen && !x.missing && decide ((s.getF F.THM_NTCCFG_NTCMAX : Rat) < x.last) && decide (100 * ticksPerMs ≤ held) && !bitAt s.thm.ntcDone n then
    .next ((({ s with thm := { s.thm with ntcDone := setBitN s.thm.ntcDone n true } }).event F.THM_EVT_OVERTEMP).raise Flt.THM_NTC_OVER { stages := maskOf sts, item := n })
  else .next s

/-- The model is lost: each factor in force is the lower of its last value and 0.5 (R382). -/
def State.modelLost (s : State) : State :=
  let cap := fun (x : Rat) => minRat x (1 / 2)
  (({ s with thm := { s.thm with lost := true, k := s.thm.k.map cap, kp := s.thm.kp.map cap } }).setB F.THM_STAT_MODEL_OK false).raise Flt.THM_MODEL_LOST {}

/-- THM_MODEL_LOST (R382): LE11 has completed no slot for 20 ms, or has halted. Each factor in force is the lower of its last value and 0.5. -/
def execThmModelLost (t : Nat) (s0 : State) : Out :=
  let s := s0.advance t
  let halted := s.getB (F.LE_MODE_HALTED 11)
  if s.mainUp && !s.thm.lost && (halted || s.elapsed (max s.thm.slotAt s.pwr.battenBase) (20 * ticksPerMs)) then .next s.modelLost else .next s

/-- L of a switch. -/
def State.lifeOf (s : State) (ch : Nat) : Rat := vget s.thm.life ch 0

/-- END_OF_SPARE of one switch, once (R388). -/
def State.endOfSpare (s : State) (st ch : Nat) : State :=
  if bitAt s.thm.eosDone ch then s
  else
    let a := ({ s with thm := { s.thm with eosDone := setBitN s.thm.eosDone ch true } }).setBit F.THM_SPARE_EOS st true
    let b := (a.event F.THM_EVT_EOS).raise Flt.END_OF_SPARE { stages := 2 ^ st, item := ch }
    if st = 6 then b.setB F.AUX_STAT_NOSPARE true else b

/-- A stage without spare is retired (R388). (Assumption 112 DEDUCED) -/
def State.retireStage (s : State) (st : Nat) : State :=
  if s.bit F.THM_SPARE_RETIRED st then s
  else ((s.setBit F.THM_SPARE_RETIRED st true).event F.THM_EVT_RETIRE).raise Flt.THM_STAGE_RETIRED { stages := 2 ^ st }

/-- Spare rules of a traction set (Table 14.3, R262). -/
def State.spareSet (s : State) (k : Nat) : State :=
  let chs := s.switchesOf k
  let a := (chs.filter fun c => decide (9 / 10 < s.lifeOf c)).foldl (fun x c => x.endOfSpare k c) s
  if (chs.any fun c => decide (1 ≤ a.lifeOf c)) && !a.setRetired k then ((a.setBit F.THM_SPARE_RETIRED k true).event F.THM_EVT_RETIRE).retireSet k else a

/-- L of a buck phase: the higher of its two switches (R338). -/
def State.phaseLife (s : State) (p : Nat) : Rat := match s.phaseHb p with
  | some h => maxRat (s.lifeOf (2 * h)) (s.lifeOf (2 * h + 1))
  | none => 0

/-- Phases by falling L, the lower channel first where equal (R388). -/
def State.phaseOrder (s : State) : List Nat :=
  (List.range 8).mergeSort fun a b => decide (s.phaseLife b < s.phaseLife a) || (decide (s.phaseLife b = s.phaseLife a) && decide ((s.phaseHb a).getD 32 ≤ (s.phaseHb b).getD 32))

/-- The phases that no retirement takes: those available, less those that leave now or with the next start. -/
def State.phasesStaying (s : State) : Nat := ((bitsList 8 s.availPhases).filter fun k => !bitAt s.aux.retiring k && !bitAt s.thm.buckDue k).length

/-- Spare rules of one buck phase: retired while more than 6 phases are available, without a spare END_OF_SPARE, and retired at 1.0 in every case (R338, Table 14.3). -/
def State.sparePhase (s : State) (p : Nat) : State :=
  let l := s.phaseLife p
  if bitAt s.thm.buckRetired p || bitAt s.thm.buckDue p || l ≤ 9 / 10 then s
  else if 6 < s.phasesStaying then (s.event F.THM_EVT_RETIRE).retirePhase p
  else
    let a := match s.phaseHb p with
      | some h => ([2 * h, 2 * h + 1].filter fun c => decide (9 / 10 < s.lifeOf c)).foldl (fun x c => x.endOfSpare 6 c) s
      | none => s
    if 1 ≤ l then (a.event F.THM_EVT_RETIRE).retirePhase p else a

/-- Spare rules of the DCX (R338, Table 14.3). -/
def State.spareDcx (s : State) : State :=
  let chs := s.switchesOf 5
  let a := (chs.filter fun c => decide (9 / 10 < s.lifeOf c)).foldl (fun x c => x.endOfSpare 5 c) s
  if (chs.any fun c => decide (1 ≤ a.lifeOf c)) && !a.thm.dcxRetired then
    let b := ((({ a with thm := { a.thm with dcxRetired := true } }).queueRetire 48).setBit F.THM_SPARE_RETIRED 5 true).event F.AUX_EVT_RETIRE
    ((b.event F.THM_EVT_RETIRE).auxStop).raise Flt.AUX_DCX_RETIRED { stages := 0x20 }
  else a

/-- Spare rules of one of two chopper switches (Table 14.3). -/
def State.spareChopper (s : State) (c : Nat) : State :=
  let o := 25 - c
  let l := s.lifeOf c
  let bit := fun n => n - 12
  if bitAt s.thm.chopRetired (bit c) || l ≤ 9 / 10 then s
  else
    let spare := !bitAt s.thm.chopRetired (bit o) && decide (s.lifeOf o ≤ 9 / 10)
    let e := if spare then s else s.endOfSpare 2 c
    let a := if spare || decide (1 ≤ l) then (({ e with thm := { e.thm with chopRetired := setBitN e.thm.chopRetired (bit c) true } }).queueRetire (32 + bit c)).event F.THM_EVT_RETIRE else e
    if a.thm.chopRetired = 3 then a.retireStage 2 else a

/-- Spare rules of a stage without spare (Table 14.3). -/
def State.spareStage (s : State) (st : Nat) : State :=
  let chs := s.switchesOf st
  let a := (chs.filter fun c => decide (9 / 10 < s.lifeOf c)).foldl (fun x c => x.endOfSpare st c) s
  if chs.any fun c => decide (1 ≤ a.lifeOf c) then a.retireStage st else a

/-- The spare rules at a save (R387, R388, Table 14.3); of two chopper switches the one with the higher L comes first. (Assumption 112 DEDUCED) -/
def State.spareRules (s : State) : State :=
  let a := [0, 1].foldl (fun (x : State) k => x.spareSet k) s
  let b := match a.chopperChs with
    | [x, y] => (if a.lifeOf x < a.lifeOf y then [y, x] else [x, y]).foldl (fun (z : State) c => z.spareChopper c) a
    | _ => a.spareStage 2
  let c := [3, 4, 7, 8].foldl (fun (x : State) st => x.spareStage st) b
  c.phaseOrder.foldl (fun (x : State) p => x.sparePhase p) c.spareDcx

/-- The changed accounts are saved, queued under the MRAM inhibit, and the spare rules apply (R384, R387). -/
def State.wearSaves (s : State) : State :=
  let a := s.thm.dirty.foldl (fun (x : State) c =>
    if !x.getB F.THM_STAT_MRAM_INH then x.saveNow c
    else
      let (kept, y) := x.mramPut ⟨1, c, 0, 2⟩ false
      if kept then y else y.logLost) s
  ({ a with thm := { a.thm with dirty := [], saveAt := a.now, runEnded := false } }).spareRules

/-- WEAR_SAVE (R384, R387): every 10 s while an account changes, and at the end of each run of a stage; the spare rules apply at each save. -/
def execWearSave (t : Nat) (s0 : State) : Out :=
  let s := s0.advance t
  if s.mainUp && (s.thm.runEnded || (!s.thm.dirty.isEmpty && s.elapsed s.thm.saveAt (10 * ticksPerS))) then .next s.wearSaves else .next s

/-- A used stage's thermal parameters refuse arming (R376). (Assumption 113 DESIGN CHOICE) -/
def State.thermalUnfit (s : State) : Bool :=
  s.usedStages.any fun st =>
    let r := s.getF (F.THM_STG_LIM_REFNTC st)
    let noRef := if r < 6 then !s.ntcBroken r && !((s.ntc r).seen && !(s.ntc r).missing) else s.thm.dieAt = 0 || s.thm.dieFault
    noRef || !([F.THM_STG_RTH1 st, F.THM_STG_TAU1 st, F.THM_STG_RNTC st, F.THM_STG_TAUNTC st, F.THM_RPU, F.THM_R26].all fun f => posFinite (s.getFl f))
      || (F32.isZero (s.getFl (F.THM_STG_V0 st)) && F32.isZero (s.getFl (F.THM_STG_R0 st)))

end Sys2Proof.Machine
end

