-- ==== Sys2Proof/Machine/Arming.lean ====
section
/-! DEFINITION. Arming and the return to STANDBY (R404 to R407, R413). -/

namespace Sys2Proof.Machine

open Sys2Proof

/-- A binary32 field holds a positive finite number. -/
def State.positive (s : State) (f : Fld) : Bool := F32.isFinite (s.getFl f) && decide (0 < s.getQ f)

/-- Order 1 of Table 15.4 (R130): recovery mode, no loop program set, no valid image. -/
def State.noPrograms (s : State) : Bool :=
  s.getB F.SYS_BOOT_RECOVERY || s.getB F.SYS_BOOT_LOOP_NONE || s.getB F.SYS_BOOT_IMG_DEFAULT || s.idn.booted.isNone

/-- Order 2: a latch is set, or a class A or B record is unacknowledged. -/
def State.armFaults (s : State) : Bool := !s.gate.latches.isEmpty || s.unacked (fun _ => true)

/-- Order 4: a request pair is active or faulted, a pawl-switch pair faulted (R423). -/
def State.armInputs (s : State) : Bool :=
  (below 4 fun p => s.getF (F.SLT_SINMASK_MASK p) != 0 && s.pairUsed p).any fun p =>
    !s.pairSound p || ((p == 0 || p == 3) && !s.pairSafe p)

/-- Order 5: a used island lacks VP, or VN with UVN not 0, or SC_EN is 0 there (R27, R268, R273). (Assumption 88 DEDUCED) -/
def State.armSupplies (s : State) : Bool :=
  (below 32 s.islandUsed).any fun n => !s.supplied n || !s.getB (F.GD_CH_PROT_SC_EN n)

/-- The enabled trip entries. -/
def State.tripEntries (s : State) : List Nat := below 32 fun k => s.getB (F.SLT_TRIP_EN k)

/-- Order 6: a trip-source channel does not run COMP (R169), or a used low-voltage half-bridge is in no enabled entry (R404). -/
def State.armTrips (s : State) : Bool :=
  (s.tripEntries.any fun k => !s.gzComp (s.getF (F.SLT_TRIP_CH k))) ||
    ((below 32 fun h => decide (16 ≤ h) && s.hbUsed h).any fun h => !(s.tripEntries.any fun k => s.bit (F.SLT_TRIP_HBMASK k) h))

/-- The owning engine of a channel cannot serve it: no program, or in STOP (R223). -/
def State.ownerIdle (s : State) (ch : Nat) : Bool :=
  match s.owner ch with
  | some e => !s.leLoaded e || s.leMode e == 0
  | none => false

/-- Order 8 beside the slot budgets: an owner without a running program, or with more than 8 used half-bridges (R223, R370). -/
def State.armOwners (s : State) : Bool :=
  ((below 32 s.hbUsed).any fun h => s.ownerIdle (2 * h) || s.ownerIdle (2 * h + 1)) ||
    (List.range 16).any fun e => decide (8 < (s.ownedHbs e).length)

/-- Order 9: feedforward without a scale (R215). -/
def State.armScales (s : State) : Bool := (List.range 4).any fun e => s.getF (F.LE_FFHB e) != 0 && !s.positive (F.LE_FFSCALE e)

/-- The first order of Table 15.4 whose condition holds; 0 for none. -/
def State.armRefusal (s : State) : Nat :=
  if s.noPrograms then 1
  else if s.armFaults then 2
  else if !s.getB F.GD_STAT_DRVEN then 3
  else if s.armInputs then 4
  else if s.armSupplies then 5
  else if s.armTrips then 6
  else if !s.positive F.SLT_VSCALE || !s.positive F.SLT_ISCALE then 7
  else if s.overBudget.isSome || s.armOwners then 8
  else if s.armScales then 9
  else if s.thermalUnfit then 10
  else 0

/-- A refused arming; LE_WCET is recorded for the first engine over its budget (R199). -/
def State.refuseArming (s : State) (why : Nat) : State :=
  match (if why = 8 then s.overBudget else none) with
  | some e => s.raise Flt.LE_WCET { item := e }
  | none => s

/-- Every safe-state hold ends with the block of every gate (R413). -/
def State.endHolds (s : State) : State :=
  let t := (List.range 9).foldl (fun (x : State) st => x.endHold st) s
  { t with slt := { t.slt with timer := Vector.replicate 9 none, conds := [] } }

/-- The power state becomes STANDBY: every gate blocked, the arming locks open, drive, session and converter ended; a DRIVE_START still listening is answered STATE_REFUSED (Table 3.2, R84, R413, Table 11.7). (Assumption 175 DEDUCED) -/
def State.toStandby (s : State) : State :=
  let a := (List.range 9).foldl (fun (x : State) st => x.stopSwitching st) s
  let b := (a.setB F.SYS_LOCK_ARMED_LOCK false).setB F.SLT_STAT_LOCKED false
  let c := if b.getF F.CHG_STAT_CSTATE = 0 then b else b.chgEnd 6
  let d := if c.getF F.AUX_STAT_ASTATE = 0 then c else c.auxStopped
  let e := { d.setF F.TRC_STAT_DSTATE 0 with trc := { d.trc with sets := 0, start := none, ascSets := 0, ascLeave := 0 } }
  let e := match d.trc.start with
    | some k => e.answer k stStateRefused []
    | none => e
  (e.toPower pSTANDBY 0x01).showModes

/-- SET_STATE ARMED (R405, R406). -/
def State.requestArmed (s : State) : Res :=
  if s.power ≠ pSTANDBY then refuse stStateRefused s
  else if s.slt.arming.isSome then refuse stBusy s
  else
    let why := s.armRefusal
    if why ≠ 0 then refuse stStateRefused (s.refuseArming why)
    else .done stDeferred [] ({ s with slt := { s.slt with arming := some s.now } }.setF F.SLT_STAT_STEST_ERR 0)

/-- SET_STATE STANDBY (R41, R406, R413). -/
def State.requestStandby (s : State) : Res :=
  if s.power = pSTANDBY then
    if s.slt.arming.isSome then okWith [] s.abortArming else refuse stStateRefused s
  else if s.power = pTEST then refuse stStateRefused s
  else if s.anySwitching then refuse stStateRefused s
  else if s.power = pSAFE then
    if s.ascOn 0 || s.ascOn 1 || s.unacked (fun _ => true) || s.getB F.SLT_STAT_SP_LOST then refuse stSafeHeld s
    else okWith [] s.endHolds.toStandby
  else okWith [] s.toStandby

/-- SET_STATE (R405, R413). (Assumption 119 DEDUCED) -/
def execSetState (r : Req) (s : State) : Out :=
  serveOp { code := 0x0003, lens := [1] } r (fun _ s =>
    let st := r.num 0 1
    if st = pARMED then s.requestArmed else if st = pSTANDBY then s.requestStandby else refuse stBadParam s) s

/-- The step of R406 at which the arming sequence fails, 0 for none: the store is checked first, then what the injections and the wrong answer have shown. -/
def State.armStep (s : State) (failed : Nat) : Nat := if s.storeOk then failed else 1

/-- ARMING_COMPLETE (R395, R406, R118): the sequence ends, in ARMED with the RWL fields locked, or in STANDBY with the failed step named; a store that fails its check is SLT_LIMIT_CORRUPT, whose class B ends the sequence on its own (Table 15.1). No row of Table 3.2 leads to ARMED from another state than STANDBY. (Assumption 217 DEDUCED) -/
def execArmingComplete (t : Nat) (failed : Fin 4) (s0 : State) : Out :=
  let s := s0.advance t
  match s.slt.arming with
  | none => .next s
  | some _ =>
   if s.power ≠ pSTANDBY then .next s
   else
    let a := s.abortArming
    let step := s.armStep failed
    if step = 1 && !s.storeOk && !s.slt.limitsBad then .next s.limitsFail
    else if step ≠ 0 then .next ((a.setF F.SLT_STAT_STEST_ERR step).raise Flt.SLT_SELFTEST_FAIL {})
    else
      let b := ((a.setB F.SYS_LOCK_ARMED_LOCK true).setB F.SLT_STAT_LOCKED true).toPower pARMED 0x01
      .next { b with slt := { b.slt with armedAt := b.now, dueCount := 0 } }

end Sys2Proof.Machine
end

