-- ==== Sys2Proof/Machine/Outputs.lean ====
section
/-! DEFINITION. Where the Gauze outputs go: the Slate, the engines, and the units that take a word as it is delivered (R167, R168, R189, R311, R372, R383). -/

namespace Sys2Proof.Machine

open Sys2Proof

/-- The FAST output boundary of a channel: its FAST route applies (Table 5.5). -/
def State.fastBoundary (s : State) (n : Nat) : State := s.applyPart (F.GZ_CH_ROUTE_FASTMASK n).addr 0xFFFF

/-- The FINE output boundary of a channel: its FINE route and its schedule apply (Table 5.5). -/
def State.fineBoundary (s : State) (n : Nat) : State :=
  (s.applyPart (F.GZ_CH_ROUTE_FINEMASK n).addr 0xFFFF0000).applyPart (F.GZ_CH_SCHED_OFS n).addr 0xFFFFFFFF

/-- COMP_OUTPUT (R167, R403): a COMP word goes to the Slate alone. -/
def execCompOutput (t : Nat) (n : Fin 72) (code : Code24) (s0 : State) : Out :=
  let s := s0.advance t
  match s.compWord n code.toNat with
  | some (u, o) => .next (u.slateComp n o.code).showModes
  | none => .next s

/-- The OVR flags of an output that is not kept join those of the last set, or wait for the next one where it has left: the mask covers the whole frame (Table 4.8). -/
def Stream.addOvr (x : Stream) (ovr : Nat) : Stream :=
  match x.sets.reverse with
  | z :: rest => { x with sets := ({ z with ovr := Nat.lor z.ovr ovr } :: rest).reverse }
  | [] => { x with ovr := Nat.lor x.ovr ovr }

/-- The output instant a stream collects is complete: every 2^D-th is kept (R99). A channel that gave no word at the instant shows the one last delivered. -/
def Stream.close (x : Stream) (last : Nat → Nat × Bool) : Stream :=
  let got := x.chans.map fun c => ((x.part.find? fun p => p.1 == c).map fun p => p.2).getD (last c)
  let ovr := maskOf (below got.length fun i => (got.getD i (0, false)).2)
  if x.skip = 0 then
    { x with part := [], skip := 2 ^ x.dec - 1, ovr := 0, sets := x.sets ++ [({ time := x.at_, ovr := Nat.lor x.ovr ovr, words := got.map fun g => g.1 } : StreamSet)] }
  else { x.addOvr ovr with part := [], skip := x.skip - 1 }

/-- The stream takes a FAST output of one of its channels; with the last of an output instant the set is complete (R100). -/
def Stream.take (x : Stream) (last : Nat → Nat × Bool) (n time word : Nat) (ovr : Bool) : Stream :=
  if !x.chans.contains n then x
  else
    let y := if x.at_ = time then x else { (if x.part.isEmpty then x else x.close last) with at_ := time }
    let z := { y with part := (n, word, ovr) :: y.part.filter fun p => p.1 != n }
    if z.part.length = z.chans.length then z.close last else z

/-- The FAST word a channel last delivered, as the stream carries it, and its OVR flag (R100). (Assumption 36 DESIGN CHOICE) -/
def State.streamWord (s : State) (c : Nat) : Nat × Bool :=
  (s.gzCode c (s.getW (F.GZ_CH_FAST c).addr), bitAt (s.gzCh c).fastFlags 1)

/-- A FAST word goes to its engines, to the measurements that follow it and to the stream. -/
def State.deliverFast (s : State) (n : Nat) (o : GzOut) : State :=
  let u := (s.routeOut .fast n o).showPos n
  match u.com.stream with
  | some x => { u with com := { u.com with stream := some (x.take u.streamWord n o.time o.code (bitAt o.flags 1)) } }
  | none => u

/-- FAST_OUTPUT (R167, R168, R170, R172). (Assumption 174 DEDUCED) -/
def execFastOutput (t : Nat) (n : Fin 72) (x : FastMeas) (s0 : State) : Out :=
  let s := s0.advance t
  match (s.fastBoundary n).fastWord n x.code.toNat x.samples with
  | (u, some o) => .next (u.deliverFast n o)
  | (u, none) => .next u

/-- An NTC word reaches LE11 and the SP (R372, R381). -/
def State.ntcWord (s : State) (n : Nat) (o : GzOut) : State :=
  if 24 ≤ n ∧ n ≤ 29 then s.takeNtc (n - 24) o.code o.flags else s

/-- An NTC channel without a word where its output was due: a conversion skipped in calibration, or a supply that is down (R181, R374). -/
def State.ntcSkip (s : State) (n : Nat) (due : Bool) : State := if due && decide (24 ≤ n) && decide (n ≤ 29) then s.ntcMiss (n - 24) else s

/-- GZ31: an even multiple of 655,360 fine ticks carries the reference, an odd one the die temperature; the buffers are compared at every one (R188, R189, R383). -/
def State.gz31Word (s : State) (o : GzOut) (dev : Vector Int 4) (dieT : Int) : State :=
  let t := (List.range 4).foldl (fun (x : State) g => x.refCheck g (vget dev g 0)) s
  if bitAt o.flags 4 then t.dieWord dieT (bitAt o.flags 0) else t

/-- A FINE word goes to its engines and to the units that take it (R168, R188, R189, R311, R383). -/
def State.deliverFine (s : State) (n : Nat) (o : GzOut) (refDev : Vector Int 4) (dieT : Int) : State :=
  let a := ((s.routeOut .fine n o).ntcWord n o).integrateGrid n
  if n = 31 then (a.gz31Word o refDev dieT).showModes else a

/-- FINE_OUTPUT (R167, R168, R188, R189, R311, R383): dieT in 0.1 °C and the reference deviations in ppm matter on GZ31. -/
def execFineOutput (t : Nat) (n : Fin 72) (code : Code24) (refDev : Vector Int 4) (dieT : Int) (s0 : State) : Out :=
  let s := s0.advance t
  match (s.fineBoundary n).fineWord n code.toNat with
  | (u, some o) => .next (u.deliverFine n o refDev dieT)
  | (u, none) => .next (u.ntcSkip n (s.gzUp && s.gzComp n))

/-- The output boundary of a SLOT channel: the schedule applies with its word, on the path of PATH (Table 5.5). -/
def State.slotBoundary (s : State) (n : Nat) : State :=
  if s.getB (F.GZ_CH_CFG_PATH n) then s.fineBoundary n else (s.fastBoundary n).applyPart (F.GZ_CH_SCHED_OFS n).addr 0xFFFFFFFF

/-- The one word of a scheduled conversion goes to its engines and to the units that take it (R173, R188, R189). -/
def State.deliverSlot (s : State) (n : Nat) (p : GzPath) (o : GzOut) (refDev : Vector Int 4) (dieT : Int) : State :=
  if p = .fast then (s.routeOut p n o).showPos n else s.deliverFine n o refDev dieT

/-- SLOT_CONVERSION (R173). -/
def execSlotConversion (t : Nat) (n : Fin 72) (x : SlotConv) (s0 : State) : Out :=
  let s := s0.advance t
  match (s.slotBoundary n).slotWord n x.code.toNat with
  | (u, some (p, o)) => .next (u.deliverSlot n p o x.refDev x.dieT)
  | (u, none) => .next (u.ntcSkip n (s.gzUp && s.gzMode n == 2 && s.getB (F.GZ_CH_CFG_PATH n) && (s.slotDueConv n).isSome))

end Sys2Proof.Machine
end

