-- ==== Sys2Proof/Machine/Writes.lean ====
section
/-! DEFINITION. Register writes (R103 to R120): the order of R108, the access codes, shadows and holds, locks, and what a write of one field does beside storing it. -/

namespace Sys2Proof.Machine

open Sys2Proof

/-- The RWL fields are locked (R118). -/
def State.rwlLocked (s : State) : Bool := s.getB F.SYS_LOCK_LOCK || s.getB F.SYS_LOCK_ARMED_LOCK

/-- The writer code of SYS_LOCKVIOL and its engine number (Table 5.13). -/
def writerCode : Writer → Nat × Nat
  | .host => (0, 0)
  | .sp => (1, 0)
  | .engine e => (2, e.val)

/-- A write refused with LOCKED or WRITE_ONCE_SPENT: counted, shown and recorded, at most once per 100 ms and writer (R119). (Assumption 42 DEDUCED) -/
def State.lockRefused (s : State) (w : Writer) (addr : Nat) (ev : Fld) : State :=
  let (c, e) := writerCode w
  let a := (((s.bump F.SYS_LOCKVIOL_COUNT).setF F.SYS_LOCKVIOL_WRITER c).setF F.SYS_LOCKVIOL_ENGINE e).setF F.SYS_LOCKADDR addr
  (a.event ev).raiseRate Flt.LOCK_VIOLATION { detail := addr * 2 ^ 32 + c * 16 + e } (c * 16 + e) (100 * ticksPerMs)

/-- A write to the RDG_ block (R120): refused with LOCKED, and a notice goes to the Ridge. -/
def State.mirrorWrite (s : State) (w : Writer) (addr : Nat) : State :=
  let a := (s.lockRefused w addr F.SYS_WRSTAT_LOCKED_W).event F.SYS_WRSTAT_MIRROR_W
  { a with wit := { a.wit with notices := a.wit.notices ++ [(addr, (writerCode w).1)] } }

/-- A field that a write can change. -/
def FieldRow.writable (f : FieldRow) : Bool := f.acc == .rw || f.acc == .rws || f.acc == .rwl || f.acc == .wo1

/-- The fields of a word that satisfy p and that a mask touches. -/
def touched (a mask : Nat) (p : FieldRow → Bool) : List FieldRow :=
  (fieldsAt a).filter fun f => p f && Nat.land mask (fieldMask f.hi f.lo) != 0

/-- The bits of a mask that stand in fields satisfying p. -/
def maskIn (a mask : Nat) (p : FieldRow → Bool) : Nat := Nat.land mask (maskWhere p a)

/-- The word a write leaves, as a read would return it: the values on which ranges are judged (R108 step 1, R496). -/
def State.leftWord (s : State) (a mask value : Nat) : Word := overlay (s.readW a) (maskIn a mask FieldRow.writable) value

/-- Every masked field stays within its range. (Assumption 149 DEDUCED) -/
def rangesOk (a mask : Nat) (left : Word) : Bool :=
  (touched a mask FieldRow.writable).all fun f => f.rng.ok (bitsOf left.toNat f.hi f.lo)

/-- The instance of a register array that an address names, where it names one. -/
def instanceOf (a base stride count : Nat) : Option Nat :=
  if base ≤ a && (a - base) % stride == 0 && (a - base) / stride < count then some ((a - base) / stride) else none

/-- A carrier's reference may be set: not to a follower, and not away from itself while others follow it (R137). -/
def State.refOk (s : State) (n r : Nat) : Bool := r == n || (s.carRef r == r && (s.followers n).isEmpty)

/-- A window unit's three half-bridges (R157). -/
def winCfgOk (w : Nat) : Bool :=
  let a := bitsOf w 12 8
  let b := bitsOf w 20 16
  let c := bitsOf w 28 24
  decide (16 ≤ a) && decide (16 ≤ b) && decide (16 ≤ c) && a != b && b != c && a != c

/-- The effective period of the carrier of a window unit's half-bridges at the time of a write (R495). -/
def State.winPeriod (s : State) (k : Nat) : Nat := s.carPeriod (s.hbCar (s.winHb k 0))

/-- TWIN and WINPOS leave the window inside the period (R495). -/
def State.winPosOk (s : State) (k pos twin : Nat) : Bool :=
  let p := s.winPeriod k
  let tm := [0, 1, 2].foldl (fun m i => max m (s.tminpEff (s.winHb k i))) 0
  let w1 := if pos = 0 then (p - twin) / 2 + twin else pos + twin
  decide (w1 + tm ≤ p) && (pos == 0 || decide (tm ≤ pos))

/-- The half-bridges of a feedforward mask belong to their engine (R215). -/
def State.ffhbOk (s : State) (e w : Nat) : Bool := (bitsList 32 w).all fun h => s.owner (2 * h) == some e && s.owner (2 * h + 1) == some e

/-- Conditions of the PWM_ block that join a field to others (R137, R144, R157, R495). -/
def State.crossPwm (s : State) (a w : Nat) : Bool :=
  match instanceOf a 0x10100 0x20 16 with
  | some n => s.refOk n (bitsOf w 7 4)
  | none =>
    if a = 0x120C0 then bitsOf w 1 0 != 1 || s.map.hb6Half
    else match instanceOf a 0x13000 0x20 2, instanceOf a 0x13004 0x20 2, instanceOf a 0x13008 0x20 2 with
      | some _, _, _ => winCfgOk w
      | _, some k, _ => s.winPosOk k (bitsOf w 23 0) (s.readF (F.PWM_WIN_TWIN k))
      | _, _, some k => s.winPosOk k (s.readF (F.PWM_WIN_POS k)) (bitsOf w 23 0)
      | _, _, _ => true

/-- Conditions of the AUX_ block that join a field to others (Table 12.8). -/
def State.crossAux (s : State) (a w : Nat) : Bool :=
  let v := bitsOf w 23 0
  if a = F.AUX_PNOM.addr then decide (s.getF F.AUX_PMIN ≤ v) && decide (v ≤ s.getF F.AUX_PMAX)
  else if a = F.AUX_PMIN.addr then decide (16768 ≤ v) && decide (v ≤ s.getF F.AUX_PNOM)
  else if a = F.AUX_PMAX.addr then decide (s.getF F.AUX_PNOM ≤ v) && decide (v ≤ 128000)
  else if a = F.AUX_SHED_SHED1.addr then decide (bitsOf w 31 16 < bitsOf w 15 0) && decide (s.getF F.AUX_SHEDT_BURST_I < bitsOf w 31 16)
  else if a = F.AUX_SHEDT_BURST_I.addr then decide (bitsOf w 7 0 < s.getF F.AUX_SHED_SHED2)
  else true

/-- Conditions that join a field to others, outside the PWM_ and AUX_ blocks. (Assumption 187 DEDUCED) -/
def State.crossRest (s : State) (a w : Nat) : Bool :=
  if a = F.TRC_CFG_SETS.addr then bitsOf w 15 12 != 0 && bitsOf w 11 8 % bitsOf w 15 12 == 0
  else if a = F.CHG_GRIDF_FLO.addr then decide (bitsOf w 15 0 < bitsOf w 31 16)
  else if a = F.CHG_VBAT_VBAT_MIN.addr then decide (bitsOf w 15 0 < bitsOf w 31 16)
  else if a = F.ACT_PPOS_REL.addr then F32.toRat (BitVec.ofNat 32 w) != s.getQ F.ACT_PPOS_ENG
  else if a = F.ACT_PPOS_ENG.addr then F32.toRat (BitVec.ofNat 32 w) != s.getQ F.ACT_PPOS_REL
  else if a = F.PWR_BKP_CTRL_FAST_MA.addr then decide (2 * bitsOf w 23 16 ≤ bitsOf w 15 8)
  else if a = F.THM_WEAR_RESET_STAGES.addr then !bitAt w 5 && !bitAt w 6
  else match instanceOf a 0x21000 0x40 72, instanceOf a 0xA1004 8 32, instanceOf a 0x3103C 0x80 4, instanceOf a 0x21004 0x40 72 with
    | some n, _, _, _ => gzCfgOk n w
    | _, some h, _, _ => !s.hbUsed h || decide (4 ≤ bitsOf w 15 0)
    | _, _, some e, _ => s.ffhbOk e w
    | _, _, _, some n => decide (bitsOf w 23 0 < s.carPeriod (s.getF (F.GZ_CH_CFG_CAR n)))
    | _, _, _, _ => true

/-- Every condition that one field places on another holds in the values the write leaves (R496). (Assumption 41 DEDUCED) -/
def State.crossOk (s : State) (a w : Nat) : Bool :=
  if a / 65536 = 1 then s.crossPwm a w else if a / 65536 = 7 then s.crossAux a w else s.crossRest a w

/-- The ordering of Table 10.5 kept by a run-time change: CHOP_START < CHOP_FULL < OV_ASC < OV_TRIP (R400, R401). (Assumption 41 DEDUCED) -/
def State.orderOk (s : State) (a : Nat) (w : Word) : Bool :=
  let chop := if a = F.SLT_CHOP_CHOP_START.addr then w.toNat else (s.getW F.SLT_CHOP_CHOP_START.addr).toNat
  let ov := if a = F.SLT_OV_OV_TRIP.addr then w.toNat else (s.getW F.SLT_OV_OV_TRIP.addr).toNat
  (a != F.SLT_CHOP_CHOP_START.addr && a != F.SLT_OV_OV_TRIP.addr) ||
    (decide (bitsOf chop 15 0 < bitsOf chop 31 16) && decide (bitsOf chop 31 16 < bitsOf ov 31 16) && decide (bitsOf ov 31 16 < bitsOf ov 15 0))

/-- The Slate forces MODE of a half-bridge to 0: latched off, or its stage held (R145). (Assumption 44 DEDUCED) -/
def State.hbForced (s : State) (h : Nat) : Bool :=
  s.latched h || (decide (s.hbCode h / 16 ≤ 8) && s.held (s.hbCode h / 16))

/-- What follows a change of a word in force: effective values shown, units told (R148, R175, R221, R297, R362, R372). -/
def State.afterWrite (s : State) (a : Nat) : State :=
  match instanceOf a 0x11008 0x10 64, instanceOf a 0x12004 0x20 32, instanceOf a 0xA1000 8 32, instanceOf a 0x12000 0x20 32, instanceOf a 0x41004 0x10 32 with
  | some c, _, _, _, _ => s.showEff (c / 2)
  | _, some h, _, _, _ => s.showEff h
  | _, _, some h, _, _ => s.showEff h
  | _, _, _, some _, _ => s.showModes
  | _, _, _, _, some n => if s.getF (F.GD_CH_PROT_UVN n) = 0 then s.setB (F.GD_CH_STAT_VN_OK n) true else s
  | _, _, _, _, _ =>
    if a = F.ACT_VSPD_HOST.addr then ({ s with park := { s.park with hostAt := some s.now } }).showVspd
    else if a = F.THM_TCOOL.addr then { s with thm := { s.thm with tcoolAt := some s.now } }
    else if a = F.PWR_BKP_CTRL_ENABLE.addr then s.chargerFollows
    else if a / 65536 = 3 then s.leDwell ((a - 0x31000) / 0x80)
    else s

/-- A carrier has a coming period start. -/
def State.carComing (s : State) (n : Nat) : Bool := (s.car n).running || ((s.car n).waiting && (s.car n).next != 0)

/-- A Gauze channel delivers outputs of the path whose boundary is asked for. -/
def State.gzComing (s : State) (n : Nat) (fast : Bool) : Bool :=
  let m := s.gzMode n
  if m = 0 then false
  else if m = 2 then s.getB (F.GZ_CH_CFG_FREE n) || (s.car (s.getF (F.GZ_CH_CFG_CAR n))).running
  else if fast && s.gzAvg n then (s.car (s.getF (F.GZ_CH_CFG_CAR n))).running
  else if fast && m = 3 then
    let u := s.getF (F.GZ_CH_CFG_WINU n)
    s.getB (F.PWM_WIN_CFG_EN u) && (s.car (s.hbCar (s.winHb u 0))).running
  else true

/-- The owner of a shadowed word has a natural boundary to come (R116, Table 5.5); fast: the FAST route of a Gauze channel. (Assumption 43 DEDUCED) -/
def State.ownerRuns (s : State) (a : Nat) (fast : Bool) : Bool :=
  let b := a / 65536
  if b = 1 then (match s.pwmOwner a with
    | some n => s.carComing n
    | none => false)
  else if b = 2 then s.gzComing ((a - 0x21000) / 0x40) fast
  else if b = 3 then
    let e := (a - 0x31000) / 0x80
    s.hasSlots e || (s.leMode e != 0 && s.getF (F.LE_CFG_PACE e) == 3)
  else if b = 7 then (s.hbsOf 6).any fun h => s.carComing (s.carRef (s.hbCar h))
  else false

/-- The parts of a word that have boundaries of their own. (Assumption 43 DEDUCED) -/
def shadowParts (a : Nat) : List (Nat × Bool) :=
  if 0x21000 ≤ a && a < 0x22200 && (a - 0x21000) % 0x40 == 8 then [(0xFFFF, true), (0xFFFF0000, false)] else [(0xFFFFFFFF, false)]

/-- Shadowed writes whose owner has no boundary apply at once (R116). (Assumption 43 DEDUCED) -/
def State.settle (s : State) : State :=
  (s.shadow.filter fun w => !w.held).foldl (fun (x : State) w =>
    (shadowParts w.addr).foldl (fun (y : State) p => if y.ownerRuns w.addr p.2 then y else (y.applyPart w.addr p.1).afterWrite w.addr) x) s

/-- A write of RWS fields: kept by a hold, or held in the shadow, or applied where the owner is stopped (R116, R117). -/
def State.shadowWrite (s : State) (a m value : Nat) (held : Bool) : State :=
  let w : PendWrite := { addr := a, mask := m, value := value, held := held, armed := false }
  let t := { s with shadow := s.shadow ++ [w] }
  if held then t.setF F.SYS_APPLY_HELD t.heldWrites else t.settle

/-- The open hold keeps back the writes of a session (R117). -/
def State.holds (s : State) (w : Writer) (session : Word) : Bool :=
  w == .host && s.holdOf session

/-- The RW and RWL bits of a word take their values; a counter keeps the increments of the running cycle (R109). -/
def State.storeNow (s : State) (a mask value : Nat) : State :=
  let m := maskIn a mask fun f => f.acc == .rw || f.acc == .rwl
  let t := s.setW a (overlay (s.getW a) m value)
  (touched a mask fun f => f.acc == .rw).foldl (fun (x : State) f =>
    let fld : Fld := ⟨a, f.hi, f.lo⟩
    let k := s.incsOf fld
    if k = 0 then x else x.setF fld (satAdd (f.hi + 1 - f.lo) (x.getF fld) k)) t

/-- RUN written (R136, R141): CARRIER_RUN and CARRIER_STOP; the writes that wait for a carrier stopped before its first period apply at once (R116). -/
def State.writeRun (s : State) (n : Nat) (run : Bool) : State := if run then s.carrierRun n else (s.carrierStop n).settle

/-- GD_TRIPMAPn gains half-bridges: while the input is low they latch at once, its cause being a level (Table 10.4). (Assumption 45 DESIGN CHOICE) -/
def State.tripMapGrown (s : State) (n old : Nat) : State :=
  let new := (bitsList 32 (s.getF (F.GD_TRIPMAP n))).filter fun h => !bitAt old h
  if s.bit F.GD_STAT_TRIPIN n && !new.isEmpty then (s.event F.GD_EVT_EXTTRIP).trip new { source := n, kind := Flt.GD_EXT_TRIP } else s

/-- The reset of one stage's wear (R390). (Assumption 48 DEDUCED) -/
def State.wearReset (s : State) (st : Nat) : State :=
  let chs := s.stageChs st
  let a := chs.foldl (fun (x : State) c =>
    let y := (({ x with thm := { x.thm with life := vset x.thm.life c 0, eosDone := setBitN x.thm.eosDone c false } }).setQ (F.THM_LIFE c) 0).setF (F.THM_CYC c) 0
    if y.getB F.THM_STAT_MRAM_INH then (y.mramPut ⟨1, c, 0, 2⟩ false).2 else y.saveNow c) s
  let b := (a.setBit F.THM_SPARE_EOS st false).setBit F.THM_SPARE_RETIRED st false
  let c := { b with thm := { b.thm with chopRetired := if st = 2 then 0 else b.thm.chopRetired }, trc := if st ≤ 1 then { b.trc with retired := setBitN b.trc.retired st false, retireDue := setBitN b.trc.retireDue st false } else b.trc }
  ((c.bump F.THM_WEAR_RESET_RESETS).event F.THM_EVT_RESET).raise Flt.THM_WEAR_RESET { stages := 2 ^ st }

/-- The cleared accounts of a wear reset fit into the MRAM, or into its queue, where a waiting save of the same switch is replaced (R384, R390). -/
def State.wearResetFits (s : State) (stages : List Nat) : Bool :=
  let chs := stages.flatMap fun st => s.stageChs st
  s.mramFits (2 * (chs.filter fun c => !(s.log.queue.any fun i => i.kind == 1 && i.key == c)).length)

/-- IDN_DEBUG.UNLOCK stored (R107, R474). (Assumption 46 DEDUCED) -/
def State.debugWrite (s : State) (v : Nat) : State :=
  let a := { s with idn := { s.idn with unlockSpent := true } }.setF F.IDN_DEBUG_UNLOCK v
  if v = 0 then a else (a.bump F.IDN_DEBUG_DEBUGS).raise Flt.DEBUG_UNLOCKED {}

/-- The mask touches a spent WO1 field: every persistent one, and UNLOCK once written since the boot (R107). (Assumption 46 DEDUCED) -/
def State.spent (s : State) (a mask : Nat) : Bool :=
  (touched a mask fun f => f.acc == .wo1).any fun _ => a != F.IDN_DEBUG_UNLOCK.addr || s.idn.unlockSpent

/-- A word of event bits (R110). -/
def isRcs (a : Nat) : Bool := (fieldsAt a).any fun f => f.acc == .rcs

/-- Event bits of a register whose causes are levels that still stand (R111). (Assumption 40 DESIGN CHOICE, 88 DEDUCED) -/
def State.standing (s : State) (a : Nat) : List Nat :=
  if a = 0x20008 ∨ a = 0x2000C ∨ a = 0x20010 then
    let k := (a - 0x20008) / 4
    below 24 fun n => (s.gzCh (24 * k + n)).ovrIn
  else if a = F.GZ_FLT_XB_FLAT.addr then
    (below 8 fun n => (s.gzCh (64 + n)).flat) ++ ((below 4 fun g => vget s.gz.refBad g false).map fun g => 8 + g)
  else if a = F.GD_EVT_SC.addr then
    (if (below 4 fun n => s.bit F.GD_STAT_TRIPIN n && s.getF (F.GD_TRIPMAP n) != 0).isEmpty then [] else [2]) ++
    (if s.slt.beyond.isEmpty then [] else [3]) ++
    (if (s.gate.latches.any fun l => (l.source == 9 || l.source == 10) && s.causeActive l) then [4] else []) ++ (if s.getB F.GD_STAT_VDRV_OK then [] else [5]) ++
    (if s.getB F.GD_STAT_OV && s.gate.latches.any (fun l => l.source == 7) then [7] else []) ++ (if s.gate.chopBlock then [8] else [])
  else if a = F.TRC_EVT_REVERSE.addr then (if s.trc.resFault then [3] else []) ++ (if s.trc.overDone then [7] else [])
  else if a = F.THM_EVT_DERATE.addr then
    (if s.getF F.THM_DERATE_FLAGS = 0 then [] else [0]) ++ (if s.thm.overDone = 0 && s.thm.ntcDone = 0 then [] else [1]) ++
    (if s.getF F.THM_DERATE_BROKEN = 0 then [] else [2]) ++ (if s.getB F.THM_STAT_THROTTLE then [3] else []) ++ (if s.getB F.THM_STAT_MRAM_INH then [4] else [])
  else if a = F.SLT_EVT_QAMISS.addr then
    (if s.slt.limitsBad then [3] else []) ++ (if (below 4 fun p => !s.pairSound p).isEmpty then [] else [4])
  else if a = F.PWR_WAKE_SRC_SRC.addr then (s.activeWakes.filter fun n => n == 0 || n == 2)
  else if a = F.AUX_EVT_OTW.addr then (if s.aux.warned = 0 then [] else [F.AUX_EVT_OTW.lo])
  else if a = F.PWM_EVT_PERCLAMP.addr then (if (below 16 fun n => (s.car n).clamp).isEmpty then [] else [F.PWM_EVT_PERCLAMP.lo])
  else match instanceOf a 0x31024 0x80 16, instanceOf a 0x12010 0x20 32 with
    | some e, _ => if e < 4 && (s.eng e).ffStopped then [7] else []
    | _, some h => if (s.hb h).bstUv then [6] else []
    | _, _ => []

/-- A write of an RCS register with the current SEQ clears its event bits; those whose causes stand set again in the next cycle (R111, R112). (Assumption 40 DESIGN CHOICE) -/
def State.clearEvents (s : State) (a : Nat) : State :=
  let seq : Fld := ⟨a, 31, 24⟩
  let t := s.setW a (seq.into 0 (s.getF seq))
  (s.standing a).foldl (fun (x : State) n => x.event ⟨a, n, n⟩) t

/-- A write of an RCS register (R108 step 4, R112). (Assumption 173 DESIGN CHOICE) -/
def State.rcsWrite (s : State) (a mask value : Nat) : Nat × State :=
  if Nat.land mask 0xFF000000 ≠ 0xFF000000 then (stBadParam, s)
  else if bitsOf value 31 24 ≠ s.getF ⟨a, 31, 24⟩ then (stStaleSeq, s)
  else (stOK, s.clearEvents a)

/-- A change of a half-bridge's carrier assignment clears its carry (R154). -/
def State.carMoved (s : State) (h old : Nat) : State :=
  if s.hbCar h = old then s else s.setHb h { s.hb h with carry0 := 0, carry1 := 0 }

/-- The masked fields of a word that passed its checks are written (R108 steps 5 and 6). (Assumption 44 DEDUCED) -/
def State.writeFields (s : State) (w : Writer) (session : Word) (a mask value : Nat) : Nat × State :=
  match instanceOf a 0x10100 0x20 16, instanceOf a 0x12000 0x20 32, instanceOf a 0x40020 4 4 with
  | some n, _, _ =>
    let t := s.storeNow a (Nat.land mask 0xFFFFFFFE) value
    (stOK, if bitAt mask 0 then t.writeRun n (bitAt value 0) else t)
  | _, some h, _ =>
    let forced := decide (Nat.land mask 3 ≠ 0) && s.hbForced h && decide (Nat.land value (Nat.land mask 3) ≠ 0)
    let m := if forced then Nat.land mask 0xFFFFFFFC else mask
    let t := (s.storeNow a m value).carMoved h (s.hbCar h)
    let sh := maskIn a m fun f => f.acc == .rws
    let u := if sh = 0 then t else t.shadowWrite a sh value (s.holds w session)
    if forced then (stSafeHeld, u.event F.SYS_WRSTAT_FORCED) else (stOK, u)
  | _, _, some n => (stOK, (s.storeNow a mask value).tripMapGrown n (s.getF (F.GD_TRIPMAP n)))
  | _, _, _ =>
    if a = F.THM_WEAR_RESET_STAGES.addr then
      let sts := bitsList 9 (Nat.land value mask)
      if s.wearResetFits sts then (stOK, sts.foldl (fun (x : State) st => x.wearReset st) s) else (stTempInhibit, s)
    else
      let now_ := maskIn a mask fun f => f.acc == .rw || f.acc == .rwl
      let c := if a = F.PWR_BKP_CTRL_ENABLE.addr then s.countCharge else s
      let t := if now_ = 0 then c else (c.storeNow a mask value).afterWrite a
      let sh := maskIn a mask fun f => f.acc == .rws
      (stOK, if sh = 0 then t else t.shadowWrite a sh value (s.holds w session))

/-- 64 writes are held already, and this one would be held too (R117). -/
def State.holdFull (s : State) (w : Writer) (session : Word) (a mask : Nat) : Bool :=
  s.holds w session && maskIn a mask (fun f => f.acc == .rws) != 0 && decide (64 ≤ s.heldWrites)

/-- A write to an assigned word outside the RDG_ block (R108). (Assumption 41 DEDUCED) -/
def State.writeWord (s : State) (w : Writer) (session : Word) (a mask value : Nat) : Nat × State :=
  let left := s.leftWord a mask value
  if !rangesOk a mask left || (maskIn a mask FieldRow.writable != 0 && !s.crossOk a left.toNat) then (stBadParam, s)
  else if s.rwlLocked && maskIn a mask (fun f => f.acc == .rwl) != 0 then (stLocked, s.lockRefused w a F.SYS_WRSTAT_LOCKED_W)
  else if s.spent a mask then (stWriteOnceSpent, s.lockRefused w a F.SYS_WRSTAT_WO1_W)
  else if isRcs a then s.rcsWrite a mask value
  else if isLimit a && maskIn a mask (fun f => f.acc == .rwl) != 0 && !(s.limitOk a left && s.orderOk a left) then (stBadParam, s)
  else if a = F.IDN_DEBUG_UNLOCK.addr && bitAt mask 0 then
    if bitAt value 0 && s.power != pTEST then (stStateRefused, s) else (stOK, s.debugWrite (value % 2))
  else if (instanceOf a 0x21000 0x40 72).isSome && maskIn a mask FieldRow.writable != 0 then
    let (st, t) := s.gzWriteCfg ((a - 0x21000) / 0x40) left
    (st, t.settle)
  else if s.holdFull w session a mask then (stBusy, s)
  else s.writeFields w session a mask value

/-- A register write from any writer, with the status a host sees (R104, R106, R108, R120). -/
def State.regWrite (s : State) (w : Writer) (session : Word) (addr mask value : Nat) : Nat × State :=
  if addr / 65536 = 0xD then (stLocked, s.mirrorWrite w addr)
  else if addr % 4 ≠ 0 ∨ 0xEFFFF < addr ∨ (findReg addr).isNone ∨ mask = 0 then (stBadParam, s)
  else s.writeWord w session addr mask (Nat.land value mask)

/-- The level a REG_WRITE needs for its block (Table 5.1). (Assumption 28 DEDUCED) -/
def writeLevel (addr : Nat) : Nat :=
  let b := addr / 65536
  if b = 0xE then 3 else if (1 ≤ b && b ≤ 4) || b = 9 || b = 0xA then 2 else 1

/-- REG_WRITE (R103, R104, R108). (Assumption 28 DEDUCED) -/
def execRegWrite (r : Req) (s : State) : Out :=
  let level := if 4 ≤ r.params.length then writeLevel (r.num 0 4) else 1
  serveOp { code := 0x0101, level := level, lens := [12] } r (fun _ s =>
    let (st, t) := s.regWrite .host r.session (r.num 0 4) (r.num 8 4) (r.num 4 4)
    .done st [] t) s

/-- GZ_CONFIG (R176, R192): the whole configuration word. (Assumption 152 DEDUCED) -/
def execGzConfig (r : Req) (s : State) : Out :=
  serveOp { code := 0x0800, level := 2, lens := [5] } r (fun _ s =>
    let n := r.num 0 1
    let w := r.num 1 4
    if 72 ≤ n ∨ !gzCfgOk n w then refuse stBadParam s
    else
      let (st, t) := s.regWrite .host r.session (F.GZ_CH_CFG_MODE n).addr 0xFFFFFFFF w
      .done st [] t) s

/-- APPLY_RELEASE (R117): the hold of this session closes and its writes join their owners' shadows. (Assumption 27 DEDUCED) -/
def execApplyRelease (r : Req) (s : State) : Out :=
  serveOp { code := 0x0105 } r (fun _ s =>
    match s.com.hold with
    | some h => okWith [] (if h.session = r.session then s.releaseHold.settle else s)
    | none => okWith [] s) s

/-- A write of PWR_CFG in the CD3 cycle of a hand-over's start: the Eave still loads HANDOVER, and the hand-over is added (R72). -/
def State.handoverWrite (s : State) (addr mask value : Nat) : State :=
  match s.pwr.handover with
  | some h =>
    if addr = F.PWR_CFG_HANDOVER.addr ∧ (h - s.pwr.battenBase) / 16 = s.cycle then
      s.storeNow addr (Nat.land mask (fieldMask F.PWR_CFG_HANDOVER.hi F.PWR_CFG_HANDOVER.lo)) value
    else s
  | none => s

/-- A write event outside a request: it acts while the main die runs and the address is one its row is about. -/
def writeEvent (t : Nat) (p : State → Bool) (w : Writer) (session : Word) (addr mask value : Nat) (s0 : State) : Out :=
  let s := s0.advance t
  .next (if !p s then s else if s.mainUp then (s.regWrite w session addr mask value).2 else s.handoverWrite addr mask value)

/-- REGISTER_WRITE (R106): a write from the host, the SP or an engine. -/
def execRegisterWrite (t : Nat) (w : Writer) (addr value mask : Word) (s : State) : Out :=
  writeEvent t (fun _ => true) w 0 addr.toNat mask.toNat value.toNat s

/-- EVENT_CLEAR (R112): a write to an RCS register. -/
def execEventClear (t : Nat) (w : Writer) (addr value mask : Word) (s : State) : Out :=
  writeEvent t (fun _ => isRcs addr.toNat) w 0 addr.toNat mask.toNat value.toNat s

/-- MIRROR_WRITE (R120): a write to the RDG_ block. -/
def execMirrorWrite (t : Nat) (w : Writer) (addr value mask : Word) (s : State) : Out :=
  writeEvent t (fun _ => addr.toNat / 65536 == 0xD) w 0 addr.toNat mask.toNat value.toNat s

/-- CARRIER_RUN (R136): 1 written to PWM_CARn_CTRL.RUN. -/
def execCarrierRun (t : Nat) (w : Writer) (n : Fin 16) (s : State) : Out :=
  writeEvent t (fun _ => true) w 0 (F.PWM_CAR_CTRL_RUN n).addr 1 1 s

/-- CARRIER_STOP (R141): 0 written to PWM_CARn_CTRL.RUN. -/
def execCarrierStop (t : Nat) (w : Writer) (n : Fin 16) (s : State) : Out :=
  writeEvent t (fun _ => true) w 0 (F.PWM_CAR_CTRL_RUN n).addr 1 0 s

/-- GZ_CFG_WRITE (R176, R496): a write to GZ_CHn_CFG. -/
def execGzCfgWrite (t : Nat) (w : Writer) (n : Fin 72) (value mask : Word) (s : State) : Out :=
  writeEvent t (fun _ => true) w 0 (F.GZ_CH_CFG_MODE n).addr mask.toNat value.toNat s

/-- SLT_LIMIT_WRITE (R400): a write to a limit field. -/
def execSltLimitWrite (t : Nat) (w : Writer) (addr value mask : Word) (s : State) : Out :=
  writeEvent t (fun _ => isLimit addr.toNat) w 0 addr.toNat mask.toNat value.toNat s

/-- WEAR_RESET_WRITE (R390): a write to THM_WEAR_RESET. -/
def execWearResetWrite (t : Nat) (w : Writer) (value mask : Word) (s : State) : Out :=
  writeEvent t (fun _ => true) w 0 F.THM_WEAR_RESET_STAGES.addr mask.toNat value.toNat s

/-- DEBUG_UNLOCK_WRITE (R474): a write to IDN_DEBUG from a FACTORY session. -/
def execDebugUnlockWrite (t : Nat) (session : Word) (value mask : Word) (s : State) : Out :=
  writeEvent t (fun x => match x.session session with
    | some y => decide (3 ≤ y.level)
    | none => false) .host session F.IDN_DEBUG_UNLOCK.addr mask.toNat value.toNat s

end Sys2Proof.Machine
end

