-- ==== Sys2Proof/Machine/Regs.lean ====
section
/-! DEFINITION. Register reads and the mailbox (R96, R102 to R104, R106, R113 to R115). -/

namespace Sys2Proof.Machine

open Sys2Proof

/-- Time since an instant in units, saturating at 65,535 (Table 4.13). -/
def State.since (s : State) (t unit : Nat) : Nat := min 65535 ((s.now - t) / unit)

/-- A word of the blocks up to GD_ with the fields that show a present condition of their unit (R157, R173, Tables 6.18, 7.17, 10.14). (Assumption 39 DEDUCED) -/
def State.shownLow (s : State) (a : Nat) (w : Word) : Word :=
  if a = F.GD_CAUSE.addr then F.GD_CAUSE.into w s.causeMask
  else match instanceOf a 0x1300C 0x20 2, instanceOf a 0x41008 0x10 64, instanceOf a 0x2101C 0x40 72, instanceOf a 0x31034 0x80 16 with
    | some k, _, _, _ => (F.PWM_WIN_STAT_CFGERR k).into w (if s.getB (F.PWM_WIN_CFG_EN k) && !s.winActive k then 1 else 0)
    | _, some n, _, _ =>
      let v := (F.GD_CH_STAT_GATE n).into w (if s.gateSeen n then 1 else 0)
      if n < 32 && s.getF (F.GD_CH_PROT_UVN n) == 0 then (F.GD_CH_STAT_VN_OK n).into v 1 else v
    | _, _, some n, _ => (F.GZ_CH_STAT_PWRDN n).into w (if s.gzPowered n then 0 else 1)
    | _, _, _, some e => (F.LE_DWELL_DWELL_T e).into w (s.dwellTime e)
    | _, _, _, _ => w

/-- A word as a read shows it: the fields that show a present condition or a running time are taken at the read (Tables 4.13, 11.9, 13.7, 15.12, 16.16). (Assumption 39 DEDUCED) -/
def State.shown (s : State) (a : Nat) (w : Word) : Word :=
  if a = F.COM_CONTACT_CONTACT_S.addr then
    F.COM_CONTACT_HB_MS.into (F.COM_CONTACT_CONTACT_S.into w (s.since s.com.lastContact ticksPerS)) (s.since s.com.lastHeartbeat ticksPerMs)
  else if a = F.RDG_AGE.addr then F.RDG_AGE.into w s.mirrorAge
  else if a = F.SLT_RST_READY.addr then F.SLT_RST_READY.into w (if s.rstReady then 1 else 0)
  else if a = F.SLT_LIMCRC.addr then F.SLT_LIMCRC.into w s.limitCrc
  else if a = F.CHG_STAT_S2.addr then F.CHG_STAT_S2.into w (if s.s2Closed then 1 else 0)
  else if a = F.ACT_VSPD.addr ∨ a = F.ACT_STAT_VSPD_KNOWN.addr then s.showVspd.getW a
  else s.shownLow a w

/-- What a register read returns; 0 for a word no chapter assigns (R7, R104, R121). -/
def State.regRead (s : State) (a : Nat) : Word :=
  if (findReg a).isSome then s.shown a (s.readW a) else 0

/-- The address of the last word of the snapshot (R114). -/
def State.mbxLast (s : State) : Nat := (F.SYS_MBX_W 0).addr + 4 * (s.getF F.SYS_MBX_CTRL_WORDS - 1)

/-- Reads of a session that reach the last word of its snapshot clear VALID (R114). -/
def State.readsMbx (s : State) (session : Word) (a count : Nat) : State :=
  if a ≤ s.mbxLast ∧ s.mbxLast < a + 4 * count then s.mbxRead session else s

/-- REG_READ (R103, R104, R106). -/
def execRegRead (r : Req) (s : State) : Out :=
  serveOp { code := 0x0100, lens := [4] } r (fun _ s =>
    let a := r.num 0 4
    if a % 4 ≠ 0 ∨ 0xEFFFF < a ∨ (findReg a).isNone then refuse stBadParam s
    else okWith (beBytes 4 (s.regRead a).toNat) (s.readsMbx r.session a 1)) s

/-- REG_READ_BLOCK (R103, R104, R82 step 7). -/
def execRegReadBlock (r : Req) (s : State) : Out :=
  serveOp { code := 0x0102, lens := [6] } r (fun _ s =>
    let a := r.num 0 4
    let n := r.num 4 2
    if a % 4 ≠ 0 ∨ 0xEFFFF < a ∨ n = 0 ∨ 256 < n ∨ (a + 4 * n - 1) / 65536 ≠ a / 65536 ∨ !r.fits (4 * n) then refuse stBadParam s
    else okWith ((List.range n).flatMap fun i => beBytes 4 (s.regRead (a + 4 * i)).toNat) (s.readsMbx r.session a n)) s

/-- A 64-bit value as two words, most significant first (R113). -/
def twoWords (v : Nat) : List Nat := [v / 2 ^ 32 % 2 ^ 32, v % 2 ^ 32]

/-- The value of a fixed selector of Table 5.4. -/
def State.mbxValue (s : State) (sel : Nat) : Option (List Nat) :=
  match sel with
  | 0x0001 => some (twoWords s.battenTime)
  | 0x0002 => some [s.eaveSeconds, s.eaveTicks % 32768]
  | 0x0003 => some [s.getF F.IDN_SERIAL_H, s.getF F.IDN_SERIAL_L]
  | 0x0010 => some (twoWords s.chg.imp.floor.toNat)
  | 0x0011 => some (twoWords s.chg.exp.floor.toNat)
  | 0x0020 => some [s.getF F.RDG_IMP_H, s.getF F.RDG_IMP_L]
  | 0x0021 => some [s.getF F.RDG_EXP_H, s.getF F.RDG_EXP_L]
  | 0x0022 => some [s.getF F.RDG_ODO_H, s.getF F.RDG_ODO_L]
  | 0x0023 => some [s.getF F.RDG_TIME, s.getF F.RDG_LEC]
  | _ => none

/-- Mean, minimum and maximum of a quantity since the peaks were reset; free values where the spec does not fix them (R96). (Assumption 31 DESIGN CHOICE) -/
def State.tlmTriple (s : State) (st q : Nat) : List Nat × State :=
  let (mean, s1) := s.draw
  match s1.tlm.peaks.find? fun p => p.1 == st && p.2.1 == q with
  | some p => ([mean.toNat, (F32.ofRat p.2.2.1).toNat, (F32.ofRat p.2.2.2).toNat], s1)
  | none =>
    let (lo, s2) := s1.draw
    let (hi, s3) := s2.draw
    ([mean.toNat, lo.toNat, hi.toNat], s3)

/-- The snapshot stands in the mailbox (R113). -/
def State.mbxStore (s : State) (session : Word) (sel : Nat) (ws : List Nat) : State :=
  let a := (List.range 8).foldl (fun (x : State) k => x.setF (F.SYS_MBX_W k) (ws.getD k 0)) s
  let b := (((a.setF F.SYS_MBX_CTRL_SEL sel).setF F.SYS_MBX_CTRL_WORDS ws.length).setF F.SYS_MBX_CTRL_VALID 1).setF F.SYS_MBX_CTRL_EXPIRED 0
  { b with com := { b.com with mbxOwner := some session, mbxAt := b.now } }

/-- Another session's snapshot is still unread (R114). -/
def State.mbxBusy (s : State) (session : Word) : Bool := s.getB F.SYS_MBX_CTRL_VALID && s.com.mbxOwner != some session

/-- Stage and quantity of a telemetry selector (Table 5.4). -/
def mbxQuantity (sel : Nat) : Option (Nat × Nat) :=
  if 0x1000 ≤ sel ∧ sel < 0x1900 then some ((sel - 0x1000) / 256, sel % 256) else none

/-- MBX_SNAPSHOT (R113, R114, R115). (Assumption 33 DEDUCED, 47 DEDUCED, 169 DEDUCED) -/
def execMbxSnapshot (r : Req) (s : State) : Out :=
  let level := if r.params.length = 2 ∧ (mbxQuantity (r.num 0 2)).isSome then 2 else 1
  serveOp { code := 0x0103, level := level, lens := [2] } r (fun _ s =>
    let sel := r.num 0 2
    match s.mbxValue sel, mbxQuantity sel with
    | some ws, _ => if s.mbxBusy r.session then refuse stBusy s else okWith [] (s.mbxStore r.session sel ws)
    | none, some (st, q) =>
      if !(s.quantityCodes st).contains q then refuse stBadParam s
      else if !s.tlmServed st then refuse stStateRefused s
      else if s.mbxBusy r.session then refuse stBusy s
      else let (ws, u) := s.tlmTriple st q; okWith [] (u.mbxStore r.session sel ws)
    | none, none => refuse stBadParam s) s

end Sys2Proof.Machine
end

