-- ==== Sys2Proof/Machine/Packets.lean ====
section
/-! DEFINITION. Requests that read the module: versions, identity, certificates, telemetry, last faults, thermal and wear figures, and the telemetry stream (R96, R99, R100, R389, R470, R476). -/

namespace Sys2Proof.Machine

open Sys2Proof

/-- The slot a firmware target was booted from (R478). -/
def State.bootedSlot (s : State) (target : Nat) : Nat := s.getF (F.IDN_FWSTAT_BOOTED target)

/-- A target runs what its booted slot holds: outside recovery mode, and with a loop program set (R130, R483). -/
def State.targetRuns (s : State) (target : Nat) : Bool :=
  if target = 0 then !s.getB F.SYS_BOOT_RECOVERY else !s.getB F.SYS_BOOT_LOOP_NONE

/-- The version a target runs; a free value where no slot of it runs. (Assumption 29 DESIGN CHOICE) -/
def State.runningVersion (s : State) (target : Nat) : Nat × State :=
  if s.targetRuns target then (s.getF (F.IDN_VERSION (2 * target + s.bootedSlot target)), s)
  else let (w, u) := s.draw; (w.toNat, u)

/-- The result data of GET_VERSION (Table 4.5): the die steps are those of Table 0.1. -/
def State.versionData (s : State) : List Byte × State :=
  let (ap, s1) := s.runningVersion 0
  let (lp, s2) := s1.runningVersion 1
  (beBytes 1 (s2.getF F.IDN_REV_REV) ++ beBytes 6 0x4D3251314B33 ++ beBytes 4 ap ++ beBytes 4 lp ++ beBytes 4 (s2.getF F.RDG_FWVER)
    ++ beBytes 4 (s2.getF F.SYS_IMG) ++ beBytes 1 (s2.getF F.SYS_BOOT_ACTIVE_SLOT) ++ beBytes 1 1, s2)

/-- GET_VERSION (R96). -/
def execGetVersion (r : Req) (s : State) : Out :=
  serveOp { code := 0x0004, level := 0 } r (fun _ s => let (d, u) := s.versionData; okWith d u) s

/-- The stored identity of a die, 0 to 33, as IDENT_READ returns it (R470). (Assumption 7 DESIGN CHOICE) -/
def State.dieData (s : State) (d : Nat) : List Byte :=
  beBytes 4 (s.getF (F.IDN_LOT_H d)) ++ beBytes 4 (s.getF (F.IDN_LOT_L d)) ++ beBytes 1 (s.getF (F.IDN_WAFER d))
    ++ beBytes 2 (s.getF (F.IDN_XY_X d)) ++ beBytes 2 (s.getF (F.IDN_XY_Y d))

/-- IDENT_READ (R470). -/
def execIdentRead (r : Req) (s : State) : Out :=
  serveOp { code := 0x0C00, level := 0, lens := [1] } r (fun _ s =>
    let d := r.num 0 1
    if d = 0xFF then okWith (s.serialBytes ++ beBytes 1 (s.getF F.IDN_REV_REV)) s
    else if 33 < d then refuse stBadParam s
    else okWith (s.dieData d) s) s

/-- The issuer of a certificate (Table 17.1). -/
def certIssuer (i : Nat) : Nat := if i ≤ 1 then 0 else 1

/-- The 8,688 bytes of a certificate (Table 17.2): what the format fixes, and the bytes manufacture wrote. (Assumption 37 DESIGN CHOICE) -/
def State.certBytes (s : State) (i : Nat) : List Byte :=
  let own := fun (a n : Nat) => (List.range n).map fun k => Config.certByte i (a + k)
  beBytes 4 0x4F435254 ++ beBytes 2 1 ++ beBytes 1 i ++ beBytes 1 (certIssuer i)
    ++ (if i = 3 ∨ i = 4 then s.serialBytes else beBytes 8 0) ++ own 16 392 ++ beBytes 4 65537 ++ own 412 32 ++ beBytes 4 0 ++ own 448 8240

/-- The room a transport leaves for result data. -/
def Ticket.room (t : Ticket) : Nat := maxPacket t.port t.fd - 22

/-- CERT_READ (R90, R476). -/
def execCertRead (r : Req) (s : State) : Out :=
  serveOp { code := 0x0C02, level := 0, lens := [7] } r (fun t s =>
    let i := r.num 0 1
    if 11 < i then refuse stBadParam s
    else let (st, d) := longReply (s.certBytes i) (r.num 1 4) (r.num 5 2) t.room; .done st d s) s

/-- The quantities of TLM_READ: code, mean, minimum and maximum of each (R96). (Assumption 31 DESIGN CHOICE) -/
def State.tlmData (s : State) (st : Nat) : List Byte × State :=
  (s.quantityCodes st).foldl (fun (acc : List Byte × State) q =>
    let (ws, u) := acc.2.tlmTriple st q
    (acc.1 ++ beBytes 1 q ++ ws.flatMap fun w => beBytes 4 w, u)) (beBytes 1 (s.quantityCodes st).length, s)

/-- TLM_READ (R96, R345, R367). -/
def execTlmRead (r : Req) (s : State) : Out :=
  serveOp { code := 0x0D00, level := 2, lens := [2] } r (fun _ s =>
    let st := r.num 0 1
    if 8 < st ∨ 1 < r.num 1 1 ∨ !r.fits (1 + 13 * (s.quantityCodes st).length) then refuse stBadParam s
    else if !s.tlmServed st then refuse stStateRefused s
    else
      let (d, u) := s.tlmData st
      okWith d (if r.num 1 1 = 1 then { u with tlm := { u.tlm with peaks := u.tlm.peaks.filter fun p => p.1 != st } } else u)) s

/-- The record LASTFAULT_READ shows; before the first one its content is free. (Assumption 30 DESIGN CHOICE) -/
def State.lastFault (s : State) (st : Nat) : LastFault × State :=
  match s.log.last.find? fun e => e.1 == st with
  | some e => (e.2, s)
  | none =>
    let (h, s1) := s.draw
    let (l, s2) := s1.draw
    let (c, s3) := s2.draw
    let (q, s4) := (s3.quantityCodes st).foldl (fun (acc : List (Nat × F32) × State) c => let (w, u) := acc.2.draw; (acc.1 ++ [(c, w)], u)) ([], s3)
    ({ time := h.toNat * 2 ^ 32 + l.toNat, code := c.toNat % 65536, quantities := q }, s4)

/-- LASTFAULT_READ (R96, R345). -/
def execLastfaultRead (r : Req) (s : State) : Out :=
  serveOp { code := 0x0D02, lens := [1] } r (fun _ s =>
    let st := r.num 0 1
    if 8 < st then refuse stBadParam s
    else
      let (f, u) := s.lastFault st
      if !r.fits (11 + 5 * f.quantities.length) then refuse stBadParam s
      else okWith (beBytes 8 f.time ++ beBytes 2 f.code ++ beBytes 1 f.quantities.length
        ++ f.quantities.flatMap fun q => beBytes 1 q.1 ++ beBytes 4 q.2.toNat) u) s

/-- One switch of THERM_READ: TJ and the effective limit of its stage (Table 14.5); a channel without a stage has no limit in the spec. (Assumption 34 DESIGN CHOICE) -/
def State.thermSwitch (s : State) (c : Nat) : List Byte × State :=
  let st := s.chCode c / 16
  let (lim, u) := if st ≤ 8 then (s.getW (F.THM_STG_TJLIM_EFF st).addr, s) else s.draw
  (beBytes 1 c ++ beBytes 4 (u.getF (F.THM_TJ c)) ++ beBytes 4 lim.toNat, u)

/-- A run of switches, each with its bytes. -/
def State.switches (s : State) (first count : Nat) (f : State → Nat → List Byte × State) : List Byte × State :=
  (List.range count).foldl (fun (acc : List Byte × State) i => let (b, u) := f acc.2 (first + i); (acc.1 ++ b, u)) ([], s)

/-- A request for a run of switches, whose channels end at CH63. (Assumption 34 DESIGN CHOICE) -/
def readSwitches (code : Nat) (f : State → Nat → List Byte × State) (r : Req) (s : State) : Out :=
  serveOp { code := code, lens := [2] } r (fun _ s =>
    let first := r.num 0 1
    let count := r.num 1 1
    if 64 < first + count ∨ !r.fits (9 * count) then refuse stBadParam s
    else let (d, u) := s.switches first count f; okWith d u) s

/-- THERM_READ (R96). -/
def execThermRead (r : Req) (s : State) : Out := readSwitches 0x0E00 State.thermSwitch r s

/-- WEAR_READ (R96): LIFE and CYC of each switch. -/
def execWearRead (r : Req) (s : State) : Out :=
  readSwitches 0x0E01 (fun s c => (beBytes 1 c ++ beBytes 4 (s.getF (F.THM_LIFE c)) ++ beBytes 4 (s.getF (F.THM_CYC c)), s)) r s

/-- The used switch with the highest life consumption, the lowest channel among equals; CH0 where none is used. (Assumption 35 DESIGN CHOICE) -/
def State.mostWorn (s : State) : Nat :=
  (below 64 fun c => s.chCode c / 16 != 15).foldl (fun m c => if vget s.thm.life m 0 < vget s.thm.life c 0 || s.chCode m / 16 == 15 then c else m) 0

/-- The 16 bytes of SPARE_STATUS (Table 14.4). -/
def State.spareData (s : State) : List Byte :=
  let avail := s.getF F.AUX_STAT_AVAIL
  let c := s.mostWorn
  beBytes 2 (s.getF F.THM_SPARE_EOS) ++ beBytes 2 (s.getF F.THM_SPARE_RETIRED) ++ beBytes 1 avail ++ beBytes 1 (Nat.lor s.thm.buckRetired s.thm.buckDue)
    ++ beBytes 1 ((bitsList 8 avail).length - 6) ++ beBytes 1 s.thm.chopRetired ++ beBytes 4 (s.getF (F.THM_LIFE c))
    ++ beBytes 1 c ++ beBytes 1 (s.chCode c / 16) ++ beBytes 2 0

/-- SPARE_STATUS (R389). -/
def execSpareStatus (r : Req) (s : State) : Out := serveOp { code := 0x0E02 } r (fun _ s => okWith s.spareData s) s

/-- The channels of a TLM_STREAM request (Table 4.7). -/
def streamChans (r : Req) : List Nat := (List.range (r.num 8 1)).map fun i => r.num (9 + i) 1

/-- Numbers in rising order. -/
def rising : List Nat → Bool
  | a :: b :: rest => decide (a < b) && rising (b :: rest)
  | _ => true

/-- The FAST path of a channel is in sinc3 mode (R99, R170). -/
def State.fastSinc3 (s : State) (c : Nat) : Bool := s.gzMode c == 1 && !s.gzAvg c

/-- The parameters of a starting TLM_STREAM are in range (R99, Table 4.7). (Assumption 36 DESIGN CHOICE) -/
def State.streamOk (s : State) (r : Req) : Bool :=
  let n := r.num 8 1
  let cs := streamChans r
  decide (r.num 1 1 ≤ 8) && r.num 2 1 % 2 == 0 && decide (1 ≤ n) && decide (n ≤ 16) && rising cs
    && cs.all (fun c => decide (c < 72) && s.fastSinc3 c) && (List.range (16 - n)).all fun i => r.num (9 + n + i) 1 == 0xFF

/-- A stream starts as its request says; the sequence of its first frame is free (R99). (Assumption 36 DESIGN CHOICE) -/
def State.streamBegins (s : State) (r : Req) : State :=
  let x : Stream := { session := r.session, dest := BitVec.ofNat 48 (r.num 2 6), dec := r.num 1 1, chans := streamChans r, seq := s.draw.1.toNat % 65536 }
  { s.draw.2 with com := { s.draw.2.com with stream := some x } }

/-- TLM_STREAM (R99). -/
def execTlmStream (r : Req) (s : State) : Out :=
  serveOp { code := 0x0D01, level := 2, lens := [25] } r (fun _ s =>
    let en := r.num 0 1
    if 1 < en ∨ r.port ≠ .eth then refuse stBadParam s
    else if en = 0 then okWith [] { s with com := { s.com with stream := none } }
    else if !s.streamOk r then refuse stBadParam s
    else if s.com.stream.any fun x => x.session != r.session then refuse stBusy s
    else
      okWith [] (s.streamBegins r)) s

/-- Sample sets in one frame of n channels (R100). -/
def setsPerFrame (n : Nat) : Nat := 1448 / (3 * n)

/-- The parameters of a stream frame: the header of Table 4.8 and the sample sets (R100). -/
def Stream.frame (x : Stream) (sets : List StreamSet) : List Byte :=
  let n := x.chans.length
  let chans := (x.chans ++ List.replicate 16 0xFF).take 16
  beBytes 8 ((sets.head?.map fun z => z.time).getD 0) ++ beBytes 1 x.dec ++ beBytes 1 n ++ beBytes 2 sets.length
    ++ beBytes 2 (sets.foldl (fun m z => Nat.lor m z.ovr) 0) ++ chans.flatMap (fun c => beBytes 1 c) ++ beBytes 2 0
    ++ sets.flatMap fun z => z.words.flatMap fun w => beBytes 3 w

/-- A frame of k sample sets leaves: flags 0x02, opcode 0x0D01, the owning session and the next sequence number (R74, R100). (Assumption 172 DEDUCED) -/
def State.streamSends (s : State) (x : Stream) (k : Nat) : State :=
  let f : Sent := .stream x.session x.seq (.eth x.dest none (packet 0x02 (BitVec.ofNat 16 x.seq) 0x0D01 x.session (x.frame (x.sets.take k))))
  let y := { x with seq := (x.seq + 1) % 65536, sets := x.sets.drop k }
  { s with com := { s.com with stream := some y, sent := f :: s.com.sent } }

/-- TLM_STREAM_FRAME (R100): as many sets as a frame holds have been collected. -/
def execTlmStreamFrame (t : Nat) (s0 : State) : Out :=
  let s := s0.advance t
  match s.com.stream with
  | none => .next s
  | some x =>
    let k := setsPerFrame x.chans.length
    if k = 0 ∨ x.sets.length < k ∨ !s.com.linkUp then .next s else .next (s.streamSends x k)

end Sys2Proof.Machine
end

