-- ==== Sys2Proof/Machine/Image.lean ====
section
/-! DEFINITION. The configuration image: its format, the checks of staging, the commit and the read of the active image (R122 to R128, R286, R401). -/

namespace Sys2Proof.Machine

open Sys2Proof

/-- Content length of a record type (Table 5.7); none for an unknown type. -/
def recordLen : Nat → Option Nat
  | 1 => some 12
  | 2 => some 36
  | 3 => some 64
  | 4 => some 4
  | _ => none

/-- The records of a body, each with its type and content; none where the structure breaks (R125). The fuel bounds the count. -/
def parseRecords : Nat → List Byte → Option (List (Nat × List Byte))
  | 0, bs => if bs.isEmpty then some [] else none
  | n + 1, bs =>
    if bs.isEmpty then some []
    else
      let len := beAt bs 2 2
      if bs.length < 4 + len ∨ beAt bs 1 1 ≠ 0 ∨ recordLen (beAt bs 0 1) ≠ some len then none
      else match parseRecords n (bs.drop (4 + len)) with
        | some l => some ((beAt bs 0 1, (bs.drop 4).take len) :: l)
        | none => none

/-- The content of the one record of a type, where it is present. -/
def theRecord (recs : List (Nat × List Byte)) (type : Nat) : Option (List Byte) := (recs.find? fun r => r.1 == type).map fun r => r.2

/-- A type from 0x02 to 0x04 occurs at most once (R125), and reserved bytes are 0. -/
def recordsFormed (recs : List (Nat × List Byte)) : Bool :=
  ([2, 3, 4].all fun ty => decide ((recs.filter fun r => r.1 == ty).length ≤ 1)) &&
    recs.all fun r => r.1 != 2 || beAt r.2 34 2 == 0

/-- Check 1 of R126: magic, format, reserved bytes, lengths and record structure (Table 5.6). -/
def imageRecords (bs : List Byte) : Option (List (Nat × List Byte)) :=
  let len := beAt bs 24 4
  if bs.length < 64 ∨ beAt bs 0 4 ≠ 0x4F444349 ∨ beAt bs 4 2 ≠ 1 ∨ beAt bs 6 2 ≠ 0 ∨ beAt bs 8 4 = 0 ∨ beAt bs 21 3 ≠ 0 ∨ len % 4 ≠ 0
      ∨ bs.length ≠ 64 + len + 8240 then none
  else match parseRecords (len / 4) ((bs.drop 64).take len) with
    | some recs => if recs.length = beAt bs 28 4 ∧ recordsFormed recs then some recs else none
    | none => none

/-- The allocation the records of an image give, with the defaults of absent records (R125). -/
def imageMap (recs : List (Nat × List Byte)) : StageMap :=
  let codes := (theRecord recs 2).getD (StageMap.canonicalCodes.map (BitVec.ofNat 8) ++ [0, 0xF0])
  { codes := Vector.ofFn fun i => beAt codes i.val 1
    hb6Half := beAt codes 32 1 == 1
    ch13 := beAt codes 33 1
    owners := match theRecord recs 3 with
      | some o => Vector.ofFn fun i => beAt o i.val 1
      | none => Vector.replicate 64 255
    islands := match theRecord recs 4 with
      | some u => beAt u 0 4
      | none => 0xFFFFFFFF }

/-- The field records as address, mask and value; reserved bits have no effect (R7). -/
def imageFields (recs : List (Nat × List Byte)) : List (Nat × Nat × Nat) :=
  (recs.filter fun r => r.1 == 1).map fun r =>
    let a := beAt r.2 0 4
    (a, Nat.land (beAt r.2 4 4) (maskWhere (fun _ => true) a), beAt r.2 8 4)

/-- Register words with an image's field records over the reset values (R123). (Assumption 228 DESIGN CHOICE) -/
def State.withFields (s : State) (fields : List (Nat × Nat × Nat)) : State :=
  fields.foldl (fun (t : State) f => if (findReg f.1).isSome then t.setW f.1 (overlay (t.getW f.1) f.2.1 f.2.2) else t) s

/-- How many indices a stage has, 0 for a code that is no stage (Table 1.5). -/
def stageSize : Nat → Nat
  | 0 => 3 | 1 => 3 | 2 => 1 | 3 => 3 | 4 => 4 | 5 => 4 | 6 => 8 | 7 => 3 | 8 => 3 | _ => 0

/-- A function of isolated half-bridges; a user function and an unused one may stand on either type (R14). -/
def isolatedCode (c : Nat) : Bool := c / 16 ≤ 4 || (c / 16 == 5 && c % 16 ≤ 1)

/-- One half-bridge's function code may stand where it stands (R14, R125). -/
def codeOk (h c : Nat) : Bool :=
  c / 16 == 14 || c / 16 == 15 || (decide (c % 16 < stageSize (c / 16)) && isolatedCode c == decide (h < 16))

/-- CH13's function code fits HB6's mode (R125, R127). -/
def StageMap.ch13Ok (m : StageMap) : Bool :=
  if m.hb6Half then m.ch13 == 0xF0
  else m.ch13 / 16 == 14 || m.ch13 / 16 == 15 || (m.ch13 == 0x21 && vget m.codes 6 0xF0 == 0x20)

/-- The functions a map places, unused ones left out. -/
def StageMap.placed (m : StageMap) : List Nat := (m.codes.toList ++ [m.ch13]).filter fun c => c / 16 != 15

/-- A stage is complete with every index or absent with none (R127). -/
def StageMap.complete (m : StageMap) : Bool :=
  (List.range 9).all fun st =>
    let here := (List.range (stageSize st)).filter fun i => m.placed.contains (16 * st + i)
    here.isEmpty || here.length == stageSize st

/-- The rules of R127 on the stage map. (Assumption 49 DEDUCED) -/
def StageMap.ok (m : StageMap) (hb6 : Nat) : Bool :=
  decide (hb6 ≤ 1) && ((List.range 32).all fun h => codeOk h (vget m.codes h 0xF0)) && m.ch13Ok && m.complete && decide m.placed.Nodup

/-- Every channel with a function has its island declared used (R127). -/
def StageMap.islandsOk (m : StageMap) : Bool :=
  (List.range 32).all fun c =>
    let code := if c = 13 && !m.hb6Half then m.ch13 else vget m.codes (c / 2) 0xF0
    code / 16 == 15 || bitAt m.islands c

/-- The rules of R127 on the channel owners. -/
def State.ownersOk (s : State) : Bool :=
  (List.range 64).all fun c =>
    let o := vget s.map.owners c 255
    o == 255 || (decide (o < 16) && s.chCode c / 16 != 15)

/-- A trip entry with its values in force keeps the rules of R401. -/
def State.tripEntryOk (s : State) (k : Nat) : Bool :=
  let ch := s.getF (F.SLT_TRIP_CH k)
  decide (ch ≤ 71) &&
    (!(s.getB (F.SLT_TRIP_HIEN k) && s.getB (F.SLT_TRIP_LOEN k)) ||
      decide (s.gzValue ch (s.getF (F.SLT_TRIP_LO k)) < s.gzValue ch (s.getF (F.SLT_TRIP_HI k)))) &&
    (bitsList 32 (s.getF (F.SLT_TRIP_HBMASK k))).all fun h => s.hbUsed h

/-- CHOP_START < CHOP_FULL < OV_ASC < OV_TRIP (R286, R401). -/
def State.ovOrder (s : State) : Bool :=
  decide (s.getF F.SLT_CHOP_CHOP_START < s.getF F.SLT_CHOP_CHOP_FULL) && decide (s.getF F.SLT_CHOP_CHOP_FULL < s.getF F.SLT_OV_OV_ASC)
    && decide (s.getF F.SLT_OV_OV_ASC < s.getF F.SLT_OV_OV_TRIP)

/-- The rules of R401 on the SLT_ word at an address, with the values an image gives. -/
def State.sltWordOk (s : State) (a : Nat) : Bool :=
  if a = F.SLT_CHOP_CHOP_START.addr ∨ a = F.SLT_OV_OV_TRIP.addr then s.ovOrder
  else match instanceOf a 0xA1000 8 32, instanceOf a 0xA1004 8 32 with
    | some h, _ => !s.hbUsed h || (decide (320 ≤ bitsOf (s.getW a).toNat 15 0) && decide (640 ≤ bitsOf (s.getW a).toNat 31 16))
    | _, some h => let f := bitsOf (s.getW a).toNat 15 0; decide (1 ≤ f) && decide (f ≤ 5000) && (!s.hbUsed h || decide (4 ≤ f))
    | _, _ => if 0xA2000 ≤ a && a < 0xA2200 then s.tripEntryOk ((a - 0xA2000) / 16) else true

/-- A field record passes check 5 (R127, R401): a mask of a safety-input pair names no bit above 8, and a limit word keeps the rules of R401; s holds the values of the whole image, before the raw records in front of it. (Assumption 49 DEDUCED) -/
def State.fieldOk (s : State) (before : List (Nat × List Byte)) (content : List Byte) : Bool :=
  let a := beAt content 0 4
  let mask := beAt content 4 4
  let value := beAt content 8 4
  let b := a / 65536
  (findReg a).isSome && b != 0xD && b != 0xE
    && (touched a mask fun f => !f.writable || f.acc == .wo1).isEmpty
    && Nat.land value mask == value
    && (!(0xA0020 ≤ a && a < 0xA0030) || decide (value < 1024))
    && !(before.any fun r => r.1 == 1 && beAt r.2 0 4 == a && Nat.land (beAt r.2 4 4) mask != 0)
    && rangesOk a mask (s.getW a) && s.crossOk a (s.getW a).toNat && s.sltWordOk a

/-- The stage map passes check 5; a trip entry left at its reset mask must not name a half-bridge the map leaves unused (R127, R401). (Assumption 49 DEDUCED) -/
def State.mapOk (s : State) (hb6 : Nat) (fields : List (Nat × Nat × Nat)) : Bool :=
  s.map.ok hb6 && (List.range 32).all fun k => s.tripEntryOk k || fields.any fun f => 0xA2000 ≤ f.1 && f.1 < 0xA2200 && (f.1 - 0xA2000) / 16 == k

/-- The index of the first refused record from n on (R126 check 5, R127, R401). (Assumption 49 DEDUCED) -/
def State.firstBad (s : State) (fields : List (Nat × Nat × Nat)) : Nat → List (Nat × List Byte) → List (Nat × List Byte) → Option Nat
  | _, _, [] => none
  | n, before, r :: rest =>
    let ok := if r.1 = 1 then s.fieldOk before r.2 else if r.1 = 2 then s.mapOk (beAt r.2 32 1) fields
      else if r.1 = 3 then s.ownersOk else s.map.islandsOk
    if ok then s.firstBad fields (n + 1) (r :: before) rest else some n

/-- The reset state under an image's allocation and field records, on which check 5 is judged. -/
def imageState (recs : List (Nat × List Byte)) : State := ({ State.reset with map := imageMap recs }).withFields (imageFields recs)

/-- The checks of R126 in their order: the status, the index of the first refused record, and the image that passes. (Assumption 49 DEDUCED) -/
def State.checkImage (s : State) (bs : List Byte) : Nat × Option Nat × Option Image :=
  match imageRecords bs with
  | none => (stBadParam, none, none)
  | some recs =>
    let n := 64 + beAt bs 24 4
    if sha256 ((bs.drop 64).take (beAt bs 24 4)) ≠ (bs.drop 32).take 32 ∨ !blockVerifies 5 (bs.take n) (bs.drop n) then (stSigInvalid, none, none)
    else if (beAt bs 12 8 ≠ 0 ∧ (bs.drop 12).take 8 ≠ s.serialBytes) ∨ beAt bs 20 1 ≠ s.getF F.IDN_REV_REV then (stBadParam, none, none)
    else if beAt bs 8 4 < s.getF F.SYS_IMG_FLOOR then (stRollback, none, none)
    else match (imageState recs).firstBad (imageFields recs) 0 [] recs with
      | some k => (stBadParam, some k, none)
      | none => (stOK, none, some { version := beAt bs 8 4, fields := imageFields recs, map := imageMap recs, bytes := bs })

/-- SYS_IMG_STAGE with a state and no refused record. -/
def State.showStage (s : State) (st : Nat) (bad : Option Nat) : State :=
  (s.setF F.SYS_IMG_STAGE_STATE st).setF F.SYS_IMG_STAGE_ERR_RECORD (bad.getD 0xFFFF)

/-- A staging begins: what was staged goes (R126). (Assumption 50 DEDUCED) -/
def State.stageBegins (s : State) (off : Nat) : State :=
  if off = 0 then ({ s with idn := { s.idn with staged := none } }).showStage 1 none else s

/-- IMG_STAGE (R89, R122, R126): the check of the whole image ends with IMAGE_CHECKED. -/
def execImgStage (r : Req) (s : State) : Out :=
  .next (serve { code := 0x0B01, level := 2, background := lastChunk r 0 } (fun n => decide (9 ≤ n)) r (fun t s =>
    match s.chunk 0x0B01 0 65536 r.session (r.num 0 4) (r.num 4 4) (r.params.drop 8) with
    | .bad => refuseChunk 0x0B01 r.session s
    | .busy => refuse stBusy s
    | .more u => okWith [] (u.stageBegins (r.num 0 4))
    | .whole bytes u =>
      if s.com.sigJob.isSome then refuse stBusy s
      else
        let v := u.stageBegins (r.num 0 4)
        .later { v with com := { v.com with sigJob := some (.image t bytes) } }) s)

/-- The end of the signature engine's job. -/
def State.jobDone (s : State) : State := { s with com := { s.com with sigJob := none } }

/-- A checked image: staged for its session where it passed, otherwise FAILED with the first refused record shown (R126). (Assumption 50 DEDUCED) -/
def State.imageJudged (s : State) (tk : Ticket) (bad : Option Nat) (img : Option Image) : State :=
  match img with
  | some i =>
    if (s.session tk.session).isSome then ({ s with idn := { s.idn with staged := some (tk.session, i) } }).showStage 2 none
    else s.showStage 0 none
  | none => s.showStage 3 bad

/-- IMAGE_CHECKED (R126). -/
def execImageChecked (t : Nat) (s0 : State) : Out :=
  let s := s0.advance t
  match s.com.sigJob with
  | some (.image tk bytes) =>
    let (st, bad, img) := s.jobDone.checkImage bytes
    .next ((s.jobDone.imageJudged tk bad img).answer tk st [])
  | _ => .next s

/-- IMG_COMMIT (R128): the write of the image ends with IMG_COMMIT_DONE. (Assumption 50 DEDUCED) -/
def execImgCommit (r : Req) (s : State) : Out :=
  serveOp { code := 0x0B02, level := 2, background := true } r (fun t s =>
    let mine := match s.idn.staged with
      | some (own, _) => own == r.session
      | none => false
    if s.power ≠ pSTANDBY ∨ s.getF F.SYS_IMG_STAGE_STATE ≠ 2 ∨ !mine then refuse stStateRefused s
    else if s.idn.commit.isSome then refuse stBusy s
    else if s.getB F.THM_STAT_MRAM_INH then refuse stTempInhibit s
    else match s.idn.staged with
      | some (_, i) => .later { s with idn := { s.idn with slots := vset s.idn.slots (1 - s.idn.imgActive) (some i), commit := some (t, r.session) } }
      | none => refuse stStateRefused s) s

/-- The written slot becomes the active one, and the floor rises to its version (R128). -/
def State.imgSwitch (s : State) : State :=
  let new := 1 - s.idn.imgActive
  let ver := ((vget s.idn.slots new none).map fun i => i.version).getD 0
  { s with idn := { s.idn with imgActive := new, commit := none } }.setF F.SYS_IMG_FLOOR (max ver (s.getF F.SYS_IMG_FLOOR))

/-- IMG_COMMIT_DONE (R128): the pointer names the written slot, and the floor rises to its version. -/
def execImgCommitDone (t : Nat) (s0 : State) : Out :=
  let s := s0.advance t
  match s.idn.commit with
  | some (tk, _) => .next (s.imgSwitch.answer tk stOK [])
  | none => .next s

/-- The image the pointer names (R128). (Assumption 51 DEDUCED) -/
def State.activeImage (s : State) : Option Image := vget s.idn.slots s.idn.imgActive none

/-- A long result is kept for the later reads of its opcode and session (R90). (Assumption 38 DEDUCED) -/
def State.keepLong (s : State) (t : Ticket) (key bytes : List Byte) : State :=
  let kept : LongResult := { opcode := t.opcode, session := t.session, key := key, bytes := bytes }
  { s with com := { s.com with longs := kept :: s.com.longs.filter fun x => !(x.opcode == t.opcode && x.session == t.session) } }

/-- A long result of an opcode in a session: formed at offset 0 and kept, otherwise read from what was formed with the same key (R90). -/
def State.longRead (s : State) (t : Ticket) (key bytes : List Byte) (off maxLen : Nat) : Res :=
  if off = 0 then
    let (st, d) := longReply bytes 0 maxLen t.room
    .done st d (s.keepLong t key bytes)
  else match s.com.longs.find? fun x => x.opcode == t.opcode && x.session == t.session with
    | some x => if x.key = key then let (st, d) := longReply x.bytes off maxLen t.room; .done st d s else refuse stBadParam s
    | none => refuse stBadParam s

/-- IMG_READ (R90, R128): the active image; without one the result is empty. (Assumption 38 DEDUCED) -/
def execImgRead (r : Req) (s : State) : Out :=
  serveOp { code := 0x0B00, lens := [6] } r (fun t s =>
    s.longRead t [] ((s.activeImage.map fun i => i.bytes).getD []) (r.num 0 4) (r.num 4 2)) s

end Sys2Proof.Machine
end

