-- ==== Sys2Proof/Machine/Firmware.lean ====
section
/-! DEFINITION. Firmware slots and attestation (R477 to R482). -/

namespace Sys2Proof.Machine

open Sys2Proof

/-- The firmware image in a slot of a target. -/
def State.fwImage (s : State) (target slot : Nat) : Option FwImage := vget s.idn.fw (2 * target + slot) none

/-- A slot with its content, its state and its version shown (Table 17.8). -/
def State.setSlot (s : State) (target slot : Nat) (f : Option FwImage) (st : Nat) : State :=
  let t := { s with idn := { s.idn with fw := vset s.idn.fw (2 * target + slot) f } }
  (t.setF (fwStateFld target slot) st).setF (F.IDN_VERSION (2 * target + slot)) ((f.map fun x => x.version).getD 0)

/-- The anti-rollback counter of a target (R480). -/
def State.rollback (s : State) (target : Nat) : Nat := s.getF (F.IDN_FWSTAT_COUNTER target)

/-- A slot verifies: its signature block under certificate 2, and its rollback index (R480). The image put in at manufacture was signed by Yargan. (Assumption 54 DEDUCED) -/
def State.slotVerifies (s : State) (target slot : Nat) : Bool :=
  match s.fwImage target slot with
  | some f => (if f.factory then Config.certOk 2 else blockVerifies 2 f.signed f.signature) && decide (s.rollback target ≤ f.rollback)
  | none => false

/-- The hash of what a slot holds: SHA-256 of its signed bytes (R477). -/
def State.slotHash (s : State) (target slot : Nat) : List Byte :=
  match s.fwImage target slot with
  | some f => if f.factory then (List.range 32).map fun k => Config.factoryHash target k else sha256 f.signed
  | none => List.replicate 32 0

/-- The maximum total length of a target's image (R479). -/
def fwMax (target : Nat) : Nat := if target = 0 then 2097152 else 262144

/-- Words of MRAM that the data of a chunk of FW_STAGE takes. -/
def chunkWords (r : Req) : Nat := (r.params.length - 9 + 3) / 4

/-- Why a chunk of FW_STAGE is refused before it is written: 0 none; a later chunk enters the queue of an MRAM inhibit and is refused only where it does not fit (R384, R481, Table 17.5). (Assumption 54 DEDUCED, 227 DEDUCED) -/
def State.fwRefusal (s : State) (target off words : Nat) : Nat :=
  if s.power ≠ pSTANDBY then stStateRefused
  else if off ≠ 0 then (if s.mramFits words then 0 else stTempInhibit)
  else if s.getB F.SYS_BOOT_RECOVERY ∧ target ≠ 0 then stStateRefused
  else if bitAt s.idn.activated target then stBusy
  else if s.getB F.THM_STAT_MRAM_INH then stTempInhibit
  else 0

/-- A refused chunk: outside STANDBY the transfer is abandoned (Table 17.5). -/
def State.fwRefuse (s : State) (session : Word) (st off : Nat) : Res :=
  if off ≠ 0 ∧ st = stStateRefused then refuse st (s.abandonTransfers fun x => x.opcode == 0x0B03 && x.session == session) else refuse st s

/-- The chunk at offset 0 abandons an unfinished transfer and marks its slot empty, then receiving (R89, R481). (Assumption 54 DEDUCED) -/
def State.fwBegins (s : State) (session : Word) (target off : Nat) : State :=
  if off = 0 then (s.abandonTransfers fun x => x.opcode == 0x0B03 && x.session == session).setSlot target (s.idleSlot target) none 1 else s

/-- The data of a chunk is written, or waits in the queue of an MRAM inhibit (R384). (Assumption 227 DEDUCED) -/
def State.fwWrite (s : State) (target words : Nat) : State := (s.mramPut ⟨3, target, 0, words⟩ false).2

/-- FW_STAGE (R89, R481): the check of the whole image ends with FW_IMAGE_CHECKED. -/
def execFwStage (r : Req) (s : State) : Out :=
  .next (serve { code := 0x0B03, level := 2, background := lastChunk r 1 } (fun n => decide (10 ≤ n)) r (fun t s =>
    let target := r.num 0 1
    let off := r.num 1 4
    let why := s.fwRefusal target off (chunkWords r)
    let join := fun (u : State) => u.chunk 0x0B03 target (fwMax target) r.session off (r.num 5 4) (r.params.drop 9)
    if 1 < target then refuseChunk 0x0B03 r.session s
    else match join s with
      | .bad => refuseChunk 0x0B03 r.session s
      | .busy => if why ≠ 0 then refuse why s else refuse stBusy s
      | .whole bytes u =>
        if why ≠ 0 then s.fwRefuse r.session why off
        else if s.com.sigJob.isSome then refuse stBusy s
        else
          let v := match join (s.fwBegins r.session target off) with
            | .whole _ v => v
            | _ => u
          .later (({ v with com := { v.com with sigJob := some (.firmware t target bytes) } }).fwWrite target (chunkWords r))
      | .more _ =>
        if why ≠ 0 then s.fwRefuse r.session why off
        else match join (s.fwBegins r.session target off) with
          | .more u => okWith [] (u.fwWrite target (chunkWords r))
          | _ => refuse stBusy s) s)

/-- Checks 1 to 4 of R481 in their order: the status, and the image that passes. -/
def State.checkFirmware (s : State) (target : Nat) (bs : List Byte) : Nat × Option FwImage :=
  let len := beAt bs 16 4
  let n := 64 + len
  let index := beAt bs 12 1
  if bs.length < 64 ∨ beAt bs 0 4 ≠ 0x4F465749 ∨ beAt bs 4 2 ≠ 1 ∨ 64 < index ∨ beAt bs 13 3 ≠ 0 ∨ len % 4 ≠ 0 ∨ beAt bs 20 12 ≠ 0 ∨ bs.length ≠ n + 8240 then
    (stBadParam, none)
  else if sha256 ((bs.drop 64).take len) ≠ (bs.drop 32).take 32 ∨ !blockVerifies 2 (bs.take n) (bs.drop n) then (stSigInvalid, none)
  else if beAt bs 6 1 ≠ target ∨ beAt bs 7 1 ≠ s.getF F.IDN_REV_REV then (stBadParam, none)
  else if index < s.rollback target then (stRollback, none)
  else (stOK, some { version := beAt bs 8 4, rollback := index, signed := bs.take n, signature := bs.drop n })

/-- FW_IMAGE_CHECKED (R481): the slot is staged, or stays empty. -/
def execFwImageChecked (t : Nat) (s0 : State) : Out :=
  let s := s0.advance t
  match s.com.sigJob with
  | some (.firmware tk target bytes) =>
    let (st, f) := s.jobDone.checkFirmware target bytes
    .next ((s.jobDone.setSlot target (s.jobDone.idleSlot target) f (if f.isSome then 2 else 0)).answer tk st [])
  | _ => .next s

/-- The slot not booted from holds a staged or previously verified image that the counter admits (R482). -/
def State.mayActivate (s : State) (target : Nat) : Bool :=
  match s.fwImage target (s.idleSlot target) with
  | some f => s.getF (fwStateFld target (s.idleSlot target)) == 2 && decide (s.rollback target ≤ f.rollback)
  | none => false

/-- The pointer of a target names the other slot, FW_ACTIVATED is recorded, and the reset is due 10 ms later (R482). -/
def State.fwSwitch (s : State) (target : Nat) : State :=
  let b := (s.setF (F.IDN_FWSTAT_POINTER target) (s.idleSlot target)).raise Flt.FW_ACTIVATED { item := target }
  { b with idn := { b.idn with activated := 2 ^ target }, pwr := { b.pwr with activateAt := some (b.now + 10 * ticksPerMs) } }

/-- FW_ACTIVATE (R482): the pointer switches, and the reset follows 10 ms later. -/
def execFwActivate (r : Req) (s : State) : Out :=
  serveOp { code := 0x0B04, level := 2, background := true, lens := [1] } r (fun _ s =>
    let target := r.num 0 1
    if 1 < target then refuse stBadParam s
    else if s.power ≠ pSTANDBY ∨ s.idn.activated ≠ 0 ∨ !s.mayActivate target then refuse stStateRefused s
    else if s.getB F.THM_STAT_MRAM_INH then refuse stTempInhibit s
    else .done stDeferred [] (s.fwSwitch target)) s

/-- FW_ACTIVATE_RESET (R482): 10 ms after the reply the main die resets as with NRST; a module that has gone to TEST meanwhile leaves it by NRST alone (Table 3.2). -/
def execFwActivateReset (t : Nat) (s0 : State) : Out :=
  let s := s0.advance t
  match s.pwr.activateAt with
  | some a => .next (if s.mainUp && s.power != pTEST && decide (a ≤ s.now) then s.resetAndBoot 0x09 else s)
  | none => .next s

/-- n free bytes. -/
def State.drawBytes (s : State) (n : Nat) : List Byte × State :=
  let (bs, u) := (List.range ((n + 3) / 4)).foldl (fun (acc : List Byte × State) _ => let (w, x) := acc.2.draw; (acc.1 ++ beBytes 4 w.toNat, x)) ([], s)
  (bs.take n, u)

/-- Version and hash of what a target runs (R477); free where no slot of it runs. (Assumption 29 DESIGN CHOICE) -/
def State.targetReport (s : State) (target : Nat) : List Byte × State :=
  let (v, u) := s.runningVersion target
  if s.targetRuns target then (beBytes 4 v ++ u.slotHash target (u.bootedSlot target), u)
  else let (h, x) := u.drawBytes 32; (beBytes 4 v ++ h, x)

/-- Hash of a program loaded by the host, 0 when none is loaded (Table 17.3). -/
def programHash (bs : List Byte) : List Byte := if bs.isEmpty then List.replicate 32 0 else sha256 bs

/-- Version and hash of the configuration image in use (Table 17.3). -/
def State.imageReport (s : State) : List Byte :=
  match s.idn.booted with
  | some i => beBytes 4 i.version ++ sha256 (i.bytes.take (i.bytes.length - 8240))
  | none => List.replicate 36 0

/-- The flags of a report (Table 17.3 byte 7). -/
def State.reportFlags (s : State) : Nat :=
  maskOf ((if s.getB F.SYS_BOOT_RECOVERY then [0] else []) ++ (if s.getB F.SYS_BOOT_FW_FALLBACK then [1] else []) ++ (if s.idn.booted.isNone then [2] else [])
    ++ (if s.qpOn then [] else [3]) ++ (if s.getB F.IDN_DEBUG_UNLOCK then [4] else []) ++ (if s.getB F.PWR_STATE_TIME_INVALID then [5] else [])
    ++ (if s.getF F.IDN_DIEMIS = 0 then [] else [6]))

/-- The attestation report of 288 bytes (Table 17.3). The Ridge answers its query while QP runs. -/
def State.report (s : State) (nonce : List Byte) : List Byte × State :=
  let ridge := if s.qpOn then s.ridgeStatusData else List.replicate 46 0
  let (ap, s1) := s.targetReport 0
  let (lp, s2) := s1.targetReport 1
  (beBytes 4 0x4F415454 ++ beBytes 2 1 ++ beBytes 1 (s.getF F.IDN_REV_LIFECYCLE) ++ beBytes 1 s.reportFlags ++ s.serialBytes ++ nonce
    ++ beBytes 4 s.eaveSeconds ++ beBytes 1 s.power ++ beBytes 1 (s.bootedSlot 0 + 2 * s.bootedSlot 1) ++ beBytes 2 (s.getF F.IDN_DEBUG_DEBUGS)
    ++ ap ++ lp ++ programHash s.idn.le14 ++ programHash s.idn.le15 ++ s.imageReport
    ++ (ridge.drop 10) ++ ridge.take 1 ++ beBytes 3 0 ++ (ridge.drop 1).take 4 ++ beBytes 1 (s.rollback 0) ++ beBytes 1 (s.rollback 1) ++ beBytes 2 0
    ++ beBytes 4 (s.getF F.SYS_IMG_FLOOR) ++ beBytes 8 0, s2)

/-- The report is formed and its signing begins (R477). (Assumption 55 DEDUCED) -/
def State.attestBegins (s : State) (t : Ticket) (nonce : List Byte) (maxLen : Nat) : State :=
  let (b, u) := s.report nonce
  { u with com := { u.com with sigJob := some (.attest t nonce b maxLen) } }

/-- A report and the signature block made over it (R477). -/
def signedReport (b : List Byte) : List Byte := b ++ (List.range 8240).map fun k => Config.signByte 3 b k

/-- ATTEST (R90, R477): at offset 0 the report is formed and its signing begins. -/
def execAttest (r : Req) (s : State) : Out :=
  serveOp { code := 0x0C01, background := r.num 32 4 == 0, lens := [38] } r (fun t s =>
    let nonce := r.params.take 32
    let off := r.num 32 4
    if off ≠ 0 then s.longRead t nonce [] off (r.num 36 2)
    else if !Config.certOk 3 then refuse stStateRefused s
    else if s.com.sigJob.isSome then refuse stBusy s
    else .later (s.attestBegins t nonce (r.num 36 2))) s

/-- ATTEST_SIGNED (R477): the report and its signature block are the long result. (Assumption 55 DEDUCED) -/
def execAttestSigned (t : Nat) (s0 : State) : Out :=
  let s := s0.advance t
  match s.com.sigJob with
  | some (.attest tk nonce b maxLen) =>
    let (st, d) := longReply (signedReport b) 0 maxLen tk.room
    .next ((if (s.session tk.session).isSome then s.jobDone.keepLong tk nonce (signedReport b) else s.jobDone).answer tk st d)
  | _ => .next s

end Sys2Proof.Machine
end

