-- ==== Sys2Proof/Machine/Boot.lean ====
section
/-! DEFINITION. The boot: its steps, its failure paths and its end in STANDBY (R45, R60, R123, R129, R130, R209, R471, R476, R480, R483). -/

namespace Sys2Proof.Machine

open Sys2Proof

/-- The fields of the PWR_ block that layers 1 and 2 set at every boot: PWR_WAKE_EN, PWR_ALARM, SLEEP_TIMEOUT, PWR_BKP_CTRL (R123). (Assumption 13 DEDUCED) -/
def State.resetPwr (s : State) : State :=
  let a := [F.PWR_WAKE_EN.addr, F.PWR_ALARM.addr, F.PWR_BKP_CTRL_ENABLE.addr].foldl (fun (t : State) x => t.setW x (resetWord x)) s
  a.setF F.PWR_CFG_SLEEP_TIMEOUT (F.PWR_CFG_SLEEP_TIMEOUT.of (resetWord F.PWR_CFG_SLEEP_TIMEOUT.addr))

/-- The slot a target boots from: the pointer's where it verifies, otherwise the other; none where neither does (R130). -/
def State.bootSlot (s : State) (target : Nat) : Option Nat :=
  let p := s.getF (F.IDN_FWSTAT_POINTER target)
  if s.slotVerifies target p then some p else if s.slotVerifies target (1 - p) then some (1 - p) else none

/-- The states and versions of the slots of a target, as a boot finds them: the pointer's slot has been verified, the other where the pointer's failed (Table 17.8). (Assumption 54 DEDUCED) -/
def State.showSlots (s : State) (target : Nat) : State :=
  let p := s.getF (F.IDN_FWSTAT_POINTER target)
  [0, 1].foldl (fun (t : State) k =>
    match t.fwImage target k with
    | none => t.setSlot target k none 0
    | some f =>
      let tested := k == p || !s.slotVerifies target p
      t.setSlot target k (some f) (if tested && !s.slotVerifies target k then 3 else 2)) s

/-- The certificates step 3 verifies; one that fails is recorded (R476). -/
def State.bootCerts (s : State) : State :=
  ([0, 1, 2, 3, 5, 6, 7].filter fun i => !Config.certOk i).foldl (fun (t : State) i => t.raise Flt.IDN_CERT_INVALID { detail := i }) s

/-- Step 3: the AP and SP firmware (R130, Table 5.9). -/
def State.bootFirmware (s0 : State) : State :=
  let s := s0.showSlots 0
  match s.bootSlot 0 with
  | some k =>
    let t := (s.setF (F.IDN_FWSTAT_BOOTED 0) k).setF F.SYS_BOOT_ACTIVE_SLOT k
    if k = s.getF (F.IDN_FWSTAT_POINTER 0) then t else (t.setB F.SYS_BOOT_FW_FALLBACK true).raise Flt.FW_SLOT_FALLBACK {}
  | none => (s.setB F.SYS_BOOT_RECOVERY true).raise Flt.FW_NONE {}

/-- Step 4: the loop program set (R130). -/
def State.bootLoopSet (s0 : State) : State :=
  let s := s0.showSlots 1
  match s.bootSlot 1 with
  | some k => s.setF (F.IDN_FWSTAT_BOOTED 1) k
  | none => (s.setB F.SYS_BOOT_LOOP_NONE true).raise Flt.LOOP_SET_INVALID {}

/-- An image verifies at boot: body hash and both signatures (Table 5.8 step 5). -/
def Image.verifies (i : Image) : Bool :=
  let n := 64 + beAt i.bytes 24 4
  sha256 ((i.bytes.drop 64).take (beAt i.bytes 24 4)) == (i.bytes.drop 32).take 32 && blockVerifies 5 (i.bytes.take n) (i.bytes.drop n)

/-- What follows from the words an image leaves: carriers that it sets running, effective values, half-bridge modes, a wear reset (R136, R148, R390). (Assumption 51 DEDUCED, 52 DEDUCED) -/
def State.imageEffects (s : State) : State :=
  let a := (List.range 32).foldl (fun (t : State) h => t.showEff h) s
  let b := (below 16 fun n => s.getB (F.PWM_CAR_CTRL_RUN n)).foldl (fun (t : State) n => t.carrierRun n) a
  let w := b.getF F.THM_WEAR_RESET_STAGES
  ((bitsList 9 w).foldl (fun (t : State) st => t.wearReset st) (b.setF F.THM_WEAR_RESET_STAGES 0)).showModes

/-- In recovery mode the transports keep their reset settings (R483). (Assumption 53 DEDUCED) -/
def State.recoveryPorts (s : State) : State :=
  if s.getB F.SYS_BOOT_RECOVERY then
    (s.setW F.COM_CFG_ETH_EN.addr (resetWord F.COM_CFG_ETH_EN.addr)).setW F.COM_CAN_ID_REQ_ID.addr (resetWord F.COM_CAN_ID_REQ_ID.addr)
  else s

/-- Steps 5 and 6: the active image is verified and applied over the reset values (R123, R129, Table 5.9). -/
def State.bootImage (s : State) : State :=
  match s.activeImage with
  | some i =>
    if i.verifies then
      let t := { s with map := i.map, idn := { s.idn with booted := some i } }.withFields i.fields
      (t.setF F.SYS_IMG i.version).imageEffects.recoveryPorts
    else (s.setB F.SYS_BOOT_IMG_DEFAULT true).raise Flt.IMG_INVALID {}
  | none => (s.setB F.SYS_BOOT_IMG_DEFAULT true).raise Flt.IMG_INVALID {}

/-- Worst-case cycles of the Yargan programs (Tables 9.2, 11.1, 12.1, 13.1 and R377). (Assumption 58 DEDUCED) -/
def yarganWcet : Nat → Nat
  | 0 => 4400 | 1 => 4400 | 2 => 900 | 3 => 5200 | 4 => 24000 | 5 => 1900 | 6 => 3900 | 7 => 18000 | 8 => 2600 | 9 => 6000 | 10 => 4600 | 11 => 31000
  | 12 => wcetWord Config.backgroundWcet | 13 => 6200 | _ => 0

/-- Step 7: the Yargan programs enter LE0 to LE13 in AUTO (R209). -/
def State.bootEngines (s : State) : State :=
  if s.getB F.SYS_BOOT_LOOP_NONE then s
  else (List.range 14).foldl (fun (t : State) e => ((t.setBit F.LE_RUN_LOADED e true).setF (F.LE_WCET e) (yarganWcet e)).applyMode e 1) s

/-- Step 7: the reference buffers of the groups in use start, and every modulator that is not off (R175, R177). -/
def State.bootGauze (s : State) : State :=
  let a := (List.range 4).foldl (fun (t : State) g => t.refBuffer g true) s
  (below 72 fun n => s.gzMode n != 0).foldl (fun (t : State) n => t.gzRestart n true) a

/-- Step 7: the identity of the island dies (R471). -/
def State.bootDies (s : State) (mis : Nat) : State :=
  let t := s.setF F.IDN_DIEMIS mis
  if mis = 0 then t else t.raise Flt.IDN_DIE_MISMATCH { detail := mis }

/-- The islands whose 40 MHz clock runs show it, and the channels of the others are invalid (R21, Table 10.9). -/
def State.bootClocks (s : State) : State :=
  (List.range 32).foldl (fun (t : State) n => t.markClock n (vget s.gate.clkMissing n false)) s

/-- The islands still without CD6 when STANDBY is reached fault again (R21, R280). -/
def State.bootIslands (s : State) : State :=
  (below 32 fun n => vget s.gate.clkMissing n false).foldl (fun (t : State) n => t.clockLost n) s

/-- The chopper's energy bucket starts from CHOP_BUDGET (R289). -/
def State.bootBucket (s : State) : State :=
  let e : Rat := (s.getF F.SLT_BUDGET_CHOP_BUDGET : Rat) * 1000
  { s with gate := { s.gate with bucket := e } }.setF F.GD_CHOP_BUCKET 65535

/-- Step 8: Eave time is loaded from the Ridge where it stands still (R51). (Assumption 14 DEDUCED) -/
def State.bootEave (s : State) : State := if s.pwr.eaveRuns then s else s.eaveLoad

/-- Step 1: an RSTREQ that is already pressed counts as pressed with no release before it (Table 15.9). (Assumption 211 DEDUCED) -/
def State.bootKey (s : State) : State :=
  if s.pwr.rstHigh then { s with slt := { s.slt with rstPressAt := some s.now, rstClean := false } }.setB F.SLT_RST_LEVEL true else s

/-- Steps 1 to 8 of Table 5.8 from a boot that waits (R129). (Assumption 57 DEDUCED) -/
def State.bootSteps (s : State) (mis : Nat) : State :=
  let c := s.countCharge
  let a := { c with pwr := { c.pwr with step := 8, battenBase := c.now, slateBase := c.now } }.resetPwr.bootKey.showLevels
  let b := (((a.bootCerts.bootFirmware).bootLoopSet).bootImage).chargerFollows
  let d := (b.setB F.SLT_STAT_QA_OK (!b.getB F.SYS_BOOT_RECOVERY)).bootBucket.bootEngines
  (d.bootGauze.bootClocks.bootDies mis).bootEave

/-- BOOT (R129): steps 1 to 8 of Table 5.8; mis names the islands whose fuses differ from the stored identity. (Assumption 5 DESIGN CHOICE, 53 DEDUCED) -/
def execBoot (t : Nat) (mis : BitVec 32) (s0 : State) : Out :=
  let s := s0.advance t
  if s.pwr.boot.isNone || s.pwr.step != 0 || s.pwr.inReset || s.pwr.handover.isSome then .next s
  else .next (s.bootSteps mis.toNat)

/-- The counter of a target follows the slot that has reached STANDBY (R480). -/
def State.raiseRollback (s : State) (target : Nat) : State :=
  match s.fwImage target (s.bootedSlot target) with
  | some f =>
    if s.targetRuns target && decide (s.rollback target < f.rollback) then
      (s.setF (F.IDN_FWSTAT_COUNTER target) f.rollback).raise Flt.ROLLBACK_RAISED { item := target }
    else s
  | none => s

/-- The records that have waited for step 9, in their order. -/
def State.writeBootRecs (s : State) : State :=
  s.log.bootRecs.foldl (fun (t : State) r => t.logPut r) { s with log := { s.log with bootRecs := [] } }

/-- Records of step 9: one SUPPLY_INTERRUPTED per hand-over, an accepted reset, the counters that rise (R60, R424, R480). -/
def State.bootRecords (s : State) : State :=
  let a := (List.range s.pwr.interruptions).foldl (fun (t : State) _ => t.raise Flt.SUPPLY_INTERRUPTED {}) s.writeBootRecs
  let b := if s.pwr.resetAccepted then a.raise Flt.RESET_ACCEPTED {} else a
  (b.raiseRollback 0).raiseRollback 1

/-- Trip inputs that are low, and COMP codes beyond their thresholds, when STANDBY is reached latch at that instant (R129). (Assumption 87 DEDUCED) -/
def State.bootTrips (s : State) : State :=
  let t := (List.range 4).foldl (fun (t : State) n => t.tripMapGrown n 0) s
  let code := fun (x : State) (ch : Nat) => x.gzCode ch (x.getW (F.GZ_CH_COMP ch).addr)
  let u := t.slt.beyond.reverse.foldl (fun (x : State) k =>
    let ch := x.getF (F.SLT_TRIP_CH k)
    x.latchEntry ch (code x ch) k) t
  u.compVdc (code u u.gzVdc)

/-- A hold set by a clock check during the boot takes the module to SAFE once STANDBY is reached (R129, R411). (Assumption 176 DEDUCED) -/
def State.bootSafe (s : State) : State :=
  if (below 9 fun st => s.held st).isEmpty && !s.getB F.SLT_STAT_SP_LOST then s else s.enterSafe

/-- Step 9 of a boot that began at b: the module is in STANDBY, and what has waited for it is recorded (R129). (Assumption 57 DEDUCED) -/
def State.standbyReached (s : State) (b : Nat) : State :=
  let a := { s with pwr := { s.pwr with boot := none, step := 9 }, com := { s.com with lastContact := s.now, lastHeartbeat := s.now } }
  let c := (a.setF F.SYS_BOOT_BOOT_MS (min 255 ((a.now - b) / ticksPerMs))).bump F.SYS_BOOT_BOOT_COUNT
  let d := if c.pwr.chargeLost then c.setF F.CHG_STAT_ENDREASON 7 else c
  let e := (d.toPower pSTANDBY d.pwr.bootReason).bootRecords
  { e with pwr := { e.pwr with interruptions := 0, resetAccepted := false, chargeLost := false } }.bootTrips.bootIslands.bootSafe

/-- BOOT_STANDBY_REACHED (R129): step 9. -/
def execBootStandbyReached (t : Nat) (s0 : State) : Out :=
  let s := s0.advance t
  match s.pwr.boot with
  | none => .next s
  | some b =>
    if s.pwr.step ≠ 8 then .next s else .next (s.standbyReached b)

end Sys2Proof.Machine
end

