-- ==== Sys2Proof/Machine/Slots.lean ====
section
/-! DEFINITION. The start of a slot and of a background run: what waits for it takes effect, then what the Yargan program of the engine does that the spec describes (R197, R198, R203). -/

namespace Sys2Proof.Machine

open Sys2Proof

/-- What the Yargan program of an engine does in one slot. (Assumption 79 DEDUCED) -/
def State.slotWork (s : State) (e : Nat) (m : SlotMeas) : State :=
  match e with
  | 0 => s.slotLE0
  | 2 => s.slotLE2
  | 3 => s.slotAct false
  | 4 => s.slotLE4
  | 5 => s.slotLE5
  | 6 => s.slotLE6
  | 7 => s.slotLE7 m
  | 8 => s.slotLE8 m
  | 9 => s.slotLE9
  | 10 => s.slotAct true
  | 11 => s.slotLE11
  | 13 => s.slotLE13 m
  | _ => s

/-- SLOT_START (R198): ecc is what the ECC of the engine's memories finds (R203): 0 nothing, 1 a corrected error, 2 one that halts the engine. (Assumption 174 DEDUCED) -/
def execSlotStart (t : Nat) (e : Fin 16) (m : SlotMeas) (ecc : Fin 3) (s0 : State) : Out :=
  let s := s0.advance t
  match s.slotDue e with
  | none => .next s
  | some p =>
    let a := s.slotBegin e p
    if a.leMode e = 0 then .next (a.setEng e { a.eng e with inSlot := false })
    else
      let b := a.ecc e ecc
      .next (if ecc = 2 then b.showModes else (b.slotWork e m).showModes)

/-- The telemetry that LE12 accumulates at one of its wakes: the peaks of the stages whose telemetry is served, with the quantities of this instant (R345, R367). (Assumption 33 DEDUCED) -/
def State.tlmPass (s : State) : State :=
  [5, 6, 7, 8].foldl (fun (x : State) st => if x.tlmServed st then { x with tlm := { x.tlm with peaks := takePeaks st (x.quantities st) x.tlm.peaks } } else x) s

/-- A background engine leaves WAIT: its count starts again, what waited for the wake takes effect, and LE12 takes the cycles LE11 hands over and samples the telemetry (R197, R207, R345, R386). (Assumption 188 DEDUCED) -/
def State.wakeEngine (s : State) (e : Nat) : State :=
  let a := (((s.setEng e { s.eng e with waitFine := false, cycles := 0, posted := false, staged := [], late := false, satNow := false }).applyEngine e).pendingSwap e).leDwell e
  if e = 12 then a.takeCycles.tlmPass else a

/-- BACKGROUND_WAKE (R197): a FINE output instant has come since the WAIT. -/
def execBackgroundWake (t : Nat) (e : Fin 16) (s0 : State) : Out :=
  let s := s0.advance t
  if s.mainUp && s.background e && (s.eng e).waitFine && decide ((s.eng e).waitAt / 655360 < s.battenTime / 655360) then .next (s.wakeEngine e) else .next s

end Sys2Proof.Machine
end

