-- ==== Sys2Proof/Machine/Spi.lean ====
section
/-! DEFINITION. The host SPI: a transaction's packet and reply, and the meaning that each opcode of a packet runs (R80, R489, R491). -/

namespace Sys2Proof.Machine

open Sys2Proof

/-- The meaning of the general, register, power and drive opcodes for a packet received on the host SPI (Table 4.5). -/
def hostLow : Nat → Option (Req → State → Out)
  | 0x0001 => some execPing
  | 0x0002 => some execGetState
  | 0x0003 => some execSetState
  | 0x0004 => some execGetVersion
  | 0x0005 => some execHeartbeat
  | 0x0010 => some execSessionOpen
  | 0x0011 => some execSessionProve
  | 0x0012 => some execSessionClose
  | 0x0100 => some execRegRead
  | 0x0101 => some execRegWrite
  | 0x0102 => some execRegReadBlock
  | 0x0103 => some execMbxSnapshot
  | 0x0104 => some execApplyHold
  | 0x0105 => some execApplyRelease
  | 0x0106 => some execLock
  | 0x0200 => some execPwrStateSet
  | 0x0201 => some execWakeSources
  | 0x0202 => some execBkpChargerSet
  | 0x0203 => some execBkpStatus
  | 0x0300 => some execDriveArm
  | 0x0301 => some execDriveStart
  | 0x0302 => some execDriveStop
  | 0x0303 => some execTorqueSet
  | 0x0304 => some execSpeedLimitSet
  | 0x0305 => some execDriveDisarm
  | _ => none

/-- The meaning of the stage and loop-engine opcodes for a packet received on the host SPI (Table 4.5). -/
def hostStage : Nat → Option (Req → State → Out)
  | 0x0400 => some execChgSessionBegin
  | 0x0401 => some execChgSet
  | 0x0402 => some execChgSessionEnd
  | 0x0403 => some execPilotStatus
  | 0x0500 => some execAuxEnable
  | 0x0501 => some execAuxSet
  | 0x0502 => some execAuxDisable
  | 0x0503 => some execAuxPhaseMask
  | 0x0600 => some execShiftTo
  | 0x0601 => some execParkEngage
  | 0x0602 => some execParkRelease
  | 0x0603 => some execActHome
  | 0x0700 => some execLeLoad
  | 0x0701 => some execLeBankWrite
  | 0x0702 => some execLeBankSwap
  | 0x0703 => some execLeMode
  | 0x0704 => some execLeTableWrite
  | _ => none

/-- The meaning of the remaining opcodes for a packet received on the host SPI (Table 4.5). -/
def hostHigh : Nat → Option (Req → State → Out)
  | 0x0800 => some execGzConfig
  | 0x0801 => some execGzInject
  | 0x0802 => some execGzCalibrate
  | 0x0803 => some execGzRead
  | 0x0900 => some execSafeStatus
  | 0x0901 => some execFaultLogRead
  | 0x0902 => some execFaultAck
  | 0x0A00 => some execRidgeStatus
  | 0x0A01 => some execRidgeReadRecords
  | 0x0A02 => some execRidgeReadSeal
  | 0x0A03 => some execRidgeReadEvents
  | 0x0B00 => some execImgRead
  | 0x0B01 => some execImgStage
  | 0x0B02 => some execImgCommit
  | 0x0B03 => some execFwStage
  | 0x0B04 => some execFwActivate
  | 0x0C00 => some execIdentRead
  | 0x0C01 => some execAttest
  | 0x0C02 => some execCertRead
  | 0x0D00 => some execTlmRead
  | 0x0D01 => some execTlmStream
  | 0x0D02 => some execLastfaultRead
  | 0x0E00 => some execThermRead
  | 0x0E01 => some execWearRead
  | 0x0E02 => some execSpareStatus
  | _ => none

/-- A request packet handed to its opcode: a defined one, one of the Ridge's authority, or one that is not defined (R82 step 3). -/
def State.runPacket (s : State) (opcode : Nat) (r : Req) : Out :=
  match (hostLow opcode).or ((hostStage opcode).or (hostHigh opcode)) with
  | some f => f r s
  | none => .next (serveNone opcode (if 0x0A80 ≤ opcode ∧ opcode ≤ 0x0A82 then stRidgeOnly else stBadOpcode) r s)

/-- The request that the L bytes of a transaction carry (Table 4.1). -/
def packetReq (t : Nat) (bs : List Byte) : Req where
  time := t
  port := .spi
  version := bs.getD 0 0
  flags := bs.getD 1 0
  seq := BitVec.ofNat 16 (beAt bs 2 2)
  plen := BitVec.ofNat 16 (beAt bs 6 2)
  session := BitVec.ofNat 32 (beAt bs 8 4)
  reserved := BitVec.ofNat 32 (beAt bs 12 4)
  params := (bs.drop 16).take (bs.length - 20)
  crc := BitVec.ofNat 32 (beAt bs (bs.length - 4) 4)

/-- Bytes of a packed reply, header to CRC (R75). -/
def Reply.length (r : Reply) : Nat := 22 + r.data.length

/-- The bytes on SDO of a transaction of n bytes: the length and the bytes of the oldest pending reply, then 0x00 (R80). -/
def State.sdo (s : State) (n : Nat) : List Byte :=
  let m := match s.com.spiOut with
    | [] => []
    | (_, _, r) :: _ => r.packet
  ((beBytes 2 m.length ++ m) ++ List.replicate n 0).take n

/-- The reply side of a transaction: the oldest pending reply leaves where all its bytes were clocked (R80). A delivered reply to SLEEP lets the entry begin (R491). -/
def State.spiDeliver (s : State) (clocked : Nat) : State :=
  match s.com.spiOut with
  | [] => s
  | (_, tk, r) :: rest =>
    if clocked < 2 + r.length then s
    else
      let u := { s with com := { s.com with spiOut := rest, sent := s.sends tk r :: s.com.sent } }.flush
      match u.pwr.sleep with
      | some q => if q.ticket = tk then { u with pwr := { u.pwr with sleep := some { q with delivered := true } } } else u
      | none => u

/-- The L bytes of a transaction that carry an intact packet length are handed to their opcode (R80, Table 4.1). -/
def State.spiReceive (s : State) (t : Nat) (bs : List Byte) : Out := s.runPacket (beAt bs 4 2) (packetReq t bs)

/-- SPI_TRANSACTION (R80, R489): the bytes on SDI from CS_N falling to CS_N rising, judged at its rising edge. During a boot M is 0, and the L bytes are discarded. (Assumption 20 DEDUCED) -/
def execSpiTransaction (t : Nat) (sdi : List Byte) (s0 : State) : Out :=
  let s := s0.advance t
  if !s.mainUp || !s.portOpen .spi then
    .next (if s.pwr.boot.isSome && s.portOpen .spi then { s with com := { s.com with sent := .sdo (List.replicate sdi.length 0) :: s.com.sent } } else s)
  else
    let a := { s with com := { s.com with sent := .sdo (s.sdo sdi.length) :: s.com.sent } }.spiDeliver sdi.length
    let n := beAt sdi 0 2
    if sdi.length < 2 ∨ n = 0 ∨ a.pwr.sleep.isSome then .next a
    else if 4096 < n ∨ sdi.length < 2 + n ∨ n < 20 then .next (a.bump F.COM_ERR_DISCARD)
    else a.spiReceive t ((sdi.drop 2).take n)

end Sys2Proof.Machine
end

