-- ==== Sys2Proof/Machine/Dispatch.lean ====
section
/-! DEFINITION. One arm per command: the direct call of its meaning. -/

namespace Sys2Proof.Machine

open Sys2Proof

def exec (i : Instr) (s : State) : Host.Outcome State Fault Refusal :=
  match i with
  | .ping r => Sys2Proof.Machine.execPing r s
  | .getState r => Sys2Proof.Machine.execGetState r s
  | .setState r => Sys2Proof.Machine.execSetState r s
  | .getVersion r => Sys2Proof.Machine.execGetVersion r s
  | .heartbeat r => Sys2Proof.Machine.execHeartbeat r s
  | .sessionOpen r => Sys2Proof.Machine.execSessionOpen r s
  | .sessionProve r => Sys2Proof.Machine.execSessionProve r s
  | .proofVerified t => Sys2Proof.Machine.execProofVerified t s
  | .authLockoutEnd t => Sys2Proof.Machine.execAuthLockoutEnd t s
  | .sessionClose r => Sys2Proof.Machine.execSessionClose r s
  | .sessionIdleExpiry t session => Sys2Proof.Machine.execSessionIdleExpiry t session s
  | .challengeExpiry t session => Sys2Proof.Machine.execChallengeExpiry t session s
  | .ethLinkDown t => Sys2Proof.Machine.execEthLinkDown t s
  | .regRead r => Sys2Proof.Machine.execRegRead r s
  | .regReadBlock r => Sys2Proof.Machine.execRegReadBlock r s
  | .regWrite r => Sys2Proof.Machine.execRegWrite r s
  | .registerWrite t w addr value mask => Sys2Proof.Machine.execRegisterWrite t w addr value mask s
  | .eventClear t w addr value mask => Sys2Proof.Machine.execEventClear t w addr value mask s
  | .mirrorWrite t w addr value mask => Sys2Proof.Machine.execMirrorWrite t w addr value mask s
  | .carrierRun t w n => Sys2Proof.Machine.execCarrierRun t w n s
  | .carrierStop t w n => Sys2Proof.Machine.execCarrierStop t w n s
  | .gzCfgWrite t w n value mask => Sys2Proof.Machine.execGzCfgWrite t w n value mask s
  | .sltLimitWrite t w addr value mask => Sys2Proof.Machine.execSltLimitWrite t w addr value mask s
  | .wearResetWrite t w value mask => Sys2Proof.Machine.execWearResetWrite t w value mask s
  | .debugUnlockWrite t session value mask => Sys2Proof.Machine.execDebugUnlockWrite t session value mask s
  | .mbxSnapshot r => Sys2Proof.Machine.execMbxSnapshot r s
  | .mbxLastWordRead t session => Sys2Proof.Machine.execMbxLastWordRead t session s
  | .mbxExpiry t => Sys2Proof.Machine.execMbxExpiry t s
  | .applyHold r => Sys2Proof.Machine.execApplyHold r s
  | .applyRelease r => Sys2Proof.Machine.execApplyRelease r s
  | .holdExpired t => Sys2Proof.Machine.execHoldExpired t s
  | .lock r => Sys2Proof.Machine.execLock r s
  | .pwrStateSet r => Sys2Proof.Machine.execPwrStateSet r s
  | .sleepEntry t => Sys2Proof.Machine.execSleepEntry t s
  | .sleepReplyExpired t => Sys2Proof.Machine.execSleepReplyExpired t s
  | .wakeSources r => Sys2Proof.Machine.execWakeSources r s
  | .bkpChargerSet r => Sys2Proof.Machine.execBkpChargerSet r s
  | .bkpStatus r => Sys2Proof.Machine.execBkpStatus r s
  | .driveArm r => Sys2Proof.Machine.execDriveArm r s
  | .driveStart r => Sys2Proof.Machine.execDriveStart r s
  | .driveStop r => Sys2Proof.Machine.execDriveStop r s
  | .torqueSet r => Sys2Proof.Machine.execTorqueSet r s
  | .speedLimitSet r => Sys2Proof.Machine.execSpeedLimitSet r s
  | .driveDisarm r => Sys2Proof.Machine.execDriveDisarm r s
  | .chgSessionBegin r => Sys2Proof.Machine.execChgSessionBegin r s
  | .chgSet r => Sys2Proof.Machine.execChgSet r s
  | .chgSessionEnd r => Sys2Proof.Machine.execChgSessionEnd r s
  | .pilotStatus r => Sys2Proof.Machine.execPilotStatus r s
  | .auxEnable r => Sys2Proof.Machine.execAuxEnable r s
  | .auxSet r => Sys2Proof.Machine.execAuxSet r s
  | .auxDisable r => Sys2Proof.Machine.execAuxDisable r s
  | .auxPhaseMask r => Sys2Proof.Machine.execAuxPhaseMask r s
  | .shiftTo r => Sys2Proof.Machine.execShiftTo r s
  | .parkEngage r => Sys2Proof.Machine.execParkEngage r s
  | .parkRelease r => Sys2Proof.Machine.execParkRelease r s
  | .actHome r => Sys2Proof.Machine.execActHome r s
  | .leLoad r => Sys2Proof.Machine.execLeLoad r s
  | .leBankWrite r => Sys2Proof.Machine.execLeBankWrite r s
  | .leBankSwap r => Sys2Proof.Machine.execLeBankSwap r s
  | .leMode r => Sys2Proof.Machine.execLeMode r s
  | .leTableWrite r => Sys2Proof.Machine.execLeTableWrite r s
  | .gzConfig r => Sys2Proof.Machine.execGzConfig r s
  | .gzInject r => Sys2Proof.Machine.execGzInject r s
  | .injectionDelivered t n code => Sys2Proof.Machine.execInjectionDelivered t n code s
  | .gzCalibrate r => Sys2Proof.Machine.execGzCalibrate r s
  | .calibrationStart t => Sys2Proof.Machine.execCalibrationStart t s
  | .calibrationDone t results => Sys2Proof.Machine.execCalibrationDone t results s
  | .gzRead r => Sys2Proof.Machine.execGzRead r s
  | .safeStatus r => Sys2Proof.Machine.execSafeStatus r s
  | .faultLogRead r => Sys2Proof.Machine.execFaultLogRead r s
  | .faultAck r => Sys2Proof.Machine.execFaultAck r s
  | .ridgeStatus r => Sys2Proof.Machine.execRidgeStatus r s
  | .ridgeReadRecords r => Sys2Proof.Machine.execRidgeReadRecords r s
  | .ridgeReadSeal r => Sys2Proof.Machine.execRidgeReadSeal r s
  | .ridgeReadEvents r => Sys2Proof.Machine.execRidgeReadEvents r s
  | .ridgeReply t => Sys2Proof.Machine.execRidgeReply t s
  | .ridgeQueryTimeout t => Sys2Proof.Machine.execRidgeQueryTimeout t s
  | .ridgeParamWrite r rlink => Sys2Proof.Machine.execRidgeParamWrite r rlink s
  | .ridgeSeal r rlink => Sys2Proof.Machine.execRidgeSeal r rlink s
  | .ridgeTimeAdjust r rlink => Sys2Proof.Machine.execRidgeTimeAdjust r rlink s
  | .ridgeLockoutEnd t => Sys2Proof.Machine.execRidgeLockoutEnd t s
  | .rlinkFrame t frame => Sys2Proof.Machine.execRlinkFrame t frame s
  | .imgRead r => Sys2Proof.Machine.execImgRead r s
  | .imgStage r => Sys2Proof.Machine.execImgStage r s
  | .imageChecked t => Sys2Proof.Machine.execImageChecked t s
  | .imgCommit r => Sys2Proof.Machine.execImgCommit r s
  | .imgCommitDone t => Sys2Proof.Machine.execImgCommitDone t s
  | .fwStage r => Sys2Proof.Machine.execFwStage r s
  | .fwImageChecked t => Sys2Proof.Machine.execFwImageChecked t s
  | .fwActivate r => Sys2Proof.Machine.execFwActivate r s
  | .fwActivateReset t => Sys2Proof.Machine.execFwActivateReset t s
  | .identRead r => Sys2Proof.Machine.execIdentRead r s
  | .attest r => Sys2Proof.Machine.execAttest r s
  | .attestSigned t => Sys2Proof.Machine.execAttestSigned t s
  | .certRead r => Sys2Proof.Machine.execCertRead r s
  | .tlmRead r => Sys2Proof.Machine.execTlmRead r s
  | .tlmStream r => Sys2Proof.Machine.execTlmStream r s
  | .tlmStreamFrame t => Sys2Proof.Machine.execTlmStreamFrame t s
  | .lastfaultRead r => Sys2Proof.Machine.execLastfaultRead r s
  | .thermRead r => Sys2Proof.Machine.execThermRead r s
  | .wearRead r => Sys2Proof.Machine.execWearRead r s
  | .spareStatus r => Sys2Proof.Machine.execSpareStatus r s
  | .undefinedOpcode r opcode => Sys2Proof.Machine.execUndefinedOpcode r opcode s
  | .packetDiscard t port bytes => Sys2Proof.Machine.execPacketDiscard t port bytes s
  | .bootPacketDiscard t port bytes => Sys2Proof.Machine.execBootPacketDiscard t port bytes s
  | .spiTransaction t sdi => Sys2Proof.Machine.execSpiTransaction t sdi s
  | .handoverToBkp t vsupMv held => Sys2Proof.Machine.execHandoverToBkp t vsupMv held s
  | .handoverComplete t => Sys2Proof.Machine.execHandoverComplete t s
  | .vsupLow t vsupMv held => Sys2Proof.Machine.execVsupLow t vsupMv held s
  | .vsupValid t vsupMv held => Sys2Proof.Machine.execVsupValid t vsupMv held s
  | .bkpRise t bkpMv vsupMv => Sys2Proof.Machine.execBkpRise t bkpMv vsupMv s
  | .bkpFall t bkpMv => Sys2Proof.Machine.execBkpFall t bkpMv s
  | .wakeNQualified t low held => Sys2Proof.Machine.execWakeNQualified t low held s
  | .tc10Wake t => Sys2Proof.Machine.execTc10Wake t s
  | .cpWake t highMv osc held => Sys2Proof.Machine.execCpWake t highMv osc held s
  | .ppSample t ohm => Sys2Proof.Machine.execPpSample t ohm s
  | .wheelPulseWake t => Sys2Proof.Machine.execWheelPulseWake t s
  | .rtcAlarm t => Sys2Proof.Machine.execRtcAlarm t s
  | .sleepTimeout t => Sys2Proof.Machine.execSleepTimeout t s
  | .nrst t held => Sys2Proof.Machine.execNrst t held s
  | .nrstRelease t => Sys2Proof.Machine.execNrstRelease t s
  | .boot t mis => Sys2Proof.Machine.execBoot t mis s
  | .bootStandbyReached t => Sys2Proof.Machine.execBootStandbyReached t s
  | .eaveRealign t => Sys2Proof.Machine.execEaveRealign t s
  | .bkpSample t bkpMv temp => Sys2Proof.Machine.execBkpSample t bkpMv temp s
  | .bkpDead t => Sys2Proof.Machine.execBkpDead t s
  | .bkpTimer t => Sys2Proof.Machine.execBkpTimer t s
  | .topoffEnd t => Sys2Proof.Machine.execTopoffEnd t s
  | .bkpRest t bkpMv => Sys2Proof.Machine.execBkpRest t bkpMv s
  | .cellTempSuspend t temp => Sys2Proof.Machine.execCellTempSuspend t temp s
  | .bkpNtcFault t ntcMv => Sys2Proof.Machine.execBkpNtcFault t ntcMv s
  | .bkpOvervoltage t bkpMv => Sys2Proof.Machine.execBkpOvervoltage t bkpMv s
  | .bkpNoCell t bkpMv => Sys2Proof.Machine.execBkpNoCell t bkpMv s
  | .bkpNoCellRetry t bkpMv => Sys2Proof.Machine.execBkpNoCellRetry t bkpMv s
  | .chargerFallback t => Sys2Proof.Machine.execChargerFallback t s
  | .charge8hLimit t => Sys2Proof.Machine.execCharge8hLimit t s
  | .ridgeVrdgLoss t vrdgMv held => Sys2Proof.Machine.execRidgeVrdgLoss t vrdgMv held s
  | .ridgeVrdgReturn t vrdgMv held => Sys2Proof.Machine.execRidgeVrdgReturn t vrdgMv held s
  | .shortInterruptionClose t => Sys2Proof.Machine.execShortInterruptionClose t s
  | .sltClockLoss t clk missing count => Sys2Proof.Machine.execSltClockLoss t clk missing count s
  | .gzIslandClock t n missing => Sys2Proof.Machine.execGzIslandClock t n missing s
  | .delayLineRecal t => Sys2Proof.Machine.execDelayLineRecal t s
  | .shadowGuard t n => Sys2Proof.Machine.execShadowGuard t n s
  | .periodStart t n => Sys2Proof.Machine.execPeriodStart t n s
  | .feedforward t n => Sys2Proof.Machine.execFeedforward t n s
  | .edgeRelease t n bstLow => Sys2Proof.Machine.execEdgeRelease t n bstLow s
  | .minPulseHoldEnd t n => Sys2Proof.Machine.execMinPulseHoldEnd t n s
  | .bootstrapUndervoltage t n mv => Sys2Proof.Machine.execBootstrapUndervoltage t n mv s
  | .millerClamp t n mv => Sys2Proof.Machine.execMillerClamp t n mv s
  | .tripInputLow t n => Sys2Proof.Machine.execTripInputLow t n s
  | .drvenLow t => Sys2Proof.Machine.execDrvenLow t s
  | .drvenCycle t => Sys2Proof.Machine.execDrvenCycle t s
  | .gdShortCircuit t n mv on => Sys2Proof.Machine.execGdShortCircuit t n mv on s
  | .softTurnOffEnd t n => Sys2Proof.Machine.execSoftTurnOffEnd t n s
  | .gdVpUv t n mv held => Sys2Proof.Machine.execGdVpUv t n mv held s
  | .gdVnUv t n mv held => Sys2Proof.Machine.execGdVnUv t n mv held s
  | .gdVdrvUv t mv held => Sys2Proof.Machine.execGdVdrvUv t mv held s
  | .gdGateMismatch t n seen held => Sys2Proof.Machine.execGdGateMismatch t n seen held s
  | .compOutput t n code => Sys2Proof.Machine.execCompOutput t n code s
  | .fastOutput t n x => Sys2Proof.Machine.execFastOutput t n x s
  | .fineOutput t n code refDev dieT => Sys2Proof.Machine.execFineOutput t n code refDev dieT s
  | .throttleEnd t => Sys2Proof.Machine.execThrottleEnd t s
  | .mramInhibitEnd t => Sys2Proof.Machine.execMramInhibitEnd t s
  | .overrange t n up => Sys2Proof.Machine.execOverrange t n up s
  | .overrangeEnd t n => Sys2Proof.Machine.execOverrangeEnd t n s
  | .gzXbFlat t n run => Sys2Proof.Machine.execGzXbFlat t n run s
  | .slotConversion t n x => Sys2Proof.Machine.execSlotConversion t n x s
  | .refBufferReady t group => Sys2Proof.Machine.execRefBufferReady t group s
  | .slotStart t e m ecc => Sys2Proof.Machine.execSlotStart t e m ecc s
  | .backgroundWake t e => Sys2Proof.Machine.execBackgroundWake t e s
  | .lateSlot t e => Sys2Proof.Machine.execLateSlot t e s
  | .leHung t e => Sys2Proof.Machine.execLeHung t e s
  | .leSatExpired t e => Sys2Proof.Machine.execLeSatExpired t e s
  | .leFeExpired t e => Sys2Proof.Machine.execLeFeExpired t e s
  | .leDerateDwell t e => Sys2Proof.Machine.execLeDerateDwell t e s
  | .ld e d a ecc => Sys2Proof.Machine.execLd e d a ecc s
  | .st e x a => Sys2Proof.Machine.execSt e x a s
  | .ldb e d a ecc => Sys2Proof.Machine.execLdb e d a ecc s
  | .fadd e d x y => Sys2Proof.Machine.execFadd e d x y s
  | .fsub e d x y => Sys2Proof.Machine.execFsub e d x y s
  | .fmul e d x y => Sys2Proof.Machine.execFmul e d x y s
  | .fma e d x y z => Sys2Proof.Machine.execFma e d x y z s
  | .fmin e d x y => Sys2Proof.Machine.execFmin e d x y s
  | .fmax e d x y => Sys2Proof.Machine.execFmax e d x y s
  | .fabs e d x => Sys2Proof.Machine.execFabs e d x s
  | .fneg e d x => Sys2Proof.Machine.execFneg e d x s
  | .fdiv e d x y => Sys2Proof.Machine.execFdiv e d x y s
  | .fsqrt e d x => Sys2Proof.Machine.execFsqrt e d x s
  | .qadd e q d x y => Sys2Proof.Machine.execQadd e q d x y s
  | .qsub e q d x y => Sys2Proof.Machine.execQsub e q d x y s
  | .qmul e q d x y => Sys2Proof.Machine.execQmul e q d x y s
  | .cvtqf e q d x => Sys2Proof.Machine.execCvtqf e q d x s
  | .cvtfq e q d x => Sys2Proof.Machine.execCvtfq e q d x s
  | .sincos e ds dc x => Sys2Proof.Machine.execSincos e ds dc x s
  | .atan2 e d y x => Sys2Proof.Machine.execAtan2 e d y x s
  | .cvtg e d ch fine => Sys2Proof.Machine.execCvtg e d ch fine s
  | .cvtc e d x => Sys2Proof.Machine.execCvtc e d x s
  | .piBlock e k d x coef => Sys2Proof.Machine.execPiBlock e k d x coef s
  | .preset e k x => Sys2Proof.Machine.execPreset e k x s
  | .sat e d x => Sys2Proof.Machine.execSat e d x s
  | .tlook e d x => Sys2Proof.Machine.execTlook e d x s
  | .time e dh dl => Sys2Proof.Machine.execTime e dh dl s
  | .lput e k x => Sys2Proof.Machine.execLput e k x s
  | .link e d dflag from_ k => Sys2Proof.Machine.execLink e d dflag from_ k s
  | .lwait e dflag from_ k cycles => Sys2Proof.Machine.execLwait e dflag from_ k cycles s
  | .lwaitTimeout t e => Sys2Proof.Machine.execLwaitTimeout t e s
  | .br e taken target => Sys2Proof.Machine.execBr e taken target s
  | .loop e count last => Sys2Proof.Machine.execLoop e count last s
  | .post e => Sys2Proof.Machine.execPost e s
  | .endSlot e => Sys2Proof.Machine.execEndSlot e s
  | .pace e alt => Sys2Proof.Machine.execPace e alt s
  | .wait e => Sys2Proof.Machine.execWait e s
  | .ascExit t => Sys2Proof.Machine.execAscExit t s
  | .listenEnd t m => Sys2Proof.Machine.execListenEnd t m s
  | .brakeStandstill t => Sys2Proof.Machine.execBrakeStandstill t s
  | .trcBrakeAbort t => Sys2Proof.Machine.execTrcBrakeAbort t s
  | .stopRampEnd t => Sys2Proof.Machine.execStopRampEnd t s
  | .trcRotorLost t => Sys2Proof.Machine.execTrcRotorLost t s
  | .excRetime t => Sys2Proof.Machine.execExcRetime t s
  | .spAscRelease t setB => Sys2Proof.Machine.execSpAscRelease t setB s
  | .pilotEvaluation t highMv lowMv osc duty => Sys2Proof.Machine.execPilotEvaluation t highMv lowMv osc duty s
  | .gridQualified t g => Sys2Proof.Machine.execGridQualified t g s
  | .vpfcPrecharged t vpfc peak held => Sys2Proof.Machine.execVpfcPrecharged t vpfc peak held s
  | .chgGridTrip t g => Sys2Proof.Machine.execChgGridTrip t g s
  | .gridReconnect t g => Sys2Proof.Machine.execGridReconnect t g s
  | .powerRampEnd t => Sys2Proof.Machine.execPowerRampEnd t s
  | .chgHostless t => Sys2Proof.Machine.execChgHostless t s
  | .chgHostlessStop t => Sys2Proof.Machine.execChgHostlessStop t s
  | .chgVbatWindow t vbat held => Sys2Proof.Machine.execChgVbatWindow t vbat held s
  | .auxV48Window t held => Sys2Proof.Machine.execAuxV48Window t held s
  | .shedLevelChange t held => Sys2Proof.Machine.execShedLevelChange t held s
  | .shedRotation t => Sys2Proof.Machine.execShedRotation t s
  | .sheddingEnd t => Sys2Proof.Machine.execSheddingEnd t s
  | .burstRestart t => Sys2Proof.Machine.execBurstRestart t s
  | .auxRegulated t held => Sys2Proof.Machine.execAuxRegulated t held s
  | .auxSenseLost t ch mv held run => Sys2Proof.Machine.execAuxSenseLost t ch mv held run s
  | .auxOverload t held => Sys2Proof.Machine.execAuxOverload t held s
  | .auxVoutHigh t held => Sys2Proof.Machine.execAuxVoutHigh t held s
  | .auxStopComplete t => Sys2Proof.Machine.execAuxStopComplete t s
  | .prechargeDone t held => Sys2Proof.Machine.execPrechargeDone t held s
  | .auxPrechargeTimeout t => Sys2Proof.Machine.execAuxPrechargeTimeout t s
  | .hallEdge t park level held => Sys2Proof.Machine.execHallEdge t park level held s
  | .actHallFault t park held => Sys2Proof.Machine.execActHallFault t park held s
  | .actPosSensor t invalidRun held => Sys2Proof.Machine.execActPosSensor t invalidRun held s
  | .profileSegment t => Sys2Proof.Machine.execProfileSegment t s
  | .shiftTargetReached t held => Sys2Proof.Machine.execShiftTargetReached t held s
  | .actShiftTimeout t => Sys2Proof.Machine.execActShiftTimeout t s
  | .motionEnd t park => Sys2Proof.Machine.execMotionEnd t park s
  | .homeStopFound t park iq => Sys2Proof.Machine.execHomeStopFound t park iq s
  | .actHomeFail t park => Sys2Proof.Machine.execActHomeFail t park s
  | .lockedRotor t park iq held => Sys2Proof.Machine.execLockedRotor t park iq held s
  | .retryRestart t park => Sys2Proof.Machine.execRetryRestart t park s
  | .pawlState t held => Sys2Proof.Machine.execPawlState t held s
  | .parkSwitchDisagree t held => Sys2Proof.Machine.execParkSwitchDisagree t held s
  | .pawlBlocked t => Sys2Proof.Machine.execPawlBlocked t s
  | .parkNotEngaged t => Sys2Proof.Machine.execParkNotEngaged t s
  | .parkMoveTimeout t => Sys2Proof.Machine.execParkMoveTimeout t s
  | .parkMotionEngaged t held => Sys2Proof.Machine.execParkMotionEngaged t held s
  | .vspdHostExpired t => Sys2Proof.Machine.execVspdHostExpired t s
  | .lossWindowEnd t parts => Sys2Proof.Machine.execLossWindowEnd t parts s
  | .thmSensorBroken t n held => Sys2Proof.Machine.execThmSensorBroken t n held s
  | .thmDieSensor t => Sys2Proof.Machine.execThmDieSensor t s
  | .thmOvertemp t n held => Sys2Proof.Machine.execThmOvertemp t n held s
  | .thmNtcOver t n held => Sys2Proof.Machine.execThmNtcOver t n held s
  | .thmModelLost t => Sys2Proof.Machine.execThmModelLost t s
  | .wearSave t => Sys2Proof.Machine.execWearSave t s
  | .sltQuestion t => Sys2Proof.Machine.execSltQuestion t s
  | .spAnswerWord t word => Sys2Proof.Machine.execSpAnswerWord t word s
  | .sltQaMiss t => Sys2Proof.Machine.execSltQaMiss t s
  | .spLockstep t => Sys2Proof.Machine.execSpLockstep t s
  | .sltLimitCorrupt t parity => Sys2Proof.Machine.execSltLimitCorrupt t parity s
  | .spPeriodicCheck t cd11Dev gateBad torqueA torqueB held => Sys2Proof.Machine.execSpPeriodicCheck t cd11Dev gateBad torqueA torqueB held s
  | .safeStateRequest t stage => Sys2Proof.Machine.execSafeStateRequest t stage s
  | .safeStateConfirm t stages => Sys2Proof.Machine.execSafeStateConfirm t stages s
  | .sltBOverrun t => Sys2Proof.Machine.execSltBOverrun t s
  | .spHoldRelease t stage => Sys2Proof.Machine.execSpHoldRelease t stage s
  | .armingComplete t failed => Sys2Proof.Machine.execArmingComplete t failed s
  | .sltSelftestDue t => Sys2Proof.Machine.execSltSelftestDue t s
  | .faultFifoDrain t => Sys2Proof.Machine.execFaultFifoDrain t s
  | .testPulse t b => Sys2Proof.Machine.execTestPulse t b s
  | .sinSample t b levels => Sys2Proof.Machine.execSinSample t b levels s
  | .sinDebounce t pair b raw held => Sys2Proof.Machine.execSinDebounce t pair b raw held s
  | .sinDiscrepancy t pair => Sys2Proof.Machine.execSinDiscrepancy t pair s
  | .chatter t pair b transitions => Sys2Proof.Machine.execChatter t pair b transitions s
  | .tpsOverload t b held => Sys2Proof.Machine.execTpsOverload t b held s
  | .rstreqPress t => Sys2Proof.Machine.execRstreqPress t s
  | .rstreqRelease t => Sys2Proof.Machine.execRstreqRelease t s
  | .resetStuck t => Sys2Proof.Machine.execResetStuck t s
  | .witnessHeartbeat t intact => Sys2Proof.Machine.execWitnessHeartbeat t intact s
  | .witnessAngle t intact lost => Sys2Proof.Machine.execWitnessAngle t intact lost s
  | .witnessEnergy t intact => Sys2Proof.Machine.execWitnessEnergy t intact s
  | .witnessMirrorWrite t intact => Sys2Proof.Machine.execWitnessMirrorWrite t intact s
  | .witnessSleep t intact => Sys2Proof.Machine.execWitnessSleep t intact s
  | .rdgWitnessLost t => Sys2Proof.Machine.execRdgWitnessLost t s
  | .wpiPulse t => Sys2Proof.Machine.execWpiPulse t s
  | .qpRetention t => Sys2Proof.Machine.execQpRetention t s
  | .thatchCheck t broken => Sys2Proof.Machine.execThatchCheck t broken s
  | .fieldCheck t field => Sys2Proof.Machine.execFieldCheck t field s
  | .wpiOpenTest t mv => Sys2Proof.Machine.execWpiOpenTest t mv s
  | .rdgMbLoss t n run => Sys2Proof.Machine.execRdgMbLoss t n run s
  | .rdgMbFlat t n span => Sys2Proof.Machine.execRdgMbFlat t n span s
  | .ridgeEnergySample t codes => Sys2Proof.Machine.execRidgeEnergySample t codes s
  | .ridgeSecond t => Sys2Proof.Machine.execRidgeSecond t s
  | .ridgeMinute t => Sys2Proof.Machine.execRidgeMinute t s
  | .ridgeQuarterHour t => Sys2Proof.Machine.execRidgeQuarterHour t s
  | .dayClose t => Sys2Proof.Machine.execDayClose t s
  | .sealSigned t => Sys2Proof.Machine.execSealSigned t s
  | .ridgeStart t vrdg => Sys2Proof.Machine.execRidgeStart t vrdg s
  | .mirrorUpdate t => Sys2Proof.Machine.execMirrorUpdate t s
  | .ridgeStale t => Sys2Proof.Machine.execRidgeStale t s
  | .tripInputHigh t n => Sys2Proof.Machine.execTripInputHigh t n s
  | .leavesUndervoltage t supply mv held => Sys2Proof.Machine.execLeavesUndervoltage t supply mv held s
  | .ethLinkUp t => Sys2Proof.Machine.execEthLinkUp t s

end Sys2Proof.Machine
end

