-- ==== Sys2Proof/Machine/Step.lean ====
section
/-! DEFINITION. One step: the command at the front of the queue is carried out; on an empty queue one CD3 cycle passes. -/

namespace Sys2Proof.Machine

open Sys2Proof

/-- The command at the front acts on the state with the rest of the queue; with no command waiting the clock moves on by one CD3 cycle, 16 fine ticks (R488, R3). (Assumption 1 DEDUCED, 2 DESIGN CHOICE, 3 DEDUCED, 134 DEDUCED, 135 DESIGN CHOICE) -/
def step (s : State) : Host.Outcome State Fault Refusal :=
  match s.pending with
  | [] => .next { s with now := s.now + 16 }
  | c :: rest => exec c { s with pending := rest }

/-- The state with the command that a word spells put at the front of its queue. (Assumption 4 DEDUCED) -/
def State.withFetchWord (s : State) (nbits w : Nat) : State :=
  match decodeTableWord nbits w with
  | some c => { s with pending := c :: s.pending }
  | none => s

end Sys2Proof.Machine
end

