-- ==== Sys2Proof/Safety.lean ====
section
/-! DEFINITION. What counts as a sound state of the module, and the terms the statements use: what the Ridge keeps, the CRC by its parameters, the request that passes the first checks. -/

namespace Sys2Proof.Machine

open Sys2Proof

/-- The canonical form of a register list: addresses strictly rising, and no word listed that its address reads as at reset. -/
def RegsCanonical (l : List (Nat × Word)) : Prop := l.Pairwise (fun p q => p.1 < q.1) ∧ ∀ p ∈ l, p.2 ≠ resetWord p.1

/-- A sound state: at most four sessions (R91), each with a cache of at most 16 (R85), at most 256 records in the log's ring (R414) and 32 in the class A FIFO (R417), at most 64 held writes (R117), and the register words in canonical form. -/
structure State.Sound (s : State) : Prop where
  sessions : s.com.sessions.length ≤ 4
  caches : ∀ x ∈ s.com.sessions, x.cache.length ≤ 16
  recs : s.log.recs.length ≤ 256
  fifo : s.log.fifo.length ≤ 32
  held : s.heldWrites ≤ 64
  regs : RegsCanonical s.regs

/-- What the Ridge never takes back: the legal event counter (R463), a broken seal (R456) and erased keys (R450), the energy registers (R443), the odometer (R439), and the numbers of its events. -/
structure Ridge.Kept (a b : Ridge) : Prop where
  lec : a.lec ≤ b.lec
  broken : a.sealed = 2 → b.sealed = 2
  keys : a.keysErased = true → b.keysErased = true
  imp : a.imp ≤ b.imp
  exp : a.exp ≤ b.exp
  odo : a.odo ≤ b.odo
  events : a.nEvent ≤ b.nEvent

/-- One bit of the CRC-32C with the register most significant bit first and the polynomial as R76 writes it. -/
def crcStepMsb (c : BitVec 32) : BitVec 32 := if c.msb then (c <<< 1) ^^^ 0x1EDC6F41#32 else c <<< 1

/-- One byte, its bits reflected. -/
def crcByteMsb (c : BitVec 32) (b : Byte) : BitVec 32 :=
  crcStepMsb (crcStepMsb (crcStepMsb (crcStepMsb (crcStepMsb (crcStepMsb (crcStepMsb (crcStepMsb (c ^^^ (b.reverse.setWidth 32 <<< 24)))))))))

/-- The CRC-32C by its parameters (R76): polynomial 0x1EDC6F41, initial value 0xFFFFFFFF, input and output reflected, final XOR 0xFFFFFFFF. -/
def crcByParameters (bs : List Byte) : BitVec 32 := (bs.foldl crcByteMsb 0xFFFFFFFF#32).reverse ^^^ 0xFFFFFFFF#32

/-- A request that passes steps 1 to 4 of R82. -/
def State.passesFour (s : State) (o : Op) (r : Req) : Bool :=
  let u := s.advance r.time
  u.receives r o.code && !(r.port == .spi && decide (8 ≤ u.com.spiOut.length)) && r.intact && r.crc.toNat == r.wantCrc o.code && r.flags == 0 && r.reserved == 0
    && !(u.getB F.SYS_BOOT_RECOVERY && !recoveryOps.contains o.code) && u.privileged o.level (r.ticket o.code)

/-- The state after step 4: the request waits for its reply; contact and the session it names are touched. -/
def State.afterFour (s : State) (o : Op) (r : Req) : State :=
  let u := (s.advance r.time).enqueue o r
  let c := ({ u with com := { u.com with lastContact := u.now, hostAt := some u.now } }).markUsed (r.ticket o.code)
  c.mapSession r.session fun x => { x with lastAt := c.now }

/-- The slot of the request that has just arrived goes without a reply. -/
def State.mute (s : State) (t : Ticket) : State := { s with com := { s.com with slots := (dropSlot t s.com.slots.reverse).reverse } }

/-- A reply leaves in its turn and is not cached. -/
def State.refill (s : State) (t : Ticket) (r : Reply) : State := ({ s with com := { s.com with slots := fillSlot t r s.com.slots } }).flush

end Sys2Proof.Machine
end

