-- ==== Sys2Proof/Certificates/Slice0/Obligations.lean ====
section
/-! DEFINITION. The statements for the provers: what each command does, what every step keeps, and what the rules say of the whole module. -/

open Sys2Proof Sys2Proof.Machine

/-- A step carries out the command at the front of the queue on the state with the rest of the queue (R488). -/
def Obligations.StepRunsFrontCommand : Prop :=
  ∀ (c : Instr) (rest : List Instr) (s : State), step { s with pending := c :: rest } = exec c { s with pending := rest }

/-- With no command waiting, a step lets one CD3 cycle pass and nothing else (the choice of the model) (R3, R488). That an idle block does this is the model's choice (assumption entry 2). -/
def Obligations.IdleStepAdvancesClock : Prop := ∀ s : State, s.pending = [] → step s = .next { s with now := s.now + 16 }

/-- The state after reset is sound, has an empty queue and a running main die (R91, R85, R414, R417, R117). That reset is the state at STANDBY is the model's choice (assumption entry 5). -/
def Obligations.ResetIsSound : Prop := State.reset.Sound ∧ State.reset.pending = [] ∧ State.reset.mainUp = true

/-- Every step from a sound state leads to a sound state (R91, R85, R414, R417, R117). -/
def Obligations.StepKeepsSound : Prop := ∀ s t : State, s.Sound → step s = .next t → t.Sound

/-- No command changes the queue of waiting commands or turns the clock back (R488). -/
def Obligations.ExecLeavesQueueAndClock : Prop := ∀ (c : Instr) (s t : State), exec c s = .next t → t.pending = s.pending ∧ s.now ≤ t.now

/-- Every command answers a next state from every state (R81, R82, R83, R488). -/
def Obligations.EveryCommandAnswersNext : Prop := ∀ (c : Instr) (s : State), ∃ t, exec c s = .next t

/-- No command makes the Ridge take back its legal event counter, a broken seal, erased keys, energy, distance or event numbers (R439, R443, R450, R456, R463). -/
def Obligations.RidgeTakesNothingBack : Prop :=
  ∀ (c : Instr) (s t : State), exec c s = .next t →
    s.rdg.lec ≤ t.rdg.lec ∧ (s.rdg.sealed = 2 → t.rdg.sealed = 2) ∧ (s.rdg.keysErased = true → t.rdg.keysErased = true) ∧
    s.rdg.imp ≤ t.rdg.imp ∧ s.rdg.exp ≤ t.rdg.exp ∧ s.rdg.odo ≤ t.rdg.odo ∧ s.rdg.nEvent ≤ t.rdg.nEvent

/-- PING, GET_STATE, GET_VERSION, HEARTBEAT, IDENT_READ and CERT_READ answer OK with their result data and change nothing but what is named (R39, R96, R98, R470, R476, Table 4.5). GET_VERSION returns the version data (the figures of a target that runs no slot are free values, assumption entry 29). -/
def Obligations.GeneralRequestsComplete : Prop :=
  ∀ (r : Req) (s u : State),
    (admitReq { code := 0x0001, level := 0 } (fun n => decide (n ≤ 64)) r s = .served u → r.fits r.params.length = true →
      exec (.ping r) s = .next (u.answer (r.ticket 0x0001) stOK r.params)) ∧
    (admitOp { code := 0x0002, level := 0 } r s = .served u →
      exec (.getState r) s = .next (u.answer (r.ticket 0x0002) stOK (beBytes 4 (u.getW F.PWR_STATE_STATE.addr).toNat))) ∧
    (admitOp { code := 0x0004, level := 0 } r s = .served u →
      exec (.getVersion r) s = .next (u.versionData.2.answer (r.ticket 0x0004) stOK u.versionData.1)) ∧
    (admitOp { code := 0x0005, lens := [4] } r s = .served u →
      exec (.heartbeat r) s = .next (({ u with com := { u.com with lastHeartbeat := u.now } }).endFallback.answer (r.ticket 0x0005) stOK
        (beBytes 1 u.power ++ beBytes 1 u.topClass ++ beBytes 2 (u.getF F.SLT_LOGIDX_NEWEST) ++ beBytes 4 u.eaveSeconds ++ r.params))) ∧
    (admitOp { code := 0x0C00, level := 0, lens := [1] } r s = .served u → r.num 0 1 = 0xFF →
      exec (.identRead r) s = .next (u.answer (r.ticket 0x0C00) stOK (u.serialBytes ++ beBytes 1 (u.getF F.IDN_REV_REV)))) ∧
    (admitOp { code := 0x0C00, level := 0, lens := [1] } r s = .served u → r.num 0 1 ≤ 33 →
      exec (.identRead r) s = .next (u.answer (r.ticket 0x0C00) stOK (u.dieData (r.num 0 1)))) ∧
    (admitOp { code := 0x0C02, level := 0, lens := [7] } r s = .served u → r.num 0 1 ≤ 11 → r.num 1 4 ≤ (u.certBytes (r.num 0 1)).length →
      exec (.certRead r) s = .next (u.answer (r.ticket 0x0C02) stOK (beBytes 4 (u.certBytes (r.num 0 1)).length ++
        ((u.certBytes (r.num 0 1)).drop (r.num 1 4)).take (min (r.num 5 2) ((r.ticket 0x0C02).room - 4)))))

/-- Opening, proving, closing and expiry of sessions complete with the session changes the rules give (R91, R92, R93, R94, R89, R101). -/
def Obligations.SessionCommandsComplete : Prop :=
  (∀ (r : Req) (s u : State), admitOp { code := 0x0010, level := 0, lens := [1] } r s = .served u → u.retryOf (r.ticket 0x0010) = none →
    1 ≤ r.num 0 1 → r.num 0 1 ≤ 3 → (2 ≤ r.num 0 1 → u.lockedOut = false) → u.com.sessions.length < 4 →
    (2 ≤ r.num 0 1 → u.com.sessions.any (fun x => decide (2 ≤ x.level) || u.challengeLive x || u.proving x.id) = false) →
    ∃ (x : Session) (v : State), exec (.sessionOpen r) s = .next (v.answer (r.ticket 0x0010) stOK (openData x.id x.challenge)) ∧
      v.com.sessions = x :: u.com.sessions ∧ v.regs = u.regs ∧ x.id = u.freshId (Config.freeWord u.free) ∧ x.port = r.port ∧ x.mac = senderKey r.port r.mac ∧
      x.level = 1 ∧ x.want = r.num 0 1 ∧ (x.challenge.isSome = decide (2 ≤ r.num 0 1)) ∧ x.openedAt = u.now ∧ x.cache = []) ∧
  (∀ (r : Req) (s u v : State) (x : Session), admitReq { code := 0x0011, background := lastChunk r 0 } (fun n => decide (9 ≤ n)) r s = .served u →
    u.chunk 0x0011 0 8240 r.session (r.num 0 4) (r.num 4 4) (r.params.drop 8) = .more v → u.session r.session = some x →
    x.challenge.isSome = true → u.challengeLive x = true → exec (.sessionProve r) s = .next (v.answer (r.ticket 0x0011) stOK [])) ∧
  (∀ (t : Nat) (s u : State) (tk : Ticket) (bytes : List Byte) (x : Session), { s.advance t with com := { s.com with sigJob := none } } = u →
    s.com.sigJob = some (.proof tk bytes) → u.session tk.session = some x →
    exec (.proofVerified t) s = .next (if u.proofOk x bytes = true then (u.mapSession x.id fun y => { y with level := y.want, challenge := none }).answer tk stOK (beBytes 1 x.want)
      else failProof tk u)) ∧
  (∀ (t : Nat) (s u : State), s.advance t = u → u.lockedOut = false →
    exec (.authLockoutEnd t) s = .next { u with com := { u.com with lockoutUntil := none } }) ∧
  (∀ (r : Req) (s u : State), admitOp { code := 0x0012 } r s = .served u →
    exec (.sessionClose r) s = .next (((u.answer (r.ticket 0x0012) stOK []).closeSession r.session).trimCache (r.ticket 0x0012))) ∧
  (∀ (t : Nat) (id : Word) (s u : State) (x : Session), s.advance t = u → u.session id = some x → u.mainUp = true → x.lastAt + u.sessionIdle ≤ u.now →
    exec (.sessionIdleExpiry t id) s = .next (u.closeSession id)) ∧
  (∀ (t : Nat) (id : Word) (s u : State) (x : Session), s.advance t = u → u.session id = some x → x.challenge.isSome = true → x.openedAt + 60 * ticksPerS ≤ u.now →
    exec (.challengeExpiry t id) s = .next (u.mapSession id fun y => { y with lapsed := true })) ∧
  (∀ (t : Nat) (s u : State), s.advance t = u → u.com.linkUp = true → u.com.sessions.any (fun x => x.port == Port.eth) = true →
    exec (.ethLinkDown t) s = .next ((({ u with com := { u.com with linkUp := false, stream := none } }).raise Flt.ETH_LINK_DOWN {}).closeSessions fun x => x.port == Port.eth)) ∧
  (∀ (t : Nat) (s u : State), s.advance t = u → u.mainUp = true → exec (.ethLinkUp t) s = .next { u with com := { u.com with linkUp := true } })

/-- The register, mailbox, hold and lock requests complete with their effect (R103, R104, R106, R108, R113, R114, R117, R118). -/
def Obligations.RegisterRequestsComplete : Prop :=
  ∀ (r : Req) (s u : State),
    (admitOp { code := 0x0100, lens := [4] } r s = .served u → r.num 0 4 % 4 = 0 → r.num 0 4 ≤ 0xEFFFF → (findReg (r.num 0 4)).isSome = true →
      exec (.regRead r) s = .next ((u.readsMbx r.session (r.num 0 4) 1).answer (r.ticket 0x0100) stOK (beBytes 4 (u.regRead (r.num 0 4)).toNat))) ∧
    (admitOp { code := 0x0102, lens := [6] } r s = .served u → r.num 0 4 % 4 = 0 → r.num 0 4 ≤ 0xEFFFF → 1 ≤ r.num 4 2 → r.num 4 2 ≤ 256 →
      (r.num 0 4 + 4 * r.num 4 2 - 1) / 65536 = r.num 0 4 / 65536 → r.fits (4 * r.num 4 2) = true →
      exec (.regReadBlock r) s = .next ((u.readsMbx r.session (r.num 0 4) (r.num 4 2)).answer (r.ticket 0x0102) stOK
        ((List.range (r.num 4 2)).flatMap fun i => beBytes 4 (u.regRead (r.num 0 4 + 4 * i)).toNat))) ∧
    (∀ v : State, admitOp { code := 0x0101, level := if 4 ≤ r.params.length then writeLevel (r.num 0 4) else 1, lens := [12] } r s = .served u →
      u.regWrite .host r.session (r.num 0 4) (r.num 8 4) (r.num 4 4) = (stOK, v) →
      exec (.regWrite r) s = .next (v.answer (r.ticket 0x0101) stOK [])) ∧
    (∀ v : State, admitOp { code := 0x0800, level := 2, lens := [5] } r s = .served u → r.num 0 1 < 72 → gzCfgOk (r.num 0 1) (r.num 1 4) = true →
      u.regWrite .host r.session (F.GZ_CH_CFG_MODE (r.num 0 1)).addr 0xFFFFFFFF (r.num 1 4) = (stOK, v) →
      exec (.gzConfig r) s = .next (v.answer (r.ticket 0x0800) stOK [])) ∧
    (∀ ws : List Nat, admitOp { code := 0x0103, level := if r.params.length = 2 ∧ (mbxQuantity (r.num 0 2)).isSome then 2 else 1, lens := [2] } r s = .served u → u.mbxValue (r.num 0 2) = some ws → u.mbxBusy r.session = false →
      exec (.mbxSnapshot r) s = .next ((u.mbxStore r.session (r.num 0 2) ws).answer (r.ticket 0x0103) stOK [])) ∧
    (∀ st q : Nat, admitOp { code := 0x0103, level := if r.params.length = 2 ∧ (mbxQuantity (r.num 0 2)).isSome then 2 else 1, lens := [2] } r s = .served u →
      u.mbxValue (r.num 0 2) = none → mbxQuantity (r.num 0 2) = some (st, q) → (u.quantityCodes st).contains q = true → u.tlmServed st = true → u.mbxBusy r.session = false →
      exec (.mbxSnapshot r) s = .next (((u.tlmTriple st q).2.mbxStore r.session (r.num 0 2) (u.tlmTriple st q).1).answer (r.ticket 0x0103) stOK [])) ∧
    (admitOp { code := 0x0104 } r s = .served u → u.com.hold = none →
      exec (.applyHold r) s = .next ((({ u with com := { u.com with hold := some ⟨r.session, u.now⟩ } }).setF F.SYS_APPLY_HOLD 1).answer (r.ticket 0x0104) stOK [])) ∧
    (∀ h : Hold, admitOp { code := 0x0105 } r s = .served u → u.com.hold = some h → h.session = r.session →
      exec (.applyRelease r) s = .next (u.releaseHold.settle.answer (r.ticket 0x0105) stOK [])) ∧
    (admitOp { code := 0x0106 } r s = .served u →
      exec (.lock r) s = .next ((u.setF F.SYS_LOCK_LOCK 1).answer (r.ticket 0x0106) stOK []))

/-- The register write events, mailbox events and the expiry of the hold complete with their effect (R106, R112, R114, R117, R120, R136, R141, R176, R390, R400, R474). -/
def Obligations.RegisterEventsComplete : Prop :=
  (∀ (t : Nat) (w : Writer) (addr value mask : Word) (n : Fin 16) (g : Fin 72) (s u : State), s.advance t = u → u.mainUp = true →
    exec (.registerWrite t w addr value mask) s = .next (u.regWrite w 0 addr.toNat mask.toNat value.toNat).2 ∧
    (isRcs addr.toNat = true → exec (.eventClear t w addr value mask) s = .next (u.regWrite w 0 addr.toNat mask.toNat value.toNat).2) ∧
    (addr.toNat / 65536 = 0xD → exec (.mirrorWrite t w addr value mask) s = .next (u.mirrorWrite w addr.toNat)) ∧
    exec (.carrierRun t w n) s = .next (u.regWrite w 0 (F.PWM_CAR_CTRL_RUN n).addr 1 1).2 ∧
    exec (.carrierStop t w n) s = .next (u.regWrite w 0 (F.PWM_CAR_CTRL_RUN n).addr 1 0).2 ∧
    exec (.gzCfgWrite t w g value mask) s = .next (u.regWrite w 0 (F.GZ_CH_CFG_MODE g).addr mask.toNat value.toNat).2 ∧
    (isLimit addr.toNat = true → exec (.sltLimitWrite t w addr value mask) s = .next (u.regWrite w 0 addr.toNat mask.toNat value.toNat).2) ∧
    exec (.wearResetWrite t w value mask) s = .next (u.regWrite w 0 F.THM_WEAR_RESET_STAGES.addr mask.toNat value.toNat).2) ∧
  (∀ (t : Nat) (id value mask : Word) (x : Session) (s u : State), s.advance t = u → u.mainUp = true → u.session id = some x → 3 ≤ x.level →
    exec (.debugUnlockWrite t id value mask) s = .next (u.regWrite .host id F.IDN_DEBUG_UNLOCK.addr mask.toNat value.toNat).2) ∧
  (∀ (t : Nat) (id : Word) (s u : State), s.advance t = u → u.com.mbxOwner = some id → u.getB F.SYS_MBX_CTRL_VALID = true →
    exec (.mbxLastWordRead t id) s = .next (u.setF F.SYS_MBX_CTRL_VALID 0)) ∧
  (∀ (t : Nat) (s u : State), s.advance t = u → u.com.mbxAt + 100 * ticksPerMs ≤ u.now → u.getB F.SYS_MBX_CTRL_VALID = true →
    exec (.mbxExpiry t) s = .next ((u.setF F.SYS_MBX_CTRL_VALID 0).setF F.SYS_MBX_CTRL_EXPIRED 1)) ∧
  (∀ (t : Nat) (h : Hold) (s u : State), s.advance t = u → u.com.hold = some h → h.since + 100 * ticksPerMs ≤ u.now →
    exec (.holdExpired t) s = .next u.discardHold)

/-- The power, wake-source and backup-cell requests complete with their effect (R41, R42, R47, R67, R68, R491). -/
def Obligations.PowerRequestsComplete : Prop :=
  (∀ (r : Req) (s u : State), admitOp { code := 0x0200, level := if r.params.head? = some 0x0F then 3 else 1, lens := [1] } r s = .served u → r.num 0 1 = 0x02 → u.power = pSTANDBY → u.activeWakes.isEmpty = true →
    exec (.pwrStateSet r) s = .next (({ u with pwr := { u.pwr with sleep := some ⟨r.ticket 0x0200, u.now, false, false⟩ }, slt := { u.slt with arming := none } }).answer (r.ticket 0x0200) stOK [])) ∧
  (∀ (r : Req) (s u : State), admitOp { code := 0x0200, level := if r.params.head? = some 0x0F then 3 else 1, lens := [1] } r s = .served u → r.num 0 1 = 0x0F → u.power = pSTANDBY →
    exec (.pwrStateSet r) s = .next ((u.abortArming.toPower pTEST 0x01).answer (r.ticket 0x0200) stOK [])) ∧
  (∀ (r : Req) (s u : State), admitOp { code := 0x0201, lens := [5] } r s = .served u → r.num 0 1 < 64 →
    exec (.wakeSources r) s = .next (((u.setF F.PWR_WAKE_EN (r.num 0 1)).setF F.PWR_ALARM (r.num 1 4)).answer (r.ticket 0x0201) stOK (beBytes 4 (((u.setF F.PWR_WAKE_EN (r.num 0 1)).setF F.PWR_ALARM (r.num 1 4)).getW F.PWR_WAKE_SRC_SRC.addr).toNat))) ∧
  (∀ (r : Req) (s u : State), admitOp { code := 0x0202, lens := [3] } r s = .served u → r.num 0 1 ≤ 1 → 2 * r.num 1 1 ≤ u.getF F.PWR_BKP_CTRL_CAPACITY → r.num 2 1 ≤ 15 →
    exec (.bkpChargerSet r) s = .next ((u.bkpSet (r.num 0 1) (r.num 1 1) (r.num 2 1)).answer (r.ticket 0x0202) stOK [])) ∧
  (∀ (r : Req) (s u : State), admitOp { code := 0x0203 } r s = .served u →
    exec (.bkpStatus r) s = .next (u.answer (r.ticket 0x0203) stOK (beBytes 4 (u.getW F.PWR_BKP_STAT_PHASE.addr).toNat ++ beBytes 4 (u.getW F.PWR_SUPPLY_VSUP_MV.addr).toNat)))

/-- Sleep, wake, supply, hand-over and reset events complete with their effect (R42, R43, R44, R47, R49, R52, R54, R55, R57, R58, R72, R491). -/
def Obligations.PowerEventsComplete : Prop :=
  (∀ (t : Nat) (q : SleepReq) (s u : State), s.advance t = u → u.power = pSTANDBY → u.pwr.sleep = some q → (u.com.slots.any fun x => x.ticket == q.ticket) = false → (q.ticket.port != .spi || q.delivered) = true →
    exec (.sleepEntry t) s = .next (u.enterSleep 0x01 q.wake)) ∧
  (∀ (t : Nat) (q : SleepReq) (x : Nat × Ticket × Reply) (s u : State), s.advance t = u → u.power = pSTANDBY → u.pwr.sleep = some q → q.ticket.port = .spi → u.com.spiOut.find? (fun y => y.2.1 == q.ticket) = some x → u.elapsed x.1 (100 * ticksPerMs) = true →
    exec (.sleepReplyExpired t) s = .next (({ u with com := { u.com with spiOut := u.com.spiOut.filter fun y => y.2.1 != q.ticket } }).enterSleep 0x01 q.wake)) ∧
  (∀ (t : Nat) (s u : State), s.advance t = u → u.mainUp = true → u.power = pSTANDBY → u.pwr.sleep = none → u.getF F.PWR_CFG_SLEEP_TIMEOUT ≠ 0 → u.elapsed u.com.lastContact (u.getF F.PWR_CFG_SLEEP_TIMEOUT * ticksPerS) = true → u.levelWake = false →
    exec (.sleepTimeout t) s = .next (u.enterSleep 0x06 false)) ∧
  (∀ (t : Nat) (held : Nat) (s u : State), s.advance t = u → 50 * ticksPerUs ≤ held →
    exec (.wakeNQualified t true held) s = .next (({ u with pwr := { u.pwr with wakeN := true } }).wake 0)) ∧
  (∀ (t : Nat) (s u : State), s.advance t = u →
    exec (.tc10Wake t) s = .next (u.wake 1)) ∧
  (∀ (t : Nat) (mv : Int) (osc : Bool) (held : Nat) (s u : State), s.advance t = u → (decide (6000 < mv) || osc) = true → 10 * ticksPerMs ≤ held →
    exec (.cpWake t mv osc held) s = .next (({ u with pwr := { u.pwr with cpWake := true } }).wake 2)) ∧
  (∀ (t : Nat) (s u : State), s.advance t = u → 2 ≤ u.rdg.wakePulses →
    exec (.wheelPulseWake t) s = .next ((u.setR { u.rdg with wakePulses := 0 }).wake 4)) ∧
  (∀ (t : Nat) (s u : State), s.advance t = u → u.eaveUp = true → u.getF F.PWR_ALARM ≠ 0 → u.getF F.PWR_ALARM ≤ u.eaveSeconds → u.getB F.PWR_STATE_TIME_INVALID = false →
    exec (.rtcAlarm t) s = .next ((u.setF F.PWR_ALARM 0).wake 5)) ∧
  (∀ (t : Nat) (s u : State), s.advance t = u → 2 ≤ u.power → u.pwr.handover = none → u.pwr.eaveRuns = true → u.elapsed u.pwr.realignAt (3600 * ticksPerS) = true →
    exec (.eaveRealign t) s = .next ({ u with pwr := { u.pwr with eaveBase := u.eaveTicks, eaveAt := u.now, eaveSlew := (u.rdgTicks : Int) - (u.eaveTicks : Int), realignAt := u.now } }.setB F.PWR_STATE_TIME_INVALID (!u.rdg.timeValid))) ∧
  (∀ (t : Nat) (mv held : Nat) (b : State) (s u : State), s.advance t = u → u.power = pSLEEP → u.pwr.handover = none → mv < 6500 → 50 * ticksPerUs ≤ held → (u.loseQueue.loseUnsaved.holdReset 0).bump F.PWR_CFG_HANDOVER = b →
    exec (.handoverToBkp t mv held) s = .next (({ b with pwr := { b.pwr with handover := some b.now, interruptions := b.pwr.interruptions + 1, chargeLost := b.pwr.chargeLost || u.getF F.CHG_STAT_CSTATE != 0 } }.vsupSeen mv none).chargerHandover)) ∧
  (∀ (t : Nat) (w : Nat) (s u : State), s.advance t = u → u.pwr.handover = some w →
    exec (.handoverComplete t) s = .next ({ (u.toPower pVAULT 0x0A).eaveStop with pwr := { (u.toPower pVAULT 0x0A).eaveStop.pwr with handover := none, handEnd := (u.toPower pVAULT 0x0A).eaveStop.now, inReset := false } })) ∧
  (∀ (t : Nat) (mv held : Nat) (s u : State), s.advance t = u → mv < 7500 → (u.vsupSeen mv none).mainUp = true → (u.vsupSeen mv none).power = pARMED ∨ (u.vsupSeen mv none).power = pRUN → ticksPerMs ≤ held →
    exec (.vsupLow t mv held) s = .next ((u.vsupSeen mv none).raise Flt.VSUP_LOW { stages := 0x1FB })) ∧
  (∀ (t : Nat) (mv held : Nat) (v : State) (s u : State), s.advance t = u → 7500 < mv → 10 * ticksPerMs ≤ held → u.pwr.handover = none → u.vsupSeen mv (some (u.now - held)) = v → v.power = pVAULT → v.elapsed v.pwr.handEnd (10 * ticksPerMs) = true →
    exec (.vsupValid t mv held) s = .next (((v.toPower pSLEEP 0x04).eaveLoad).wakeAtReturn)) ∧
  (∀ (t : Nat) (mv held : Nat) (v : State) (s u : State), s.advance t = u → 7500 < mv → 10 * ticksPerMs ≤ held → u.pwr.handover = none → u.vsupSeen mv (some (u.now - held)) = v → v.power = pOFF → v.pwr.boot = none → v.elapsed v.pwr.handEnd (10 * ticksPerMs) = true →
    exec (.vsupValid t mv held) s = .next ({ v with pwr := { v.pwr with boot := some v.now, step := 0, bootReason := 0x0D } })) ∧
  (∀ (t : Nat) (bkp vsup : Nat) (s u : State), s.advance t = u → u.power = pOFF → u.pwr.boot = none → 2700 < bkp → vsup < 6500 →
    exec (.bkpRise t bkp vsup) s = .next ((u.setR { u.rdg with bkpGone := false }).toPower pVAULT 0x0C)) ∧
  (∀ (t : Nat) (bkp : Nat) (s u : State), s.advance t = u → u.power = pVAULT → bkp < 2400 →
    exec (.bkpFall t bkp) s = .next ((u.ridgeBkpLost.toPower pOFF 0x0B).loseEave)) ∧
  (∀ (t : Nat) (bkp : Nat) (s u : State), s.advance t = u → u.power ≠ pVAULT → bkp < 2400 →
    exec (.bkpFall t bkp) s = .next (u.ridgeBkpLost)) ∧
  (∀ (t : Nat) (held : Nat) (s u : State), s.advance t = u → 3 ≤ u.power → u.pwr.handover = none → 10 * ticksPerUs ≤ held →
    exec (.nrst t held) s = .next (u.holdReset 0x05)) ∧
  (∀ (t : Nat) (s u : State), s.advance t = u → u.pwr.inReset = true → u.pwr.handover = none →
    exec (.nrstRelease t) s = .next ({ u with pwr := { u.pwr with inReset := false, boot := some u.now, step := 0 } }))

/-- The backup-cell charger events complete with their effect (R62, R63, R64, R65, R66, R67, R70, Table 3.4). -/
def Obligations.BackupChargerEventsComplete : Prop :=
  (∀ (t : Nat) (mv : Nat) (temp : Int) (s u : State), s.advance t = u → u.chargerOn = true → u.sampleDue = true →
    exec (.bkpSample t mv temp) s = .next ((u.bkpSampled mv temp).showCurrent)) ∧
  (∀ (t : Nat) (s u : State), (s.advance t).countCharge = u → u.chargerOn = true → u.getF F.PWR_BKP_STAT_PHASE = 1 → 3600 * ticksPerS ≤ u.pwr.charger.ran →
    exec (.bkpDead t) s = .next (u.chargeFault Flt.BKP_DEAD 0 0)) ∧
  (∀ (t : Nat) (s u : State), (s.advance t).countCharge = u → u.chargerOn = true → u.getF F.PWR_BKP_STAT_PHASE = 2 → max 1 (u.getF F.PWR_BKP_CTRL_FAST_TIMER) * 3600 * ticksPerS ≤ u.pwr.charger.ran →
    exec (.bkpTimer t) s = .next (u.chargeFault Flt.BKP_TIMER 3 0)) ∧
  (∀ (t : Nat) (s u : State), (s.advance t).countCharge = u → u.chargerOn = true → u.getF F.PWR_BKP_STAT_PHASE = 3 → 1800 * ticksPerS ≤ u.pwr.charger.ran →
    exec (.topoffEnd t) s = .next (u.toPhase 4)) ∧
  (∀ (t : Nat) (mv : Nat) (s u : State), (s.advance t).countCharge = u → u.chargerOn = true → u.getB F.PWR_BKP_CTRL_ENABLE = true → u.elapsed u.pwr.charger.zeroAt (60 * ticksPerS) = true → mv < 3750 → u.pwr.charger.ntcBad = false → u.getF F.PWR_BKP_STAT_PHASE = 0 →
    exec (.bkpRest t mv) s = .next (u.startCharge (if mv < 3000 then 1 else 2))) ∧
  (∀ (t : Nat) (mv : Nat) (s u : State), (s.advance t).countCharge = u → u.chargerOn = true → u.getB F.PWR_BKP_CTRL_ENABLE = true → u.elapsed u.pwr.charger.zeroAt (60 * ticksPerS) = true → mv < 3750 → u.pwr.charger.ntcBad = false → u.getF F.PWR_BKP_STAT_PHASE = 4 →
    exec (.bkpRest t mv) s = .next (u.startCharge 2)) ∧
  (∀ (t : Nat) (temp : Int) (s u : State), ((s.advance t).countCharge).setF F.PWR_BKP_STAT_CELL_TEMP (toBits 8 temp) = u → u.chargerOn = true → 1 ≤ u.getF F.PWR_BKP_STAT_PHASE → u.getF F.PWR_BKP_STAT_PHASE ≤ 3 → temp < 0 ∨ 45 < temp →
    exec (.cellTempSuspend t temp) s = .next (({ u.setF F.PWR_BKP_STAT_PHASE 5 with pwr := { (u.setF F.PWR_BKP_STAT_PHASE 5).pwr with charger := { (u.setF F.PWR_BKP_STAT_PHASE 5).pwr.charger with interrupted := u.getF F.PWR_BKP_STAT_PHASE } } } : State).showCurrent)) ∧
  (∀ (t : Nat) (temp : Int) (s u : State), ((s.advance t).countCharge).setF F.PWR_BKP_STAT_CELL_TEMP (toBits 8 temp) = u → u.chargerOn = true → u.getF F.PWR_BKP_STAT_PHASE = 5 → 1 ≤ temp → temp ≤ 44 →
    exec (.cellTempSuspend t temp) s = .next ((u.setF F.PWR_BKP_STAT_PHASE u.pwr.charger.interrupted).showCurrent)) ∧
  (∀ (t : Nat) (mv : Nat) (s u : State), (s.advance t).countCharge = u → u.chargerOn = true → mv < 100 ∨ 3200 < mv → u.getF F.PWR_BKP_STAT_PHASE ≠ 0 → u.getF F.PWR_BKP_STAT_PHASE ≠ 6 → u.getF F.PWR_BKP_STAT_PHASE ≠ 7 →
    exec (.bkpNtcFault t mv) s = .next (({ u with pwr := { u.pwr with charger := { u.pwr.charger with ntcBad := true } } }).chargeFault Flt.BKP_NTC_FAULT 0 1)) ∧
  (∀ (t : Nat) (mv : Nat) (s u : State), (s.advance t).countCharge = u → u.chargerOn = true → mv < 100 ∨ 3200 < mv → u.getF F.PWR_BKP_STAT_PHASE = 0 ∨ u.getF F.PWR_BKP_STAT_PHASE = 6 ∨ u.getF F.PWR_BKP_STAT_PHASE = 7 → u.pwr.charger.ntcBad = false →
    exec (.bkpNtcFault t mv) s = .next (({ u with pwr := { u.pwr with charger := { u.pwr.charger with ntcBad := true } } }).raise Flt.BKP_NTC_FAULT {})) ∧
  (∀ (t : Nat) (mv : Nat) (s u : State), (s.advance t).countCharge = u → u.chargerOn = true → 100 ≤ mv → mv ≤ 3200 →
    exec (.bkpNtcFault t mv) s = .next ({ u with pwr := { u.pwr with charger := { u.pwr.charger with ntcBad := false, cause := if u.pwr.charger.cause = 1 then 0 else u.pwr.charger.cause } } })) ∧
  (∀ (t : Nat) (mv : Nat) (s u : State), (s.advance t).countCharge = u → u.chargerOn = true → u.getF F.PWR_BKP_STAT_CURRENT_MA ≠ 0 → 4800 < mv →
    exec (.bkpOvervoltage t mv) s = .next (u.chargeFault Flt.BKP_OVERVOLTAGE 4 2)) ∧
  (∀ (t : Nat) (mv : Nat) (s u : State), (s.advance t).countCharge = u → u.chargerOn = true → u.getF F.PWR_BKP_STAT_PHASE ≠ 7 → mv < 500 ∨ (5200 < mv ∧ u.getF F.PWR_BKP_STAT_CURRENT_MA ≠ 0) →
    exec (.bkpNoCell t mv) s = .next (({ u.toPhase 7 with pwr := { (u.toPhase 7).pwr with charger := { (u.toPhase 7).pwr.charger with retryAt := (u.toPhase 7).now, underFault := decide (u.getF F.PWR_BKP_STAT_PHASE = 6) } } } : State).raise Flt.BKP_NO_CELL {})) ∧
  (∀ (t : Nat) (mv : Nat) (s u : State), (s.advance t).countCharge = u → u.chargerOn = true → u.getF F.PWR_BKP_STAT_PHASE = 7 → u.elapsed u.pwr.charger.retryAt (60 * ticksPerS) = true →
    exec (.bkpNoCellRetry t mv) s = .next (if mv < 500 ∨ 5200 < mv then { u with pwr := { u.pwr with charger := { u.pwr.charger with retryAt := u.now } } } else u.toPhase (if u.pwr.charger.underFault then 6 else 0))) ∧
  (∀ (t : Nat) (s u : State), (s.advance t).countCharge = u → u.chargerOn = true → u.hostGone = true →
    exec (.chargerFallback t) s = .next ((u.setB F.PWR_BKP_STAT_FALLBACK true).showCurrent)) ∧
  (∀ (t : Nat) (s u : State), (s.advance t).countCharge = u → u.chargerOn = true → u.getB F.PWR_BKP_STAT_FALLBACK = true → 1 ≤ u.getF F.PWR_BKP_STAT_PHASE → u.getF F.PWR_BKP_STAT_PHASE ≤ 3 → 8 * 3600 * ticksPerS ≤ u.pwr.charger.defaultRan →
    exec (.charge8hLimit t) s = .next ((u.toPhase 4).setF F.PWR_BKP_STAT_TERM 5))

/-- The drive requests complete with the effect of Table 9.3 (R228, R232, R233, R234, R235, R236, R238, R240, Table 9.3). -/
def Obligations.DriveRequestsComplete : Prop :=
  (∀ (r : Req) (s u : State), admitOp { code := 0x0300, lens := [1] } r s = .served u → r.num 0 1 ≠ 0 → Nat.land (r.num 0 1) u.setsPresent = r.num 0 1 → u.power ≠ pSAFE → (bitsList 2 (r.num 0 1)).any (fun k => u.held k) = false → u.armRefused (r.num 0 1) = false →
    exec (.driveArm r) s = .next ((({ u with trc := { u.trc with sets := r.num 0 1, retired := Nat.lor u.trc.retired u.trc.retireDue, retireDue := 0, ascSets := 0, ascLeave := 0, bias := Vector.replicate 2 (0, 0), biasFrom := 0, torqueNow := 0, torqueAt := none, idNow := 0, dRamp := false } }).toD 1).answer (r.ticket 0x0300) stOK [])) ∧
  (∀ (r : Req) (s u : State), admitOp { code := 0x0301, lens := [1] } r s = .served u → r.num 0 1 ≤ 1 → (bitsList 2 u.setsInUse).any (fun k => u.held k) = false → u.dstate = 1 → (bitsList 2 u.trc.sets).all (fun k => bitAt u.trc.retired k) = false → u.trc.start = none → (u.startMode (r.num 0 1 == 1)).vdc * (9 / 10) < (u.startMode (r.num 0 1 == 1)).emfAt (u.getQ F.TRC_SPEED) →
    exec (.driveStart r) s = .next (((((u.startMode (r.num 0 1 == 1)).flyRecord 3 0 0).enterAsc false)).answer (r.ticket 0x0301) stOK (startData 3 (u.getQ F.TRC_SPEED)))) ∧
  (∀ (r : Req) (s u : State), admitOp { code := 0x0301, lens := [1] } r s = .served u → r.num 0 1 ≤ 1 → (bitsList 2 u.setsInUse).any (fun k => u.held k) = false → u.dstate = 1 → (bitsList 2 u.trc.sets).all (fun k => bitAt u.trc.retired k) = false → u.trc.start = none → ¬ (u.startMode (r.num 0 1 == 1)).vdc * (9 / 10) < (u.startMode (r.num 0 1 == 1)).emfAt (u.getQ F.TRC_SPEED) →
    exec (.driveStart r) s = .next (((u.startMode (r.num 0 1 == 1)).listen (r.ticket 0x0301)).trimCache (r.ticket 0x0301))) ∧
  (∀ (r : Req) (s u : State), admitOp { code := 0x0302 } r s = .served u → u.dstate = 3 ∨ u.dstate = 5 →
    exec (.driveStop r) s = .next (u.beginStop.answer (r.ticket 0x0302) stOK [])) ∧
  (∀ (r : Req) (s u : State), admitOp { code := 0x0302 } r s = .served u → u.dstate = 6 →
    exec (.driveStop r) s = .next (({ u with trc := { u.trc with lossFrom := 7, dRamp := u.trc.dRamp && u.trc.lossFrom == 7 } }).answer (r.ticket 0x0302) stOK [])) ∧
  (∀ (r : Req) (s u : State), admitOp { code := 0x0302 } r s = .served u → u.dstate = 4 →
    exec (.driveStop r) s = .next (({ u with trc := { u.trc with ascForStop := true } }).answer (r.ticket 0x0302) stOK [])) ∧
  (∀ (r : Req) (s u : State), admitOp { code := 0x0302 } r s = .served u → u.dstate = 2 →
    exec (.driveStop r) s = .next (((u.toD 1).answerStart stStateRefused []).answer (r.ticket 0x0302) stOK [])) ∧
  (∀ (r : Req) (s u : State), admitOp { code := 0x0302 } r s = .served u → u.dstate = 0 ∨ u.dstate = 1 ∨ u.dstate = 7 →
    exec (.driveStop r) s = .next (u.answer (r.ticket 0x0302) stOK [])) ∧
  (∀ (r : Req) (s u : State), admitOp { code := 0x0303, lens := [8] } r s = .served u → F32.isFinite (r.fl 0) = true → ¬ u.getQ F.TRC_TMAX < absRat (F32.toRat (r.fl 0)) → posFinite (r.fl 4) = true → u.dstate ≠ 0 → u.dstate ≠ 8 →
    exec (.torqueSet r) s = .next (({ u with trc := { u.trc with torque := r.fl 0, ramp := r.fl 4 } }).answer (r.ticket 0x0303) stOK (beBytes 4 (u.getF F.TRC_TLIM)))) ∧
  (∀ (r : Req) (s u : State), admitOp { code := 0x0304, lens := [8] } r s = .served u → u.speedLimitOk (r.fl 0) = true → u.speedLimitOk (r.fl 4) = true →
    exec (.speedLimitSet r) s = .next (({ u with trc := { u.trc with fwdLimit := some (r.fl 0), revLimit := some (r.fl 4) } }).answer (r.ticket 0x0304) stOK [])) ∧
  (∀ (r : Req) (s u : State), admitOp { code := 0x0305 } r s = .served u → u.dstate = 1 →
    exec (.driveDisarm r) s = .next ((((({ u with trc := { u.trc with sets := 0 } }).toD 0).setB F.TRC_STAT_HALFAXLE false).answerStart stStateRefused []).answer (r.ticket 0x0305) stOK [])) ∧
  (∀ (r : Req) (s u : State), admitOp { code := 0x0305 } r s = .served u → u.dstate = 0 →
    exec (.driveDisarm r) s = .next (u.answer (r.ticket 0x0305) stOK []))

/-- The drive events complete with the changes of drive state the rules give (R236, R238, R240, R241, R242, R243, R244, R245, R247, R254). -/
def Obligations.DriveEventsComplete : Prop :=
  (∀ (t : Nat) (m : ListenMeas) (n : Rat) (diff : Option Rat) (s u : State), s.advance t = u → u.mainUp = true → u.dstate = 2 → u.listenCut m = true → u.listened m = (n, diff) →
    exec (.listenEnd t m) s = .next (((u.flyRecord 3 ((u.now - u.trc.listenAt) / 6400) (diff.getD 0)).enterAsc false).answerStart stOK (startData 3 n))) ∧
  (∀ (t : Nat) (m : ListenMeas) (n : Rat) (diff : Option Rat) (c : Nat) (s u : State), s.advance t = u → u.mainUp = true → u.dstate = 2 → u.listenCut m = false → u.trc.listenAt + u.trc.listenFor ≤ u.now → u.listened m = (n, diff) → startDecision (u.getQ F.TRC_RATED) n diff u.dirForward = .case c →
    exec (.listenEnd t m) s = .next ((((u.flyRecord c ((u.now - u.trc.listenAt) / 6400) (diff.getD 0)).presetSets c n m.eMeas).startCase c).answerStart stOK (startData c n))) ∧
  (∀ (t : Nat) (m : ListenMeas) (n : Rat) (diff : Option Rat) (s u : State), s.advance t = u → u.mainUp = true → u.dstate = 2 → u.listenCut m = false → u.trc.listenAt + u.trc.listenFor ≤ u.now → u.listened m = (n, diff) → startDecision (u.getQ F.TRC_RATED) n diff u.dirForward = .disagree →
    exec (.listenEnd t m) s = .next (((((u.toD 1).flyRecord 5 ((u.now - u.trc.listenAt) / 6400) (diff.getD 0)).event F.TRC_EVT_DISAGREE).raise Flt.TRC_START_DISAGREE { stages := u.trc.sets }).answerStart stStateRefused [])) ∧
  (∀ (t : Nat) (m : ListenMeas) (n : Rat) (diff : Option Rat) (s u : State), s.advance t = u → u.mainUp = true → u.dstate = 2 → u.listenCut m = false → u.trc.listenAt + u.trc.listenFor ≤ u.now → u.listened m = (n, diff) → startDecision (u.getQ F.TRC_RATED) n diff u.dirForward = .reverse →
    exec (.listenEnd t m) s = .next (((((u.toD 1).flyRecord 4 ((u.now - u.trc.listenAt) / 6400) (diff.getD 0)).event F.TRC_EVT_REVERSE).raise Flt.TRC_REVERSE_REFUSED { stages := u.trc.sets }).answerStart stReverseTooFast [])) ∧
  (∀ (t : Nat) (s u : State), s.advance t = u → u.mainUp = true → u.dstate = 7 → u.trc.torqueNow = 0 →
    exec (.stopRampEnd t) s = .next (if !u.trc.dRamp && u.emfHigh then u.enterAsc true else if u.stopRamped then (u.toD 1).stopSets else { u with trc := { u.trc with dRamp := true } })) ∧
  (∀ (t : Nat) (x : Nat) (v : State) (s u : State), s.advance t = u → u.trc.ascLowSince = some x → u.mainUp = true → u.dstate = 4 → x + 100 * ticksPerMs ≤ u.now → u.leaveAsc = v → v.trc.ascForStop = true →
    exec (.ascExit t) s = .next (v.stopFromAsc)) ∧
  (∀ (t : Nat) (x c : Nat) (v : State) (s u : State), s.advance t = u → u.trc.ascLowSince = some x → u.mainUp = true → u.dstate = 4 → x + 100 * ticksPerMs ≤ u.now → u.leaveAsc = v → v.trc.ascForStop = false → startDecision (v.getQ F.TRC_RATED) (v.getQ F.TRC_SPEED) none v.dirForward = .case c →
    exec (.ascExit t) s = .next (v.startCase c)) ∧
  (∀ (t : Nat) (x : Nat) (v : State) (s u : State), s.advance t = u → u.trc.ascLowSince = some x → u.mainUp = true → u.dstate = 4 → x + 100 * ticksPerMs ≤ u.now → u.leaveAsc = v → v.trc.ascForStop = false → startDecision (v.getQ F.TRC_RATED) (v.getQ F.TRC_SPEED) none v.dirForward = .reverse →
    exec (.ascExit t) s = .next ((v.stopFromAsc.event F.TRC_EVT_REVERSE).raise Flt.TRC_REVERSE_REFUSED { stages := v.trc.sets })) ∧
  (∀ (t : Nat) (x : Nat) (s u : State), s.advance t = u → u.mainUp = true → u.trc.slowSince = some x → u.dstate = 3 → x + 50 * ticksPerMs ≤ u.now →
    exec (.brakeStandstill t) s = .next (u.toD 5)) ∧
  (∀ (t : Nat) (x : Nat) (s u : State), s.advance t = u → u.mainUp = true → u.dstate = 3 → u.trc.brakeZeroSince = some x → x + 500 * ticksPerMs ≤ u.now →
    exec (.trcBrakeAbort t) s = .next ((((u.event F.TRC_EVT_BRAKE_ABORT).raise Flt.TRC_BRAKE_ABORT { stages := u.trc.sets }).beginStop))) ∧
  (∀ (t : Nat) (s u : State), s.advance t = u → u.mainUp = true → u.dstate = 3 → u.trc.brakeAt + u.getF F.TRC_FLY_BRAKE_S * 100 * ticksPerMs ≤ u.now → u.getQ F.TRC_RATED / 100 ≤ absRat (u.getQ F.TRC_SPEED) →
    exec (.trcBrakeAbort t) s = .next ((((u.event F.TRC_EVT_BRAKE_ABORT).raise Flt.TRC_BRAKE_ABORT { stages := u.trc.sets }).beginStop))) ∧
  (∀ (t : Nat) (s u : State), s.advance t = u → u.mainUp = true → u.dstate = 6 → u.trc.lossAt + 20 * ticksPerMs ≤ u.now →
    exec (.trcRotorLost t) s = .next ((u.setQ F.TRC_EMF (maxRat (u.emfAt u.trc.nLoss) (if u.getB F.TRC_STAT_OBS_VALID then u.emfAt u.trc.nObs else 0))).raise Flt.TRC_ROTOR_LOST { stages := 3 })) ∧
  (∀ (t : Nat) (tex : Nat) (pulled : Bool) (s u : State), s.advance t = u → u.mainUp = true → excRule u.texNom (u.car 0).eff = (tex, pulled) →
    exec (.excRetime t) s = .next ((if tex = u.getF F.TRC_EXC && (!pulled || u.getB F.TRC_STAT_EXC_PULLED) then u else u.retime tex pulled).setB F.TRC_STAT_EXC_PULLED pulled))

/-- SET_STATE, the end of the arming sequence, SAFE_STATUS, FAULT_LOG_READ and the FIFO drain complete (R404, R405, R406, R407, R413, R415, R416, R417, Table 15.4). -/
def Obligations.ArmingAndLogCommandsComplete : Prop :=
  (∀ (r : Req) (s u : State), admitOp { code := 0x0003, lens := [1] } r s = .served u → r.num 0 1 = 4 → u.power = pSTANDBY → u.slt.arming = none → u.armRefusal = 0 →
    exec (.setState r) s = .next ((({ u with slt := { u.slt with arming := some u.now } }.setF F.SLT_STAT_STEST_ERR 0)).answer (r.ticket 0x0003) stDeferred [])) ∧
  (∀ (r : Req) (s u : State), admitOp { code := 0x0003, lens := [1] } r s = .served u → r.num 0 1 = 3 → u.power = pSTANDBY → u.slt.arming.isSome = true →
    exec (.setState r) s = .next (u.abortArming.answer (r.ticket 0x0003) stOK [])) ∧
  (∀ (r : Req) (s u : State), admitOp { code := 0x0003, lens := [1] } r s = .served u → r.num 0 1 = 3 → u.power = pARMED ∨ u.power = pRUN → u.anySwitching = false →
    exec (.setState r) s = .next (u.toStandby.answer (r.ticket 0x0003) stOK [])) ∧
  (∀ (r : Req) (s u : State), admitOp { code := 0x0003, lens := [1] } r s = .served u → r.num 0 1 = 3 → u.power = pSAFE → u.anySwitching = false → u.ascOn 0 = false → u.ascOn 1 = false → u.unacked (fun _ => true) = false → u.getB F.SLT_STAT_SP_LOST = false →
    exec (.setState r) s = .next (u.endHolds.toStandby.answer (r.ticket 0x0003) stOK [])) ∧
  (∀ (t : Nat) (failed : Fin 4) (b : State) (s u : State), s.advance t = u → u.slt.arming.isSome = true → u.power = pSTANDBY → u.storeOk = true → failed.val = 0 → ((u.abortArming.setB F.SYS_LOCK_ARMED_LOCK true).setB F.SLT_STAT_LOCKED true).toPower pARMED 0x01 = b →
    exec (.armingComplete t failed) s = .next ({ b with slt := { b.slt with armedAt := b.now, dueCount := 0 } })) ∧
  (∀ (t : Nat) (failed : Fin 4) (s u : State), s.advance t = u → u.slt.arming.isSome = true → u.power = pSTANDBY → u.armStep failed ≠ 0 → u.storeOk = true ∨ u.slt.limitsBad = true →
    exec (.armingComplete t failed) s = .next ((u.abortArming.setF F.SLT_STAT_STEST_ERR (u.armStep failed)).raise Flt.SLT_SELFTEST_FAIL {})) ∧
  (∀ (t : Nat) (failed : Fin 4) (s u : State), s.advance t = u → u.slt.arming.isSome = true → u.power = pSTANDBY → u.storeOk = false → u.slt.limitsBad = false →
    exec (.armingComplete t failed) s = .next ((({ u with slt := { u.slt with limitsBad := true } }).event F.SLT_EVT_LIMIT).raise Flt.SLT_LIMIT_CORRUPT { stages := slateStages })) ∧
  (∀ (r : Req) (s u : State), admitOp { code := 0x0900 } r s = .served u →
    exec (.safeStatus r) s = .next (u.answer (r.ticket 0x0900) stOK ([F.SLT_STAT_HELD.addr, F.GD_SLATCH.addr, F.GD_DLATCH.addr, F.SLT_SIN.addr].flatMap fun a => beBytes 4 (u.getW a).toNat))) ∧
  (∀ (r : Req) (l : List FaultRec) (s u : State), admitOp { code := 0x0901, lens := [3] } r s = .served u → 1 ≤ r.num 2 1 → r.num 2 1 ≤ 16 → (u.recordsFrom (r.num 0 2)).take (min (r.num 2 1) ((maxPacket r.port r.fd - 23) / 32)) = l →
    exec (.faultLogRead r) s = .next (u.answer (r.ticket 0x0901) stOK (beBytes 1 l.length ++ l.flatMap fun x => x.bytes))) ∧
  (∀ (t : Nat) (s u : State), s.advance t = u → u.mainUp = true →
    exec (.faultFifoDrain t) s = .next (u.log.fifo.foldl (fun x r => x.logPut r) { u with log := { u.log with fifo := [], fifoLost := 0 } })) ∧
  (∀ (t : Nat) (s u : State), s.advance t = u → u.mainUp = true → pARMED ≤ u.power → u.power ≤ pSAFE → u.slt.armedAt + 24 * 3600 * (u.slt.dueCount + 1) * ticksPerS ≤ u.now →
    exec (.sltSelftestDue t) s = .next (({ u with slt := { u.slt with dueCount := u.slt.dueCount + 1 } }).raise Flt.SLT_SELFTEST_DUE {}))

/-- The mutual checks of Slate and safety processor complete with the effect of R394 to R400 (R20, R394, R395, R396, R397, R398, R400, Table 15.1). -/
def Obligations.MutualCheckEventsComplete : Prop :=
  (∀ (t : Nat) (clk : SltClock) (missing count : Nat) (s u : State), s.advance t = u → u.clocksWatched = true → clockBad clk missing count = true → u.slt.clkLost.contains clk = false → clk ≠ .cd3 →
    exec (.sltClockLoss t clk missing count) s = .next (((({ u with slt := { u.slt with clkLost := clk :: u.slt.clkLost } }).blockAll.releaseAsc).raise Flt.SLT_CLOCK_LOSS { stages := 0x1FF }).showModes)) ∧
  (∀ (t : Nat) (missing count : Nat) (s u : State), s.advance t = u → u.clocksWatched = true → clockBad .cd3 missing count = true → u.slt.clkLost.contains .cd3 = false →
    exec (.sltClockLoss t .cd3 missing count) s = .next (({ u with slt := { u.slt with clkLost := .cd3 :: u.slt.clkLost } }).spLost Flt.SLT_CLOCK_LOSS none)) ∧
  (∀ (t : Nat) (clk : SltClock) (missing count : Nat) (s u : State), s.advance t = u → u.clocksWatched = true → clockBad clk missing count = false →
    exec (.sltClockLoss t clk missing count) s = .next ({ u with slt := { u.slt with clkLost := u.slt.clkLost.filter fun c => c != clk } })) ∧
  (∀ (t : Nat) (a : State) (s u : State), s.advance t = u → u.mainUp = true → u.slt.questionAt = 0 ∨ u.slt.questionAt + ticksPerMs ≤ u.now → (if u.qaOpen then u.qaMiss else u) = a →
    exec (.sltQuestion t) s = .next ({ a with free := a.free + 1, slt := { a.slt with question := BitVec.ofNat 16 (Config.freeWord a.free).toNat, questionAt := a.now, words := 0, judged := false } }.wrap F.SLT_QA_QUESTIONS)) ∧
  (∀ (t : Nat) (word : BitVec 16) (s u : State), s.advance t = u → u.mainUp = true → u.slt.questionAt ≠ 0 → u.slt.judged = false → u.slt.words < 3 → word = Config.answerWord u.slt.question u.slt.words →
    exec (.spAnswerWord t word) s = .next ({ u with slt := { u.slt with words := u.slt.words + 1 } })) ∧
  (∀ (t : Nat) (word : BitVec 16) (s u : State), s.advance t = u → u.mainUp = true → u.slt.questionAt ≠ 0 → u.slt.judged = false → u.slt.words = 3 → word = Config.answerWord u.slt.question u.slt.words → u.slt.questionAt + 250 * ticksPerUs ≤ u.now → u.now ≤ u.slt.questionAt + 900 * ticksPerUs →
    exec (.spAnswerWord t word) s = .next ({ u with slt := { u.slt with words := 4, judged := true } }.setB F.SLT_STAT_QA_OK true)) ∧
  (∀ (t : Nat) (word : BitVec 16) (s u : State), s.advance t = u → u.mainUp = true → u.slt.questionAt ≠ 0 → u.slt.judged = false → u.slt.words < 4 → word ≠ Config.answerWord u.slt.question u.slt.words →
    exec (.spAnswerWord t word) s = .next (u.qaMiss)) ∧
  (∀ (t : Nat) (s u : State), s.advance t = u → u.mainUp = true → u.qaOpen = true → u.slt.questionAt + 900 * ticksPerUs < u.now →
    exec (.sltQaMiss t) s = .next (u.qaMiss)) ∧
  (∀ (t : Nat) (s u : State), s.advance t = u → u.mainUp = true → bitAt u.slt.lostBy 1 = false →
    exec (.spLockstep t) s = .next (({ u with slt := { u.slt with lostBy := setBitN u.slt.lostBy 1 true } }).spLost Flt.SP_LOCKSTEP (some F.SLT_EVT_LOCKSTEP))) ∧
  (∀ (t : Nat) (parity : Bool) (s u : State), s.advance t = u → u.mainUp = true → (parity || !u.storeOk) = true → u.slt.limitsBad = false →
    exec (.sltLimitCorrupt t parity) s = .next ((({ u with slt := { u.slt with limitsBad := true } }).event F.SLT_EVT_LIMIT).raise Flt.SLT_LIMIT_CORRUPT { stages := slateStages })) ∧
  (∀ (t : Nat) (s u : State), s.advance t = u → u.mainUp = true → u.storeOk = true →
    exec (.sltLimitCorrupt t false) s = .next ({ u with slt := { u.slt with limitsBad := false } })) ∧
  (∀ (t : Nat) (dev : Int) (gate : BitVec 9) (torqueA torqueB : Rat) (held : Nat) (s u : State), s.advance t = u → u.mainUp = true → u.getB F.SLT_STAT_SP_LOST = false →
    exec (.spPeriodicCheck t dev gate torqueA torqueB held) s = .next (((u.checkDrift dev held).checkGates gate.toNat).checkTorque torqueA torqueB held))

/-- The safe-state commands of the safety processor and the Slate complete with the changes of holds the rules give (R256, R257, R258, R260, R261, R394, R398, R408, R412). -/
def Obligations.SafeStateEventsComplete : Prop :=
  (∀ (t : Nat) (stage : Fin 9) (s u : State), s.advance t = u → u.mainUp = true → u.getB F.SLT_STAT_SP_LOST = false → (u.hbsOf stage).isEmpty = false → 2 ≤ stage.val →
    exec (.safeStateRequest t stage) s = .next ((u.applySafe stage (if bitAt u.slt.classA stage then 1 else u.bChoice stage)).showModes)) ∧
  (∀ (t : Nat) (stage : Fin 9) (s u : State), s.advance t = u → u.mainUp = true → u.getB F.SLT_STAT_SP_LOST = false → (u.hbsOf stage).isEmpty = false → stage.val ≤ 1 →
    exec (.safeStateRequest t stage) s = .next (((u.applySafe stage (if bitAt u.slt.classA stage then 1 else u.bChoice stage)).showModes.partner stage).showModes)) ∧
  (∀ (t : Nat) (stages : BitVec 9) (s u : State), s.advance t = u → u.getB F.SLT_STAT_SP_LOST = false →
    exec (.safeStateConfirm t stages) s = .next ((bitsList 9 stages.toNat).foldl (fun (x : State) st => if x.held st then { x with slt := { x.slt with timer := vset x.slt.timer st none, want := vset x.slt.want st 0 } } else x) u)) ∧
  (∀ (t : Nat) (s u : State), s.advance t = u → u.mainUp = true → u.overdue ≠ 0 →
    exec (.sltBOverrun t) s = .next ((((u.event F.SLT_EVT_OVERRUN).raise Flt.SLT_B_OVERRUN { stages := u.overdue }).slateAlone u.overdue).showModes)) ∧
  (∀ (t : Nat) (setB : Bool) (st x : Nat) (s u : State), s.advance t = u → (if setB then 1 else 0) = st → u.mainUp = true → u.getB F.SLT_STAT_SP_LOST = false → u.ascOn st = true → bitAt u.slt.classA st = false → bitAt u.slt.scLow st = false → bitAt u.slt.scHigh st = false → u.slt.lowEmfSince = some x → x + ticksPerS ≤ u.now →
    exec (.spAscRelease t setB) s = .next ((u.setKind st 1).showSafe)) ∧
  (∀ (t : Nat) (stage : Fin 9) (s u : State), s.advance t = u → u.mainUp = true → u.mayRelease stage = true →
    exec (.spHoldRelease t stage) s = .next ((u.endHold stage).leaveSafe))

/-- The safety-input and RSTREQ events complete with the effect of R419 to R425 (R419, R420, R421, R422, R423, R424, R425, Table 15.9). -/
def Obligations.SafetyInputEventsComplete : Prop :=
  (∀ (t : Nat) (b : Bool) (i : Nat) (s u : State), s.advance t = u → u.mainUp = true → (if b then 1 else 0) = i → vget u.slt.pulseFrame i 0 < u.testFrame b →
    exec (.testPulse t b) s = .next ({ u with slt := { u.slt with pulseFrame := vset u.slt.pulseFrame i (u.testFrame b), pulseAt := vset u.slt.pulseAt i (u.pulseBase b + (u.testFrame b - 1) * (20 * ticksPerMs)) } })) ∧
  (∀ (t : Nat) (b : Bool) (levels : BitVec 8) (s u : State), s.advance t = u → u.mainUp = true → u.pulseSampled b = true →
    exec (.sinSample t b levels) s = .next ([0, 1, 2, 3].foldl (fun (x : State) p => x.samplePair b levels.toNat p) { u with slt := { u.slt with sampleFrame := vset u.slt.sampleFrame (if b then 1 else 0) (u.testFrame b) } })) ∧
  (∀ (t : Nat) (pair : Fin 4) (b raw : Bool) (held : Nat) (s u : State), s.advance t = u → u.mainUp = true → 3 * ticksPerMs ≤ held →
    exec (.sinDebounce t pair b raw held) s = .next (if u.pairSafe pair && !(u.debounced pair b raw held).pairSafe pair then (u.debounced pair b raw held).sinRequest pair else u.debounced pair b raw held)) ∧
  (∀ (t : Nat) (pair : Fin 4) (d : Nat) (s u : State), s.advance t = u → (u.pair pair).differSince = some d → u.mainUp = true → d + 50 * ticksPerMs ≤ u.now →
    exec (.sinDiscrepancy t pair) s = .next (u.sinFault pair 3)) ∧
  (∀ (t : Nat) (pair : Fin 4) (b : Bool) (transitions : Nat) (s u : State), s.advance t = u → u.mainUp = true → 8 < transitions →
    exec (.chatter t pair b transitions) s = .next ((u.markChat pair b).sinFault pair 4)) ∧
  (∀ (t : Nat) (b : Bool) (held : Nat) (hit : List Nat) (s u : State), s.advance t = u → u.mainUp = true → ticksPerMs ≤ held → below 4 (fun p => u.pairUsed p && (u.pair p).kind != 5) = hit → hit ≠ [] →
    exec (.tpsOverload t b held) s = .next (((hit.foldl (fun (x : State) p => x.setPair p { x.pair p with kind := 5, goodFrames := 0, frameBad := true }) u).event F.SLT_EVT_SINFAULT).raise Flt.TPS_OVERLOAD { stages := hit.foldl (fun m p => Nat.lor m (u.getF (F.SLT_SINMASK_MASK p))) 0 })) ∧
  (∀ (t : Nat) (s u : State), (s.advance t).keyLevel true = u → u.mainUp = true → u.getB F.SLT_RST_LEVEL = false →
    exec (.rstreqPress t) s = .next ((({ u with slt := { u.slt with rstPressAt := some u.now, rstClean := u.rstReady } }.setB F.SLT_RST_LEVEL true).setB F.SLT_RST_READY false))) ∧
  (∀ (t : Nat) (p : Nat) (b : State) (s u : State), (s.advance t).keyLevel false = u → u.mainUp = true → u.power ≠ pTEST → u.getB F.SLT_RST_LEVEL = true → u.getB F.SLT_RST_STUCK = false → u.slt.rstPressAt = some p → u.rstReleased p = b → 50 * ticksPerMs ≤ u.now - p → u.now - p ≤ 3 * ticksPerS → u.slt.rstClean = true → b.resetRefused = false →
    exec (.rstreqRelease t) s = .next ({ b.resetAndBoot 0x09 with pwr := { (b.resetAndBoot 0x09).pwr with resetAccepted := true } })) ∧
  (∀ (t : Nat) (p : Nat) (b : State) (s u : State), (s.advance t).keyLevel false = u → u.mainUp = true → u.power ≠ pTEST → u.getB F.SLT_RST_LEVEL = true → u.getB F.SLT_RST_STUCK = false → u.slt.rstPressAt = some p → u.rstReleased p = b → 50 * ticksPerMs ≤ u.now - p → u.now - p ≤ 3 * ticksPerS → u.slt.rstClean = true → b.resetRefused = true →
    exec (.rstreqRelease t) s = .next ((b.event F.SLT_EVT_RESET).raise Flt.RESET_REFUSED {})) ∧
  (∀ (t : Nat) (p : Nat) (b : State) (s u : State), (s.advance t).keyLevel false = u → u.mainUp = true → u.power ≠ pTEST → u.getB F.SLT_RST_LEVEL = true → u.getB F.SLT_RST_STUCK = false → u.slt.rstPressAt = some p → u.rstReleased p = b → 3 * ticksPerS < u.now - p → u.now - p ≤ 30 * ticksPerS →
    exec (.rstreqRelease t) s = .next ((b.event F.SLT_EVT_RESET).raise Flt.RESET_HELD {})) ∧
  (∀ (t : Nat) (p : Nat) (b : State) (s u : State), (s.advance t).keyLevel false = u → u.mainUp = true → u.power ≠ pTEST → u.getB F.SLT_RST_LEVEL = true → u.getB F.SLT_RST_STUCK = false → u.slt.rstPressAt = some p → u.rstReleased p = b → u.now - p < 50 * ticksPerMs →
    exec (.rstreqRelease t) s = .next (b)) ∧
  (∀ (t : Nat) (p : Nat) (s u : State), (s.advance t).keyLevel false = u → u.mainUp = true → u.power = pTEST → u.getB F.SLT_RST_LEVEL = true → u.slt.rstPressAt = some p →
    exec (.rstreqRelease t) s = .next (u.rstReleased p)) ∧
  (∀ (t : Nat) (p : Nat) (s u : State), s.advance t = u → u.mainUp = true → u.slt.rstPressAt = some p → u.getB F.SLT_RST_STUCK = false → p + 30 * ticksPerS ≤ u.now →
    exec (.resetStuck t) s = .next (((u.setB F.SLT_RST_STUCK true).event F.SLT_EVT_RESET).raise Flt.RESET_STUCK {}))

/-- The charger requests complete with the effect of Table 11.6 (R292, R300, R302, R308, Table 11.6, Table 11.7). -/
def Obligations.ChargerRequestsComplete : Prop :=
  (∀ (r : Req) (s u : State), admitOp { code := 0x0400, lens := [6] } r s = .served u → r.num 0 1 = 1 ∨ r.num 0 1 = 3 → r.num 1 1 ≤ 1 → posFinite (r.fl 2) = true → u.held 3 = false → u.held 4 = false → u.beginRefused = false →
    exec (.chgSessionBegin r) s = .next ((u.beginSession (r.num 0 1) (r.num 1 1 == 1) (r.fl 2)).answer (r.ticket 0x0400) stOK [])) ∧
  (∀ (r : Req) (s u : State), admitOp { code := 0x0401, lens := [8] } r s = .served u → F32.isFinite (r.fl 0) = true → posFinite (r.fl 4) = true → F32.toRat (r.fl 0) ≤ u.getQ F.CHG_IMPORT_MAX → -(u.getQ F.CHG_EXPORT_MAX) ≤ F32.toRat (r.fl 0) → u.cstate ≠ 0 → 0 ≤ F32.toRat (r.fl 0) ∨ (u.chg.exportOk = true ∧ u.getB F.CHG_CFG_EXPORT_EN = true ∧ u.getB F.CHG_STAT_FALLBACK = false) →
    exec (.chgSet r) s = .next ((((({ u with chg := { u.chg with setTarget := r.fl 0, battLimit := r.fl 4 } }).setFl F.CHG_TARGET (r.fl 0)).followTarget)).answer (r.ticket 0x0401) stOK [])) ∧
  (∀ (r : Req) (s u : State), admitOp { code := 0x0402, background := true } r s = .served u → u.cstate ≠ 0 → u.chgSwitching = false ∨ u.rampPower = 0 →
    exec (.chgSessionEnd r) s = .next ((({ u with chg := { u.chg with endTickets := u.chg.endTickets ++ [r.ticket 0x0402] } }).chgStop 1).trimCache (r.ticket 0x0402))) ∧
  (∀ (r : Req) (s u : State), admitOp { code := 0x0402, background := true } r s = .served u → u.cstate ≠ 0 → u.chgSwitching = true → u.rampPower ≠ 0 →
    exec (.chgSessionEnd r) s = .next ((({ u with chg := { u.chg with endTickets := u.chg.endTickets ++ [r.ticket 0x0402] } }).rampZero (u.getQ F.CHG_RAMP) 1).trimCache (r.ticket 0x0402))) ∧
  (∀ (r : Req) (s u : State), admitOp { code := 0x0403 } r s = .served u →
    exec (.pilotStatus r) s = .next (u.answer (r.ticket 0x0403) stOK u.pilotData))

/-- The charger events complete with the effect of R295 to R313 (R295, R296, R297, R301, R304, R306, R308, R309, R311, R312, R313, Table 11.8). -/
def Obligations.ChargerEventsComplete : Prop :=
  (∀ (t : Nat) (ohm : Option Nat) (b : State) (s u : State), s.advance t = u → 2 ≤ u.power → u.countPp ohm = b →
    exec (.ppSample t ohm) s = .next (if 3 ≤ b.pwr.ppRun && ppClassOf ohm != b.pwr.ppClass then ((({ b with pwr := { b.pwr with ppClass := ppClassOf ohm } }).takeClass (ppClassOf ohm)).wake 3).showIlim else if 3 ≤ b.pwr.ppRun && b.mainUp && ppClassOf ohm != b.getF F.CHG_PP_CLASS then (b.takeClass (ppClassOf ohm)).showIlim else b)) ∧
  (∀ (t : Nat) (highMv lowMv : Int) (osc : Bool) (duty : Vector Nat 8) (s u : State), s.advance t = u → u.mainUp = true →
    exec (.pilotEvaluation t highMv lowMv osc duty) s = .next ((((u.showPilot highMv lowMv osc (pilotDuty duty)).countPilot (pilotState highMv lowMv osc)).pilotEffects (u.getF F.CHG_PILOT_STATE)).showIlim)) ∧
  (∀ (t : Nat) (m : GridMeas) (s u : State), s.advance t = u → u.mainUp = true → u.cstate = 1 ∨ (u.cstate = 4 ∧ u.chgSwitching = false) → u.gridFit m = true → u.getF F.CHG_QUAL * ticksPerMs ≤ m.held →
    exec (.gridQualified t m) s = .next ((u.setB F.CHG_STAT_QUALIFIED true).chgSettle)) ∧
  (∀ (t : Nat) (m : GridMeas) (s u : State), s.advance t = u → u.mainUp = true → u.cstate = 1 ∨ u.cstate = 2 ∨ (u.cstate = 4 ∧ u.chgSwitching = false) → u.gridFit m = false →
    exec (.gridQualified t m) s = .next ((u.setB F.CHG_STAT_QUALIFIED false).chgSettle)) ∧
  (∀ (t : Nat) (vpfc peak : Rat) (held : Nat) (s u : State), s.advance t = u → u.mainUp = true → u.cstate = 2 → u.getB F.CHG_STAT_QUALIFIED = true → peak * (95 / 100) < vpfc → 100 * ticksPerMs ≤ held →
    exec (.vpfcPrecharged t vpfc peak held) s = .next (u.setB F.CHG_STAT_PRECHARGED true)) ∧
  (∀ (t : Nat) (m : GridMeas) (c : Nat) (s u : State), s.advance t = u → u.mainUp = true → u.gridTrip m = c → c ≠ 0 → u.cstate = 3 ∨ (u.cstate = 4 ∧ u.chgSwitching = true) →
    exec (.chgGridTrip t m) s = .next ((((u.event F.CHG_EVT_GRIDTRIP).bump F.CHG_CNT_GRIDTRIPS).raise Flt.CHG_GRID_TRIP { stages := 0x18, item := c }).gridStop c)) ∧
  (∀ (t : Nat) (m : GridMeas) (s u : State), s.advance t = u → u.mainUp = true → u.gridTrip m ≠ 0 → u.cstate = 1 ∨ u.cstate = 2 →
    exec (.chgGridTrip t m) s = .next (((u.setF F.CHG_STAT_CSTATE 1).setB F.CHG_STAT_QUALIFIED false).setB F.CHG_STAT_PRECHARGED false)) ∧
  (∀ (t : Nat) (m : GridMeas) (c : Nat) (s u : State), s.advance t = u → u.mainUp = true → u.gridTrip m = c → c ≠ 0 → u.cstate = 4 → u.chgSwitching = false → u.getF F.CHG_STAT_PAUSE = 1 →
    exec (.chgGridTrip t m) s = .next (((u.setF F.CHG_STAT_PAUSE c).setB F.CHG_STAT_QUALIFIED false).setB F.CHG_STAT_PRECHARGED false)) ∧
  (∀ (t : Nat) (m : GridMeas) (s u : State), s.advance t = u → u.mainUp = true → u.cstate = 4 → 2 ≤ u.getF F.CHG_STAT_PAUSE → u.chgSwitching = false → u.gridGood m = true → u.getF F.CHG_GRIDT_RECONNECT_S * ticksPerS ≤ m.held →
    exec (.gridReconnect t m) s = .next ((u.setF F.CHG_STAT_CSTATE 1).setF F.CHG_STAT_PAUSE 0)) ∧
  (∀ (t : Nat) (s u : State), s.advance t = u → u.mainUp = true → u.rampPower = 0 → u.chg.zeroFor = 1 →
    exec (.powerRampEnd t) s = .next (u.chgStop 1)) ∧
  (∀ (t : Nat) (s u : State), s.advance t = u → u.mainUp = true → u.rampPower = 0 → u.chg.zeroFor = 3 →
    exec (.powerRampEnd t) s = .next (u.chgStop 4)) ∧
  (∀ (t : Nat) (s u : State), s.advance t = u → u.mainUp = true → u.rampPower = 0 → u.chg.zeroFor = 2 →
    exec (.powerRampEnd t) s = .next (u.chgOff)) ∧
  (∀ (t : Nat) (s u : State), s.advance t = u → u.mainUp = true → u.cstate ≠ 0 → u.getB F.CHG_STAT_FALLBACK = false → u.com.lastHeartbeat + 2 * ticksPerS ≤ u.now →
    exec (.chgHostless t) s = .next (u.goHostless)) ∧
  (∀ (t : Nat) (a : State) (s u : State), s.advance t = u → u.mainUp = true → u.cstate ≠ 0 → u.getB F.CHG_STAT_FALLBACK = true → u.chg.zeroFor ≠ 3 → u.chg.fallbackAt + 60 * ticksPerS ≤ u.now → u.raise Flt.CHG_HOSTLESS_STOP {} = a →
    exec (.chgHostlessStop t) s = .next (if a.chgSwitching && a.rampPower != 0 then a.rampZero (a.getQ F.CHG_RAMP) 3 else a.chgStop 4)) ∧
  (∀ (t : Nat) (vbat : Rat) (held : Nat) (s u : State), s.advance t = u → u.mainUp = true → u.cstate = 3 ∨ (u.cstate = 0 ∧ u.chgOpen = true) → u.vbatOut vbat = true → 100 * ticksPerMs ≤ held →
    exec (.chgVbatWindow t vbat held) s = .next ((u.raise Flt.CHG_VBAT_WINDOW { stages := 0x18 }).chgStop 5)) ∧
  (∀ (t : Nat) (n : Fin 8) (run : Nat) (a : State) (s u : State), s.advance t = u → u.mainUp = true → 256 ≤ run → (u.gzCh (64 + n.val)).flat = false → u.xbFlat (64 + n.val) n = a →
    exec (.gzXbFlat t n run) s = .next (if n.val < 6 && a.cstate = 3 then (a.raise Flt.CHG_XB_LOST { stages := 0x18, item := 64 + n.val }).gridStop 2 else a)) ∧
  (∀ (t : Nat) (intact : Bool) (i e : Nat) (s u : State), s.advance t = u → u.witnessDue 2 = true → floorNat u.chg.imp - u.wit.impSent = i → floorNat u.chg.exp - u.wit.expSent = e →
    exec (.witnessEnergy t intact) s = .next (witnessFrame 2 (beBytes 4 i ++ beBytes 4 e ++ beBytes 1 (if u.wit.fineMissed then 0 else 1)) intact (fun gap v => v.witnessTaken i e (gap || u.wit.fineMissed)) { u with wit := { u.wit with impSent := floorNat u.chg.imp, expSent := floorNat u.chg.exp, fineMissed := false } }))

/-- The auxiliary-converter requests complete with the effect of Table 12.5 (R315, R316, R317, R340, R342, R343, Table 12.3, Table 12.5). -/
def Obligations.AuxRequestsComplete : Prop :=
  (∀ (r : Req) (s u : State), admitOp { code := 0x0500, lens := [1] } r s = .served u → r.num 0 1 = 0 → u.held 5 = false → u.held 6 = false → u.enableRefused = false → u.vdcInside = true →
    exec (.auxEnable r) s = .next ((u.auxStart false).answer (r.ticket 0x0500) stOK [])) ∧
  (∀ (r : Req) (s u : State), admitOp { code := 0x0500, lens := [1] } r s = .served u → r.num 0 1 = 1 → u.held 5 = false → u.held 6 = false → u.enableRefused = false → u.reverseRefused = false →
    exec (.auxEnable r) s = .next ((u.auxStart true).answer (r.ticket 0x0500) stOK [])) ∧
  (∀ (r : Req) (s u : State), admitOp { code := 0x0501, lens := [8] } r s = .served u → u.auxReverse = false → inRange (r.fl 0) 24 30 = true → inRange (r.fl 4) 0 357 = true → (u.holdOf r.session && decide (64 < u.heldWrites + 2)) = false →
    exec (.auxSet r) s = .next (((u.auxLater (u.holdOf r.session) F.AUX_VSET (r.fl 0).toNat).auxLater (u.holdOf r.session) F.AUX_ILIM (r.fl 4).toNat).answer (r.ticket 0x0501) stOK [])) ∧
  (∀ (r : Req) (s u : State), admitOp { code := 0x0501, lens := [8] } r s = .served u → u.auxReverse = true → (inRange (r.fl 0) 100 992 || F32.isZero (r.fl 0)) = true → inRange (r.fl 4) 0 100 = true → (u.holdOf r.session && decide (64 < u.heldWrites + 2)) = false →
    exec (.auxSet r) s = .next (((({ u with aux := { u.aux with preAt := some (u.aux.preAt.getD u.now) } }).auxLater (u.holdOf r.session) F.AUX_PRE_VDC (r.fl 0).toNat).auxLater (u.holdOf r.session) F.AUX_PRE_ILIM (r.fl 4).toNat).answer (r.ticket 0x0501) stOK [])) ∧
  (∀ (r : Req) (s u : State), admitOp { code := 0x0502 } r s = .served u → u.astate = 0 →
    exec (.auxDisable r) s = .next (u.answer (r.ticket 0x0502) stOK [])) ∧
  (∀ (r : Req) (s u : State), admitOp { code := 0x0502 } r s = .served u → u.astate ≠ 0 →
    exec (.auxDisable r) s = .next (({ u.auxStop with aux := { u.auxStop.aux with tickets := u.auxStop.aux.tickets ++ [r.ticket 0x0502] } }).trimCache (r.ticket 0x0502))) ∧
  (∀ (r : Req) (s u : State), admitOp { code := 0x0503, level := 2, lens := [1] } r s = .served u → 3 ≤ (bitsList 8 (Nat.land (r.num 0 1) (u.getF F.AUX_CFG_PRESENT))).length →
    exec (.auxPhaseMask r) s = .next ((u.setMask (r.num 0 1)).answer (r.ticket 0x0503) stOK (beBytes 1 (u.setMask (r.num 0 1)).activePhases)))

/-- The auxiliary-converter events complete with the effect of R317 to R343 (R317, R318, R325, R326, R327, R330, R334, R335, R341, R342, R343, Table 12.2). -/
def Obligations.AuxEventsComplete : Prop :=
  (∀ (t : Nat) (held : Nat) (s u : State), s.advance t = u → u.mainUp = true → u.auxForward = true → u.aux.stopping = false → ticksPerMs ≤ held ∧ u.v48Out = true ∨ u.astate = 1 ∧ u.aux.startAt + 20 * ticksPerMs ≤ u.now →
    exec (.auxV48Window t held) s = .next ((u.raise Flt.AUX_V48_WINDOW { stages := 0x20 }).auxStop)) ∧
  (∀ (t : Nat) (held : Nat) (s u : State), s.advance t = u → u.mainUp = true → u.astate = 3 ∨ u.astate = 4 → u.aux.stopping = false → u.aux.outgoing = 0 → u.shedUp held = true →
    exec (.shedLevelChange t held) s = .next (u.levelUp)) ∧
  (∀ (t : Nat) (held : Nat) (s u : State), s.advance t = u → u.mainUp = true → u.astate = 3 ∨ u.astate = 4 → u.aux.stopping = false → u.aux.outgoing = 0 → u.shedUp held = false → u.shedDown held = true →
    exec (.shedLevelChange t held) s = .next (u.levelDown)) ∧
  (∀ (t : Nat) (s u : State), s.advance t = u → u.mainUp = true → 2 ≤ u.astate → u.astate ≤ 5 → u.aux.stopping = false → u.aux.rotAt + u.getF F.AUX_SHEDT_ROT_MS * ticksPerMs ≤ u.now →
    exec (.shedRotation t) s = .next (({ u with aux := { u.aux with rot := (u.aux.rot + 1) % max 1 u.nAvail, rotAt := u.now } }).relevel)) ∧
  (∀ (t : Nat) (s u : State), s.advance t = u → u.mainUp = true → u.shedDue ≠ 0 →
    exec (.sheddingEnd t) s = .next (u.endShed)) ∧
  (∀ (t : Nat) (s u : State), s.advance t = u → u.mainUp = true → u.astate = 4 → u.aux.burstIdle = true → u.aux.stopping = false → u.aux.burstAt + u.getF F.AUX_SHEDT_ROT_MS * ticksPerMs ≤ u.now →
    exec (.burstRestart t) s = .next (u.startBurst)) ∧
  (∀ (t : Nat) (held : Nat) (s u : State), s.advance t = u → u.mainUp = true → u.astate = 2 ∨ u.astate = 3 → u.getB F.AUX_STAT_REGULATED = false → absRat (u.auxV - u.getQ F.AUX_VSET) ≤ u.getQ F.AUX_VSET / 100 → ticksPerMs ≤ held →
    exec (.auxRegulated t held) s = .next ({ u with aux := { u.aux with regulatedAt := u.now } }.setB F.AUX_STAT_REGULATED true)) ∧
  (∀ (t : Nat) (ch : Fin 9) (mv held run : Nat) (s u : State), s.advance t = u → u.mainUp = true → ch.val < 8 → 2700 < mv → 64000 ≤ held →
    exec (.auxSenseLost t ch mv held run) s = .next (u.phaseOpen ch.val)) ∧
  (∀ (t : Nat) (mv held run : Nat) (s u : State), s.advance t = u → u.mainUp = true → u.getB F.AUX_STAT_REMOTE_OK = true → (2700 < mv ∧ 64000 ≤ held) ∨ (3 ≤ run ∧ (u.getQ F.AUX_VOSMAX < absRat (u.fastQ 14 F.AUX_VOSSCALE) ∨ (u.gzCh 14).fastFlags % 2 = 0)) →
    exec (.auxSenseLost t 8 mv held run) s = .next (((u.setB F.AUX_STAT_REMOTE_OK false).event F.AUX_EVT_SENSELOST).raise Flt.AUX_SENSE_LOST { stages := 0x40 })) ∧
  (∀ (t : Nat) (held : Nat) (s u : State), s.advance t = u → u.mainUp = true → u.getB F.AUX_STAT_REGULATED = true → u.vout < u.getQ F.AUX_VSET * 9 / 10 → 10 * ticksPerMs ≤ held →
    exec (.auxOverload t held) s = .next (u.raise Flt.AUX_OVERLOAD { stages := 0x40 })) ∧
  (∀ (t : Nat) (held : Nat) (s u : State), s.advance t = u → u.mainUp = true → u.getQ F.AUX_VSET * 23 / 20 < u.vout → 640000 ≤ held →
    exec (.auxVoutHigh t held) s = .next (u.raise Flt.AUX_VOUT_HIGH { stages := 0x60 })) ∧
  (∀ (t : Nat) (s u : State), s.advance t = u → u.mainUp = true → u.aux.stopping = true → u.phasesQuiet = true ∨ u.aux.stopAt + ticksPerMs ≤ u.now →
    exec (.auxStopComplete t) s = .next (((u.hbsOf 5).foldl (fun (x : State) h => x.setMode h 0) u).auxDone.showModes)) ∧
  (∀ (t : Nat) (held : Nat) (s u : State), s.advance t = u → u.mainUp = true → u.astate = 7 → u.aux.stopping = false → absRat (u.vdc - u.getQ F.AUX_PRE_VDC) ≤ u.getQ F.AUX_PRE_VDC / 100 → 10 * ticksPerMs ≤ held →
    exec (.prechargeDone t held) s = .next ((u.setF F.AUX_STAT_ASTATE 8).event F.AUX_EVT_PREDONE)) ∧
  (∀ (t : Nat) (x : Nat) (s u : State), s.advance t = u → u.aux.preAt = some x → u.mainUp = true → u.astate = 6 ∨ u.astate = 7 → u.aux.stopping = false → x + u.getF F.AUX_PRE_TMAX * ticksPerMs ≤ u.now →
    exec (.auxPrechargeTimeout t) s = .next ((u.raise Flt.AUX_PRECHARGE_TIMEOUT { stages := 0x60 }).auxStop))

/-- The actuator requests and FAULT_ACK complete with the effect of Table 13.3 (R281, R347, R354, R356, R359, R361, R363, R415, Table 13.3, Table 13.4). -/
def Obligations.ActuatorRequestsComplete : Prop :=
  (∀ (r : Req) (s u : State), admitOp { code := 0x0600, lens := [3] } r s = .served u → r.num 0 1 < u.getF F.ACT_CFG_NPOS → r.num 0 1 < 8 → F32.isFinite (u.getFl (F.ACT_POS (r.num 0 1))) = true → r.num 1 2 ≠ 0 → u.held 7 = false → u.shiftRefused = false →
    exec (.shiftTo r) s = .next ((u.beginShift (r.num 0 1) (r.num 1 2)).answer (r.ticket 0x0600) stDeferred [])) ∧
  (∀ (r : Req) (s u : State), admitOp { code := 0x0603, lens := [1] } r s = .served u → r.num 0 1 ≤ 1 → u.held (actStage (r.num 0 1 == 1)) = false → u.homeRefused (r.num 0 1 == 1) = false →
    exec (.actHome r) s = .next ((u.beginHome (r.num 0 1 == 1)).answer (r.ticket 0x0603) stDeferred [])) ∧
  (∀ (r : Req) (s u : State), admitOp { code := 0x0601 } r s = .served u → u.held 8 = false → u.actRefused true = false → u.tooFast = false → u.pstate = 3 →
    exec (.parkEngage r) s = .next (u.answer (r.ticket 0x0601) stOK [])) ∧
  (∀ (r : Req) (s u : State), admitOp { code := 0x0601 } r s = .served u → u.held 8 = false → u.actRefused true = false → u.tooFast = false → u.pstate = 0 ∨ u.pstate = 1 ∨ u.pstate = 4 → u.park.retry = false →
    exec (.parkEngage r) s = .next ((u.movePawl 1).answer (r.ticket 0x0601) stDeferred [])) ∧
  (∀ (r : Req) (s u : State), admitOp { code := 0x0601 } r s = .served u → u.held 8 = false → u.actRefused true = false → u.tooFast = false → u.pstate = 2 ∨ u.pstate = 5 → u.park.retry = false →
    exec (.parkEngage r) s = .next (u.answer (r.ticket 0x0601) stDeferred [])) ∧
  (∀ (r : Req) (s u : State), admitOp { code := 0x0601 } r s = .served u → u.held 8 = false → u.actRefused true = false → u.tooFast = false → u.pstate ≠ 3 ∧ u.pstate ≠ 7 → u.pstate = 6 ∨ u.park.retry = true →
    exec (.parkEngage r) s = .next (({ u with park := { u.park with target := 1 } }).answer (r.ticket 0x0601) stDeferred [])) ∧
  (∀ (r : Req) (s u : State), admitOp { code := 0x0602 } r s = .served u → u.held 8 = false → u.actRefused true = false → u.pstate = 1 →
    exec (.parkRelease r) s = .next (u.answer (r.ticket 0x0602) stOK [])) ∧
  (∀ (r : Req) (s u : State), admitOp { code := 0x0602 } r s = .served u → u.held 8 = false → u.actRefused true = false → u.pstate = 0 ∨ u.pstate = 2 ∨ u.pstate = 3 ∨ u.pstate = 5 ∨ (u.pstate = 4 ∧ u.park.kind ≠ 1) → u.park.retry = false →
    exec (.parkRelease r) s = .next ((u.movePawl 0).answer (r.ticket 0x0602) stDeferred [])) ∧
  (∀ (r : Req) (s u : State), admitOp { code := 0x0602 } r s = .served u → u.held 8 = false → u.actRefused true = false → u.pstate = 4 → u.park.kind = 1 → u.park.retry = false →
    exec (.parkRelease r) s = .next (u.answer (r.ticket 0x0602) stDeferred [])) ∧
  (∀ (r : Req) (s u : State), admitOp { code := 0x0602 } r s = .served u → u.held 8 = false → u.actRefused true = false → u.pstate ≠ 1 ∧ u.pstate ≠ 7 → u.pstate = 6 ∨ u.park.retry = true →
    exec (.parkRelease r) s = .next (({ u with park := { u.park with target := 0 } }).answer (r.ticket 0x0602) stDeferred [])) ∧
  (∀ (r : Req) (s u : State), admitOp { code := 0x0902, lens := [2] } r s = .served u → idxNewer (r.num 0 2) (u.getF F.SLT_LOGIDX_NEWEST) = false → (u.gate.latches.filter fun l => u.coversLatch (r.num 0 2) l && u.causeActive l).isEmpty = true →
    exec (.faultAck r) s = .next (((u.ackTo (r.num 0 2)).actRelease (u.coveredSerials (r.num 0 2))).answer (r.ticket 0x0902) stOK []))

/-- The actuator events complete with the effect of R348 to R363 (R348, R349, R350, R353, R354, R355, R356, R358, R360, R361, R362, R363). -/
def Obligations.ActuatorEventsComplete : Prop :=
  (∀ (t : Nat) (park : Bool) (level : BitVec 3) (held : Nat) (s u : State), s.advance t = u → u.mainUp = true → 6400 ≤ held → u.getF (hallField park) ≠ level.toNat →
    exec (.hallEdge t park level held) s = .next (u.hallTo park level.toNat)) ∧
  (∀ (t : Nat) (park : Bool) (held : Nat) (s u : State), s.advance t = u → u.mainUp = true → (u.hallBad park held || u.hallSkips park) = true → u.actInFault park = false →
    exec (.actHallFault t park held) s = .next ((u.actFault park Flt.ACT_HALL_FAULT).motionEnding park)) ∧
  (∀ (t : Nat) (invalidRun held : Nat) (s u : State), s.advance t = u → u.mainUp = true → u.posBad invalidRun held = true → u.actInFault false = false →
    exec (.actPosSensor t invalidRun held) s = .next (((u.actFault false Flt.ACT_POS_SENSOR).setB F.ACT_STAT_SHOMED false).motionEnding false)) ∧
  (∀ (t : Nat) (at_ : Nat) (acc : Rat) (rest : List (Nat × Rat)) (s u : State), s.advance t = u → u.shift.segs = (at_, acc) :: rest → u.mainUp = true → at_ ≤ u.now →
    exec (.profileSegment t) s = .next (u.takeSegment at_ acc rest)) ∧
  (∀ (t : Nat) (held : Nat) (s u : State), s.advance t = u → u.mainUp = true → u.shiftSettled held = true →
    exec (.shiftTargetReached t held) s = .next (u.shiftDone)) ∧
  (∀ (t : Nat) (s u : State), s.advance t = u → u.mainUp = true → u.shiftLate = true →
    exec (.actShiftTimeout t) s = .next (u.shiftTimeout)) ∧
  (∀ (t : Nat) (park : Bool) (s u : State), s.advance t = u → u.mainUp = true → (u.act park).ending.isSome = true →
    exec (.motionEnd t park) s = .next (u.motionEnded park)) ∧
  (∀ (t : Nat) (park : Bool) (iq : Rat) (s u : State), s.advance t = u → u.mainUp = true → u.atStop park iq = true →
    exec (.homeStopFound t park iq) s = .next (if park then u.parkHomed else u.shiftZeroed)) ∧
  (∀ (t : Nat) (park : Bool) (b : State) (s u : State), s.advance t = u → u.mainUp = true → u.homeLate park = true → (u.raise Flt.ACT_HOME_FAIL { stages := 2 ^ actStage park }).motionEnding park = b →
    exec (.actHomeFail t park) s = .next (if park then b.setF F.ACT_STAT_PSTATE 0 else b.shiftIdle)) ∧
  (∀ (t : Nat) (park : Bool) (iq : Rat) (held : Nat) (s u : State), s.advance t = u → u.mainUp = true → u.rotorStuck park iq held = true → u.lockable park = true → u.limitSameSlot park = false →
    exec (.lockedRotor t park iq held) s = .next ((u.lockNoted park).lockEffect park)) ∧
  (∀ (t : Nat) (park : Bool) (iq : Rat) (held : Nat) (s u : State), s.advance t = u → u.mainUp = true → u.rotorStuck park iq held = true → u.limitSameSlot park = true →
    exec (.lockedRotor t park iq held) s = .next (u.lockNoted park)) ∧
  (∀ (t : Nat) (park : Bool) (s u : State), s.advance t = u → u.mainUp = true → u.retryDue park = true →
    exec (.retryRestart t park) s = .next (u.restartMotion park)) ∧
  (∀ (t : Nat) (held : Nat) (s u : State), s.advance t = u → u.mainUp = true → 20 * ticksPerMs ≤ held → u.pstate ≠ 7 → u.park.kind = 0 →
    exec (.pawlState t held) s = .next ((if u.restState = 0 then u else { u with park := { u.park with disagreed := false } }).setF F.ACT_STAT_PSTATE u.restState)) ∧
  (∀ (t : Nat) (held : Nat) (s u : State), s.advance t = u → u.mainUp = true → 20 * ticksPerMs ≤ held → u.pstate ≠ 7 → u.pstate ≠ 6 → u.park.kind = 1 → u.park.ending = none → u.restState ≠ 0 → u.restState = (if u.park.target = 1 then 3 else 1) →
    exec (.pawlState t held) s = .next (u.pawlDone u.restState)) ∧
  (∀ (t : Nat) (held : Nat) (s u : State), s.advance t = u → u.mainUp = true → u.park.kind = 0 → u.pstate ≠ 7 → u.getB F.ACT_STAT_SWITCH_OK = true → u.xState ≠ u.switchState → 100 * ticksPerMs ≤ held →
    exec (.parkSwitchDisagree t held) s = .next ((if u.park.disagreed then u else ({ u with park := { u.park with disagreed := true } }).raise Flt.PARK_SWITCH_DISAGREE { stages := 0x100 }).setF F.ACT_STAT_PSTATE 0)) ∧
  (∀ (t : Nat) (s u : State), s.advance t = u → u.mainUp = true → u.onTooth = true →
    exec (.pawlBlocked t) s = .next (u.pawlBlocked)) ∧
  (∀ (t : Nat) (s u : State), s.advance t = u → u.mainUp = true → u.pstate = 5 → u.park.blockedAt + u.getF F.ACT_PARK_TOOTH_S * ticksPerS ≤ u.now →
    exec (.parkNotEngaged t) s = .next (if u.tooFast then u.speedAbort else (u.raise Flt.PARK_NOT_ENGAGED { stages := 0x100 }).movePawl 0)) ∧
  (∀ (t : Nat) (s u : State), s.advance t = u → u.mainUp = true → u.park.kind = 1 → u.park.ending = none → u.pstate = 2 ∨ u.pstate = 4 → ticksPerS ≤ u.park.spent + (u.now - u.park.spentAt) →
    exec (.parkMoveTimeout t) s = .next ((u.actFault true Flt.PARK_MOVE_TIMEOUT).motionEnding true)) ∧
  (∀ (t : Nat) (held : Nat) (v : Rat) (s u : State), s.advance t = u → u.mainUp = true → u.pstate = 3 → u.vspd = some v → 3 ≤ v → ticksPerS ≤ held →
    exec (.parkMotionEngaged t held) s = .next (u.raise Flt.PARK_MOTION_ENGAGED { stages := 0x100 })) ∧
  (∀ (t : Nat) (x : Nat) (s u : State), s.advance t = u → u.park.hostAt = some x → u.mainUp = true → x + 200 * ticksPerMs ≤ u.now →
    exec (.vspdHostExpired t) s = .next (({ u with park := { u.park with hostAt := none } }).showVspd))

/-- The loop-engine requests complete with the effect of R206 to R222 (R89, R195, R206, R207, R208, R209, R214, R222, R493). -/
def Obligations.EngineRequestsComplete : Prop :=
  (∀ (r : Req) (v : State) (s u : State), admitReq { code := 0x0700, level := 2 } (fun n => decide (10 ≤ n)) r s = .served u → r.num 0 1 = 14 ∨ r.num 0 1 = 15 → u.power = pSTANDBY → u.leMode (r.num 0 1) = 0 → u.chunk 0x0700 (r.num 0 1) 16384 r.session (r.num 1 4) (r.num 5 4) (r.params.drop 9) = .more v →
    exec (.leLoad r) s = .next (v.answer (r.ticket 0x0700) stOK [])) ∧
  (∀ (r : Req) (v : State) (bytes : List Byte) (s u : State), admitReq { code := 0x0700, level := 2 } (fun n => decide (10 ≤ n)) r s = .served u → r.num 0 1 = 14 ∨ r.num 0 1 = 15 → u.power = pSTANDBY → u.leMode (r.num 0 1) = 0 → u.chunk 0x0700 (r.num 0 1) 16384 r.session (r.num 1 4) (r.num 5 4) (r.params.drop 9) = .whole bytes v → progHeaderOk bytes = true →
    exec (.leLoad r) s = .next (match progError (progWords bytes) with
      | some (c, i) => (v.loadStat (r.num 0 1) c i).answer (r.ticket 0x0700) stBadParam []
      | none => (v.putProgram (r.num 0 1) bytes).answer (r.ticket 0x0700) stOK [])) ∧
  (∀ (r : Req) (s u : State), admitReq { code := 0x0701 } (fun n => decide (3 ≤ n) && n % 4 == 3) r s = .served u → r.num 0 1 < 16 → r.num 1 2 + (r.params.length - 3) / 4 ≤ 256 → u.bit F.LE_BANK_PEND (r.num 0 1) = false →
    exec (.leBankWrite r) s = .next ((u.putBank (r.num 0 1) (r.num 1 2) (reqWords r)).answer (r.ticket 0x0701) stOK [])) ∧
  (∀ (r : Req) (s u : State), admitOp { code := 0x0702, lens := [2] } r s = .served u → (bitsList 16 (r.num 0 2)).any (fun e => u.bit F.LE_BANK_PEND e) = false → ((bitsList 16 (r.num 0 2)).filter u.swapWaits).isEmpty = true →
    exec (.leBankSwap r) s = .next (((u.requestSwap (bitsList 16 (r.num 0 2)))).answer (r.ticket 0x0702) stOK (u.requestSwap (bitsList 16 (r.num 0 2))).activeBanks)) ∧
  (∀ (r : Req) (s u : State), admitOp { code := 0x0702, lens := [2] } r s = .served u → (bitsList 16 (r.num 0 2)).any (fun e => u.bit F.LE_BANK_PEND e) = false → ((bitsList 16 (r.num 0 2)).filter u.swapWaits).isEmpty = false → u.swapFar (bitsList 16 (r.num 0 2)) = true →
    exec (.leBankSwap r) s = .next (((u.requestSwap (bitsList 16 (r.num 0 2)))).answer (r.ticket 0x0702) stDeferred (u.requestSwap (bitsList 16 (r.num 0 2))).activeBanks)) ∧
  (∀ (r : Req) (s u : State), admitOp { code := 0x0702, lens := [2] } r s = .served u → (bitsList 16 (r.num 0 2)).any (fun e => u.bit F.LE_BANK_PEND e) = false → ((bitsList 16 (r.num 0 2)).filter u.swapWaits).isEmpty = false → u.swapFar (bitsList 16 (r.num 0 2)) = false →
    exec (.leBankSwap r) s = .next (({ (u.requestSwap (bitsList 16 (r.num 0 2))) with swaps := (u.requestSwap (bitsList 16 (r.num 0 2))).swaps ++ [{ ticket := r.ticket 0x0702, mask := maskOf ((bitsList 16 (r.num 0 2)).filter u.swapWaits) }] : State }).trimCache (r.ticket 0x0702))) ∧
  (∀ (r : Req) (s u : State), admitOp { code := 0x0703, level := 2, lens := [2] } r s = .served u → r.num 0 1 < 16 → r.num 1 1 ≤ 2 → u.modeRefused (r.num 0 1) (r.num 1 1) = false → (bitsList 9 (u.getF (F.LE_CFG_STAGES (r.num 0 1)))).any (fun k => u.held k) = false →
    exec (.leMode r) s = .next ((u.takeMode (r.num 0 1) (r.num 1 1)).answer (r.ticket 0x0703) stOK [])) ∧
  (∀ (r : Req) (s u : State), admitReq { code := 0x0704, level := 2 } (fun n => decide (3 ≤ n) && n % 4 == 3) r s = .served u → r.num 0 1 < 16 → r.num 1 2 + (r.params.length - 3) / 4 ≤ 1024 → (reqWords r).any (fun w => !F32.isFinite w) = false →
    exec (.leTableWrite r) s = .next ((u.putTable (r.num 0 1) ((List.range (reqWords r).length).map fun k => (r.num 1 2 + k, (reqWords r).getD k 0))).answer (r.ticket 0x0704) stOK []))

/-- The loop-engine events complete with the effect of R197 to R221 (R197, R198, R200, R202, R203, R205, R216, R217, R219, R220, R221). -/
def Obligations.EngineEventsComplete : Prop :=
  (∀ (t : Nat) (e : Fin 16) (m : SlotMeas) (ecc : Fin 3) (p : Nat) (a : State) (s u : State), s.advance t = u → u.slotDue e = some p → u.slotBegin e p = a → a.leMode e ≠ 0 → ecc ≠ 2 →
    exec (.slotStart t e m ecc) s = .next (((a.ecc e ecc).slotWork e m).showModes)) ∧
  (∀ (t : Nat) (e : Fin 16) (m : SlotMeas) (p : Nat) (a : State) (s u : State), s.advance t = u → u.slotDue e = some p → u.slotBegin e p = a → a.leMode e ≠ 0 →
    exec (.slotStart t e m 2) s = .next ((a.haltClass e Flt.LE_MEM_ERR).showModes)) ∧
  (∀ (t : Nat) (e : Fin 16) (m : SlotMeas) (ecc : Fin 3) (p : Nat) (a : State) (s u : State), s.advance t = u → u.slotDue e = some p → u.slotBegin e p = a → a.leMode e = 0 →
    exec (.slotStart t e m ecc) s = .next (a.setEng e { a.eng e with inSlot := false })) ∧
  (∀ (t : Nat) (e : Fin 16) (s u : State), s.advance t = u → u.mainUp = true → u.background e = true → (u.eng e).waitFine = true → (u.eng e).waitAt / 655360 < u.battenTime / 655360 →
    exec (.backgroundWake t e) s = .next (u.wakeEngine e)) ∧
  (∀ (t : Nat) (e : Fin 16) (s u : State), s.advance t = u → (u.eng e).inSlot = true → (u.eng e).posted = false → (u.eng e).deadline < u.now →
    exec (.lateSlot t e) s = .next (u.lateSlot e)) ∧
  (∀ (t : Nat) (e : Fin 16) (s u : State), s.advance t = u → (u.eng e).inSlot = true → (u.nextDeadline e).any (fun d => decide (d ≤ u.now)) = true →
    exec (.leHung t e) s = .next (u.haltClass e Flt.LE_HUNG)) ∧
  (∀ (t : Nat) (e : Fin 16) (s u : State), s.advance t = u → u.mainUp = true → u.getF (F.LE_SAT_SAT_LIM e) ≠ 0 → u.getF (F.LE_SAT_SAT_LIM e) * ticksPerMs ≤ (u.eng e).satTicks → (u.eng e).satDone = false →
    exec (.leSatExpired t e) s = .next (u.satExpired e)) ∧
  (∀ (t : Nat) (e : Fin 16) (s u : State), s.advance t = u → u.mainUp = true → u.getF (F.LE_FE_FE_LIM e) ≠ 0 → u.getF (F.LE_FE_FE_LIM e) * ticksPerMs ≤ (u.eng e).feTicks → (u.eng e).feDone = false →
    exec (.leFeExpired t e) s = .next (u.feExpired e)) ∧
  (∀ (t : Nat) (e : Fin 16) (d : Nat) (s u : State), (s.advance t).leDwell e = u → (u.eng e).dwellSince = some d → u.mainUp = true → u.leMode e ≠ 0 → d + u.getF (F.LE_DWELL_DWELL_LIM e) * 100 * ticksPerMs ≤ u.now → (u.eng e).dwellDone = false →
    exec (.leDerateDwell t e) s = .next (u.dwellExpired e)) ∧
  (∀ (t : Nat) (e : Fin 16) (w : LinkWait) (s u : State), s.advance t = u → (u.eng e).wait = some w → w.until_ ≤ u.now →
    exec (.lwaitTimeout t e) s = .next (u.setEng e { u.eng e with v := vset (u.eng e).v w.flagReg (if u.fresh e w.engine w.link then 1 else 0), wait := none, cycles := (u.eng e).cycles + (w.until_ - w.since) / 16 })) ∧
  (∀ (t : Nat) (n : Fin 32) (e : Nat) (c : Carrier) (a : State) (vin : Rat) (s u : State), s.advance t = u → u.ffEngine n = some e → u.mainUp = true → u.car (u.hbCar n) = c → u.leMode e ≠ 0 → c.running = true → c.next ≤ u.now + 1088 → u.ffPeriod e (c.next - c.offset) = a → (u.comingCar (u.hbCar n)).hbMode n = 1 → (a.eng e).ffStopped = false → (a.eng e).vin = some vin →
    exec (.feedforward t n) s = .next (a.ffWrite e n (u.comingPeriod (u.hbCar n)) vin)) ∧
  (∀ (t : Nat) (n : Fin 32) (e : Nat) (c : Carrier) (a : State) (s u : State), s.advance t = u → u.ffEngine n = some e → u.mainUp = true → u.car (u.hbCar n) = c → u.leMode e ≠ 0 → c.running = true → c.next ≤ u.now + 1088 → u.ffPeriod e (c.next - c.offset) = a → (u.comingCar (u.hbCar n)).hbMode n ≠ 1 →
    exec (.feedforward t n) s = .next (a.setB (F.LE_FFSTAT_MODEERR e) true))

/-- The loop-engine float instructions complete with the IEEE result in the destination, in the cycles of Table 8.4 (R194, R205, Table 8.4, Table 8.7). FMIN and FMAX of two numbers that differ in value write the smaller or the larger; of a NaN, and of zeros of unlike sign, the written pattern is a free value (assumption entry 73 names it). -/
def Obligations.EngineFloatInstructionsComplete : Prop :=
  (∀ (e : Fin 16) (d x y : Fin 32) (u : State), u.executes e = true →
    exec (.fadd e d x y) u = .next (u.leFloat e d (F32.add u.nan (u.leReg e x) (u.leReg e y)) 1)) ∧
  (∀ (e : Fin 16) (d x y : Fin 32) (u : State), u.executes e = true →
    exec (.fsub e d x y) u = .next (u.leFloat e d (F32.sub u.nan (u.leReg e x) (u.leReg e y)) 1)) ∧
  (∀ (e : Fin 16) (d x y : Fin 32) (u : State), u.executes e = true →
    exec (.fmul e d x y) u = .next (u.leFloat e d (F32.mul u.nan (u.leReg e x) (u.leReg e y)) 1)) ∧
  (∀ (e : Fin 16) (d x y : Fin 32) (u : State), u.executes e = true →
    exec (.fdiv e d x y) u = .next (u.leFloat e d (F32.div u.nan (u.leReg e x) (u.leReg e y)) 8)) ∧
  (∀ (e : Fin 16) (d x y z : Fin 32) (u : State), u.executes e = true →
    exec (.fma e d x y z) u = .next (u.leFloat e d (F32.fma u.nan (u.leReg e x) (u.leReg e y) (u.leReg e z)) 1)) ∧
  (∀ (e : Fin 16) (d x : Fin 32) (u : State), u.executes e = true →
    exec (.fsqrt e d x) u = .next (u.leFloat e d (F32.sqrt u.nan (u.leReg e x)) 8)) ∧
  (∀ (e : Fin 16) (d x : Fin 32) (u : State), u.executes e = true →
    exec (.fabs e d x) u = .next (u.leSet e d (F32.abs (u.leReg e x)) 1)) ∧
  (∀ (e : Fin 16) (d x : Fin 32) (u : State), u.executes e = true →
    exec (.fneg e d x) u = .next (u.leSet e d (F32.neg (u.leReg e x)) 1)) ∧
  (∀ (e : Fin 16) (d x y : Fin 32) (u : State), F32.isNaN (u.leReg e x) = false → F32.isNaN (u.leReg e y) = false → F32.lt (u.leReg e x) (u.leReg e y) = true → u.executes e = true →
    exec (.fmin e d x y) u = .next (u.leSet e d (u.leReg e x) 1)) ∧
  (∀ (e : Fin 16) (d x y : Fin 32) (u : State), F32.isNaN (u.leReg e x) = false → F32.isNaN (u.leReg e y) = false → F32.lt (u.leReg e x) (u.leReg e y) = false → F32.lt (u.leReg e y) (u.leReg e x) = true → u.executes e = true →
    exec (.fmin e d x y) u = .next (u.leSet e d (u.leReg e y) 1)) ∧
  (∀ (e : Fin 16) (d x y : Fin 32) (u : State), (F32.isNaN (u.leReg e x) || F32.isNaN (u.leReg e y)) = true → u.executes e = true →
    exec (.fmin e d x y) u = .next ({ u.leSet e d (Config.freeWord u.free) 1 with free := (u.leSet e d (Config.freeWord u.free) 1).free + 1 })) ∧
  (∀ (e : Fin 16) (d x y : Fin 32) (u : State), F32.isNaN (u.leReg e x) = false → F32.isNaN (u.leReg e y) = false → F32.lt (u.leReg e x) (u.leReg e y) = true → u.executes e = true →
    exec (.fmax e d x y) u = .next (u.leSet e d (u.leReg e y) 1)) ∧
  (∀ (e : Fin 16) (d x y : Fin 32) (u : State), F32.isNaN (u.leReg e x) = false → F32.isNaN (u.leReg e y) = false → F32.lt (u.leReg e x) (u.leReg e y) = false → F32.lt (u.leReg e y) (u.leReg e x) = true → u.executes e = true →
    exec (.fmax e d x y) u = .next (u.leSet e d (u.leReg e x) 1)) ∧
  (∀ (e : Fin 16) (d x y : Fin 32) (u : State), (F32.isNaN (u.leReg e x) || F32.isNaN (u.leReg e y)) = true → u.executes e = true →
    exec (.fmax e d x y) u = .next ({ u.leSet e d (Config.freeWord u.free) 1 with free := (u.leSet e d (Config.freeWord u.free) 1).free + 1 })) ∧
  (∀ (e : Fin 16) (d x : Fin 32) (u : State), u.executes e = true →
    exec (.sat e d x) u = .next ({ u.leSet e d (Config.freeWord u.free) 1 with free := (u.leSet e d (Config.freeWord u.free) 1).free + 1 })) ∧
  (∀ (e : Fin 16) (d x y z : Fin 32) (u : State), u.executes e = false →
    exec (.fadd e d x y) u = .next u ∧ exec (.fsub e d x y) u = .next u ∧ exec (.fmul e d x y) u = .next u ∧ exec (.fma e d x y z) u = .next u ∧ exec (.fmin e d x y) u = .next u ∧ exec (.fmax e d x y) u = .next u ∧ exec (.fabs e d x) u = .next u ∧ exec (.fneg e d x) u = .next u ∧ exec (.fdiv e d x y) u = .next u ∧ exec (.fsqrt e d x) u = .next u ∧ exec (.sat e d x) u = .next u)

/-- The loop-engine fixed-point, conversion, angle and table instructions complete with their result (R135, R166, R194, R198, R210, R211, R212, R213, Table 8.4). -/
def Obligations.EngineConversionsComplete : Prop :=
  (∀ (e : Fin 16) (q : QFmt) (d x y : Fin 32) (u : State), u.executes e = true →
    exec (.qadd e q d x y) u = .next (u.leSet e d (satQ ((u.leReg e x).toInt + (u.leReg e y).toInt)) 1)) ∧
  (∀ (e : Fin 16) (q : QFmt) (d x y : Fin 32) (u : State), u.executes e = true →
    exec (.qsub e q d x y) u = .next (u.leSet e d (satQ ((u.leReg e x).toInt - (u.leReg e y).toInt)) 1)) ∧
  (∀ (e : Fin 16) (q : QFmt) (d x y : Fin 32) (u : State), u.executes e = true →
    exec (.qmul e q d x y) u = .next (u.leQuantize e d (mkRat ((u.leReg e x).toInt * (u.leReg e y).toInt) (2 ^ fracBits q)) 1)) ∧
  (∀ (e : Fin 16) (q : QFmt) (d x : Fin 32) (u : State), u.executes e = true →
    exec (.cvtqf e q d x) u = .next (u.leSet e d (F32.ofRat (mkRat (u.leReg e x).toInt (2 ^ fracBits q))) 1)) ∧
  (∀ (e : Fin 16) (q : QFmt) (d x : Fin 32) (u : State), F32.isFinite (u.leReg e x) = true → u.executes e = true →
    exec (.cvtfq e q d x) u = .next (u.leQuantize e d (F32.toRat (u.leReg e x) * (2 ^ fracBits q : Nat)) 1)) ∧
  (∀ (e : Fin 16) (q : QFmt) (d x : Fin 32) (u : State), F32.isNaN (u.leReg e x) = false → F32.isInf (u.leReg e x) = true → u.executes e = true →
    exec (.cvtfq e q d x) u = .next (u.leSet e d (satQ (if F32.sign (u.leReg e x) then -(2 ^ 31) else 2 ^ 31 - 1)) 1)) ∧
  (∀ (e : Fin 16) (q : QFmt) (d x : Fin 32) (u : State), F32.isNaN (u.leReg e x) = true → u.executes e = true →
    exec (.cvtfq e q d x) u = .next ({ u.leSet e d (Config.freeWord u.free) 1 with free := (u.leSet e d (Config.freeWord u.free) 1).free + 1 })) ∧
  (∀ (e : Fin 16) (ds dc x : Fin 32) (u : State), u.executes e = true →
    exec (.sincos e ds dc x) u = .next (u.setEng e ((((u.eng e).setReg ds (F32.ofRat (Config.sinTurn (u.leReg e x)))).setReg dc (F32.ofRat (Config.cosTurn (u.leReg e x)))).tick 4))) ∧
  (∀ (e : Fin 16) (d y x : Fin 32) (u : State), u.executes e = true →
    exec (.atan2 e d y x) u = .next (u.leSet e d (BitVec.ofNat 32 (toBits 32 (Config.atan2Turn (u.leReg e y) (u.leReg e x) * (2 ^ 32 : Nat)).floor)) 12)) ∧
  (∀ (e : Fin 16) (d : Fin 32) (ch : Fin 72) (fine : Bool) (w : Word) (u : State), u.leRead e (if fine then 0x48 + ch.val else ch.val) = w → u.executes e = true →
    exec (.cvtg e d ch fine) u = .next (u.leSet e d (F32.ofRat (mkRat (u.gzValue ch (u.gzCode ch w)) (if u.gzSingle ch then 2 ^ 24 else 2 ^ 23))) 2)) ∧
  (∀ (e : Fin 16) (d x : Fin 32) (v : Int) (u : State), F32.isFinite (u.leReg e x) = true → roundRat (F32.toRat (u.leReg e x) * (u.getF (F.PWM_CAR_EFF (u.leCar e)) : Rat)) = v → -(2 ^ 31) ≤ v → v < 2 ^ 32 → u.executes e = true →
    exec (.cvtc e d x) u = .next (u.leSet e d (BitVec.ofInt 32 v) 2)) ∧
  (∀ (e : Fin 16) (d x : Fin 32) (u : State), F32.isFinite (u.leReg e x) = false → u.executes e = true →
    exec (.cvtc e d x) u = .next ({ u.leSet e d (Config.freeWord u.free) 2 with free := (u.leSet e d (Config.freeWord u.free) 2).free + 1 })) ∧
  (∀ (e : Fin 16) (d x : Fin 32) (p : Nat) (a b : F32) (u : State), (u.leReg e x).toNat = p → (sparseFind (bitsOf p 31 22) (u.eng e).table).getD 0 = a → (sparseFind ((bitsOf p 31 22 + 1) % 1024) (u.eng e).table).getD 0 = b → u.executes e = true →
    exec (.tlook e d x) u = .next (u.leFloat e d (F32.add u.nan a (F32.mul u.nan (F32.ofRat (mkRat (bitsOf p 21 0 : Nat) (2 ^ 22))) (F32.sub u.nan b a))) 3)) ∧
  (∀ (e : Fin 16) (dh dl : Fin 32) (u : State), u.executes e = true →
    exec (.time e dh dl) u = .next (u.setEng e ((((u.eng e).setReg dh (BitVec.ofNat 32 (u.battenTime / 2 ^ 32))).setReg dl (BitVec.ofNat 32 u.battenTime)).tick 1))) ∧
  (∀ (e : Fin 16) (k : Fin 8) (d x : Fin 32) (coef : Fin 253) (out st : F32) (sat : Bool) (u : State), u.tracked e k = false → piRule u.nan (u.bankWord e (coef.val + 0)) (u.bankWord e (coef.val + 1)) (u.bankWord e (coef.val + 2)) (u.bankWord e (coef.val + 3)) (u.leReg e x) ((u.eng e).pi.get k).state = (out, st, sat) → u.executes e = true →
    exec (.piBlock e k d x coef) u = .next ((u.setEng e { u.eng e with pi := (u.eng e).pi.set k { state := st, out := out, sat := sat }, satNow := (u.eng e).satNow || sat }).leFloat e d out 3)) ∧
  (∀ (e : Fin 16) (k : Fin 8) (d x : Fin 32) (coef : Fin 253) (m : F32) (u : State), u.tracked e k = true → u.getFl (manReg e k) = m → u.executes e = true →
    exec (.piBlock e k d x coef) u = .next ((u.setEng e { u.eng e with pi := (u.eng e).pi.set k { state := F32.sub u.nan m (F32.mul u.nan (u.bankWord e (coef.val + 0)) (u.leReg e x)), out := m, sat := false } }).leFloat e d m 3)) ∧
  (∀ (e : Fin 16) (k : Fin 8) (x : Fin 32) (u : State), u.executes e = true →
    exec (.preset e k x) u = .next (u.setEng e (({ u.eng e with pi := (u.eng e).pi.set k { (u.eng e).pi.get k with state := (u.eng e).reg x } }).tick 1))) ∧
  (∀ (e : Fin 16) (q : QFmt) (d x y : Fin 32) (ch : Fin 72) (fine : Bool) (k : Fin 8) (coef : Fin 253) (u : State), u.executes e = false →
    exec (.qadd e q d x y) u = .next u ∧ exec (.qsub e q d x y) u = .next u ∧ exec (.qmul e q d x y) u = .next u ∧ exec (.cvtqf e q d x) u = .next u ∧ exec (.cvtfq e q d x) u = .next u ∧ exec (.sincos e d x y) u = .next u ∧ exec (.atan2 e d x y) u = .next u ∧ exec (.cvtg e d ch fine) u = .next u ∧ exec (.cvtc e d x) u = .next u ∧ exec (.piBlock e k d x coef) u = .next u ∧ exec (.preset e k x) u = .next u ∧ exec (.tlook e d x) u = .next u ∧ exec (.time e d x) u = .next u)

/-- The loop-engine memory, link and control instructions complete with their effect (R195, R197, R201, R203, R204, R205, Table 8.4). -/
def Obligations.EngineControlInstructionsComplete : Prop :=
  (∀ (e : Fin 16) (d : Fin 32) (a : LeAddr) (ecc : Fin 3) (v : State) (u : State), ecc ≠ 2 → u.ecc e ecc = v → u.executes e = true →
    exec (.ld e d a ecc) u = .next (v.leSet e d (v.leRead e (leAddress (v.eng e) a)) 1)) ∧
  (∀ (e : Fin 16) (d : Fin 32) (a : LeAddr) (u : State), u.executes e = true →
    exec (.ld e d a 2) u = .next (u.haltClass e Flt.LE_MEM_ERR)) ∧
  (∀ (e : Fin 16) (d : Fin 32) (b : Fin 2048) (ecc : Fin 3) (v : State) (u : State), ecc ≠ 2 → u.ecc e ecc = v → u.executes e = true →
    exec (.ldb e d (.abs b) ecc) u = .next (v.leSet e d (v.bankWord e (b.val % 256)) 1)) ∧
  (∀ (e : Fin 16) (d x : Fin 32) (b : Fin 2048) (ecc : Fin 3) (v : State) (u : State), ecc ≠ 2 → u.ecc e ecc = v → u.executes e = true →
    exec (.ldb e d (.idx b x) ecc) u = .next (v.leSet e d (v.bankWord e ((b.val + (v.leReg e x).toNat) % 256)) 1)) ∧
  (∀ (e : Fin 16) (d : Fin 32) (a : LeAddr) (u : State), u.executes e = true →
    exec (.ldb e d a 2) u = .next (u.haltClass e Flt.LE_MEM_ERR)) ∧
  (∀ (e : Fin 16) (x : Fin 32) (a : LeAddr) (k : Nat) (h : Engine) (u : State), leAddress (u.eng e) a = k → (if leWritable k then (u.eng e).putMem k ((u.eng e).reg x) else u.eng e) = h → u.executes e = true →
    exec (.st e x a) u = .next (u.setEng e ((if 0x100 ≤ k ∧ k < 0x180 then { h with staged := k :: h.staged } else h).tick 1))) ∧
  (∀ (e : Fin 16) (k : Fin 16) (x : Fin 32) (v : State) (u : State), u.putLink e k (u.leReg e x) = v → u.executes e = true →
    exec (.lput e k x) u = .next (v.setEng e ((v.eng e).tick 1))) ∧
  (∀ (e : Fin 16) (d df : Fin 32) (src k : Fin 16) (u : State), u.executes e = true →
    exec (.link e d df src k) u = .next (u.setEng e ((((u.eng e).setReg d (u.linkWord src k)).setReg df (if u.fresh e src k then 1 else 0)).tick 1))) ∧
  (∀ (e : Fin 16) (df : Fin 32) (src k : Fin 16) (cycles : Nat) (u : State), u.fresh e src k = true → u.executes e = true →
    exec (.lwait e df src k cycles) u = .next (u.leSet e df 1 0)) ∧
  (∀ (e : Fin 16) (df : Fin 32) (src k : Fin 16) (cycles : Nat) (u : State), u.fresh e src k = false → cycles = 0 → u.executes e = true →
    exec (.lwait e df src k cycles) u = .next (u.leSet e df 0 0)) ∧
  (∀ (e : Fin 16) (df : Fin 32) (src k : Fin 16) (cycles : Nat) (u : State), u.fresh e src k = false → cycles ≠ 0 → u.executes e = true →
    exec (.lwait e df src k cycles) u = .next (u.setEng e { (u.eng e).tick 0 with wait := some { engine := src, link := k, flagReg := df, since := u.now, until_ := u.now + 16 * cycles } })) ∧
  (∀ (e : Fin 16) (taken : Bool) (target : Fin 4096) (u : State), (taken && decide ((u.eng e).pc < target.val)) = true → u.executes e = true →
    exec (.br e taken target) u = .next (u.setEng e { (u.eng e).tick 1 with pc := target })) ∧
  (∀ (e : Fin 16) (taken : Bool) (target : Fin 4096) (u : State), (taken && decide ((u.eng e).pc < target.val)) = false → u.executes e = true →
    exec (.br e taken target) u = .next (u.setEng e ((u.eng e).tick 1))) ∧
  (∀ (e : Fin 16) (count : Nat) (last : Fin 4096) (g : Engine) (u : State), u.eng e = g → 1 ≤ count → count ≤ 4096 → g.loops.length < 4 → g.pc < last.val → u.executes e = true →
    exec (.loop e count last) u = .next (u.setEng e { g with pc := g.pc + 1, cycles := g.cycles + 1, loops := (g.pc + 1, last.val, count) :: g.loops })) ∧
  (∀ (e : Fin 16) (v : State) (u : State), u.loopPost e = v → u.executes e = true →
    exec (.post e) u = .next ((v.setEng e ((v.eng e).tick 2)).post e)) ∧
  (∀ (e : Fin 16) (v : State) (u : State), u.loopPost e = v → u.executes e = true →
    exec (.endSlot e) u = .next ((v.setEng e ((v.eng e).tick (if (v.eng e).posted then 1 else 3))).endSlot e)) ∧
  (∀ (e : Fin 16) (alt : Bool) (u : State), u.executes e = true →
    exec (.pace e alt) u = .next ((u.setEng e ((u.eng e).tick 1)).setAlt e alt)) ∧
  (∀ (e : Fin 16) (v : State) (u : State), (u.setF (F.LE_EXEC e) (u.eng e).cycles).setF (F.LE_PEAK e) (max (u.eng e).cycles (u.getF (F.LE_PEAK e))) = v → u.executes e = true →
    exec (.wait e) u = .next (v.setEng e { (u.eng e).stepPc.clearNew with waitFine := true, waitAt := v.battenTime })) ∧
  (∀ (e : Fin 16) (d x : Fin 32) (a : LeAddr) (ecc : Fin 3) (k src : Fin 16) (cycles : Nat) (taken : Bool) (target : Fin 4096) (u : State), u.executes e = false →
    exec (.ld e d a ecc) u = .next u ∧ exec (.ldb e d a ecc) u = .next u ∧ exec (.st e x a) u = .next u ∧ exec (.lput e k x) u = .next u ∧ exec (.link e d x src k) u = .next u ∧ exec (.lwait e d src k cycles) u = .next u ∧ exec (.br e taken target) u = .next u ∧ exec (.loop e cycles target) u = .next u ∧ exec (.post e) u = .next u ∧ exec (.endSlot e) u = .next u ∧ exec (.pace e taken) u = .next u ∧ exec (.wait e) u = .next u)

/-- The Gauze requests complete with the effect of R178 to R182 and R192 (R178, R179, R180, R182, R192). -/
def Obligations.GauzeRequestsComplete : Prop :=
  (∀ (r : Req) (s u : State), admitOp { code := 0x0801, background := true, lens := [9] } r s = .served u → r.num 0 1 < 72 → r.num 1 8 = 0 ∨ (u.battenTime + u.injectLead (r.num 0 1) ≤ r.num 1 8 ∧ r.num 1 8 ≤ u.battenTime + 10 * ticksPerS) → u.injectBusy (r.num 0 1) = false →
    exec (.gzInject r) s = .next ((u.addInjection (r.ticket 0x0801) (r.num 0 1) (r.num 1 8)).trimCache (r.ticket 0x0801))) ∧
  (∀ (r : Req) (s u : State), admitOp { code := 0x0802, level := 2, lens := [9] } r s = .served u → r.num 0 9 < 2 ^ 64 → u.power = pSTANDBY → u.gz.cal.isSome = false → (u.gz.injections.any fun i => bitAt (r.num 0 9) i.ch) = false →
    exec (.gzCalibrate r) s = .next (({ u with gz := { u.gz with cal := some { mask := r.num 0 9, waiting := true, startAt := gridUp 655360 (u.battenTime + 1) } } }).answer (r.ticket 0x0802) stOK [])) ∧
  (∀ (r : Req) (s u : State), admitOp { code := 0x0802, level := 2, lens := [9] } r s = .served u → r.num 0 9 < 2 ^ 64 → u.power = pSTANDBY → u.gz.cal.isSome = false → (u.gz.injections.any fun i => bitAt (r.num 0 9) i.ch) = true →
    exec (.gzCalibrate r) s = .next ((({ u with gz := { u.gz with cal := some { mask := r.num 0 9, waiting := true, startAt := 0 } } }).setB F.GZ_STAT_CAL_WAIT true).answer (r.ticket 0x0802) stDeferred [])) ∧
  (∀ (r : Req) (s u : State), admitOp { code := 0x0803, lens := [2] } r s = .served u → r.num 0 1 < 72 → r.num 1 1 ≤ 2 →
    exec (.gzRead r) s = .next (u.answer (r.ticket 0x0803) stOK (u.gzReadData (r.num 0 1) (r.num 1 1))))

/-- The Gauze outputs, overranges, injections and calibration events complete with the effect of R167 to R189 (R116, R167, R168, R173, R175, R178, R181, R183, R184, R185, R188, R189). -/
def Obligations.GauzeEventsComplete : Prop :=
  (∀ (t : Nat) (n : Fin 72) (code : Code24) (v : State) (o : GzOut) (s u : State), s.advance t = u → u.compWord n code.toNat = some (v, o) →
    exec (.compOutput t n code) s = .next ((v.slateComp n o.code).showModes)) ∧
  (∀ (t : Nat) (n : Fin 72) (x : FastMeas) (v : State) (o : GzOut) (s u : State), s.advance t = u → (u.fastBoundary n).fastWord n x.code.toNat x.samples = (v, some o) →
    exec (.fastOutput t n x) s = .next (v.deliverFast n o)) ∧
  (∀ (t : Nat) (n : Fin 72) (x : FastMeas) (v : State) (s u : State), s.advance t = u → (u.fastBoundary n).fastWord n x.code.toNat x.samples = (v, none) →
    exec (.fastOutput t n x) s = .next (v)) ∧
  (∀ (t : Nat) (n : Fin 72) (code : Code24) (dev : Vector Int 4) (dieT : Int) (v : State) (o : GzOut) (s u : State), s.advance t = u → (u.fineBoundary n).fineWord n code.toNat = (v, some o) →
    exec (.fineOutput t n code dev dieT) s = .next (v.deliverFine n o dev dieT)) ∧
  (∀ (t : Nat) (n : Fin 72) (x : SlotConv) (v : State) (p : GzPath) (o : GzOut) (s u : State), s.advance t = u → (u.slotBoundary n).slotWord n x.code.toNat = (v, some (p, o)) →
    exec (.slotConversion t n x) s = .next (v.deliverSlot n p o x.refDev x.dieT)) ∧
  (∀ (t : Nat) (n : Fin 72) (up : Bool) (s u : State), s.advance t = u → u.gzUp = true → n.val < 64 → u.gzMode n ≠ 0 →
    exec (.overrange t n up) s = .next (u.gzOverrange n up)) ∧
  (∀ (t : Nat) (n : Fin 72) (s u : State), s.advance t = u → u.gzUp = true → (u.gzCh n).ovrIn = true →
    exec (.overrangeEnd t n) s = .next (u.setGzCh n { u.gzCh n with ovrIn := false, backAt := some u.now, compLeft := 3, fastLeft := 3, fineLeft := 5, avgFrom := u.now + 15360 })) ∧
  (∀ (t : Nat) (group : Fin 4) (s u : State), s.advance t = u → u.gzUp = true → u.groupOff group = false → u.refDue group = true →
    exec (.refBufferReady t group) s = .next (u.refReady group)) ∧
  (∀ (t : Nat) (n : Fin 72) (code : Code24) (i : Injection) (s u : State), s.advance t = u → (u.gz.injections.find? fun j => j.ch == n.val) = some i → u.mainUp = true → i.due ≤ u.battenTime →
    exec (.injectionDelivered t n code) s = .next (u.deliverInjection n code.toNat i)) ∧
  (∀ (t : Nat) (c : Calibration) (s u : State), s.advance t = u → u.gz.cal = some c → u.mainUp = true → c.waiting = true → c.startAt ≠ 0 → c.startAt ≤ u.battenTime →
    exec (.calibrationStart t) s = .next (u.beginCal c)) ∧
  (∀ (t : Nat) (results : List (Nat × Int × Int)) (c : Calibration) (s u : State), s.advance t = u → u.gz.cal = some c → u.mainUp = true → c.waiting = false → c.startAt + 15073280 ≤ u.now →
    exec (.calibrationDone t results) s = .next (u.endCal c results))

/-- The Ridge supply, start and retention events complete with the effect of R59, R436, R450, R459 and R484 (R25, R59, R436, R444, R450, R455, R459, R463, R484). -/
def Obligations.RidgeSupplyEventsComplete : Prop :=
  (∀ (t : Nat) (mv held : Nat) (s u : State), s.advance t = u → u.rdg.mode = .running → mv < 6500 → 50 * ticksPerUs ≤ held →
    exec (.ridgeVrdgLoss t mv held) s = .next (if u.rdg.bkpGone then u.ridgeHandover.rtcStop else u.ridgeHandover)) ∧
  (∀ (t : Nat) (mv held : Nat) (s u : State), s.advance t = u → u.rdg.mode ≠ .running → 7500 < mv → 10 * ticksPerMs ≤ held →
    exec (.ridgeVrdgReturn t mv held) s = .next (u.ridgeReturns)) ∧
  (∀ (t : Nat) (start stop count last : Nat) (s u : State), s.advance t = u → u.rdg.short = some (start, stop, count, last) → u.rdg.lossAt = none → last + 60 * ticksPerS ≤ u.now →
    exec (.shortInterruptionClose t) s = .next (u.closeShort)) ∧
  (∀ (t : Nat) (s u : State), s.advance t = u → u.rdg.mode = .retention ∨ u.rdg.rtcStopped = true ∨ u.rdg.alive = false →
    exec (.ridgeStart t true) s = .next (u.ridgeReturns)) ∧
  (∀ (t : Nat) (s u : State), s.advance t = u → u.rdg.mode = .retention ∨ u.rdg.rtcStopped = true ∨ u.rdg.alive = false → u.rdg.bkpGone = false →
    exec (.ridgeStart t false) s = .next (u.qpStart .woken)) ∧
  (∀ (t : Nat) (s u : State), s.advance t = u → u.rdg.mode = .woken → max u.rdg.wokenAt (u.rdg.lastPulse.getD 0) + 60 * ticksPerS ≤ u.now →
    exec (.qpRetention t) s = .next (u.toRetention)) ∧
  (∀ (t : Nat) (limit : Nat) (s u : State), s.advance t = u → u.rdg.lockoutUntil = some limit → limit ≤ u.now →
    exec (.ridgeLockoutEnd t) s = .next (u.setR { u.rdg with lockoutUntil := none })) ∧
  (∀ (t : Nat) (s u : State), s.advance t = u → u.rdg.sealed ≠ 2 → u.rdg.rtcStopped = false →
    exec (.thatchCheck t true) s = .next (u.thatchBroken)) ∧
  (∀ (t : Nat) (s u : State), s.advance t = u → u.rdg.sealed ≠ 2 → u.rdg.rtcStopped = true →
    exec (.thatchCheck t true) s = .next (u.setR { u.rdg with sealed := 2, keysErased := true, meshDue := true }))

/-- The Ridge pulses, samples, periods and tamper checks complete with the effect of R439 to R452 (R439, R440, R441, R442, R443, R444, R446, R450, R452, R454, R455, R460). -/
def Obligations.RidgeMeasurementComplete : Prop :=
  (∀ (t : Nat) (v : State) (s u : State), s.advance t = u → v = (if u.rdg.mode = .retention ∧ u.rdg.bkpGone = false then u.qpStart .woken else u) → v.qpOn = true →
    exec (.wpiPulse t) s = .next (v.countPulse)) ∧
  (∀ (t : Nat) (codes : Vector Code24 6) (s u : State), s.advance t = u → u.qpRunning = true →
    exec (.ridgeEnergySample t codes) s = .next (u.energySample codes)) ∧
  (∀ (t : Nat) (s u : State), s.advance t = u → u.qpOn = true → u.rdg.curSec < u.rdgTime →
    exec (.ridgeSecond t) s = .next (u.secondEnds)) ∧
  (∀ (t : Nat) (s u : State), s.advance t = u → u.qpOn = true → u.rdg.curMin < u.rdgTime / 60 →
    exec (.ridgeMinute t) s = .next (u.minuteEnds)) ∧
  (∀ (t : Nat) (s u : State), s.advance t = u → u.qpOn = true → u.rdg.curQuarter < u.rdgTime / 900 →
    exec (.ridgeQuarterHour t) s = .next (u.energyEntry.setR { u.energyEntry.rdg with curQuarter := u.energyEntry.rdgTime / 900 })) ∧
  (∀ (t : Nat) (s u : State), s.advance t = u →
    exec (.dayClose t) s = .next (u.rollDay false)) ∧
  (∀ (t : Nat) (d : RdgDay) (l : List RdgDay) (s u : State), s.advance t = u → u.rdg.closed = d :: l → u.qpRunning = true → u.rdg.keysErased = false →
    exec (.sealSigned t) s = .next (u.sealDay d)) ∧
  (∀ (t : Nat) (field : Nat) (s u : State), s.advance t = u → u.qpRunning = true → 100 < field →
    exec (.fieldCheck t field) s = .next (u.fieldAbove field)) ∧
  (∀ (t : Nat) (field : Nat) (s u : State), s.advance t = u → u.qpRunning = true → field ≤ 100 →
    exec (.fieldCheck t field) s = .next (u.fieldBelow)) ∧
  (∀ (t : Nat) (mv : Int) (s u : State), s.advance t = u → u.qpRunning = true → 1000 < mv →
    exec (.wpiOpenTest t mv) s = .next (u.wpiOpened)) ∧
  (∀ (t : Nat) (mv : Int) (s u : State), s.advance t = u → u.qpRunning = true → mv ≤ 1000 →
    exec (.wpiOpenTest t mv) s = .next (u.wpiSound)) ∧
  (∀ (t : Nat) (n : Fin 8) (run : Nat) (on : Bool) (s u : State), s.advance t = u → decide (1024 ≤ run) = on → u.qpRunning = true → u.mbUsed n.val = true → bitAt u.rdg.mbLoss n.val = !on →
    exec (.rdgMbLoss t n run) s = .next ((u.setR { u.rdg with mbLoss := setBitN u.rdg.mbLoss n.val on }).rdgEvent 0xC022 (!on) (beBytes 1 (2 ^ n.val)))) ∧
  (∀ (t : Nat) (n : Fin 8) (span : Nat) (on : Bool) (s u : State), s.advance t = u → decide (span < 4) = on → u.qpRunning = true → u.mbUsed n.val = true → bitAt u.rdg.mbFlat n.val = !on →
    exec (.rdgMbFlat t n span) s = .next ((u.setR { u.rdg with mbFlat := setBitN u.rdg.mbFlat n.val on }).rdgEvent 0xC023 (!on) (beBytes 1 (2 ^ n.val))))

/-- The witness frames, mirror and query events complete with the effect of R431, R433, R434, R447 to R449 and R467 (R120, R431, R433, R434, R447, R448, R449, R467). -/
def Obligations.WitnessAndMirrorEventsComplete : Prop :=
  (∀ (t : Nat) (s u : State), s.advance t = u → u.witnessDue 0 = true → u.qpOn = true →
    exec (.witnessHeartbeat t true) s = .next (((u.sendWitness 0 (beBytes 1 u.power ++ [0#8])).2.gotWitness 0 (u.sendWitness 0 (beBytes 1 u.power ++ [0#8])).1).2.setR { ((u.sendWitness 0 (beBytes 1 u.power ++ [0#8])).2.gotWitness 0 (u.sendWitness 0 (beBytes 1 u.power ++ [0#8])).1).2.rdg with hbPower := u.power, hbAt := if ((u.sendWitness 0 (beBytes 1 u.power ++ [0#8])).2.gotWitness 0 (u.sendWitness 0 (beBytes 1 u.power ++ [0#8])).1).2.rdg.hbAt.isNone then some u.now else ((u.sendWitness 0 (beBytes 1 u.power ++ [0#8])).2.gotWitness 0 (u.sendWitness 0 (beBytes 1 u.power ++ [0#8])).1).2.rdg.hbAt })) ∧
  (∀ (t : Nat) (s u : State), s.advance t = u → u.witnessDue 0 = true → u.qpOn = true →
    exec (.witnessHeartbeat t false) s = .next ((u.sendWitness 0 (beBytes 1 u.power ++ [0#8])).2.rdgReject)) ∧
  (∀ (t : Nat) (b : Bool) (s u : State), s.advance t = u → u.witnessDue 0 = true → u.qpOn = false →
    exec (.witnessHeartbeat t b) s = .next ((u.sendWitness 0 (beBytes 1 u.power ++ [0#8])).2)) ∧
  (∀ (t : Nat) (s u : State), s.advance t = u → u.witnessDue 1 = true → u.qpOn = true →
    exec (.witnessAngle t true false) s = .next (((u.takeTurns.2.sendWitness 1 (u.takeTurns.2.anglePayload u.takeTurns.1)).2.gotWitness 1 (u.takeTurns.2.sendWitness 1 (u.takeTurns.2.anglePayload u.takeTurns.1)).1).2.angleArrived ((u.takeTurns.2.sendWitness 1 (u.takeTurns.2.anglePayload u.takeTurns.1)).2.gotWitness 1 (u.takeTurns.2.sendWitness 1 (u.takeTurns.2.anglePayload u.takeTurns.1)).1).1 u.takeTurns.1)) ∧
  (∀ (t : Nat) (s u : State), s.advance t = u → u.witnessDue 1 = true → u.qpOn = true →
    exec (.witnessAngle t false false) s = .next ((u.takeTurns.2.sendWitness 1 (u.takeTurns.2.anglePayload u.takeTurns.1)).2.rdgReject)) ∧
  (∀ (t : Nat) (b : Bool) (s u : State), s.advance t = u → u.witnessDue 1 = true → u.qpOn = false →
    exec (.witnessAngle t b false) s = .next ((u.takeTurns.2.sendWitness 1 (u.takeTurns.2.anglePayload u.takeTurns.1)).2)) ∧
  (∀ (t : Nat) (b : Bool) (s u : State), s.advance t = u → u.witnessDue 1 = true →
    exec (.witnessAngle t b true) s = .next ((u.takeTurns.2.sendWitness 1 (u.takeTurns.2.anglePayload u.takeTurns.1)).2)) ∧
  (∀ (t : Nat) (a w : Nat) (rest : List (Nat × Nat)) (s u : State), s.advance t = u → u.wit.notices = (a, w) :: rest → u.qpOn = true →
    exec (.witnessMirrorWrite t true) s = .next (((({ u with wit := { u.wit with notices := rest } }.sendWitness 3 (beBytes 4 a ++ beBytes 1 w)).2.gotWitness 3 ({ u with wit := { u.wit with notices := rest } }.sendWitness 3 (beBytes 4 a ++ beBytes 1 w)).1).2.setR { (({ u with wit := { u.wit with notices := rest } }.sendWitness 3 (beBytes 4 a ++ beBytes 1 w)).2.gotWitness 3 ({ u with wit := { u.wit with notices := rest } }.sendWitness 3 (beBytes 4 a ++ beBytes 1 w)).1).2.rdg with mirrorMerged := (({ u with wit := { u.wit with notices := rest } }.sendWitness 3 (beBytes 4 a ++ beBytes 1 w)).2.gotWitness 3 ({ u with wit := { u.wit with notices := rest } }.sendWitness 3 (beBytes 4 a ++ beBytes 1 w)).1).2.rdg.mirrorMerged + 1, mirrorAddr := a, mirrorWriter := w }).mirrorRecord)) ∧
  (∀ (t : Nat) (a w : Nat) (rest : List (Nat × Nat)) (s u : State), s.advance t = u → u.wit.notices = (a, w) :: rest → u.qpOn = true →
    exec (.witnessMirrorWrite t false) s = .next (({ u with wit := { u.wit with notices := rest } }.sendWitness 3 (beBytes 4 a ++ beBytes 1 w)).2.rdgReject)) ∧
  (∀ (t : Nat) (a w : Nat) (rest : List (Nat × Nat)) (b : Bool) (s u : State), s.advance t = u → u.wit.notices = (a, w) :: rest → u.qpOn = false →
    exec (.witnessMirrorWrite t b) s = .next (({ u with wit := { u.wit with notices := rest } }.sendWitness 3 (beBytes 4 a ++ beBytes 1 w)).2)) ∧
  (∀ (t : Nat) (s u : State), s.advance t = u → u.power = pSLEEP → u.pwr.boot = none → u.qpOn = true →
    exec (.witnessSleep t true) s = .next (((u.sendWitness 4 []).2.gotWitness 4 (u.sendWitness 4 []).1).2.witnessBack.setR { ((u.sendWitness 4 []).2.gotWitness 4 (u.sendWitness 4 []).1).2.witnessBack.rdg with hbAt := none })) ∧
  (∀ (t : Nat) (s u : State), s.advance t = u → u.power = pSLEEP → u.pwr.boot = none → u.qpOn = true →
    exec (.witnessSleep t false) s = .next ((u.sendWitness 4 []).2.rdgReject)) ∧
  (∀ (t : Nat) (b : Bool) (s u : State), s.advance t = u → u.power = pSLEEP → u.pwr.boot = none → u.qpOn = false →
    exec (.witnessSleep t b) s = .next ((u.sendWitness 4 []).2)) ∧
  (∀ (t : Nat) (h : Nat) (s u : State), s.advance t = u → u.rdg.hbAt = some h → u.qpOn = true → u.rdg.witLost = false → max h u.rdg.angleAt + ticksPerS ≤ u.now →
    exec (.rdgWitnessLost t) s = .next ((u.setR { u.rdg with witLost := true, segLost := true }).rdgEvent 0xC032 false (beBytes 1 u.rdg.hbPower))) ∧
  (∀ (t : Nat) (f : Forward) (rest : List Forward) (s u : State), s.advance t = u → u.wit.forwards = f :: rest → u.mainUp = true → u.qpOn = true → u.now < f.since + 18 * ticksPerMs →
    exec (.ridgeReply t) s = .next (u.ridgeAnswers f rest)) ∧
  (∀ (t : Nat) (f : Forward) (rest : List Forward) (s u : State), s.advance t = u → u.wit.forwards = f :: rest → u.mainUp = true → f.since + 18 * ticksPerMs ≤ u.now →
    exec (.ridgeQueryTimeout t) s = .next ({ u with wit := { u.wit with forwards := rest } }.answer f.ticket stBusy [])) ∧
  (∀ (t : Nat) (frame : List Byte) (s u : State), s.advance t = u → u.qpRunning = true → 22 ≤ frame.length → beAt frame 0 2 = frame.length - 2 → frame.length ≤ 12290 →
    exec (.rlinkFrame t frame) s = .next (u.rlinkPacket (beAt (frame.drop 2) 4 2) (parseReq t .spi (frame.drop 2)))) ∧
  (∀ (t : Nat) (frame : List Byte) (s u : State), s.advance t = u → u.qpRunning = true → frame.length < 22 ∨ beAt frame 0 2 ≠ frame.length - 2 ∨ 12290 < frame.length →
    exec (.rlinkFrame t frame) s = .next (u.rdgReject)) ∧
  (∀ (t : Nat) (s u : State), s.advance t = u → u.mainUp = true → u.qpRunning = true →
    exec (.mirrorUpdate t) s = .next ({ (u.fillMirror).setB F.PWR_STATE_TIME_INVALID (!u.rdg.timeValid) with wit := { ((u.fillMirror).setB F.PWR_STATE_TIME_INVALID (!u.rdg.timeValid)).wit with mirrorAt := some ((u.fillMirror).setB F.PWR_STATE_TIME_INVALID (!u.rdg.timeValid)).now } })) ∧
  (∀ (t : Nat) (s u : State), s.advance t = u → u.mainUp = true → 5000 ≤ u.mirrorAge →
    exec (.ridgeStale t) s = .next (u.setB F.RDG_STAT_STALE true))

/-- The Ridge queries and authority commands complete with the effect of R431, R433 and R457 to R466 (R19, R431, R433, R459, R460, R461, R462, R465, R466). -/
def Obligations.RidgeRequestsComplete : Prop :=
  (∀ (r : Req) (s u : State), admitOp { code := 0x0A00, background := true, lens := [0] } r s = .served u → r.fits 46 = true →
    exec (.ridgeStatus r) s = .next (({ u with wit := { u.wit with forwards := u.wit.forwards ++ [⟨r.ticket 0x0A00, r.params, u.now⟩] } : State }).trimCache (r.ticket 0x0A00))) ∧
  (∀ (r : Req) (s u : State), admitOp { code := 0x0A01, background := true, lens := [7] } r s = .served u →
    exec (.ridgeReadRecords r) s = .next (({ u with wit := { u.wit with forwards := u.wit.forwards ++ [⟨r.ticket 0x0A01, r.params, u.now⟩] } : State }).trimCache (r.ticket 0x0A01))) ∧
  (∀ (r : Req) (s u : State), admitOp { code := 0x0A02, background := true, lens := [10] } r s = .served u →
    exec (.ridgeReadSeal r) s = .next (({ u with wit := { u.wit with forwards := u.wit.forwards ++ [⟨r.ticket 0x0A02, r.params, u.now⟩] } : State }).trimCache (r.ticket 0x0A02))) ∧
  (∀ (r : Req) (s u : State), admitOp { code := 0x0A03, background := true, lens := [6] } r s = .served u →
    exec (.ridgeReadEvents r) s = .next (({ u with wit := { u.wit with forwards := u.wit.forwards ++ [⟨r.ticket 0x0A03, r.params, u.now⟩] } : State }).trimCache (r.ticket 0x0A03))) ∧
  (∀ (r : Req) (s u : State), s.advance r.time = u → u.qpRunning = true → r.version = 1 → r.plen.toNat = r.params.length → r.total ≤ 12288 → r.crc.toNat = r.wantCrc 0x0A80 → r.flags = 0 → r.reserved = 0 → r.session = 0 → u.envelopeOk 0x0A80 r.params = true → u.rdgLocked = false →
    exec (.ridgeParamWrite r true) s = .next (match (if beAt r.params 6 1 ≠ 0xFF ∧ !blockVerifies (8 + beAt r.params 6 1) (r.params.take (24 + beAt r.params 20 2)) (r.params.drop (24 + beAt r.params 20 2)) then (stSigInvalid, u.rdgAuthFailed 0x0A80 (beAt r.params 6 1)) else u.rdgParamWrite (beAt r.params 6 1) ((r.params.drop 24).take (beAt r.params 20 2))) with
      | (st, v) => v.rlinkReply 0x0A80 r st [])) ∧
  (∀ (r : Req) (s : State), exec (.ridgeParamWrite r false) s = .next (serveNone 0x0A80 stRidgeOnly r s)) ∧
  (∀ (r : Req) (s u : State), s.advance r.time = u → u.qpRunning = true → r.version = 1 → r.plen.toNat = r.params.length → r.total ≤ 12288 → r.crc.toNat = r.wantCrc 0x0A81 → r.flags = 0 → r.reserved = 0 → r.session = 0 → u.envelopeOk 0x0A81 r.params = true → u.rdgLocked = false →
    exec (.ridgeSeal r true) s = .next (match (if beAt r.params 6 1 ≠ 0xFF ∧ !blockVerifies (8 + beAt r.params 6 1) (r.params.take (24 + beAt r.params 20 2)) (r.params.drop (24 + beAt r.params 20 2)) then (stSigInvalid, u.rdgAuthFailed 0x0A81 (beAt r.params 6 1)) else u.rdgSeal (beAt r.params 6 1) ((r.params.drop 24).take (beAt r.params 20 2))) with
      | (st, v) => v.rlinkReply 0x0A81 r st [])) ∧
  (∀ (r : Req) (s : State), exec (.ridgeSeal r false) s = .next (serveNone 0x0A81 stRidgeOnly r s)) ∧
  (∀ (r : Req) (s u : State), s.advance r.time = u → u.qpRunning = true → r.version = 1 → r.plen.toNat = r.params.length → r.total ≤ 12288 → r.crc.toNat = r.wantCrc 0x0A82 → r.flags = 0 → r.reserved = 0 → r.session = 0 → u.envelopeOk 0x0A82 r.params = true → u.rdgLocked = false →
    exec (.ridgeTimeAdjust r true) s = .next (match (if beAt r.params 6 1 ≠ 0xFF ∧ !blockVerifies (8 + beAt r.params 6 1) (r.params.take (24 + beAt r.params 20 2)) (r.params.drop (24 + beAt r.params 20 2)) then (stSigInvalid, u.rdgAuthFailed 0x0A82 (beAt r.params 6 1)) else u.rdgTimeAdjust (beAt r.params 6 1) ((r.params.drop 24).take (beAt r.params 20 2))) with
      | (st, v) => v.rlinkReply 0x0A82 r st [])) ∧
  (∀ (r : Req) (s : State), exec (.ridgeTimeAdjust r false) s = .next (serveNone 0x0A82 stRidgeOnly r s))

/-- The configuration image commands complete with the effect of R89, R90, R122, R126 and R128 (R89, R90, R122, R126, R128). -/
def Obligations.ImageCommandsComplete : Prop :=
  (∀ (r : Req) (v : State) (s u : State), admitReq { code := 0x0B01, level := 2, background := lastChunk r 0 } (fun n => decide (9 ≤ n)) r s = .served u → u.chunk 0x0B01 0 65536 r.session (r.num 0 4) (r.num 4 4) (r.params.drop 8) = .more v →
    exec (.imgStage r) s = .next ((v.stageBegins (r.num 0 4)).answer (r.ticket 0x0B01) stOK [])) ∧
  (∀ (r : Req) (bytes : List Byte) (v : State) (s u : State), admitReq { code := 0x0B01, level := 2, background := lastChunk r 0 } (fun n => decide (9 ≤ n)) r s = .served u → u.chunk 0x0B01 0 65536 r.session (r.num 0 4) (r.num 4 4) (r.params.drop 8) = .whole bytes v → u.com.sigJob = none →
    exec (.imgStage r) s = .next (({ v.stageBegins (r.num 0 4) with com := { (v.stageBegins (r.num 0 4)).com with sigJob := some (.image (r.ticket 0x0B01) bytes) } }).trimCache (r.ticket 0x0B01))) ∧
  (∀ (t : Nat) (tk : Ticket) (bytes : List Byte) (st : Nat) (bad : Option Nat) (img : Option Image) (s u : State), s.advance t = u → u.com.sigJob = some (.image tk bytes) → u.jobDone.checkImage bytes = (st, bad, img) →
    exec (.imageChecked t) s = .next ((u.jobDone.imageJudged tk bad img).answer tk st [])) ∧
  (∀ (r : Req) (i : Image) (s u : State), admitOp { code := 0x0B02, level := 2, background := true } r s = .served u → u.power = pSTANDBY → u.getF F.SYS_IMG_STAGE_STATE = 2 → u.idn.staged = some (r.session, i) → u.idn.commit = none → u.getB F.THM_STAT_MRAM_INH = false →
    exec (.imgCommit r) s = .next (({ u with idn := { u.idn with slots := vset u.idn.slots (1 - u.idn.imgActive) (some i), commit := some (r.ticket 0x0B02, r.session) } }).trimCache (r.ticket 0x0B02))) ∧
  (∀ (t : Nat) (tk : Ticket) (ses : Word) (s u : State), s.advance t = u → u.idn.commit = some (tk, ses) →
    exec (.imgCommitDone t) s = .next (u.imgSwitch.answer tk stOK [])) ∧
  (∀ (r : Req) (st : Nat) (d : List Byte) (s u : State), admitOp { code := 0x0B00, lens := [6] } r s = .served u → r.num 0 4 = 0 → longReply ((u.activeImage.map fun i => i.bytes).getD []) 0 (r.num 4 2) (r.ticket 0x0B00).room = (st, d) →
    exec (.imgRead r) s = .next (((u.keepLong (r.ticket 0x0B00) [] ((u.activeImage.map fun i => i.bytes).getD []))).answer (r.ticket 0x0B00) st d)) ∧
  (∀ (r : Req) (x : LongResult) (st : Nat) (d : List Byte) (s u : State), admitOp { code := 0x0B00, lens := [6] } r s = .served u → r.num 0 4 ≠ 0 → (u.com.longs.find? fun x => x.opcode == 0x0B00 && x.session == r.session) = some x → x.key = [] → longReply x.bytes (r.num 0 4) (r.num 4 2) (r.ticket 0x0B00).room = (st, d) →
    exec (.imgRead r) s = .next (u.answer (r.ticket 0x0B00) st d))

/-- The firmware and attestation commands complete with the effect of R90, R477, R480 to R482 (R90, R477, R478, R480, R481, R482). -/
def Obligations.FirmwareAndAttestComplete : Prop :=
  (∀ (r : Req) (v w : State) (s u : State), admitReq { code := 0x0B03, level := 2, background := lastChunk r 1 } (fun n => decide (10 ≤ n)) r s = .served u → r.num 0 1 ≤ 1 → u.fwRefusal (r.num 0 1) (r.num 1 4) (chunkWords r) = 0 → u.chunk 0x0B03 (r.num 0 1) (fwMax (r.num 0 1)) r.session (r.num 1 4) (r.num 5 4) (r.params.drop 9) = .more w → (u.fwBegins r.session (r.num 0 1) (r.num 1 4)).chunk 0x0B03 (r.num 0 1) (fwMax (r.num 0 1)) r.session (r.num 1 4) (r.num 5 4) (r.params.drop 9) = .more v →
    exec (.fwStage r) s = .next (((v.fwWrite (r.num 0 1) (chunkWords r))).answer (r.ticket 0x0B03) stOK [])) ∧
  (∀ (r : Req) (bytes : List Byte) (v w : State) (s u : State), admitReq { code := 0x0B03, level := 2, background := lastChunk r 1 } (fun n => decide (10 ≤ n)) r s = .served u → r.num 0 1 ≤ 1 → u.fwRefusal (r.num 0 1) (r.num 1 4) (chunkWords r) = 0 → u.com.sigJob = none → u.chunk 0x0B03 (r.num 0 1) (fwMax (r.num 0 1)) r.session (r.num 1 4) (r.num 5 4) (r.params.drop 9) = .whole bytes w → (u.fwBegins r.session (r.num 0 1) (r.num 1 4)).chunk 0x0B03 (r.num 0 1) (fwMax (r.num 0 1)) r.session (r.num 1 4) (r.num 5 4) (r.params.drop 9) = .whole bytes v →
    exec (.fwStage r) s = .next ((({ v with com := { v.com with sigJob := some (.firmware (r.ticket 0x0B03) (r.num 0 1) bytes) } }).fwWrite (r.num 0 1) (chunkWords r)).trimCache (r.ticket 0x0B03))) ∧
  (∀ (t : Nat) (tk : Ticket) (target : Nat) (bytes : List Byte) (st : Nat) (f : Option FwImage) (s u : State), s.advance t = u → u.com.sigJob = some (.firmware tk target bytes) → u.jobDone.checkFirmware target bytes = (st, f) →
    exec (.fwImageChecked t) s = .next ((u.jobDone.setSlot target (u.jobDone.idleSlot target) f (if f.isSome then 2 else 0)).answer tk st [])) ∧
  (∀ (r : Req) (s u : State), admitOp { code := 0x0B04, level := 2, background := true, lens := [1] } r s = .served u → r.num 0 1 ≤ 1 → u.power = pSTANDBY → u.idn.activated = 0 → u.mayActivate (r.num 0 1) = true → u.getB F.THM_STAT_MRAM_INH = false →
    exec (.fwActivate r) s = .next (((u.fwSwitch (r.num 0 1))).answer (r.ticket 0x0B04) stDeferred [])) ∧
  (∀ (t : Nat) (a : Nat) (s u : State), s.advance t = u → u.pwr.activateAt = some a → u.mainUp = true → u.power ≠ pTEST → a ≤ u.now →
    exec (.fwActivateReset t) s = .next (u.resetAndBoot 0x09)) ∧
  (∀ (r : Req) (s u : State), admitOp { code := 0x0C01, background := r.num 32 4 == 0, lens := [38] } r s = .served u → r.num 32 4 = 0 → u.com.sigJob = none →
    exec (.attest r) s = .next (if Config.certOk 3 then (u.attestBegins (r.ticket 0x0C01) (r.params.take 32) (r.num 36 2)).trimCache (r.ticket 0x0C01) else u.answer (r.ticket 0x0C01) stStateRefused [])) ∧
  (∀ (r : Req) (x : LongResult) (st : Nat) (d : List Byte) (s u : State), admitOp { code := 0x0C01, background := r.num 32 4 == 0, lens := [38] } r s = .served u → r.num 32 4 ≠ 0 → (u.com.longs.find? fun x => x.opcode == 0x0C01 && x.session == r.session) = some x → x.key = r.params.take 32 → longReply x.bytes (r.num 32 4) (r.num 36 2) (r.ticket 0x0C01).room = (st, d) →
    exec (.attest r) s = .next (u.answer (r.ticket 0x0C01) st d)) ∧
  (∀ (t : Nat) (tk : Ticket) (nonce b : List Byte) (maxLen st : Nat) (d : List Byte) (s u : State), s.advance t = u → u.com.sigJob = some (.attest tk nonce b maxLen) → longReply (signedReport b) 0 maxLen tk.room = (st, d) →
    exec (.attestSigned t) s = .next ((if (u.session tk.session).isSome then u.jobDone.keepLong tk nonce (signedReport b) else u.jobDone).answer tk st d))

/-- The telemetry, last-fault, thermal and wear requests complete with the effect of R96, R99, R345 and R389 (R96, R99, R345, R367, R389). -/
def Obligations.TelemetryAndWearRequestsComplete : Prop :=
  (∀ (r : Req) (s u : State), admitOp { code := 0x0D00, level := 2, lens := [2] } r s = .served u → r.num 0 1 ≤ 8 → r.num 1 1 = 0 → r.fits (1 + 13 * (u.quantityCodes (r.num 0 1)).length) = true → u.tlmServed (r.num 0 1) = true →
    exec (.tlmRead r) s = .next ((((u.tlmData (r.num 0 1)).2)).answer (r.ticket 0x0D00) stOK (u.tlmData (r.num 0 1)).1)) ∧
  (∀ (r : Req) (s u : State), admitOp { code := 0x0D00, level := 2, lens := [2] } r s = .served u → r.num 0 1 ≤ 8 → r.num 1 1 = 1 → r.fits (1 + 13 * (u.quantityCodes (r.num 0 1)).length) = true → u.tlmServed (r.num 0 1) = true →
    exec (.tlmRead r) s = .next ((({ (u.tlmData (r.num 0 1)).2 with tlm := { (u.tlmData (r.num 0 1)).2.tlm with peaks := (u.tlmData (r.num 0 1)).2.tlm.peaks.filter fun p => p.1 != r.num 0 1 } })).answer (r.ticket 0x0D00) stOK (u.tlmData (r.num 0 1)).1)) ∧
  (∀ (r : Req) (s u : State), admitOp { code := 0x0D01, level := 2, lens := [25] } r s = .served u → r.num 0 1 = 0 → r.port = .eth →
    exec (.tlmStream r) s = .next (({ u with com := { u.com with stream := none } }).answer (r.ticket 0x0D01) stOK [])) ∧
  (∀ (r : Req) (s u : State), admitOp { code := 0x0D01, level := 2, lens := [25] } r s = .served u → r.num 0 1 = 1 → r.port = .eth → u.streamOk r = true → (u.com.stream.any fun x => x.session != r.session) = false →
    exec (.tlmStream r) s = .next (((u.streamBegins r)).answer (r.ticket 0x0D01) stOK [])) ∧
  (∀ (r : Req) (f : LastFault) (v : State) (s u : State), admitOp { code := 0x0D02, lens := [1] } r s = .served u → r.num 0 1 ≤ 8 → u.lastFault (r.num 0 1) = (f, v) → r.fits (11 + 5 * f.quantities.length) = true →
    exec (.lastfaultRead r) s = .next (v.answer (r.ticket 0x0D02) stOK (beBytes 8 f.time ++ beBytes 2 f.code ++ beBytes 1 f.quantities.length ++ f.quantities.flatMap fun q => beBytes 1 q.1 ++ beBytes 4 q.2.toNat))) ∧
  (∀ (r : Req) (s u : State), admitOp { code := 0x0E00, lens := [2] } r s = .served u → r.num 0 1 + r.num 1 1 ≤ 64 → r.fits (9 * r.num 1 1) = true →
    exec (.thermRead r) s = .next (((u.switches (r.num 0 1) (r.num 1 1) State.thermSwitch).2).answer (r.ticket 0x0E00) stOK (u.switches (r.num 0 1) (r.num 1 1) State.thermSwitch).1)) ∧
  (∀ (r : Req) (s u : State), admitOp { code := 0x0E01, lens := [2] } r s = .served u → r.num 0 1 + r.num 1 1 ≤ 64 → r.fits (9 * r.num 1 1) = true →
    exec (.wearRead r) s = .next (((u.switches (r.num 0 1) (r.num 1 1) (fun s c => (beBytes 1 c ++ beBytes 4 (s.getF (F.THM_LIFE c)) ++ beBytes 4 (s.getF (F.THM_CYC c)), s))).2).answer (r.ticket 0x0E01) stOK (u.switches (r.num 0 1) (r.num 1 1) (fun s c => (beBytes 1 c ++ beBytes 4 (s.getF (F.THM_LIFE c)) ++ beBytes 4 (s.getF (F.THM_CYC c)), s))).1)) ∧
  (∀ (r : Req) (s u : State), admitOp { code := 0x0E02 } r s = .served u →
    exec (.spareStatus r) s = .next (u.answer (r.ticket 0x0E02) stOK u.spareData))

/-- The thermal, wear and stream events complete with the effect of R100, R369 to R375, R380 to R384 and R387 (R100, R369, R370, R374, R375, R380, R381, R382, R383, R384, R387). -/
def Obligations.ThermalEventsComplete : Prop :=
  (∀ (t : Nat) (parts : List LossPart) (s u : State), s.advance t = u → u.mainUp = true → u.lossDue ≤ u.lossEnded →
    exec (.lossWindowEnd t parts) s = .next (({ u with thm := { u.thm with lossWin := u.lossDue } } : State).publishLosses parts)) ∧
  (∀ (t : Nat) (x : Nat) (s u : State), s.advance t = u → u.thm.throttleAt = some x → u.mainUp = true → u.thm.dieFault = false → x + ticksPerS ≤ u.now →
    exec (.throttleEnd t) s = .next (u.setB F.THM_STAT_THROTTLE false)) ∧
  (∀ (t : Nat) (x : Nat) (s u : State), s.advance t = u → u.thm.inhibitAt = some x → u.mainUp = true → x + ticksPerS ≤ u.now →
    exec (.mramInhibitEnd t) s = .next (u.endInhibit)) ∧
  (∀ (t : Nat) (n : Fin 6) (held : Nat) (s u : State), s.advance t = u → u.mainUp = true → u.ntcBroken n = false → u.ntcGone n = true ∨ u.ntcOdd n = true ∧ ticksPerS ≤ held →
    exec (.thmSensorBroken t n held) s = .next (u.breakNtc n)) ∧
  (∀ (t : Nat) (s u : State), s.advance t = u → u.mainUp = true → u.thm.dieFault = false → max u.thm.dieAt u.pwr.battenBase + 10 * ticksPerMs ≤ u.now →
    exec (.thmDieSensor t) s = .next ((({ u with thm := { u.thm with dieFault := true } }.raise Flt.THM_DIE_SENSOR {}).throttle).endInhibit)) ∧
  (∀ (t : Nat) (n : Fin 64) (held st : Nat) (s u : State), s.advance t = u → u.chStage n = some st → u.mainUp = true → u.tjLim st + (u.getF (F.THM_STG_LIM_OT_K st) : Rat) ≤ u.getQ (F.THM_TJ n) → 10 * ticksPerMs ≤ held → bitAt u.thm.overDone n = false →
    exec (.thmOvertemp t n held) s = .next ((({ u with thm := { u.thm with overDone := setBitN u.thm.overDone n true } }).event F.THM_EVT_OVERTEMP).raise Flt.THM_OVERTEMP { stages := if st ≤ 1 then 3 else 2 ^ st, item := n })) ∧
  (∀ (t : Nat) (n : Fin 6) (held : Nat) (s u : State), s.advance t = u → u.mainUp = true → u.ntcBroken n = false → (u.ntc n).seen = true → (u.ntc n).missing = false → (u.getF F.THM_NTCCFG_NTCMAX : Rat) < (u.ntc n).last → 100 * ticksPerMs ≤ held → bitAt u.thm.ntcDone n = false →
    exec (.thmNtcOver t n held) s = .next ((({ u with thm := { u.thm with ntcDone := setBitN u.thm.ntcDone n true } }).event F.THM_EVT_OVERTEMP).raise Flt.THM_NTC_OVER { stages := maskOf (u.usedStages.filter fun st => u.getF (F.THM_STG_LIM_REFNTC st) == n.val), item := n })) ∧
  (∀ (t : Nat) (s u : State), s.advance t = u → u.mainUp = true → u.thm.lost = false → u.getB (F.LE_MODE_HALTED 11) = true ∨ max u.thm.slotAt u.pwr.battenBase + 20 * ticksPerMs ≤ u.now →
    exec (.thmModelLost t) s = .next (u.modelLost)) ∧
  (∀ (t : Nat) (s u : State), s.advance t = u → u.mainUp = true → u.thm.runEnded = true ∨ u.thm.dirty ≠ [] ∧ u.thm.saveAt + 10 * ticksPerS ≤ u.now →
    exec (.wearSave t) s = .next (u.wearSaves)) ∧
  (∀ (t : Nat) (x : Stream) (s u : State), s.advance t = u → u.com.stream = some x → 0 < setsPerFrame x.chans.length → setsPerFrame x.chans.length ≤ x.sets.length → u.com.linkUp = true →
    exec (.tlmStreamFrame t) s = .next (u.streamSends x (setsPerFrame x.chans.length)))

/-- The driver and bridge protection events complete with the effect of R21, R268 to R275, R280 to R282 and R284 (R21, R266, R268, R269, R270, R271, R272, R275, R280, R281, R282, R284). -/
def Obligations.BridgeProtectionComplete : Prop :=
  (∀ (t : Nat) (n : Fin 32) (missing : Nat) (s u : State), s.advance t = u → u.mainUp = true → ticksPerUs < missing → vget u.gate.clkMissing n false = false →
    exec (.gzIslandClock t n missing) s = .next (u.clockLost n)) ∧
  (∀ (t : Nat) (n : Fin 32) (s u : State), s.advance t = u → u.mainUp = true →
    exec (.gzIslandClock t n 0) s = .next ({ u with gate := { u.gate with clkMissing := vset u.gate.clkMissing n false } }.markClock n false)) ∧
  (∀ (t : Nat) (n : Fin 32) (s u : State), s.advance t = u → u.mainUp = false → u.pwr.step = 8 →
    exec (.gzIslandClock t n 0) s = .next ({ u with gate := { u.gate with clkMissing := vset u.gate.clkMissing n false } }.markClock n false)) ∧
  (∀ (t : Nat) (n : Fin 32) (s u : State), s.advance t = u → u.mainUp = false → u.pwr.step ≠ 8 →
    exec (.gzIslandClock t n 0) s = .next ({ u with gate := { u.gate with clkMissing := vset u.gate.clkMissing n false } })) ∧
  (∀ (t : Nat) (n : Fin 32) (mv on : Nat) (s u : State), s.advance t = u → u.mainUp = true → u.getB (F.GD_CH_PROT_SC_EN n) = true → u.scWatched n = true → 640 * (u.getF (F.GD_CH_PROT_SC_BLK n) + 1) ≤ on → 100 * (u.getF (F.GD_CH_PROT_SC_TH n) + 1) < mv →
    exec (.gdShortCircuit t n mv on) s = .next (u.shortCircuit n)) ∧
  (∀ (t : Nat) (n : Fin 32) (s u : State), s.advance t = u → u.getB (F.GD_CH_STAT_SOFT n) = true → vget u.gate.softUntil n 0 ≤ u.now →
    exec (.softTurnOffEnd t n) s = .next (u.softEnds n)) ∧
  (∀ (t : Nat) (n : Fin 32) (mv held : Nat) (s u : State), s.advance t = u → u.islandUsed n = true → u.getB (F.GD_CH_STAT_VP_OK n) = true → ticksPerUs ≤ held → (mv : Int) < uvpThreshold (u.getF (F.GD_CH_PROT_UVP n)) →
    exec (.gdVpUv t n mv held) s = .next (u.supplyLost n 9 Flt.GD_VP_UV)) ∧
  (∀ (t : Nat) (n : Fin 32) (mv : Int) (held : Nat) (s u : State), s.advance t = u → u.islandUsed n = true → u.getB (F.GD_CH_STAT_VN_OK n) = true → u.getF (F.GD_CH_PROT_UVN n) ≠ 0 → ticksPerUs ≤ held → -1000 * (u.getF (F.GD_CH_PROT_UVN n) : Int) < mv →
    exec (.gdVnUv t n mv held) s = .next (u.supplyLost n 10 Flt.GD_VN_UV)) ∧
  (∀ (t : Nat) (mv held : Nat) (s u : State), s.advance t = u → u.mainUp = true → u.getB F.GD_STAT_VDRV_OK = true → ticksPerUs ≤ held → mv < 9000 →
    exec (.gdVdrvUv t mv held) s = .next (u.vdrvLost)) ∧
  (∀ (t : Nat) (n : Fin 64) (seen : Bool) (held : Nat) (s u : State), s.advance t = u → u.mainUp = true → seen ≠ u.gateOn n → 3200 * (u.getF (F.GD_CH_DRV_GMON_T n) + 1) < held ∨ vget u.gate.cmdAt n 0 + 3200 * (u.getF (F.GD_CH_DRV_GMON_T n) + 1) < u.now → u.monitorsGate n (3200 * (u.getF (F.GD_CH_DRV_GMON_T n) + 1)) = true →
    exec (.gdGateMismatch t n seen held) s = .next ((u.noteSeen n seen).gateMismatch n)) ∧
  (∀ (t : Nat) (n : Fin 32) (mv : Int) (held : Nat) (s u : State), s.advance t = u → ticksPerUs ≤ held → uvpThreshold (u.getF (F.GD_CH_PROT_UVP n)) + 500 ≤ mv →
    exec (.leavesUndervoltage t (.vp n) mv held) s = .next (u.seeVp n true)) ∧
  (∀ (t : Nat) (n : Fin 32) (mv : Int) (held : Nat) (s u : State), s.advance t = u → ticksPerUs ≤ held → u.getF (F.GD_CH_PROT_UVN n) = 0 ∨ mv ≤ -1000 * (u.getF (F.GD_CH_PROT_UVN n) : Int) - 300 →
    exec (.leavesUndervoltage t (.vn n) mv held) s = .next (u.seeVn n true)) ∧
  (∀ (t : Nat) (mv : Int) (held : Nat) (s u : State), s.advance t = u → ticksPerUs ≤ held → 9500 ≤ mv →
    exec (.leavesUndervoltage t .vdrv mv held) s = .next (u.seeVdrv true)) ∧
  (∀ (t : Nat) (n : Fin 4) (v : State) (s u : State), s.advance t = u → u.seeTrip n true = v → v.mainUp = true → v.getF (F.GD_TRIPMAP n) ≠ 0 →
    exec (.tripInputLow t n) s = .next ((v.event F.GD_EVT_EXTTRIP).trip (bitsList 32 (v.getF (F.GD_TRIPMAP n))) { source := n, kind := Flt.GD_EXT_TRIP })) ∧
  (∀ (t : Nat) (n : Fin 4) (s u : State), s.advance t = u →
    exec (.tripInputHigh t n) s = .next (u.seeTrip n false)) ∧
  (∀ (t : Nat) (s u : State), s.advance t = u → u.mainUp = true → u.activeStages ≠ 0 →
    exec (.drvenLow t) s = .next (((u.drvenDrops.event F.GD_EVT_DRVENLOSS).raise Flt.GD_DRVEN_LOSS { stages := u.activeStages }).showModes)) ∧
  (∀ (t : Nat) (s u : State), s.advance t = u → u.activeStages = 0 →
    exec (.drvenLow t) s = .next (u.drvenDrops)) ∧
  (∀ (t : Nat) (since : Nat) (s u : State), s.advance t = u → u.gate.drvenLowAt = some since → since + 10 * ticksPerUs ≤ u.now → u.mainUp = true →
    exec (.drvenCycle t) s = .next (u.drvenClear)) ∧
  (∀ (t : Nat) (since : Nat) (s u : State), s.advance t = u → u.gate.drvenLowAt = some since → u.now < since + 10 * ticksPerUs ∨ u.mainUp = false →
    exec (.drvenCycle t) s = .next (u.drvenHigh)) ∧
  (∀ (u : State) (n : Fin 32), (u.gateOn n = true → u.now < vget u.gate.cmdAt n 0 + 128 * u.getF (F.GD_CH_DRV_T1 n) → u.driveOut n = .source (u.getF (F.GD_CH_DRV_SRC1 n))) ∧
    (u.gateOn n = true → vget u.gate.cmdAt n 0 + 128 * u.getF (F.GD_CH_DRV_T1 n) ≤ u.now → u.driveOut n = .source (u.getF (F.GD_CH_DRV_SRC2 n))) ∧
    (u.gateOn n = false → u.now < vget u.gate.softUntil n 0 → u.driveOut n = .sink (u.getF (F.GD_CH_DRV_SOFTSNK n))) ∧
    (u.gateOn n = false → vget u.gate.softUntil n 0 ≤ u.now → u.driveOut n = if vget u.gate.clamp n false then .clamp else .sink (u.getF (F.GD_CH_DRV_SNK n))))

/-- The edge, carrier and bootstrap events complete with the effect of R133, R135, R147 to R149, R156, R267, R274 and R402 (R133, R135, R139, R141, R147, R148, R149, R156, R267, R274, R402). -/
def Obligations.EdgeAndCarrierEventsComplete : Prop :=
  (∀ (t : Nat) (n : Fin 64) (bst : Bool) (e : Edge) (s u : State), s.advance t = u → nextEdge n u.bat.edges = some e → u.mainUp = true → e.release ≤ u.now →
    exec (.edgeRelease t n bst) s = .next (if e.on then { u with bat := { u.bat with edges := u.bat.edges.erase e } }.releaseOn n e.release else { u with bat := { u.bat with edges := u.bat.edges.erase e } }.releaseOff n e.release bst)) ∧
  (∀ (t : Nat) (n : Fin 64) (d : Nat) (s u : State), s.advance t = u → vget u.gate.minHold n none = some d → d ≤ u.now →
    exec (.minPulseHoldEnd t n) s = .next (u.holdEnds n d)) ∧
  (∀ (t : Nat) (n : Fin 64) (mv : Nat) (s u : State), s.advance t = u → n.val < 32 → u.getB (F.GD_CH_DRV_MCLAMP n) = true → u.gateOn n = false → mv ≤ 2000 → vget u.gate.softUntil n 0 ≤ u.now →
    exec (.millerClamp t n mv) s = .next ({ u with gate := { u.gate with clamp := vset u.gate.clamp n true } })) ∧
  (∀ (t : Nat) (n : Fin 16) (s u : State), s.advance t = u → u.mainUp = true → (u.car n).running = true ∨ (u.car n).waiting = true → 0 < (u.car n).next → (u.car n).next ≤ u.now + 1024 → (u.car n).stopping = false →
    exec (.shadowGuard t n) s = .next (u.guardCar n)) ∧
  (∀ (t : Nat) (n : Fin 16) (s u : State), s.advance t = u → u.mainUp = true → (u.car n).running = true ∨ (u.car n).waiting = true → 0 < (u.car n).next → (u.car n).next ≤ u.now → (u.car n).stopping = false →
    exec (.periodStart t n) s = .next ((u.startPeriod n).softStep n)) ∧
  (∀ (t : Nat) (n : Fin 16) (s u : State), s.advance t = u → u.mainUp = true → (u.car n).running = true → (u.car n).stopping = true → 0 < (u.car n).next → (u.car n).next ≤ u.now →
    exec (.periodStart t n) s = .next (u.stopCar n)) ∧
  (∀ (t : Nat) (s u : State), s.advance t = u →
    exec (.delayLineRecal t) s = .next ({ u with bat := { u.bat with recalAt := u.now } })) ∧
  (∀ (t : Nat) (n : Fin 32) (mv : Nat) (s u : State), s.advance t = u → u.mainUp = true → 16 ≤ n.val → u.hbMode n = 1 ∨ u.hbMode n = 2 → mv < 7200 →
    exec (.bootstrapUndervoltage t n mv) s = .next (u.bstLow n))

/-- The SPI, packet and boot commands complete with the effect of R80 to R82, R129, R489 and R491 (R80, R81, R82, R129, R489, R491). -/
def Obligations.PacketAndBootCommandsComplete : Prop :=
  (∀ (t : Nat) (sdi : List Byte) (s u : State), s.advance t = u → u.mainUp = true → u.portOpen .spi = true → ({ u with com := { u.com with sent := .sdo (u.sdo sdi.length) :: u.com.sent } }.spiDeliver sdi.length).pwr.sleep = none →
    20 ≤ beAt sdi 0 2 → beAt sdi 0 2 ≤ 4096 → 2 + beAt sdi 0 2 ≤ sdi.length →
    ∃ v, exec (.spiTransaction t sdi) s = .next v ∧ ({ u with com := { u.com with sent := .sdo (u.sdo sdi.length) :: u.com.sent } }.spiDeliver sdi.length).spiReceive t ((sdi.drop 2).take (beAt sdi 0 2)) = .next v) ∧
  (∀ (t : Nat) (sdi : List Byte) (s u : State), s.advance t = u → u.mainUp = true → u.portOpen .spi = true → 2 ≤ sdi.length → beAt sdi 0 2 = 0 →
    exec (.spiTransaction t sdi) s = .next ({ u with com := { u.com with sent := .sdo (u.sdo sdi.length) :: u.com.sent } }.spiDeliver sdi.length)) ∧
  (∀ (t : Nat) (sdi : List Byte) (s u : State), s.advance t = u → u.mainUp = true → u.portOpen .spi = true → 2 ≤ sdi.length → ({ u with com := { u.com with sent := .sdo (u.sdo sdi.length) :: u.com.sent } }.spiDeliver sdi.length).pwr.sleep = none → 0 < beAt sdi 0 2 ∧ beAt sdi 0 2 < 20 ∨ 4096 < beAt sdi 0 2 ∨ sdi.length < 2 + beAt sdi 0 2 ∧ beAt sdi 0 2 ≠ 0 →
    exec (.spiTransaction t sdi) s = .next (({ u with com := { u.com with sent := .sdo (u.sdo sdi.length) :: u.com.sent } }.spiDeliver sdi.length).bump F.COM_ERR_DISCARD)) ∧
  (∀ (r : Req) (op : BitVec 16) (s u : State), s.advance r.time = u → definedOps.contains op.toNat = false → u.receives r op.toNat = true →
    (r.port = .spi → u.com.spiOut.length < 8) → r.intact = true → r.crc.toNat = r.wantCrc op.toNat → r.flags = 0 → r.reserved = 0 →
    exec (.undefinedOpcode r op) s = .next (({ u with com := { u.com with slots := u.com.slots ++ [({ ticket := r.ticket op.toNat, background := false, ready := none } : Slot)], lastContact := u.now, hostAt := some u.now } }.markUsed (r.ticket op.toNat)).reject (r.ticket op.toNat) stBadOpcode)) ∧
  (∀ (t : Nat) (port : Port) (bytes : List Byte) (s u : State), s.advance t = u → u.mainUp = true → u.pwr.sleep = none → u.portOpen port = true → intactBytes port bytes = false →
    exec (.packetDiscard t port bytes) s = .next (u.bump F.COM_ERR_DISCARD)) ∧
  (∀ (t : Nat) (port : Port) (bytes : List Byte) (s u : State), s.advance t = u →
    exec (.bootPacketDiscard t port bytes) s = .next (u)) ∧
  (∀ (t : Nat) (mis : BitVec 32) (b : Nat) (s u : State), s.advance t = u → u.pwr.boot = some b → u.pwr.step = 0 → u.pwr.inReset = false → u.pwr.handover = none →
    exec (.boot t mis) s = .next (u.bootSteps mis.toNat)) ∧
  (∀ (t : Nat) (b : Nat) (s u : State), s.advance t = u → u.pwr.boot = some b → u.pwr.step = 8 →
    exec (.bootStandbyReached t) s = .next (u.standbyReached b))

/-- The Ridge's own events change nothing outside the Ridge (R433, R439, R443, R450, R451). -/
def Obligations.RidgeEventsFrame : Prop :=
  ∀ (t k m : Nat) (b : Bool) (n : Fin 8) (mv : Int) (codes : Vector Code24 6) (s v : State),
    (exec (.wpiPulse t) s = .next v ∨ exec (.ridgeEnergySample t codes) s = .next v ∨ exec (.ridgeSecond t) s = .next v ∨ exec (.ridgeMinute t) s = .next v ∨
      exec (.ridgeQuarterHour t) s = .next v ∨ exec (.dayClose t) s = .next v ∨ exec (.sealSigned t) s = .next v ∨ exec (.fieldCheck t k) s = .next v ∨
      exec (.wpiOpenTest t mv) s = .next v ∨ exec (.rdgMbLoss t n k) s = .next v ∨ exec (.rdgMbFlat t n k) s = .next v ∨ exec (.qpRetention t) s = .next v ∨
      exec (.ridgeStart t b) s = .next v ∨ exec (.thatchCheck t b) s = .next v ∨ exec (.ridgeVrdgLoss t k m) s = .next v ∨ exec (.ridgeVrdgReturn t k m) s = .next v ∨
      exec (.shortInterruptionClose t) s = .next v ∨ exec (.ridgeLockoutEnd t) s = .next v ∨ exec (.rdgWitnessLost t) s = .next v) →
    v = { s with now := v.now, rdg := v.rdg, free := v.free }

/-- A computing engine instruction changes its destination register, program counter, loop count and cycle count alone (R194, R195, Table 8.4). -/
def Obligations.EngineInstructionsFrame : Prop :=
  ∀ (e : Fin 16) (d x y z : Fin 32) (q : QFmt) (ch : Fin 72) (fine : Bool) (s t : State),
    (exec (.fadd e d x y) s = .next t ∨ exec (.fsub e d x y) s = .next t ∨ exec (.fmul e d x y) s = .next t ∨ exec (.fma e d x y z) s = .next t ∨
      exec (.fmin e d x y) s = .next t ∨ exec (.fmax e d x y) s = .next t ∨ exec (.fabs e d x) s = .next t ∨ exec (.fneg e d x) s = .next t ∨
      exec (.fdiv e d x y) s = .next t ∨ exec (.fsqrt e d x) s = .next t ∨ exec (.qadd e q d x y) s = .next t ∨ exec (.qsub e q d x y) s = .next t ∨
      exec (.qmul e q d x y) s = .next t ∨ exec (.cvtqf e q d x) s = .next t ∨ exec (.cvtfq e q d x) s = .next t ∨ exec (.atan2 e d y x) s = .next t ∨
      exec (.cvtg e d ch fine) s = .next t ∨ exec (.cvtc e d x) s = .next t ∨ exec (.tlook e d x) s = .next t ∨ exec (.sat e d x) s = .next t) →
    t = { s with le := t.le, free := t.free } ∧ (∀ f : Fin 16, f ≠ e → t.eng f = s.eng f) ∧ (∀ k : Fin 32, k ≠ d → t.leReg e k = s.leReg e k) ∧
    t.eng e = { s.eng e with v := (t.eng e).v, pc := (t.eng e).pc, loops := (t.eng e).loops, cycles := (t.eng e).cycles }

/-- Requests that only read change the communication unit, its error counters, the clock and the free values alone (R81, R82, R83, R85, R96). -/
def Obligations.ReadRequestsFrame : Prop :=
  ∀ (r : Req) (s t : State),
    (exec (.ping r) s = .next t ∨ exec (.getState r) s = .next t ∨ exec (.getVersion r) s = .next t ∨ exec (.identRead r) s = .next t ∨
      exec (.certRead r) s = .next t ∨ exec (.safeStatus r) s = .next t ∨ exec (.faultLogRead r) s = .next t ∨ exec (.lastfaultRead r) s = .next t ∨
      exec (.thermRead r) s = .next t ∨ exec (.wearRead r) s = .next t ∨ exec (.spareStatus r) s = .next t ∨ exec (.gzRead r) s = .next t ∨
      exec (.pilotStatus r) s = .next t ∨ exec (.bkpStatus r) s = .next t) →
    t = { s with now := t.now, com := t.com, regs := t.regs, incs := t.incs, free := t.free } ∧
    (s.Sound → ∀ a : Nat, a ≠ F.COM_ERR_DUP.addr → t.getW a = s.getW a)

/-- The CRC of a request is CRC-32C by the parameters of R76 over header and parameters, with the check value of the spec (R76). -/
def Obligations.Crc32cParameters : Prop :=
  (∀ bs : List Byte, crc32c bs = (crcByParameters bs).toNat) ∧
  crc32c [0x31, 0x32, 0x33, 0x34, 0x35, 0x36, 0x37, 0x38, 0x39] = 0xE3069283 ∧
  ∀ (r : Req) (opcode : Nat), r.wantCrc opcode = crc32c (headerBytes r.version r.flags r.seq opcode r.plen.toNat r.session r.reserved ++ r.params)

/-- RCS registers hold event bits, reserved bits and SEQ; an event sets its bit and increments SEQ modulo 256, and nothing else (R110). -/
def Obligations.EventRegisters : Prop :=
  (∀ r ∈ (List.range 15).flatMap blockRegs, (r.fields.any fun f => f.acc == .rcs) = true →
    (∃ f ∈ r.fields, f.hi = 31 ∧ f.lo = 24) ∧ ∀ f ∈ r.fields, f.acc = .rcs ∧ (f.hi < 24 ∨ (f.hi = 31 ∧ f.lo = 24))) ∧
  (∀ (s : State) (a n : Nat), s.Sound → n < 24 →
    (s.event ⟨a, n, n⟩).getF ⟨a, n, n⟩ = 1 ∧ (s.event ⟨a, n, n⟩).getF ⟨a, 31, 24⟩ = (s.getF ⟨a, 31, 24⟩ + 1) % 256 ∧
    (∀ m, m < 24 → m ≠ n → (s.event ⟨a, n, n⟩).getF ⟨a, m, m⟩ = s.getF ⟨a, m, m⟩) ∧
    (∀ b, b ≠ a → (s.event ⟨a, n, n⟩).getW b = s.getW b) ∧ s.event ⟨a, n, n⟩ = { s with regs := (s.event ⟨a, n, n⟩).regs })

/-- A write of an RCS register clears exactly under the current SEQ; standing causes set their bits again (R108, R111, R112). That a standing bit sets again within the same command, and not one CD3 cycle later, is the model's choice (assumption entry 40). -/
def Obligations.EventClearRule : Prop :=
  ∀ (s : State) (a mask value : Nat), s.Sound →
    (bitsOf mask 31 24 ≠ 255 → s.rcsWrite a mask value = (stBadParam, s)) ∧
    (bitsOf mask 31 24 = 255 → bitsOf value 31 24 ≠ s.getF ⟨a, 31, 24⟩ → s.rcsWrite a mask value = (stStaleSeq, s)) ∧
    (bitsOf mask 31 24 = 255 → bitsOf value 31 24 = s.getF ⟨a, 31, 24⟩ →
      (s.rcsWrite a mask value).1 = stOK ∧
      (∀ n, n < 24 → (s.rcsWrite a mask value).2.getF ⟨a, n, n⟩ = if n ∈ s.standing a then 1 else 0) ∧
      (s.rcsWrite a mask value).2.getF ⟨a, 31, 24⟩ = (s.getF ⟨a, 31, 24⟩ + (s.standing a).length) % 256 ∧
      (∀ b, b ≠ a → (s.rcsWrite a mask value).2.getW b = s.getW b))

/-- A request whose sequence number is in the cache of its session is not executed (R82, R85). -/
def Obligations.DuplicateNotExecuted : Prop :=
  ∀ (o : Op) (lo : Nat → Bool) (r : Req) (body : Ticket → State → Res) (s : State) (x : Session) (e : CacheEntry),
    s.passesFour o r = true → r.session ≠ 0 → s.session r.session = some x → x.cache.find? (fun y => y.seq == r.seq) = some e →
    (e.crc = r.crc → ∀ rep, e.reply = some rep → serve o lo r body s = (s.afterFour o r).resend (r.ticket o.code) rep) ∧
    (e.crc = r.crc → e.reply = none → serve o lo r body s = ((s.afterFour o r).bump F.COM_ERR_DUP).mute (r.ticket o.code)) ∧
    (e.crc ≠ r.crc → serve o lo r body s = (s.afterFour o r).refill (r.ticket o.code) (mkReply (r.ticket o.code) stBadParam []))

/-- DRVEN low turns every gate off and releases every ASC pattern (R284, R13). -/
def Obligations.DrvenLowBlocksGates : Prop :=
  ∀ (s : State) (ch st : Nat), s.Sound →
    s.drvenDrops.gateOn ch = false ∧ s.drvenDrops.ascOn st = false ∧ s.drvenDrops.getF F.GD_STAT_DRVEN = 0 ∧
    (∀ h, h < 32 → s.drvenDrops.hb h = { s.hb h with bar0 := true, bar1 := true }) ∧
    s.drvenDrops = { s with regs := s.drvenDrops.regs, gate := s.drvenDrops.gate, bat := { s.bat with hbs := s.drvenDrops.bat.hbs }, slt := { s.slt with kind := s.drvenDrops.slt.kind } }

/-- A wheel pulse adds 1,000 / WPI_K metres to the odometer, which shows whole metres (R439). -/
def Obligations.WheelPulseOdometer : Prop :=
  ∀ (t : Nat) (s u : State), s.advance t = u → u.qpRunning = true → 0 < u.wpiK →
    ∃ v, exec (.wpiPulse t) s = .next v ∧ v.rdg.odo = u.rdg.odo + 1000 / u.wpiK ∧ v.odometer = floorNat (u.rdg.odo + 1000 / u.wpiK)

/-- The root of a day is the Merkle tree hash of its leaves in the order of R453 (R453). -/
def Obligations.DaySealRoot : Prop :=
  (∀ (s : State) (day : Nat), ∃ l : List (List Byte), s.dayRoot day = merkle l.length l ∧
    l = ((s.rdg.motions.filter fun e => e.day == day).reverse.map fun e => sha256 (0 :: 1 :: e.bytes)) ++
      ((s.rdg.energies.filter fun e => e.day == day).reverse.map fun e => sha256 (0 :: 2 :: e.bytes)) ++
      ((s.rdg.sessions.filter fun e => e.day == day).reverse.map fun e => sha256 (0 :: 3 :: e.bytes)) ++
      ((s.rdg.dayEvents.filter fun e => e.day == day).reverse.map fun e => sha256 (0 :: 4 :: e.bytes))) ∧
  merkle 0 [] = sha256 [] ∧ (∀ h, merkle 1 [h] = h) ∧
  (∀ l : List (List Byte), 2 ≤ l.length → ∃ k : Nat, 2 ^ k < l.length ∧ l.length ≤ 2 * 2 ^ k ∧
    merkle l.length l = sha256 (1 :: (merkle (l.take (2 ^ k)).length (l.take (2 ^ k)) ++ merkle (l.drop (2 ^ k)).length (l.drop (2 ^ k))))) ∧
  sha256 [0x61, 0x62, 0x63] = [0xBA, 0x78, 0x16, 0xBF, 0x8F, 0x01, 0xCF, 0xEA, 0x41, 0x41, 0x40, 0xDE, 0x5D, 0xAE, 0x22, 0x23,
    0xB0, 0x03, 0x61, 0xA3, 0x96, 0x17, 0x7A, 0x9C, 0xB4, 0x10, 0xFF, 0x61, 0xF2, 0x00, 0x15, 0xAD]

/-- RIDGE_SEAL is accepted once, with signatures, on the present parameter-set hash, and seals, counts and records (R461). -/
def Obligations.SealRules : Prop :=
  ∀ (s : State) (slot : Nat) (body : List Byte),
    (body ≠ paramHash s.rdg.params → s.rdgSeal slot body = (stBadParam, s)) ∧
    (body = paramHash s.rdg.params → s.rdg.sealed = 1 → s.rdgSeal slot body = (stWriteOnceSpent, s)) ∧
    (body = paramHash s.rdg.params → s.rdg.sealed = 2 → s.rdgSeal slot body = (stStateRefused, s)) ∧
    (slot = 0xFF → (s.rdgSeal slot body).1 ≠ stOK ∧ (s.rdgSeal slot body).2 = s) ∧
    (body = paramHash s.rdg.params → s.rdg.sealed = 0 → slot ≠ 0xFF → s.rdgScaled = true → s.rdg.lec < 0xFFFFFFFF → (s.rdgSeal slot body).1 = stOK) ∧
    ((s.rdgSeal slot body).1 = stOK →
      (s.rdgSeal slot body).2.rdg.sealed = 1 ∧ (s.rdgSeal slot body).2.rdg.lec = s.rdg.lec + 1 ∧
      (s.rdgSeal slot body).2.rdg.nEvent = s.rdg.nEvent + 1 ∧
      ∃ e rest, (s.rdgSeal slot body).2.rdg.events.head? = some e ∧ e.num = s.rdg.nEvent ∧ e.bytes = beBytes 4 s.rdg.nEvent ++ (beBytes 4 s.rdgTime ++ (beBytes 2 0xC001 ++ rest)))

/-- A packet has an intact header exactly under the four conditions of R81; any other is discarded, counted and not answered (R81). -/
def Obligations.HeaderCheckDiscards : Prop :=
  ∀ (t : Nat) (p : Port) (bs : List Byte) (s u : State), s.advance t = u → u.mainUp = true → u.pwr.sleep = none → u.portOpen p = true →
    ((20 ≤ bs.length ∧ bs.getD 0 0 = 1 ∧ (p = .spi → beAt bs 6 2 = bs.length - 20) ∧ (p ≠ .spi → beAt bs 6 2 ≤ bs.length - 20) ∧ beAt bs 6 2 + 20 ≤ maxPacket p false) →
      exec (.packetDiscard t p bs) s = .next u) ∧
    (¬ (20 ≤ bs.length ∧ bs.getD 0 0 = 1 ∧ (p = .spi → beAt bs 6 2 = bs.length - 20) ∧ (p ≠ .spi → beAt bs 6 2 ≤ bs.length - 20) ∧ beAt bs 6 2 + 20 ≤ maxPacket p false) →
      exec (.packetDiscard t p bs) s = .next (u.bump F.COM_ERR_DISCARD) ∧ (u.bump F.COM_ERR_DISCARD).com = u.com)

/-- REG_WRITE into the RDG_ block is answered LOCKED, sets MIRROR_W and reaches the Ridge only as a notice (R119, R120). -/
def Obligations.MirrorWriteRefused : Prop :=
  ∀ (r : Req) (s u : State), s.Sound → admitOp { code := 0x0101, level := if 4 ≤ r.params.length then writeLevel (r.num 0 4) else 1, lens := [12] } r s = .served u → r.num 0 4 / 65536 = 0xD →
    ∃ v : State, exec (.regWrite r) s = .next (v.answer (r.ticket 0x0101) stLocked []) ∧ v.getF F.SYS_WRSTAT_MIRROR_W = 1 ∧
      v.wit.notices = u.wit.notices ++ [(r.num 0 4, 0)] ∧ v.rdg = u.rdg

/-- APPLY_HOLD while a hold is open changes nothing: OK to its owner, BUSY to another session (R117). -/
def Obligations.SecondHoldRefused : Prop :=
  ∀ (r : Req) (s u : State) (h : Hold), admitOp { code := 0x0104 } r s = .served u → u.com.hold = some h →
    exec (.applyHold r) s = .next (u.answer (r.ticket 0x0104) (if h.session = r.session then stOK else stBusy) [])

/-- Registers of each block read their Reset column after reset (R6, R71, R102, R132, R161, R264, R291, R314, R346, R368, R393, R429). -/
def Obligations.ResetValues : Prop :=
  State.reset.power = 3 ∧ State.reset.getF F.COM_CFG_SESSION_IDLE = 30 ∧ State.reset.getF F.SYS_IMG_STAGE_ERR_RECORD = 0xFFFF ∧
  State.reset.getF (F.PWM_CH_DT 0) = 6400 ∧ State.reset.getF (F.PWM_HB_MINP_TMINP 0) = 1280 ∧
  State.reset.getF (F.GD_TRIPMAP 0) = 0xFFFFFFFF ∧ State.reset.getF F.TRC_CFG_SETS = 3 ∧ State.reset.getF F.CHG_VPFC = 750 ∧ State.reset.getF F.AUX_ILIM = 0x43B28000 ∧
  State.reset.getF F.ACT_CFG_NPOS = 3 ∧ State.reset.getF (F.THM_STG_LIM_TJLIM 0) = 150 ∧ State.reset.getF F.SLT_LOGIDX_NEWEST = 0xFFFF ∧
  State.reset.getF F.PWR_WAKE_EN = 31 ∧ State.reset.getF F.PWR_CFG_SLEEP_TIMEOUT = 600 ∧ State.reset.getF F.COM_CAN_ID_REQ_ID = 0x6A0 ∧ State.reset.getF F.RDG_AGE = 0xFFFF

/-- The first check of R82 that fails decides the reply: CRC, reserved fields, recovery, session and level, length (R82, R84). -/
def Obligations.CheckOrder : Prop :=
  ∀ (o : Op) (lo : Nat → Bool) (r : Req) (body : Ticket → State → Res) (s u v : State), s.advance r.time = u → u.receives r o.code = true →
    (r.port = .spi → u.com.spiOut.length < 8) → r.intact = true → ({ u.enqueue o r with com := { (u.enqueue o r).com with lastContact := u.now, hostAt := some u.now } } : State).markUsed (r.ticket o.code) = v →
    (r.crc.toNat ≠ r.wantCrc o.code → serve o lo r body s = ((u.enqueue o r).bump F.COM_ERR_CRC_ERR).reject (r.ticket o.code) stBadCrc) ∧
    (r.crc.toNat = r.wantCrc o.code → (r.flags ≠ 0 ∨ r.reserved ≠ 0) → serve o lo r body s = v.reject (r.ticket o.code) stBadParam) ∧
    (r.crc.toNat = r.wantCrc o.code → r.flags = 0 → r.reserved = 0 →
      (u.getB F.SYS_BOOT_RECOVERY = true → o.code ∉ recoveryOps → serve o lo r body s = v.reject (r.ticket o.code) stStateRefused) ∧
      (u.getB F.SYS_BOOT_RECOVERY = false ∨ o.code ∈ recoveryOps →
        ((r.session = 0 ∧ 0 < o.level) ∨ (r.session ≠ 0 ∧ ∀ x, u.session r.session = some x → x.port = r.port → x.mac = senderKey r.port r.mac → x.level < o.level) →
          serve o lo r body s = v.reject (r.ticket o.code) stNotPrivileged) ∧
        (r.session = 0 → o.level = 0 → lo r.params.length = false → serve o lo r body s = v.answer (r.ticket o.code) stBadLength [])))
end

