-- ==== Sys2Proof/Laws/KeepsBase.lean ====
section
/-! SUPPORT. What every step keeps (the queue, the clock's direction, soundness, and what the Ridge never takes back), and how changes of parts of the state keep it. -/

namespace Sys2Proof.Machine
open Sys2Proof

theorem Ridge.Kept.refl (a : Ridge) : a.Kept a := ⟨Nat.le_refl _, id, id, le_refl _, le_refl _, le_refl _, Nat.le_refl _⟩

theorem Ridge.Kept.trans {a b c : Ridge} (h : a.Kept b) (g : b.Kept c) : a.Kept c :=
  ⟨Nat.le_trans h.lec g.lec, fun x => g.broken (h.broken x), fun x => g.keys (h.keys x), le_trans h.imp g.imp, le_trans h.exp g.exp, le_trans h.odo g.odo,
    Nat.le_trans h.events g.events⟩

/-- Soundness with a bound of its own for the cache of each session. -/
structure State.SoundUnder (b : Word → Nat) (s : State) : Prop where
  sessions : s.com.sessions.length ≤ 4
  caches : ∀ x ∈ s.com.sessions, x.cache.length ≤ b x.id
  recs : s.log.recs.length ≤ 256
  fifo : s.log.fifo.length ≤ 32
  held : s.heldWrites ≤ 64
  regs : RegsCanonical s.regs

theorem State.Sound.under {s : State} (h : s.Sound) {b : Word → Nat} (hb : ∀ i, 16 ≤ b i) : s.SoundUnder b :=
  ⟨h.1, fun x hx => Nat.le_trans (h.2 x hx) (hb _), h.3, h.4, h.5, h.6⟩

theorem State.SoundUnder.sound {s : State} (h : s.SoundUnder fun _ => 16) : s.Sound := ⟨h.1, h.2, h.3, h.4, h.5, h.6⟩

/-- A step keeps the queue, the clock's direction, soundness, and what the Ridge never takes back. Soundness is kept under every bound of the caches from 16 on: a request being carried out stands in its session's cache as one more. -/
def Keeps (z t : State) : Prop :=
  t.pending = z.pending ∧ z.now ≤ t.now ∧ z.rdg.Kept t.rdg ∧ ∀ b : Word → Nat, (∀ i, 16 ≤ b i) → z.SoundUnder b → t.SoundUnder b

theorem Keeps.refl (z : State) : Keeps z z := ⟨rfl, Nat.le_refl _, Ridge.Kept.refl _, fun _ _ => id⟩

theorem Keeps.sound {z t : State} (h : Keeps z t) (hz : z.Sound) : t.Sound := (h.2.2.2 _ (fun _ => Nat.le_refl _) (hz.under fun _ => Nat.le_refl _)).sound

theorem Keeps.trans {a b c : State} (h : Keeps a b) (g : Keeps b c) : Keeps a c :=
  ⟨g.1.trans h.1, Nat.le_trans h.2.1 g.2.1, h.2.2.1.trans g.2.2.1, fun b hb x => g.2.2.2 b hb (h.2.2.2 b hb x)⟩

/-- A change outside what soundness is about. -/
theorem Keeps.same {z s t : State} (h : Keeps z s) (e1 : t.pending = s.pending) (e2 : t.now = s.now) (e3 : t.regs = s.regs) (er : t.rdg = s.rdg)
    (e4 : t.com.sessions = s.com.sessions) (e5 : t.log.recs = s.log.recs) (e6 : t.log.fifo = s.log.fifo) (e7 : t.shadow = s.shadow) : Keeps z t := by
  refine h.trans ⟨e1, by rw [e2], by rw [er]; exact Ridge.Kept.refl _, fun b hb x => ⟨?_, ?_, ?_, ?_, ?_, ?_⟩⟩
  · rw [e4]; exact x.1
  · rw [e4]; exact x.2
  · rw [e5]; exact x.3
  · rw [e6]; exact x.4
  · rw [State.heldWrites, e7]; exact x.5
  · rw [e3]; exact x.6

theorem Keeps.mk_iff {z t : State} {a1 a2 a3 a4 a5 a6 a7 a8 a9 a10 a11 a12 a13 a14 a15 a16 a17 a19 a20} :
    Keeps z (State.mk t.now t.regs t.shadow a1 t.com a2 t.log a3 a4 a5 a6 a7 a8 a9 a10 a11 a12 a13 a14 a15 a16 a17 t.rdg a19 a20 t.pending) ↔ Keeps z t :=
  ⟨fun h => h.same rfl rfl rfl rfl rfl rfl rfl rfl, fun h => h.same rfl rfl rfl rfl rfl rfl rfl rfl⟩

theorem Keeps.mkCom_iff {z t : State} {a1 a2 a3 a4 a5 a6 a7 a8 a9 a10 a11 a12 a13 a14 a15 a16 a17 a19 a20} {b1 b2 b3 b4 b5 b6 b7 b8 b9 b10 b11 b12 b13 b14 b15 b16 b17} :
    Keeps z (State.mk t.now t.regs t.shadow a1 (Com.mk t.com.sessions b1 b2 b3 b4 b5 b6 b7 b8 b9 b10 b11 b12 b13 b14 b15 b16 b17) a2 t.log a3 a4 a5 a6 a7 a8 a9 a10 a11 a12 a13 a14 a15 a16 a17 t.rdg a19 a20 t.pending) ↔ Keeps z t :=
  ⟨fun h => h.same rfl rfl rfl rfl rfl rfl rfl rfl, fun h => h.same rfl rfl rfl rfl rfl rfl rfl rfl⟩

theorem Keeps.mkLog_iff {z t : State} {a1 a2 a3 a4 a5 a6 a7 a8 a9 a10 a11 a12 a13 a14 a15 a16 a17 a19 a20} {b1 b2 b3 b4 b5 b6 b7 b8} :
    Keeps z (State.mk t.now t.regs t.shadow a1 t.com a2 (FaultLog.mk t.log.recs b1 t.log.fifo b2 b3 b4 b5 b6 b7 b8) a3 a4 a5 a6 a7 a8 a9 a10 a11 a12 a13 a14 a15 a16 a17 t.rdg a19 a20 t.pending) ↔ Keeps z t :=
  ⟨fun h => h.same rfl rfl rfl rfl rfl rfl rfl rfl, fun h => h.same rfl rfl rfl rfl rfl rfl rfl rfl⟩

/-- A change of the Ridge that takes back nothing it keeps. -/
theorem Keeps.rdg {z s : State} (h : Keeps z s) {r : Ridge} (k : s.rdg.Kept r) : Keeps z { s with rdg := r } :=
  h.trans ⟨rfl, Nat.le_refl _, k, fun _ _ x => ⟨x.1, x.2, x.3, x.4, x.5, x.6⟩⟩

/-- A change of the shadow that keeps no more writes back than before. -/
theorem Keeps.shadowed {z s t : State} (h : Keeps z s) (e1 : t.pending = s.pending) (e2 : t.now = s.now) (e3 : t.regs = s.regs) (er : t.rdg = s.rdg)
    (e4 : t.com.sessions = s.com.sessions) (e5 : t.log.recs = s.log.recs) (e6 : t.log.fifo = s.log.fifo) (e7 : t.heldWrites ≤ s.heldWrites) : Keeps z t := by
  refine h.trans ⟨e1, by rw [e2], by rw [er]; exact Ridge.Kept.refl _, fun b hb x => ⟨?_, ?_, ?_, ?_, ?_, ?_⟩⟩
  · rw [e4]; exact x.1
  · rw [e4]; exact x.2
  · rw [e5]; exact x.3
  · rw [e6]; exact x.4
  · exact Nat.le_trans e7 x.5
  · rw [e3]; exact x.6

/-- A change of the communication unit whose sessions keep their number and caches. -/
theorem Keeps.coms {z s t : State} (h : Keeps z s) (e1 : t.pending = s.pending) (e2 : t.now = s.now) (e3 : t.regs = s.regs) (er : t.rdg = s.rdg)
    (e4 : t.com.sessions.length ≤ s.com.sessions.length)
    (e8 : ∀ b : Word → Nat, (∀ i, 16 ≤ b i) → (∀ x ∈ s.com.sessions, x.cache.length ≤ b x.id) → ∀ x ∈ t.com.sessions, x.cache.length ≤ b x.id)
    (e5 : t.log.recs = s.log.recs) (e6 : t.log.fifo = s.log.fifo) (e7 : t.shadow = s.shadow) : Keeps z t := by
  refine h.trans ⟨e1, by rw [e2], by rw [er]; exact Ridge.Kept.refl _, fun b hb x => ⟨?_, ?_, ?_, ?_, ?_, ?_⟩⟩
  · exact Nat.le_trans e4 x.1
  · exact e8 b hb x.2
  · rw [e5]; exact x.3
  · rw [e6]; exact x.4
  · rw [State.heldWrites, e7]; exact x.5
  · rw [e3]; exact x.6

/-- A change of the log within its bounds. -/
theorem Keeps.logged {z s t : State} (h : Keeps z s) (e1 : t.pending = s.pending) (e2 : t.now = s.now) (e3 : t.regs = s.regs) (er : t.rdg = s.rdg)
    (e4 : t.com.sessions = s.com.sessions) (e5 : s.log.recs.length ≤ 256 → t.log.recs.length ≤ 256)
    (e6 : s.log.fifo.length ≤ 32 → t.log.fifo.length ≤ 32) (e7 : t.shadow = s.shadow) : Keeps z t := by
  refine h.trans ⟨e1, by rw [e2], by rw [er]; exact Ridge.Kept.refl _, fun b hb x => ⟨?_, ?_, ?_, ?_, ?_, ?_⟩⟩
  · rw [e4]; exact x.1
  · rw [e4]; exact x.2
  · exact e5 x.3
  · exact e6 x.4
  · rw [State.heldWrites, e7]; exact x.5
  · rw [e3]; exact x.6

theorem Keeps.foldl {α : Type} {z : State} {f : State → α → State} (hf : ∀ x a, Keeps z x → Keeps z (f x a)) {s : State} (h : Keeps z s) (l : List α) :
    Keeps z (l.foldl f s) := by
  induction l generalizing s with
  | nil => exact h
  | cons a l ih => exact ih (hf s a h)

theorem Keeps.foldlSnd {α β : Type} {z : State} {f : β × State → α → β × State} (hf : ∀ x a, Keeps z x.2 → Keeps z (f x a).2) {p : β × State} (h : Keeps z p.2) (l : List α) :
    Keeps z (l.foldl f p).2 := by
  induction l generalizing p with
  | nil => exact h
  | cons a l ih => exact ih (hf p a h)

theorem Keeps.snd {β : Type} {z : State} {p : β × State} {b : β} {t : State} (e : p = (b, t)) (h : Keeps z p.2) : Keeps z t := by subst e; exact h

theorem Keeps.fst {β : Type} {z : State} {p : State × β} {b : β} {t : State} (e : p = (t, b)) (h : Keeps z p.1) : Keeps z t := by subst e; exact h

theorem Keeps.ite {z a b : State} {c : Prop} [Decidable c] (h : Keeps z a) (g : Keeps z b) : Keeps z (if c then a else b) := by split <;> assumption

/-- What an answer that may carry a state keeps. -/
def KeepsOpt (z : State) : Option State → Prop
  | some t => Keeps z t
  | none => True

def KeepsOptFst {β : Type} (z : State) : Option (State × β) → Prop
  | some t => Keeps z t.1
  | none => True

def KeepsOut (z : State) : Out → Prop
  | .next t => Keeps z t
  | _ => True

def KeepsRes (z : State) : Res → Prop
  | .done _ _ t => Keeps z t
  | .later t => Keeps z t

/-- What a state keeps in which the request of a ticket has been entered: the cache of its session may hold one more. -/
def KeepsServed (z : State) (id : Word) (u : State) : Prop :=
  u.pending = z.pending ∧ z.now ≤ u.now ∧ z.rdg.Kept u.rdg ∧
  ∀ b : Word → Nat, (∀ i, 16 ≤ b i) → z.SoundUnder b → u.SoundUnder fun i => if i = id then b i + 1 else b i

theorem Keeps.enters {z t : State} (h : Keeps z t) (id : Word) : KeepsServed z id t :=
  ⟨h.1, h.2.1, h.2.2.1, fun b hb x => by
    have y := h.2.2.2 b hb x
    exact ⟨y.1, fun w hw => Nat.le_trans (y.2 w hw) (by split <;> omega), y.3, y.4, y.5, y.6⟩⟩

def KeepsAdmit (z : State) (id : Word) : Admit → Prop
  | .served t => KeepsServed z id t
  | .ended t => Keeps z t

def KeepsChunk (z : State) : ChunkRes → Prop
  | .more t => Keeps z t
  | .whole _ t => Keeps z t
  | _ => True

theorem KeepsOpt.of {z t : State} {o : Option State} (e : o = some t) (h : KeepsOpt z o) : Keeps z t := by subst e; exact h
theorem KeepsOptFst.of {β : Type} {z t : State} {b : β} {o : Option (State × β)} (e : o = some (t, b)) (h : KeepsOptFst z o) : Keeps z t := by subst e; exact h
theorem Keeps.out {z t : State} (h : Keeps z t) : KeepsOut z (.next t) := h
theorem Keeps.done {z t : State} (h : Keeps z t) {n d} : KeepsRes z (.done n d t) := h
theorem Keeps.later {z t : State} (h : Keeps z t) : KeepsRes z (.later t) := h
theorem KeepsServed.served {z t : State} {id} (h : KeepsServed z id t) : KeepsAdmit z id (.served t) := h
theorem Keeps.ended {z t : State} {id} (h : Keeps z t) : KeepsAdmit z id (.ended t) := h
theorem Keeps.present {z t : State} (h : Keeps z t) : KeepsOpt z (Option.some t) := h
theorem Keeps.presentFst {β : Type} {z t : State} {b : β} (h : Keeps z t) : KeepsOptFst z (Option.some (t, b)) := h
theorem Keeps.pairSnd {β : Type} {z t : State} {b : β} (h : Keeps z t) : Keeps z (b, t).2 := h
theorem Keeps.pairFst {β : Type} {z t : State} {b : β} (h : Keeps z t) : Keeps z (t, b).1 := h
theorem KeepsRes.ofDone {z t : State} {n d} {r : Res} (e : r = .done n d t) (h : KeepsRes z r) : Keeps z t := by subst e; exact h
theorem KeepsRes.ofLater {z t : State} {r : Res} (e : r = .later t) (h : KeepsRes z r) : Keeps z t := by subst e; exact h
theorem KeepsAdmit.ofServed {z t : State} {id} {r : Admit} (e : r = .served t) (h : KeepsAdmit z id r) : KeepsServed z id t := by subst e; exact h
theorem KeepsAdmit.ofEnded {z t : State} {id} {r : Admit} (e : r = .ended t) (h : KeepsAdmit z id r) : Keeps z t := by subst e; exact h
theorem KeepsChunk.ofMore {z t : State} {r : ChunkRes} (e : r = .more t) (h : KeepsChunk z r) : Keeps z t := by subst e; exact h
theorem KeepsChunk.ofWhole {z t : State} {b} {r : ChunkRes} (e : r = .whole b t) (h : KeepsChunk z r) : Keeps z t := by subst e; exact h

/-- One register word changed: the list stays canonical. -/
theorem sparsePut_mem {d : Word} {a : Nat} {w : Word} {l : List (Nat × Word)} {p : Nat × Word} (h : p ∈ sparsePut d a w l) :
    p ∈ l ∨ (p = (a, w) ∧ w ≠ d) := by
  induction l with
  | nil => simp only [sparsePut] at h; split at h <;> simp_all
  | cons q l ih =>
    obtain ⟨b, v⟩ := q
    simp only [sparsePut] at h
    grind

theorem sparsePut_canonical {a : Nat} {w : Word} {l : List (Nat × Word)} (h : RegsCanonical l) : RegsCanonical (sparsePut (resetWord a) a w l) := by
  constructor
  · have h1 := h.1
    clear h
    induction l with
    | nil => simp only [sparsePut]; split <;> simp
    | cons q l ih =>
      obtain ⟨b, v⟩ := q
      have hl := List.pairwise_cons.1 h1
      simp only [sparsePut]
      split
      · split
        · exact hl.2
        · subst_vars; exact List.pairwise_cons.2 ⟨hl.1, hl.2⟩
      · split
        · split
          · exact h1
          · refine List.pairwise_cons.2 ⟨?_, h1⟩
            intro p hp
            rcases List.mem_cons.1 hp with rfl | hp
            · assumption
            · exact Nat.lt_trans (by assumption) (hl.1 p hp)
        · refine List.pairwise_cons.2 ⟨?_, ih hl.2⟩
          intro p hp
          rcases sparsePut_mem hp with hp | ⟨rfl, _⟩
          · exact hl.1 p hp
          · simp only; omega
  · intro p hp
    rcases sparsePut_mem hp with hp | ⟨rfl, hw⟩
    · exact h.2 p hp
    · exact hw

theorem State.setW_keeps {z s : State} {a w} (h : Keeps z s) : Keeps z (State.setW s a w) := by
  refine h.trans ⟨rfl, Nat.le_refl _, Ridge.Kept.refl _, fun b hb x => ⟨x.1, x.2, x.3, x.4, x.5, sparsePut_canonical x.6⟩⟩

theorem State.advance_keeps {z s : State} {t} (h : Keeps z s) : Keeps z (State.advance s t) :=
  h.trans ⟨rfl, Nat.le_max_left _ _, Ridge.Kept.refl _, fun _ _ x => ⟨x.1, x.2, x.3, x.4, x.5, x.6⟩⟩

theorem heldFilter_le {l m : List PendWrite} (h : m.Sublist l) : (m.filter fun w => w.held).length ≤ (l.filter fun w => w.held).length :=
  (h.filter _).length_le

theorem heldMap_le {l : List PendWrite} {f : PendWrite → PendWrite} (hf : ∀ w, (f w).held = true → w.held = true) :
    ((l.map f).filter fun w => w.held).length ≤ (l.filter fun w => w.held).length := by
  induction l with
  | nil => simp
  | cons w l ih =>
    simp only [List.map_cons, List.filter_cons]
    have := hf w
    split <;> split <;> simp_all
    omega

theorem KeepsChunk.bad {z : State} : KeepsChunk z .bad := True.intro
theorem KeepsChunk.busy {z : State} : KeepsChunk z .busy := True.intro
theorem KeepsOpt.none {z : State} : KeepsOpt z Option.none := True.intro
theorem KeepsOptFst.none {β : Type} {z : State} : KeepsOptFst (β := β) z Option.none := True.intro
theorem Keeps.more {z t : State} (h : Keeps z t) : KeepsChunk z (.more t) := h
theorem Keeps.whole {z t : State} (h : Keeps z t) {b} : KeepsChunk z (.whole b t) := h

theorem odo_grows (a w : Rat) [Decidable (0 < w)] : a ≤ if 0 < w then a + 1000 / w else a := by
  split
  · exact le_add_of_nonneg_right (by positivity)
  · exact le_refl _

theorem imp_grows (a p : Rat) (b : Bool) [Decidable (0 < p)] : a ≤ if (b && decide (0 < p)) = true then a + p * 5 / 18 else a := by
  split
  · rename_i h
    have : 0 < p := of_decide_eq_true (Bool.and_eq_true _ _ ▸ h).2
    exact le_add_of_nonneg_right (by positivity)
  · exact le_refl _

theorem exp_grows (a p : Rat) (b : Bool) [Decidable (p < 0)] : a ≤ if (b && decide (p < 0)) = true then a - p * 5 / 18 else a := by
  split
  · rename_i h
    have : p < 0 := of_decide_eq_true (Bool.and_eq_true _ _ ▸ h).2
    linarith
  · exact le_refl _

theorem lec_grows (a : Nat) : a ≤ if a < 0xFFFFFFFF then a + 1 else a := by split <;> omega

end Sys2Proof.Machine
end

