-- ==== Sys2Proof/Laws/KeepsOps.lean ====
section
/-! SUPPORT. The operations and meanings of Machine/Ops.lean keep what every step keeps. -/

set_option linter.unreachableTactic false
set_option linter.unusedTactic false
set_option linter.unusedSimpArgs false
set_option linter.tactic.unusedName false
set_option linter.unusedVariables false

namespace Sys2Proof.Machine
open Sys2Proof


theorem State.setF_keeps {z s : State} {x1 x2} (h : Keeps z s) : Keeps z (State.setF s x1 x2) := by
  unfold State.setF
  repeat' first
    | with_reducible assumption
    | with_reducible apply State.setW_keeps

theorem State.setB_keeps {z s : State} {x1 x2} (h : Keeps z s) : Keeps z (State.setB s x1 x2) := by
  unfold State.setB
  repeat' first
    | with_reducible assumption
    | with_reducible apply State.setF_keeps

theorem State.setFl_keeps {z s : State} {x1 x2} (h : Keeps z s) : Keeps z (State.setFl s x1 x2) := by
  unfold State.setFl
  repeat' first
    | with_reducible assumption
    | with_reducible apply State.setF_keeps

theorem State.setQ_keeps {z s : State} {x1 x2} (h : Keeps z s) : Keeps z (State.setQ s x1 x2) := by
  unfold State.setQ
  repeat' first
    | with_reducible assumption
    | with_reducible apply State.setFl_keeps

theorem State.setBit_keeps {z s : State} {x1 x2 x3} (h : Keeps z s) : Keeps z (State.setBit s x1 x2 x3) := by
  unfold State.setBit
  repeat' first
    | with_reducible assumption
    | with_reducible apply State.setF_keeps

theorem State.draw_keeps {z s : State} (h : Keeps z s) : Keeps z (State.draw s).2 := by
  unfold State.draw
  repeat' first
    | with_reducible assumption
    | simp -zeta only [Keeps.mk_iff, Keeps.mkCom_iff, Keeps.mkLog_iff]

theorem State.event_keeps {z s : State} {x1} (h : Keeps z s) : Keeps z (State.event s x1) := by
  unfold State.event
  repeat' first
    | with_reducible assumption
    | with_reducible apply State.setW_keeps

theorem State.eventBit_keeps {z s : State} {x1 x2} (h : Keeps z s) : Keeps z (State.eventBit s x1 x2) := by
  unfold State.eventBit
  repeat' first
    | with_reducible assumption
    | with_reducible apply State.event_keeps

theorem State.bumpBy_keeps {z s : State} {x1 x2} (h : Keeps z s) : Keeps z (State.bumpBy s x1 x2) := by
  unfold State.bumpBy
  repeat' first
    | with_reducible assumption
    | with_reducible apply State.setF_keeps
    | simp -zeta only [Keeps.mk_iff, Keeps.mkCom_iff, Keeps.mkLog_iff]
    | (extract_lets +onlyGivenNames u; refine (?_ : Keeps z u → _) ?_; rotate_left; unfold u; rotate_left; intro hu; try clear_value u)
    | (extract_lets +onlyGivenNames u; try clear_value u)

theorem State.bump_keeps {z s : State} {x1} (h : Keeps z s) : Keeps z (State.bump s x1) := by
  unfold State.bump
  repeat' first
    | with_reducible assumption
    | with_reducible apply State.bumpBy_keeps

theorem State.wrap_keeps {z s : State} {x1} (h : Keeps z s) : Keeps z (State.wrap s x1) := by
  unfold State.wrap
  repeat' first
    | with_reducible assumption
    | with_reducible apply State.setF_keeps

theorem applied_held (out : PendWrite → Nat) (l : List PendWrite) : ((applied out l).filter fun w => w.held).length = (l.filter fun w => w.held).length := by
  induction l with
  | nil => rfl
  | cons w l ih =>
    simp only [applied, List.filter_cons]
    split <;> simp [ih]

theorem State.applyBits_keeps {z s : State} {out} (h : Keeps z s) : Keeps z (State.applyBits s out) := by
  unfold State.applyBits
  refine Keeps.foldl (fun x a hx => Keeps.ite hx (State.setW_keeps hx)) ?_ _
  exact h.shadowed rfl rfl rfl rfl rfl rfl rfl (Nat.le_trans (heldFilter_le List.filter_sublist) (Nat.le_of_eq (applied_held out s.shadow)))

theorem State.seeDrven_keeps {z s : State} {x1} (h : Keeps z s) : Keeps z (Sys2Proof.Machine.State.seeDrven s x1) := by
  unfold State.seeDrven
  repeat' first
    | with_reducible assumption
    | with_reducible apply State.setB_keeps
    | simp -zeta only [Keeps.mk_iff, Keeps.mkCom_iff, Keeps.mkLog_iff]

theorem State.seeTrip_keeps {z s : State} {x1 x2} (h : Keeps z s) : Keeps z (Sys2Proof.Machine.State.seeTrip s x1 x2) := by
  unfold State.seeTrip
  repeat' first
    | with_reducible assumption
    | with_reducible apply State.setBit_keeps
    | simp -zeta only [Keeps.mk_iff, Keeps.mkCom_iff, Keeps.mkLog_iff]

theorem State.seeVdrv_keeps {z s : State} {x1} (h : Keeps z s) : Keeps z (Sys2Proof.Machine.State.seeVdrv s x1) := by
  unfold State.seeVdrv
  repeat' first
    | with_reducible assumption
    | with_reducible apply State.setB_keeps
    | simp -zeta only [Keeps.mk_iff, Keeps.mkCom_iff, Keeps.mkLog_iff]

theorem State.seeVp_keeps {z s : State} {x1 x2} (h : Keeps z s) : Keeps z (Sys2Proof.Machine.State.seeVp s x1 x2) := by
  unfold State.seeVp
  repeat' first
    | with_reducible assumption
    | with_reducible apply State.setB_keeps
    | simp -zeta only [Keeps.mk_iff, Keeps.mkCom_iff, Keeps.mkLog_iff]

theorem State.seeVn_keeps {z s : State} {x1 x2} (h : Keeps z s) : Keeps z (Sys2Proof.Machine.State.seeVn s x1 x2) := by
  unfold State.seeVn
  repeat' first
    | with_reducible assumption
    | with_reducible apply State.setB_keeps
    | simp -zeta only [Keeps.mk_iff, Keeps.mkCom_iff, Keeps.mkLog_iff]

theorem State.showLevels_keeps {z s : State} (h : Keeps z s) : Keeps z (Sys2Proof.Machine.State.showLevels s) := by
  unfold State.showLevels
  repeat' first
    | with_reducible assumption
    | with_reducible apply State.setB_keeps
    | with_reducible apply State.setF_keeps
    | (with_reducible refine Keeps.foldl (fun x a hx => ?_) ?_ _ <;> beta_reduce)

theorem State.applyShadow_keeps {z s : State} {f1} (h : Keeps z s) : Keeps z (Sys2Proof.Machine.State.applyShadow s f1) := by
  unfold State.applyShadow
  repeat' first
    | with_reducible assumption
    | with_reducible apply State.applyBits_keeps

theorem State.applyPart_keeps {z s : State} {x1 x2} (h : Keeps z s) : Keeps z (Sys2Proof.Machine.State.applyPart s x1 x2) := by
  unfold State.applyPart
  repeat' first
    | with_reducible assumption
    | with_reducible apply State.applyBits_keeps

theorem State.toPower_keeps {z s : State} {x1 x2} (h : Keeps z s) : Keeps z (State.toPower s x1 x2) := by
  unfold State.toPower
  repeat' first
    | with_reducible assumption
    | with_reducible apply State.setF_keeps

end Sys2Proof.Machine
end

