-- ==== Sys2Proof/Laws/KeepsAlloc.lean ====
section
/-! SUPPORT. The operations and meanings of Machine/Alloc.lean keep what every step keeps. -/

set_option linter.unreachableTactic false
set_option linter.unusedTactic false
set_option linter.unusedSimpArgs false
set_option linter.tactic.unusedName false
set_option linter.unusedVariables false

namespace Sys2Proof.Machine
open Sys2Proof

theorem State.settleRun_keeps {z s : State} (h : Keeps z s) : Keeps z (State.settleRun s) := by
  unfold State.settleRun
  repeat' first
    | with_reducible assumption
    | with_reducible apply State.toPower_keeps
    | with_reducible apply Keeps.ite

theorem State.setEng_keeps {z s : State} {x1 x2} (h : Keeps z s) : Keeps z (State.setEng s x1 x2) := by
  unfold State.setEng
  repeat' first
    | with_reducible assumption
    | simp -zeta only [Keeps.mk_iff, Keeps.mkCom_iff, Keeps.mkLog_iff]

theorem State.wakeWaiters_keeps {z s : State} {x1 x2} (h : Keeps z s) : Keeps z (State.wakeWaiters s x1 x2) := by
  unfold State.wakeWaiters
  repeat' first
    | with_reducible assumption
    | with_reducible apply State.setEng_keeps
    | with_reducible apply Keeps.ite
    | (with_reducible refine Keeps.foldl (fun x a hx => ?_) ?_ _ <;> beta_reduce)
    | (extract_lets +onlyGivenNames u; try clear_value u)
    | split

theorem State.putLink_keeps {z s : State} {x1 x2 x3} (h : Keeps z s) : Keeps z (State.putLink s x1 x2 x3) := by
  unfold State.putLink
  repeat' first
    | with_reducible assumption
    | with_reducible apply State.wakeWaiters_keeps
    | with_reducible apply State.setEng_keeps

theorem State.leDwell_keeps {z s : State} {x1} (h : Keeps z s) : Keeps z (State.leDwell s x1) := by
  unfold State.leDwell
  repeat' first
    | with_reducible assumption
    | with_reducible apply State.setEng_keeps
    | with_reducible apply Keeps.ite

theorem State.showEff_keeps {z s : State} {x1} (h : Keeps z s) : Keeps z (State.showEff s x1) := by
  unfold State.showEff
  repeat' first
    | with_reducible assumption
    | with_reducible apply State.setF_keeps

theorem State.freeCar_keeps {z s : State} {x1} (h : Keeps z s) : Keeps z (Sys2Proof.Machine.State.freeCar s x1) := by
  unfold State.freeCar
  repeat' first
    | with_reducible assumption
    | with_reducible apply State.leDwell_keeps
    | with_reducible apply State.showEff_keeps
    | with_reducible apply State.applyBits_keeps
    | (with_reducible refine Keeps.foldl (fun x a hx => ?_) ?_ _ <;> beta_reduce)

end Sys2Proof.Machine
end

