-- ==== Sys2Proof/Laws/KeepsOperands.lean ====
section
/-! SUPPORT. The operations and meanings of Machine/Operands.lean keep what every step keeps. -/

set_option linter.unreachableTactic false
set_option linter.unusedTactic false
set_option linter.unusedSimpArgs false
set_option linter.tactic.unusedName false
set_option linter.unusedVariables false

namespace Sys2Proof.Machine
open Sys2Proof

theorem State.mapSession_keeps {z s : State} {id : Word} {g : Session → Session} (h : Keeps z s)
    (hg : ∀ x : Session, (g x).id = x.id ∧ ∀ k, 16 ≤ k → x.cache.length ≤ k → (g x).cache.length ≤ k) : Keeps z (State.mapSession s id g) := by
  refine h.coms rfl rfl rfl rfl (by simp [State.mapSession]) ?_ rfl rfl rfl
  intro b hb hx x hm
  simp only [State.mapSession, List.mem_map] at hm
  obtain ⟨y, hy, rfl⟩ := hm
  split
  · rw [(hg y).1]; exact (hg y).2 _ (hb _) (hx y hy)
  · exact hx y hy

theorem State.emit_keeps {z s : State} {x1 x2} (h : Keeps z s) : Keeps z (State.emit s x1 x2) := by
  unfold State.emit
  repeat' first
    | with_reducible assumption
    | simp -zeta only [Keeps.mk_iff, Keeps.mkCom_iff, Keeps.mkLog_iff]
    | with_reducible apply Keeps.ite
    | (extract_lets +onlyGivenNames u; (have hc : Com := u); clear hc; subst u)

theorem State.flush_keeps {z s : State} (h : Keeps z s) : Keeps z (State.flush s) := by
  unfold State.flush
  repeat' first
    | with_reducible assumption
    | with_reducible apply State.emit_keeps
    | simp -zeta only [Keeps.mk_iff, Keeps.mkCom_iff, Keeps.mkLog_iff]
    | (with_reducible refine Keeps.foldl (fun x a hx => ?_) ?_ _ <;> beta_reduce)
    | (extract_lets +onlyGivenNames u; (have hc : Com := u); clear hc; subst u)

/-- A change of a session that leaves at most 16 requests in its cache ends what entering one more began. -/
theorem KeepsServed.trimmed {z u : State} {id} (h : KeepsServed z id u) {g : Session → Session} (hg : ∀ x : Session, (g x).id = x.id ∧ (g x).cache.length ≤ 16) :
    Keeps z (u.mapSession id g) :=
  ⟨h.1, h.2.1, h.2.2.1, fun b hb x => by
    have y := h.2.2.2 b hb x
    refine ⟨by simpa [State.mapSession] using y.1, fun w hw => ?_, y.3, y.4, y.5, y.6⟩
    simp only [State.mapSession, List.mem_map] at hw
    obtain ⟨v, hv, rfl⟩ := hw
    have := y.2 v hv
    by_cases e : v.id = id
    · rw [if_pos e]; exact Nat.le_trans (hg v).2 (hb _)
    · simp only [if_neg e] at this ⊢; exact this⟩

theorem State.cacheReply_keeps {z s : State} {t r} (h : Keeps z s) : Keeps z (State.cacheReply s t r) := by
  refine State.mapSession_keeps h fun x => ?_
  split
  · exact ⟨rfl, fun k hk _ => Nat.le_trans (List.length_take_le _ _) hk⟩
  · exact ⟨rfl, fun k hk _ => Nat.le_trans (List.length_take_le _ _) hk⟩

theorem State.cacheReply_ends {z s : State} {t r} (h : KeepsServed z t.session s) : Keeps z (State.cacheReply s t r) := by
  refine h.trimmed fun x => ?_
  split <;> exact ⟨rfl, List.length_take_le _ _⟩

theorem State.answer_after {z s : State} {x1 x2 x3} (h : Keeps z (s.cacheReply x1 (mkReply x1 x2 x3))) : Keeps z (State.answer s x1 x2 x3) := by
  unfold State.answer
  repeat' first
    | with_reducible assumption
    | with_reducible apply State.flush_keeps
    | simp -zeta only [Keeps.mk_iff, Keeps.mkCom_iff, Keeps.mkLog_iff]
    | (extract_lets +onlyGivenNames u; (have hc : Com := u); clear hc; subst u)

theorem State.answer_keeps {z s : State} {x1 x2 x3} (h : Keeps z s) : Keeps z (State.answer s x1 x2 x3) := State.answer_after (State.cacheReply_keeps h)

/-- The answer to a request ends what entering it began. -/
theorem State.answer_ends {z s : State} {x1 x2 x3} (h : KeepsServed z x1.session s) : Keeps z (State.answer s x1 x2 x3) := State.answer_after (State.cacheReply_ends h)

theorem State.reject_keeps {z s : State} {x1 x2} (h : Keeps z s) : Keeps z (State.reject s x1 x2) := by
  unfold State.reject
  repeat' first
    | with_reducible assumption
    | with_reducible apply State.flush_keeps
    | simp -zeta only [Keeps.mk_iff, Keeps.mkCom_iff, Keeps.mkLog_iff]
    | (extract_lets +onlyGivenNames u; (have hc : Com := u); clear hc; subst u)

theorem State.enterCache_serves {z s : State} {t} (h : Keeps z s) : KeepsServed z t.session (State.enterCache s t) :=
  ⟨h.1, h.2.1, h.2.2.1, fun b hb x => by
    have y := h.2.2.2 b hb x
    refine ⟨by simpa [State.enterCache, State.mapSession] using y.1, fun w hw => ?_, y.3, y.4, y.5, y.6⟩
    simp only [State.enterCache, State.mapSession, List.mem_map] at hw
    obtain ⟨v, hv, rfl⟩ := hw
    have := y.2 v hv
    by_cases e : v.id = t.session
    · simp only [if_pos e, List.length_cons] at this ⊢; omega
    · simp only [if_neg e] at this ⊢; exact this⟩

theorem KeepsServed.then {z u v : State} {id} (h : KeepsServed z id u) (g : Keeps u v) : KeepsServed z id v :=
  ⟨g.1.trans h.1, Nat.le_trans h.2.1 g.2.1, h.2.2.1.trans g.2.2.1, fun b hb x => g.2.2.2 _ (fun i => by have := hb i; split <;> omega) (h.2.2.2 b hb x)⟩

theorem State.trimCache_ends {z s : State} {t} (h : KeepsServed z t.session s) : Keeps z (State.trimCache s t) :=
  h.trimmed fun _ => ⟨rfl, List.length_take_le _ _⟩

theorem State.trimCache_keeps {z s : State} {t} (h : Keeps z s) : Keeps z (State.trimCache s t) := State.trimCache_ends (h.enters _)

theorem admitIn_keeps {z s : State} {x0 x1 x2} (h : Keeps z s) (hs : x2.session = x1.session) : KeepsAdmit z x2.session (admitIn x0 x1 x2 s) := by
  have run : ∀ {u : State}, KeepsServed z x2.session u → KeepsAdmit z x2.session (if x0 then Admit.served u else .ended (u.answer x2 stBadLength [])) := by
    intro u hu
    split
    · exact hu.served
    · exact Keeps.ended (State.answer_ends hu)
  have h1 : Keeps z (s.mapSession x1.session fun x => { x with lastAt := s.now }) := State.mapSession_keeps h fun x => ⟨rfl, fun _ _ h => h⟩
  unfold admitIn
  dsimp only
  repeat' first
    | with_reducible assumption
    | with_reducible exact run (h.enters _)
    | with_reducible exact run (h1.enters _)
    | with_reducible exact run (State.enterCache_serves h1)
    | with_reducible apply State.bump_keeps
    | with_reducible apply State.flush_keeps
    | simp -zeta only [Keeps.mk_iff, Keeps.mkCom_iff, Keeps.mkLog_iff]
    | with_reducible apply Keeps.ended
    | (extract_lets +onlyGivenNames u; (have hc : Com := u); clear hc; subst u)
    | split

theorem State.markUsed_keeps {z s : State} {x1} (h : Keeps z s) : Keeps z (State.markUsed s x1) := by
  unfold State.markUsed
  repeat' first
    | with_reducible assumption
    | (with_reducible refine State.mapSession_keeps ?_ fun x => ⟨rfl, fun _ _ h => h⟩)
    | split

theorem State.enqueue_keeps {z s : State} {x1 x2} (h : Keeps z s) : Keeps z (State.enqueue s x1 x2) := by
  unfold State.enqueue
  repeat' first
    | with_reducible assumption
    | simp -zeta only [Keeps.mk_iff, Keeps.mkCom_iff, Keeps.mkLog_iff]
    | (extract_lets +onlyGivenNames u; (have hc : Com := u); clear hc; subst u)

theorem admitReq_keeps {z s : State} {x0 f1 x2} (h : Keeps z s) : KeepsAdmit z x2.session (admitReq x0 f1 x2 s) := by
  have h0 : Keeps z (s.advance x2.time) := State.advance_keeps h
  have h1 := State.enqueue_keeps (x1 := x0) (x2 := x2) h0
  have h2 : Keeps z { (s.advance x2.time).enqueue x0 x2 with com := { ((s.advance x2.time).enqueue x0 x2).com with lastContact := ((s.advance x2.time).enqueue x0 x2).now, hostAt := some ((s.advance x2.time).enqueue x0 x2).now } } :=
    h1.same rfl rfl rfl rfl rfl rfl rfl rfl
  have h3 := State.markUsed_keeps (x1 := x2.ticket x0.code) h2
  unfold admitReq
  dsimp only
  repeat' first
    | with_reducible assumption
    | with_reducible apply State.bump_keeps
    | exact Keeps.ended (State.reject_keeps h3)
    | with_reducible apply State.reject_keeps
    | exact admitIn_keeps h3 rfl
    | with_reducible apply Keeps.ended
    | split

theorem serve_keeps {z s : State} {o lenOk r} {body : Ticket → State → Res} (h : Keeps z s)
    (hb : ∀ z t u, Keeps z u → KeepsRes z (body t u)) : Keeps z (serve o lenOk r body s) := by
  unfold serve
  split
  · exact KeepsAdmit.ofEnded (by assumption) (admitReq_keeps h)
  · rename_i u hu
    have hk : KeepsServed z r.session u := KeepsAdmit.ofServed hu (admitReq_keeps h)
    have hr := hb u (r.ticket o.code) u (Keeps.refl u)
    split
    · exact State.answer_ends (hk.then (KeepsRes.ofDone (by assumption) hr))
    · exact State.trimCache_ends (hk.then (KeepsRes.ofLater (by assumption) hr))

theorem admitOp_keeps {z s : State} {x0 x1} (h : Keeps z s) : KeepsAdmit z x1.session (admitOp x0 x1 s) := admitReq_keeps h

theorem serveOp_keeps {z s : State} {o r} {body : Ticket → State → Res} (h : Keeps z s)
    (hb : ∀ z t u, Keeps z u → KeepsRes z (body t u)) : KeepsOut z (serveOp o r body s) := serve_keeps h hb

theorem refuse_keeps {z s : State} {x0} (h : Keeps z s) : KeepsRes z (refuse x0 s) := by
  unfold refuse
  repeat' first
    | with_reducible assumption
    | with_reducible apply Keeps.done

theorem okWith_keeps {z s : State} {x0} (h : Keeps z s) : KeepsRes z (okWith x0 s) := by
  unfold okWith
  repeat' first
    | with_reducible assumption
    | with_reducible apply Keeps.done

end Sys2Proof.Machine
end

