-- ==== Sys2Proof/Laws/KeepsTelemetry.lean ====
section
/-! SUPPORT. The operations and meanings of Machine/Telemetry.lean keep what every step keeps. -/

set_option linter.unreachableTactic false
set_option linter.unusedTactic false
set_option linter.unusedSimpArgs false
set_option linter.tactic.unusedName false
set_option linter.unusedVariables false

namespace Sys2Proof.Machine
open Sys2Proof

theorem State.sampleStage_keeps {z s : State} {x1} (h : Keeps z s) : Keeps z (State.sampleStage s x1) := by
  unfold State.sampleStage
  repeat' first
    | with_reducible assumption
    | simp -zeta only [Keeps.mk_iff, Keeps.mkCom_iff, Keeps.mkLog_iff]
    | (extract_lets +onlyGivenNames u; try clear_value u)

theorem State.lastValues_keeps {z s : State} {x1} (h : Keeps z s) : Keeps z (State.lastValues s x1).2 := by
  unfold State.lastValues
  repeat' first
    | with_reducible assumption
    | with_reducible apply State.draw_keeps
    | simp -zeta only [Keeps.mk_iff, Keeps.mkCom_iff, Keeps.mkLog_iff]
    | (with_reducible refine Keeps.foldlSnd (fun x a hx => ?_) ?_ _ <;> beta_reduce)
    | split

end Sys2Proof.Machine
end

