-- ==== Sys2Proof/Laws/KeepsStageStop.lean ====
section
/-! SUPPORT. The operations and meanings of Machine/StageStop.lean keep what every step keeps. -/

set_option linter.unreachableTactic false
set_option linter.unusedTactic false
set_option linter.unusedSimpArgs false
set_option linter.tactic.unusedName false
set_option linter.unusedVariables false

namespace Sys2Proof.Machine
open Sys2Proof

theorem State.setMode_keeps {z s : State} {x1 x2} (h : Keeps z s) : Keeps z (State.setMode s x1 x2) := by
  unfold State.setMode
  repeat' first
    | with_reducible assumption
    | with_reducible apply State.setF_keeps

theorem State.commanded_keeps {z s : State} {x1 x2 x3} (h : Keeps z s) : Keeps z (Sys2Proof.Machine.State.commanded s x1 x2 x3) := by
  unfold State.commanded
  repeat' first
    | with_reducible assumption
    | simp -zeta only [Keeps.mk_iff, Keeps.mkCom_iff, Keeps.mkLog_iff]

theorem State.chOff_keeps {z s : State} {x1} (h : Keeps z s) : Keeps z (Sys2Proof.Machine.State.chOff s x1) := by
  unfold State.chOff
  repeat' first
    | with_reducible assumption
    | with_reducible apply State.commanded_keeps
    | simp -zeta only [Keeps.mk_iff, Keeps.mkCom_iff, Keeps.mkLog_iff]
    | with_reducible apply Keeps.ite
    | (extract_lets +onlyGivenNames u; refine (?_ : Keeps z u → _) ?_; rotate_left; unfold u; rotate_left; intro hu; try clear_value u)
    | (extract_lets +onlyGivenNames u; try clear_value u)

theorem State.gatesOff_keeps {z s : State} {x1} (h : Keeps z s) : Keeps z (Sys2Proof.Machine.State.gatesOff s x1) := by
  unfold State.gatesOff
  repeat' first
    | with_reducible assumption
    | with_reducible apply State.chOff_keeps

theorem State.forceOff_keeps {z s : State} {hb} (h : Keeps z s) : Keeps z (State.forceOff s hb) := by
  unfold State.forceOff
  refine State.setF_keeps ?_
  refine (State.setF_keeps (x1 := F.PWM_HB_CFG_MODE hb) (x2 := 0) h).shadowed rfl rfl rfl rfl rfl rfl rfl ?_
  refine Nat.le_trans (heldFilter_le List.filter_sublist) (heldMap_le fun w hw => ?_)
  revert hw
  split <;> exact id

theorem State.stopSwitching_keeps {z s : State} {x1} (h : Keeps z s) : Keeps z (State.stopSwitching s x1) := by
  unfold State.stopSwitching
  repeat' first
    | with_reducible assumption
    | with_reducible apply State.gatesOff_keeps
    | with_reducible apply State.forceOff_keeps
    | (with_reducible refine Keeps.foldl (fun x a hx => ?_) ?_ _ <;> beta_reduce)

theorem State.chgEnd_keeps {z s : State} {x1} (h : Keeps z s) : Keeps z (State.chgEnd s x1) := by
  unfold State.chgEnd
  repeat' first
    | with_reducible assumption
    | with_reducible apply State.stopSwitching_keeps
    | with_reducible apply State.event_keeps
    | with_reducible apply State.setF_keeps
    | with_reducible apply State.setB_keeps
    | with_reducible apply State.setFl_keeps
    | with_reducible apply State.answer_keeps
    | simp -zeta only [Keeps.mk_iff, Keeps.mkCom_iff, Keeps.mkLog_iff]
    | with_reducible apply Keeps.ite
    | (with_reducible refine Keeps.foldl (fun x a hx => ?_) ?_ _ <;> beta_reduce)

theorem State.chgHeld_keeps {z s : State} (h : Keeps z s) : Keeps z (State.chgHeld s) := by
  unfold State.chgHeld
  repeat' first
    | with_reducible assumption
    | with_reducible apply State.chgEnd_keeps

theorem State.showPhases_keeps {z s : State} (h : Keeps z s) : Keeps z (Sys2Proof.Machine.State.showPhases s) := by
  unfold State.showPhases
  repeat' first
    | with_reducible assumption
    | with_reducible apply State.setF_keeps

theorem State.auxHalt_keeps {z s : State} (h : Keeps z s) : Keeps z (Sys2Proof.Machine.State.auxHalt s) := by
  unfold State.auxHalt
  repeat' first
    | with_reducible assumption
    | with_reducible apply State.setF_keeps
    | with_reducible apply State.setMode_keeps
    | with_reducible apply State.showPhases_keeps
    | with_reducible apply State.setB_keeps
    | simp -zeta only [Keeps.mk_iff, Keeps.mkCom_iff, Keeps.mkLog_iff]
    | with_reducible apply Keeps.ite
    | (with_reducible refine Keeps.foldl (fun x a hx => ?_) ?_ _ <;> beta_reduce)

theorem State.quietCar_keeps {z s : State} {x1} (h : Keeps z s) : Keeps z (Sys2Proof.Machine.State.quietCar s x1) := by
  unfold State.quietCar
  repeat' first
    | with_reducible assumption
    | with_reducible apply State.setF_keeps
    | with_reducible apply State.freeCar_keeps
    | simp -zeta only [Keeps.mk_iff, Keeps.mkCom_iff, Keeps.mkLog_iff]
    | with_reducible apply Keeps.ite

theorem State.auxDone_keeps {z s : State} (h : Keeps z s) : Keeps z (Sys2Proof.Machine.State.auxDone s) := by
  unfold State.auxDone
  repeat' first
    | with_reducible assumption
    | with_reducible apply State.quietCar_keeps
    | with_reducible apply State.event_keeps
    | with_reducible apply State.setB_keeps
    | with_reducible apply State.setF_keeps
    | with_reducible apply State.answer_keeps
    | simp -zeta only [Keeps.mk_iff, Keeps.mkCom_iff, Keeps.mkLog_iff]
    | (with_reducible refine Keeps.foldl (fun x a hx => ?_) ?_ _ <;> beta_reduce)

theorem State.auxStopped_keeps {z s : State} (h : Keeps z s) : Keeps z (Sys2Proof.Machine.State.auxStopped s) := by
  unfold State.auxStopped
  repeat' first
    | with_reducible assumption
    | with_reducible apply State.auxDone_keeps
    | with_reducible apply State.stopSwitching_keeps
    | with_reducible apply State.auxHalt_keeps
    | with_reducible apply Keeps.ite

theorem State.showVspd_keeps {z s : State} (h : Keeps z s) : Keeps z (State.showVspd s) := by
  unfold State.showVspd
  repeat' first
    | with_reducible assumption
    | with_reducible apply State.setB_keeps
    | with_reducible apply State.setQ_keeps
    | with_reducible apply State.setFl_keeps
    | split

theorem State.shiftIdle_keeps {z s : State} (h : Keeps z s) : Keeps z (State.shiftIdle s) := by
  unfold State.shiftIdle
  repeat' first
    | with_reducible assumption
    | with_reducible apply State.showVspd_keeps
    | with_reducible apply State.setF_keeps

theorem State.shiftHeld_keeps {z s : State} (h : Keeps z s) : Keeps z (Sys2Proof.Machine.State.shiftHeld s) := by
  unfold State.shiftHeld
  repeat' first
    | with_reducible assumption
    | with_reducible apply State.shiftIdle_keeps
    | simp -zeta only [Keeps.mk_iff, Keeps.mkCom_iff, Keeps.mkLog_iff]
    | with_reducible apply Keeps.ite

theorem State.parkHeld_keeps {z s : State} (h : Keeps z s) : Keeps z (State.parkHeld s) := by
  unfold State.parkHeld
  repeat' first
    | with_reducible assumption
    | with_reducible apply State.setF_keeps
    | simp -zeta only [Keeps.mk_iff, Keeps.mkCom_iff, Keeps.mkLog_iff]
    | with_reducible apply Keeps.ite

theorem State.driveHeld_keeps {z s : State} (h : Keeps z s) : Keeps z (State.driveHeld s) := by
  unfold State.driveHeld
  repeat' first
    | with_reducible assumption
    | with_reducible apply State.setB_keeps
    | with_reducible apply State.setF_keeps
    | with_reducible apply State.answer_keeps
    | simp -zeta only [Keeps.mk_iff, Keeps.mkCom_iff, Keeps.mkLog_iff]
    | with_reducible apply Keeps.ite
    | (extract_lets +onlyGivenNames u; refine (?_ : Keeps z u → _) ?_; rotate_left; unfold u; rotate_left; intro hu; try clear_value u)
    | (extract_lets +onlyGivenNames u; try clear_value u)
    | split

theorem State.stageHeld_keeps {z s : State} {x1} (h : Keeps z s) : Keeps z (State.stageHeld s x1) := by
  unfold State.stageHeld
  repeat' first
    | with_reducible assumption
    | with_reducible apply State.driveHeld_keeps
    | with_reducible apply State.chgHeld_keeps
    | with_reducible apply State.auxStopped_keeps
    | with_reducible apply State.shiftHeld_keeps
    | with_reducible apply State.parkHeld_keeps
    | with_reducible apply Keeps.ite

end Sys2Proof.Machine
end

