-- ==== Sys2Proof/Laws/KeepsFaults.lean ====
section
/-! SUPPORT. The operations and meanings of Machine/Faults.lean keep what every step keeps. -/

set_option linter.unreachableTactic false
set_option linter.unusedTactic false
set_option linter.unusedSimpArgs false
set_option linter.tactic.unusedName false
set_option linter.unusedVariables false

namespace Sys2Proof.Machine
open Sys2Proof

theorem State.setQueue_keeps {z s : State} {x1} (h : Keeps z s) : Keeps z (State.setQueue s x1) := by
  unfold State.setQueue
  repeat' first
    | with_reducible assumption
    | with_reducible apply State.setF_keeps
    | simp -zeta only [Keeps.mk_iff, Keeps.mkCom_iff, Keeps.mkLog_iff]
    | (extract_lets +onlyGivenNames u; (have hc : FaultLog := u); clear hc; subst u)

theorem State.mramPut_keeps {z s : State} {x1 x2} (h : Keeps z s) : Keeps z (State.mramPut s x1 x2).2 := by
  unfold State.mramPut
  repeat' first
    | with_reducible assumption
    | with_reducible apply State.setQueue_keeps
    | (extract_lets +onlyGivenNames u; try clear_value u)
    | split

theorem State.ringPush_keeps {z s : State} {r} (h : Keeps z s) : Keeps z (State.ringPush s r) := by
  unfold State.ringPush
  refine State.setF_keeps ?_
  exact h.logged rfl rfl rfl rfl rfl (fun _ => List.length_take_le _ _) id rfl

theorem State.logLost_keeps {z s : State} (h : Keeps z s) : Keeps z (State.logLost s) := by
  unfold State.logLost
  repeat' first
    | with_reducible assumption
    | with_reducible apply State.event_keeps
    | with_reducible apply State.bump_keeps
    | with_reducible apply State.mramPut_keeps
    | with_reducible apply State.ringPush_keeps
    | simp -zeta only [Keeps.mk_iff, Keeps.mkCom_iff, Keeps.mkLog_iff]
    | with_reducible apply Keeps.ite
    | (extract_lets +onlyGivenNames u; (have hc : FaultLog := u); clear hc; subst u)

theorem State.queueRetire_keeps {z s : State} {x1} (h : Keeps z s) : Keeps z (Sys2Proof.Machine.State.queueRetire s x1) := by
  unfold State.queueRetire
  repeat' first
    | with_reducible assumption
    | with_reducible apply State.mramPut_keeps
    | with_reducible apply State.logLost_keeps
    | simp -zeta only [Keeps.mk_iff, Keeps.mkCom_iff, Keeps.mkLog_iff]
    | with_reducible apply Keeps.ite

theorem State.logPut_keeps {z s : State} {x1} (h : Keeps z s) : Keeps z (State.logPut s x1) := by
  unfold State.logPut
  repeat' first
    | with_reducible assumption
    | with_reducible apply State.mramPut_keeps
    | with_reducible apply State.ringPush_keeps
    | with_reducible apply State.logLost_keeps
    | simp -zeta only [Keeps.mk_iff, Keeps.mkCom_iff, Keeps.mkLog_iff]
    | with_reducible apply Keeps.ite
    | (extract_lets +onlyGivenNames u; (have hc : FaultLog := u); clear hc; subst u)

theorem State.noteLast_keeps {z s : State} {x1 x2} (h : Keeps z s) : Keeps z (State.noteLast s x1 x2) := by
  unfold State.noteLast
  repeat' first
    | with_reducible assumption
    | with_reducible apply State.lastValues_keeps
    | simp -zeta only [Keeps.mk_iff, Keeps.mkCom_iff, Keeps.mkLog_iff]
    | (with_reducible refine Keeps.foldl (fun x a hx => ?_) ?_ _ <;> beta_reduce)
    | (extract_lets +onlyGivenNames u; (have hc : FaultLog := u); clear hc; subst u)
    | (extract_lets +onlyGivenNames u; try clear_value u)

theorem State.noteCharger_keeps {z s : State} {x1 x2} (h : Keeps z s) : Keeps z (State.noteCharger s x1 x2) := by
  unfold State.noteCharger
  repeat' first
    | with_reducible assumption
    | simp -zeta only [Keeps.mk_iff, Keeps.mkCom_iff, Keeps.mkLog_iff]
    | with_reducible apply Keeps.ite

theorem State.fifoPut_keeps {z s : State} {r} (h : Keeps z s) : Keeps z (State.fifoPut s r) := by
  unfold State.fifoPut
  dsimp only
  split
  · rename_i hq
    exact h.logged rfl rfl rfl rfl rfl id (fun _ => hq) rfl
  · refine State.logPut_keeps (State.event_keeps ?_)
    refine h.logged rfl rfl rfl rfl rfl id (fun hf => ?_) rfl
    simp only [List.length_drop, List.length_append, List.length_cons, List.length_nil]
    omega

theorem State.enterSafe_keeps {z s : State} (h : Keeps z s) : Keeps z (State.enterSafe s) := by
  unfold State.enterSafe
  repeat' first
    | with_reducible assumption
    | with_reducible apply State.toPower_keeps
    | simp -zeta only [Keeps.mk_iff, Keeps.mkCom_iff, Keeps.mkLog_iff]
    | with_reducible apply Keeps.ite
    | (extract_lets +onlyGivenNames u; refine (?_ : Keeps z u → _) ?_; rotate_left; unfold u; rotate_left; intro hu; try clear_value u)
    | (extract_lets +onlyGivenNames u; try clear_value u)

theorem State.abortArming_keeps {z s : State} (h : Keeps z s) : Keeps z (State.abortArming s) := by
  unfold State.abortArming
  repeat' first
    | with_reducible assumption
    | simp -zeta only [Keeps.mk_iff, Keeps.mkCom_iff, Keeps.mkLog_iff]

theorem State.showSafe_keeps {z s : State} (h : Keeps z s) : Keeps z (State.showSafe s) := by
  unfold State.showSafe
  repeat' first
    | with_reducible assumption
    | with_reducible apply State.setB_keeps
    | with_reducible apply State.setF_keeps

theorem State.ascTurnOn_keeps {z s : State} {x1} (h : Keeps z s) : Keeps z (Sys2Proof.Machine.State.ascTurnOn s x1) := by
  unfold State.ascTurnOn
  repeat' first
    | with_reducible assumption
    | with_reducible apply State.commanded_keeps
    | simp -zeta only [Keeps.mk_iff, Keeps.mkCom_iff, Keeps.mkLog_iff]
    | with_reducible apply Keeps.ite

theorem State.ascTurnOff_keeps {z s : State} {x1} (h : Keeps z s) : Keeps z (Sys2Proof.Machine.State.ascTurnOff s x1) := by
  unfold State.ascTurnOff
  repeat' first
    | with_reducible assumption
    | with_reducible apply State.commanded_keeps
    | simp -zeta only [Keeps.mk_iff, Keeps.mkCom_iff, Keeps.mkLog_iff]

theorem State.setKind_keeps {z s : State} {x1 x2} (h : Keeps z s) : Keeps z (Sys2Proof.Machine.State.setKind s x1 x2) := by
  unfold State.setKind
  repeat' first
    | with_reducible assumption
    | with_reducible apply State.ascTurnOn_keeps
    | with_reducible apply State.ascTurnOff_keeps
    | simp -zeta only [Keeps.mk_iff, Keeps.mkCom_iff, Keeps.mkLog_iff]
    | with_reducible apply Keeps.ite
    | (with_reducible refine Keeps.foldl (fun x a hx => ?_) ?_ _ <;> beta_reduce)

theorem State.applySafe_keeps {z s : State} {x1 x2} (h : Keeps z s) : Keeps z (Sys2Proof.Machine.State.applySafe s x1 x2) := by
  unfold State.applySafe
  repeat' first
    | with_reducible assumption
    | with_reducible apply State.gatesOff_keeps
    | with_reducible apply State.forceOff_keeps
    | with_reducible apply State.setKind_keeps
    | with_reducible apply State.setF_keeps
    | with_reducible apply State.stageHeld_keeps
    | with_reducible apply State.enterSafe_keeps
    | with_reducible apply State.showSafe_keeps
    | with_reducible apply Keeps.ite
    | (with_reducible refine Keeps.foldl (fun x a hx => ?_) ?_ _ <;> beta_reduce)

theorem State.holdClassA_keeps {z s : State} {x1} (h : Keeps z s) : Keeps z (State.holdClassA s x1) := by
  unfold State.holdClassA
  repeat' first
    | with_reducible assumption
    | with_reducible apply State.applySafe_keeps
    | simp -zeta only [Keeps.mk_iff, Keeps.mkCom_iff, Keeps.mkLog_iff]
    | (with_reducible refine Keeps.foldl (fun x a hx => ?_) ?_ _ <;> beta_reduce)

theorem State.noteDrive_keeps {z s : State} {x1 x2} (h : Keeps z s) : Keeps z (Sys2Proof.Machine.State.noteDrive s x1 x2) := by
  unfold State.noteDrive
  repeat' first
    | with_reducible assumption
    | simp -zeta only [Keeps.mk_iff, Keeps.mkCom_iff, Keeps.mkLog_iff]
    | with_reducible apply Keeps.ite

theorem State.startTransition_keeps {z s : State} {x1} (h : Keeps z s) : Keeps z (Sys2Proof.Machine.State.startTransition s x1) := by
  unfold State.startTransition
  repeat' first
    | with_reducible assumption
    | with_reducible apply State.enterSafe_keeps
    | simp -zeta only [Keeps.mk_iff, Keeps.mkCom_iff, Keeps.mkLog_iff]
    | with_reducible apply Keeps.ite
    | (with_reducible refine Keeps.foldl (fun x a hx => ?_) ?_ _ <;> beta_reduce)
    | (extract_lets +onlyGivenNames u; refine (?_ : Keeps z u → _) ?_; rotate_left; unfold u; rotate_left; intro hu; try clear_value u)
    | (extract_lets +onlyGivenNames u; try clear_value u)

theorem State.mergeRate_keeps {z s : State} {k key span} (h : Keeps z s) : KeepsOpt z (State.mergeRate s k key span) := by
  unfold State.mergeRate
  split
  · split
    · exact h.logged rfl rfl rfl rfl rfl (fun hr => by simpa using hr) id rfl
    · exact True.intro
  · exact True.intro

theorem State.eaveFault_keeps {z s : State} {x1 x2} (h : Keeps z s) : Keeps z (State.eaveFault s x1 x2) := by
  unfold State.eaveFault
  repeat' first
    | with_reducible assumption
    | simp -zeta only [Keeps.mk_iff, Keeps.mkCom_iff, Keeps.mkLog_iff]
    | with_reducible apply Keeps.ite
    | (extract_lets +onlyGivenNames u; (have hc : FaultLog := u); clear hc; subst u)

theorem State.raise_keeps {z s : State} {x1 x2} (h : Keeps z s) : Keeps z (Sys2Proof.Machine.State.raise s x1 x2) := by
  unfold State.raise
  repeat' first
    | with_reducible assumption
    | with_reducible apply State.eaveFault_keeps
    | with_reducible apply State.noteCharger_keeps
    | with_reducible apply State.noteLast_keeps
    | with_reducible apply State.holdClassA_keeps
    | with_reducible apply State.noteDrive_keeps
    | with_reducible apply State.abortArming_keeps
    | with_reducible apply State.fifoPut_keeps
    | with_reducible apply State.logPut_keeps
    | with_reducible apply State.enterSafe_keeps
    | with_reducible apply State.startTransition_keeps
    | with_reducible apply State.auxHalt_keeps
    | simp -zeta only [Keeps.mk_iff, Keeps.mkCom_iff, Keeps.mkLog_iff]
    | with_reducible apply Keeps.ite

theorem State.raiseRate_keeps {z s : State} {k i key span} (h : Keeps z s) : Keeps z (State.raiseRate s k i key span) := by
  unfold State.raiseRate
  split
  · exact KeepsOpt.of (by assumption) (State.mergeRate_keeps h)
  · exact Keeps.same (State.raise_keeps (x1 := k) (x2 := i) h) rfl rfl rfl rfl rfl rfl rfl rfl

end Sys2Proof.Machine
end

