-- ==== Sys2Proof/Laws/KeepsLatches.lean ====
section
/-! SUPPORT. The operations and meanings of Machine/Latches.lean keep what every step keeps. -/

set_option linter.unreachableTactic false
set_option linter.unusedTactic false
set_option linter.unusedSimpArgs false
set_option linter.tactic.unusedName false
set_option linter.unusedVariables false

namespace Sys2Proof.Machine
open Sys2Proof

theorem State.showLatches_keeps {z s : State} (h : Keeps z s) : Keeps z (State.showLatches s) := by
  unfold State.showLatches
  repeat' first
    | with_reducible assumption
    | with_reducible apply State.setF_keeps
    | with_reducible apply State.setB_keeps
    | with_reducible apply Keeps.ite
    | (with_reducible refine Keeps.foldl (fun x a hx => ?_) ?_ _ <;> beta_reduce)

theorem State.trip_keeps {z s : State} {x1 x2} (h : Keeps z s) : Keeps z (State.trip s x1 x2) := by
  unfold State.trip
  repeat' first
    | with_reducible assumption
    | with_reducible apply State.gatesOff_keeps
    | with_reducible apply State.forceOff_keeps
    | with_reducible apply State.showLatches_keeps
    | with_reducible apply State.setF_keeps
    | with_reducible apply State.setB_keeps
    | with_reducible apply State.event_keeps
    | with_reducible apply State.raise_keeps
    | with_reducible apply State.settleRun_keeps
    | simp -zeta only [Keeps.mk_iff, Keeps.mkCom_iff, Keeps.mkLog_iff]
    | with_reducible apply Keeps.ite
    | (with_reducible refine Keeps.foldl (fun x a hx => ?_) ?_ _ <;> beta_reduce)
    | (extract_lets +onlyGivenNames u; refine (?_ : Keeps z u → _) ?_; rotate_left; unfold u; rotate_left; intro hu; try clear_value u)
    | (extract_lets +onlyGivenNames u; try clear_value u)
    | split

end Sys2Proof.Machine
end

