-- ==== Sys2Proof/Laws/KeepsBatten.lean ====
section
/-! SUPPORT. The operations and meanings of Machine/Batten.lean keep what every step keeps. -/

set_option linter.unreachableTactic false
set_option linter.unusedTactic false
set_option linter.unusedSimpArgs false
set_option linter.tactic.unusedName false
set_option linter.unusedVariables false

namespace Sys2Proof.Machine
open Sys2Proof

theorem State.setCar_keeps {z s : State} {x1 x2} (h : Keeps z s) : Keeps z (State.setCar s x1 x2) := by
  unfold State.setCar
  repeat' first
    | with_reducible assumption
    | with_reducible apply State.setBit_keeps
    | simp -zeta only [Keeps.mk_iff, Keeps.mkCom_iff, Keeps.mkLog_iff]

theorem State.setHb_keeps {z s : State} {x1 x2} (h : Keeps z s) : Keeps z (State.setHb s x1 x2) := by
  unfold State.setHb
  repeat' first
    | with_reducible assumption
    | with_reducible apply State.setF_keeps
    | simp -zeta only [Keeps.mk_iff, Keeps.mkCom_iff, Keeps.mkLog_iff]

theorem State.armCar_keeps {z s : State} {n} (h : Keeps z s) : Keeps z (State.armCar s n) := by
  refine h.shadowed rfl rfl rfl rfl rfl rfl rfl (heldMap_le fun w hw => ?_)
  revert hw
  split <;> exact id

theorem State.applyCar_keeps {z s : State} {x1} (h : Keeps z s) : Keeps z (State.applyCar s x1) := by
  unfold State.applyCar
  repeat' first
    | with_reducible assumption
    | with_reducible apply State.applyShadow_keeps
    | with_reducible apply State.showEff_keeps
    | (with_reducible refine Keeps.foldl (fun x a hx => ?_) ?_ _ <;> beta_reduce)

theorem State.comingCar_keeps {z s : State} {x1} (h : Keeps z s) : Keeps z (State.comingCar s x1) := by
  unfold State.comingCar
  repeat' first
    | with_reducible assumption
    | with_reducible apply State.applyCar_keeps
    | with_reducible apply State.armCar_keeps
    | with_reducible apply Keeps.ite

theorem State.repace_keeps {z s : State} {x1} (h : Keeps z s) : Keeps z (State.repace s x1) := by
  unfold State.repace
  repeat' first
    | with_reducible assumption
    | with_reducible apply State.setEng_keeps
    | (with_reducible refine Keeps.foldl (fun x a hx => ?_) ?_ _ <;> beta_reduce)

theorem State.pace_keeps {z s : State} {x1 x2} (h : Keeps z s) : Keeps z (State.pace s x1 x2) := by
  unfold State.pace
  repeat' first
    | with_reducible assumption
    | with_reducible apply State.repace_keeps
    | with_reducible apply State.setEng_keeps
    | (with_reducible refine Keeps.foldl (fun x a hx => ?_) ?_ _ <;> beta_reduce)

theorem State.unpace_keeps {z s : State} {x1} (h : Keeps z s) : Keeps z (State.unpace s x1) := by
  unfold State.unpace
  repeat' first
    | with_reducible assumption
    | with_reducible apply State.setEng_keeps
    | (with_reducible refine Keeps.foldl (fun x a hx => ?_) ?_ _ <;> beta_reduce)

theorem State.planWindow_keeps {z s : State} {x1 x2} (h : Keeps z s) : Keeps z (State.planWindow s x1 x2) := by
  unfold State.planWindow
  repeat' first
    | with_reducible assumption
    | with_reducible apply State.setHb_keeps
    | simp -zeta only [Keeps.mk_iff, Keeps.mkCom_iff, Keeps.mkLog_iff]
    | (with_reducible refine Keeps.foldl (fun x a hx => ?_) ?_ _ <;> beta_reduce)
    | (extract_lets +onlyGivenNames u; refine (?_ : Keeps z u → _) ?_; rotate_left; unfold u; rotate_left; intro hu; try clear_value u)
    | (extract_lets +onlyGivenNames u; try clear_value u)

theorem State.winEdge_keeps {z s : State} {x1 x2} (h : Keeps z s) : Keeps z (State.winEdge s x1 x2) := by
  unfold State.winEdge
  repeat' first
    | with_reducible assumption
    | with_reducible apply State.setHb_keeps
    | simp -zeta only [Keeps.mk_iff, Keeps.mkCom_iff, Keeps.mkLog_iff]
    | with_reducible apply Keeps.ite
    | (with_reducible refine Keeps.foldl (fun x a hx => ?_) ?_ _ <;> beta_reduce)

theorem State.judgeWindow_keeps {z s : State} {x1 x2 x3} (h : Keeps z s) : Keeps z (State.judgeWindow s x1 x2 x3) := by
  unfold State.judgeWindow
  repeat' first
    | with_reducible assumption
    | simp -zeta only [Keeps.mk_iff, Keeps.mkCom_iff, Keeps.mkLog_iff]
    | (extract_lets +onlyGivenNames u; try clear_value u)

theorem State.planCar_keeps {z s : State} {x1} (h : Keeps z s) : Keeps z (State.planCar s x1) := by
  unfold State.planCar
  repeat' first
    | with_reducible assumption
    | with_reducible apply State.setCar_keeps
    | simp -zeta only [Keeps.mk_iff, Keeps.mkCom_iff, Keeps.mkLog_iff]

theorem State.guardCar_keeps {z s : State} {x1} (h : Keeps z s) : Keeps z (State.guardCar s x1) := by
  unfold State.guardCar
  repeat' first
    | with_reducible assumption
    | with_reducible apply State.planCar_keeps
    | with_reducible apply State.armCar_keeps
    | with_reducible apply Keeps.ite

theorem State.voidLate_keeps {z s : State} {x1} (h : Keeps z s) : Keeps z (State.voidLate s x1) := by
  unfold State.voidLate
  repeat' first
    | with_reducible assumption
    | with_reducible apply State.planCar_keeps
    | with_reducible apply Keeps.ite

theorem State.startHb_keeps {z s : State} {x1 x2 x3} (h : Keeps z s) : Keeps z (State.startHb s x1 x2 x3) := by
  unfold State.startHb
  repeat' first
    | with_reducible assumption
    | with_reducible apply State.setHb_keeps
    | with_reducible apply State.event_keeps
    | with_reducible apply State.bump_keeps
    | with_reducible apply State.bumpBy_keeps
    | simp -zeta only [Keeps.mk_iff, Keeps.mkCom_iff, Keeps.mkLog_iff]
    | with_reducible apply Keeps.ite

theorem State.showWindow_keeps {z s : State} {x1} (h : Keeps z s) : Keeps z (State.showWindow s x1) := by
  unfold State.showWindow
  repeat' first
    | with_reducible assumption
    | with_reducible apply State.setF_keeps
    | with_reducible apply State.setB_keeps
    | with_reducible apply State.bump_keeps
    | simp -zeta only [Keeps.mk_iff, Keeps.mkCom_iff, Keeps.mkLog_iff]
    | with_reducible apply Keeps.ite
    | (extract_lets +onlyGivenNames u; refine (?_ : Keeps z u → _) ?_; rotate_left; unfold u; rotate_left; intro hu; try clear_value u)
    | split

theorem State.showModes_keeps {z s : State} (h : Keeps z s) : Keeps z (State.showModes s) := by
  unfold State.showModes
  repeat' first
    | with_reducible assumption
    | with_reducible apply State.settleRun_keeps
    | with_reducible apply State.setF_keeps

theorem State.quietHb_keeps {z s : State} {x1 x2} (h : Keeps z s) : Keeps z (State.quietHb s x1 x2) := by
  unfold State.quietHb
  repeat' first
    | with_reducible assumption
    | with_reducible apply State.setHb_keeps
    | simp -zeta only [Keeps.mk_iff, Keeps.mkCom_iff, Keeps.mkLog_iff]

theorem State.stopCar_keeps {z s : State} {x1} (h : Keeps z s) : Keeps z (Sys2Proof.Machine.State.stopCar s x1) := by
  unfold State.stopCar
  repeat' first
    | with_reducible assumption
    | with_reducible apply State.setF_keeps
    | with_reducible apply State.setCar_keeps
    | with_reducible apply State.unpace_keeps
    | with_reducible apply State.quietHb_keeps
    | with_reducible apply State.freeCar_keeps
    | with_reducible apply State.showModes_keeps
    | with_reducible apply State.event_keeps
    | with_reducible apply State.raise_keeps
    | with_reducible apply Keeps.ite
    | (with_reducible refine Keeps.foldl (fun x a hx => ?_) ?_ _ <;> beta_reduce)

theorem State.phaseFollower_keeps {z s : State} {x1 x2 x3} (h : Keeps z s) : Keeps z (State.phaseFollower s x1 x2 x3) := by
  unfold State.phaseFollower
  repeat' first
    | with_reducible assumption
    | with_reducible apply State.setCar_keeps
    | with_reducible apply State.repace_keeps
    | with_reducible apply Keeps.ite

theorem State.phaseSelf_keeps {z s : State} {x1 x2} (h : Keeps z s) : Keeps z (Sys2Proof.Machine.State.phaseSelf s x1 x2) := by
  unfold State.phaseSelf
  repeat' first
    | with_reducible assumption
    | with_reducible apply State.phaseFollower_keeps
    | with_reducible apply Keeps.ite

theorem State.perClamp_keeps {z s : State} {x1} (h : Keeps z s) : Keeps z (State.perClamp s x1) := by
  unfold State.perClamp
  repeat' first
    | with_reducible assumption
    | with_reducible apply State.setCar_keeps
    | with_reducible apply State.raiseRate_keeps
    | with_reducible apply State.event_keeps
    | with_reducible apply Keeps.ite

theorem State.slotPeriods_keeps {z s : State} {x1 x2} (h : Keeps z s) : Keeps z (State.slotPeriods s x1 x2) := by
  unfold State.slotPeriods
  repeat' first
    | with_reducible assumption
    | simp -zeta only [Keeps.mk_iff, Keeps.mkCom_iff, Keeps.mkLog_iff]
    | (with_reducible refine Keeps.foldl (fun x a hx => ?_) ?_ _ <;> beta_reduce)
    | (extract_lets +onlyGivenNames u; try clear_value u)

theorem State.listenNow_keeps {z s : State} {x1 x2} (h : Keeps z s) : Keeps z (State.listenNow s x1 x2) := by
  unfold State.listenNow
  repeat' first
    | with_reducible assumption
    | with_reducible apply State.setF_keeps
    | simp -zeta only [Keeps.mk_iff, Keeps.mkCom_iff, Keeps.mkLog_iff]
    | with_reducible apply Keeps.ite

theorem State.chgStart_keeps {z s : State} (h : Keeps z s) : Keeps z (State.chgStart s) := by
  unfold State.chgStart
  repeat' first
    | with_reducible assumption
    | with_reducible apply State.setMode_keeps
    | with_reducible apply State.showModes_keeps
    | with_reducible apply State.setF_keeps
    | simp -zeta only [Keeps.mk_iff, Keeps.mkCom_iff, Keeps.mkLog_iff]
    | with_reducible apply Keeps.ite
    | (with_reducible refine Keeps.foldl (fun x a hx => ?_) ?_ _ <;> beta_reduce)

theorem State.frontNow_keeps {z s : State} (h : Keeps z s) : Keeps z (State.frontNow s) := by
  unfold State.frontNow
  repeat' first
    | with_reducible assumption
    | with_reducible apply State.chgStart_keeps
    | simp -zeta only [Keeps.mk_iff, Keeps.mkCom_iff, Keeps.mkLog_iff]
    | with_reducible apply Keeps.ite

theorem State.startPeriod_keeps {z s : State} {x1} (h : Keeps z s) : Keeps z (Sys2Proof.Machine.State.startPeriod s x1) := by
  unfold State.startPeriod
  repeat' first
    | with_reducible assumption
    | with_reducible apply State.voidLate_keeps
    | with_reducible apply State.guardCar_keeps
    | with_reducible apply State.applyCar_keeps
    | with_reducible apply State.setCar_keeps
    | with_reducible apply State.wrap_keeps
    | with_reducible apply State.setF_keeps
    | with_reducible apply State.perClamp_keeps
    | with_reducible apply State.startHb_keeps
    | with_reducible apply State.showWindow_keeps
    | with_reducible apply State.phaseFollower_keeps
    | with_reducible apply State.phaseSelf_keeps
    | with_reducible apply State.pace_keeps
    | with_reducible apply State.slotPeriods_keeps
    | with_reducible apply State.showModes_keeps
    | with_reducible apply State.listenNow_keeps
    | with_reducible apply State.frontNow_keeps
    | with_reducible apply Keeps.ite
    | (with_reducible refine Keeps.foldl (fun x a hx => ?_) ?_ _ <;> beta_reduce)

theorem State.carrierRun_keeps {z s : State} {x1} (h : Keeps z s) : Keeps z (State.carrierRun s x1) := by
  unfold State.carrierRun
  repeat' first
    | with_reducible assumption
    | with_reducible apply State.setF_keeps
    | with_reducible apply State.setCar_keeps
    | with_reducible apply State.setHb_keeps
    | with_reducible apply Keeps.ite
    | (with_reducible refine Keeps.foldl (fun x a hx => ?_) ?_ _ <;> beta_reduce)

theorem State.carrierStop_keeps {z s : State} {x1} (h : Keeps z s) : Keeps z (State.carrierStop s x1) := by
  unfold State.carrierStop
  repeat' first
    | with_reducible assumption
    | with_reducible apply State.setF_keeps
    | with_reducible apply State.setCar_keeps
    | with_reducible apply Keeps.ite

theorem execShadowGuard_keeps {z s : State} {x0 x1} (h : Keeps z s) : KeepsOut z (execShadowGuard x0 x1 s) := by
  unfold execShadowGuard
  repeat' first
    | with_reducible assumption
    | with_reducible apply State.advance_keeps
    | with_reducible apply State.guardCar_keeps
    | with_reducible apply Keeps.out
    | (extract_lets +onlyGivenNames u; refine (?_ : Keeps z u → _) ?_; rotate_left; unfold u; rotate_left; intro hu; try clear_value u)
    | (extract_lets +onlyGivenNames u; try clear_value u)
    | split

theorem execDelayLineRecal_keeps {z s : State} {x0} (h : Keeps z s) : KeepsOut z (execDelayLineRecal x0 s) := by
  unfold execDelayLineRecal
  repeat' first
    | with_reducible assumption
    | with_reducible apply State.advance_keeps
    | simp -zeta only [Keeps.mk_iff, Keeps.mkCom_iff, Keeps.mkLog_iff]
    | with_reducible apply Keeps.out

theorem State.bstLow_keeps {z s : State} {x1} (h : Keeps z s) : Keeps z (State.bstLow s x1) := by
  unfold State.bstLow
  repeat' first
    | with_reducible assumption
    | with_reducible apply State.event_keeps
    | with_reducible apply State.setHb_keeps
    | with_reducible apply Keeps.ite

theorem execBootstrapUndervoltage_keeps {z s : State} {x0 x1 x2} (h : Keeps z s) : KeepsOut z (execBootstrapUndervoltage x0 x1 x2 s) := by
  unfold execBootstrapUndervoltage
  repeat' first
    | with_reducible assumption
    | with_reducible apply State.advance_keeps
    | with_reducible apply State.bstLow_keeps
    | with_reducible apply Keeps.out
    | (extract_lets +onlyGivenNames u; refine (?_ : Keeps z u → _) ?_; rotate_left; unfold u; rotate_left; intro hu; try clear_value u)
    | split

end Sys2Proof.Machine
end

