-- ==== Sys2Proof/Laws/KeepsGate.lean ====
section
/-! SUPPORT. The operations and meanings of Machine/Gate.lean keep what every step keeps. -/

set_option linter.unreachableTactic false
set_option linter.unusedTactic false
set_option linter.unusedSimpArgs false
set_option linter.tactic.unusedName false
set_option linter.unusedVariables false

namespace Sys2Proof.Machine
open Sys2Proof

theorem State.setSched_keeps {z s : State} {x1 x2 x3} (h : Keeps z s) : Keeps z (Sys2Proof.Machine.State.setSched s x1 x2 x3) := by
  unfold State.setSched
  repeat' first
    | with_reducible assumption
    | with_reducible apply State.commanded_keeps
    | simp -zeta only [Keeps.mk_iff, Keeps.mkCom_iff, Keeps.mkLog_iff]

theorem State.edgeFloor_keeps {z s : State} {x1 x2} (h : Keeps z s) : Keeps z (State.edgeFloor s x1 x2) := by
  unfold State.edgeFloor
  repeat' first
    | with_reducible assumption
    | with_reducible apply State.trip_keeps

theorem State.refreshSample_keeps {z s : State} {x1 x2} (h : Keeps z s) : Keeps z (State.refreshSample s x1 x2) := by
  unfold State.refreshSample
  repeat' first
    | with_reducible assumption
    | with_reducible apply State.setHb_keeps
    | with_reducible apply State.bstLow_keeps
    | with_reducible apply State.event_keeps
    | with_reducible apply State.trip_keeps
    | with_reducible apply Keeps.ite

theorem State.offDone_keeps {z s : State} {x1 x2 x3 x4} (h : Keeps z s) : Keeps z (Sys2Proof.Machine.State.offDone s x1 x2 x3 x4) := by
  unfold State.offDone
  repeat' first
    | with_reducible assumption
    | with_reducible apply State.setSched_keeps
    | with_reducible apply State.refreshSample_keeps
    | simp -zeta only [Keeps.mk_iff, Keeps.mkCom_iff, Keeps.mkLog_iff]
    | with_reducible apply Keeps.ite
    | (extract_lets +onlyGivenNames u; try clear_value u)
    | split

theorem State.releaseOff_keeps {z s : State} {x1 x2 x3} (h : Keeps z s) : Keeps z (State.releaseOff s x1 x2 x3) := by
  unfold State.releaseOff
  repeat' first
    | with_reducible assumption
    | with_reducible apply State.offDone_keeps
    | simp -zeta only [Keeps.mk_iff, Keeps.mkCom_iff, Keeps.mkLog_iff]
    | with_reducible apply Keeps.ite
    | (extract_lets +onlyGivenNames u; try clear_value u)
    | split

theorem State.bar_keeps {z s : State} {x1} (h : Keeps z s) : Keeps z (State.bar s x1) := by
  unfold State.bar
  repeat' first
    | with_reducible assumption
    | with_reducible apply State.setHb_keeps

theorem State.blockAll_keeps {z s : State} (h : Keeps z s) : Keeps z (State.blockAll s) := by
  unfold State.blockAll
  repeat' first
    | with_reducible assumption
    | with_reducible apply State.bar_keeps
    | with_reducible apply State.gatesOff_keeps
    | (with_reducible refine Keeps.foldl (fun x a hx => ?_) ?_ _ <;> beta_reduce)

theorem State.releaseOn_keeps {z s : State} {x1 x2} (h : Keeps z s) : Keeps z (Sys2Proof.Machine.State.releaseOn s x1 x2) := by
  unfold State.releaseOn
  repeat' first
    | with_reducible assumption
    | with_reducible apply State.bar_keeps
    | with_reducible apply State.trip_keeps
    | with_reducible apply State.event_keeps
    | with_reducible apply State.edgeFloor_keeps
    | with_reducible apply State.setSched_keeps
    | simp -zeta only [Keeps.mk_iff, Keeps.mkCom_iff, Keeps.mkLog_iff]
    | with_reducible apply Keeps.ite
    | (extract_lets +onlyGivenNames u; refine (?_ : Keeps z u → _) ?_; rotate_left; unfold u; rotate_left; intro hu; try clear_value u)
    | (extract_lets +onlyGivenNames u; try clear_value u)

theorem execEdgeRelease_keeps {z s : State} {x0 x1 x2} (h : Keeps z s) : KeepsOut z (execEdgeRelease x0 x1 x2 s) := by
  unfold execEdgeRelease
  repeat' first
    | with_reducible assumption
    | with_reducible apply State.advance_keeps
    | with_reducible apply State.releaseOn_keeps
    | with_reducible apply State.releaseOff_keeps
    | simp -zeta only [Keeps.mk_iff, Keeps.mkCom_iff, Keeps.mkLog_iff]
    | with_reducible apply Keeps.out
    | with_reducible apply Keeps.ite
    | (extract_lets +onlyGivenNames u; refine (?_ : Keeps z u → _) ?_; rotate_left; unfold u; rotate_left; intro hu; try clear_value u)
    | (extract_lets +onlyGivenNames u; try clear_value u)
    | split

theorem State.holdEnds_keeps {z s : State} {x1 x2} (h : Keeps z s) : Keeps z (Sys2Proof.Machine.State.holdEnds s x1 x2) := by
  unfold State.holdEnds
  repeat' first
    | with_reducible assumption
    | with_reducible apply State.setSched_keeps
    | with_reducible apply State.edgeFloor_keeps
    | simp -zeta only [Keeps.mk_iff, Keeps.mkCom_iff, Keeps.mkLog_iff]

theorem execMinPulseHoldEnd_keeps {z s : State} {x0 x1} (h : Keeps z s) : KeepsOut z (execMinPulseHoldEnd x0 x1 s) := by
  unfold execMinPulseHoldEnd
  repeat' first
    | with_reducible assumption
    | with_reducible apply State.advance_keeps
    | with_reducible apply State.holdEnds_keeps
    | with_reducible apply Keeps.out
    | (extract_lets +onlyGivenNames u; refine (?_ : Keeps z u → _) ?_; rotate_left; unfold u; rotate_left; intro hu; try clear_value u)
    | split

theorem execMillerClamp_keeps {z s : State} {x0 x1 x2} (h : Keeps z s) : KeepsOut z (execMillerClamp x0 x1 x2 s) := by
  unfold execMillerClamp
  repeat' first
    | with_reducible assumption
    | with_reducible apply State.advance_keeps
    | simp -zeta only [Keeps.mk_iff, Keeps.mkCom_iff, Keeps.mkLog_iff]
    | with_reducible apply Keeps.out
    | (extract_lets +onlyGivenNames u; refine (?_ : Keeps z u → _) ?_; rotate_left; unfold u; rotate_left; intro hu; try clear_value u)
    | (extract_lets +onlyGivenNames u; try clear_value u)
    | split

theorem execTripInputLow_keeps {z s : State} {x0 x1} (h : Keeps z s) : KeepsOut z (Sys2Proof.Machine.execTripInputLow x0 x1 s) := by
  unfold execTripInputLow
  repeat' first
    | with_reducible assumption
    | with_reducible apply State.seeTrip_keeps
    | with_reducible apply State.advance_keeps
    | with_reducible apply State.trip_keeps
    | with_reducible apply State.event_keeps
    | with_reducible apply Keeps.out
    | (extract_lets +onlyGivenNames u; refine (?_ : Keeps z u → _) ?_; rotate_left; unfold u; rotate_left; intro hu; try clear_value u)
    | (extract_lets +onlyGivenNames u; try clear_value u)
    | split

theorem execTripInputHigh_keeps {z s : State} {x0 x1} (h : Keeps z s) : KeepsOut z (Sys2Proof.Machine.execTripInputHigh x0 x1 s) := by
  unfold execTripInputHigh
  repeat' first
    | with_reducible assumption
    | with_reducible apply State.seeTrip_keeps
    | with_reducible apply State.advance_keeps
    | with_reducible apply Keeps.out

theorem State.releaseAsc_keeps {z s : State} (h : Keeps z s) : Keeps z (Sys2Proof.Machine.State.releaseAsc s) := by
  unfold State.releaseAsc
  repeat' first
    | with_reducible assumption
    | with_reducible apply State.showSafe_keeps
    | with_reducible apply State.setKind_keeps
    | with_reducible apply Keeps.ite
    | (with_reducible refine Keeps.foldl (fun x a hx => ?_) ?_ _ <;> beta_reduce)

theorem State.drvenDrops_keeps {z s : State} (h : Keeps z s) : Keeps z (Sys2Proof.Machine.State.drvenDrops s) := by
  unfold State.drvenDrops
  repeat' first
    | with_reducible assumption
    | with_reducible apply State.seeDrven_keeps
    | with_reducible apply State.releaseAsc_keeps
    | with_reducible apply State.blockAll_keeps
    | simp -zeta only [Keeps.mk_iff, Keeps.mkCom_iff, Keeps.mkLog_iff]

theorem execDrvenLow_keeps {z s : State} {x0} (h : Keeps z s) : KeepsOut z (execDrvenLow x0 s) := by
  unfold execDrvenLow
  repeat' first
    | with_reducible assumption
    | with_reducible apply State.advance_keeps
    | with_reducible apply State.showModes_keeps
    | with_reducible apply State.raise_keeps
    | with_reducible apply State.event_keeps
    | with_reducible apply State.drvenDrops_keeps
    | with_reducible apply Keeps.out
    | (extract_lets +onlyGivenNames u; refine (?_ : Keeps z u → _) ?_; rotate_left; unfold u; rotate_left; intro hu; try clear_value u)
    | split

theorem State.refuseClear_keeps {z s : State} {x1} (h : Keeps z s) : Keeps z (State.refuseClear s x1) := by
  unfold State.refuseClear
  repeat' first
    | with_reducible assumption
    | with_reducible apply State.bumpBy_keeps
    | with_reducible apply State.event_keeps
    | with_reducible apply State.setF_keeps
    | with_reducible apply State.raiseRate_keeps
    | (extract_lets +onlyGivenNames u; refine (?_ : Keeps z u → _) ?_; rotate_left; unfold u; rotate_left; intro hu; try clear_value u)
    | split

theorem State.drvenHigh_keeps {z s : State} (h : Keeps z s) : Keeps z (Sys2Proof.Machine.State.drvenHigh s) := by
  unfold State.drvenHigh
  repeat' first
    | with_reducible assumption
    | with_reducible apply State.seeDrven_keeps
    | simp -zeta only [Keeps.mk_iff, Keeps.mkCom_iff, Keeps.mkLog_iff]
    | (extract_lets +onlyGivenNames u; refine (?_ : Keeps z u → _) ?_; rotate_left; unfold u; rotate_left; intro hu; try clear_value u)

theorem State.drvenClear_keeps {z s : State} (h : Keeps z s) : Keeps z (State.drvenClear s) := by
  unfold State.drvenClear
  repeat' first
    | with_reducible assumption
    | with_reducible apply State.drvenHigh_keeps
    | with_reducible apply State.bump_keeps
    | with_reducible apply State.showLatches_keeps
    | with_reducible apply State.raise_keeps
    | with_reducible apply State.refuseClear_keeps
    | simp -zeta only [Keeps.mk_iff, Keeps.mkCom_iff, Keeps.mkLog_iff]
    | (with_reducible refine Keeps.foldl (fun x a hx => ?_) ?_ _ <;> beta_reduce)

theorem execDrvenCycle_keeps {z s : State} {x0} (h : Keeps z s) : KeepsOut z (execDrvenCycle x0 s) := by
  unfold execDrvenCycle
  repeat' first
    | with_reducible assumption
    | with_reducible apply State.advance_keeps
    | with_reducible apply State.drvenHigh_keeps
    | with_reducible apply State.drvenClear_keeps
    | with_reducible apply Keeps.out
    | (extract_lets +onlyGivenNames u; refine (?_ : Keeps z u → _) ?_; rotate_left; unfold u; rotate_left; intro hu; try clear_value u)
    | split

theorem State.shortCircuit_keeps {z s : State} {x1} (h : Keeps z s) : Keeps z (State.shortCircuit s x1) := by
  unfold State.shortCircuit
  repeat' first
    | with_reducible assumption
    | with_reducible apply State.event_keeps
    | with_reducible apply State.bump_keeps
    | with_reducible apply State.setB_keeps
    | with_reducible apply State.trip_keeps
    | simp -zeta only [Keeps.mk_iff, Keeps.mkCom_iff, Keeps.mkLog_iff]

theorem execGdShortCircuit_keeps {z s : State} {x0 x1 x2 x3} (h : Keeps z s) : KeepsOut z (execGdShortCircuit x0 x1 x2 x3 s) := by
  unfold execGdShortCircuit
  repeat' first
    | with_reducible assumption
    | with_reducible apply State.advance_keeps
    | with_reducible apply State.shortCircuit_keeps
    | with_reducible apply Keeps.out
    | (extract_lets +onlyGivenNames u; refine (?_ : Keeps z u → _) ?_; rotate_left; unfold u; rotate_left; intro hu; try clear_value u)
    | (extract_lets +onlyGivenNames u; try clear_value u)
    | split

theorem State.softEnds_keeps {z s : State} {x1} (h : Keeps z s) : Keeps z (Sys2Proof.Machine.State.softEnds s x1) := by
  unfold State.softEnds
  repeat' first
    | with_reducible assumption
    | with_reducible apply State.setB_keeps
    | simp -zeta only [Keeps.mk_iff, Keeps.mkCom_iff, Keeps.mkLog_iff]
    | with_reducible apply Keeps.ite

theorem execSoftTurnOffEnd_keeps {z s : State} {x0 x1} (h : Keeps z s) : KeepsOut z (Sys2Proof.Machine.execSoftTurnOffEnd x0 x1 s) := by
  unfold execSoftTurnOffEnd
  repeat' first
    | with_reducible assumption
    | with_reducible apply State.advance_keeps
    | with_reducible apply State.softEnds_keeps
    | with_reducible apply Keeps.out
    | (extract_lets +onlyGivenNames u; refine (?_ : Keeps z u → _) ?_; rotate_left; unfold u; rotate_left; intro hu; try clear_value u)
    | split

theorem State.supplyGone_keeps {z s : State} {x1 x2} (h : Keeps z s) : Keeps z (Sys2Proof.Machine.State.supplyGone s x1 x2) := by
  unfold State.supplyGone
  repeat' first
    | with_reducible assumption
    | with_reducible apply State.seeVp_keeps
    | with_reducible apply State.seeVn_keeps
    | with_reducible apply Keeps.ite

theorem State.islandUv_keeps {z s : State} {x1 x2 x3} (h : Keeps z s) : Keeps z (Sys2Proof.Machine.State.islandUv s x1 x2 x3) := by
  unfold State.islandUv
  repeat' first
    | with_reducible assumption
    | with_reducible apply State.trip_keeps
    | with_reducible apply State.event_keeps
    | with_reducible apply State.supplyGone_keeps

theorem State.supplyLost_keeps {z s : State} {x1 x2 x3} (h : Keeps z s) : Keeps z (Sys2Proof.Machine.State.supplyLost s x1 x2 x3) := by
  unfold State.supplyLost
  repeat' first
    | with_reducible assumption
    | with_reducible apply State.islandUv_keeps
    | with_reducible apply State.supplyGone_keeps
    | with_reducible apply Keeps.ite

theorem execGdVpUv_keeps {z s : State} {x0 x1 x2 x3} (h : Keeps z s) : KeepsOut z (Sys2Proof.Machine.execGdVpUv x0 x1 x2 x3 s) := by
  unfold execGdVpUv
  repeat' first
    | with_reducible assumption
    | with_reducible apply State.advance_keeps
    | with_reducible apply State.supplyLost_keeps
    | with_reducible apply Keeps.out
    | (extract_lets +onlyGivenNames u; refine (?_ : Keeps z u → _) ?_; rotate_left; unfold u; rotate_left; intro hu; try clear_value u)
    | split

theorem execGdVnUv_keeps {z s : State} {x0 x1 x2 x3} (h : Keeps z s) : KeepsOut z (Sys2Proof.Machine.execGdVnUv x0 x1 x2 x3 s) := by
  unfold execGdVnUv
  repeat' first
    | with_reducible assumption
    | with_reducible apply State.advance_keeps
    | with_reducible apply State.supplyLost_keeps
    | with_reducible apply Keeps.out
    | (extract_lets +onlyGivenNames u; refine (?_ : Keeps z u → _) ?_; rotate_left; unfold u; rotate_left; intro hu; try clear_value u)
    | (extract_lets +onlyGivenNames u; try clear_value u)
    | split

theorem State.vdrvTrip_keeps {z s : State} {x1 x2} (h : Keeps z s) : Keeps z (State.vdrvTrip s x1 x2) := by
  unfold State.vdrvTrip
  repeat' first
    | with_reducible assumption
    | with_reducible apply State.trip_keeps

theorem State.vdrvLost_keeps {z s : State} (h : Keeps z s) : Keeps z (Sys2Proof.Machine.State.vdrvLost s) := by
  unfold State.vdrvLost
  repeat' first
    | with_reducible assumption
    | with_reducible apply State.event_keeps
    | with_reducible apply State.gatesOff_keeps
    | with_reducible apply State.seeVdrv_keeps
    | with_reducible apply State.raise_keeps
    | with_reducible apply State.vdrvTrip_keeps
    | with_reducible apply Keeps.ite
    | (with_reducible refine Keeps.foldl (fun x a hx => ?_) ?_ _ <;> beta_reduce)

theorem execGdVdrvUv_keeps {z s : State} {x0 x1 x2} (h : Keeps z s) : KeepsOut z (Sys2Proof.Machine.execGdVdrvUv x0 x1 x2 s) := by
  unfold execGdVdrvUv
  repeat' first
    | with_reducible assumption
    | with_reducible apply State.advance_keeps
    | with_reducible apply State.vdrvLost_keeps
    | with_reducible apply State.seeVdrv_keeps
    | with_reducible apply Keeps.out
    | with_reducible apply Keeps.ite
    | (extract_lets +onlyGivenNames u; refine (?_ : Keeps z u → _) ?_; rotate_left; unfold u; rotate_left; intro hu; try clear_value u)
    | split

theorem execLeavesUndervoltage_keeps {z s : State} {x0 x1 x2 x3} (h : Keeps z s) : KeepsOut z (Sys2Proof.Machine.execLeavesUndervoltage x0 x1 x2 x3 s) := by
  unfold execLeavesUndervoltage
  repeat' first
    | with_reducible assumption
    | with_reducible apply State.advance_keeps
    | with_reducible apply State.seeVp_keeps
    | with_reducible apply State.seeVn_keeps
    | with_reducible apply State.seeVdrv_keeps
    | with_reducible apply Keeps.out
    | with_reducible apply Keeps.ite
    | (extract_lets +onlyGivenNames u; refine (?_ : Keeps z u → _) ?_; rotate_left; unfold u; rotate_left; intro hu; try clear_value u)
    | split

theorem State.gateMismatch_keeps {z s : State} {x1} (h : Keeps z s) : Keeps z (State.gateMismatch s x1) := by
  unfold State.gateMismatch
  repeat' first
    | with_reducible assumption
    | with_reducible apply State.trip_keeps
    | with_reducible apply State.event_keeps
    | with_reducible apply State.bump_keeps

theorem State.noteSeen_keeps {z s : State} {x1 x2} (h : Keeps z s) : Keeps z (Sys2Proof.Machine.State.noteSeen s x1 x2) := by
  unfold State.noteSeen
  repeat' first
    | with_reducible assumption
    | simp -zeta only [Keeps.mk_iff, Keeps.mkCom_iff, Keeps.mkLog_iff]

theorem execGdGateMismatch_keeps {z s : State} {x0 x1 x2 x3} (h : Keeps z s) : KeepsOut z (Sys2Proof.Machine.execGdGateMismatch x0 x1 x2 x3 s) := by
  unfold execGdGateMismatch
  repeat' first
    | with_reducible assumption
    | with_reducible apply State.advance_keeps
    | with_reducible apply State.noteSeen_keeps
    | with_reducible apply State.gateMismatch_keeps
    | with_reducible apply Keeps.out
    | with_reducible apply Keeps.ite
    | (extract_lets +onlyGivenNames u; refine (?_ : Keeps z u → _) ?_; rotate_left; unfold u; rotate_left; intro hu; try clear_value u)
    | (extract_lets +onlyGivenNames u; try clear_value u)
    | split

theorem State.markClock_keeps {z s : State} {x1 x2} (h : Keeps z s) : Keeps z (State.markClock s x1 x2) := by
  unfold State.markClock
  repeat' first
    | with_reducible assumption
    | with_reducible apply State.setB_keeps
    | with_reducible apply Keeps.ite

theorem State.clockLost_keeps {z s : State} {x1} (h : Keeps z s) : Keeps z (State.clockLost s x1) := by
  unfold State.clockLost
  repeat' first
    | with_reducible assumption
    | with_reducible apply State.trip_keeps
    | with_reducible apply State.markClock_keeps
    | simp -zeta only [Keeps.mk_iff, Keeps.mkCom_iff, Keeps.mkLog_iff]

theorem execGzIslandClock_keeps {z s : State} {x0 x1 x2} (h : Keeps z s) : KeepsOut z (execGzIslandClock x0 x1 x2 s) := by
  unfold execGzIslandClock
  repeat' first
    | with_reducible assumption
    | with_reducible apply State.advance_keeps
    | with_reducible apply State.markClock_keeps
    | with_reducible apply State.clockLost_keeps
    | simp -zeta only [Keeps.mk_iff, Keeps.mkCom_iff, Keeps.mkLog_iff]
    | with_reducible apply Keeps.out
    | with_reducible apply Keeps.ite
    | (extract_lets +onlyGivenNames u; refine (?_ : Keeps z u → _) ?_; rotate_left; unfold u; rotate_left; intro hu; try clear_value u)
    | (extract_lets +onlyGivenNames u; try clear_value u)
    | split

end Sys2Proof.Machine
end

