-- ==== Sys2Proof/Laws/KeepsReset.lean ====
section
/-! SUPPORT. The operations and meanings of Machine/Reset.lean keep what every step keeps. -/

set_option linter.unreachableTactic false
set_option linter.unusedTactic false
set_option linter.unusedSimpArgs false
set_option linter.tactic.unusedName false
set_option linter.unusedVariables false

namespace Sys2Proof.Machine
open Sys2Proof

theorem State.unretire_keeps {z s : State} {x1} (h : Keeps z s) : Keeps z (Sys2Proof.Machine.State.unretire s x1) := by
  unfold State.unretire
  repeat' first
    | with_reducible assumption
    | simp -zeta only [Keeps.mk_iff, Keeps.mkCom_iff, Keeps.mkLog_iff]
    | with_reducible apply Keeps.ite

theorem State.loseChunk_keeps {z s : State} {x1} (h : Keeps z s) : Keeps z (Sys2Proof.Machine.State.loseChunk s x1) := by
  unfold State.loseChunk
  repeat' first
    | with_reducible assumption
    | simp -zeta only [Keeps.mk_iff, Keeps.mkCom_iff, Keeps.mkLog_iff]

theorem State.loseQueue_keeps {z s : State} (h : Keeps z s) : Keeps z (State.loseQueue s) := by
  unfold State.loseQueue
  extract_lets a t l u
  have ha : Keeps z a := Keeps.foldl (fun x k hx => State.loseChunk_keeps hx) h _
  have ht : Keeps z t := Keeps.foldl (fun x k hx => State.unretire_keeps hx) ha _
  have el : t.log = a.log := by
    have one : ∀ (x : State) (k : Nat), (x.unretire k).log = x.log := by
      intro x k; unfold State.unretire; repeat' split
      all_goals rfl
    have all : ∀ (l : List Nat) (x : State), (l.foldl (fun (x : State) k => x.unretire k) x).log = x.log := by
      intro l
      induction l with
      | nil => intro x; rfl
      | cons k l ih => intro x; exact (ih _).trans (one x k)
    exact all _ _
  have hu : Keeps z u := ht.logged rfl rfl rfl rfl rfl (fun _ => ?_) (fun e => e) rfl
  · split
    · exact ha
    · exact State.setF_keeps hu
  · rename_i e
    rw [el] at e
    exact Nat.le_trans (List.length_filter_le _ _) e

theorem surviveRegs_canonical {l : List (Nat × Word)} (h : RegsCanonical l) : RegsCanonical (surviveRegs l) := by
  have hm : ∀ {p q : Nat × Word}, (fun (p : Nat × Word) => let v := overlay (resetWord p.1) (surviveMask p.1) p.2.toNat
      if v = resetWord p.1 then none else some (p.1, v)) p = some q → q.1 = p.1 ∧ q.2 ≠ resetWord q.1 := by
    intro p q hq
    dsimp only at hq
    split at hq
    · cases hq
    · cases hq; exact ⟨rfl, by assumption⟩
  constructor
  · refine List.Pairwise.filterMap _ ?_ h.1
    intro a b hab c hc d hd
    rw [(hm hc).1, (hm hd).1]
    exact hab
  · intro q hq
    obtain ⟨p, _, hp⟩ := List.mem_filterMap.1 hq
    exact (hm hp).2

theorem State.mainReset_keeps {z s : State} (h : Keeps z s) : Keeps z (State.mainReset s) := by
  unfold State.mainReset
  dsimp only
  refine State.showLatches_keeps ?_
  have k : ∀ {t : State}, t.pending = s.pending → t.now = s.now → t.regs = surviveRegs s.regs → t.com.sessions = [] → t.log.recs = s.log.recs →
      t.log.fifo = [] → t.shadow = [] → t.rdg = s.rdg → Keeps z t := by
    intro t e1 e2 e3 e4 e5 e6 e7 er
    refine h.trans ⟨e1, by rw [e2], by rw [er]; exact Ridge.Kept.refl _, fun b hb x => ⟨?_, ?_, ?_, ?_, ?_, ?_⟩⟩
    · rw [e4]; exact Nat.zero_le _
    · rw [e4]; intro y hy; cases hy
    · rw [e5]; exact x.recs
    · rw [e6]; exact Nat.zero_le _
    · rw [State.heldWrites, e7]; exact Nat.zero_le _
    · rw [e3]; exact surviveRegs_canonical x.regs
  exact k rfl rfl rfl rfl rfl rfl rfl rfl

theorem State.loseUnsaved_keeps {z s : State} (h : Keeps z s) : Keeps z (State.loseUnsaved s) := by
  unfold State.loseUnsaved
  repeat' first
    | with_reducible assumption
    | with_reducible apply State.setF_keeps
    | with_reducible apply State.setQ_keeps
    | simp -zeta only [Keeps.mk_iff, Keeps.mkCom_iff, Keeps.mkLog_iff]
    | (with_reducible refine Keeps.foldl (fun x a hx => ?_) ?_ _ <;> beta_reduce)

theorem State.holdReset_keeps {z s : State} {x1} (h : Keeps z s) : Keeps z (State.holdReset s x1) := by
  unfold State.holdReset
  repeat' first
    | with_reducible assumption
    | with_reducible apply State.mainReset_keeps
    | simp -zeta only [Keeps.mk_iff, Keeps.mkCom_iff, Keeps.mkLog_iff]
    | (extract_lets +onlyGivenNames u; refine (?_ : Keeps z u → _) ?_; rotate_left; unfold u; rotate_left; intro hu; try clear_value u)

theorem State.resetAndBoot_keeps {z s : State} {x1} (h : Keeps z s) : Keeps z (State.resetAndBoot s x1) := by
  unfold State.resetAndBoot
  repeat' first
    | with_reducible assumption
    | with_reducible apply State.mainReset_keeps
    | simp -zeta only [Keeps.mk_iff, Keeps.mkCom_iff, Keeps.mkLog_iff]
    | (extract_lets +onlyGivenNames u; refine (?_ : Keeps z u → _) ?_; rotate_left; unfold u; rotate_left; intro hu; try clear_value u)

end Sys2Proof.Machine
end

