-- ==== Sys2Proof/Laws/KeepsSlate.lean ====
section
/-! SUPPORT. The operations and meanings of Machine/Slate.lean keep what every step keeps. -/

set_option linter.unreachableTactic false
set_option linter.unusedTactic false
set_option linter.unusedSimpArgs false
set_option linter.tactic.unusedName false
set_option linter.unusedVariables false

namespace Sys2Proof.Machine
open Sys2Proof

theorem State.slateAlone_keeps {z s : State} {x1} (h : Keeps z s) : Keeps z (State.slateAlone s x1) := by
  unfold State.slateAlone
  repeat' first
    | with_reducible assumption
    | with_reducible apply State.applySafe_keeps
    | simp -zeta only [Keeps.mk_iff, Keeps.mkCom_iff, Keeps.mkLog_iff]
    | with_reducible apply Keeps.ite
    | (with_reducible refine Keeps.foldl (fun x a hx => ?_) ?_ _ <;> beta_reduce)

theorem State.spLost_keeps {z s : State} {x1 x2} (h : Keeps z s) : Keeps z (Sys2Proof.Machine.State.spLost s x1 x2) := by
  unfold State.spLost
  repeat' first
    | with_reducible assumption
    | with_reducible apply State.event_keeps
    | with_reducible apply State.raise_keeps
    | with_reducible apply State.setB_keeps
    | with_reducible apply State.slateAlone_keeps
    | with_reducible apply Keeps.ite
    | (extract_lets +onlyGivenNames u; try clear_value u)
    | split

theorem State.loseSp_keeps {z s : State} {x1 x2 x3} (h : Keeps z s) : Keeps z (Sys2Proof.Machine.State.loseSp s x1 x2 x3) := by
  unfold State.loseSp
  repeat' first
    | with_reducible assumption
    | with_reducible apply State.spLost_keeps
    | simp -zeta only [Keeps.mk_iff, Keeps.mkCom_iff, Keeps.mkLog_iff]
    | with_reducible apply Keeps.ite

theorem execSltClockLoss_keeps {z s : State} {x0 x1 x2 x3} (h : Keeps z s) : KeepsOut z (execSltClockLoss x0 x1 x2 x3 s) := by
  unfold execSltClockLoss
  repeat' first
    | with_reducible assumption
    | with_reducible apply State.advance_keeps
    | with_reducible apply State.raise_keeps
    | with_reducible apply State.spLost_keeps
    | with_reducible apply State.showModes_keeps
    | with_reducible apply State.releaseAsc_keeps
    | with_reducible apply State.blockAll_keeps
    | simp -zeta only [Keeps.mk_iff, Keeps.mkCom_iff, Keeps.mkLog_iff]
    | with_reducible apply Keeps.out
    | with_reducible apply Keeps.ite
    | (extract_lets +onlyGivenNames u; refine (?_ : Keeps z u → _) ?_; rotate_left; unfold u; rotate_left; intro hu; try clear_value u)
    | (extract_lets +onlyGivenNames u; try clear_value u)
    | split

theorem State.qaMiss_keeps {z s : State} (h : Keeps z s) : Keeps z (Sys2Proof.Machine.State.qaMiss s) := by
  unfold State.qaMiss
  repeat' first
    | with_reducible assumption
    | with_reducible apply State.bump_keeps
    | with_reducible apply State.setB_keeps
    | with_reducible apply State.loseSp_keeps
    | simp -zeta only [Keeps.mk_iff, Keeps.mkCom_iff, Keeps.mkLog_iff]

theorem execSltQuestion_keeps {z s : State} {x0} (h : Keeps z s) : KeepsOut z (execSltQuestion x0 s) := by
  unfold execSltQuestion
  repeat' first
    | with_reducible assumption
    | with_reducible apply State.advance_keeps
    | with_reducible apply State.qaMiss_keeps
    | with_reducible apply State.draw_keeps
    | with_reducible apply State.wrap_keeps
    | simp -zeta only [Keeps.mk_iff, Keeps.mkCom_iff, Keeps.mkLog_iff]
    | with_reducible apply Keeps.out
    | with_reducible apply Keeps.ite
    | (extract_lets +onlyGivenNames u; refine (?_ : Keeps z u → _) ?_; rotate_left; unfold u; rotate_left; intro hu; try clear_value u)
    | (extract_lets +onlyGivenNames u; try clear_value u)
    | split

theorem execSpAnswerWord_keeps {z s : State} {x0 x1} (h : Keeps z s) : KeepsOut z (execSpAnswerWord x0 x1 s) := by
  unfold execSpAnswerWord
  repeat' first
    | with_reducible assumption
    | with_reducible apply State.advance_keeps
    | with_reducible apply State.qaMiss_keeps
    | with_reducible apply State.setB_keeps
    | simp -zeta only [Keeps.mk_iff, Keeps.mkCom_iff, Keeps.mkLog_iff]
    | with_reducible apply Keeps.out
    | with_reducible apply Keeps.ite
    | (extract_lets +onlyGivenNames u; refine (?_ : Keeps z u → _) ?_; rotate_left; unfold u; rotate_left; intro hu; try clear_value u)
    | (extract_lets +onlyGivenNames u; try clear_value u)
    | split

theorem execSltQaMiss_keeps {z s : State} {x0} (h : Keeps z s) : KeepsOut z (execSltQaMiss x0 s) := by
  unfold execSltQaMiss
  repeat' first
    | with_reducible assumption
    | with_reducible apply State.advance_keeps
    | with_reducible apply State.qaMiss_keeps
    | with_reducible apply Keeps.out
    | (extract_lets +onlyGivenNames u; refine (?_ : Keeps z u → _) ?_; rotate_left; unfold u; rotate_left; intro hu; try clear_value u)
    | split

theorem execSpLockstep_keeps {z s : State} {x0} (h : Keeps z s) : KeepsOut z (Sys2Proof.Machine.execSpLockstep x0 s) := by
  unfold execSpLockstep
  repeat' first
    | with_reducible assumption
    | with_reducible apply State.advance_keeps
    | with_reducible apply State.loseSp_keeps
    | with_reducible apply Keeps.out
    | (extract_lets +onlyGivenNames u; refine (?_ : Keeps z u → _) ?_; rotate_left; unfold u; rotate_left; intro hu; try clear_value u)
    | split

theorem State.limitsFail_keeps {z s : State} (h : Keeps z s) : Keeps z (Sys2Proof.Machine.State.limitsFail s) := by
  unfold State.limitsFail
  repeat' first
    | with_reducible assumption
    | with_reducible apply State.raise_keeps
    | with_reducible apply State.event_keeps
    | simp -zeta only [Keeps.mk_iff, Keeps.mkCom_iff, Keeps.mkLog_iff]
    | with_reducible apply Keeps.ite

theorem execSltLimitCorrupt_keeps {z s : State} {x0 x1} (h : Keeps z s) : KeepsOut z (Sys2Proof.Machine.execSltLimitCorrupt x0 x1 s) := by
  unfold execSltLimitCorrupt
  repeat' first
    | with_reducible assumption
    | with_reducible apply State.advance_keeps
    | with_reducible apply State.limitsFail_keeps
    | simp -zeta only [Keeps.mk_iff, Keeps.mkCom_iff, Keeps.mkLog_iff]
    | with_reducible apply Keeps.out
    | (extract_lets +onlyGivenNames u; refine (?_ : Keeps z u → _) ?_; rotate_left; unfold u; rotate_left; intro hu; try clear_value u)
    | (extract_lets +onlyGivenNames u; try clear_value u)
    | split

theorem State.checkDrift_keeps {z s : State} {x1 x2} (h : Keeps z s) : Keeps z (State.checkDrift s x1 x2) := by
  unfold State.checkDrift
  repeat' first
    | with_reducible assumption
    | with_reducible apply State.raise_keeps
    | simp -zeta only [Keeps.mk_iff, Keeps.mkCom_iff, Keeps.mkLog_iff]
    | with_reducible apply Keeps.ite

theorem State.checkGates_keeps {z s : State} {x1} (h : Keeps z s) : Keeps z (State.checkGates s x1) := by
  unfold State.checkGates
  repeat' first
    | with_reducible assumption
    | with_reducible apply State.raise_keeps
    | simp -zeta only [Keeps.mk_iff, Keeps.mkCom_iff, Keeps.mkLog_iff]
    | with_reducible apply Keeps.ite

theorem State.checkTorque_keeps {z s : State} {x1 x2 x3} (h : Keeps z s) : Keeps z (State.checkTorque s x1 x2 x3) := by
  unfold State.checkTorque
  repeat' first
    | with_reducible assumption
    | with_reducible apply State.raise_keeps
    | simp -zeta only [Keeps.mk_iff, Keeps.mkCom_iff, Keeps.mkLog_iff]
    | with_reducible apply Keeps.ite

theorem execSpPeriodicCheck_keeps {z s : State} {x0 x1 x2 x3 x4 x5} (h : Keeps z s) : KeepsOut z (execSpPeriodicCheck x0 x1 x2 x3 x4 x5 s) := by
  unfold execSpPeriodicCheck
  repeat' first
    | with_reducible assumption
    | with_reducible apply State.advance_keeps
    | with_reducible apply State.checkTorque_keeps
    | with_reducible apply State.checkGates_keeps
    | with_reducible apply State.checkDrift_keeps
    | with_reducible apply Keeps.out
    | (extract_lets +onlyGivenNames u; refine (?_ : Keeps z u → _) ?_; rotate_left; unfold u; rotate_left; intro hu; try clear_value u)
    | split

theorem State.loseSet_keeps {z s : State} {x1 x2} (h : Keeps z s) : Keeps z (Sys2Proof.Machine.State.loseSet s x1 x2) := by
  unfold State.loseSet
  repeat' first
    | with_reducible assumption
    | with_reducible apply State.applySafe_keeps
    | with_reducible apply State.raise_keeps
    | with_reducible apply State.event_keeps
    | with_reducible apply State.setB_keeps
    | with_reducible apply Keeps.ite

theorem State.partner_keeps {z s : State} {x1} (h : Keeps z s) : Keeps z (Sys2Proof.Machine.State.partner s x1) := by
  unfold State.partner
  repeat' first
    | with_reducible assumption
    | with_reducible apply State.raise_keeps
    | with_reducible apply State.setB_keeps
    | with_reducible apply State.loseSet_keeps
    | with_reducible apply Keeps.ite

theorem execSafeStateRequest_keeps {z s : State} {x0 x1} (h : Keeps z s) : KeepsOut z (execSafeStateRequest x0 x1 s) := by
  unfold execSafeStateRequest
  repeat' first
    | with_reducible assumption
    | with_reducible apply State.advance_keeps
    | with_reducible apply State.showModes_keeps
    | with_reducible apply State.applySafe_keeps
    | with_reducible apply State.partner_keeps
    | with_reducible apply Keeps.out
    | with_reducible apply Keeps.ite
    | (extract_lets +onlyGivenNames u; refine (?_ : Keeps z u → _) ?_; rotate_left; unfold u; rotate_left; intro hu; try clear_value u)
    | (extract_lets +onlyGivenNames u; try clear_value u)
    | split

theorem execSafeStateConfirm_keeps {z s : State} {x0 x1} (h : Keeps z s) : KeepsOut z (execSafeStateConfirm x0 x1 s) := by
  unfold execSafeStateConfirm
  repeat' first
    | with_reducible assumption
    | with_reducible apply State.advance_keeps
    | simp -zeta only [Keeps.mk_iff, Keeps.mkCom_iff, Keeps.mkLog_iff]
    | with_reducible apply Keeps.out
    | with_reducible apply Keeps.ite
    | (with_reducible refine Keeps.foldl (fun x a hx => ?_) ?_ _ <;> beta_reduce)
    | (extract_lets +onlyGivenNames u; refine (?_ : Keeps z u → _) ?_; rotate_left; unfold u; rotate_left; intro hu; try clear_value u)
    | split

theorem execSltBOverrun_keeps {z s : State} {x0} (h : Keeps z s) : KeepsOut z (execSltBOverrun x0 s) := by
  unfold execSltBOverrun
  repeat' first
    | with_reducible assumption
    | with_reducible apply State.advance_keeps
    | with_reducible apply State.raise_keeps
    | with_reducible apply State.event_keeps
    | with_reducible apply State.showModes_keeps
    | with_reducible apply State.slateAlone_keeps
    | with_reducible apply Keeps.out
    | (extract_lets +onlyGivenNames u; refine (?_ : Keeps z u → _) ?_; rotate_left; unfold u; rotate_left; intro hu; try clear_value u)
    | split

theorem execSpAscRelease_keeps {z s : State} {x0 x1} (h : Keeps z s) : KeepsOut z (Sys2Proof.Machine.execSpAscRelease x0 x1 s) := by
  unfold execSpAscRelease
  repeat' first
    | with_reducible assumption
    | with_reducible apply State.advance_keeps
    | with_reducible apply State.showSafe_keeps
    | with_reducible apply State.setKind_keeps
    | with_reducible apply Keeps.out
    | (extract_lets +onlyGivenNames u; refine (?_ : Keeps z u → _) ?_; rotate_left; unfold u; rotate_left; intro hu; try clear_value u)
    | (extract_lets +onlyGivenNames u; try clear_value u)
    | split

theorem State.leaveSafe_keeps {z s : State} (h : Keeps z s) : Keeps z (State.leaveSafe s) := by
  unfold State.leaveSafe
  repeat' first
    | with_reducible assumption
    | with_reducible apply State.toPower_keeps
    | with_reducible apply Keeps.ite

theorem State.endHold_keeps {z s : State} {x1} (h : Keeps z s) : Keeps z (Sys2Proof.Machine.State.endHold s x1) := by
  unfold State.endHold
  repeat' first
    | with_reducible assumption
    | with_reducible apply State.setKind_keeps
    | with_reducible apply State.showSafe_keeps
    | with_reducible apply State.setF_keeps
    | simp -zeta only [Keeps.mk_iff, Keeps.mkCom_iff, Keeps.mkLog_iff]
    | with_reducible apply Keeps.ite
    | (extract_lets +onlyGivenNames u; refine (?_ : Keeps z u → _) ?_; rotate_left; unfold u; rotate_left; intro hu; try clear_value u)
    | (extract_lets +onlyGivenNames u; try clear_value u)

theorem execSpHoldRelease_keeps {z s : State} {x0 x1} (h : Keeps z s) : KeepsOut z (execSpHoldRelease x0 x1 s) := by
  unfold execSpHoldRelease
  repeat' first
    | with_reducible assumption
    | with_reducible apply State.advance_keeps
    | with_reducible apply State.leaveSafe_keeps
    | with_reducible apply State.endHold_keeps
    | with_reducible apply Keeps.out
    | (extract_lets +onlyGivenNames u; refine (?_ : Keeps z u → _) ?_; rotate_left; unfold u; rotate_left; intro hu; try clear_value u)
    | split

theorem execSltSelftestDue_keeps {z s : State} {x0} (h : Keeps z s) : KeepsOut z (execSltSelftestDue x0 s) := by
  unfold execSltSelftestDue
  repeat' first
    | with_reducible assumption
    | with_reducible apply State.advance_keeps
    | with_reducible apply State.raise_keeps
    | simp -zeta only [Keeps.mk_iff, Keeps.mkCom_iff, Keeps.mkLog_iff]
    | with_reducible apply Keeps.out
    | (extract_lets +onlyGivenNames u; refine (?_ : Keeps z u → _) ?_; rotate_left; unfold u; rotate_left; intro hu; try clear_value u)
    | (extract_lets +onlyGivenNames u; try clear_value u)
    | split

theorem execSafeStatus_keeps {z s : State} {x0} (h : Keeps z s) : KeepsOut z (execSafeStatus x0 s) := by
  unfold execSafeStatus
  repeat' first
    | with_reducible assumption
    | (with_reducible refine serveOp_keeps (by with_reducible assumption) fun z t u hu => ?_; beta_reduce)
    | with_reducible apply okWith_keeps

theorem State.latchEntry_keeps {z s : State} {x1 x2 x3} (h : Keeps z s) : Keeps z (State.latchEntry s x1 x2 x3) := by
  unfold State.latchEntry
  repeat' first
    | with_reducible assumption
    | with_reducible apply State.event_keeps
    | with_reducible apply State.raise_keeps
    | with_reducible apply State.trip_keeps
    | with_reducible apply Keeps.ite

theorem State.tripEntry_keeps {z s : State} {x1 x2 x3} (h : Keeps z s) : Keeps z (State.tripEntry s x1 x2 x3) := by
  unfold State.tripEntry
  repeat' first
    | with_reducible assumption
    | with_reducible apply State.latchEntry_keeps
    | simp -zeta only [Keeps.mk_iff, Keeps.mkCom_iff, Keeps.mkLog_iff]
    | with_reducible apply Keeps.ite

theorem State.compVdc_keeps {z s : State} {x1} (h : Keeps z s) : Keeps z (State.compVdc s x1) := by
  unfold State.compVdc
  repeat' first
    | with_reducible assumption
    | with_reducible apply State.setB_keeps
    | with_reducible apply State.trip_keeps
    | with_reducible apply State.event_keeps
    | with_reducible apply State.applySafe_keeps
    | with_reducible apply Keeps.ite
    | (with_reducible refine Keeps.foldl (fun x a hx => ?_) ?_ _ <;> beta_reduce)

theorem State.compBrake_keeps {z s : State} {x1} (h : Keeps z s) : Keeps z (Sys2Proof.Machine.State.compBrake s x1) := by
  unfold State.compBrake
  repeat' first
    | with_reducible assumption
    | with_reducible apply State.setB_keeps
    | with_reducible apply State.setF_keeps
    | with_reducible apply State.bar_keeps
    | with_reducible apply State.chOff_keeps
    | with_reducible apply State.raise_keeps
    | with_reducible apply State.event_keeps
    | with_reducible apply State.bump_keeps
    | simp -zeta only [Keeps.mk_iff, Keeps.mkCom_iff, Keeps.mkLog_iff]
    | with_reducible apply Keeps.ite
    | (with_reducible refine Keeps.foldl (fun x a hx => ?_) ?_ _ <;> beta_reduce)

theorem State.compCurrent_keeps {z s : State} {x1 x2} (h : Keeps z s) : Keeps z (State.compCurrent s x1 x2) := by
  unfold State.compCurrent
  repeat' first
    | with_reducible assumption
    | simp -zeta only [Keeps.mk_iff, Keeps.mkCom_iff, Keeps.mkLog_iff]
    | (extract_lets +onlyGivenNames u; try clear_value u)

theorem State.slateComp_keeps {z s : State} {x1 x2} (h : Keeps z s) : Keeps z (State.slateComp s x1 x2) := by
  unfold State.slateComp
  repeat' first
    | with_reducible assumption
    | with_reducible apply State.tripEntry_keeps
    | with_reducible apply State.compVdc_keeps
    | with_reducible apply State.compBrake_keeps
    | with_reducible apply State.compCurrent_keeps
    | with_reducible apply Keeps.ite
    | (with_reducible refine Keeps.foldl (fun x a hx => ?_) ?_ _ <;> beta_reduce)

end Sys2Proof.Machine
end

