-- ==== Sys2Proof/Laws/KeepsSessions.lean ====
section
/-! SUPPORT. The operations and meanings of Machine/Sessions.lean keep what every step keeps. -/

set_option linter.unreachableTactic false
set_option linter.unusedTactic false
set_option linter.unusedSimpArgs false
set_option linter.tactic.unusedName false
set_option linter.unusedVariables false

namespace Sys2Proof.Machine
open Sys2Proof

theorem State.abandoned_keeps {z s : State} {x1} (h : Keeps z s) : Keeps z (State.abandoned s x1) := by
  unfold State.abandoned
  repeat' first
    | with_reducible assumption
    | with_reducible apply State.setF_keeps
    | with_reducible apply Keeps.ite

theorem State.abandonTransfers_keeps {z s : State} {f1} (h : Keeps z s) : Keeps z (State.abandonTransfers s f1) := by
  unfold State.abandonTransfers
  repeat' first
    | with_reducible assumption
    | with_reducible apply State.abandoned_keeps
    | simp -zeta only [Keeps.mk_iff, Keeps.mkCom_iff, Keeps.mkLog_iff]
    | (with_reducible refine Keeps.foldl (fun x a hx => ?_) ?_ _ <;> beta_reduce)
    | (extract_lets +onlyGivenNames u; (have hc : Com := u); clear hc; subst u)

theorem State.discardHold_keeps {z s : State} (h : Keeps z s) : Keeps z (State.discardHold s) := by
  unfold State.discardHold
  split
  · exact h
  · refine State.event_keeps (State.raise_keeps (State.setF_keeps (State.setF_keeps ?_)))
    exact h.shadowed rfl rfl rfl rfl rfl rfl rfl (heldFilter_le List.filter_sublist)

theorem State.mbxLapse_keeps {z s : State} (h : Keeps z s) : Keeps z (State.mbxLapse s) := by
  unfold State.mbxLapse
  repeat' first
    | with_reducible assumption
    | with_reducible apply State.setF_keeps
    | with_reducible apply Keeps.ite

theorem State.showInj_keeps {z s : State} (h : Keeps z s) : Keeps z (State.showInj s) := by
  unfold State.showInj
  repeat' first
    | with_reducible assumption
    | with_reducible apply State.setF_keeps

theorem State.calReady_keeps {z s : State} (h : Keeps z s) : Keeps z (State.calReady s) := by
  unfold State.calReady
  repeat' first
    | with_reducible assumption
    | simp -zeta only [Keeps.mk_iff, Keeps.mkCom_iff, Keeps.mkLog_iff]
    | with_reducible apply Keeps.ite
    | (extract_lets +onlyGivenNames u; try clear_value u)
    | split

theorem State.dropInjections_keeps {z s : State} {f1} (h : Keeps z s) : Keeps z (Sys2Proof.Machine.State.dropInjections s f1) := by
  unfold State.dropInjections
  repeat' first
    | with_reducible assumption
    | with_reducible apply State.calReady_keeps
    | with_reducible apply State.showInj_keeps
    | with_reducible apply State.answer_keeps
    | simp -zeta only [Keeps.mk_iff, Keeps.mkCom_iff, Keeps.mkLog_iff]
    | (with_reducible refine Keeps.foldl (fun x a hx => ?_) ?_ _ <;> beta_reduce)

theorem State.closeSession_keeps {z s : State} {id : Word} (h : Keeps z s) : Keeps z (State.closeSession s id) := by
  unfold State.closeSession
  extract_lets t streams c u v w
  have ht : Keeps z t := State.dropInjections_keeps (State.abandonTransfers_keeps h)
  have hu : Keeps z u := ht.coms rfl rfl rfl rfl (List.length_filter_le _ _) (fun _ _ hx x hm => hx x (List.mem_filter.1 hm).1) rfl rfl rfl
  have hv : Keeps z v := by
    unfold v
    split
    · exact State.mbxLapse_keeps hu
    · exact hu
  have hw : Keeps z w := by
    unfold w
    split
    · split
      · exact State.discardHold_keeps hv
      · exact hv
    · exact hv
  split
  · split
    · exact State.setF_keeps (Keeps.mk_iff.2 hw)
    · exact hw
  · exact hw

theorem State.closeSessions_keeps {z s : State} {f1} (h : Keeps z s) : Keeps z (State.closeSessions s f1) := by
  unfold State.closeSessions
  repeat' first
    | with_reducible assumption
    | with_reducible apply State.closeSession_keeps
    | (with_reducible refine Keeps.foldl (fun x a hx => ?_) ?_ _ <;> beta_reduce)

theorem State.authFailed_keeps {z s : State} (h : Keeps z s) : Keeps z (State.authFailed s) := by
  unfold State.authFailed
  repeat' first
    | with_reducible assumption
    | with_reducible apply State.bump_keeps
    | with_reducible apply State.raise_keeps
    | simp -zeta only [Keeps.mk_iff, Keeps.mkCom_iff, Keeps.mkLog_iff]
    | with_reducible apply Keeps.ite
    | (extract_lets +onlyGivenNames u; (have hc : Com := u); clear hc; subst u)

theorem State.drawChallenge_keeps {z s : State} (h : Keeps z s) : Keeps z (State.drawChallenge s).2 := by
  unfold State.drawChallenge
  repeat' first
    | with_reducible assumption
    | with_reducible apply State.draw_keeps
    | simp -zeta only [Keeps.mk_iff, Keeps.mkCom_iff, Keeps.mkLog_iff]
    | (with_reducible refine Keeps.foldlSnd (fun x a hx => ?_) ?_ _ <;> beta_reduce)

theorem State.resend_keeps {z s : State} {x1 x2} (h : Keeps z s) : Keeps z (State.resend s x1 x2) := by
  unfold State.resend
  dsimp only
  repeat' first
    | with_reducible assumption
    | with_reducible apply State.bump_keeps
    | with_reducible apply State.flush_keeps
    | simp -zeta only [Keeps.mk_iff, Keeps.mkCom_iff, Keeps.mkLog_iff]

theorem State.drawChallenge_com (s : State) : s.drawChallenge.2.com = s.com := by
  simp [State.drawChallenge, List.range, List.range.loop, State.draw]

/-- A session joins while fewer than four are open. -/
theorem Keeps.join {z s t : State} {x : Session} {opens : List OpenEntry} (h : Keeps z t) (hc : t.com.sessions = s.com.sessions)
    (h4 : ¬ 4 ≤ s.com.sessions.length) (hx : x.cache = []) :
    Keeps z { t with com := { t.com with sessions := x :: t.com.sessions, opens := opens } } := by
  refine ⟨h.1, h.2.1, h.2.2.1, fun b hb hz => ?_⟩
  have k := h.2.2.2 b hb hz
  refine ⟨?_, ?_, k.recs, k.fifo, k.held, k.regs⟩
  · simp only [List.length_cons, hc]; omega
  · intro y hy
    rcases List.mem_cons.1 hy with rfl | hy
    · simp [hx]
    · exact k.caches y hy

theorem openSession_keeps {z s : State} {level t} (h : Keeps z s) : KeepsRes z (openSession level t s) := by
  unfold openSession
  dsimp only
  split
  · exact refuse_keeps (State.authFailed_keeps h)
  · split
    · exact refuse_keeps h
    · rename_i h4
      split
      · exact refuse_keeps h
      · refine okWith_keeps (Keeps.join (s := s) ?_ ?_ h4 rfl)
        · split
          · exact State.draw_keeps h
          · exact State.drawChallenge_keeps (State.draw_keeps h)
        · split
          · rfl
          · exact congrArg Com.sessions (State.drawChallenge_com _)

theorem execSessionOpen_keeps {z s : State} {x0} (h : Keeps z s) : KeepsOut z (execSessionOpen x0 s) := by
  unfold execSessionOpen
  repeat' first
    | with_reducible assumption
    | (with_reducible refine serveOp_keeps (by with_reducible assumption) fun z t u hu => ?_; beta_reduce)
    | with_reducible apply State.resend_keeps
    | with_reducible apply refuse_keeps
    | with_reducible apply openSession_keeps
    | with_reducible apply Keeps.later
    | (extract_lets +onlyGivenNames u; try clear_value u)
    | split

theorem State.chunk_keeps {z s : State} {x1 x2 x3 x4 x5 x6 x7} (h : Keeps z s) : KeepsChunk z (State.chunk s x1 x2 x3 x4 x5 x6 x7) := by
  unfold State.chunk
  dsimp only
  repeat' first
    | with_reducible assumption
    | simp -zeta only [Keeps.mk_iff, Keeps.mkCom_iff, Keeps.mkLog_iff]
    | with_reducible apply Keeps.more
    | with_reducible apply Keeps.whole
    | with_reducible exact KeepsChunk.bad
    | with_reducible exact KeepsChunk.busy
    | split

theorem refuseChunk_keeps {z s : State} {x0 x1} (h : Keeps z s) : KeepsRes z (refuseChunk x0 x1 s) := by
  unfold refuseChunk
  repeat' first
    | with_reducible assumption
    | with_reducible apply refuse_keeps
    | with_reducible apply State.abandonTransfers_keeps

theorem failProof_keeps {z s : State} {x0} (h : Keeps z s) : Keeps z (failProof x0 s) := by
  unfold failProof
  repeat' first
    | with_reducible assumption
    | with_reducible apply State.closeSession_keeps
    | with_reducible apply State.answer_keeps
    | with_reducible apply State.authFailed_keeps

theorem execSessionProve_keeps {z s : State} {r : Req} (h : Keeps z s) : KeepsOut z (execSessionProve r s) := by
  unfold execSessionProve
  refine Keeps.out (serve_keeps h fun z t u hu => ?_)
  generalize hg : u.chunk 0x0011 0 8240 r.session (r.num 0 4) (r.num 4 4) (r.params.drop 8) = c
  have hk : KeepsChunk z c := hg ▸ State.chunk_keeps hu
  cases c with
  | bad => exact refuseChunk_keeps hu
  | busy =>
    dsimp only
    repeat' first | with_reducible exact refuse_keeps hu | with_reducible exact Keeps.later (failProof_keeps hu) | split
  | more v =>
    have hv : Keeps z v := hk
    dsimp only
    repeat' first | with_reducible exact refuse_keeps hu | with_reducible exact Keeps.later (failProof_keeps hu) | with_reducible exact okWith_keeps hv | split
  | whole b v =>
    have hv : Keeps z v := hk
    dsimp only
    repeat' first | with_reducible exact refuse_keeps hu | with_reducible exact Keeps.later (failProof_keeps hu) | exact Keeps.later (Keeps.same hv rfl rfl rfl rfl rfl rfl rfl rfl) | split

theorem execProofVerified_keeps {z s : State} {t} (h : Keeps z s) : KeepsOut z (execProofVerified t s) := by
  unfold execProofVerified
  extract_lets +onlyGivenNames u
  have hu : Keeps z u := State.advance_keeps h
  clear_value u
  split
  · extract_lets c v
    have hv : Keeps z v := hu.same rfl rfl rfl rfl rfl rfl rfl rfl
    clear_value v
    split
    · exact Keeps.out (failProof_keeps hv)
    · split
      · exact Keeps.out (State.answer_keeps (State.mapSession_keeps hv fun x => ⟨rfl, fun _ _ h => h⟩))
      · exact Keeps.out (failProof_keeps hv)
  · exact Keeps.out hu

theorem execAuthLockoutEnd_keeps {z s : State} {x0} (h : Keeps z s) : KeepsOut z (execAuthLockoutEnd x0 s) := by
  unfold execAuthLockoutEnd
  repeat' first
    | with_reducible assumption
    | with_reducible apply State.advance_keeps
    | simp -zeta only [Keeps.mk_iff, Keeps.mkCom_iff, Keeps.mkLog_iff]
    | with_reducible apply Keeps.out
    | with_reducible apply Keeps.ite
    | (extract_lets +onlyGivenNames u; (have hc : Com := u); clear hc; subst u)

theorem execSessionClose_keeps {z s : State} {x0} (h : Keeps z s) : KeepsOut z (execSessionClose x0 s) := by
  unfold execSessionClose
  repeat' first
    | with_reducible assumption
    | (with_reducible refine serveOp_keeps (by with_reducible assumption) fun z t u hu => ?_; beta_reduce)
    | with_reducible apply State.closeSession_keeps
    | with_reducible apply State.answer_keeps
    | with_reducible apply Keeps.later

theorem execSessionIdleExpiry_keeps {z s : State} {x0 x1} (h : Keeps z s) : KeepsOut z (execSessionIdleExpiry x0 x1 s) := by
  unfold execSessionIdleExpiry
  repeat' first
    | with_reducible assumption
    | with_reducible apply State.advance_keeps
    | with_reducible apply State.closeSession_keeps
    | with_reducible apply Keeps.out
    | with_reducible apply Keeps.ite
    | (extract_lets +onlyGivenNames u; refine (?_ : Keeps z u → _) ?_; rotate_left; unfold u; rotate_left; intro hu; try clear_value u)
    | split

theorem execChallengeExpiry_keeps {z s : State} {x0 x1} (h : Keeps z s) : KeepsOut z (execChallengeExpiry x0 x1 s) := by
  unfold execChallengeExpiry
  repeat' first
    | with_reducible assumption
    | with_reducible apply State.advance_keeps
    | (with_reducible refine State.mapSession_keeps ?_ fun x => ⟨rfl, fun _ _ h => h⟩)
    | with_reducible apply Keeps.out
    | with_reducible apply Keeps.ite
    | (extract_lets +onlyGivenNames u; refine (?_ : Keeps z u → _) ?_; rotate_left; unfold u; rotate_left; intro hu; try clear_value u)
    | split

theorem execEthLinkDown_keeps {z s : State} {x0} (h : Keeps z s) : KeepsOut z (execEthLinkDown x0 s) := by
  unfold execEthLinkDown
  repeat' first
    | with_reducible assumption
    | with_reducible apply State.advance_keeps
    | with_reducible apply State.raise_keeps
    | with_reducible apply State.closeSessions_keeps
    | simp -zeta only [Keeps.mk_iff, Keeps.mkCom_iff, Keeps.mkLog_iff]
    | with_reducible apply Keeps.out
    | with_reducible apply Keeps.ite
    | (extract_lets +onlyGivenNames u; refine (?_ : Keeps z u → _) ?_; rotate_left; unfold u; rotate_left; intro hu; try clear_value u)
    | (extract_lets +onlyGivenNames u; (have hc : Com := u); clear hc; subst u)
    | split

theorem execEthLinkUp_keeps {z s : State} {x0} (h : Keeps z s) : KeepsOut z (execEthLinkUp x0 s) := by
  unfold execEthLinkUp
  repeat' first
    | with_reducible assumption
    | with_reducible apply State.advance_keeps
    | simp -zeta only [Keeps.mk_iff, Keeps.mkCom_iff, Keeps.mkLog_iff]
    | with_reducible apply Keeps.out
    | with_reducible apply Keeps.ite
    | (extract_lets +onlyGivenNames u; (have hc : Com := u); clear hc; subst u)

theorem execApplyHold_keeps {z s : State} {x0} (h : Keeps z s) : KeepsOut z (execApplyHold x0 s) := by
  unfold execApplyHold
  repeat' first
    | with_reducible assumption
    | (with_reducible refine serveOp_keeps (by with_reducible assumption) fun z t u hu => ?_; beta_reduce)
    | with_reducible apply okWith_keeps
    | with_reducible apply refuse_keeps
    | with_reducible apply State.setF_keeps
    | simp -zeta only [Keeps.mk_iff, Keeps.mkCom_iff, Keeps.mkLog_iff]
    | (extract_lets +onlyGivenNames u; (have hc : Com := u); clear hc; subst u)
    | split

theorem State.releaseHold_keeps {z s : State} (h : Keeps z s) : Keeps z (State.releaseHold s) := by
  unfold State.releaseHold
  refine State.setF_keeps (State.setF_keeps ?_)
  exact h.shadowed rfl rfl rfl rfl rfl rfl rfl (heldMap_le fun w hw => absurd hw (by simp))

theorem execHoldExpired_keeps {z s : State} {x0} (h : Keeps z s) : KeepsOut z (execHoldExpired x0 s) := by
  unfold execHoldExpired
  repeat' first
    | with_reducible assumption
    | with_reducible apply State.advance_keeps
    | with_reducible apply State.discardHold_keeps
    | with_reducible apply Keeps.out
    | with_reducible apply Keeps.ite
    | (extract_lets +onlyGivenNames u; refine (?_ : Keeps z u → _) ?_; rotate_left; unfold u; rotate_left; intro hu; try clear_value u)
    | split

theorem execLock_keeps {z s : State} {x0} (h : Keeps z s) : KeepsOut z (execLock x0 s) := by
  unfold execLock
  repeat' first
    | with_reducible assumption
    | (with_reducible refine serveOp_keeps (by with_reducible assumption) fun z t u hu => ?_; beta_reduce)
    | with_reducible apply okWith_keeps
    | with_reducible apply State.setF_keeps

theorem State.mbxRead_keeps {z s : State} {x1} (h : Keeps z s) : Keeps z (State.mbxRead s x1) := by
  unfold State.mbxRead
  repeat' first
    | with_reducible assumption
    | with_reducible apply State.setF_keeps
    | with_reducible apply Keeps.ite

theorem execMbxLastWordRead_keeps {z s : State} {x0 x1} (h : Keeps z s) : KeepsOut z (execMbxLastWordRead x0 x1 s) := by
  unfold execMbxLastWordRead
  repeat' first
    | with_reducible assumption
    | with_reducible apply State.mbxRead_keeps
    | with_reducible apply State.advance_keeps
    | with_reducible apply Keeps.out

theorem execMbxExpiry_keeps {z s : State} {x0} (h : Keeps z s) : KeepsOut z (execMbxExpiry x0 s) := by
  unfold execMbxExpiry
  repeat' first
    | with_reducible assumption
    | with_reducible apply State.advance_keeps
    | with_reducible apply State.mbxLapse_keeps
    | with_reducible apply Keeps.out
    | with_reducible apply Keeps.ite

theorem execPing_keeps {z s : State} {x0} (h : Keeps z s) : KeepsOut z (execPing x0 s) := by
  unfold execPing
  repeat' first
    | with_reducible assumption
    | (with_reducible refine Keeps.out (serve_keeps (by with_reducible assumption) fun z t u hu => ?_); beta_reduce)
    | with_reducible apply okWith_keeps
    | with_reducible apply refuse_keeps
    | split

theorem execGetState_keeps {z s : State} {x0} (h : Keeps z s) : KeepsOut z (execGetState x0 s) := by
  unfold execGetState
  repeat' first
    | with_reducible assumption
    | (with_reducible refine serveOp_keeps (by with_reducible assumption) fun z t u hu => ?_; beta_reduce)
    | with_reducible apply okWith_keeps

theorem serveNone_keeps {z s : State} {x0 x1 x2} (h : Keeps z s) : Keeps z (serveNone x0 x1 x2 s) := by
  unfold serveNone
  repeat' first
    | with_reducible assumption
    | with_reducible apply State.advance_keeps
    | with_reducible apply State.bump_keeps
    | with_reducible apply State.reject_keeps
    | with_reducible apply State.markUsed_keeps
    | simp -zeta only [Keeps.mk_iff, Keeps.mkCom_iff, Keeps.mkLog_iff]
    | with_reducible apply Keeps.ite
    | (extract_lets +onlyGivenNames u; (have hc : Com := u); clear hc; subst u)

theorem execUndefinedOpcode_keeps {z s : State} {x0 x1} (h : Keeps z s) : KeepsOut z (execUndefinedOpcode x0 x1 s) := by
  unfold execUndefinedOpcode
  repeat' first
    | with_reducible assumption
    | with_reducible apply State.advance_keeps
    | with_reducible apply serveNone_keeps
    | with_reducible apply Keeps.out
    | with_reducible apply Keeps.ite

theorem execPacketDiscard_keeps {z s : State} {x0 x1 x2} (h : Keeps z s) : KeepsOut z (execPacketDiscard x0 x1 x2 s) := by
  unfold execPacketDiscard
  repeat' first
    | with_reducible assumption
    | with_reducible apply State.advance_keeps
    | with_reducible apply State.bump_keeps
    | with_reducible apply Keeps.out
    | with_reducible apply Keeps.ite

theorem execBootPacketDiscard_keeps {z s : State} {x0 x1 x2} (h : Keeps z s) : KeepsOut z (execBootPacketDiscard x0 x1 x2 s) := by
  unfold execBootPacketDiscard
  repeat' first
    | with_reducible assumption
    | with_reducible apply State.advance_keeps
    | with_reducible apply Keeps.out

end Sys2Proof.Machine
end

