-- ==== Sys2Proof/Laws/KeepsGauze.lean ====
section
/-! SUPPORT. The operations and meanings of Machine/Gauze.lean keep what every step keeps. -/

set_option linter.unreachableTactic false
set_option linter.unusedTactic false
set_option linter.unusedSimpArgs false
set_option linter.tactic.unusedName false
set_option linter.unusedVariables false

namespace Sys2Proof.Machine
open Sys2Proof

theorem State.setGzCh_keeps {z s : State} {x1 x2} (h : Keeps z s) : Keeps z (State.setGzCh s x1 x2) := by
  unfold State.setGzCh
  repeat' first
    | with_reducible assumption
    | simp -zeta only [Keeps.mk_iff, Keeps.mkCom_iff, Keeps.mkLog_iff]

theorem State.gzStore_keeps {z s : State} {x1 x2 x3} (h : Keeps z s) : Keeps z (State.gzStore s x1 x2 x3) := by
  unfold State.gzStore
  repeat' first
    | with_reducible assumption
    | with_reducible apply State.setF_keeps
    | with_reducible apply State.setGzCh_keeps

theorem State.compWord_keeps {z s : State} {x1 x2} (h : Keeps z s) : KeepsOptFst z (State.compWord s x1 x2) := by
  unfold State.compWord
  repeat' first
    | with_reducible assumption
    | with_reducible apply State.gzStore_keeps
    | with_reducible apply State.setGzCh_keeps
    | with_reducible apply Keeps.presentFst
    | (extract_lets +onlyGivenNames u; try clear_value u)
    | with_reducible exact KeepsOptFst.none
    | split

theorem State.gzSkip_keeps {z s : State} {x1} (h : Keeps z s) : Keeps z (State.gzSkip s x1) := by
  unfold State.gzSkip
  repeat' first
    | with_reducible assumption
    | with_reducible apply State.bump_keeps

theorem State.gzOverrange_keeps {z s : State} {x1 x2} (h : Keeps z s) : Keeps z (State.gzOverrange s x1 x2) := by
  unfold State.gzOverrange
  repeat' first
    | with_reducible assumption
    | with_reducible apply State.setGzCh_keeps
    | with_reducible apply State.raiseRate_keeps
    | with_reducible apply State.bump_keeps
    | with_reducible apply State.eventBit_keeps
    | with_reducible apply State.setB_keeps
    | with_reducible apply Keeps.ite

theorem State.fastWord_keeps {z s : State} {x1 x2 x3} (h : Keeps z s) : Keeps z (State.fastWord s x1 x2 x3).1 := by
  unfold State.fastWord
  repeat' first
    | with_reducible assumption
    | with_reducible apply State.setGzCh_keeps
    | with_reducible apply State.gzSkip_keeps
    | with_reducible apply State.gzOverrange_keeps
    | with_reducible apply State.gzStore_keeps
    | with_reducible apply Keeps.ite
    | (extract_lets +onlyGivenNames u; refine (?_ : Keeps z u → _) ?_; rotate_left; unfold u; rotate_left; intro hu; try clear_value u)
    | (extract_lets +onlyGivenNames u; try clear_value u)
    | split

theorem State.fineWord_keeps {z s : State} {x1 x2} (h : Keeps z s) : Keeps z (State.fineWord s x1 x2).1 := by
  unfold State.fineWord
  repeat' first
    | with_reducible assumption
    | with_reducible apply State.gzSkip_keeps
    | with_reducible apply State.gzStore_keeps
    | with_reducible apply State.setGzCh_keeps
    | (extract_lets +onlyGivenNames u; try clear_value u)
    | split

theorem execOverrange_keeps {z s : State} {x0 x1 x2} (h : Keeps z s) : KeepsOut z (execOverrange x0 x1 x2 s) := by
  unfold execOverrange
  repeat' first
    | with_reducible assumption
    | with_reducible apply State.advance_keeps
    | with_reducible apply State.gzOverrange_keeps
    | with_reducible apply Keeps.out
    | with_reducible apply Keeps.ite

theorem execOverrangeEnd_keeps {z s : State} {x0 x1} (h : Keeps z s) : KeepsOut z (execOverrangeEnd x0 x1 s) := by
  unfold execOverrangeEnd
  repeat' first
    | with_reducible assumption
    | with_reducible apply State.advance_keeps
    | with_reducible apply State.setGzCh_keeps
    | with_reducible apply Keeps.out
    | with_reducible apply Keeps.ite

theorem State.refReady_keeps {z s : State} {x1} (h : Keeps z s) : Keeps z (State.refReady s x1) := by
  unfold State.refReady
  repeat' first
    | with_reducible assumption
    | with_reducible apply State.setBit_keeps
    | simp -zeta only [Keeps.mk_iff, Keeps.mkCom_iff, Keeps.mkLog_iff]

theorem execRefBufferReady_keeps {z s : State} {x0 x1} (h : Keeps z s) : KeepsOut z (execRefBufferReady x0 x1 s) := by
  unfold execRefBufferReady
  repeat' first
    | with_reducible assumption
    | with_reducible apply State.advance_keeps
    | with_reducible apply State.refReady_keeps
    | with_reducible apply Keeps.out
    | (extract_lets +onlyGivenNames u; refine (?_ : Keeps z u → _) ?_; rotate_left; unfold u; rotate_left; intro hu; try clear_value u)
    | split

theorem State.refBuffer_keeps {z s : State} {x1 x2} (h : Keeps z s) : Keeps z (State.refBuffer s x1 x2) := by
  unfold State.refBuffer
  repeat' first
    | with_reducible assumption
    | with_reducible apply State.setBit_keeps
    | simp -zeta only [Keeps.mk_iff, Keeps.mkCom_iff, Keeps.mkLog_iff]
    | with_reducible apply Keeps.ite

theorem State.gzRestart_keeps {z s : State} {x1 x2} (h : Keeps z s) : Keeps z (State.gzRestart s x1 x2) := by
  unfold State.gzRestart
  repeat' first
    | with_reducible assumption
    | with_reducible apply State.setB_keeps
    | with_reducible apply State.setGzCh_keeps

theorem State.gzWriteCfg_keeps {z s : State} {x1 x2} (h : Keeps z s) : Keeps z (State.gzWriteCfg s x1 x2).2 := by
  unfold State.gzWriteCfg
  repeat' first
    | with_reducible assumption
    | with_reducible apply State.setW_keeps
    | with_reducible apply State.refBuffer_keeps
    | with_reducible apply State.gzRestart_keeps
    | (extract_lets +onlyGivenNames u; refine (?_ : Keeps z u → _) ?_; rotate_left; unfold u; rotate_left; intro hu; try clear_value u)
    | (extract_lets +onlyGivenNames u; try clear_value u)
    | split

theorem execGzRead_keeps {z s : State} {x0} (h : Keeps z s) : KeepsOut z (execGzRead x0 s) := by
  unfold execGzRead
  repeat' first
    | with_reducible assumption
    | (with_reducible refine serveOp_keeps (by with_reducible assumption) fun z t u hu => ?_; beta_reduce)
    | with_reducible apply refuse_keeps
    | with_reducible apply okWith_keeps
    | split

theorem State.noteConv_keeps {z s : State} {x1 x2 x3 x4} (h : Keeps z s) : Keeps z (State.noteConv s x1 x2 x3 x4) := by
  unfold State.noteConv
  repeat' first
    | with_reducible assumption
    | with_reducible apply State.setB_keeps
    | with_reducible apply State.setGzCh_keeps
    | with_reducible apply State.raise_keeps
    | with_reducible apply Keeps.ite

theorem State.slotWord_keeps {z s : State} {x1 x2} (h : Keeps z s) : Keeps z (State.slotWord s x1 x2).1 := by
  unfold State.slotWord
  repeat' first
    | with_reducible assumption
    | with_reducible apply State.gzSkip_keeps
    | with_reducible apply State.setGzCh_keeps
    | with_reducible apply State.noteConv_keeps
    | with_reducible apply State.gzOverrange_keeps
    | with_reducible apply State.gzStore_keeps
    | with_reducible apply Keeps.ite
    | (extract_lets +onlyGivenNames u; refine (?_ : Keeps z u → _) ?_; rotate_left; unfold u; rotate_left; intro hu; try clear_value u)
    | (extract_lets +onlyGivenNames u; try clear_value u)
    | split

theorem State.addInjection_keeps {z s : State} {x1 x2 x3} (h : Keeps z s) : Keeps z (State.addInjection s x1 x2 x3) := by
  unfold State.addInjection
  repeat' first
    | with_reducible assumption
    | with_reducible apply State.showInj_keeps
    | simp -zeta only [Keeps.mk_iff, Keeps.mkCom_iff, Keeps.mkLog_iff]

theorem execGzInject_keeps {z s : State} {x0} (h : Keeps z s) : KeepsOut z (execGzInject x0 s) := by
  unfold execGzInject
  repeat' first
    | with_reducible assumption
    | (with_reducible refine serveOp_keeps (by with_reducible assumption) fun z t u hu => ?_; beta_reduce)
    | with_reducible apply refuse_keeps
    | with_reducible apply State.addInjection_keeps
    | with_reducible apply Keeps.later
    | (extract_lets +onlyGivenNames u; try clear_value u)
    | split

theorem State.deliverInjection_keeps {z s : State} {x1 x2 x3} (h : Keeps z s) : Keeps z (State.deliverInjection s x1 x2 x3) := by
  unfold State.deliverInjection
  repeat' first
    | with_reducible assumption
    | with_reducible apply State.setF_keeps
    | with_reducible apply State.showInj_keeps
    | with_reducible apply State.answer_keeps
    | with_reducible apply State.calReady_keeps
    | simp -zeta only [Keeps.mk_iff, Keeps.mkCom_iff, Keeps.mkLog_iff]

theorem execInjectionDelivered_keeps {z s : State} {x0 x1 x2} (h : Keeps z s) : KeepsOut z (execInjectionDelivered x0 x1 x2 s) := by
  unfold execInjectionDelivered
  repeat' first
    | with_reducible assumption
    | with_reducible apply State.advance_keeps
    | with_reducible apply State.deliverInjection_keeps
    | with_reducible apply Keeps.out
    | (extract_lets +onlyGivenNames u; refine (?_ : Keeps z u → _) ?_; rotate_left; unfold u; rotate_left; intro hu; try clear_value u)
    | split

theorem execGzCalibrate_keeps {z s : State} {x0} (h : Keeps z s) : KeepsOut z (execGzCalibrate x0 s) := by
  unfold execGzCalibrate
  repeat' first
    | with_reducible assumption
    | (with_reducible refine serveOp_keeps (by with_reducible assumption) fun z t u hu => ?_; beta_reduce)
    | with_reducible apply refuse_keeps
    | with_reducible apply State.setB_keeps
    | with_reducible apply okWith_keeps
    | simp -zeta only [Keeps.mk_iff, Keeps.mkCom_iff, Keeps.mkLog_iff]
    | with_reducible apply Keeps.done
    | (extract_lets +onlyGivenNames u; try clear_value u)
    | split

theorem State.beginCal_keeps {z s : State} {x1} (h : Keeps z s) : Keeps z (State.beginCal s x1) := by
  unfold State.beginCal
  repeat' first
    | with_reducible assumption
    | with_reducible apply State.setB_keeps
    | simp -zeta only [Keeps.mk_iff, Keeps.mkCom_iff, Keeps.mkLog_iff]
    | (with_reducible refine Keeps.foldl (fun x a hx => ?_) ?_ _ <;> beta_reduce)

theorem execCalibrationStart_keeps {z s : State} {x0} (h : Keeps z s) : KeepsOut z (execCalibrationStart x0 s) := by
  unfold execCalibrationStart
  repeat' first
    | with_reducible assumption
    | with_reducible apply State.advance_keeps
    | with_reducible apply State.beginCal_keeps
    | with_reducible apply Keeps.out
    | (extract_lets +onlyGivenNames u; refine (?_ : Keeps z u → _) ?_; rotate_left; unfold u; rotate_left; intro hu; try clear_value u)
    | split

theorem State.applyCal_keeps {z s : State} {x1 x2 x3} (h : Keeps z s) : Keeps z (State.applyCal s x1 x2 x3) := by
  unfold State.applyCal
  repeat' first
    | with_reducible assumption
    | with_reducible apply State.setF_keeps
    | with_reducible apply State.setB_keeps
    | with_reducible apply State.raise_keeps
    | with_reducible apply Keeps.ite

theorem State.endCal_keeps {z s : State} {x1 x2} (h : Keeps z s) : Keeps z (State.endCal s x1 x2) := by
  unfold State.endCal
  repeat' first
    | with_reducible assumption
    | with_reducible apply State.setB_keeps
    | with_reducible apply State.applyCal_keeps
    | simp -zeta only [Keeps.mk_iff, Keeps.mkCom_iff, Keeps.mkLog_iff]
    | (with_reducible refine Keeps.foldl (fun x a hx => ?_) ?_ _ <;> beta_reduce)

theorem execCalibrationDone_keeps {z s : State} {x0 x1} (h : Keeps z s) : KeepsOut z (execCalibrationDone x0 x1 s) := by
  unfold execCalibrationDone
  repeat' first
    | with_reducible assumption
    | with_reducible apply State.advance_keeps
    | with_reducible apply State.endCal_keeps
    | with_reducible apply Keeps.out
    | (extract_lets +onlyGivenNames u; refine (?_ : Keeps z u → _) ?_; rotate_left; unfold u; rotate_left; intro hu; try clear_value u)
    | split

theorem State.refCheck_keeps {z s : State} {x1 x2} (h : Keeps z s) : Keeps z (State.refCheck s x1 x2) := by
  unfold State.refCheck
  repeat' first
    | with_reducible assumption
    | with_reducible apply State.setBit_keeps
    | with_reducible apply State.eventBit_keeps
    | with_reducible apply State.raise_keeps
    | simp -zeta only [Keeps.mk_iff, Keeps.mkCom_iff, Keeps.mkLog_iff]
    | with_reducible apply Keeps.ite

end Sys2Proof.Machine
end

