-- ==== Sys2Proof/Laws/KeepsEngines.lean ====
section
/-! SUPPORT. The operations and meanings of Machine/Engines.lean keep what every step keeps. -/

set_option linter.unreachableTactic false
set_option linter.unusedTactic false
set_option linter.unusedSimpArgs false
set_option linter.tactic.unusedName false
set_option linter.unusedVariables false

namespace Sys2Proof.Machine
open Sys2Proof

theorem State.leInput_keeps {z s : State} {x1 x2} (h : Keeps z s) : Keeps z (State.leInput s x1 x2) := by
  unfold State.leInput
  repeat' first
    | with_reducible assumption
    | with_reducible apply State.setEng_keeps
    | with_reducible apply Keeps.ite

theorem State.setAlt_keeps {z s : State} {x1 x2} (h : Keeps z s) : Keeps z (Sys2Proof.Machine.State.setAlt s x1 x2) := by
  unfold State.setAlt
  repeat' first
    | with_reducible assumption
    | with_reducible apply State.setB_keeps
    | with_reducible apply State.setEng_keeps
    | with_reducible apply Keeps.ite

theorem State.takeVin_keeps {z s : State} {x1 x2} (h : Keeps z s) : Keeps z (Sys2Proof.Machine.State.takeVin s x1 x2) := by
  unfold State.takeVin
  repeat' first
    | with_reducible assumption
    | with_reducible apply State.setF_keeps
    | with_reducible apply State.setEng_keeps

theorem State.routeOut_keeps {z s : State} {x1 x2 x3} (h : Keeps z s) : Keeps z (Sys2Proof.Machine.State.routeOut s x1 x2 x3) := by
  unfold State.routeOut
  repeat' first
    | with_reducible assumption
    | with_reducible apply State.leInput_keeps
    | with_reducible apply State.takeVin_keeps
    | with_reducible apply Keeps.ite
    | (with_reducible refine Keeps.foldl (fun x a hx => ?_) ?_ _ <;> beta_reduce)

theorem State.applyEngine_keeps {z s : State} {x1} (h : Keeps z s) : Keeps z (Sys2Proof.Machine.State.applyEngine s x1) := by
  unfold State.applyEngine
  repeat' first
    | with_reducible assumption
    | with_reducible apply State.leDwell_keeps
    | with_reducible apply State.applyShadow_keeps

theorem State.swapBank_keeps {z s : State} {x1} (h : Keeps z s) : Keeps z (State.swapBank s x1) := by
  unfold State.swapBank
  repeat' first
    | with_reducible assumption
    | with_reducible apply State.setBit_keeps

theorem State.swapDone_keeps {z s : State} {x1} (h : Keeps z s) : Keeps z (State.swapDone s x1) := by
  unfold State.swapDone
  repeat' first
    | with_reducible assumption
    | with_reducible apply State.answer_keeps
    | simp -zeta only [Keeps.mk_iff, Keeps.mkCom_iff, Keeps.mkLog_iff]
    | (with_reducible refine Keeps.foldl (fun x a hx => ?_) ?_ _ <;> beta_reduce)

theorem State.pendingSwap_keeps {z s : State} {x1} (h : Keeps z s) : Keeps z (State.pendingSwap s x1) := by
  unfold State.pendingSwap
  repeat' first
    | with_reducible assumption
    | with_reducible apply State.swapDone_keeps
    | with_reducible apply State.swapBank_keeps
    | with_reducible apply Keeps.ite

theorem State.pendingTable_keeps {z s : State} {x1} (h : Keeps z s) : Keeps z (State.pendingTable s x1) := by
  unfold State.pendingTable
  repeat' first
    | with_reducible assumption
    | with_reducible apply State.setEng_keeps

theorem State.applyMode_keeps {z s : State} {x1 x2} (h : Keeps z s) : Keeps z (State.applyMode s x1 x2) := by
  unfold State.applyMode
  repeat' first
    | with_reducible assumption
    | with_reducible apply State.setF_keeps
    | with_reducible apply State.setEng_keeps
    | with_reducible apply State.setBit_keeps
    | with_reducible apply State.setB_keeps
    | with_reducible apply State.setFl_keeps
    | with_reducible apply Keeps.ite
    | (with_reducible refine Keeps.foldl (fun x a hx => ?_) ?_ _ <;> beta_reduce)

theorem State.pendingMode_keeps {z s : State} {x1} (h : Keeps z s) : Keeps z (State.pendingMode s x1) := by
  unfold State.pendingMode
  repeat' first
    | with_reducible assumption
    | with_reducible apply State.applyMode_keeps
    | split

theorem State.stopEngine_keeps {z s : State} {x1} (h : Keeps z s) : Keeps z (State.stopEngine s x1) := by
  unfold State.stopEngine
  repeat' first
    | with_reducible assumption
    | with_reducible apply State.applyMode_keeps
    | with_reducible apply State.setEng_keeps
    | with_reducible apply State.applyEngine_keeps
    | with_reducible apply State.pendingTable_keeps
    | with_reducible apply State.pendingSwap_keeps

theorem State.haltClass_keeps {z s : State} {x1 x2} (h : Keeps z s) : Keeps z (State.haltClass s x1 x2) := by
  unfold State.haltClass
  repeat' first
    | with_reducible assumption
    | with_reducible apply State.event_keeps
    | with_reducible apply State.setB_keeps
    | with_reducible apply State.stopEngine_keeps
    | with_reducible apply State.raise_keeps

theorem State.ecc_keeps {z s : State} {x1 x2} (h : Keeps z s) : Keeps z (State.ecc s x1 x2) := by
  unfold State.ecc
  repeat' first
    | with_reducible assumption
    | with_reducible apply State.bump_keeps
    | with_reducible apply State.haltClass_keeps
    | with_reducible apply Keeps.ite

theorem State.slotInfo_keeps {z s : State} {x1} (h : Keeps z s) : Keeps z (State.slotInfo s x1) := by
  unfold State.slotInfo
  repeat' first
    | with_reducible assumption
    | with_reducible apply State.setEng_keeps

theorem State.slotBegin_keeps {z s : State} {x1 x2} (h : Keeps z s) : Keeps z (State.slotBegin s x1 x2) := by
  unfold State.slotBegin
  repeat' first
    | with_reducible assumption
    | with_reducible apply State.pendingMode_keeps
    | with_reducible apply State.pendingTable_keeps
    | with_reducible apply State.pendingSwap_keeps
    | with_reducible apply State.applyEngine_keeps
    | with_reducible apply State.slotInfo_keeps
    | with_reducible apply State.setEng_keeps
    | with_reducible apply State.leDwell_keeps

theorem State.lateSlot_keeps {z s : State} {x1} (h : Keeps z s) : Keeps z (State.lateSlot s x1) := by
  unfold State.lateSlot
  repeat' first
    | with_reducible assumption
    | with_reducible apply State.bump_keeps
    | with_reducible apply State.setEng_keeps
    | with_reducible apply State.event_keeps
    | with_reducible apply State.raise_keeps
    | with_reducible apply Keeps.ite

theorem execLateSlot_keeps {z s : State} {x0 x1} (h : Keeps z s) : KeepsOut z (execLateSlot x0 x1 s) := by
  unfold execLateSlot
  repeat' first
    | with_reducible assumption
    | with_reducible apply State.advance_keeps
    | with_reducible apply State.lateSlot_keeps
    | with_reducible apply Keeps.out
    | with_reducible apply Keeps.ite

theorem execLeHung_keeps {z s : State} {x0 x1} (h : Keeps z s) : KeepsOut z (execLeHung x0 x1 s) := by
  unfold execLeHung
  repeat' first
    | with_reducible assumption
    | with_reducible apply State.advance_keeps
    | with_reducible apply State.haltClass_keeps
    | with_reducible apply Keeps.out
    | with_reducible apply Keeps.ite

theorem State.compare_keeps {z s : State} {x1 x2 x3 x4} (h : Keeps z s) : Keeps z (State.compare s x1 x2 x3 x4) := by
  unfold State.compare
  repeat' first
    | with_reducible assumption
    | with_reducible apply State.setF_keeps
    | with_reducible apply State.setHb_keeps
    | with_reducible apply State.raiseRate_keeps
    | with_reducible apply State.event_keeps
    | with_reducible apply Keeps.ite

theorem State.stage_keeps {z s : State} {x1 x2 x3 x4} (h : Keeps z s) : Keeps z (State.stage s x1 x2 x3 x4) := by
  unfold State.stage
  repeat' first
    | with_reducible assumption
    | with_reducible apply State.setEng_keeps

theorem State.stageLeg_keeps {z s : State} {x1 x2 x3} (h : Keeps z s) : Keeps z (State.stageLeg s x1 x2 x3) := by
  unfold State.stageLeg
  repeat' first
    | with_reducible assumption
    | with_reducible apply State.stage_keeps
    | with_reducible apply Keeps.ite

theorem State.postWords_keeps {z s : State} {x1} (h : Keeps z s) : Keeps z (State.postWords s x1) := by
  unfold State.postWords
  repeat' first
    | with_reducible assumption
    | with_reducible apply State.setEng_keeps
    | with_reducible apply State.compare_keeps
    | with_reducible apply Keeps.ite
    | (with_reducible refine Keeps.foldl (fun x a hx => ?_) ?_ _ <;> beta_reduce)

theorem State.post_keeps {z s : State} {x1} (h : Keeps z s) : Keeps z (State.post s x1) := by
  unfold State.post
  repeat' first
    | with_reducible assumption
    | with_reducible apply State.setEng_keeps
    | with_reducible apply State.lateSlot_keeps
    | with_reducible apply State.postWords_keeps
    | with_reducible apply State.setF_keeps
    | with_reducible apply Keeps.ite

theorem State.supervise_keeps {z s : State} {x1} (h : Keeps z s) : Keeps z (State.supervise s x1) := by
  unfold State.supervise
  repeat' first
    | with_reducible assumption
    | with_reducible apply State.leDwell_keeps
    | with_reducible apply State.setF_keeps
    | with_reducible apply State.setEng_keeps

theorem State.endSlot_keeps {z s : State} {x1} (h : Keeps z s) : Keeps z (State.endSlot s x1) := by
  unfold State.endSlot
  repeat' first
    | with_reducible assumption
    | with_reducible apply State.post_keeps
    | with_reducible apply State.setF_keeps
    | with_reducible apply State.supervise_keeps
    | with_reducible apply State.setEng_keeps
    | with_reducible apply Keeps.ite
    | (with_reducible refine Keeps.foldl (fun x a hx => ?_) ?_ _ <;> beta_reduce)

theorem State.satExpired_keeps {z s : State} {x1} (h : Keeps z s) : Keeps z (State.satExpired s x1) := by
  unfold State.satExpired
  repeat' first
    | with_reducible assumption
    | with_reducible apply State.raise_keeps
    | with_reducible apply State.event_keeps
    | with_reducible apply State.setEng_keeps

theorem execLeSatExpired_keeps {z s : State} {x0 x1} (h : Keeps z s) : KeepsOut z (execLeSatExpired x0 x1 s) := by
  unfold execLeSatExpired
  repeat' first
    | with_reducible assumption
    | with_reducible apply State.advance_keeps
    | with_reducible apply State.satExpired_keeps
    | with_reducible apply Keeps.out
    | (extract_lets +onlyGivenNames u; refine (?_ : Keeps z u → _) ?_; rotate_left; unfold u; rotate_left; intro hu; try clear_value u)
    | (extract_lets +onlyGivenNames u; try clear_value u)
    | split

theorem State.feExpired_keeps {z s : State} {x1} (h : Keeps z s) : Keeps z (State.feExpired s x1) := by
  unfold State.feExpired
  repeat' first
    | with_reducible assumption
    | with_reducible apply State.raise_keeps
    | with_reducible apply State.event_keeps
    | with_reducible apply State.setEng_keeps

theorem execLeFeExpired_keeps {z s : State} {x0 x1} (h : Keeps z s) : KeepsOut z (execLeFeExpired x0 x1 s) := by
  unfold execLeFeExpired
  repeat' first
    | with_reducible assumption
    | with_reducible apply State.advance_keeps
    | with_reducible apply State.feExpired_keeps
    | with_reducible apply Keeps.out
    | (extract_lets +onlyGivenNames u; refine (?_ : Keeps z u → _) ?_; rotate_left; unfold u; rotate_left; intro hu; try clear_value u)
    | (extract_lets +onlyGivenNames u; try clear_value u)
    | split

theorem State.dwellExpired_keeps {z s : State} {x1} (h : Keeps z s) : Keeps z (State.dwellExpired s x1) := by
  unfold State.dwellExpired
  repeat' first
    | with_reducible assumption
    | with_reducible apply State.raise_keeps
    | with_reducible apply State.event_keeps
    | with_reducible apply State.setEng_keeps

theorem execLeDerateDwell_keeps {z s : State} {x0 x1} (h : Keeps z s) : KeepsOut z (execLeDerateDwell x0 x1 s) := by
  unfold execLeDerateDwell
  repeat' first
    | with_reducible assumption
    | with_reducible apply State.leDwell_keeps
    | with_reducible apply State.advance_keeps
    | with_reducible apply State.dwellExpired_keeps
    | with_reducible apply Keeps.out
    | (extract_lets +onlyGivenNames u; refine (?_ : Keeps z u → _) ?_; rotate_left; unfold u; rotate_left; intro hu; try clear_value u)
    | split

theorem execLwaitTimeout_keeps {z s : State} {x0 x1} (h : Keeps z s) : KeepsOut z (execLwaitTimeout x0 x1 s) := by
  unfold execLwaitTimeout
  repeat' first
    | with_reducible assumption
    | with_reducible apply State.advance_keeps
    | with_reducible apply State.setEng_keeps
    | with_reducible apply Keeps.out
    | (extract_lets +onlyGivenNames u; refine (?_ : Keeps z u → _) ?_; rotate_left; unfold u; rotate_left; intro hu; try clear_value u)
    | (extract_lets +onlyGivenNames u; try clear_value u)
    | split

theorem State.ffPeriod_keeps {z s : State} {x1 x2} (h : Keeps z s) : Keeps z (State.ffPeriod s x1 x2) := by
  unfold State.ffPeriod
  repeat' first
    | with_reducible assumption
    | with_reducible apply State.setB_keeps
    | with_reducible apply State.setEng_keeps
    | with_reducible apply State.setF_keeps
    | with_reducible apply State.bump_keeps
    | with_reducible apply State.raise_keeps
    | with_reducible apply State.event_keeps
    | with_reducible apply Keeps.ite

theorem State.ffWrite_keeps {z s : State} {x1 x2 x3 x4} (h : Keeps z s) : Keeps z (State.ffWrite s x1 x2 x3 x4) := by
  unfold State.ffWrite
  repeat' first
    | with_reducible assumption
    | with_reducible apply State.setEng_keeps
    | with_reducible apply State.setB_keeps
    | with_reducible apply State.compare_keeps
    | with_reducible apply Keeps.ite

theorem execFeedforward_keeps {z s : State} {x0 x1} (h : Keeps z s) : KeepsOut z (execFeedforward x0 x1 s) := by
  unfold execFeedforward
  repeat' first
    | with_reducible assumption
    | with_reducible apply State.advance_keeps
    | with_reducible apply State.ffPeriod_keeps
    | with_reducible apply State.setB_keeps
    | with_reducible apply State.ffWrite_keeps
    | with_reducible apply Keeps.out
    | (extract_lets +onlyGivenNames u; refine (?_ : Keeps z u → _) ?_; rotate_left; unfold u; rotate_left; intro hu; try clear_value u)
    | (extract_lets +onlyGivenNames u; try clear_value u)
    | split

theorem State.putBank_keeps {z s : State} {x1 x2 x3} (h : Keeps z s) : Keeps z (State.putBank s x1 x2 x3) := by
  unfold State.putBank
  repeat' first
    | with_reducible assumption
    | with_reducible apply State.setEng_keeps

theorem execLeBankWrite_keeps {z s : State} {x0} (h : Keeps z s) : KeepsOut z (execLeBankWrite x0 s) := by
  unfold execLeBankWrite
  repeat' first
    | with_reducible assumption
    | (with_reducible refine Keeps.out (serve_keeps (by with_reducible assumption) fun z t u hu => ?_); beta_reduce)
    | with_reducible apply refuse_keeps
    | with_reducible apply okWith_keeps
    | with_reducible apply State.putBank_keeps
    | (extract_lets +onlyGivenNames u; try clear_value u)
    | split

theorem State.requestSwap_keeps {z s : State} {x1} (h : Keeps z s) : Keeps z (State.requestSwap s x1) := by
  unfold State.requestSwap
  repeat' first
    | with_reducible assumption
    | with_reducible apply State.swapBank_keeps
    | with_reducible apply State.setBit_keeps
    | (with_reducible refine Keeps.foldl (fun x a hx => ?_) ?_ _ <;> beta_reduce)

theorem execLeBankSwap_keeps {z s : State} {x0} (h : Keeps z s) : KeepsOut z (execLeBankSwap x0 s) := by
  unfold execLeBankSwap
  repeat' first
    | with_reducible assumption
    | (with_reducible refine serveOp_keeps (by with_reducible assumption) fun z t u hu => ?_; beta_reduce)
    | with_reducible apply refuse_keeps
    | with_reducible apply State.requestSwap_keeps
    | with_reducible apply okWith_keeps
    | simp -zeta only [Keeps.mk_iff, Keeps.mkCom_iff, Keeps.mkLog_iff]
    | with_reducible apply Keeps.done
    | with_reducible apply Keeps.later
    | (extract_lets +onlyGivenNames u; refine (?_ : Keeps z u → _) ?_; rotate_left; unfold u; rotate_left; intro hu; try clear_value u)
    | (extract_lets +onlyGivenNames u; try clear_value u)
    | split

theorem State.takeMode_keeps {z s : State} {x1 x2} (h : Keeps z s) : Keeps z (State.takeMode s x1 x2) := by
  unfold State.takeMode
  repeat' first
    | with_reducible assumption
    | with_reducible apply State.setEng_keeps
    | with_reducible apply State.stopEngine_keeps
    | with_reducible apply State.applyMode_keeps
    | with_reducible apply Keeps.ite

theorem execLeMode_keeps {z s : State} {x0} (h : Keeps z s) : KeepsOut z (execLeMode x0 s) := by
  unfold execLeMode
  repeat' first
    | with_reducible assumption
    | (with_reducible refine serveOp_keeps (by with_reducible assumption) fun z t u hu => ?_; beta_reduce)
    | with_reducible apply refuse_keeps
    | with_reducible apply okWith_keeps
    | with_reducible apply State.takeMode_keeps
    | (extract_lets +onlyGivenNames u; try clear_value u)
    | split

theorem State.putTable_keeps {z s : State} {x1 x2} (h : Keeps z s) : Keeps z (State.putTable s x1 x2) := by
  unfold State.putTable
  repeat' first
    | with_reducible assumption
    | with_reducible apply State.setEng_keeps
    | with_reducible apply State.pendingTable_keeps
    | with_reducible apply Keeps.ite

theorem execLeTableWrite_keeps {z s : State} {x0} (h : Keeps z s) : KeepsOut z (execLeTableWrite x0 s) := by
  unfold execLeTableWrite
  repeat' first
    | with_reducible assumption
    | (with_reducible refine Keeps.out (serve_keeps (by with_reducible assumption) fun z t u hu => ?_); beta_reduce)
    | with_reducible apply refuse_keeps
    | with_reducible apply okWith_keeps
    | with_reducible apply State.putTable_keeps
    | (extract_lets +onlyGivenNames u; try clear_value u)
    | split

theorem State.loadStat_keeps {z s : State} {x1 x2 x3} (h : Keeps z s) : Keeps z (State.loadStat s x1 x2 x3) := by
  unfold State.loadStat
  repeat' first
    | with_reducible assumption
    | with_reducible apply State.setF_keeps

theorem State.putProgram_keeps {z s : State} {x1 x2} (h : Keeps z s) : Keeps z (State.putProgram s x1 x2) := by
  unfold State.putProgram
  repeat' first
    | with_reducible assumption
    | with_reducible apply State.setF_keeps
    | with_reducible apply State.setBit_keeps
    | with_reducible apply State.setEng_keeps
    | with_reducible apply State.loadStat_keeps
    | simp -zeta only [Keeps.mk_iff, Keeps.mkCom_iff, Keeps.mkLog_iff]

theorem State.loadProgram_keeps {z s : State} {x1 x2} (h : Keeps z s) : KeepsRes z (State.loadProgram s x1 x2) := by
  unfold State.loadProgram
  repeat' first
    | with_reducible assumption
    | with_reducible apply refuse_keeps
    | with_reducible apply State.loadStat_keeps
    | with_reducible apply okWith_keeps
    | with_reducible apply State.putProgram_keeps
    | split

theorem execLeLoad_keeps {z s : State} {x0} (h : Keeps z s) : KeepsOut z (execLeLoad x0 s) := by
  unfold execLeLoad
  repeat' first
    | with_reducible assumption
    | (with_reducible refine Keeps.out (serve_keeps (by with_reducible assumption) fun z t u hu => ?_); beta_reduce)
    | with_reducible apply refuseChunk_keeps
    | with_reducible apply State.chunk_keeps
    | with_reducible apply refuse_keeps
    | with_reducible apply okWith_keeps
    | with_reducible apply State.loadProgram_keeps
    | (extract_lets +onlyGivenNames u; try clear_value u)
    | (with_reducible refine KeepsChunk.ofMore (by with_reducible assumption) ?_)
    | (with_reducible refine KeepsChunk.ofWhole (by with_reducible assumption) ?_)
    | split

end Sys2Proof.Machine
end

