-- ==== Sys2Proof/Laws/KeepsControl.lean ====
section
/-! SUPPORT. The operations and meanings of Machine/Control.lean keep what every step keeps. -/

set_option linter.unreachableTactic false
set_option linter.unusedTactic false
set_option linter.unusedSimpArgs false
set_option linter.tactic.unusedName false
set_option linter.unusedVariables false

namespace Sys2Proof.Machine
open Sys2Proof

theorem State.progPi_keeps {z s : State} {x1 x2 x3 x4 x5 x6} (h : Keeps z s) : Keeps z (State.progPi s x1 x2 x3 x4 x5 x6).2 := by
  unfold State.progPi
  repeat' first
    | with_reducible assumption
    | with_reducible apply State.setEng_keeps
    | simp -zeta only [Keeps.mk_iff, Keeps.mkCom_iff, Keeps.mkLog_iff]
    | (extract_lets +onlyGivenNames u; try clear_value u)
    | split

theorem State.bankPi_keeps {z s : State} {x1 x2 x3} (h : Keeps z s) : Keeps z (State.bankPi s x1 x2 x3).2 := by
  unfold State.bankPi
  repeat' first
    | with_reducible assumption
    | with_reducible apply State.progPi_keeps

theorem State.presetPi_keeps {z s : State} {x1 x2 x3} (h : Keeps z s) : Keeps z (State.presetPi s x1 x2 x3) := by
  unfold State.presetPi
  repeat' first
    | with_reducible assumption
    | with_reducible apply State.setEng_keeps

theorem State.postLegs_keeps {z s : State} (h : Keeps z s) : Keeps z (Sys2Proof.Machine.State.postLegs s) := by
  unfold State.postLegs
  repeat' first
    | with_reducible assumption
    | with_reducible apply State.stageLeg_keeps
    | simp -zeta only [Keeps.mk_iff, Keeps.mkCom_iff, Keeps.mkLog_iff]
    | (with_reducible refine Keeps.foldl (fun x a hx => ?_) ?_ _ <;> beta_reduce)
    | (extract_lets +onlyGivenNames u; try clear_value u)
    | split

end Sys2Proof.Machine
end

