-- ==== Sys2Proof/Laws/KeepsDrive.lean ====
section
/-! SUPPORT. The operations and meanings of Machine/Drive.lean keep what every step keeps. -/

set_option linter.unreachableTactic false
set_option linter.unusedTactic false
set_option linter.unusedSimpArgs false
set_option linter.tactic.unusedName false
set_option linter.unusedVariables false

namespace Sys2Proof.Machine
open Sys2Proof

theorem State.toD_keeps {z s : State} {x1} (h : Keeps z s) : Keeps z (State.toD s x1) := by
  unfold State.toD
  repeat' first
    | with_reducible assumption
    | with_reducible apply State.setF_keeps

theorem State.showCurrents_keeps {z s : State} {x1 x2 x3} (h : Keeps z s) : Keeps z (State.showCurrents s x1 x2 x3) := by
  unfold State.showCurrents
  repeat' first
    | with_reducible assumption
    | with_reducible apply State.putLink_keeps

theorem State.stageLegs_keeps {z s : State} {x1 x2} (h : Keeps z s) : Keeps z (State.stageLegs s x1 x2) := by
  unfold State.stageLegs
  repeat' first
    | with_reducible assumption
    | with_reducible apply State.stageLeg_keeps
    | (with_reducible refine Keeps.foldl (fun x a hx => ?_) ?_ _ <;> beta_reduce)

theorem State.rampBias_keeps {z s : State} {x1 x2} (h : Keeps z s) : Keeps z (State.rampBias s x1 x2) := by
  unfold State.rampBias
  repeat' first
    | with_reducible assumption
    | simp -zeta only [Keeps.mk_iff, Keeps.mkCom_iff, Keeps.mkLog_iff]
    | (extract_lets +onlyGivenNames u; try clear_value u)

theorem State.dqVoltage_keeps {z s : State} {x1 x2} (h : Keeps z s) : Keeps z (State.dqVoltage s x1 x2).2 := by
  unfold State.dqVoltage
  repeat' first
    | with_reducible assumption
    | with_reducible apply State.bankPi_keeps

theorem State.regulateSet_keeps {z s : State} {x1 x2 x3 x4 x5} (h : Keeps z s) : Keeps z (State.regulateSet s x1 x2 x3 x4 x5) := by
  unfold State.regulateSet
  repeat' first
    | with_reducible assumption
    | with_reducible apply State.dqVoltage_keeps
    | with_reducible apply State.rampBias_keeps
    | with_reducible apply State.stageLegs_keeps
    | simp -zeta only [Keeps.mk_iff, Keeps.mkCom_iff, Keeps.mkLog_iff]

theorem State.leaveAscStep_keeps {z s : State} {x1 x2} (h : Keeps z s) : Keeps z (State.leaveAscStep s x1 x2) := by
  unfold State.leaveAscStep
  repeat' first
    | with_reducible assumption
    | with_reducible apply State.presetPi_keeps
    | with_reducible apply State.stageLegs_keeps
    | simp -zeta only [Keeps.mk_iff, Keeps.mkCom_iff, Keeps.mkLog_iff]

theorem State.currentLoop_keeps {z s : State} {x1} (h : Keeps z s) : Keeps z (State.currentLoop s x1) := by
  unfold State.currentLoop
  repeat' first
    | with_reducible assumption
    | with_reducible apply State.showCurrents_keeps
    | with_reducible apply State.stageLegs_keeps
    | with_reducible apply State.leaveAscStep_keeps
    | with_reducible apply State.regulateSet_keeps
    | simp -zeta only [Keeps.mk_iff, Keeps.mkCom_iff, Keeps.mkLog_iff]
    | with_reducible apply Keeps.ite

theorem State.loopPost_keeps {z s : State} {x1} (h : Keeps z s) : Keeps z (Sys2Proof.Machine.State.loopPost s x1) := by
  unfold State.loopPost
  repeat' first
    | with_reducible assumption
    | with_reducible apply State.currentLoop_keeps
    | with_reducible apply State.postLegs_keeps
    | with_reducible apply Keeps.ite

theorem State.track_keeps {z s : State} {x1} (h : Keeps z s) : Keeps z (State.track s x1) := by
  unfold State.track
  repeat' first
    | with_reducible assumption
    | simp -zeta only [Keeps.mk_iff, Keeps.mkCom_iff, Keeps.mkLog_iff]
    | (extract_lets +onlyGivenNames u; try clear_value u)

theorem State.learnAmp_keeps {z s : State} {x1} (h : Keeps z s) : Keeps z (State.learnAmp s x1) := by
  unfold State.learnAmp
  repeat' first
    | with_reducible assumption
    | simp -zeta only [Keeps.mk_iff, Keeps.mkCom_iff, Keeps.mkLog_iff]
    | with_reducible apply Keeps.ite

end Sys2Proof.Machine
end

