-- ==== Sys2Proof/Laws/KeepsTraction.lean ====
section
/-! SUPPORT. The operations and meanings of Machine/Traction.lean keep what every step keeps. -/

set_option linter.unreachableTactic false
set_option linter.unusedTactic false
set_option linter.unusedSimpArgs false
set_option linter.tactic.unusedName false
set_option linter.unusedVariables false

namespace Sys2Proof.Machine
open Sys2Proof

theorem State.startSets_keeps {z s : State} (h : Keeps z s) : Keeps z (State.startSets s) := by
  unfold State.startSets
  repeat' first
    | with_reducible assumption
    | with_reducible apply State.showModes_keeps
    | with_reducible apply State.setMode_keeps
    | with_reducible apply Keeps.ite
    | (with_reducible refine Keeps.foldl (fun x a hx => ?_) ?_ _ <;> beta_reduce)

theorem State.stopSets_keeps {z s : State} (h : Keeps z s) : Keeps z (State.stopSets s) := by
  unfold State.stopSets
  repeat' first
    | with_reducible assumption
    | with_reducible apply State.showModes_keeps
    | with_reducible apply State.stopSwitching_keeps

theorem State.enterAsc_keeps {z s : State} {x1} (h : Keeps z s) : Keeps z (State.enterAsc s x1) := by
  unfold State.enterAsc
  repeat' first
    | with_reducible assumption
    | with_reducible apply State.event_keeps
    | with_reducible apply State.setB_keeps
    | with_reducible apply State.toD_keeps
    | with_reducible apply State.startSets_keeps
    | with_reducible apply State.raise_keeps
    | simp -zeta only [Keeps.mk_iff, Keeps.mkCom_iff, Keeps.mkLog_iff]

theorem execDriveArm_keeps {z s : State} {x0} (h : Keeps z s) : KeepsOut z (execDriveArm x0 s) := by
  unfold execDriveArm
  repeat' first
    | with_reducible assumption
    | (with_reducible refine serveOp_keeps (by with_reducible assumption) fun z t u hu => ?_; beta_reduce)
    | with_reducible apply refuse_keeps
    | with_reducible apply okWith_keeps
    | with_reducible apply State.toD_keeps
    | simp -zeta only [Keeps.mk_iff, Keeps.mkCom_iff, Keeps.mkLog_iff]
    | (extract_lets +onlyGivenNames u; try clear_value u)
    | split

theorem State.answerStart_keeps {z s : State} {x1 x2} (h : Keeps z s) : Keeps z (State.answerStart s x1 x2) := by
  unfold State.answerStart
  repeat' first
    | with_reducible assumption
    | with_reducible apply State.answer_keeps
    | simp -zeta only [Keeps.mk_iff, Keeps.mkCom_iff, Keeps.mkLog_iff]
    | (extract_lets +onlyGivenNames u; try clear_value u)
    | split

theorem execDriveDisarm_keeps {z s : State} {x0} (h : Keeps z s) : KeepsOut z (execDriveDisarm x0 s) := by
  unfold execDriveDisarm
  repeat' first
    | with_reducible assumption
    | (with_reducible refine serveOp_keeps (by with_reducible assumption) fun z t u hu => ?_; beta_reduce)
    | with_reducible apply refuse_keeps
    | with_reducible apply okWith_keeps
    | with_reducible apply State.answerStart_keeps
    | with_reducible apply State.setB_keeps
    | with_reducible apply State.toD_keeps
    | simp -zeta only [Keeps.mk_iff, Keeps.mkCom_iff, Keeps.mkLog_iff]
    | (extract_lets +onlyGivenNames u; try clear_value u)
    | split

theorem execTorqueSet_keeps {z s : State} {x0} (h : Keeps z s) : KeepsOut z (execTorqueSet x0 s) := by
  unfold execTorqueSet
  repeat' first
    | with_reducible assumption
    | (with_reducible refine serveOp_keeps (by with_reducible assumption) fun z t u hu => ?_; beta_reduce)
    | with_reducible apply refuse_keeps
    | with_reducible apply okWith_keeps
    | simp -zeta only [Keeps.mk_iff, Keeps.mkCom_iff, Keeps.mkLog_iff]
    | (extract_lets +onlyGivenNames u; try clear_value u)
    | split

theorem execSpeedLimitSet_keeps {z s : State} {x0} (h : Keeps z s) : KeepsOut z (execSpeedLimitSet x0 s) := by
  unfold execSpeedLimitSet
  repeat' first
    | with_reducible assumption
    | (with_reducible refine serveOp_keeps (by with_reducible assumption) fun z t u hu => ?_; beta_reduce)
    | with_reducible apply refuse_keeps
    | with_reducible apply okWith_keeps
    | simp -zeta only [Keeps.mk_iff, Keeps.mkCom_iff, Keeps.mkLog_iff]
    | (extract_lets +onlyGivenNames u; try clear_value u)
    | split

theorem State.flyRecord_keeps {z s : State} {x1 x2 x3} (h : Keeps z s) : Keeps z (State.flyRecord s x1 x2 x3) := by
  unfold State.flyRecord
  repeat' first
    | with_reducible assumption
    | with_reducible apply State.setF_keeps
    | with_reducible apply State.bump_keeps
    | with_reducible apply Keeps.ite

theorem State.presetSets_keeps {z s : State} {x1 x2 x3} (h : Keeps z s) : Keeps z (State.presetSets s x1 x2 x3) := by
  unfold State.presetSets
  repeat' first
    | with_reducible assumption
    | with_reducible apply State.presetPi_keeps
    | (with_reducible refine Keeps.foldl (fun x a hx => ?_) ?_ _ <;> beta_reduce)

theorem State.startCase_keeps {z s : State} {x1} (h : Keeps z s) : Keeps z (State.startCase s x1) := by
  unfold State.startCase
  repeat' first
    | with_reducible assumption
    | with_reducible apply State.startSets_keeps
    | with_reducible apply State.toD_keeps
    | simp -zeta only [Keeps.mk_iff, Keeps.mkCom_iff, Keeps.mkLog_iff]

theorem State.startMode_keeps {z s : State} {x1} (h : Keeps z s) : Keeps z (State.startMode s x1) := by
  unfold State.startMode
  repeat' first
    | with_reducible assumption
    | with_reducible apply State.event_keeps
    | with_reducible apply State.setB_keeps
    | simp -zeta only [Keeps.mk_iff, Keeps.mkCom_iff, Keeps.mkLog_iff]
    | with_reducible apply Keeps.ite

theorem State.listen_keeps {z s : State} {x1} (h : Keeps z s) : Keeps z (State.listen s x1) := by
  unfold State.listen
  repeat' first
    | with_reducible assumption
    | simp -zeta only [Keeps.mk_iff, Keeps.mkCom_iff, Keeps.mkLog_iff]

theorem execDriveStart_keeps {z s : State} {x0} (h : Keeps z s) : KeepsOut z (execDriveStart x0 s) := by
  unfold execDriveStart
  dsimp only
  repeat' first
    | with_reducible assumption
    | (with_reducible refine serveOp_keeps (by with_reducible assumption) fun z t u hu => ?_; beta_reduce)
    | with_reducible apply refuse_keeps
    | with_reducible apply State.startMode_keeps
    | with_reducible apply okWith_keeps
    | with_reducible apply State.enterAsc_keeps
    | with_reducible apply State.flyRecord_keeps
    | with_reducible apply State.listen_keeps
    | with_reducible apply Keeps.later
    | split

theorem execListenEnd_keeps {z s : State} {x0 x1} (h : Keeps z s) : KeepsOut z (execListenEnd x0 x1 s) := by
  unfold execListenEnd
  repeat' first
    | with_reducible assumption
    | with_reducible apply State.advance_keeps
    | with_reducible apply State.answerStart_keeps
    | with_reducible apply State.enterAsc_keeps
    | with_reducible apply State.flyRecord_keeps
    | with_reducible apply State.raise_keeps
    | with_reducible apply State.event_keeps
    | with_reducible apply State.toD_keeps
    | with_reducible apply State.startCase_keeps
    | with_reducible apply State.presetSets_keeps
    | simp -zeta only [Keeps.mk_iff, Keeps.mkCom_iff, Keeps.mkLog_iff]
    | with_reducible apply Keeps.out
    | (extract_lets +onlyGivenNames u; refine (?_ : Keeps z u → _) ?_; rotate_left; unfold u; rotate_left; intro hu; try clear_value u)
    | (extract_lets +onlyGivenNames u; try clear_value u)
    | split

theorem State.beginStop_keeps {z s : State} (h : Keeps z s) : Keeps z (State.beginStop s) := by
  unfold State.beginStop
  repeat' first
    | with_reducible assumption
    | with_reducible apply State.toD_keeps
    | simp -zeta only [Keeps.mk_iff, Keeps.mkCom_iff, Keeps.mkLog_iff]

theorem State.stopFromAsc_keeps {z s : State} (h : Keeps z s) : Keeps z (State.stopFromAsc s) := by
  unfold State.stopFromAsc
  repeat' first
    | with_reducible assumption
    | with_reducible apply State.beginStop_keeps
    | simp -zeta only [Keeps.mk_iff, Keeps.mkCom_iff, Keeps.mkLog_iff]
    | (extract_lets +onlyGivenNames u; refine (?_ : Keeps z u → _) ?_; rotate_left; unfold u; rotate_left; intro hu; try clear_value u)

theorem execDriveStop_keeps {z s : State} {x0} (h : Keeps z s) : KeepsOut z (execDriveStop x0 s) := by
  unfold execDriveStop
  repeat' first
    | with_reducible assumption
    | (with_reducible refine serveOp_keeps (by with_reducible assumption) fun z t u hu => ?_; beta_reduce)
    | with_reducible apply refuse_keeps
    | with_reducible apply okWith_keeps
    | with_reducible apply State.answerStart_keeps
    | with_reducible apply State.toD_keeps
    | with_reducible apply State.beginStop_keeps
    | simp -zeta only [Keeps.mk_iff, Keeps.mkCom_iff, Keeps.mkLog_iff]
    | (extract_lets +onlyGivenNames u; try clear_value u)
    | split

theorem execStopRampEnd_keeps {z s : State} {x0} (h : Keeps z s) : KeepsOut z (execStopRampEnd x0 s) := by
  unfold execStopRampEnd
  repeat' first
    | with_reducible assumption
    | with_reducible apply State.advance_keeps
    | with_reducible apply State.enterAsc_keeps
    | with_reducible apply State.stopSets_keeps
    | with_reducible apply State.toD_keeps
    | simp -zeta only [Keeps.mk_iff, Keeps.mkCom_iff, Keeps.mkLog_iff]
    | with_reducible apply Keeps.out
    | (extract_lets +onlyGivenNames u; refine (?_ : Keeps z u → _) ?_; rotate_left; unfold u; rotate_left; intro hu; try clear_value u)
    | (extract_lets +onlyGivenNames u; try clear_value u)
    | split

theorem State.leaveAsc_keeps {z s : State} (h : Keeps z s) : Keeps z (State.leaveAsc s) := by
  unfold State.leaveAsc
  repeat' first
    | with_reducible assumption
    | with_reducible apply State.setB_keeps
    | simp -zeta only [Keeps.mk_iff, Keeps.mkCom_iff, Keeps.mkLog_iff]

theorem execAscExit_keeps {z s : State} {x0} (h : Keeps z s) : KeepsOut z (execAscExit x0 s) := by
  unfold execAscExit
  repeat' first
    | with_reducible assumption
    | with_reducible apply State.advance_keeps
    | with_reducible apply State.leaveAsc_keeps
    | with_reducible apply State.stopFromAsc_keeps
    | with_reducible apply State.startCase_keeps
    | with_reducible apply State.raise_keeps
    | with_reducible apply State.event_keeps
    | with_reducible apply Keeps.out
    | (extract_lets +onlyGivenNames u; refine (?_ : Keeps z u → _) ?_; rotate_left; unfold u; rotate_left; intro hu; try clear_value u)
    | split

theorem execBrakeStandstill_keeps {z s : State} {x0} (h : Keeps z s) : KeepsOut z (execBrakeStandstill x0 s) := by
  unfold execBrakeStandstill
  repeat' first
    | with_reducible assumption
    | with_reducible apply State.advance_keeps
    | with_reducible apply State.toD_keeps
    | with_reducible apply Keeps.out
    | with_reducible apply Keeps.ite
    | (extract_lets +onlyGivenNames u; refine (?_ : Keeps z u → _) ?_; rotate_left; unfold u; rotate_left; intro hu; try clear_value u)
    | split

theorem execTrcBrakeAbort_keeps {z s : State} {x0} (h : Keeps z s) : KeepsOut z (execTrcBrakeAbort x0 s) := by
  unfold execTrcBrakeAbort
  repeat' first
    | with_reducible assumption
    | with_reducible apply State.advance_keeps
    | with_reducible apply State.beginStop_keeps
    | with_reducible apply State.raise_keeps
    | with_reducible apply State.event_keeps
    | with_reducible apply Keeps.out
    | (extract_lets +onlyGivenNames u; refine (?_ : Keeps z u → _) ?_; rotate_left; unfold u; rotate_left; intro hu; try clear_value u)
    | (extract_lets +onlyGivenNames u; try clear_value u)
    | split

theorem State.rotorLoss_keeps {z s : State} (h : Keeps z s) : Keeps z (State.rotorLoss s) := by
  unfold State.rotorLoss
  repeat' first
    | with_reducible assumption
    | with_reducible apply State.raise_keeps
    | with_reducible apply State.toD_keeps
    | with_reducible apply State.event_keeps
    | simp -zeta only [Keeps.mk_iff, Keeps.mkCom_iff, Keeps.mkLog_iff]
    | with_reducible apply Keeps.ite

theorem State.reacquire_keeps {z s : State} (h : Keeps z s) : Keeps z (State.reacquire s) := by
  unfold State.reacquire
  repeat' first
    | with_reducible assumption
    | with_reducible apply State.event_keeps
    | with_reducible apply State.bump_keeps
    | with_reducible apply State.toD_keeps
    | with_reducible apply Keeps.ite

theorem execTrcRotorLost_keeps {z s : State} {x0} (h : Keeps z s) : KeepsOut z (execTrcRotorLost x0 s) := by
  unfold execTrcRotorLost
  repeat' first
    | with_reducible assumption
    | with_reducible apply State.advance_keeps
    | with_reducible apply State.raise_keeps
    | with_reducible apply State.setQ_keeps
    | with_reducible apply Keeps.out
    | (extract_lets +onlyGivenNames u; refine (?_ : Keeps z u → _) ?_; rotate_left; unfold u; rotate_left; intro hu; try clear_value u)
    | (extract_lets +onlyGivenNames u; try clear_value u)
    | split

theorem State.retime_keeps {z s : State} {x1 x2} (h : Keeps z s) : Keeps z (State.retime s x1 x2) := by
  unfold State.retime
  repeat' first
    | with_reducible assumption
    | with_reducible apply State.setF_keeps
    | simp -zeta only [Keeps.mk_iff, Keeps.mkCom_iff, Keeps.mkLog_iff]

theorem execExcRetime_keeps {z s : State} {x0} (h : Keeps z s) : KeepsOut z (execExcRetime x0 s) := by
  unfold execExcRetime
  repeat' first
    | with_reducible assumption
    | with_reducible apply State.advance_keeps
    | with_reducible apply State.retime_keeps
    | with_reducible apply State.setB_keeps
    | simp -zeta only [Keeps.mk_iff, Keeps.mkCom_iff, Keeps.mkLog_iff]
    | with_reducible apply Keeps.out
    | with_reducible apply Keeps.ite
    | (extract_lets +onlyGivenNames u; refine (?_ : Keeps z u → _) ?_; rotate_left; unfold u; rotate_left; intro hu; try clear_value u)
    | split

theorem State.countRows_keeps {z s : State} {x1} (h : Keeps z s) : Keeps z (State.countRows s x1) := by
  unfold State.countRows
  repeat' first
    | with_reducible assumption
    | simp -zeta only [Keeps.mk_iff, Keeps.mkCom_iff, Keeps.mkLog_iff]

theorem State.judgeResolver_keeps {z s : State} (h : Keeps z s) : Keeps z (State.judgeResolver s) := by
  unfold State.judgeResolver
  repeat' first
    | with_reducible assumption
    | with_reducible apply State.event_keeps
    | with_reducible apply State.setB_keeps
    | with_reducible apply State.raise_keeps
    | with_reducible apply State.rotorLoss_keeps
    | simp -zeta only [Keeps.mk_iff, Keeps.mkCom_iff, Keeps.mkLog_iff]
    | with_reducible apply Keeps.ite

theorem State.judgeSpeed_keeps {z s : State} {x1} (h : Keeps z s) : Keeps z (State.judgeSpeed s x1) := by
  unfold State.judgeSpeed
  repeat' first
    | with_reducible assumption
    | with_reducible apply State.raise_keeps
    | with_reducible apply State.event_keeps
    | simp -zeta only [Keeps.mk_iff, Keeps.mkCom_iff, Keeps.mkLog_iff]
    | with_reducible apply Keeps.ite

theorem State.showResolver_keeps {z s : State} {x1 x2} (h : Keeps z s) : Keeps z (State.showResolver s x1 x2) := by
  unfold State.showResolver
  repeat' first
    | with_reducible assumption
    | with_reducible apply State.setF_keeps
    | with_reducible apply State.setQ_keeps
    | simp -zeta only [Keeps.mk_iff, Keeps.mkCom_iff, Keeps.mkLog_iff]
    | (extract_lets +onlyGivenNames u; refine (?_ : Keeps z u → _) ?_; rotate_left; unfold u; rotate_left; intro hu; try clear_value u)
    | (extract_lets +onlyGivenNames u; try clear_value u)

theorem State.noteGood_keeps {z s : State} (h : Keeps z s) : Keeps z (Sys2Proof.Machine.State.noteGood s) := by
  unfold State.noteGood
  repeat' first
    | with_reducible assumption
    | simp -zeta only [Keeps.mk_iff, Keeps.mkCom_iff, Keeps.mkLog_iff]
    | with_reducible apply Keeps.ite
    | (extract_lets +onlyGivenNames u; try clear_value u)
    | split

theorem State.candidate_keeps {z s : State} {x1 x2 x3 x4} (h : Keeps z s) : Keeps z (Sys2Proof.Machine.State.candidate s x1 x2 x3 x4) := by
  unfold State.candidate
  repeat' first
    | with_reducible assumption
    | simp -zeta only [Keeps.mk_iff, Keeps.mkCom_iff, Keeps.mkLog_iff]

theorem State.postAngle_keeps {z s : State} {x1 x2 x3} (h : Keeps z s) : Keeps z (State.postAngle s x1 x2 x3) := by
  unfold State.postAngle
  repeat' first
    | with_reducible assumption
    | with_reducible apply State.putLink_keeps

theorem State.sumTurns_keeps {z s : State} {x1} (h : Keeps z s) : Keeps z (State.sumTurns s x1) := by
  unfold State.sumTurns
  repeat' first
    | with_reducible assumption
    | simp -zeta only [Keeps.mk_iff, Keeps.mkCom_iff, Keeps.mkLog_iff]
    | (extract_lets +onlyGivenNames u; try clear_value u)

theorem State.slotLE5_keeps {z s : State} (h : Keeps z s) : Keeps z (Sys2Proof.Machine.State.slotLE5 s) := by
  unfold State.slotLE5
  repeat' first
    | with_reducible assumption
    | with_reducible apply State.track_keeps
    | with_reducible apply State.learnAmp_keeps
    | with_reducible apply State.judgeResolver_keeps
    | with_reducible apply State.countRows_keeps
    | with_reducible apply State.showResolver_keeps
    | with_reducible apply State.sumTurns_keeps
    | with_reducible apply State.noteGood_keeps
    | with_reducible apply State.candidate_keeps
    | with_reducible apply State.reacquire_keeps
    | with_reducible apply State.judgeSpeed_keeps
    | with_reducible apply State.postAngle_keeps
    | with_reducible apply Keeps.ite

theorem State.observe_keeps {z s : State} (h : Keeps z s) : Keeps z (State.observe s) := by
  unfold State.observe
  repeat' first
    | with_reducible assumption
    | with_reducible apply State.setB_keeps
    | with_reducible apply State.setF_keeps
    | with_reducible apply State.putLink_keeps
    | simp -zeta only [Keeps.mk_iff, Keeps.mkCom_iff, Keeps.mkLog_iff]

theorem State.takeEmf_keeps {z s : State} {x1} (h : Keeps z s) : Keeps z (State.takeEmf s x1) := by
  unfold State.takeEmf
  repeat' first
    | with_reducible assumption
    | with_reducible apply State.setQ_keeps
    | simp -zeta only [Keeps.mk_iff, Keeps.mkCom_iff, Keeps.mkLog_iff]
    | (extract_lets +onlyGivenNames u; refine (?_ : Keeps z u → _) ?_; rotate_left; unfold u; rotate_left; intro hu; try clear_value u)
    | (extract_lets +onlyGivenNames u; try clear_value u)

theorem State.compareAngles_keeps {z s : State} (h : Keeps z s) : Keeps z (State.compareAngles s) := by
  unfold State.compareAngles
  repeat' first
    | with_reducible assumption
    | simp -zeta only [Keeps.mk_iff, Keeps.mkCom_iff, Keeps.mkLog_iff]
    | (extract_lets +onlyGivenNames u; try clear_value u)

theorem State.ascFromArmed_keeps {z s : State} (h : Keeps z s) : Keeps z (State.ascFromArmed s) := by
  unfold State.ascFromArmed
  repeat' first
    | with_reducible assumption
    | with_reducible apply State.answerStart_keeps
    | with_reducible apply State.enterAsc_keeps
    | with_reducible apply State.flyRecord_keeps
    | with_reducible apply Keeps.ite

theorem State.retiredAscEnds_keeps {z s : State} (h : Keeps z s) : Keeps z (State.retiredAscEnds s) := by
  unfold State.retiredAscEnds
  repeat' first
    | with_reducible assumption
    | with_reducible apply State.showModes_keeps
    | with_reducible apply State.setB_keeps
    | with_reducible apply State.stopSwitching_keeps
    | simp -zeta only [Keeps.mk_iff, Keeps.mkCom_iff, Keeps.mkLog_iff]
    | with_reducible apply Keeps.ite
    | (with_reducible refine Keeps.foldl (fun x a hx => ?_) ?_ _ <;> beta_reduce)

theorem State.slotLE13_keeps {z s : State} {x1} (h : Keeps z s) : Keeps z (State.slotLE13 s x1) := by
  unfold State.slotLE13
  repeat' first
    | with_reducible assumption
    | with_reducible apply State.retiredAscEnds_keeps
    | with_reducible apply State.compareAngles_keeps
    | with_reducible apply State.observe_keeps
    | with_reducible apply State.takeEmf_keeps
    | with_reducible apply State.ascFromArmed_keeps
    | with_reducible apply State.rotorLoss_keeps
    | with_reducible apply State.reacquire_keeps
    | with_reducible apply Keeps.ite

theorem State.speedLimiter_keeps {z s : State} {x1} (h : Keeps z s) : Keeps z (State.speedLimiter s x1).2 := by
  unfold State.speedLimiter
  repeat' first
    | with_reducible assumption
    | with_reducible apply State.progPi_keeps
    | simp -zeta only [Keeps.mk_iff, Keeps.mkCom_iff, Keeps.mkLog_iff]
    | (extract_lets +onlyGivenNames u; try clear_value u)
    | split

theorem State.torqueAim_keeps {z s : State} {x1} (h : Keeps z s) : Keeps z (State.torqueAim s x1).2 := by
  unfold State.torqueAim
  repeat' first
    | with_reducible assumption
    | with_reducible apply State.progPi_keeps
    | simp -zeta only [Keeps.mk_iff, Keeps.mkCom_iff, Keeps.mkLog_iff]
    | (extract_lets +onlyGivenNames u; try clear_value u)
    | split

theorem State.rampTorque_keeps {z s : State} {x1 x2} (h : Keeps z s) : Keeps z (State.rampTorque s x1 x2) := by
  unfold State.rampTorque
  repeat' first
    | with_reducible assumption
    | simp -zeta only [Keeps.mk_iff, Keeps.mkCom_iff, Keeps.mkLog_iff]
    | (extract_lets +onlyGivenNames u; try clear_value u)

theorem State.weaken_keeps {z s : State} {x1} (h : Keeps z s) : Keeps z (State.weaken s x1) := by
  unfold State.weaken
  repeat' first
    | with_reducible assumption
    | simp -zeta only [Keeps.mk_iff, Keeps.mkCom_iff, Keeps.mkLog_iff]
    | (extract_lets +onlyGivenNames u; try clear_value u)

theorem State.giveCurrents_keeps {z s : State} (h : Keeps z s) : Keeps z (State.giveCurrents s) := by
  unfold State.giveCurrents
  repeat' first
    | with_reducible assumption
    | with_reducible apply State.weaken_keeps
    | with_reducible apply State.putLink_keeps
    | (with_reducible refine Keeps.foldl (fun x a hx => ?_) ?_ _ <;> beta_reduce)

theorem State.stopProgress_keeps {z s : State} (h : Keeps z s) : Keeps z (State.stopProgress s) := by
  unfold State.stopProgress
  repeat' first
    | with_reducible assumption
    | with_reducible apply State.enterAsc_keeps
    | simp -zeta only [Keeps.mk_iff, Keeps.mkCom_iff, Keeps.mkLog_iff]
    | with_reducible apply Keeps.ite

theorem State.slotLE0_keeps {z s : State} (h : Keeps z s) : Keeps z (State.slotLE0 s) := by
  unfold State.slotLE0
  repeat' first
    | with_reducible assumption
    | with_reducible apply State.setMode_keeps
    | with_reducible apply State.stage_keeps
    | with_reducible apply Keeps.ite
    | (with_reducible refine Keeps.foldl (fun x a hx => ?_) ?_ _ <;> beta_reduce)
    | (extract_lets +onlyGivenNames u; try clear_value u)
    | split

theorem State.retireOther_keeps {z s : State} {x1} (h : Keeps z s) : Keeps z (Sys2Proof.Machine.State.retireOther s x1) := by
  unfold State.retireOther
  repeat' first
    | with_reducible assumption
    | with_reducible apply State.loseSet_keeps
    | with_reducible apply Keeps.ite

theorem State.retireEnds_keeps {z s : State} {x1} (h : Keeps z s) : Keeps z (Sys2Proof.Machine.State.retireEnds s x1) := by
  unfold State.retireEnds
  repeat' first
    | with_reducible assumption
    | with_reducible apply State.raise_keeps
    | with_reducible apply State.event_keeps
    | with_reducible apply State.setB_keeps
    | with_reducible apply State.showModes_keeps
    | with_reducible apply State.stopSwitching_keeps
    | with_reducible apply State.retireOther_keeps
    | simp -zeta only [Keeps.mk_iff, Keeps.mkCom_iff, Keeps.mkLog_iff]
    | with_reducible apply Keeps.ite

theorem State.retireSet_keeps {z s : State} {x1} (h : Keeps z s) : Keeps z (Sys2Proof.Machine.State.retireSet s x1) := by
  unfold State.retireSet
  repeat' first
    | with_reducible assumption
    | with_reducible apply State.queueRetire_keeps
    | with_reducible apply State.raise_keeps
    | with_reducible apply State.retireOther_keeps
    | simp -zeta only [Keeps.mk_iff, Keeps.mkCom_iff, Keeps.mkLog_iff]
    | with_reducible apply Keeps.ite

theorem State.retireProgress_keeps {z s : State} (h : Keeps z s) : Keeps z (State.retireProgress s) := by
  unfold State.retireProgress
  repeat' first
    | with_reducible assumption
    | with_reducible apply State.retireEnds_keeps
    | with_reducible apply Keeps.ite
    | (with_reducible refine Keeps.foldl (fun x a hx => ?_) ?_ _ <;> beta_reduce)
    | split

theorem State.slotLE4_keeps {z s : State} (h : Keeps z s) : Keeps z (State.slotLE4 s) := by
  unfold State.slotLE4
  repeat' first
    | with_reducible assumption
    | with_reducible apply State.speedLimiter_keeps
    | with_reducible apply State.torqueAim_keeps
    | with_reducible apply State.giveCurrents_keeps
    | with_reducible apply State.setQ_keeps
    | with_reducible apply State.rampTorque_keeps
    | with_reducible apply State.retireProgress_keeps
    | with_reducible apply State.stopProgress_keeps

end Sys2Proof.Machine
end

