-- ==== Sys2Proof/Laws/KeepsRidge.lean ====
section
/-! SUPPORT. The operations and meanings of Machine/Ridge.lean keep what every step keeps. -/

set_option linter.unreachableTactic false
set_option linter.unusedTactic false
set_option linter.unusedSimpArgs false
set_option linter.tactic.unusedName false
set_option linter.unusedVariables false

namespace Sys2Proof.Machine
open Sys2Proof

theorem State.setR_keeps {z s : State} {r : Ridge} (h : Keeps z s) (k : s.rdg.Kept r) : Keeps z (s.setR r) := h.rdg k

theorem pruneDays_keeps {z s : State} {n} (h : Keeps z s) : Keeps z (pruneDays n s) := by
  induction n generalizing s with
  | zero => exact h
  | succ n ih =>
    unfold pruneDays
    split
    · exact h
    · split
      · exact h
      · exact ih (State.setR_keeps h (Ridge.Kept.mk (Nat.le_refl _) id id (le_refl _) (le_refl _) (le_refl _) (Nat.le_refl _)))

theorem State.prune_keeps {z s : State} (h : Keeps z s) : Keeps z (State.prune s) := by
  unfold State.prune
  repeat' first
    | with_reducible assumption
    | with_reducible apply pruneDays_keeps

theorem State.rdgEvent_keeps {z s : State} {x1 x2 x3} (h : Keeps z s) : Keeps z (State.rdgEvent s x1 x2 x3) := by
  unfold State.rdgEvent
  dsimp only
  repeat' first
    | with_reducible assumption
    | exact Ridge.Kept.mk (Nat.le_refl _) id id (le_refl _) (le_refl _) (le_refl _) (Nat.le_succ _)
    | with_reducible apply State.setR_keeps

theorem State.bumpLec_keeps {z s : State} (h : Keeps z s) : Keeps z (State.bumpLec s) := by
  unfold State.bumpLec
  dsimp only
  repeat' first
    | with_reducible assumption
    | exact Ridge.Kept.mk (lec_grows _) id id (le_refl _) (le_refl _) (le_refl _) (Nat.le_refl _)
    | with_reducible apply State.setR_keeps

theorem State.motionEntry_keeps {z s : State} (h : Keeps z s) : Keeps z (State.motionEntry s) := by
  unfold State.motionEntry
  repeat' first
    | with_reducible assumption
    | with_reducible apply State.setR_keeps
    | exact Ridge.Kept.mk (Nat.le_refl _) id id (le_refl _) (le_refl _) (le_refl _) (Nat.le_refl _)
    | with_reducible apply State.prune_keeps
    | with_reducible apply Keeps.ite

theorem State.energyEntry_keeps {z s : State} (h : Keeps z s) : Keeps z (State.energyEntry s) := by
  unfold State.energyEntry
  repeat' first
    | with_reducible assumption
    | with_reducible apply State.setR_keeps
    | exact Ridge.Kept.mk (Nat.le_refl _) id id (le_refl _) (le_refl _) (le_refl _) (Nat.le_refl _)
    | with_reducible apply State.prune_keeps
    | with_reducible apply Keeps.ite

theorem State.storeSeal_keeps {z s : State} {x1 x2 x3} (h : Keeps z s) : Keeps z (State.storeSeal s x1 x2 x3) := by
  unfold State.storeSeal
  repeat' first
    | with_reducible assumption
    | with_reducible apply State.prune_keeps
    | with_reducible apply State.setR_keeps
    | exact Ridge.Kept.mk (Nat.le_refl _) id id (le_refl _) (le_refl _) (le_refl _) (Nat.le_refl _)

theorem State.storeUnsigned_keeps {z s : State} (h : Keeps z s) : Keeps z (State.storeUnsigned s) := by
  unfold State.storeUnsigned
  repeat' first
    | with_reducible assumption
    | with_reducible apply State.storeSeal_keeps
    | (with_reducible refine Keeps.foldl (fun x a hx => ?_) ?_ _ <;> beta_reduce)

theorem State.closeDay_keeps {z s : State} {x1} (h : Keeps z s) : Keeps z (State.closeDay s x1) := by
  unfold State.closeDay
  repeat' first
    | with_reducible assumption
    | with_reducible apply State.setR_keeps
    | exact Ridge.Kept.mk (Nat.le_refl _) id id (le_refl _) (le_refl _) (le_refl _) (Nat.le_refl _)
    | with_reducible apply State.storeUnsigned_keeps
    | with_reducible apply Keeps.ite

theorem State.rollDay_keeps {z s : State} {x1} (h : Keeps z s) : Keeps z (State.rollDay s x1) := by
  unfold State.rollDay
  repeat' first
    | with_reducible assumption
    | with_reducible apply State.closeDay_keeps
    | with_reducible apply State.setR_keeps
    | exact Ridge.Kept.mk (Nat.le_refl _) id id (le_refl _) (le_refl _) (le_refl _) (Nat.le_refl _)
    | with_reducible apply Keeps.ite

theorem State.meshRecorded_keeps {z s : State} (h : Keeps z s) : Keeps z (Sys2Proof.Machine.State.meshRecorded s) := by
  unfold State.meshRecorded
  repeat' first
    | with_reducible assumption
    | with_reducible apply State.storeUnsigned_keeps
    | with_reducible apply State.rdgEvent_keeps
    | with_reducible apply State.setR_keeps
    | exact Ridge.Kept.mk (Nat.le_refl _) id id (le_refl _) (le_refl _) (le_refl _) (Nat.le_refl _)
    | with_reducible apply Keeps.ite

theorem State.qpStart_keeps {z s : State} {x1} (h : Keeps z s) : Keeps z (Sys2Proof.Machine.State.qpStart s x1) := by
  unfold State.qpStart
  repeat' first
    | with_reducible assumption
    | with_reducible apply State.setR_keeps
    | exact Ridge.Kept.mk (Nat.le_refl _) id id (le_refl _) (le_refl _) (le_refl _) (Nat.le_refl _)
    | with_reducible apply State.meshRecorded_keeps
    | with_reducible apply State.rdgEvent_keeps
    | with_reducible apply State.bumpLec_keeps
    | with_reducible apply State.motionEntry_keeps
    | with_reducible apply State.energyEntry_keeps
    | with_reducible apply Keeps.ite

theorem State.endSegment_keeps {z s : State} (h : Keeps z s) : Keeps z (State.endSegment s) := by
  unfold State.endSegment
  repeat' first
    | with_reducible assumption
    | with_reducible apply State.setR_keeps
    | exact Ridge.Kept.mk (Nat.le_refl _) id id (le_refl _) (le_refl _) (le_refl _) (Nat.le_refl _)
    | with_reducible apply State.rdgEvent_keeps
    | with_reducible apply Keeps.ite

theorem State.pulseAbsent_keeps {z s : State} (h : Keeps z s) : Keeps z (State.pulseAbsent s) := by
  unfold State.pulseAbsent
  repeat' first
    | with_reducible assumption
    | with_reducible apply State.rdgEvent_keeps
    | with_reducible apply State.setR_keeps
    | exact Ridge.Kept.mk (Nat.le_refl _) id id (le_refl _) (le_refl _) (le_refl _) (Nat.le_refl _)
    | with_reducible apply Keeps.ite

theorem State.pulseWoken_keeps {z s : State} (h : Keeps z s) : Keeps z (State.pulseWoken s) := by
  unfold State.pulseWoken
  repeat' first
    | with_reducible assumption
    | with_reducible apply State.setR_keeps
    | exact Ridge.Kept.mk (Nat.le_refl _) id id (le_refl _) (le_refl _) (le_refl _) (Nat.le_refl _)
    | with_reducible apply State.rdgEvent_keeps
    | with_reducible apply Keeps.ite

theorem State.countPulse_keeps {z s : State} (h : Keeps z s) : Keeps z (State.countPulse s) := by
  unfold State.countPulse
  dsimp only
  repeat' first
    | with_reducible assumption
    | (refine Ridge.Kept.mk (Nat.le_refl _) id id (le_refl _) (le_refl _) ?_ (Nat.le_refl _); dsimp only; with_reducible exact odo_grows _ _)
    | with_reducible apply State.setR_keeps
    | with_reducible apply State.pulseWoken_keeps
    | with_reducible apply State.pulseAbsent_keeps
    | with_reducible apply State.endSegment_keeps
    | with_reducible apply Keeps.ite

theorem execWpiPulse_keeps {z s : State} {x0} (h : Keeps z s) : KeepsOut z (execWpiPulse x0 s) := by
  unfold execWpiPulse
  repeat' first
    | with_reducible assumption
    | with_reducible apply State.advance_keeps
    | with_reducible apply State.qpStart_keeps
    | with_reducible apply State.countPulse_keeps
    | with_reducible apply Keeps.out
    | with_reducible apply Keeps.ite

theorem State.endWoken_keeps {z s : State} (h : Keeps z s) : Keeps z (State.endWoken s) := by
  unfold State.endWoken
  repeat' first
    | with_reducible assumption
    | with_reducible apply State.rdgEvent_keeps
    | with_reducible apply State.setR_keeps
    | exact Ridge.Kept.mk (Nat.le_refl _) id id (le_refl _) (le_refl _) (le_refl _) (Nat.le_refl _)
    | with_reducible apply Keeps.ite

theorem State.toRetention_keeps {z s : State} (h : Keeps z s) : Keeps z (State.toRetention s) := by
  unfold State.toRetention
  repeat' first
    | with_reducible assumption
    | with_reducible apply State.endWoken_keeps
    | with_reducible apply State.setR_keeps
    | exact Ridge.Kept.mk (Nat.le_refl _) id id (le_refl _) (le_refl _) (le_refl _) (Nat.le_refl _)

theorem execQpRetention_keeps {z s : State} {x0} (h : Keeps z s) : KeepsOut z (execQpRetention x0 s) := by
  unfold execQpRetention
  repeat' first
    | with_reducible assumption
    | with_reducible apply State.advance_keeps
    | with_reducible apply State.toRetention_keeps
    | with_reducible apply Keeps.out
    | with_reducible apply Keeps.ite

theorem State.thatchBroken_keeps {z s : State} (h : Keeps z s) : Keeps z (State.thatchBroken s) := by
  unfold State.thatchBroken
  dsimp only
  repeat' first
    | with_reducible assumption
    | exact Ridge.Kept.mk (Nat.le_refl _) (fun _ => rfl) (fun _ => rfl) (le_refl _) (le_refl _) (le_refl _) (Nat.le_refl _)
    | with_reducible apply State.rdgEvent_keeps
    | with_reducible apply State.setR_keeps
    | with_reducible apply State.storeUnsigned_keeps

theorem execThatchCheck_keeps {z s : State} {x0 x1} (h : Keeps z s) : KeepsOut z (Sys2Proof.Machine.execThatchCheck x0 x1 s) := by
  unfold execThatchCheck
  dsimp only
  repeat' first
    | with_reducible assumption
    | exact Ridge.Kept.mk (Nat.le_refl _) (fun _ => rfl) (fun _ => rfl) (le_refl _) (le_refl _) (le_refl _) (Nat.le_refl _)
    | with_reducible apply State.advance_keeps
    | with_reducible apply State.setR_keeps
    | with_reducible apply State.thatchBroken_keeps
    | with_reducible apply Keeps.out
    | split

theorem State.fieldAbove_keeps {z s : State} {x1} (h : Keeps z s) : Keeps z (State.fieldAbove s x1) := by
  unfold State.fieldAbove
  repeat' first
    | with_reducible assumption
    | with_reducible apply State.setR_keeps
    | exact Ridge.Kept.mk (Nat.le_refl _) id id (le_refl _) (le_refl _) (le_refl _) (Nat.le_refl _)
    | with_reducible apply State.rdgEvent_keeps
    | with_reducible apply Keeps.ite

theorem State.fieldBelow_keeps {z s : State} (h : Keeps z s) : Keeps z (State.fieldBelow s) := by
  unfold State.fieldBelow
  repeat' first
    | with_reducible assumption
    | with_reducible apply State.rdgEvent_keeps
    | with_reducible apply State.setR_keeps
    | exact Ridge.Kept.mk (Nat.le_refl _) id id (le_refl _) (le_refl _) (le_refl _) (Nat.le_refl _)
    | with_reducible apply Keeps.ite

theorem execFieldCheck_keeps {z s : State} {x0 x1} (h : Keeps z s) : KeepsOut z (execFieldCheck x0 x1 s) := by
  unfold execFieldCheck
  repeat' first
    | with_reducible assumption
    | with_reducible apply State.advance_keeps
    | with_reducible apply State.fieldAbove_keeps
    | with_reducible apply State.fieldBelow_keeps
    | with_reducible apply Keeps.out
    | (extract_lets +onlyGivenNames u; refine (?_ : Keeps z u → _) ?_; rotate_left; unfold u; rotate_left; intro hu; try clear_value u)
    | split

theorem State.wpiOpened_keeps {z s : State} (h : Keeps z s) : Keeps z (State.wpiOpened s) := by
  unfold State.wpiOpened
  repeat' first
    | with_reducible assumption
    | with_reducible apply State.setR_keeps
    | exact Ridge.Kept.mk (Nat.le_refl _) id id (le_refl _) (le_refl _) (le_refl _) (Nat.le_refl _)
    | with_reducible apply State.rdgEvent_keeps
    | with_reducible apply Keeps.ite

theorem State.wpiSound_keeps {z s : State} (h : Keeps z s) : Keeps z (State.wpiSound s) := by
  unfold State.wpiSound
  repeat' first
    | with_reducible assumption
    | with_reducible apply State.setR_keeps
    | exact Ridge.Kept.mk (Nat.le_refl _) id id (le_refl _) (le_refl _) (le_refl _) (Nat.le_refl _)
    | with_reducible apply State.rdgEvent_keeps
    | with_reducible apply Keeps.ite

theorem execWpiOpenTest_keeps {z s : State} {x0 x1} (h : Keeps z s) : KeepsOut z (execWpiOpenTest x0 x1 s) := by
  unfold execWpiOpenTest
  repeat' first
    | with_reducible assumption
    | with_reducible apply State.advance_keeps
    | with_reducible apply State.wpiOpened_keeps
    | with_reducible apply State.wpiSound_keeps
    | with_reducible apply Keeps.out
    | (extract_lets +onlyGivenNames u; refine (?_ : Keeps z u → _) ?_; rotate_left; unfold u; rotate_left; intro hu; try clear_value u)
    | split

theorem execRdgMbLoss_keeps {z s : State} {x0 x1 x2} (h : Keeps z s) : KeepsOut z (execRdgMbLoss x0 x1 x2 s) := by
  unfold execRdgMbLoss
  dsimp only
  repeat' first
    | with_reducible assumption
    | with_reducible apply State.advance_keeps
    | with_reducible apply State.rdgEvent_keeps
    | with_reducible apply State.setR_keeps
    | exact Ridge.Kept.mk (Nat.le_refl _) id id (le_refl _) (le_refl _) (le_refl _) (Nat.le_refl _)
    | with_reducible apply Keeps.out
    | split

theorem execRdgMbFlat_keeps {z s : State} {x0 x1 x2} (h : Keeps z s) : KeepsOut z (execRdgMbFlat x0 x1 x2 s) := by
  unfold execRdgMbFlat
  dsimp only
  repeat' first
    | with_reducible assumption
    | with_reducible apply State.advance_keeps
    | with_reducible apply State.rdgEvent_keeps
    | with_reducible apply State.setR_keeps
    | exact Ridge.Kept.mk (Nat.le_refl _) id id (le_refl _) (le_refl _) (le_refl _) (Nat.le_refl _)
    | with_reducible apply Keeps.out
    | split

theorem State.energySample_keeps {z s : State} {x1} (h : Keeps z s) : Keeps z (State.energySample s x1) := by
  unfold State.energySample
  repeat' first
    | with_reducible assumption
    | with_reducible apply State.setR_keeps
    | exact Ridge.Kept.mk (Nat.le_refl _) id id (le_refl _) (le_refl _) (le_refl _) (Nat.le_refl _)
    | simp -zeta only [Keeps.mk_iff, Keeps.mkCom_iff, Keeps.mkLog_iff]

theorem execRidgeEnergySample_keeps {z s : State} {x0 x1} (h : Keeps z s) : KeepsOut z (execRidgeEnergySample x0 x1 s) := by
  unfold execRidgeEnergySample
  repeat' first
    | with_reducible assumption
    | with_reducible apply State.advance_keeps
    | with_reducible apply State.energySample_keeps
    | with_reducible apply Keeps.out
    | (extract_lets +onlyGivenNames u; refine (?_ : Keeps z u → _) ?_; rotate_left; unfold u; rotate_left; intro hu; try clear_value u)
    | split

theorem State.endSession_keeps {z s : State} {x1 x2 x3} (h : Keeps z s) : Keeps z (State.endSession s x1 x2 x3) := by
  unfold State.endSession
  repeat' first
    | with_reducible assumption
    | with_reducible apply State.setR_keeps
    | exact Ridge.Kept.mk (Nat.le_refl _) id id (le_refl _) (le_refl _) (le_refl _) (Nat.le_refl _)

theorem State.sessionSecond_keeps {z s : State} {x1} (h : Keeps z s) : Keeps z (State.sessionSecond s x1) := by
  unfold State.sessionSecond
  dsimp only
  repeat' first
    | with_reducible assumption
    | with_reducible apply State.setR_keeps
    | exact Ridge.Kept.mk (Nat.le_refl _) id id (le_refl _) (le_refl _) (le_refl _) (Nat.le_refl _)
    | with_reducible apply State.endSession_keeps
    | with_reducible apply Keeps.ite
    | split

theorem State.energySecond_keeps {z s : State} (h : Keeps z s) : Keeps z (State.energySecond s) := by
  unfold State.energySecond
  dsimp only
  repeat' first
    | with_reducible assumption
    | (refine Ridge.Kept.mk (Nat.le_refl _) id id ?_ ?_ (le_refl _) (Nat.le_refl _) <;> dsimp only <;> with_reducible first | exact imp_grows _ _ _ | exact exp_grows _ _ _)
    | with_reducible apply State.setR_keeps
    | exact Ridge.Kept.mk (Nat.le_refl _) id id (le_refl _) (le_refl _) (le_refl _) (Nat.le_refl _)
    | with_reducible apply State.sessionSecond_keeps

theorem State.speedSecond_keeps {z s : State} (h : Keeps z s) : Keeps z (State.speedSecond s) := by
  unfold State.speedSecond
  repeat' first
    | with_reducible assumption
    | with_reducible apply State.setR_keeps
    | exact Ridge.Kept.mk (Nat.le_refl _) id id (le_refl _) (le_refl _) (le_refl _) (Nat.le_refl _)

theorem State.mirrorRecord_keeps {z s : State} (h : Keeps z s) : Keeps z (State.mirrorRecord s) := by
  unfold State.mirrorRecord
  repeat' first
    | with_reducible assumption
    | with_reducible apply State.rdgEvent_keeps
    | with_reducible apply State.setR_keeps
    | exact Ridge.Kept.mk (Nat.le_refl _) id id (le_refl _) (le_refl _) (le_refl _) (Nat.le_refl _)
    | with_reducible apply Keeps.ite

theorem State.secondEnds_keeps {z s : State} (h : Keeps z s) : Keeps z (State.secondEnds s) := by
  unfold State.secondEnds
  repeat' first
    | with_reducible assumption
    | with_reducible apply State.speedSecond_keeps
    | with_reducible apply State.energySecond_keeps
    | with_reducible apply State.mirrorRecord_keeps
    | with_reducible apply State.setR_keeps
    | exact Ridge.Kept.mk (Nat.le_refl _) id id (le_refl _) (le_refl _) (le_refl _) (Nat.le_refl _)
    | with_reducible apply Keeps.ite

theorem execRidgeSecond_keeps {z s : State} {x0} (h : Keeps z s) : KeepsOut z (execRidgeSecond x0 s) := by
  unfold execRidgeSecond
  repeat' first
    | with_reducible assumption
    | with_reducible apply State.advance_keeps
    | with_reducible apply State.secondEnds_keeps
    | with_reducible apply Keeps.out
    | (extract_lets +onlyGivenNames u; refine (?_ : Keeps z u → _) ?_; rotate_left; unfold u; rotate_left; intro hu; try clear_value u)
    | split

theorem State.compareMinute_keeps {z s : State} (h : Keeps z s) : Keeps z (State.compareMinute s) := by
  unfold State.compareMinute
  dsimp only
  repeat' first
    | with_reducible assumption
    | with_reducible apply State.setR_keeps
    | exact Ridge.Kept.mk (Nat.le_refl _) id id (le_refl _) (le_refl _) (le_refl _) (Nat.le_refl _)
    | with_reducible apply State.rdgEvent_keeps
    | (extract_lets +onlyGivenNames u; try clear_value u)
    | split

theorem State.takeParams_keeps {z s : State} (h : Keeps z s) : Keeps z (State.takeParams s) := by
  unfold State.takeParams
  repeat' first
    | with_reducible assumption
    | with_reducible apply State.setR_keeps
    | exact Ridge.Kept.mk (Nat.le_refl _) id id (le_refl _) (le_refl _) (le_refl _) (Nat.le_refl _)
    | with_reducible apply Keeps.ite

theorem State.minuteEnds_keeps {z s : State} (h : Keeps z s) : Keeps z (State.minuteEnds s) := by
  unfold State.minuteEnds
  repeat' first
    | with_reducible assumption
    | with_reducible apply State.motionEntry_keeps
    | with_reducible apply State.compareMinute_keeps
    | with_reducible apply State.setR_keeps
    | exact Ridge.Kept.mk (Nat.le_refl _) id id (le_refl _) (le_refl _) (le_refl _) (Nat.le_refl _)
    | with_reducible apply State.takeParams_keeps

theorem execRidgeMinute_keeps {z s : State} {x0} (h : Keeps z s) : KeepsOut z (execRidgeMinute x0 s) := by
  unfold execRidgeMinute
  repeat' first
    | with_reducible assumption
    | with_reducible apply State.advance_keeps
    | with_reducible apply State.minuteEnds_keeps
    | with_reducible apply Keeps.out
    | (extract_lets +onlyGivenNames u; refine (?_ : Keeps z u → _) ?_; rotate_left; unfold u; rotate_left; intro hu; try clear_value u)
    | split

theorem execRidgeQuarterHour_keeps {z s : State} {x0} (h : Keeps z s) : KeepsOut z (execRidgeQuarterHour x0 s) := by
  unfold execRidgeQuarterHour
  dsimp only
  repeat' first
    | with_reducible assumption
    | with_reducible apply State.advance_keeps
    | with_reducible apply State.energyEntry_keeps
    | with_reducible apply State.setR_keeps
    | exact Ridge.Kept.mk (Nat.le_refl _) id id (le_refl _) (le_refl _) (le_refl _) (Nat.le_refl _)
    | with_reducible apply Keeps.out
    | split

theorem execDayClose_keeps {z s : State} {x0} (h : Keeps z s) : KeepsOut z (execDayClose x0 s) := by
  unfold execDayClose
  repeat' first
    | with_reducible assumption
    | with_reducible apply State.rollDay_keeps
    | with_reducible apply State.advance_keeps
    | with_reducible apply Keeps.out

theorem State.sealDay_keeps {z s : State} {x1} (h : Keeps z s) : Keeps z (State.sealDay s x1) := by
  unfold State.sealDay
  repeat' first
    | with_reducible assumption
    | with_reducible apply State.storeSeal_keeps

theorem execSealSigned_keeps {z s : State} {x0} (h : Keeps z s) : KeepsOut z (execSealSigned x0 s) := by
  unfold execSealSigned
  repeat' first
    | with_reducible assumption
    | with_reducible apply State.advance_keeps
    | with_reducible apply State.sealDay_keeps
    | with_reducible apply Keeps.out
    | (extract_lets +onlyGivenNames u; refine (?_ : Keeps z u → _) ?_; rotate_left; unfold u; rotate_left; intro hu; try clear_value u)
    | split

theorem State.ridgeHandover_keeps {z s : State} (h : Keeps z s) : Keeps z (State.ridgeHandover s) := by
  unfold State.ridgeHandover
  repeat' first
    | with_reducible assumption
    | with_reducible apply State.endSession_keeps
    | with_reducible apply State.setR_keeps
    | exact Ridge.Kept.mk (Nat.le_refl _) id id (le_refl _) (le_refl _) (le_refl _) (Nat.le_refl _)
    | (extract_lets +onlyGivenNames u; try clear_value u)
    | split

theorem State.rtcStop_keeps {z s : State} (h : Keeps z s) : Keeps z (State.rtcStop s) := by
  unfold State.rtcStop
  repeat' first
    | with_reducible assumption
    | with_reducible apply State.setR_keeps
    | exact Ridge.Kept.mk (Nat.le_refl _) id id (le_refl _) (le_refl _) (le_refl _) (Nat.le_refl _)

theorem execRidgeVrdgLoss_keeps {z s : State} {x0 x1 x2} (h : Keeps z s) : KeepsOut z (execRidgeVrdgLoss x0 x1 x2 s) := by
  unfold execRidgeVrdgLoss
  repeat' first
    | with_reducible assumption
    | with_reducible apply State.advance_keeps
    | with_reducible apply State.rtcStop_keeps
    | with_reducible apply State.ridgeHandover_keeps
    | with_reducible apply Keeps.out
    | with_reducible apply Keeps.ite
    | (extract_lets +onlyGivenNames u; refine (?_ : Keeps z u → _) ?_; rotate_left; unfold u; rotate_left; intro hu; try clear_value u)
    | split

theorem State.intEvent_keeps {z s : State} {x1 x2 x3} (h : Keeps z s) : Keeps z (State.intEvent s x1 x2 x3) := by
  unfold State.intEvent
  repeat' first
    | with_reducible assumption
    | with_reducible apply State.rdgEvent_keeps

theorem State.closeShort_keeps {z s : State} (h : Keeps z s) : Keeps z (State.closeShort s) := by
  unfold State.closeShort
  dsimp only
  repeat' first
    | with_reducible assumption
    | with_reducible apply State.intEvent_keeps
    | with_reducible apply State.setR_keeps
    | exact Ridge.Kept.mk (Nat.le_refl _) id id (le_refl _) (le_refl _) (le_refl _) (Nat.le_refl _)
    | split

theorem State.openShort_keeps {z s : State} {x1} (h : Keeps z s) : Keeps z (State.openShort s x1) := by
  unfold State.openShort
  repeat' first
    | with_reducible assumption
    | with_reducible apply State.setR_keeps
    | exact Ridge.Kept.mk (Nat.le_refl _) id id (le_refl _) (le_refl _) (le_refl _) (Nat.le_refl _)

theorem State.endInterruption_keeps {z s : State} (h : Keeps z s) : Keeps z (State.endInterruption s) := by
  unfold State.endInterruption
  dsimp only
  repeat' first
    | with_reducible assumption
    | with_reducible apply State.setR_keeps
    | exact Ridge.Kept.mk (Nat.le_refl _) id id (le_refl _) (le_refl _) (le_refl _) (Nat.le_refl _)
    | with_reducible apply State.closeShort_keeps
    | with_reducible apply State.intEvent_keeps
    | with_reducible apply State.openShort_keeps
    | with_reducible apply Keeps.ite
    | (extract_lets +onlyGivenNames u; try clear_value u)
    | split

theorem State.ridgeReturns_keeps {z s : State} (h : Keeps z s) : Keeps z (State.ridgeReturns s) := by
  unfold State.ridgeReturns
  dsimp only
  repeat' first
    | with_reducible assumption
    | with_reducible apply State.endWoken_keeps
    | with_reducible apply State.qpStart_keeps
    | with_reducible apply State.setR_keeps
    | exact Ridge.Kept.mk (Nat.le_refl _) id id (le_refl _) (le_refl _) (le_refl _) (Nat.le_refl _)
    | with_reducible apply State.endInterruption_keeps
    | with_reducible apply Keeps.ite

theorem execRidgeStart_keeps {z s : State} {x0 x1} (h : Keeps z s) : KeepsOut z (execRidgeStart x0 x1 s) := by
  unfold execRidgeStart
  repeat' first
    | with_reducible assumption
    | with_reducible apply State.advance_keeps
    | with_reducible apply State.ridgeReturns_keeps
    | with_reducible apply State.qpStart_keeps
    | with_reducible apply Keeps.out
    | with_reducible apply Keeps.ite
    | (extract_lets +onlyGivenNames u; refine (?_ : Keeps z u → _) ?_; rotate_left; unfold u; rotate_left; intro hu; try clear_value u)
    | split

theorem execRidgeVrdgReturn_keeps {z s : State} {x0 x1 x2} (h : Keeps z s) : KeepsOut z (execRidgeVrdgReturn x0 x1 x2 s) := by
  unfold execRidgeVrdgReturn
  repeat' first
    | with_reducible assumption
    | with_reducible apply State.advance_keeps
    | with_reducible apply State.ridgeReturns_keeps
    | with_reducible apply Keeps.out
    | (extract_lets +onlyGivenNames u; refine (?_ : Keeps z u → _) ?_; rotate_left; unfold u; rotate_left; intro hu; try clear_value u)
    | split

theorem execShortInterruptionClose_keeps {z s : State} {x0} (h : Keeps z s) : KeepsOut z (execShortInterruptionClose x0 s) := by
  unfold execShortInterruptionClose
  repeat' first
    | with_reducible assumption
    | with_reducible apply State.advance_keeps
    | with_reducible apply State.closeShort_keeps
    | with_reducible apply Keeps.out
    | with_reducible apply Keeps.ite
    | (extract_lets +onlyGivenNames u; refine (?_ : Keeps z u → _) ?_; rotate_left; unfold u; rotate_left; intro hu; try clear_value u)
    | split

theorem State.sendWitness_keeps {z s : State} {x1 x2} (h : Keeps z s) : Keeps z (Sys2Proof.Machine.State.sendWitness s x1 x2).2 := by
  unfold State.sendWitness
  repeat' first
    | with_reducible assumption
    | simp -zeta only [Keeps.mk_iff, Keeps.mkCom_iff, Keeps.mkLog_iff]
    | (extract_lets +onlyGivenNames u; try clear_value u)

theorem State.gotWitness_keeps {z s : State} {x1 x2} (h : Keeps z s) : Keeps z (State.gotWitness s x1 x2).2 := by
  unfold State.gotWitness
  repeat' first
    | with_reducible assumption
    | with_reducible apply State.setR_keeps
    | exact Ridge.Kept.mk (Nat.le_refl _) id id (le_refl _) (le_refl _) (le_refl _) (Nat.le_refl _)

theorem State.rdgReject_keeps {z s : State} (h : Keeps z s) : Keeps z (State.rdgReject s) := by
  unfold State.rdgReject
  repeat' first
    | with_reducible assumption
    | with_reducible apply State.setR_keeps
    | exact Ridge.Kept.mk (Nat.le_refl _) id id (le_refl _) (le_refl _) (le_refl _) (Nat.le_refl _)

theorem witnessFrame_keeps {z s : State} {type payload intact} {handle : Bool → State → State} (h : Keeps z s)
    (hf : ∀ g u, Keeps z u → Keeps z (handle g u)) : Keeps z (witnessFrame type payload intact handle s) := by
  unfold witnessFrame
  have h1 := State.sendWitness_keeps (x1 := type) (x2 := payload) h
  generalize s.sendWitness type payload = p at h1
  obtain ⟨q, t⟩ := p
  dsimp only at h1 ⊢
  split
  · exact h1
  · split
    · exact State.rdgReject_keeps h1
    · have h2 := State.gotWitness_keeps (x1 := type) (x2 := q) h1
      generalize t.gotWitness type q = p at h2
      obtain ⟨g, u⟩ := p
      exact hf g u h2

theorem execWitnessHeartbeat_keeps {z s : State} {x0 x1} (h : Keeps z s) : KeepsOut z (Sys2Proof.Machine.execWitnessHeartbeat x0 x1 s) := by
  unfold execWitnessHeartbeat
  repeat' first
    | with_reducible assumption
    | with_reducible apply State.advance_keeps
    | (with_reducible refine witnessFrame_keeps ?_ fun g u hu => ?_ <;> beta_reduce)
    | with_reducible apply State.setR_keeps
    | exact Ridge.Kept.mk (Nat.le_refl _) id id (le_refl _) (le_refl _) (le_refl _) (Nat.le_refl _)
    | with_reducible apply Keeps.out
    | (extract_lets +onlyGivenNames u; refine (?_ : Keeps z u → _) ?_; rotate_left; unfold u; rotate_left; intro hu; try clear_value u)
    | split

theorem State.witnessBack_keeps {z s : State} (h : Keeps z s) : Keeps z (Sys2Proof.Machine.State.witnessBack s) := by
  unfold State.witnessBack
  repeat' first
    | with_reducible assumption
    | with_reducible apply State.rdgEvent_keeps
    | with_reducible apply State.setR_keeps
    | exact Ridge.Kept.mk (Nat.le_refl _) id id (le_refl _) (le_refl _) (le_refl _) (Nat.le_refl _)
    | with_reducible apply Keeps.ite

theorem State.angleArrived_keeps {z s : State} {x1 x2} (h : Keeps z s) : Keeps z (Sys2Proof.Machine.State.angleArrived s x1 x2) := by
  unfold State.angleArrived
  repeat' first
    | with_reducible assumption
    | with_reducible apply State.witnessBack_keeps
    | with_reducible apply State.setR_keeps
    | exact Ridge.Kept.mk (Nat.le_refl _) id id (le_refl _) (le_refl _) (le_refl _) (Nat.le_refl _)
    | with_reducible apply State.rdgEvent_keeps
    | with_reducible apply Keeps.ite

theorem State.takeTurns_keeps {z s : State} (h : Keeps z s) : Keeps z (State.takeTurns s).2 := by
  unfold State.takeTurns
  repeat' first
    | with_reducible assumption
    | simp -zeta only [Keeps.mk_iff, Keeps.mkCom_iff, Keeps.mkLog_iff]
    | (extract_lets +onlyGivenNames u; try clear_value u)

theorem execWitnessAngle_keeps {z s : State} {x0 x1 x2} (h : Keeps z s) : KeepsOut z (Sys2Proof.Machine.execWitnessAngle x0 x1 x2 s) := by
  unfold execWitnessAngle
  repeat' first
    | with_reducible assumption
    | with_reducible apply State.advance_keeps
    | with_reducible apply State.takeTurns_keeps
    | with_reducible apply State.sendWitness_keeps
    | (with_reducible refine witnessFrame_keeps ?_ fun g u hu => ?_ <;> beta_reduce)
    | with_reducible apply State.angleArrived_keeps
    | simp -zeta only [Keeps.mk_iff, Keeps.mkCom_iff, Keeps.mkLog_iff]
    | with_reducible apply Keeps.out
    | with_reducible apply Keeps.ite
    | (extract_lets +onlyGivenNames u; refine (?_ : Keeps z u → _) ?_; rotate_left; unfold u; rotate_left; intro hu; try clear_value u)
    | split

theorem execWitnessMirrorWrite_keeps {z s : State} {x0 x1} (h : Keeps z s) : KeepsOut z (Sys2Proof.Machine.execWitnessMirrorWrite x0 x1 s) := by
  unfold execWitnessMirrorWrite
  repeat' first
    | with_reducible assumption
    | with_reducible apply State.advance_keeps
    | (with_reducible refine witnessFrame_keeps ?_ fun g u hu => ?_ <;> beta_reduce)
    | with_reducible apply State.mirrorRecord_keeps
    | with_reducible apply State.setR_keeps
    | exact Ridge.Kept.mk (Nat.le_refl _) id id (le_refl _) (le_refl _) (le_refl _) (Nat.le_refl _)
    | simp -zeta only [Keeps.mk_iff, Keeps.mkCom_iff, Keeps.mkLog_iff]
    | with_reducible apply Keeps.out
    | (extract_lets +onlyGivenNames u; refine (?_ : Keeps z u → _) ?_; rotate_left; unfold u; rotate_left; intro hu; try clear_value u)
    | (extract_lets +onlyGivenNames u; try clear_value u)
    | split

theorem State.sleepFrame_keeps {z s : State} {x1} (h : Keeps z s) : Keeps z (Sys2Proof.Machine.State.sleepFrame s x1) := by
  unfold State.sleepFrame
  repeat' first
    | with_reducible assumption
    | (with_reducible refine witnessFrame_keeps ?_ fun g u hu => ?_ <;> beta_reduce)
    | with_reducible apply State.witnessBack_keeps
    | with_reducible apply State.setR_keeps
    | exact Ridge.Kept.mk (Nat.le_refl _) id id (le_refl _) (le_refl _) (le_refl _) (Nat.le_refl _)

theorem execWitnessSleep_keeps {z s : State} {x0 x1} (h : Keeps z s) : KeepsOut z (execWitnessSleep x0 x1 s) := by
  unfold execWitnessSleep
  repeat' first
    | with_reducible assumption
    | with_reducible apply State.advance_keeps
    | with_reducible apply State.sleepFrame_keeps
    | with_reducible apply Keeps.out
    | with_reducible apply Keeps.ite

theorem execRdgWitnessLost_keeps {z s : State} {x0} (h : Keeps z s) : KeepsOut z (execRdgWitnessLost x0 s) := by
  unfold execRdgWitnessLost
  dsimp only
  repeat' first
    | with_reducible assumption
    | with_reducible apply State.advance_keeps
    | with_reducible apply State.rdgEvent_keeps
    | with_reducible apply State.setR_keeps
    | exact Ridge.Kept.mk (Nat.le_refl _) id id (le_refl _) (le_refl _) (le_refl _) (Nat.le_refl _)
    | with_reducible apply Keeps.out
    | split

theorem execRidgeLockoutEnd_keeps {z s : State} {x0} (h : Keeps z s) : KeepsOut z (execRidgeLockoutEnd x0 s) := by
  unfold execRidgeLockoutEnd
  dsimp only
  repeat' first
    | with_reducible assumption
    | with_reducible apply State.advance_keeps
    | with_reducible apply State.setR_keeps
    | exact Ridge.Kept.mk (Nat.le_refl _) id id (le_refl _) (le_refl _) (le_refl _) (Nat.le_refl _)
    | with_reducible apply Keeps.out
    | with_reducible apply Keeps.ite
    | split

end Sys2Proof.Machine
end

