-- ==== Sys2Proof/Laws/KeepsRidgeLink.lean ====
section
/-! SUPPORT. The operations and meanings of Machine/RidgeLink.lean keep what every step keeps. -/

set_option linter.unreachableTactic false
set_option linter.unusedTactic false
set_option linter.unusedSimpArgs false
set_option linter.tactic.unusedName false
set_option linter.unusedVariables false

namespace Sys2Proof.Machine
open Sys2Proof

theorem State.rdgAuthFailed_keeps {z s : State} {x1 x2} (h : Keeps z s) : Keeps z (State.rdgAuthFailed s x1 x2) := by
  unfold State.rdgAuthFailed
  repeat' first
    | with_reducible assumption
    | with_reducible apply State.rdgEvent_keeps
    | with_reducible apply State.setR_keeps
    | exact Ridge.Kept.mk (Nat.le_refl _) id id (le_refl _) (le_refl _) (le_refl _) (Nat.le_refl _)
    | with_reducible apply Keeps.ite

theorem State.rdgParamWrite_keeps {z s : State} {x1 x2} (h : Keeps z s) : Keeps z (State.rdgParamWrite s x1 x2).2 := by
  unfold State.rdgParamWrite
  dsimp only
  repeat' first
    | with_reducible assumption
    | with_reducible apply State.setR_keeps
    | exact Ridge.Kept.mk (Nat.le_refl _) id id (le_refl _) (le_refl _) (le_refl _) (Nat.le_refl _)
    | with_reducible apply State.bumpLec_keeps
    | with_reducible apply State.rdgEvent_keeps
    | with_reducible apply Keeps.ite
    | split

theorem State.rdgSeal_keeps {z s : State} {x1 x2} (h : Keeps z s) : Keeps z (State.rdgSeal s x1 x2).2 := by
  unfold State.rdgSeal
  dsimp only
  repeat' first
    | with_reducible assumption
    | exact Ridge.Kept.mk (Nat.le_refl _) (fun x => absurd (Or.inl x) (by assumption)) id (le_refl _) (le_refl _) (le_refl _) (Nat.le_refl _)
    | with_reducible apply State.bumpLec_keeps
    | with_reducible apply State.setR_keeps
    | with_reducible apply State.rdgEvent_keeps
    | split

theorem State.rdgTimeAdjust_keeps {z s : State} {x1 x2} (h : Keeps z s) : Keeps z (State.rdgTimeAdjust s x1 x2).2 := by
  unfold State.rdgTimeAdjust
  dsimp only
  repeat' first
    | with_reducible assumption
    | with_reducible apply State.rdgEvent_keeps
    | with_reducible apply State.closeDay_keeps
    | with_reducible apply State.setR_keeps
    | exact Ridge.Kept.mk (Nat.le_refl _) id id (le_refl _) (le_refl _) (le_refl _) (Nat.le_refl _)
    | with_reducible apply State.bumpLec_keeps
    | with_reducible apply Keeps.ite
    | split

theorem State.authority_keeps {z s : State} {x1 x2} (h : Keeps z s) : Keeps z (State.authority s x1 x2).2 := by
  unfold State.authority
  dsimp only
  repeat' first
    | with_reducible assumption
    | with_reducible apply State.rdgAuthFailed_keeps
    | with_reducible apply State.rdgParamWrite_keeps
    | with_reducible apply State.rdgSeal_keeps
    | with_reducible apply State.rdgTimeAdjust_keeps
    | split

theorem forwardQuery_keeps {z s : State} {x0 x1 x2} (h : Keeps z s) : KeepsOut z (forwardQuery x0 x1 x2 s) := by
  unfold forwardQuery
  repeat' first
    | with_reducible assumption
    | (with_reducible refine serveOp_keeps (by with_reducible assumption) fun z t u hu => ?_; beta_reduce)
    | with_reducible apply refuse_keeps
    | simp -zeta only [Keeps.mk_iff, Keeps.mkCom_iff, Keeps.mkLog_iff]
    | with_reducible apply Keeps.later
    | (extract_lets +onlyGivenNames u; try clear_value u)
    | split

theorem execRidgeStatus_keeps {z s : State} {x0} (h : Keeps z s) : KeepsOut z (execRidgeStatus x0 s) := by
  unfold execRidgeStatus
  repeat' first
    | with_reducible assumption
    | with_reducible apply forwardQuery_keeps

theorem execRidgeReadRecords_keeps {z s : State} {x0} (h : Keeps z s) : KeepsOut z (execRidgeReadRecords x0 s) := by
  unfold execRidgeReadRecords
  repeat' first
    | with_reducible assumption
    | with_reducible apply forwardQuery_keeps

theorem execRidgeReadSeal_keeps {z s : State} {x0} (h : Keeps z s) : KeepsOut z (execRidgeReadSeal x0 s) := by
  unfold execRidgeReadSeal
  repeat' first
    | with_reducible assumption
    | with_reducible apply forwardQuery_keeps

theorem execRidgeReadEvents_keeps {z s : State} {x0} (h : Keeps z s) : KeepsOut z (execRidgeReadEvents x0 s) := by
  unfold execRidgeReadEvents
  repeat' first
    | with_reducible assumption
    | with_reducible apply forwardQuery_keeps

theorem State.keepSeal_keeps {z s : State} {x1 x2} (h : Keeps z s) : Keeps z (State.keepSeal s x1 x2) := by
  unfold State.keepSeal
  repeat' first
    | with_reducible assumption
    | with_reducible apply State.setR_keeps
    | exact Ridge.Kept.mk (Nat.le_refl _) id id (le_refl _) (le_refl _) (le_refl _) (Nat.le_refl _)

theorem State.ridgeAnswers_keeps {z s : State} {x1 x2} (h : Keeps z s) : Keeps z (State.ridgeAnswers s x1 x2) := by
  unfold State.ridgeAnswers
  repeat' first
    | with_reducible assumption
    | with_reducible apply State.answer_keeps
    | with_reducible apply State.keepSeal_keeps
    | simp -zeta only [Keeps.mk_iff, Keeps.mkCom_iff, Keeps.mkLog_iff]

theorem execRidgeReply_keeps {z s : State} {x0} (h : Keeps z s) : KeepsOut z (execRidgeReply x0 s) := by
  unfold execRidgeReply
  repeat' first
    | with_reducible assumption
    | with_reducible apply State.advance_keeps
    | with_reducible apply State.ridgeAnswers_keeps
    | with_reducible apply Keeps.out
    | (extract_lets +onlyGivenNames u; refine (?_ : Keeps z u → _) ?_; rotate_left; unfold u; rotate_left; intro hu; try clear_value u)
    | split

theorem execRidgeQueryTimeout_keeps {z s : State} {x0} (h : Keeps z s) : KeepsOut z (execRidgeQueryTimeout x0 s) := by
  unfold execRidgeQueryTimeout
  repeat' first
    | with_reducible assumption
    | with_reducible apply State.advance_keeps
    | with_reducible apply State.answer_keeps
    | simp -zeta only [Keeps.mk_iff, Keeps.mkCom_iff, Keeps.mkLog_iff]
    | with_reducible apply Keeps.out
    | (extract_lets +onlyGivenNames u; refine (?_ : Keeps z u → _) ?_; rotate_left; unfold u; rotate_left; intro hu; try clear_value u)
    | (extract_lets +onlyGivenNames u; try clear_value u)
    | split

theorem State.rlinkReply_keeps {z s : State} {x1 x2 x3 x4} (h : Keeps z s) : Keeps z (State.rlinkReply s x1 x2 x3 x4) := by
  unfold State.rlinkReply
  repeat' first
    | with_reducible assumption
    | simp -zeta only [Keeps.mk_iff, Keeps.mkCom_iff, Keeps.mkLog_iff]
    | (extract_lets +onlyGivenNames u; (have hc : Com := u); clear hc; subst u)

theorem State.rlinkPacket_keeps {z s : State} {x1 x2} (h : Keeps z s) : Keeps z (State.rlinkPacket s x1 x2) := by
  unfold State.rlinkPacket
  repeat' first
    | with_reducible assumption
    | with_reducible apply State.rlinkReply_keeps
    | with_reducible apply State.rdgReject_keeps
    | with_reducible apply State.setR_keeps
    | exact Ridge.Kept.mk (Nat.le_refl _) id id (le_refl _) (le_refl _) (le_refl _) (Nat.le_refl _)
    | with_reducible apply State.authority_keeps
    | simp -zeta only [Keeps.mk_iff, Keeps.mkCom_iff, Keeps.mkLog_iff]
    | with_reducible apply Keeps.ite

theorem execRlinkFrame_keeps {z s : State} {x0 x1} (h : Keeps z s) : KeepsOut z (execRlinkFrame x0 x1 s) := by
  unfold execRlinkFrame
  repeat' first
    | with_reducible assumption
    | with_reducible apply State.advance_keeps
    | with_reducible apply State.rdgReject_keeps
    | with_reducible apply State.rlinkPacket_keeps
    | with_reducible apply Keeps.out
    | (extract_lets +onlyGivenNames u; refine (?_ : Keeps z u → _) ?_; rotate_left; unfold u; rotate_left; intro hu; try clear_value u)
    | (extract_lets +onlyGivenNames u; try clear_value u)
    | split

theorem authorityCommand_keeps {z s : State} {x0 x1 x2} (h : Keeps z s) : Keeps z (authorityCommand x0 x1 x2 s) := by
  unfold authorityCommand
  repeat' first
    | with_reducible assumption
    | with_reducible apply State.rlinkPacket_keeps
    | with_reducible apply State.advance_keeps
    | with_reducible apply serveNone_keeps
    | with_reducible apply Keeps.ite

theorem execRidgeParamWrite_keeps {z s : State} {x0 x1} (h : Keeps z s) : KeepsOut z (execRidgeParamWrite x0 x1 s) := by
  unfold execRidgeParamWrite
  repeat' first
    | with_reducible assumption
    | with_reducible apply authorityCommand_keeps
    | with_reducible apply Keeps.out

theorem execRidgeSeal_keeps {z s : State} {x0 x1} (h : Keeps z s) : KeepsOut z (execRidgeSeal x0 x1 s) := by
  unfold execRidgeSeal
  repeat' first
    | with_reducible assumption
    | with_reducible apply authorityCommand_keeps
    | with_reducible apply Keeps.out

theorem execRidgeTimeAdjust_keeps {z s : State} {x0 x1} (h : Keeps z s) : KeepsOut z (execRidgeTimeAdjust x0 x1 s) := by
  unfold execRidgeTimeAdjust
  repeat' first
    | with_reducible assumption
    | with_reducible apply authorityCommand_keeps
    | with_reducible apply Keeps.out

theorem State.setF64_keeps {z s : State} {x1 x2 x3} (h : Keeps z s) : Keeps z (State.setF64 s x1 x2 x3) := by
  unfold State.setF64
  repeat' first
    | with_reducible assumption
    | with_reducible apply State.setF_keeps

theorem State.fillMirror_keeps {z s : State} (h : Keeps z s) : Keeps z (State.fillMirror s) := by
  unfold State.fillMirror
  repeat' first
    | with_reducible assumption
    | with_reducible apply State.setF_keeps
    | with_reducible apply State.setB_keeps
    | with_reducible apply State.setF64_keeps

theorem execMirrorUpdate_keeps {z s : State} {x0} (h : Keeps z s) : KeepsOut z (execMirrorUpdate x0 s) := by
  unfold execMirrorUpdate
  repeat' first
    | with_reducible assumption
    | with_reducible apply State.advance_keeps
    | with_reducible apply State.setB_keeps
    | with_reducible apply State.fillMirror_keeps
    | simp -zeta only [Keeps.mk_iff, Keeps.mkCom_iff, Keeps.mkLog_iff]
    | with_reducible apply Keeps.out
    | (extract_lets +onlyGivenNames u; refine (?_ : Keeps z u → _) ?_; rotate_left; unfold u; rotate_left; intro hu; try clear_value u)
    | (extract_lets +onlyGivenNames u; try clear_value u)
    | split

theorem execRidgeStale_keeps {z s : State} {x0} (h : Keeps z s) : KeepsOut z (execRidgeStale x0 s) := by
  unfold execRidgeStale
  repeat' first
    | with_reducible assumption
    | with_reducible apply State.advance_keeps
    | with_reducible apply State.setB_keeps
    | with_reducible apply Keeps.out
    | with_reducible apply Keeps.ite

end Sys2Proof.Machine
end

