-- ==== Sys2Proof/Laws/KeepsPower.lean ====
section
/-! SUPPORT. The operations and meanings of Machine/Power.lean keep what every step keeps. -/

set_option linter.unreachableTactic false
set_option linter.unusedTactic false
set_option linter.unusedSimpArgs false
set_option linter.tactic.unusedName false
set_option linter.unusedVariables false

namespace Sys2Proof.Machine
open Sys2Proof

theorem State.wake_keeps {z s : State} {x1} (h : Keeps z s) : Keeps z (State.wake s x1) := by
  unfold State.wake
  repeat' first
    | with_reducible assumption
    | with_reducible apply State.eventBit_keeps
    | simp -zeta only [Keeps.mk_iff, Keeps.mkCom_iff, Keeps.mkLog_iff]
    | with_reducible apply Keeps.ite
    | (extract_lets +onlyGivenNames u; refine (?_ : Keeps z u → _) ?_; rotate_left; unfold u; rotate_left; intro hu; try clear_value u)
    | (extract_lets +onlyGivenNames u; try clear_value u)
    | split

theorem State.enterSleep_keeps {z s : State} {x1 x2} (h : Keeps z s) : Keeps z (State.enterSleep s x1 x2) := by
  unfold State.enterSleep
  repeat' first
    | with_reducible assumption
    | with_reducible apply State.closeSessions_keeps
    | with_reducible apply State.toPower_keeps
    | with_reducible apply State.mainReset_keeps
    | simp -zeta only [Keeps.mk_iff, Keeps.mkCom_iff, Keeps.mkLog_iff]
    | with_reducible apply Keeps.ite
    | (extract_lets +onlyGivenNames u; (have hc : Com := u); clear hc; subst u)

theorem State.eaveLoad_keeps {z s : State} (h : Keeps z s) : Keeps z (State.eaveLoad s) := by
  unfold State.eaveLoad
  repeat' first
    | with_reducible assumption
    | with_reducible apply State.setB_keeps
    | with_reducible apply State.raise_keeps
    | simp -zeta only [Keeps.mk_iff, Keeps.mkCom_iff, Keeps.mkLog_iff]
    | with_reducible apply Keeps.ite

theorem State.eaveStop_keeps {z s : State} (h : Keeps z s) : Keeps z (State.eaveStop s) := by
  unfold State.eaveStop
  repeat' first
    | with_reducible assumption
    | simp -zeta only [Keeps.mk_iff, Keeps.mkCom_iff, Keeps.mkLog_iff]

theorem execPwrStateSet_keeps {z s : State} {x0} (h : Keeps z s) : KeepsOut z (Sys2Proof.Machine.execPwrStateSet x0 s) := by
  unfold execPwrStateSet
  repeat' first
    | with_reducible assumption
    | (with_reducible refine serveOp_keeps (by with_reducible assumption) fun z t u hu => ?_; beta_reduce)
    | with_reducible apply okWith_keeps
    | with_reducible apply State.toPower_keeps
    | with_reducible apply State.abortArming_keeps
    | with_reducible apply refuse_keeps
    | with_reducible apply State.eventBit_keeps
    | simp -zeta only [Keeps.mk_iff, Keeps.mkCom_iff, Keeps.mkLog_iff]
    | with_reducible apply Keeps.ite
    | (with_reducible refine Keeps.foldl (fun x a hx => ?_) ?_ _ <;> beta_reduce)
    | (extract_lets +onlyGivenNames u; try clear_value u)
    | split

theorem execSleepEntry_keeps {z s : State} {x0} (h : Keeps z s) : KeepsOut z (execSleepEntry x0 s) := by
  unfold execSleepEntry
  repeat' first
    | with_reducible assumption
    | with_reducible apply State.advance_keeps
    | with_reducible apply State.enterSleep_keeps
    | with_reducible apply Keeps.out
    | (extract_lets +onlyGivenNames u; refine (?_ : Keeps z u → _) ?_; rotate_left; unfold u; rotate_left; intro hu; try clear_value u)
    | (extract_lets +onlyGivenNames u; try clear_value u)
    | split

theorem execSleepReplyExpired_keeps {z s : State} {x0} (h : Keeps z s) : KeepsOut z (execSleepReplyExpired x0 s) := by
  unfold execSleepReplyExpired
  repeat' first
    | with_reducible assumption
    | with_reducible apply State.advance_keeps
    | with_reducible apply State.enterSleep_keeps
    | simp -zeta only [Keeps.mk_iff, Keeps.mkCom_iff, Keeps.mkLog_iff]
    | with_reducible apply Keeps.out
    | (extract_lets +onlyGivenNames u; refine (?_ : Keeps z u → _) ?_; rotate_left; unfold u; rotate_left; intro hu; try clear_value u)
    | (extract_lets +onlyGivenNames u; (have hc : Com := u); clear hc; subst u)
    | split

theorem execSleepTimeout_keeps {z s : State} {x0} (h : Keeps z s) : KeepsOut z (execSleepTimeout x0 s) := by
  unfold execSleepTimeout
  repeat' first
    | with_reducible assumption
    | with_reducible apply State.advance_keeps
    | with_reducible apply State.enterSleep_keeps
    | with_reducible apply Keeps.out
    | (extract_lets +onlyGivenNames u; refine (?_ : Keeps z u → _) ?_; rotate_left; unfold u; rotate_left; intro hu; try clear_value u)
    | (extract_lets +onlyGivenNames u; try clear_value u)
    | split

theorem execWakeSources_keeps {z s : State} {x0} (h : Keeps z s) : KeepsOut z (execWakeSources x0 s) := by
  unfold execWakeSources
  repeat' first
    | with_reducible assumption
    | (with_reducible refine serveOp_keeps (by with_reducible assumption) fun z t u hu => ?_; beta_reduce)
    | with_reducible apply refuse_keeps
    | with_reducible apply State.setF_keeps
    | with_reducible apply okWith_keeps
    | (extract_lets +onlyGivenNames u; refine (?_ : Keeps z u → _) ?_; rotate_left; unfold u; rotate_left; intro hu; try clear_value u)
    | (extract_lets +onlyGivenNames u; try clear_value u)
    | split

theorem execWakeNQualified_keeps {z s : State} {x0 x1 x2} (h : Keeps z s) : KeepsOut z (execWakeNQualified x0 x1 x2 s) := by
  unfold execWakeNQualified
  repeat' first
    | with_reducible assumption
    | with_reducible apply State.advance_keeps
    | with_reducible apply State.wake_keeps
    | simp -zeta only [Keeps.mk_iff, Keeps.mkCom_iff, Keeps.mkLog_iff]
    | with_reducible apply Keeps.out
    | (extract_lets +onlyGivenNames u; refine (?_ : Keeps z u → _) ?_; rotate_left; unfold u; rotate_left; intro hu; try clear_value u)
    | (extract_lets +onlyGivenNames u; try clear_value u)
    | split

theorem execTc10Wake_keeps {z s : State} {x0} (h : Keeps z s) : KeepsOut z (execTc10Wake x0 s) := by
  unfold execTc10Wake
  repeat' first
    | with_reducible assumption
    | with_reducible apply State.wake_keeps
    | with_reducible apply State.advance_keeps
    | with_reducible apply Keeps.out

theorem execCpWake_keeps {z s : State} {x0 x1 x2 x3} (h : Keeps z s) : KeepsOut z (execCpWake x0 x1 x2 x3 s) := by
  unfold execCpWake
  repeat' first
    | with_reducible assumption
    | with_reducible apply State.advance_keeps
    | with_reducible apply State.wake_keeps
    | simp -zeta only [Keeps.mk_iff, Keeps.mkCom_iff, Keeps.mkLog_iff]
    | with_reducible apply Keeps.out
    | (extract_lets +onlyGivenNames u; refine (?_ : Keeps z u → _) ?_; rotate_left; unfold u; rotate_left; intro hu; try clear_value u)
    | (extract_lets +onlyGivenNames u; try clear_value u)
    | split

theorem execWheelPulseWake_keeps {z s : State} {x0} (h : Keeps z s) : KeepsOut z (execWheelPulseWake x0 s) := by
  unfold execWheelPulseWake
  dsimp only
  repeat' first
    | with_reducible assumption
    | with_reducible apply State.advance_keeps
    | with_reducible apply State.wake_keeps
    | with_reducible apply State.setR_keeps
    | exact Ridge.Kept.mk (Nat.le_refl _) id id (le_refl _) (le_refl _) (le_refl _) (Nat.le_refl _)
    | with_reducible apply Keeps.out
    | split

theorem execRtcAlarm_keeps {z s : State} {x0} (h : Keeps z s) : KeepsOut z (execRtcAlarm x0 s) := by
  unfold execRtcAlarm
  repeat' first
    | with_reducible assumption
    | with_reducible apply State.advance_keeps
    | with_reducible apply State.wake_keeps
    | with_reducible apply State.setF_keeps
    | with_reducible apply Keeps.out
    | (extract_lets +onlyGivenNames u; refine (?_ : Keeps z u → _) ?_; rotate_left; unfold u; rotate_left; intro hu; try clear_value u)
    | (extract_lets +onlyGivenNames u; try clear_value u)
    | split

theorem execEaveRealign_keeps {z s : State} {x0} (h : Keeps z s) : KeepsOut z (execEaveRealign x0 s) := by
  unfold execEaveRealign
  repeat' first
    | with_reducible assumption
    | with_reducible apply State.advance_keeps
    | with_reducible apply State.setB_keeps
    | simp -zeta only [Keeps.mk_iff, Keeps.mkCom_iff, Keeps.mkLog_iff]
    | with_reducible apply Keeps.out
    | (extract_lets +onlyGivenNames u; refine (?_ : Keeps z u → _) ?_; rotate_left; unfold u; rotate_left; intro hu; try clear_value u)
    | (extract_lets +onlyGivenNames u; try clear_value u)
    | split

theorem State.countCharge_keeps {z s : State} (h : Keeps z s) : Keeps z (State.countCharge s) := by
  unfold State.countCharge
  repeat' first
    | with_reducible assumption
    | simp -zeta only [Keeps.mk_iff, Keeps.mkCom_iff, Keeps.mkLog_iff]
    | (extract_lets +onlyGivenNames u; try clear_value u)

theorem State.showCurrent_keeps {z s : State} (h : Keeps z s) : Keeps z (State.showCurrent s) := by
  unfold State.showCurrent
  repeat' first
    | with_reducible assumption
    | with_reducible apply State.setF_keeps
    | simp -zeta only [Keeps.mk_iff, Keeps.mkCom_iff, Keeps.mkLog_iff]
    | with_reducible apply Keeps.ite

theorem State.toPhase_keeps {z s : State} {x1} (h : Keeps z s) : Keeps z (State.toPhase s x1) := by
  unfold State.toPhase
  repeat' first
    | with_reducible assumption
    | with_reducible apply State.setF_keeps
    | with_reducible apply State.showCurrent_keeps
    | simp -zeta only [Keeps.mk_iff, Keeps.mkCom_iff, Keeps.mkLog_iff]

theorem State.startCharge_keeps {z s : State} {x1} (h : Keeps z s) : Keeps z (State.startCharge s x1) := by
  unfold State.startCharge
  repeat' first
    | with_reducible assumption
    | with_reducible apply State.toPhase_keeps
    | simp -zeta only [Keeps.mk_iff, Keeps.mkCom_iff, Keeps.mkLog_iff]
    | (extract_lets +onlyGivenNames u; refine (?_ : Keeps z u → _) ?_; rotate_left; unfold u; rotate_left; intro hu; try clear_value u)

theorem State.chargeFault_keeps {z s : State} {x1 x2 x3} (h : Keeps z s) : Keeps z (State.chargeFault s x1 x2 x3) := by
  unfold State.chargeFault
  repeat' first
    | with_reducible assumption
    | with_reducible apply State.toPhase_keeps
    | with_reducible apply State.setF_keeps
    | with_reducible apply State.raise_keeps
    | simp -zeta only [Keeps.mk_iff, Keeps.mkCom_iff, Keeps.mkLog_iff]
    | with_reducible apply Keeps.ite

theorem State.chargerFollows_keeps {z s : State} (h : Keeps z s) : Keeps z (Sys2Proof.Machine.State.chargerFollows s) := by
  unfold State.chargerFollows
  repeat' first
    | with_reducible assumption
    | with_reducible apply State.showCurrent_keeps
    | with_reducible apply State.toPhase_keeps
    | with_reducible apply Keeps.ite

theorem State.bkpSet_keeps {z s : State} {x1 x2 x3} (h : Keeps z s) : Keeps z (State.bkpSet s x1 x2 x3) := by
  unfold State.bkpSet
  repeat' first
    | with_reducible assumption
    | with_reducible apply State.setF_keeps
    | with_reducible apply State.countCharge_keeps
    | with_reducible apply State.toPhase_keeps
    | with_reducible apply State.showCurrent_keeps
    | simp -zeta only [Keeps.mk_iff, Keeps.mkCom_iff, Keeps.mkLog_iff]
    | with_reducible apply Keeps.ite

theorem execBkpChargerSet_keeps {z s : State} {x0} (h : Keeps z s) : KeepsOut z (execBkpChargerSet x0 s) := by
  unfold execBkpChargerSet
  repeat' first
    | with_reducible assumption
    | (with_reducible refine serveOp_keeps (by with_reducible assumption) fun z t u hu => ?_; beta_reduce)
    | with_reducible apply refuse_keeps
    | with_reducible apply okWith_keeps
    | with_reducible apply State.bkpSet_keeps
    | (extract_lets +onlyGivenNames u; try clear_value u)
    | split

theorem execBkpStatus_keeps {z s : State} {x0} (h : Keeps z s) : KeepsOut z (execBkpStatus x0 s) := by
  unfold execBkpStatus
  repeat' first
    | with_reducible assumption
    | (with_reducible refine serveOp_keeps (by with_reducible assumption) fun z t u hu => ?_; beta_reduce)
    | with_reducible apply okWith_keeps

theorem State.noteSample_keeps {z s : State} {x1 x2} (h : Keeps z s) : Keeps z (State.noteSample s x1 x2) := by
  unfold State.noteSample
  repeat' first
    | with_reducible assumption
    | with_reducible apply State.setF_keeps
    | with_reducible apply State.countCharge_keeps
    | with_reducible apply State.setB_keeps
    | simp -zeta only [Keeps.mk_iff, Keeps.mkCom_iff, Keeps.mkLog_iff]
    | with_reducible apply Keeps.ite
    | (extract_lets +onlyGivenNames u; refine (?_ : Keeps z u → _) ?_; rotate_left; unfold u; rotate_left; intro hu; try clear_value u)
    | (extract_lets +onlyGivenNames u; try clear_value u)

theorem State.bkpSampled_keeps {z s : State} {x1 x2} (h : Keeps z s) : Keeps z (State.bkpSampled s x1 x2) := by
  unfold State.bkpSampled
  repeat' first
    | with_reducible assumption
    | with_reducible apply State.noteSample_keeps
    | with_reducible apply State.toPhase_keeps
    | with_reducible apply State.setF_keeps
    | with_reducible apply Keeps.ite

theorem execBkpSample_keeps {z s : State} {x0 x1 x2} (h : Keeps z s) : KeepsOut z (execBkpSample x0 x1 x2 s) := by
  unfold execBkpSample
  dsimp only
  repeat' first
    | with_reducible assumption
    | with_reducible apply State.advance_keeps
    | with_reducible apply State.showCurrent_keeps
    | with_reducible apply State.bkpSampled_keeps
    | with_reducible apply Keeps.out
    | split

theorem execBkpDead_keeps {z s : State} {x0} (h : Keeps z s) : KeepsOut z (execBkpDead x0 s) := by
  unfold execBkpDead
  repeat' first
    | with_reducible assumption
    | with_reducible apply State.countCharge_keeps
    | with_reducible apply State.advance_keeps
    | with_reducible apply State.chargeFault_keeps
    | with_reducible apply Keeps.out
    | (extract_lets +onlyGivenNames u; refine (?_ : Keeps z u → _) ?_; rotate_left; unfold u; rotate_left; intro hu; try clear_value u)
    | split

theorem execBkpTimer_keeps {z s : State} {x0} (h : Keeps z s) : KeepsOut z (execBkpTimer x0 s) := by
  unfold execBkpTimer
  repeat' first
    | with_reducible assumption
    | with_reducible apply State.countCharge_keeps
    | with_reducible apply State.advance_keeps
    | with_reducible apply State.chargeFault_keeps
    | with_reducible apply Keeps.out
    | (extract_lets +onlyGivenNames u; refine (?_ : Keeps z u → _) ?_; rotate_left; unfold u; rotate_left; intro hu; try clear_value u)
    | split

theorem execTopoffEnd_keeps {z s : State} {x0} (h : Keeps z s) : KeepsOut z (execTopoffEnd x0 s) := by
  unfold execTopoffEnd
  repeat' first
    | with_reducible assumption
    | with_reducible apply State.countCharge_keeps
    | with_reducible apply State.advance_keeps
    | with_reducible apply State.toPhase_keeps
    | with_reducible apply Keeps.out
    | (extract_lets +onlyGivenNames u; refine (?_ : Keeps z u → _) ?_; rotate_left; unfold u; rotate_left; intro hu; try clear_value u)
    | split

theorem execBkpRest_keeps {z s : State} {x0 x1} (h : Keeps z s) : KeepsOut z (execBkpRest x0 x1 s) := by
  unfold execBkpRest
  repeat' first
    | with_reducible assumption
    | with_reducible apply State.countCharge_keeps
    | with_reducible apply State.advance_keeps
    | with_reducible apply State.startCharge_keeps
    | with_reducible apply Keeps.out
    | (extract_lets +onlyGivenNames u; refine (?_ : Keeps z u → _) ?_; rotate_left; unfold u; rotate_left; intro hu; try clear_value u)
    | (extract_lets +onlyGivenNames u; try clear_value u)
    | split

theorem execCellTempSuspend_keeps {z s : State} {x0 x1} (h : Keeps z s) : KeepsOut z (execCellTempSuspend x0 x1 s) := by
  unfold execCellTempSuspend
  repeat' first
    | with_reducible assumption
    | with_reducible apply State.setF_keeps
    | with_reducible apply State.countCharge_keeps
    | with_reducible apply State.advance_keeps
    | with_reducible apply State.showCurrent_keeps
    | simp -zeta only [Keeps.mk_iff, Keeps.mkCom_iff, Keeps.mkLog_iff]
    | with_reducible apply Keeps.out
    | (extract_lets +onlyGivenNames u; refine (?_ : Keeps z u → _) ?_; rotate_left; unfold u; rotate_left; intro hu; try clear_value u)
    | (extract_lets +onlyGivenNames u; try clear_value u)
    | split

theorem State.ntcLeaves_keeps {z s : State} (h : Keeps z s) : Keeps z (State.ntcLeaves s) := by
  unfold State.ntcLeaves
  repeat' first
    | with_reducible assumption
    | with_reducible apply State.raise_keeps
    | with_reducible apply State.chargeFault_keeps
    | simp -zeta only [Keeps.mk_iff, Keeps.mkCom_iff, Keeps.mkLog_iff]
    | with_reducible apply Keeps.ite

theorem State.ntcInRange_keeps {z s : State} (h : Keeps z s) : Keeps z (State.ntcInRange s) := by
  unfold State.ntcInRange
  repeat' first
    | with_reducible assumption
    | simp -zeta only [Keeps.mk_iff, Keeps.mkCom_iff, Keeps.mkLog_iff]
    | (extract_lets +onlyGivenNames u; try clear_value u)

theorem execBkpNtcFault_keeps {z s : State} {x0 x1} (h : Keeps z s) : KeepsOut z (execBkpNtcFault x0 x1 s) := by
  unfold execBkpNtcFault
  repeat' first
    | with_reducible assumption
    | with_reducible apply State.countCharge_keeps
    | with_reducible apply State.advance_keeps
    | with_reducible apply State.ntcLeaves_keeps
    | with_reducible apply State.ntcInRange_keeps
    | with_reducible apply Keeps.out
    | (extract_lets +onlyGivenNames u; refine (?_ : Keeps z u → _) ?_; rotate_left; unfold u; rotate_left; intro hu; try clear_value u)
    | split

theorem execBkpOvervoltage_keeps {z s : State} {x0 x1} (h : Keeps z s) : KeepsOut z (execBkpOvervoltage x0 x1 s) := by
  unfold execBkpOvervoltage
  repeat' first
    | with_reducible assumption
    | with_reducible apply State.countCharge_keeps
    | with_reducible apply State.advance_keeps
    | with_reducible apply State.chargeFault_keeps
    | with_reducible apply Keeps.out
    | (extract_lets +onlyGivenNames u; refine (?_ : Keeps z u → _) ?_; rotate_left; unfold u; rotate_left; intro hu; try clear_value u)
    | split

theorem execBkpNoCell_keeps {z s : State} {x0 x1} (h : Keeps z s) : KeepsOut z (execBkpNoCell x0 x1 s) := by
  unfold execBkpNoCell
  repeat' first
    | with_reducible assumption
    | with_reducible apply State.countCharge_keeps
    | with_reducible apply State.advance_keeps
    | with_reducible apply State.toPhase_keeps
    | with_reducible apply State.raise_keeps
    | simp -zeta only [Keeps.mk_iff, Keeps.mkCom_iff, Keeps.mkLog_iff]
    | with_reducible apply Keeps.out
    | (extract_lets +onlyGivenNames u; refine (?_ : Keeps z u → _) ?_; rotate_left; unfold u; rotate_left; intro hu; try clear_value u)
    | (extract_lets +onlyGivenNames u; try clear_value u)
    | split

theorem execBkpNoCellRetry_keeps {z s : State} {x0 x1} (h : Keeps z s) : KeepsOut z (execBkpNoCellRetry x0 x1 s) := by
  unfold execBkpNoCellRetry
  repeat' first
    | with_reducible assumption
    | with_reducible apply State.countCharge_keeps
    | with_reducible apply State.advance_keeps
    | with_reducible apply State.toPhase_keeps
    | simp -zeta only [Keeps.mk_iff, Keeps.mkCom_iff, Keeps.mkLog_iff]
    | with_reducible apply Keeps.out
    | (extract_lets +onlyGivenNames u; refine (?_ : Keeps z u → _) ?_; rotate_left; unfold u; rotate_left; intro hu; try clear_value u)
    | (extract_lets +onlyGivenNames u; try clear_value u)
    | split

theorem execChargerFallback_keeps {z s : State} {x0} (h : Keeps z s) : KeepsOut z (execChargerFallback x0 s) := by
  unfold execChargerFallback
  repeat' first
    | with_reducible assumption
    | with_reducible apply State.countCharge_keeps
    | with_reducible apply State.advance_keeps
    | with_reducible apply State.showCurrent_keeps
    | with_reducible apply State.setB_keeps
    | with_reducible apply Keeps.out
    | (extract_lets +onlyGivenNames u; refine (?_ : Keeps z u → _) ?_; rotate_left; unfold u; rotate_left; intro hu; try clear_value u)
    | split

theorem execCharge8hLimit_keeps {z s : State} {x0} (h : Keeps z s) : KeepsOut z (execCharge8hLimit x0 s) := by
  unfold execCharge8hLimit
  repeat' first
    | with_reducible assumption
    | with_reducible apply State.countCharge_keeps
    | with_reducible apply State.advance_keeps
    | with_reducible apply State.setF_keeps
    | with_reducible apply State.toPhase_keeps
    | with_reducible apply Keeps.out
    | (extract_lets +onlyGivenNames u; refine (?_ : Keeps z u → _) ?_; rotate_left; unfold u; rotate_left; intro hu; try clear_value u)
    | (extract_lets +onlyGivenNames u; try clear_value u)
    | split

theorem State.chargerHandover_keeps {z s : State} (h : Keeps z s) : Keeps z (State.chargerHandover s) := by
  unfold State.chargerHandover
  repeat' first
    | with_reducible assumption
    | with_reducible apply State.countCharge_keeps
    | with_reducible apply State.toPhase_keeps

theorem State.vsupSeen_keeps {z s : State} {x1 x2} (h : Keeps z s) : Keeps z (State.vsupSeen s x1 x2) := by
  unfold State.vsupSeen
  repeat' first
    | with_reducible assumption
    | with_reducible apply State.setF_keeps
    | simp -zeta only [Keeps.mk_iff, Keeps.mkCom_iff, Keeps.mkLog_iff]

theorem execHandoverToBkp_keeps {z s : State} {x0 x1 x2} (h : Keeps z s) : KeepsOut z (Sys2Proof.Machine.execHandoverToBkp x0 x1 x2 s) := by
  unfold execHandoverToBkp
  repeat' first
    | with_reducible assumption
    | with_reducible apply State.advance_keeps
    | with_reducible apply State.raise_keeps
    | with_reducible apply State.bump_keeps
    | with_reducible apply State.holdReset_keeps
    | with_reducible apply State.loseUnsaved_keeps
    | with_reducible apply State.loseQueue_keeps
    | with_reducible apply State.chargerHandover_keeps
    | with_reducible apply State.vsupSeen_keeps
    | simp -zeta only [Keeps.mk_iff, Keeps.mkCom_iff, Keeps.mkLog_iff]
    | with_reducible apply Keeps.out
    | with_reducible apply Keeps.ite
    | (extract_lets +onlyGivenNames u; refine (?_ : Keeps z u → _) ?_; rotate_left; unfold u; rotate_left; intro hu; try clear_value u)
    | (extract_lets +onlyGivenNames u; try clear_value u)
    | split

theorem execHandoverComplete_keeps {z s : State} {x0} (h : Keeps z s) : KeepsOut z (execHandoverComplete x0 s) := by
  unfold execHandoverComplete
  repeat' first
    | with_reducible assumption
    | with_reducible apply State.advance_keeps
    | with_reducible apply State.eaveStop_keeps
    | with_reducible apply State.toPower_keeps
    | simp -zeta only [Keeps.mk_iff, Keeps.mkCom_iff, Keeps.mkLog_iff]
    | with_reducible apply Keeps.out
    | (extract_lets +onlyGivenNames u; refine (?_ : Keeps z u → _) ?_; rotate_left; unfold u; rotate_left; intro hu; try clear_value u)
    | (extract_lets +onlyGivenNames u; try clear_value u)
    | split

theorem execVsupLow_keeps {z s : State} {x0 x1 x2} (h : Keeps z s) : KeepsOut z (execVsupLow x0 x1 x2 s) := by
  unfold execVsupLow
  repeat' first
    | with_reducible assumption
    | with_reducible apply State.advance_keeps
    | with_reducible apply State.vsupSeen_keeps
    | with_reducible apply State.raise_keeps
    | with_reducible apply Keeps.out
    | (extract_lets +onlyGivenNames u; refine (?_ : Keeps z u → _) ?_; rotate_left; unfold u; rotate_left; intro hu; try clear_value u)
    | split

theorem State.wakeAtReturn_keeps {z s : State} (h : Keeps z s) : Keeps z (State.wakeAtReturn s) := by
  unfold State.wakeAtReturn
  repeat' first
    | with_reducible assumption
    | with_reducible apply State.wake_keeps
    | simp -zeta only [Keeps.mk_iff, Keeps.mkCom_iff, Keeps.mkLog_iff]
    | with_reducible apply Keeps.ite
    | (with_reducible refine Keeps.foldl (fun x a hx => ?_) ?_ _ <;> beta_reduce)

theorem execVsupValid_keeps {z s : State} {x0 x1 x2} (h : Keeps z s) : KeepsOut z (execVsupValid x0 x1 x2 s) := by
  unfold execVsupValid
  repeat' first
    | with_reducible assumption
    | with_reducible apply State.advance_keeps
    | with_reducible apply State.vsupSeen_keeps
    | with_reducible apply State.wakeAtReturn_keeps
    | with_reducible apply State.eaveLoad_keeps
    | with_reducible apply State.toPower_keeps
    | simp -zeta only [Keeps.mk_iff, Keeps.mkCom_iff, Keeps.mkLog_iff]
    | with_reducible apply Keeps.out
    | (extract_lets +onlyGivenNames u; refine (?_ : Keeps z u → _) ?_; rotate_left; unfold u; rotate_left; intro hu; try clear_value u)
    | (extract_lets +onlyGivenNames u; try clear_value u)
    | split

theorem execBkpRise_keeps {z s : State} {x0 x1 x2} (h : Keeps z s) : KeepsOut z (execBkpRise x0 x1 x2 s) := by
  unfold execBkpRise
  extract_lets v r u
  have hv : Keeps z v := State.advance_keeps h
  clear_value v
  have hu : Keeps z u := by
    unfold u
    split
    · exact State.setR_keeps hv (Ridge.Kept.mk (Nat.le_refl _) id id (le_refl _) (le_refl _) (le_refl _) (Nat.le_refl _))
    · exact hv
  clear_value u
  split
  · exact Keeps.out (State.toPower_keeps hu)
  · exact Keeps.out hu

theorem State.loseEave_keeps {z s : State} (h : Keeps z s) : Keeps z (State.loseEave s) := by
  refine h.trans ⟨rfl, Nat.le_refl _, Ridge.Kept.refl _, fun b hb x => ⟨x.1, x.2, x.3, x.4, x.5, ?_⟩⟩
  exact ⟨x.6.1.filter _, fun p hp => x.6.2 p (List.mem_filter.1 hp).1⟩

theorem State.ridgeBkpLost_keeps {z s : State} (h : Keeps z s) : Keeps z (State.ridgeBkpLost s) := by
  unfold State.ridgeBkpLost
  repeat' first
    | with_reducible assumption
    | with_reducible apply State.setR_keeps
    | exact Ridge.Kept.mk (Nat.le_refl _) id id (le_refl _) (le_refl _) (le_refl _) (Nat.le_refl _)
    | with_reducible apply State.rtcStop_keeps
    | with_reducible apply Keeps.ite

theorem execBkpFall_keeps {z s : State} {x0 x1} (h : Keeps z s) : KeepsOut z (execBkpFall x0 x1 s) := by
  unfold execBkpFall
  dsimp only
  repeat' first
    | with_reducible assumption
    | with_reducible apply State.advance_keeps
    | with_reducible apply State.ridgeBkpLost_keeps
    | with_reducible apply State.loseEave_keeps
    | with_reducible apply State.toPower_keeps
    | with_reducible apply Keeps.out
    | with_reducible apply Keeps.ite
    | split

theorem execNrst_keeps {z s : State} {x0 x1} (h : Keeps z s) : KeepsOut z (execNrst x0 x1 s) := by
  unfold execNrst
  repeat' first
    | with_reducible assumption
    | with_reducible apply State.advance_keeps
    | with_reducible apply State.holdReset_keeps
    | with_reducible apply Keeps.out
    | (extract_lets +onlyGivenNames u; refine (?_ : Keeps z u → _) ?_; rotate_left; unfold u; rotate_left; intro hu; try clear_value u)
    | split

theorem execNrstRelease_keeps {z s : State} {x0} (h : Keeps z s) : KeepsOut z (execNrstRelease x0 s) := by
  unfold execNrstRelease
  repeat' first
    | with_reducible assumption
    | with_reducible apply State.advance_keeps
    | simp -zeta only [Keeps.mk_iff, Keeps.mkCom_iff, Keeps.mkLog_iff]
    | with_reducible apply Keeps.out
    | (extract_lets +onlyGivenNames u; refine (?_ : Keeps z u → _) ?_; rotate_left; unfold u; rotate_left; intro hu; try clear_value u)
    | (extract_lets +onlyGivenNames u; try clear_value u)
    | split

end Sys2Proof.Machine
end

