-- ==== Sys2Proof/Laws/KeepsGridCharger.lean ====
section
/-! SUPPORT. The operations and meanings of Machine/GridCharger.lean keep what every step keeps. -/

set_option linter.unreachableTactic false
set_option linter.unusedTactic false
set_option linter.unusedSimpArgs false
set_option linter.tactic.unusedName false
set_option linter.unusedVariables false

namespace Sys2Proof.Machine
open Sys2Proof

theorem State.rampTo_keeps {z s : State} {x1 x2 x3} (h : Keeps z s) : Keeps z (State.rampTo s x1 x2 x3) := by
  unfold State.rampTo
  repeat' first
    | with_reducible assumption
    | simp -zeta only [Keeps.mk_iff, Keeps.mkCom_iff, Keeps.mkLog_iff]

theorem State.rampZero_keeps {z s : State} {x1 x2} (h : Keeps z s) : Keeps z (Sys2Proof.Machine.State.rampZero s x1 x2) := by
  unfold State.rampZero
  repeat' first
    | with_reducible assumption
    | with_reducible apply State.rampTo_keeps

theorem State.followTarget_keeps {z s : State} (h : Keeps z s) : Keeps z (State.followTarget s) := by
  unfold State.followTarget
  repeat' first
    | with_reducible assumption
    | with_reducible apply State.rampTo_keeps
    | with_reducible apply Keeps.ite

theorem State.showIlim_keeps {z s : State} (h : Keeps z s) : Keeps z (State.showIlim s) := by
  unfold State.showIlim
  repeat' first
    | with_reducible assumption
    | with_reducible apply State.followTarget_keeps
    | with_reducible apply State.setQ_keeps

theorem State.chgStop_keeps {z s : State} {x1} (h : Keeps z s) : Keeps z (State.chgStop s x1) := by
  unfold State.chgStop
  repeat' first
    | with_reducible assumption
    | with_reducible apply State.showModes_keeps
    | with_reducible apply State.chgEnd_keeps
    | with_reducible apply State.setF_keeps
    | with_reducible apply Keeps.ite

theorem State.chgOff_keeps {z s : State} (h : Keeps z s) : Keeps z (State.chgOff s) := by
  unfold State.chgOff
  repeat' first
    | with_reducible assumption
    | with_reducible apply State.stopSwitching_keeps
    | with_reducible apply State.showModes_keeps
    | simp -zeta only [Keeps.mk_iff, Keeps.mkCom_iff, Keeps.mkLog_iff]

theorem State.chgPause_keeps {z s : State} {x1} (h : Keeps z s) : Keeps z (State.chgPause s x1) := by
  unfold State.chgPause
  repeat' first
    | with_reducible assumption
    | with_reducible apply State.event_keeps
    | with_reducible apply State.setF_keeps

theorem State.chgResume_keeps {z s : State} (h : Keeps z s) : Keeps z (State.chgResume s) := by
  unfold State.chgResume
  repeat' first
    | with_reducible assumption
    | with_reducible apply State.followTarget_keeps
    | with_reducible apply State.chgStart_keeps
    | simp -zeta only [Keeps.mk_iff, Keeps.mkCom_iff, Keeps.mkLog_iff]

theorem State.chgSettle_keeps {z s : State} (h : Keeps z s) : Keeps z (State.chgSettle s) := by
  unfold State.chgSettle
  repeat' first
    | with_reducible assumption
    | with_reducible apply State.setF_keeps
    | with_reducible apply State.setB_keeps
    | with_reducible apply Keeps.ite

theorem State.beginSession_keeps {z s : State} {x1 x2 x3} (h : Keeps z s) : Keeps z (State.beginSession s x1 x2 x3) := by
  unfold State.beginSession
  repeat' first
    | with_reducible assumption
    | with_reducible apply State.bump_keeps
    | with_reducible apply State.setFl_keeps
    | with_reducible apply State.setF_keeps
    | with_reducible apply State.setB_keeps
    | with_reducible apply State.showIlim_keeps
    | simp -zeta only [Keeps.mk_iff, Keeps.mkCom_iff, Keeps.mkLog_iff]

theorem execChgSessionBegin_keeps {z s : State} {x0} (h : Keeps z s) : KeepsOut z (execChgSessionBegin x0 s) := by
  unfold execChgSessionBegin
  repeat' first
    | with_reducible assumption
    | (with_reducible refine serveOp_keeps (by with_reducible assumption) fun z t u hu => ?_; beta_reduce)
    | with_reducible apply refuse_keeps
    | with_reducible apply okWith_keeps
    | with_reducible apply State.beginSession_keeps
    | (extract_lets +onlyGivenNames u; try clear_value u)
    | split

theorem execChgSet_keeps {z s : State} {x0} (h : Keeps z s) : KeepsOut z (execChgSet x0 s) := by
  unfold execChgSet
  repeat' first
    | with_reducible assumption
    | (with_reducible refine serveOp_keeps (by with_reducible assumption) fun z t u hu => ?_; beta_reduce)
    | with_reducible apply refuse_keeps
    | with_reducible apply State.setFl_keeps
    | with_reducible apply okWith_keeps
    | with_reducible apply State.followTarget_keeps
    | simp -zeta only [Keeps.mk_iff, Keeps.mkCom_iff, Keeps.mkLog_iff]
    | (extract_lets +onlyGivenNames u; refine (?_ : Keeps z u → _) ?_; rotate_left; unfold u; rotate_left; intro hu; try clear_value u)
    | (extract_lets +onlyGivenNames u; try clear_value u)
    | split

theorem execChgSessionEnd_keeps {z s : State} {x0} (h : Keeps z s) : KeepsOut z (Sys2Proof.Machine.execChgSessionEnd x0 s) := by
  unfold execChgSessionEnd
  repeat' first
    | with_reducible assumption
    | (with_reducible refine serveOp_keeps (by with_reducible assumption) fun z t u hu => ?_; beta_reduce)
    | with_reducible apply refuse_keeps
    | with_reducible apply State.chgStop_keeps
    | with_reducible apply State.rampZero_keeps
    | simp -zeta only [Keeps.mk_iff, Keeps.mkCom_iff, Keeps.mkLog_iff]
    | with_reducible apply Keeps.later
    | (extract_lets +onlyGivenNames u; refine (?_ : Keeps z u → _) ?_; rotate_left; unfold u; rotate_left; intro hu; try clear_value u)
    | (extract_lets +onlyGivenNames u; try clear_value u)
    | split

theorem execPilotStatus_keeps {z s : State} {x0} (h : Keeps z s) : KeepsOut z (execPilotStatus x0 s) := by
  unfold execPilotStatus
  repeat' first
    | with_reducible assumption
    | (with_reducible refine serveOp_keeps (by with_reducible assumption) fun z t u hu => ?_; beta_reduce)
    | with_reducible apply okWith_keeps

theorem State.zeroReached_keeps {z s : State} (h : Keeps z s) : Keeps z (Sys2Proof.Machine.State.zeroReached s) := by
  unfold State.zeroReached
  repeat' first
    | with_reducible assumption
    | with_reducible apply State.chgStop_keeps
    | with_reducible apply State.chgOff_keeps
    | with_reducible apply Keeps.ite

theorem State.pilotPause_keeps {z s : State} (h : Keeps z s) : Keeps z (Sys2Proof.Machine.State.pilotPause s) := by
  unfold State.pilotPause
  repeat' first
    | with_reducible assumption
    | with_reducible apply State.zeroReached_keeps
    | with_reducible apply State.chgPause_keeps
    | with_reducible apply State.rampZero_keeps
    | with_reducible apply Keeps.ite

theorem State.pilotEffects_keeps {z s : State} {x1} (h : Keeps z s) : Keeps z (Sys2Proof.Machine.State.pilotEffects s x1) := by
  unfold State.pilotEffects
  repeat' first
    | with_reducible assumption
    | with_reducible apply State.chgStop_keeps
    | with_reducible apply State.raise_keeps
    | with_reducible apply State.event_keeps
    | with_reducible apply State.pilotPause_keeps
    | with_reducible apply State.chgResume_keeps
    | with_reducible apply State.chgSettle_keeps
    | with_reducible apply Keeps.ite
    | (extract_lets +onlyGivenNames u; try clear_value u)
    | split

theorem State.showPilot_keeps {z s : State} {x1 x2 x3 x4} (h : Keeps z s) : Keeps z (State.showPilot s x1 x2 x3 x4) := by
  unfold State.showPilot
  repeat' first
    | with_reducible assumption
    | with_reducible apply State.setF_keeps
    | with_reducible apply State.setB_keeps

theorem State.countPilot_keeps {z s : State} {x1} (h : Keeps z s) : Keeps z (State.countPilot s x1) := by
  unfold State.countPilot
  repeat' first
    | with_reducible assumption
    | with_reducible apply State.setF_keeps
    | simp -zeta only [Keeps.mk_iff, Keeps.mkCom_iff, Keeps.mkLog_iff]
    | with_reducible apply Keeps.ite

theorem execPilotEvaluation_keeps {z s : State} {x0 x1 x2 x3 x4} (h : Keeps z s) : KeepsOut z (execPilotEvaluation x0 x1 x2 x3 x4 s) := by
  unfold execPilotEvaluation
  repeat' first
    | with_reducible assumption
    | with_reducible apply State.advance_keeps
    | with_reducible apply State.showIlim_keeps
    | with_reducible apply State.pilotEffects_keeps
    | with_reducible apply State.countPilot_keeps
    | with_reducible apply State.showPilot_keeps
    | with_reducible apply Keeps.out
    | (extract_lets +onlyGivenNames u; refine (?_ : Keeps z u → _) ?_; rotate_left; unfold u; rotate_left; intro hu; try clear_value u)
    | split

theorem State.takeClass_keeps {z s : State} {x1} (h : Keeps z s) : Keeps z (State.takeClass s x1) := by
  unfold State.takeClass
  repeat' first
    | with_reducible assumption
    | with_reducible apply State.setF_keeps
    | with_reducible apply State.chgStop_keeps
    | with_reducible apply State.raise_keeps
    | with_reducible apply State.event_keeps
    | simp -zeta only [Keeps.mk_iff, Keeps.mkCom_iff, Keeps.mkLog_iff]
    | with_reducible apply Keeps.ite

theorem State.countPp_keeps {z s : State} {x1} (h : Keeps z s) : Keeps z (State.countPp s x1) := by
  unfold State.countPp
  repeat' first
    | with_reducible assumption
    | with_reducible apply State.setF_keeps
    | simp -zeta only [Keeps.mk_iff, Keeps.mkCom_iff, Keeps.mkLog_iff]
    | with_reducible apply Keeps.ite

theorem execPpSample_keeps {z s : State} {x0 x1} (h : Keeps z s) : KeepsOut z (execPpSample x0 x1 s) := by
  unfold execPpSample
  repeat' first
    | with_reducible assumption
    | with_reducible apply State.advance_keeps
    | with_reducible apply State.countPp_keeps
    | with_reducible apply State.showIlim_keeps
    | with_reducible apply State.wake_keeps
    | with_reducible apply State.takeClass_keeps
    | simp -zeta only [Keeps.mk_iff, Keeps.mkCom_iff, Keeps.mkLog_iff]
    | with_reducible apply Keeps.out
    | (extract_lets +onlyGivenNames u; refine (?_ : Keeps z u → _) ?_; rotate_left; unfold u; rotate_left; intro hu; try clear_value u)
    | (extract_lets +onlyGivenNames u; try clear_value u)
    | split

theorem execGridQualified_keeps {z s : State} {x0 x1} (h : Keeps z s) : KeepsOut z (execGridQualified x0 x1 s) := by
  unfold execGridQualified
  repeat' first
    | with_reducible assumption
    | with_reducible apply State.advance_keeps
    | with_reducible apply State.chgSettle_keeps
    | with_reducible apply State.setB_keeps
    | with_reducible apply Keeps.out
    | (extract_lets +onlyGivenNames u; refine (?_ : Keeps z u → _) ?_; rotate_left; unfold u; rotate_left; intro hu; try clear_value u)
    | split

theorem execVpfcPrecharged_keeps {z s : State} {x0 x1 x2 x3} (h : Keeps z s) : KeepsOut z (execVpfcPrecharged x0 x1 x2 x3 s) := by
  unfold execVpfcPrecharged
  repeat' first
    | with_reducible assumption
    | with_reducible apply State.advance_keeps
    | with_reducible apply State.setB_keeps
    | with_reducible apply Keeps.out
    | (extract_lets +onlyGivenNames u; refine (?_ : Keeps z u → _) ?_; rotate_left; unfold u; rotate_left; intro hu; try clear_value u)
    | split

theorem State.gridStop_keeps {z s : State} {x1} (h : Keeps z s) : Keeps z (State.gridStop s x1) := by
  unfold State.gridStop
  repeat' first
    | with_reducible assumption
    | with_reducible apply State.setB_keeps
    | with_reducible apply State.chgOff_keeps
    | with_reducible apply State.chgPause_keeps
    | with_reducible apply State.chgStop_keeps
    | with_reducible apply Keeps.ite

theorem execChgGridTrip_keeps {z s : State} {x0 x1} (h : Keeps z s) : KeepsOut z (execChgGridTrip x0 x1 s) := by
  unfold execChgGridTrip
  repeat' first
    | with_reducible assumption
    | with_reducible apply State.advance_keeps
    | with_reducible apply State.gridStop_keeps
    | with_reducible apply State.raise_keeps
    | with_reducible apply State.bump_keeps
    | with_reducible apply State.event_keeps
    | with_reducible apply State.setB_keeps
    | with_reducible apply State.setF_keeps
    | with_reducible apply Keeps.out
    | (extract_lets +onlyGivenNames u; refine (?_ : Keeps z u → _) ?_; rotate_left; unfold u; rotate_left; intro hu; try clear_value u)
    | (extract_lets +onlyGivenNames u; try clear_value u)
    | split

theorem execGridReconnect_keeps {z s : State} {x0 x1} (h : Keeps z s) : KeepsOut z (execGridReconnect x0 x1 s) := by
  unfold execGridReconnect
  repeat' first
    | with_reducible assumption
    | with_reducible apply State.advance_keeps
    | with_reducible apply State.setF_keeps
    | with_reducible apply Keeps.out
    | (extract_lets +onlyGivenNames u; refine (?_ : Keeps z u → _) ?_; rotate_left; unfold u; rotate_left; intro hu; try clear_value u)
    | split

theorem execPowerRampEnd_keeps {z s : State} {x0} (h : Keeps z s) : KeepsOut z (Sys2Proof.Machine.execPowerRampEnd x0 s) := by
  unfold execPowerRampEnd
  repeat' first
    | with_reducible assumption
    | with_reducible apply State.advance_keeps
    | with_reducible apply State.zeroReached_keeps
    | with_reducible apply Keeps.out
    | (extract_lets +onlyGivenNames u; refine (?_ : Keeps z u → _) ?_; rotate_left; unfold u; rotate_left; intro hu; try clear_value u)
    | split

theorem State.goHostless_keeps {z s : State} (h : Keeps z s) : Keeps z (State.goHostless s) := by
  unfold State.goHostless
  repeat' first
    | with_reducible assumption
    | with_reducible apply State.raise_keeps
    | with_reducible apply State.event_keeps
    | with_reducible apply State.setB_keeps
    | with_reducible apply State.showIlim_keeps
    | with_reducible apply State.setFl_keeps
    | simp -zeta only [Keeps.mk_iff, Keeps.mkCom_iff, Keeps.mkLog_iff]
    | with_reducible apply Keeps.ite

theorem execChgHostless_keeps {z s : State} {x0} (h : Keeps z s) : KeepsOut z (execChgHostless x0 s) := by
  unfold execChgHostless
  dsimp only
  repeat' first
    | with_reducible assumption
    | with_reducible apply State.advance_keeps
    | with_reducible apply State.goHostless_keeps
    | with_reducible apply Keeps.out
    | split

theorem execChgHostlessStop_keeps {z s : State} {x0} (h : Keeps z s) : KeepsOut z (Sys2Proof.Machine.execChgHostlessStop x0 s) := by
  unfold execChgHostlessStop
  repeat' first
    | with_reducible assumption
    | with_reducible apply State.advance_keeps
    | with_reducible apply State.raise_keeps
    | with_reducible apply State.rampZero_keeps
    | with_reducible apply State.chgStop_keeps
    | simp -zeta only [Keeps.mk_iff, Keeps.mkCom_iff, Keeps.mkLog_iff]
    | with_reducible apply Keeps.out
    | with_reducible apply Keeps.ite
    | (extract_lets +onlyGivenNames u; refine (?_ : Keeps z u → _) ?_; rotate_left; unfold u; rotate_left; intro hu; try clear_value u)
    | (extract_lets +onlyGivenNames u; try clear_value u)
    | split

theorem State.endFallback_keeps {z s : State} (h : Keeps z s) : Keeps z (State.endFallback s) := by
  unfold State.endFallback
  repeat' first
    | with_reducible assumption
    | with_reducible apply State.showIlim_keeps
    | with_reducible apply State.setFl_keeps
    | with_reducible apply State.setB_keeps
    | with_reducible apply Keeps.ite

theorem execHeartbeat_keeps {z s : State} {x0} (h : Keeps z s) : KeepsOut z (execHeartbeat x0 s) := by
  unfold execHeartbeat
  repeat' first
    | with_reducible assumption
    | (with_reducible refine serveOp_keeps (by with_reducible assumption) fun z t u hu => ?_; beta_reduce)
    | with_reducible apply okWith_keeps
    | with_reducible apply State.endFallback_keeps
    | simp -zeta only [Keeps.mk_iff, Keeps.mkCom_iff, Keeps.mkLog_iff]
    | (extract_lets +onlyGivenNames u; (have hc : Com := u); clear hc; subst u)

theorem execChgVbatWindow_keeps {z s : State} {x0 x1 x2} (h : Keeps z s) : KeepsOut z (execChgVbatWindow x0 x1 x2 s) := by
  unfold execChgVbatWindow
  repeat' first
    | with_reducible assumption
    | with_reducible apply State.advance_keeps
    | with_reducible apply State.chgStop_keeps
    | with_reducible apply State.raise_keeps
    | with_reducible apply Keeps.out
    | (extract_lets +onlyGivenNames u; refine (?_ : Keeps z u → _) ?_; rotate_left; unfold u; rotate_left; intro hu; try clear_value u)
    | split

theorem State.xbFlat_keeps {z s : State} {x1 x2} (h : Keeps z s) : Keeps z (State.xbFlat s x1 x2) := by
  unfold State.xbFlat
  repeat' first
    | with_reducible assumption
    | with_reducible apply State.raise_keeps
    | with_reducible apply State.eventBit_keeps
    | with_reducible apply State.setGzCh_keeps

theorem execGzXbFlat_keeps {z s : State} {x0 x1 x2} (h : Keeps z s) : KeepsOut z (execGzXbFlat x0 x1 x2 s) := by
  unfold execGzXbFlat
  repeat' first
    | with_reducible assumption
    | with_reducible apply State.advance_keeps
    | with_reducible apply State.setGzCh_keeps
    | with_reducible apply State.xbFlat_keeps
    | with_reducible apply State.gridStop_keeps
    | with_reducible apply State.raise_keeps
    | with_reducible apply Keeps.out
    | (extract_lets +onlyGivenNames u; refine (?_ : Keeps z u → _) ?_; rotate_left; unfold u; rotate_left; intro hu; try clear_value u)
    | (extract_lets +onlyGivenNames u; try clear_value u)
    | split

theorem State.showMean_keeps {z s : State} (h : Keeps z s) : Keeps z (Sys2Proof.Machine.State.showMean s) := by
  unfold State.showMean
  repeat' first
    | with_reducible assumption
    | with_reducible apply State.setB_keeps
    | with_reducible apply State.setQ_keeps
    | simp -zeta only [Keeps.mk_iff, Keeps.mkCom_iff, Keeps.mkLog_iff]
    | with_reducible apply Keeps.ite

theorem State.meanPower_keeps {z s : State} {x1} (h : Keeps z s) : Keeps z (Sys2Proof.Machine.State.meanPower s x1) := by
  unfold State.meanPower
  repeat' first
    | with_reducible assumption
    | with_reducible apply State.showMean_keeps
    | simp -zeta only [Keeps.mk_iff, Keeps.mkCom_iff, Keeps.mkLog_iff]

theorem State.integrateGrid_keeps {z s : State} {x1} (h : Keeps z s) : Keeps z (Sys2Proof.Machine.State.integrateGrid s x1) := by
  unfold State.integrateGrid
  repeat' first
    | with_reducible assumption
    | with_reducible apply State.event_keeps
    | with_reducible apply State.bump_keeps
    | with_reducible apply State.showMean_keeps
    | with_reducible apply State.meanPower_keeps
    | simp -zeta only [Keeps.mk_iff, Keeps.mkCom_iff, Keeps.mkLog_iff]
    | with_reducible apply Keeps.ite

theorem State.witnessTaken_keeps {z s : State} {x1 x2 x3} (h : Keeps z s) : Keeps z (State.witnessTaken s x1 x2 x3) := by
  unfold State.witnessTaken
  repeat' first
    | with_reducible assumption
    | with_reducible apply State.setR_keeps
    | exact Ridge.Kept.mk (Nat.le_refl _) id id (le_refl _) (le_refl _) (le_refl _) (Nat.le_refl _)

theorem execWitnessEnergy_keeps {z s : State} {x0 x1} (h : Keeps z s) : KeepsOut z (execWitnessEnergy x0 x1 s) := by
  unfold execWitnessEnergy
  repeat' first
    | with_reducible assumption
    | with_reducible apply State.advance_keeps
    | (with_reducible refine witnessFrame_keeps ?_ fun g u hu => ?_ <;> beta_reduce)
    | with_reducible apply State.witnessTaken_keeps
    | simp -zeta only [Keeps.mk_iff, Keeps.mkCom_iff, Keeps.mkLog_iff]
    | with_reducible apply Keeps.out
    | (extract_lets +onlyGivenNames u; refine (?_ : Keeps z u → _) ?_; rotate_left; unfold u; rotate_left; intro hu; try clear_value u)
    | (extract_lets +onlyGivenNames u; try clear_value u)
    | split

theorem State.holdVpfc_keeps {z s : State} (h : Keeps z s) : Keeps z (State.holdVpfc s) := by
  unfold State.holdVpfc
  repeat' first
    | with_reducible assumption
    | with_reducible apply State.bankPi_keeps
    | simp -zeta only [Keeps.mk_iff, Keeps.mkCom_iff, Keeps.mkLog_iff]
    | (extract_lets +onlyGivenNames u; try clear_value u)

theorem State.measureVolts_keeps {z s : State} {x1} (h : Keeps z s) : Keeps z (Sys2Proof.Machine.State.measureVolts s x1) := by
  unfold State.measureVolts
  repeat' first
    | with_reducible assumption
    | simp -zeta only [Keeps.mk_iff, Keeps.mkCom_iff, Keeps.mkLog_iff]
    | with_reducible apply Keeps.ite

theorem State.slotLE7_keeps {z s : State} {x1} (h : Keeps z s) : Keeps z (Sys2Proof.Machine.State.slotLE7 s x1) := by
  unfold State.slotLE7
  repeat' first
    | with_reducible assumption
    | with_reducible apply State.setQ_keeps
    | with_reducible apply State.measureVolts_keeps
    | with_reducible apply State.showIlim_keeps
    | with_reducible apply State.holdVpfc_keeps
    | simp -zeta only [Keeps.mk_iff, Keeps.mkCom_iff, Keeps.mkLog_iff]
    | with_reducible apply Keeps.ite

theorem State.phaseVolt_keeps {z s : State} {x1 x2 x3} (h : Keeps z s) : Keeps z (State.phaseVolt s x1 x2 x3).2 := by
  unfold State.phaseVolt
  repeat' first
    | with_reducible assumption
    | with_reducible apply State.bankPi_keeps

theorem State.frontLeg_keeps {z s : State} {x1 x2} (h : Keeps z s) : Keeps z (State.frontLeg s x1 x2) := by
  unfold State.frontLeg
  repeat' first
    | with_reducible assumption
    | with_reducible apply State.stage_keeps
    | (extract_lets +onlyGivenNames u; try clear_value u)
    | split

theorem State.slotLE6_keeps {z s : State} (h : Keeps z s) : Keeps z (State.slotLE6 s) := by
  unfold State.slotLE6
  repeat' first
    | with_reducible assumption
    | with_reducible apply State.phaseVolt_keeps
    | with_reducible apply State.frontLeg_keeps
    | simp -zeta only [Keeps.mk_iff, Keeps.mkCom_iff, Keeps.mkLog_iff]
    | with_reducible apply Keeps.ite
    | (with_reducible refine Keeps.foldl (fun x a hx => ?_) ?_ _ <;> beta_reduce)
    | (with_reducible refine Keeps.foldlSnd (fun x a hx => ?_) ?_ _ <;> beta_reduce)
    | (extract_lets +onlyGivenNames u; try clear_value u)
    | split

theorem State.dabStart_keeps {z s : State} (h : Keeps z s) : Keeps z (State.dabStart s) := by
  unfold State.dabStart
  repeat' first
    | with_reducible assumption
    | with_reducible apply State.setMode_keeps
    | with_reducible apply State.followTarget_keeps
    | with_reducible apply State.showModes_keeps
    | simp -zeta only [Keeps.mk_iff, Keeps.mkCom_iff, Keeps.mkLog_iff]
    | with_reducible apply Keeps.ite
    | (with_reducible refine Keeps.foldl (fun x a hx => ?_) ?_ _ <;> beta_reduce)

theorem State.dabPower_keeps {z s : State} (h : Keeps z s) : Keeps z (State.dabPower s).2 := by
  unfold State.dabPower
  repeat' first
    | with_reducible assumption
    | with_reducible apply State.progPi_keeps

theorem State.dabWords_keeps {z s : State} {x1 x2 x3} (h : Keeps z s) : Keeps z (State.dabWords s x1 x2 x3) := by
  unfold State.dabWords
  repeat' first
    | with_reducible assumption
    | with_reducible apply State.stage_keeps
    | split

theorem State.dabRun_keeps {z s : State} (h : Keeps z s) : Keeps z (State.dabRun s) := by
  unfold State.dabRun
  repeat' first
    | with_reducible assumption
    | with_reducible apply State.dabPower_keeps
    | with_reducible apply State.dabWords_keeps
    | simp -zeta only [Keeps.mk_iff, Keeps.mkCom_iff, Keeps.mkLog_iff]

theorem State.slotLE8_keeps {z s : State} {x1} (h : Keeps z s) : Keeps z (State.slotLE8 s x1) := by
  unfold State.slotLE8
  repeat' first
    | with_reducible assumption
    | with_reducible apply State.dabRun_keeps
    | with_reducible apply State.dabStart_keeps
    | simp -zeta only [Keeps.mk_iff, Keeps.mkCom_iff, Keeps.mkLog_iff]
    | with_reducible apply Keeps.ite

end Sys2Proof.Machine
end

