-- ==== Sys2Proof/Laws/KeepsEngineOps.lean ====
section
/-! SUPPORT. The operations and meanings of Machine/EngineOps.lean keep what every step keeps. -/

set_option linter.unreachableTactic false
set_option linter.unusedTactic false
set_option linter.unusedSimpArgs false
set_option linter.tactic.unusedName false
set_option linter.unusedVariables false

namespace Sys2Proof.Machine
open Sys2Proof

/-- What holds of an instruction on an engine that executes holds of the instruction. -/
theorem State.onEngine_keeps {z s : State} {e : Nat} {r : Out} (h : Keeps z s) (hr : KeepsOut z r) : KeepsOut z (s.onEngine e r) := by
  unfold State.onEngine
  split
  · exact hr
  · exact Keeps.out h

theorem State.onEngine_runs {s : State} {e : Nat} {r : Out} (h : s.executes e = true) : s.onEngine e r = r := if_pos h

theorem State.onEngine_idle {s : State} {e : Nat} {r : Out} (h : s.executes e = false) : s.onEngine e r = .next s := if_neg (by simp [h])

theorem State.leSet_keeps {z s : State} {x1 x2 x3 x4} (h : Keeps z s) : Keeps z (State.leSet s x1 x2 x3 x4) := by
  unfold State.leSet
  repeat' first
    | with_reducible assumption
    | with_reducible apply State.setEng_keeps

theorem State.leFloat_keeps {z s : State} {x1 x2 x3 x4} (h : Keeps z s) : Keeps z (State.leFloat s x1 x2 x3 x4) := by
  unfold State.leFloat
  repeat' first
    | with_reducible assumption
    | with_reducible apply State.leSet_keeps
    | simp -zeta only [Keeps.mk_iff, Keeps.mkCom_iff, Keeps.mkLog_iff]
    | with_reducible apply Keeps.ite

theorem execLd_keeps {z s : State} {x0 x1 x2 x3} (h : Keeps z s) : KeepsOut z (execLd x0 x1 x2 x3 s) := by
  unfold execLd
  refine State.onEngine_keeps h ?_
  repeat' first
    | with_reducible assumption
    | with_reducible apply State.ecc_keeps
    | with_reducible apply State.leSet_keeps
    | with_reducible apply Keeps.out
    | (extract_lets +onlyGivenNames u; refine (?_ : Keeps z u → _) ?_; rotate_left; unfold u; rotate_left; intro hu; try clear_value u)
    | split

theorem execLdb_keeps {z s : State} {x0 x1 x2 x3} (h : Keeps z s) : KeepsOut z (execLdb x0 x1 x2 x3 s) := by
  unfold execLdb
  refine State.onEngine_keeps h ?_
  repeat' first
    | with_reducible assumption
    | with_reducible apply State.ecc_keeps
    | with_reducible apply State.leSet_keeps
    | with_reducible apply Keeps.out
    | (extract_lets +onlyGivenNames u; refine (?_ : Keeps z u → _) ?_; rotate_left; unfold u; rotate_left; intro hu; try clear_value u)
    | (extract_lets +onlyGivenNames u; try clear_value u)
    | split

theorem execSt_keeps {z s : State} {x0 x1 x2} (h : Keeps z s) : KeepsOut z (execSt x0 x1 x2 s) := by
  unfold execSt
  refine State.onEngine_keeps h ?_
  repeat' first
    | with_reducible assumption
    | with_reducible apply State.setEng_keeps
    | with_reducible apply Keeps.out

theorem execFadd_keeps {z s : State} {x0 x1 x2 x3} (h : Keeps z s) : KeepsOut z (execFadd x0 x1 x2 x3 s) := by
  unfold execFadd
  refine State.onEngine_keeps h ?_
  repeat' first
    | with_reducible assumption
    | with_reducible apply State.leFloat_keeps
    | with_reducible apply Keeps.out

theorem execFsub_keeps {z s : State} {x0 x1 x2 x3} (h : Keeps z s) : KeepsOut z (execFsub x0 x1 x2 x3 s) := by
  unfold execFsub
  refine State.onEngine_keeps h ?_
  repeat' first
    | with_reducible assumption
    | with_reducible apply State.leFloat_keeps
    | with_reducible apply Keeps.out

theorem execFmul_keeps {z s : State} {x0 x1 x2 x3} (h : Keeps z s) : KeepsOut z (execFmul x0 x1 x2 x3 s) := by
  unfold execFmul
  refine State.onEngine_keeps h ?_
  repeat' first
    | with_reducible assumption
    | with_reducible apply State.leFloat_keeps
    | with_reducible apply Keeps.out

theorem execFma_keeps {z s : State} {x0 x1 x2 x3 x4} (h : Keeps z s) : KeepsOut z (execFma x0 x1 x2 x3 x4 s) := by
  unfold execFma
  refine State.onEngine_keeps h ?_
  repeat' first
    | with_reducible assumption
    | with_reducible apply State.leFloat_keeps
    | with_reducible apply Keeps.out

theorem State.leMinMax_keeps {z s : State} {x1 x2 x3 x4 x5} (h : Keeps z s) : Keeps z (State.leMinMax s x1 x2 x3 x4 x5) := by
  unfold State.leMinMax
  repeat' first
    | with_reducible assumption
    | with_reducible apply State.leSet_keeps
    | simp -zeta only [Keeps.mk_iff, Keeps.mkCom_iff, Keeps.mkLog_iff]
    | with_reducible apply Keeps.ite
    | (extract_lets +onlyGivenNames u; refine (?_ : Keeps z u → _) ?_; rotate_left; unfold u; rotate_left; intro hu; try clear_value u)

theorem execFmin_keeps {z s : State} {x0 x1 x2 x3} (h : Keeps z s) : KeepsOut z (execFmin x0 x1 x2 x3 s) := by
  unfold execFmin
  refine State.onEngine_keeps h ?_
  repeat' first
    | with_reducible assumption
    | with_reducible apply State.leMinMax_keeps
    | with_reducible apply Keeps.out

theorem execFmax_keeps {z s : State} {x0 x1 x2 x3} (h : Keeps z s) : KeepsOut z (execFmax x0 x1 x2 x3 s) := by
  unfold execFmax
  refine State.onEngine_keeps h ?_
  repeat' first
    | with_reducible assumption
    | with_reducible apply State.leMinMax_keeps
    | with_reducible apply Keeps.out

theorem execFabs_keeps {z s : State} {x0 x1 x2} (h : Keeps z s) : KeepsOut z (execFabs x0 x1 x2 s) := by
  unfold execFabs
  refine State.onEngine_keeps h ?_
  repeat' first
    | with_reducible assumption
    | with_reducible apply State.leSet_keeps
    | with_reducible apply Keeps.out

theorem execFneg_keeps {z s : State} {x0 x1 x2} (h : Keeps z s) : KeepsOut z (execFneg x0 x1 x2 s) := by
  unfold execFneg
  refine State.onEngine_keeps h ?_
  repeat' first
    | with_reducible assumption
    | with_reducible apply State.leSet_keeps
    | with_reducible apply Keeps.out

theorem execFdiv_keeps {z s : State} {x0 x1 x2 x3} (h : Keeps z s) : KeepsOut z (execFdiv x0 x1 x2 x3 s) := by
  unfold execFdiv
  refine State.onEngine_keeps h ?_
  repeat' first
    | with_reducible assumption
    | with_reducible apply State.leFloat_keeps
    | with_reducible apply Keeps.out

theorem execFsqrt_keeps {z s : State} {x0 x1 x2} (h : Keeps z s) : KeepsOut z (execFsqrt x0 x1 x2 s) := by
  unfold execFsqrt
  refine State.onEngine_keeps h ?_
  repeat' first
    | with_reducible assumption
    | with_reducible apply State.leFloat_keeps
    | with_reducible apply Keeps.out

theorem execQadd_keeps {z s : State} {x0 x1 x2 x3 x4} (h : Keeps z s) : KeepsOut z (execQadd x0 x1 x2 x3 x4 s) := by
  unfold execQadd
  refine State.onEngine_keeps h ?_
  repeat' first
    | with_reducible assumption
    | with_reducible apply State.leSet_keeps
    | with_reducible apply Keeps.out

theorem execQsub_keeps {z s : State} {x0 x1 x2 x3 x4} (h : Keeps z s) : KeepsOut z (execQsub x0 x1 x2 x3 x4 s) := by
  unfold execQsub
  refine State.onEngine_keeps h ?_
  repeat' first
    | with_reducible assumption
    | with_reducible apply State.leSet_keeps
    | with_reducible apply Keeps.out

theorem State.leQuantize_keeps {z s : State} {x1 x2 x3 x4} (h : Keeps z s) : Keeps z (State.leQuantize s x1 x2 x3 x4) := by
  unfold State.leQuantize
  repeat' first
    | with_reducible assumption
    | with_reducible apply State.leSet_keeps
    | simp -zeta only [Keeps.mk_iff, Keeps.mkCom_iff, Keeps.mkLog_iff]
    | with_reducible apply Keeps.ite
    | (extract_lets +onlyGivenNames u; refine (?_ : Keeps z u → _) ?_; rotate_left; unfold u; rotate_left; intro hu; try clear_value u)

theorem execQmul_keeps {z s : State} {x0 x1 x2 x3 x4} (h : Keeps z s) : KeepsOut z (execQmul x0 x1 x2 x3 x4 s) := by
  unfold execQmul
  refine State.onEngine_keeps h ?_
  repeat' first
    | with_reducible assumption
    | with_reducible apply State.leQuantize_keeps
    | with_reducible apply Keeps.out

theorem execCvtqf_keeps {z s : State} {x0 x1 x2 x3} (h : Keeps z s) : KeepsOut z (execCvtqf x0 x1 x2 x3 s) := by
  unfold execCvtqf
  refine State.onEngine_keeps h ?_
  repeat' first
    | with_reducible assumption
    | with_reducible apply State.leSet_keeps
    | with_reducible apply Keeps.out

theorem execCvtfq_keeps {z s : State} {x0 x1 x2 x3} (h : Keeps z s) : KeepsOut z (execCvtfq x0 x1 x2 x3 s) := by
  unfold execCvtfq
  refine State.onEngine_keeps h ?_
  repeat' first
    | with_reducible assumption
    | with_reducible apply State.leSet_keeps
    | with_reducible apply State.leQuantize_keeps
    | simp -zeta only [Keeps.mk_iff, Keeps.mkCom_iff, Keeps.mkLog_iff]
    | with_reducible apply Keeps.out
    | (extract_lets +onlyGivenNames u; refine (?_ : Keeps z u → _) ?_; rotate_left; unfold u; rotate_left; intro hu; try clear_value u)
    | (extract_lets +onlyGivenNames u; try clear_value u)
    | split

theorem execSincos_keeps {z s : State} {x0 x1 x2 x3} (h : Keeps z s) : KeepsOut z (execSincos x0 x1 x2 x3 s) := by
  unfold execSincos
  refine State.onEngine_keeps h ?_
  repeat' first
    | with_reducible assumption
    | with_reducible apply State.setEng_keeps
    | with_reducible apply Keeps.out

theorem execAtan2_keeps {z s : State} {x0 x1 x2 x3} (h : Keeps z s) : KeepsOut z (execAtan2 x0 x1 x2 x3 s) := by
  unfold execAtan2
  refine State.onEngine_keeps h ?_
  repeat' first
    | with_reducible assumption
    | with_reducible apply State.leSet_keeps
    | with_reducible apply Keeps.out

theorem execCvtg_keeps {z s : State} {x0 x1 x2 x3} (h : Keeps z s) : KeepsOut z (execCvtg x0 x1 x2 x3 s) := by
  unfold execCvtg
  refine State.onEngine_keeps h ?_
  repeat' first
    | with_reducible assumption
    | with_reducible apply State.leSet_keeps
    | with_reducible apply Keeps.out

theorem execCvtc_keeps {z s : State} {x0 x1 x2} (h : Keeps z s) : KeepsOut z (execCvtc x0 x1 x2 s) := by
  unfold execCvtc
  refine State.onEngine_keeps h ?_
  repeat' first
    | with_reducible assumption
    | with_reducible apply State.leSet_keeps
    | simp -zeta only [Keeps.mk_iff, Keeps.mkCom_iff, Keeps.mkLog_iff]
    | with_reducible apply Keeps.out
    | (extract_lets +onlyGivenNames u; refine (?_ : Keeps z u → _) ?_; rotate_left; unfold u; rotate_left; intro hu; try clear_value u)
    | (extract_lets +onlyGivenNames u; try clear_value u)
    | split

theorem execPiBlock_keeps {z s : State} {x0 x1 x2 x3 x4} (h : Keeps z s) : KeepsOut z (execPiBlock x0 x1 x2 x3 x4 s) := by
  unfold execPiBlock
  refine State.onEngine_keeps h ?_
  repeat' first
    | with_reducible assumption
    | with_reducible apply State.leFloat_keeps
    | with_reducible apply State.setEng_keeps
    | simp -zeta only [Keeps.mk_iff, Keeps.mkCom_iff, Keeps.mkLog_iff]
    | with_reducible apply Keeps.out
    | (extract_lets +onlyGivenNames u; refine (?_ : Keeps z u → _) ?_; rotate_left; unfold u; rotate_left; intro hu; try clear_value u)
    | (extract_lets +onlyGivenNames u; try clear_value u)
    | split

theorem execPreset_keeps {z s : State} {x0 x1 x2} (h : Keeps z s) : KeepsOut z (execPreset x0 x1 x2 s) := by
  unfold execPreset
  refine State.onEngine_keeps h ?_
  repeat' first
    | with_reducible assumption
    | with_reducible apply State.setEng_keeps
    | with_reducible apply Keeps.out

theorem execSat_keeps {z s : State} {x0 x1 x2} (h : Keeps z s) : KeepsOut z (execSat x0 x1 x2 s) := by
  unfold execSat
  refine State.onEngine_keeps h ?_
  repeat' first
    | with_reducible assumption
    | with_reducible apply State.leSet_keeps
    | simp -zeta only [Keeps.mk_iff, Keeps.mkCom_iff, Keeps.mkLog_iff]
    | with_reducible apply Keeps.out

theorem execTlook_keeps {z s : State} {x0 x1 x2} (h : Keeps z s) : KeepsOut z (execTlook x0 x1 x2 s) := by
  unfold execTlook
  refine State.onEngine_keeps h ?_
  repeat' first
    | with_reducible assumption
    | with_reducible apply State.leFloat_keeps
    | with_reducible apply Keeps.out

theorem execTime_keeps {z s : State} {x0 x1 x2} (h : Keeps z s) : KeepsOut z (execTime x0 x1 x2 s) := by
  unfold execTime
  refine State.onEngine_keeps h ?_
  repeat' first
    | with_reducible assumption
    | with_reducible apply State.setEng_keeps
    | with_reducible apply Keeps.out

theorem execLput_keeps {z s : State} {x0 x1 x2} (h : Keeps z s) : KeepsOut z (execLput x0 x1 x2 s) := by
  unfold execLput
  refine State.onEngine_keeps h ?_
  repeat' first
    | with_reducible assumption
    | with_reducible apply State.putLink_keeps
    | with_reducible apply State.setEng_keeps
    | with_reducible apply Keeps.out

theorem execLink_keeps {z s : State} {x0 x1 x2 x3 x4} (h : Keeps z s) : KeepsOut z (execLink x0 x1 x2 x3 x4 s) := by
  unfold execLink
  refine State.onEngine_keeps h ?_
  repeat' first
    | with_reducible assumption
    | with_reducible apply State.setEng_keeps
    | with_reducible apply Keeps.out

theorem execLwait_keeps {z s : State} {x0 x1 x2 x3 x4} (h : Keeps z s) : KeepsOut z (execLwait x0 x1 x2 x3 x4 s) := by
  unfold execLwait
  refine State.onEngine_keeps h ?_
  repeat' first
    | with_reducible assumption
    | with_reducible apply State.leSet_keeps
    | with_reducible apply State.setEng_keeps
    | with_reducible apply Keeps.out
    | (extract_lets +onlyGivenNames u; try clear_value u)
    | split

theorem execBr_keeps {z s : State} {x0 x1 x2} (h : Keeps z s) : KeepsOut z (execBr x0 x1 x2 s) := by
  unfold execBr
  refine State.onEngine_keeps h ?_
  repeat' first
    | with_reducible assumption
    | with_reducible apply State.setEng_keeps
    | with_reducible apply Keeps.out

theorem execLoop_keeps {z s : State} {x0 x1 x2} (h : Keeps z s) : KeepsOut z (execLoop x0 x1 x2 s) := by
  unfold execLoop
  refine State.onEngine_keeps h ?_
  repeat' first
    | with_reducible assumption
    | with_reducible apply State.setEng_keeps
    | with_reducible apply Keeps.out

theorem execPost_keeps {z s : State} {x0} (h : Keeps z s) : KeepsOut z (execPost x0 s) := by
  unfold execPost
  refine State.onEngine_keeps h ?_
  repeat' first
    | with_reducible assumption
    | with_reducible apply State.loopPost_keeps
    | with_reducible apply State.post_keeps
    | with_reducible apply State.setEng_keeps
    | with_reducible apply Keeps.out

theorem execEndSlot_keeps {z s : State} {x0} (h : Keeps z s) : KeepsOut z (execEndSlot x0 s) := by
  unfold execEndSlot
  refine State.onEngine_keeps h ?_
  repeat' first
    | with_reducible assumption
    | with_reducible apply State.loopPost_keeps
    | with_reducible apply State.endSlot_keeps
    | with_reducible apply State.setEng_keeps
    | with_reducible apply Keeps.out

theorem execPace_keeps {z s : State} {x0 x1} (h : Keeps z s) : KeepsOut z (Sys2Proof.Machine.execPace x0 x1 s) := by
  unfold execPace
  repeat' first
    | with_reducible assumption
    | with_reducible apply State.onEngine_keeps
    | with_reducible apply State.setAlt_keeps
    | with_reducible apply State.setEng_keeps
    | with_reducible apply Keeps.out

theorem execWait_keeps {z s : State} {x0} (h : Keeps z s) : KeepsOut z (execWait x0 s) := by
  unfold execWait
  refine State.onEngine_keeps h ?_
  repeat' first
    | with_reducible assumption
    | with_reducible apply State.setF_keeps
    | with_reducible apply State.setEng_keeps
    | with_reducible apply Keeps.out

end Sys2Proof.Machine
end

