-- ==== Sys2Proof/Laws/KeepsAuxConverter.lean ====
section
/-! SUPPORT. The operations and meanings of Machine/AuxConverter.lean keep what every step keeps. -/

set_option linter.unreachableTactic false
set_option linter.unusedTactic false
set_option linter.unusedSimpArgs false
set_option linter.tactic.unusedName false
set_option linter.unusedVariables false

namespace Sys2Proof.Machine
open Sys2Proof

theorem State.phasesTo_keeps {z s : State} {x1 x2} (h : Keeps z s) : Keeps z (Sys2Proof.Machine.State.phasesTo s x1 x2) := by
  unfold State.phasesTo
  repeat' first
    | with_reducible assumption
    | with_reducible apply State.showModes_keeps
    | with_reducible apply State.setMode_keeps
    | with_reducible apply Keeps.ite
    | (with_reducible refine Keeps.foldl (fun x a hx => ?_) ?_ _ <;> beta_reduce)
    | split

theorem State.phaseCut_keeps {z s : State} {x1} (h : Keeps z s) : Keeps z (State.phaseCut s x1) := by
  unfold State.phaseCut
  repeat' first
    | with_reducible assumption
    | with_reducible apply State.gatesOff_keeps
    | with_reducible apply State.forceOff_keeps
    | split

theorem State.reslot_keeps {z s : State} (h : Keeps z s) : Keeps z (State.reslot s) := by
  unfold State.reslot
  repeat' first
    | with_reducible assumption
    | with_reducible apply State.setF_keeps
    | with_reducible apply Keeps.ite
    | (with_reducible refine Keeps.foldl (fun x a hx => ?_) ?_ _ <;> beta_reduce)
    | split

theorem State.belowMin_keeps {z s : State} (h : Keeps z s) : Keeps z (State.belowMin s) := by
  unfold State.belowMin
  repeat' first
    | with_reducible assumption
    | with_reducible apply State.raise_keeps
    | with_reducible apply Keeps.ite

theorem State.beginShed_keeps {z s : State} {x1 x2} (h : Keeps z s) : Keeps z (State.beginShed s x1 x2) := by
  unfold State.beginShed
  repeat' first
    | with_reducible assumption
    | with_reducible apply State.setB_keeps
    | simp -zeta only [Keeps.mk_iff, Keeps.mkCom_iff, Keeps.mkLog_iff]

theorem State.shedDone_keeps {z s : State} (h : Keeps z s) : Keeps z (Sys2Proof.Machine.State.shedDone s) := by
  unfold State.shedDone
  repeat' first
    | with_reducible assumption
    | with_reducible apply State.setF_keeps
    | with_reducible apply State.setB_keeps
    | with_reducible apply Keeps.ite

theorem State.toLevel_keeps {z s : State} {x1} (h : Keeps z s) : Keeps z (Sys2Proof.Machine.State.toLevel s x1) := by
  unfold State.toLevel
  repeat' first
    | with_reducible assumption
    | with_reducible apply State.phasesTo_keeps
    | with_reducible apply State.setF_keeps
    | with_reducible apply State.setB_keeps
    | with_reducible apply State.beginShed_keeps
    | simp -zeta only [Keeps.mk_iff, Keeps.mkCom_iff, Keeps.mkLog_iff]
    | with_reducible apply Keeps.ite

theorem State.relevel_keeps {z s : State} (h : Keeps z s) : Keeps z (Sys2Proof.Machine.State.relevel s) := by
  unfold State.relevel
  repeat' first
    | with_reducible assumption
    | with_reducible apply State.toLevel_keeps
    | with_reducible apply Keeps.ite

theorem State.refreshAvail_keeps {z s : State} (h : Keeps z s) : Keeps z (Sys2Proof.Machine.State.refreshAvail s) := by
  unfold State.refreshAvail
  repeat' first
    | with_reducible assumption
    | with_reducible apply State.showPhases_keeps
    | with_reducible apply State.phaseCut_keeps
    | with_reducible apply State.shedDone_keeps
    | with_reducible apply State.event_keeps
    | with_reducible apply State.reslot_keeps
    | with_reducible apply State.relevel_keeps
    | with_reducible apply State.showModes_keeps
    | with_reducible apply State.belowMin_keeps
    | simp -zeta only [Keeps.mk_iff, Keeps.mkCom_iff, Keeps.mkLog_iff]
    | with_reducible apply Keeps.ite
    | (with_reducible refine Keeps.foldl (fun x a hx => ?_) ?_ _ <;> beta_reduce)

theorem State.takeMask_keeps {z s : State} {x1} (h : Keeps z s) : Keeps z (State.takeMask s x1) := by
  unfold State.takeMask
  repeat' first
    | with_reducible assumption
    | with_reducible apply State.setF_keeps
    | with_reducible apply State.refreshAvail_keeps
    | with_reducible apply State.beginShed_keeps
    | simp -zeta only [Keeps.mk_iff, Keeps.mkCom_iff, Keeps.mkLog_iff]
    | with_reducible apply Keeps.ite
    | (extract_lets +onlyGivenNames u; refine (?_ : Keeps z u → _) ?_; rotate_left; unfold u; rotate_left; intro hu; try clear_value u)

theorem State.takePermit_keeps {z s : State} (h : Keeps z s) : Keeps z (State.takePermit s) := by
  unfold State.takePermit
  repeat' first
    | with_reducible assumption
    | with_reducible apply State.refreshAvail_keeps
    | simp -zeta only [Keeps.mk_iff, Keeps.mkCom_iff, Keeps.mkLog_iff]
    | with_reducible apply Keeps.ite

theorem State.auxSettle_keeps {z s : State} (h : Keeps z s) : Keeps z (State.auxSettle s) := by
  unfold State.auxSettle
  repeat' first
    | with_reducible assumption
    | with_reducible apply State.takeMask_keeps
    | with_reducible apply Keeps.ite
    | split

theorem State.retirePhase_keeps {z s : State} {x1} (h : Keeps z s) : Keeps z (Sys2Proof.Machine.State.retirePhase s x1) := by
  unfold State.retirePhase
  repeat' first
    | with_reducible assumption
    | with_reducible apply State.event_keeps
    | with_reducible apply State.queueRetire_keeps
    | with_reducible apply State.raise_keeps
    | with_reducible apply State.beginShed_keeps
    | with_reducible apply State.refreshAvail_keeps
    | simp -zeta only [Keeps.mk_iff, Keeps.mkCom_iff, Keeps.mkLog_iff]
    | with_reducible apply Keeps.ite

theorem State.takeDue_keeps {z s : State} (h : Keeps z s) : Keeps z (Sys2Proof.Machine.State.takeDue s) := by
  unfold State.takeDue
  repeat' first
    | with_reducible assumption
    | simp -zeta only [Keeps.mk_iff, Keeps.mkCom_iff, Keeps.mkLog_iff]

theorem State.auxStop_keeps {z s : State} (h : Keeps z s) : Keeps z (Sys2Proof.Machine.State.auxStop s) := by
  unfold State.auxStop
  repeat' first
    | with_reducible assumption
    | with_reducible apply State.showModes_keeps
    | with_reducible apply State.auxHalt_keeps

theorem execAuxStopComplete_keeps {z s : State} {x0} (h : Keeps z s) : KeepsOut z (Sys2Proof.Machine.execAuxStopComplete x0 s) := by
  unfold execAuxStopComplete
  repeat' first
    | with_reducible assumption
    | with_reducible apply State.advance_keeps
    | with_reducible apply State.showModes_keeps
    | with_reducible apply State.auxDone_keeps
    | with_reducible apply State.setMode_keeps
    | with_reducible apply Keeps.out
    | with_reducible apply Keeps.ite
    | (with_reducible refine Keeps.foldl (fun x a hx => ?_) ?_ _ <;> beta_reduce)

theorem State.phaseUnlatch_keeps {z s : State} (h : Keeps z s) : Keeps z (State.phaseUnlatch s) := by
  unfold State.phaseUnlatch
  repeat' first
    | with_reducible assumption
    | simp -zeta only [Keeps.mk_iff, Keeps.mkCom_iff, Keeps.mkLog_iff]

theorem State.runCars_keeps {z s : State} {x1} (h : Keeps z s) : Keeps z (Sys2Proof.Machine.State.runCars s x1) := by
  unfold State.runCars
  repeat' first
    | with_reducible assumption
    | with_reducible apply State.carrierRun_keeps
    | (with_reducible refine Keeps.foldl (fun x a hx => ?_) ?_ _ <;> beta_reduce)

theorem State.dcxWord_keeps {z s : State} {x1 x2 x3} (h : Keeps z s) : Keeps z (State.dcxWord s x1 x2 x3) := by
  unfold State.dcxWord
  repeat' first
    | with_reducible assumption
    | with_reducible apply State.stage_keeps
    | split

theorem State.dcxPut_keeps {z s : State} {x1 x2 x3} (h : Keeps z s) : Keeps z (Sys2Proof.Machine.State.dcxPut s x1 x2 x3) := by
  unfold State.dcxPut
  repeat' first
    | with_reducible assumption
    | with_reducible apply State.compare_keeps
    | split

theorem State.dcxMode_keeps {z s : State} {x1 x2} (h : Keeps z s) : Keeps z (State.dcxMode s x1 x2) := by
  unfold State.dcxMode
  repeat' first
    | with_reducible assumption
    | with_reducible apply State.setMode_keeps
    | with_reducible apply Keeps.ite
    | split

theorem State.softWords_keeps {z s : State} {x1} (h : Keeps z s) : Keeps z (Sys2Proof.Machine.State.softWords s x1) := by
  unfold State.softWords
  repeat' first
    | with_reducible assumption
    | with_reducible apply State.dcxPut_keeps

theorem State.auxStart_keeps {z s : State} {x1} (h : Keeps z s) : Keeps z (Sys2Proof.Machine.State.auxStart s x1) := by
  unfold State.auxStart
  repeat' first
    | with_reducible assumption
    | with_reducible apply State.takeDue_keeps
    | with_reducible apply State.phaseUnlatch_keeps
    | with_reducible apply State.setF_keeps
    | with_reducible apply State.setB_keeps
    | with_reducible apply State.refreshAvail_keeps
    | with_reducible apply State.showModes_keeps
    | with_reducible apply State.runCars_keeps
    | with_reducible apply State.softWords_keeps
    | with_reducible apply State.dcxMode_keeps
    | simp -zeta only [Keeps.mk_iff, Keeps.mkCom_iff, Keeps.mkLog_iff]
    | with_reducible apply Keeps.ite

theorem execAuxEnable_keeps {z s : State} {x0} (h : Keeps z s) : KeepsOut z (execAuxEnable x0 s) := by
  unfold execAuxEnable
  repeat' first
    | with_reducible assumption
    | (with_reducible refine serveOp_keeps (by with_reducible assumption) fun z t u hu => ?_; beta_reduce)
    | with_reducible apply refuse_keeps
    | with_reducible apply okWith_keeps
    | with_reducible apply State.auxStart_keeps
    | (extract_lets +onlyGivenNames u; try clear_value u)
    | split

theorem State.auxLater_keeps {z s : State} {held : Bool} {f v} (h : Keeps z s) (hh : held = true → s.heldWrites < 64) : Keeps z (State.auxLater s held f v) := by
  have k : Keeps z { s with shadow := s.shadow ++ [({ addr := f.addr, mask := 0xFFFFFFFF, value := v, held := held, armed := false } : PendWrite)] } := by
    refine h.trans ⟨rfl, Nat.le_refl _, Ridge.Kept.refl _, fun b hb x => ⟨x.sessions, x.caches, x.recs, x.fifo, ?_, x.regs⟩⟩
    have hx := x.held
    unfold State.heldWrites at hx hh ⊢
    rcases held with _ | _
    · simpa using hx
    · have := hh rfl
      simpa using this
  unfold State.auxLater
  dsimp only
  split
  · exact State.setF_keeps k
  · split
    · exact k
    · exact State.applyPart_keeps k

theorem State.auxLater_held {s : State} {held : Bool} {f v} (e : held = true) : (State.auxLater s held f v).heldWrites = s.heldWrites + 1 := by
  subst e
  simp only [State.auxLater, if_pos]
  show (List.filter _ (s.shadow ++ [_])).length = _
  simp [State.heldWrites]

theorem execAuxSet_keeps {z s : State} {x0 : Req} (h : Keeps z s) : KeepsOut z (execAuxSet x0 s) := by
  unfold execAuxSet
  refine serveOp_keeps h fun z t u hu => ?_
  dsimp only
  have two : ∀ (x : State) (f g : Fld) (v w : Nat), Keeps z x → x.heldWrites = u.heldWrites → ¬ (u.holdOf x0.session && decide (64 < u.heldWrites + 2)) = true →
      KeepsRes z (okWith [] ((x.auxLater (u.holdOf x0.session) f v).auxLater (u.holdOf x0.session) g w)) := by
    intro x f g v w hx hq hn
    refine okWith_keeps (State.auxLater_keeps (State.auxLater_keeps hx fun e => ?_) fun e => ?_)
    · rw [e] at hn; simp at hn; omega
    · rw [State.auxLater_held e]; rw [e] at hn; simp at hn; omega
  split
  · split
    · exact refuse_keeps hu
    · split
      · exact refuse_keeps hu
      · exact two _ _ _ _ _ (Keeps.mk_iff.2 hu) rfl (by assumption)
  · split
    · exact refuse_keeps hu
    · split
      · exact refuse_keeps hu
      · exact two _ _ _ _ _ hu rfl (by assumption)

theorem execAuxDisable_keeps {z s : State} {x0} (h : Keeps z s) : KeepsOut z (execAuxDisable x0 s) := by
  unfold execAuxDisable
  repeat' first
    | with_reducible assumption
    | (with_reducible refine serveOp_keeps (by with_reducible assumption) fun z t u hu => ?_; beta_reduce)
    | with_reducible apply okWith_keeps
    | with_reducible apply State.auxStop_keeps
    | simp -zeta only [Keeps.mk_iff, Keeps.mkCom_iff, Keeps.mkLog_iff]
    | with_reducible apply Keeps.later
    | (extract_lets +onlyGivenNames u; refine (?_ : Keeps z u → _) ?_; rotate_left; unfold u; rotate_left; intro hu; try clear_value u)
    | (extract_lets +onlyGivenNames u; try clear_value u)
    | split

theorem State.setMask_keeps {z s : State} {x1} (h : Keeps z s) : Keeps z (State.setMask s x1) := by
  unfold State.setMask
  repeat' first
    | with_reducible assumption
    | with_reducible apply State.takeMask_keeps
    | simp -zeta only [Keeps.mk_iff, Keeps.mkCom_iff, Keeps.mkLog_iff]
    | with_reducible apply Keeps.ite

theorem execAuxPhaseMask_keeps {z s : State} {x0} (h : Keeps z s) : KeepsOut z (execAuxPhaseMask x0 s) := by
  unfold execAuxPhaseMask
  repeat' first
    | with_reducible assumption
    | (with_reducible refine serveOp_keeps (by with_reducible assumption) fun z t u hu => ?_; beta_reduce)
    | with_reducible apply refuse_keeps
    | with_reducible apply okWith_keeps
    | with_reducible apply State.setMask_keeps
    | (extract_lets +onlyGivenNames u; try clear_value u)
    | split

theorem execAuxV48Window_keeps {z s : State} {x0 x1} (h : Keeps z s) : KeepsOut z (execAuxV48Window x0 x1 s) := by
  unfold execAuxV48Window
  repeat' first
    | with_reducible assumption
    | with_reducible apply State.advance_keeps
    | with_reducible apply State.auxStop_keeps
    | with_reducible apply State.raise_keeps
    | with_reducible apply Keeps.out
    | (extract_lets +onlyGivenNames u; refine (?_ : Keeps z u → _) ?_; rotate_left; unfold u; rotate_left; intro hu; try clear_value u)
    | (extract_lets +onlyGivenNames u; try clear_value u)
    | split

theorem State.levelUp_keeps {z s : State} (h : Keeps z s) : Keeps z (State.levelUp s) := by
  unfold State.levelUp
  repeat' first
    | with_reducible assumption
    | with_reducible apply State.auxSettle_keeps
    | with_reducible apply State.phasesTo_keeps
    | with_reducible apply State.setF_keeps
    | with_reducible apply State.toLevel_keeps
    | simp -zeta only [Keeps.mk_iff, Keeps.mkCom_iff, Keeps.mkLog_iff]
    | with_reducible apply Keeps.ite

theorem State.levelDown_keeps {z s : State} (h : Keeps z s) : Keeps z (State.levelDown s) := by
  unfold State.levelDown
  repeat' first
    | with_reducible assumption
    | with_reducible apply State.bump_keeps
    | with_reducible apply State.event_keeps
    | with_reducible apply State.setF_keeps
    | with_reducible apply State.toLevel_keeps
    | simp -zeta only [Keeps.mk_iff, Keeps.mkCom_iff, Keeps.mkLog_iff]
    | with_reducible apply Keeps.ite

theorem execShedLevelChange_keeps {z s : State} {x0 x1} (h : Keeps z s) : KeepsOut z (execShedLevelChange x0 x1 s) := by
  unfold execShedLevelChange
  repeat' first
    | with_reducible assumption
    | with_reducible apply State.advance_keeps
    | with_reducible apply State.levelUp_keeps
    | with_reducible apply State.levelDown_keeps
    | with_reducible apply Keeps.out
    | (extract_lets +onlyGivenNames u; refine (?_ : Keeps z u → _) ?_; rotate_left; unfold u; rotate_left; intro hu; try clear_value u)
    | split

theorem State.rotate_keeps {z s : State} (h : Keeps z s) : Keeps z (Sys2Proof.Machine.State.rotate s) := by
  unfold State.rotate
  repeat' first
    | with_reducible assumption
    | with_reducible apply State.relevel_keeps
    | simp -zeta only [Keeps.mk_iff, Keeps.mkCom_iff, Keeps.mkLog_iff]

theorem execShedRotation_keeps {z s : State} {x0} (h : Keeps z s) : KeepsOut z (Sys2Proof.Machine.execShedRotation x0 s) := by
  unfold execShedRotation
  repeat' first
    | with_reducible assumption
    | with_reducible apply State.advance_keeps
    | with_reducible apply State.rotate_keeps
    | with_reducible apply Keeps.out
    | (extract_lets +onlyGivenNames u; refine (?_ : Keeps z u → _) ?_; rotate_left; unfold u; rotate_left; intro hu; try clear_value u)
    | split

theorem State.endShed_keeps {z s : State} (h : Keeps z s) : Keeps z (Sys2Proof.Machine.State.endShed s) := by
  unfold State.endShed
  repeat' first
    | with_reducible assumption
    | with_reducible apply State.phasesTo_keeps
    | with_reducible apply State.auxSettle_keeps
    | with_reducible apply State.refreshAvail_keeps
    | with_reducible apply State.bump_keeps
    | with_reducible apply State.event_keeps
    | with_reducible apply State.shedDone_keeps
    | simp -zeta only [Keeps.mk_iff, Keeps.mkCom_iff, Keeps.mkLog_iff]

theorem execSheddingEnd_keeps {z s : State} {x0} (h : Keeps z s) : KeepsOut z (execSheddingEnd x0 s) := by
  unfold execSheddingEnd
  repeat' first
    | with_reducible assumption
    | with_reducible apply State.advance_keeps
    | with_reducible apply State.endShed_keeps
    | with_reducible apply Keeps.out
    | (extract_lets +onlyGivenNames u; refine (?_ : Keeps z u → _) ?_; rotate_left; unfold u; rotate_left; intro hu; try clear_value u)
    | split

theorem State.startBurst_keeps {z s : State} (h : Keeps z s) : Keeps z (State.startBurst s) := by
  unfold State.startBurst
  repeat' first
    | with_reducible assumption
    | with_reducible apply State.phasesTo_keeps
    | with_reducible apply State.bump_keeps
    | simp -zeta only [Keeps.mk_iff, Keeps.mkCom_iff, Keeps.mkLog_iff]

theorem execBurstRestart_keeps {z s : State} {x0} (h : Keeps z s) : KeepsOut z (execBurstRestart x0 s) := by
  unfold execBurstRestart
  repeat' first
    | with_reducible assumption
    | with_reducible apply State.advance_keeps
    | with_reducible apply State.startBurst_keeps
    | with_reducible apply Keeps.out
    | with_reducible apply Keeps.ite

theorem execAuxRegulated_keeps {z s : State} {x0 x1} (h : Keeps z s) : KeepsOut z (execAuxRegulated x0 x1 s) := by
  unfold execAuxRegulated
  repeat' first
    | with_reducible assumption
    | with_reducible apply State.advance_keeps
    | with_reducible apply State.setB_keeps
    | simp -zeta only [Keeps.mk_iff, Keeps.mkCom_iff, Keeps.mkLog_iff]
    | with_reducible apply Keeps.out
    | (extract_lets +onlyGivenNames u; refine (?_ : Keeps z u → _) ?_; rotate_left; unfold u; rotate_left; intro hu; try clear_value u)
    | (extract_lets +onlyGivenNames u; try clear_value u)
    | split

theorem State.phaseOpen_keeps {z s : State} {x1} (h : Keeps z s) : Keeps z (State.phaseOpen s x1) := by
  unfold State.phaseOpen
  repeat' first
    | with_reducible assumption
    | with_reducible apply State.refreshAvail_keeps
    | with_reducible apply State.raise_keeps
    | simp -zeta only [Keeps.mk_iff, Keeps.mkCom_iff, Keeps.mkLog_iff]
    | with_reducible apply Keeps.ite

theorem execAuxSenseLost_keeps {z s : State} {x0 x1 x2 x3 x4} (h : Keeps z s) : KeepsOut z (execAuxSenseLost x0 x1 x2 x3 x4 s) := by
  unfold execAuxSenseLost
  repeat' first
    | with_reducible assumption
    | with_reducible apply State.advance_keeps
    | with_reducible apply State.phaseOpen_keeps
    | with_reducible apply State.raise_keeps
    | with_reducible apply State.event_keeps
    | with_reducible apply State.setB_keeps
    | with_reducible apply Keeps.out
    | with_reducible apply Keeps.ite
    | (extract_lets +onlyGivenNames u; refine (?_ : Keeps z u → _) ?_; rotate_left; unfold u; rotate_left; intro hu; try clear_value u)
    | (extract_lets +onlyGivenNames u; try clear_value u)
    | split

theorem execAuxOverload_keeps {z s : State} {x0 x1} (h : Keeps z s) : KeepsOut z (execAuxOverload x0 x1 s) := by
  unfold execAuxOverload
  repeat' first
    | with_reducible assumption
    | with_reducible apply State.advance_keeps
    | with_reducible apply State.raise_keeps
    | with_reducible apply Keeps.out
    | (extract_lets +onlyGivenNames u; refine (?_ : Keeps z u → _) ?_; rotate_left; unfold u; rotate_left; intro hu; try clear_value u)
    | split

theorem execAuxVoutHigh_keeps {z s : State} {x0 x1} (h : Keeps z s) : KeepsOut z (execAuxVoutHigh x0 x1 s) := by
  unfold execAuxVoutHigh
  repeat' first
    | with_reducible assumption
    | with_reducible apply State.advance_keeps
    | with_reducible apply State.raise_keeps
    | with_reducible apply Keeps.out
    | (extract_lets +onlyGivenNames u; refine (?_ : Keeps z u → _) ?_; rotate_left; unfold u; rotate_left; intro hu; try clear_value u)
    | split

theorem execPrechargeDone_keeps {z s : State} {x0 x1} (h : Keeps z s) : KeepsOut z (execPrechargeDone x0 x1 s) := by
  unfold execPrechargeDone
  repeat' first
    | with_reducible assumption
    | with_reducible apply State.advance_keeps
    | with_reducible apply State.event_keeps
    | with_reducible apply State.setF_keeps
    | with_reducible apply Keeps.out
    | (extract_lets +onlyGivenNames u; refine (?_ : Keeps z u → _) ?_; rotate_left; unfold u; rotate_left; intro hu; try clear_value u)
    | (extract_lets +onlyGivenNames u; try clear_value u)
    | split

theorem execAuxPrechargeTimeout_keeps {z s : State} {x0} (h : Keeps z s) : KeepsOut z (execAuxPrechargeTimeout x0 s) := by
  unfold execAuxPrechargeTimeout
  repeat' first
    | with_reducible assumption
    | with_reducible apply State.advance_keeps
    | with_reducible apply State.auxStop_keeps
    | with_reducible apply State.raise_keeps
    | with_reducible apply Keeps.out
    | (extract_lets +onlyGivenNames u; refine (?_ : Keeps z u → _) ?_; rotate_left; unfold u; rotate_left; intro hu; try clear_value u)
    | split

end Sys2Proof.Machine
end

