-- ==== Sys2Proof/Laws/KeepsAuxSlots.lean ====
section
/-! SUPPORT. The operations and meanings of Machine/AuxSlots.lean keep what every step keeps. -/

set_option linter.unreachableTactic false
set_option linter.unusedTactic false
set_option linter.unusedSimpArgs false
set_option linter.tactic.unusedName false
set_option linter.unusedVariables false

namespace Sys2Proof.Machine
open Sys2Proof

theorem State.phaseHeat_keeps {z s : State} {x1} (h : Keeps z s) : Keeps z (State.phaseHeat s x1) := by
  unfold State.phaseHeat
  repeat' first
    | with_reducible assumption
    | with_reducible apply State.refreshAvail_keeps
    | with_reducible apply State.raise_keeps
    | with_reducible apply State.event_keeps
    | simp -zeta only [Keeps.mk_iff, Keeps.mkCom_iff, Keeps.mkLog_iff]
    | with_reducible apply Keeps.ite

theorem State.phaseLatch_keeps {z s : State} {x1} (h : Keeps z s) : Keeps z (State.phaseLatch s x1) := by
  unfold State.phaseLatch
  repeat' first
    | with_reducible assumption
    | with_reducible apply State.refreshAvail_keeps
    | with_reducible apply State.raise_keeps
    | simp -zeta only [Keeps.mk_iff, Keeps.mkCom_iff, Keeps.mkLog_iff]
    | with_reducible apply Keeps.ite
    | (extract_lets +onlyGivenNames u; try clear_value u)
    | split

theorem State.phaseTest_keeps {z s : State} {x1} (h : Keeps z s) : Keeps z (State.phaseTest s x1) := by
  unfold State.phaseTest
  repeat' first
    | with_reducible assumption
    | with_reducible apply State.phaseOpen_keeps
    | simp -zeta only [Keeps.mk_iff, Keeps.mkCom_iff, Keeps.mkLog_iff]
    | with_reducible apply Keeps.ite

theorem State.phaseCare_keeps {z s : State} (h : Keeps z s) : Keeps z (Sys2Proof.Machine.State.phaseCare s) := by
  unfold State.phaseCare
  repeat' first
    | with_reducible assumption
    | with_reducible apply State.refreshAvail_keeps
    | with_reducible apply State.phaseHeat_keeps
    | with_reducible apply State.phaseLatch_keeps
    | (with_reducible refine Keeps.foldl (fun x a hx => ?_) ?_ _ <;> beta_reduce)

theorem State.phaseWatch_keeps {z s : State} (h : Keeps z s) : Keeps z (State.phaseWatch s) := by
  unfold State.phaseWatch
  repeat' first
    | with_reducible assumption
    | with_reducible apply State.phaseTest_keeps
    | with_reducible apply State.phaseHeat_keeps
    | with_reducible apply State.phaseLatch_keeps
    | (with_reducible refine Keeps.foldl (fun x a hx => ?_) ?_ _ <;> beta_reduce)

theorem State.rejoin_keeps {z s : State} (h : Keeps z s) : Keeps z (State.rejoin s) := by
  unfold State.rejoin
  repeat' first
    | with_reducible assumption
    | with_reducible apply State.setF_keeps
    | with_reducible apply State.setB_keeps
    | with_reducible apply State.phasesTo_keeps
    | with_reducible apply State.setFl_keeps
    | with_reducible apply State.auxSettle_keeps
    | with_reducible apply State.event_keeps
    | with_reducible apply State.bump_keeps
    | simp -zeta only [Keeps.mk_iff, Keeps.mkCom_iff, Keeps.mkLog_iff]
    | with_reducible apply Keeps.ite
    | (with_reducible refine Keeps.foldl (fun x a hx => ?_) ?_ _ <;> beta_reduce)

theorem State.brakeOrRejoin_keeps {z s : State} (h : Keeps z s) : Keeps z (State.brakeOrRejoin s) := by
  unfold State.brakeOrRejoin
  repeat' first
    | with_reducible assumption
    | with_reducible apply State.setF_keeps
    | with_reducible apply State.phasesTo_keeps
    | with_reducible apply State.auxSettle_keeps
    | with_reducible apply State.rejoin_keeps
    | with_reducible apply State.bump_keeps
    | with_reducible apply State.event_keeps
    | simp -zeta only [Keeps.mk_iff, Keeps.mkCom_iff, Keeps.mkLog_iff]
    | with_reducible apply Keeps.ite

theorem State.burstStep_keeps {z s : State} (h : Keeps z s) : Keeps z (State.burstStep s) := by
  unfold State.burstStep
  repeat' first
    | with_reducible assumption
    | with_reducible apply State.startBurst_keeps
    | with_reducible apply State.phasesTo_keeps
    | simp -zeta only [Keeps.mk_iff, Keeps.mkCom_iff, Keeps.mkLog_iff]
    | with_reducible apply Keeps.ite

theorem State.auxPi_keeps {z s : State} {x1 x2 x3 x4 x5} (h : Keeps z s) : Keeps z (State.auxPi s x1 x2 x3 x4 x5).2 := by
  unfold State.auxPi
  repeat' first
    | with_reducible assumption
    | with_reducible apply State.progPi_keeps

theorem State.writeMaster_keeps {z s : State} {p} (h : Keeps z s) : Keeps z (State.writeMaster s p) := by
  unfold State.writeMaster
  have ha : Keeps z (s.setF F.AUX_PERIOD p) := State.setF_keeps h
  dsimp only
  split
  · exact ha.shadowed rfl rfl rfl rfl rfl rfl rfl (by simp [State.heldWrites])
  · exact State.setF_keeps ha

theorem State.moveTrims_keeps {z s : State} (h : Keeps z s) : Keeps z (State.moveTrims s) := by
  unfold State.moveTrims
  repeat' first
    | with_reducible assumption
    | with_reducible apply State.setQ_keeps
    | simp -zeta only [Keeps.mk_iff, Keeps.mkCom_iff, Keeps.mkLog_iff]
    | with_reducible apply Keeps.ite
    | (with_reducible refine Keeps.foldl (fun x a hx => ?_) ?_ _ <;> beta_reduce)

theorem State.regulate_keeps {z s : State} (h : Keeps z s) : Keeps z (Sys2Proof.Machine.State.regulate s) := by
  unfold State.regulate
  repeat' first
    | with_reducible assumption
    | with_reducible apply State.auxPi_keeps
    | with_reducible apply State.setQ_keeps
    | with_reducible apply State.setFl_keeps
    | with_reducible apply State.setEng_keeps
    | with_reducible apply State.writeMaster_keeps
    | with_reducible apply State.moveTrims_keeps
    | simp -zeta only [Keeps.mk_iff, Keeps.mkCom_iff, Keeps.mkLog_iff]
    | with_reducible apply Keeps.ite
    | (extract_lets +onlyGivenNames u; refine (?_ : Keeps z u → _) ?_; rotate_left; unfold u; rotate_left; intro hu; try clear_value u)
    | (extract_lets +onlyGivenNames u; try clear_value u)

theorem State.rebaseVset_keeps {z s : State} (h : Keeps z s) : Keeps z (State.rebaseVset s) := by
  unfold State.rebaseVset
  repeat' first
    | with_reducible assumption
    | simp -zeta only [Keeps.mk_iff, Keeps.mkCom_iff, Keeps.mkLog_iff]

theorem State.preBuck_keeps {z s : State} (h : Keeps z s) : Keeps z (Sys2Proof.Machine.State.preBuck s) := by
  unfold State.preBuck
  repeat' first
    | with_reducible assumption
    | with_reducible apply State.belowMin_keeps
    | with_reducible apply State.phasesTo_keeps
    | with_reducible apply State.writeMaster_keeps
    | with_reducible apply State.bankPi_keeps
    | with_reducible apply State.stageLeg_keeps
    | simp -zeta only [Keeps.mk_iff, Keeps.mkCom_iff, Keeps.mkLog_iff]
    | with_reducible apply Keeps.ite
    | (with_reducible refine Keeps.foldl (fun x a hx => ?_) ?_ _ <;> beta_reduce)
    | (extract_lets +onlyGivenNames u; try clear_value u)
    | split

theorem State.slotLE2_keeps {z s : State} (h : Keeps z s) : Keeps z (Sys2Proof.Machine.State.slotLE2 s) := by
  unfold State.slotLE2
  repeat' first
    | with_reducible assumption
    | with_reducible apply State.auxSettle_keeps
    | with_reducible apply State.takePermit_keeps
    | with_reducible apply State.phaseWatch_keeps
    | with_reducible apply State.rebaseVset_keeps
    | with_reducible apply State.setF_keeps
    | with_reducible apply State.burstStep_keeps
    | with_reducible apply State.brakeOrRejoin_keeps
    | with_reducible apply State.sampleStage_keeps
    | with_reducible apply State.regulate_keeps
    | with_reducible apply State.preBuck_keeps
    | simp -zeta only [Keeps.mk_iff, Keeps.mkCom_iff, Keeps.mkLog_iff]
    | with_reducible apply Keeps.ite
    | (extract_lets +onlyGivenNames u; refine (?_ : Keeps z u → _) ?_; rotate_left; unfold u; rotate_left; intro hu; try clear_value u)

theorem State.dcxRun_keeps {z s : State} {x1} (h : Keeps z s) : Keeps z (State.dcxRun s x1) := by
  unfold State.dcxRun
  repeat' first
    | with_reducible assumption
    | with_reducible apply State.dcxWord_keeps

theorem State.firstLegs_keeps {z s : State} (h : Keeps z s) : Keeps z (Sys2Proof.Machine.State.firstLegs s) := by
  unfold State.firstLegs
  repeat' first
    | with_reducible assumption
    | with_reducible apply State.setEng_keeps
    | with_reducible apply State.compare_keeps
    | (with_reducible refine Keeps.foldl (fun x a hx => ?_) ?_ _ <;> beta_reduce)
    | split

theorem State.startBuck_keeps {z s : State} (h : Keeps z s) : Keeps z (Sys2Proof.Machine.State.startBuck s) := by
  unfold State.startBuck
  repeat' first
    | with_reducible assumption
    | with_reducible apply State.setF_keeps
    | with_reducible apply State.dcxMode_keeps
    | with_reducible apply State.firstLegs_keeps
    | with_reducible apply State.runCars_keeps
    | with_reducible apply State.writeMaster_keeps
    | with_reducible apply State.belowMin_keeps
    | with_reducible apply State.phasesTo_keeps
    | simp -zeta only [Keeps.mk_iff, Keeps.mkCom_iff, Keeps.mkLog_iff]

theorem State.softStep_keeps {z s : State} {x1} (h : Keeps z s) : Keeps z (Sys2Proof.Machine.State.softStep s x1) := by
  unfold State.softStep
  repeat' first
    | with_reducible assumption
    | with_reducible apply State.softWords_keeps
    | with_reducible apply State.dcxPut_keeps
    | with_reducible apply State.startBuck_keeps
    | simp -zeta only [Keeps.mk_iff, Keeps.mkCom_iff, Keeps.mkLog_iff]
    | with_reducible apply Keeps.ite
    | (extract_lets +onlyGivenNames u; refine (?_ : Keeps z u → _) ?_; rotate_left; unfold u; rotate_left; intro hu; try clear_value u)
    | (extract_lets +onlyGivenNames u; try clear_value u)
    | split

theorem execPeriodStart_keeps {z s : State} {x0 x1} (h : Keeps z s) : KeepsOut z (Sys2Proof.Machine.execPeriodStart x0 x1 s) := by
  unfold execPeriodStart
  repeat' first
    | with_reducible assumption
    | with_reducible apply State.advance_keeps
    | with_reducible apply State.stopCar_keeps
    | with_reducible apply State.softStep_keeps
    | with_reducible apply State.startPeriod_keeps
    | with_reducible apply Keeps.out
    | (extract_lets +onlyGivenNames u; refine (?_ : Keeps z u → _) ?_; rotate_left; unfold u; rotate_left; intro hu; try clear_value u)
    | (extract_lets +onlyGivenNames u; try clear_value u)
    | split

theorem State.preWidth_keeps {z s : State} {x1} (h : Keeps z s) : Keeps z (State.preWidth s x1).2 := by
  unfold State.preWidth
  repeat' first
    | with_reducible assumption
    | with_reducible apply State.presetPi_keeps
    | with_reducible apply State.progPi_keeps
    | simp -zeta only [Keeps.mk_iff, Keeps.mkCom_iff, Keeps.mkLog_iff]
    | with_reducible apply Keeps.ite
    | (extract_lets +onlyGivenNames u; refine (?_ : Keeps z u → _) ?_; rotate_left; unfold u; rotate_left; intro hu; try clear_value u)
    | (extract_lets +onlyGivenNames u; try clear_value u)

theorem State.preDcx_keeps {z s : State} {x1} (h : Keeps z s) : Keeps z (Sys2Proof.Machine.State.preDcx s x1) := by
  unfold State.preDcx
  repeat' first
    | with_reducible assumption
    | with_reducible apply State.dcxPut_keeps
    | with_reducible apply State.showModes_keeps
    | with_reducible apply State.dcxMode_keeps
    | with_reducible apply State.preWidth_keeps
    | with_reducible apply State.dcxWord_keeps
    | with_reducible apply State.setF_keeps
    | simp -zeta only [Keeps.mk_iff, Keeps.mkCom_iff, Keeps.mkLog_iff]
    | with_reducible apply Keeps.ite

theorem State.slotLE9_keeps {z s : State} (h : Keeps z s) : Keeps z (State.slotLE9 s) := by
  unfold State.slotLE9
  repeat' first
    | with_reducible assumption
    | with_reducible apply State.dcxWord_keeps
    | with_reducible apply State.dcxRun_keeps
    | with_reducible apply State.startBuck_keeps
    | with_reducible apply State.preDcx_keeps
    | simp -zeta only [Keeps.mk_iff, Keeps.mkCom_iff, Keeps.mkLog_iff]
    | with_reducible apply Keeps.ite
    | (extract_lets +onlyGivenNames u; refine (?_ : Keeps z u → _) ?_; rotate_left; unfold u; rotate_left; intro hu; try clear_value u)
    | (extract_lets +onlyGivenNames u; try clear_value u)
    | split

end Sys2Proof.Machine
end

