-- ==== Sys2Proof/Laws/KeepsSafetyInputs.lean ====
section
/-! SUPPORT. The operations and meanings of Machine/SafetyInputs.lean keep what every step keeps. -/

set_option linter.unreachableTactic false
set_option linter.unusedTactic false
set_option linter.unusedSimpArgs false
set_option linter.tactic.unusedName false
set_option linter.unusedVariables false

namespace Sys2Proof.Machine
open Sys2Proof

theorem State.setPair_keeps {z s : State} {x1 x2} (h : Keeps z s) : Keeps z (State.setPair s x1 x2) := by
  unfold State.setPair
  repeat' first
    | with_reducible assumption
    | with_reducible apply State.setF_keeps
    | with_reducible apply State.setB_keeps
    | simp -zeta only [Keeps.mk_iff, Keeps.mkCom_iff, Keeps.mkLog_iff]
    | with_reducible apply Keeps.ite

theorem State.sinFault_keeps {z s : State} {x1 x2} (h : Keeps z s) : Keeps z (State.sinFault s x1 x2) := by
  unfold State.sinFault
  repeat' first
    | with_reducible assumption
    | with_reducible apply State.setPair_keeps
    | with_reducible apply State.raise_keeps
    | with_reducible apply State.event_keeps
    | with_reducible apply Keeps.ite

theorem State.startPulse_keeps {z s : State} {x1} (h : Keeps z s) : Keeps z (Sys2Proof.Machine.State.startPulse s x1) := by
  unfold State.startPulse
  repeat' first
    | with_reducible assumption
    | simp -zeta only [Keeps.mk_iff, Keeps.mkCom_iff, Keeps.mkLog_iff]
    | (extract_lets +onlyGivenNames u; try clear_value u)

theorem execTestPulse_keeps {z s : State} {x0 x1} (h : Keeps z s) : KeepsOut z (Sys2Proof.Machine.execTestPulse x0 x1 s) := by
  unfold execTestPulse
  repeat' first
    | with_reducible assumption
    | with_reducible apply State.advance_keeps
    | with_reducible apply State.startPulse_keeps
    | with_reducible apply Keeps.out
    | (extract_lets +onlyGivenNames u; refine (?_ : Keeps z u → _) ?_; rotate_left; unfold u; rotate_left; intro hu; try clear_value u)
    | split

theorem State.samplePair_keeps {z s : State} {x1 x2 x3} (h : Keeps z s) : Keeps z (State.samplePair s x1 x2 x3) := by
  unfold State.samplePair
  repeat' first
    | with_reducible assumption
    | with_reducible apply State.setPair_keeps
    | with_reducible apply State.sinFault_keeps
    | simp -zeta only [Keeps.mk_iff, Keeps.mkCom_iff, Keeps.mkLog_iff]
    | with_reducible apply Keeps.ite

theorem execSinSample_keeps {z s : State} {x0 x1 x2} (h : Keeps z s) : KeepsOut z (Sys2Proof.Machine.execSinSample x0 x1 x2 s) := by
  unfold execSinSample
  repeat' first
    | with_reducible assumption
    | with_reducible apply State.advance_keeps
    | with_reducible apply State.samplePair_keeps
    | simp -zeta only [Keeps.mk_iff, Keeps.mkCom_iff, Keeps.mkLog_iff]
    | with_reducible apply Keeps.out
    | (with_reducible refine Keeps.foldl (fun x a hx => ?_) ?_ _ <;> beta_reduce)
    | (extract_lets +onlyGivenNames u; refine (?_ : Keeps z u → _) ?_; rotate_left; unfold u; rotate_left; intro hu; try clear_value u)
    | (extract_lets +onlyGivenNames u; try clear_value u)
    | split

theorem State.sinRequest_keeps {z s : State} {x1} (h : Keeps z s) : Keeps z (State.sinRequest s x1) := by
  unfold State.sinRequest
  repeat' first
    | with_reducible assumption
    | with_reducible apply State.raise_keeps
    | with_reducible apply Keeps.ite

theorem State.debounced_keeps {z s : State} {x1 x2 x3 x4} (h : Keeps z s) : Keeps z (State.debounced s x1 x2 x3 x4) := by
  unfold State.debounced
  repeat' first
    | with_reducible assumption
    | with_reducible apply State.setPair_keeps

theorem execSinDebounce_keeps {z s : State} {x0 x1 x2 x3 x4} (h : Keeps z s) : KeepsOut z (execSinDebounce x0 x1 x2 x3 x4 s) := by
  unfold execSinDebounce
  repeat' first
    | with_reducible assumption
    | with_reducible apply State.advance_keeps
    | with_reducible apply State.debounced_keeps
    | with_reducible apply State.sinRequest_keeps
    | with_reducible apply Keeps.out
    | with_reducible apply Keeps.ite
    | (extract_lets +onlyGivenNames u; refine (?_ : Keeps z u → _) ?_; rotate_left; unfold u; rotate_left; intro hu; try clear_value u)
    | split

theorem execSinDiscrepancy_keeps {z s : State} {x0 x1} (h : Keeps z s) : KeepsOut z (execSinDiscrepancy x0 x1 s) := by
  unfold execSinDiscrepancy
  repeat' first
    | with_reducible assumption
    | with_reducible apply State.advance_keeps
    | with_reducible apply State.sinFault_keeps
    | with_reducible apply Keeps.out
    | with_reducible apply Keeps.ite
    | (extract_lets +onlyGivenNames u; refine (?_ : Keeps z u → _) ?_; rotate_left; unfold u; rotate_left; intro hu; try clear_value u)
    | split

theorem State.markChat_keeps {z s : State} {x1 x2} (h : Keeps z s) : Keeps z (State.markChat s x1 x2) := by
  unfold State.markChat
  repeat' first
    | with_reducible assumption
    | with_reducible apply State.setPair_keeps
    | with_reducible apply Keeps.ite

theorem execChatter_keeps {z s : State} {x0 x1 x2 x3} (h : Keeps z s) : KeepsOut z (execChatter x0 x1 x2 x3 s) := by
  unfold execChatter
  repeat' first
    | with_reducible assumption
    | with_reducible apply State.advance_keeps
    | with_reducible apply State.sinFault_keeps
    | with_reducible apply State.markChat_keeps
    | with_reducible apply Keeps.out
    | (extract_lets +onlyGivenNames u; refine (?_ : Keeps z u → _) ?_; rotate_left; unfold u; rotate_left; intro hu; try clear_value u)
    | split

theorem execTpsOverload_keeps {z s : State} {x0 x1 x2} (h : Keeps z s) : KeepsOut z (execTpsOverload x0 x1 x2 s) := by
  unfold execTpsOverload
  repeat' first
    | with_reducible assumption
    | with_reducible apply State.advance_keeps
    | with_reducible apply State.setPair_keeps
    | with_reducible apply State.raise_keeps
    | with_reducible apply State.event_keeps
    | with_reducible apply Keeps.out
    | (with_reducible refine Keeps.foldl (fun x a hx => ?_) ?_ _ <;> beta_reduce)
    | (extract_lets +onlyGivenNames u; refine (?_ : Keeps z u → _) ?_; rotate_left; unfold u; rotate_left; intro hu; try clear_value u)
    | (extract_lets +onlyGivenNames u; try clear_value u)
    | split

theorem State.keyLevel_keeps {z s : State} {x1} (h : Keeps z s) : Keeps z (State.keyLevel s x1) := by
  unfold State.keyLevel
  repeat' first
    | with_reducible assumption
    | simp -zeta only [Keeps.mk_iff, Keeps.mkCom_iff, Keeps.mkLog_iff]

theorem execRstreqPress_keeps {z s : State} {x0} (h : Keeps z s) : KeepsOut z (execRstreqPress x0 s) := by
  unfold execRstreqPress
  repeat' first
    | with_reducible assumption
    | with_reducible apply State.keyLevel_keeps
    | with_reducible apply State.advance_keeps
    | with_reducible apply State.setB_keeps
    | simp -zeta only [Keeps.mk_iff, Keeps.mkCom_iff, Keeps.mkLog_iff]
    | with_reducible apply Keeps.out
    | (extract_lets +onlyGivenNames u; refine (?_ : Keeps z u → _) ?_; rotate_left; unfold u; rotate_left; intro hu; try clear_value u)
    | (extract_lets +onlyGivenNames u; try clear_value u)
    | split

theorem State.rstReleased_keeps {z s : State} {x1} (h : Keeps z s) : Keeps z (State.rstReleased s x1) := by
  unfold State.rstReleased
  repeat' first
    | with_reducible assumption
    | with_reducible apply State.setB_keeps
    | with_reducible apply State.setF_keeps
    | simp -zeta only [Keeps.mk_iff, Keeps.mkCom_iff, Keeps.mkLog_iff]
    | (extract_lets +onlyGivenNames u; refine (?_ : Keeps z u → _) ?_; rotate_left; unfold u; rotate_left; intro hu; try clear_value u)

theorem execRstreqRelease_keeps {z s : State} {x0} (h : Keeps z s) : KeepsOut z (execRstreqRelease x0 s) := by
  unfold execRstreqRelease
  repeat' first
    | with_reducible assumption
    | with_reducible apply State.keyLevel_keeps
    | with_reducible apply State.advance_keeps
    | with_reducible apply State.rstReleased_keeps
    | with_reducible apply State.raise_keeps
    | with_reducible apply State.event_keeps
    | with_reducible apply State.resetAndBoot_keeps
    | simp -zeta only [Keeps.mk_iff, Keeps.mkCom_iff, Keeps.mkLog_iff]
    | with_reducible apply Keeps.out
    | (extract_lets +onlyGivenNames u; refine (?_ : Keeps z u → _) ?_; rotate_left; unfold u; rotate_left; intro hu; try clear_value u)
    | (extract_lets +onlyGivenNames u; try clear_value u)
    | split

theorem execResetStuck_keeps {z s : State} {x0} (h : Keeps z s) : KeepsOut z (execResetStuck x0 s) := by
  unfold execResetStuck
  repeat' first
    | with_reducible assumption
    | with_reducible apply State.advance_keeps
    | with_reducible apply State.raise_keeps
    | with_reducible apply State.event_keeps
    | with_reducible apply State.setB_keeps
    | with_reducible apply Keeps.out
    | (extract_lets +onlyGivenNames u; refine (?_ : Keeps z u → _) ?_; rotate_left; unfold u; rotate_left; intro hu; try clear_value u)
    | split

end Sys2Proof.Machine
end

