-- ==== Sys2Proof/Laws/KeepsFaultLog.lean ====
section
/-! SUPPORT. The operations and meanings of Machine/FaultLog.lean keep what every step keeps. -/

set_option linter.unreachableTactic false
set_option linter.unusedTactic false
set_option linter.unusedSimpArgs false
set_option linter.tactic.unusedName false
set_option linter.unusedVariables false

namespace Sys2Proof.Machine
open Sys2Proof

theorem execFaultLogRead_keeps {z s : State} {x0} (h : Keeps z s) : KeepsOut z (execFaultLogRead x0 s) := by
  unfold execFaultLogRead
  repeat' first
    | with_reducible assumption
    | (with_reducible refine serveOp_keeps (by with_reducible assumption) fun z t u hu => ?_; beta_reduce)
    | with_reducible apply refuse_keeps
    | with_reducible apply okWith_keeps
    | (extract_lets +onlyGivenNames u; try clear_value u)
    | split

theorem execFaultFifoDrain_keeps {z s : State} {t} (h : Keeps z s) : KeepsOut z (execFaultFifoDrain t s) := by
  unfold execFaultFifoDrain
  dsimp only
  split
  · exact State.advance_keeps h
  · refine Keeps.out (Keeps.foldl (fun x a hx => State.logPut_keeps hx) ?_ _)
    exact (State.advance_keeps (t := t) h).logged rfl rfl rfl rfl rfl id (fun _ => Nat.zero_le _) rfl

theorem State.ackTo_keeps {z s : State} {a} (h : Keeps z s) : Keeps z (State.ackTo s a) := by
  unfold State.ackTo
  dsimp only
  have k : Keeps z ({ s with
      log := { s.log with recs := s.log.recs.map fun r => if s.covers a r then { r with acked := true } else r, gone := s.log.gone.filter fun r => !s.covers a r }
      gate := { s.gate with latches := s.gate.latches.filter fun l => l.driver || !s.coversLatch a l } } : State).showLatches :=
    State.showLatches_keeps (h.logged rfl rfl rfl rfl rfl (fun hr => by simpa using hr) id rfl)
  split
  · exact State.setF_keeps k
  · exact k

end Sys2Proof.Machine
end

