-- ==== Sys2Proof/Laws/KeepsActuators.lean ====
section
/-! SUPPORT. The operations and meanings of Machine/Actuators.lean keep what every step keeps. -/

set_option linter.unreachableTactic false
set_option linter.unusedTactic false
set_option linter.unusedSimpArgs false
set_option linter.tactic.unusedName false
set_option linter.unusedVariables false

namespace Sys2Proof.Machine
open Sys2Proof

theorem State.setAct_keeps {z s : State} {x1 x2} (h : Keeps z s) : Keeps z (State.setAct s x1 x2) := by
  unfold State.setAct
  repeat' first
    | with_reducible assumption
    | simp -zeta only [Keeps.mk_iff, Keeps.mkCom_iff, Keeps.mkLog_iff]
    | with_reducible apply Keeps.ite

theorem State.showPos_keeps {z s : State} {x1} (h : Keeps z s) : Keeps z (State.showPos s x1) := by
  unfold State.showPos
  repeat' first
    | with_reducible assumption
    | with_reducible apply State.setQ_keeps
    | with_reducible apply Keeps.ite

theorem State.noLeg_keeps {z s : State} {x1 x2} (h : Keeps z s) : Keeps z (Sys2Proof.Machine.State.noLeg s x1 x2) := by
  unfold State.noLeg
  repeat' first
    | with_reducible assumption
    | with_reducible apply State.setEng_keeps
    | with_reducible apply Keeps.ite

theorem State.motionOn_keeps {z s : State} {x1} (h : Keeps z s) : Keeps z (Sys2Proof.Machine.State.motionOn s x1) := by
  unfold State.motionOn
  repeat' first
    | with_reducible assumption
    | with_reducible apply State.setAct_keeps
    | with_reducible apply State.showModes_keeps
    | with_reducible apply State.noLeg_keeps
    | with_reducible apply State.compare_keeps
    | with_reducible apply State.setMode_keeps
    | with_reducible apply Keeps.ite
    | (with_reducible refine Keeps.foldl (fun x a hx => ?_) ?_ _ <;> beta_reduce)

theorem State.motionEnding_keeps {z s : State} {x1} (h : Keeps z s) : Keeps z (State.motionEnding s x1) := by
  unfold State.motionEnding
  repeat' first
    | with_reducible assumption
    | with_reducible apply State.setAct_keeps
    | with_reducible apply Keeps.ite

theorem State.motionCut_keeps {z s : State} {x1} (h : Keeps z s) : Keeps z (State.motionCut s x1) := by
  unfold State.motionCut
  repeat' first
    | with_reducible assumption
    | with_reducible apply State.showModes_keeps
    | with_reducible apply State.stopSwitching_keeps
    | with_reducible apply State.setAct_keeps

theorem State.planShift_keeps {z s : State} {x1 x2 x3 x4} (h : Keeps z s) : Keeps z (State.planShift s x1 x2 x3 x4) := by
  unfold State.planShift
  repeat' first
    | with_reducible assumption
    | with_reducible apply State.motionOn_keeps
    | simp -zeta only [Keeps.mk_iff, Keeps.mkCom_iff, Keeps.mkLog_iff]
    | with_reducible apply Keeps.ite

theorem State.beginShift_keeps {z s : State} {x1 x2} (h : Keeps z s) : Keeps z (State.beginShift s x1 x2) := by
  unfold State.beginShift
  repeat' first
    | with_reducible assumption
    | with_reducible apply State.planShift_keeps
    | simp -zeta only [Keeps.mk_iff, Keeps.mkCom_iff, Keeps.mkLog_iff]
    | with_reducible apply Keeps.ite

theorem execShiftTo_keeps {z s : State} {x0} (h : Keeps z s) : KeepsOut z (execShiftTo x0 s) := by
  unfold execShiftTo
  repeat' first
    | with_reducible assumption
    | (with_reducible refine serveOp_keeps (by with_reducible assumption) fun z t u hu => ?_; beta_reduce)
    | with_reducible apply refuse_keeps
    | with_reducible apply State.beginShift_keeps
    | with_reducible apply Keeps.done
    | (extract_lets +onlyGivenNames u; try clear_value u)
    | split

theorem State.takeSegment_keeps {z s : State} {x1 x2 x3} (h : Keeps z s) : Keeps z (State.takeSegment s x1 x2 x3) := by
  unfold State.takeSegment
  repeat' first
    | with_reducible assumption
    | with_reducible apply State.setQ_keeps
    | with_reducible apply State.showVspd_keeps
    | with_reducible apply State.setF_keeps
    | simp -zeta only [Keeps.mk_iff, Keeps.mkCom_iff, Keeps.mkLog_iff]
    | with_reducible apply Keeps.ite

theorem execProfileSegment_keeps {z s : State} {x0} (h : Keeps z s) : KeepsOut z (execProfileSegment x0 s) := by
  unfold execProfileSegment
  dsimp only
  repeat' first
    | with_reducible assumption
    | with_reducible apply State.advance_keeps
    | with_reducible apply State.takeSegment_keeps
    | with_reducible apply Keeps.out
    | with_reducible apply Keeps.ite
    | split

theorem State.beginWait_keeps {z s : State} {x1} (h : Keeps z s) : Keeps z (Sys2Proof.Machine.State.beginWait s x1) := by
  unfold State.beginWait
  repeat' first
    | with_reducible assumption
    | with_reducible apply State.setF_keeps
    | with_reducible apply State.setAct_keeps

theorem State.motionEnded_keeps {z s : State} {x1} (h : Keeps z s) : Keeps z (Sys2Proof.Machine.State.motionEnded s x1) := by
  unfold State.motionEnded
  repeat' first
    | with_reducible assumption
    | with_reducible apply State.setAct_keeps
    | with_reducible apply State.beginWait_keeps
    | with_reducible apply State.showModes_keeps
    | with_reducible apply State.noLeg_keeps
    | with_reducible apply State.setMode_keeps
    | with_reducible apply Keeps.ite
    | (with_reducible refine Keeps.foldl (fun x a hx => ?_) ?_ _ <;> beta_reduce)

theorem execMotionEnd_keeps {z s : State} {x0 x1} (h : Keeps z s) : KeepsOut z (execMotionEnd x0 x1 s) := by
  unfold execMotionEnd
  repeat' first
    | with_reducible assumption
    | with_reducible apply State.advance_keeps
    | with_reducible apply State.motionEnded_keeps
    | with_reducible apply Keeps.out
    | (extract_lets +onlyGivenNames u; refine (?_ : Keeps z u → _) ?_; rotate_left; unfold u; rotate_left; intro hu; try clear_value u)
    | split

theorem State.shiftDone_keeps {z s : State} (h : Keeps z s) : Keeps z (State.shiftDone s) := by
  unfold State.shiftDone
  repeat' first
    | with_reducible assumption
    | with_reducible apply State.setF_keeps
    | with_reducible apply State.shiftIdle_keeps
    | with_reducible apply State.setB_keeps
    | with_reducible apply State.motionEnding_keeps
    | with_reducible apply State.bump_keeps
    | with_reducible apply State.event_keeps
    | with_reducible apply Keeps.ite

theorem execShiftTargetReached_keeps {z s : State} {x0 x1} (h : Keeps z s) : KeepsOut z (execShiftTargetReached x0 x1 s) := by
  unfold execShiftTargetReached
  repeat' first
    | with_reducible assumption
    | with_reducible apply State.advance_keeps
    | with_reducible apply State.shiftDone_keeps
    | with_reducible apply Keeps.out
    | (extract_lets +onlyGivenNames u; refine (?_ : Keeps z u → _) ?_; rotate_left; unfold u; rotate_left; intro hu; try clear_value u)
    | split

theorem State.shiftTimeout_keeps {z s : State} (h : Keeps z s) : Keeps z (State.shiftTimeout s) := by
  unfold State.shiftTimeout
  repeat' first
    | with_reducible assumption
    | with_reducible apply State.shiftIdle_keeps
    | with_reducible apply State.raise_keeps
    | with_reducible apply State.motionEnding_keeps
    | simp -zeta only [Keeps.mk_iff, Keeps.mkCom_iff, Keeps.mkLog_iff]
    | with_reducible apply Keeps.ite

theorem execActShiftTimeout_keeps {z s : State} {x0} (h : Keeps z s) : KeepsOut z (execActShiftTimeout x0 s) := by
  unfold execActShiftTimeout
  repeat' first
    | with_reducible assumption
    | with_reducible apply State.advance_keeps
    | with_reducible apply State.shiftTimeout_keeps
    | with_reducible apply Keeps.out
    | (extract_lets +onlyGivenNames u; refine (?_ : Keeps z u → _) ?_; rotate_left; unfold u; rotate_left; intro hu; try clear_value u)
    | split

theorem State.actFault_keeps {z s : State} {x1 x2} (h : Keeps z s) : Keeps z (State.actFault s x1 x2) := by
  unfold State.actFault
  repeat' first
    | with_reducible assumption
    | with_reducible apply State.event_keeps
    | with_reducible apply State.raise_keeps
    | with_reducible apply State.setAct_keeps
    | with_reducible apply State.setF_keeps
    | with_reducible apply Keeps.ite

theorem State.hallTo_keeps {z s : State} {x1 x2} (h : Keeps z s) : Keeps z (State.hallTo s x1 x2) := by
  unfold State.hallTo
  repeat' first
    | with_reducible assumption
    | with_reducible apply State.setAct_keeps
    | with_reducible apply State.setF_keeps

theorem execHallEdge_keeps {z s : State} {x0 x1 x2 x3} (h : Keeps z s) : KeepsOut z (execHallEdge x0 x1 x2 x3 s) := by
  unfold execHallEdge
  repeat' first
    | with_reducible assumption
    | with_reducible apply State.advance_keeps
    | with_reducible apply State.hallTo_keeps
    | with_reducible apply Keeps.out
    | (extract_lets +onlyGivenNames u; refine (?_ : Keeps z u → _) ?_; rotate_left; unfold u; rotate_left; intro hu; try clear_value u)
    | split

theorem execActHallFault_keeps {z s : State} {x0 x1 x2} (h : Keeps z s) : KeepsOut z (execActHallFault x0 x1 x2 s) := by
  unfold execActHallFault
  repeat' first
    | with_reducible assumption
    | with_reducible apply State.advance_keeps
    | with_reducible apply State.motionEnding_keeps
    | with_reducible apply State.actFault_keeps
    | with_reducible apply Keeps.out
    | (extract_lets +onlyGivenNames u; refine (?_ : Keeps z u → _) ?_; rotate_left; unfold u; rotate_left; intro hu; try clear_value u)
    | split

theorem execActPosSensor_keeps {z s : State} {x0 x1 x2} (h : Keeps z s) : KeepsOut z (execActPosSensor x0 x1 x2 s) := by
  unfold execActPosSensor
  repeat' first
    | with_reducible assumption
    | with_reducible apply State.advance_keeps
    | with_reducible apply State.motionEnding_keeps
    | with_reducible apply State.setB_keeps
    | with_reducible apply State.actFault_keeps
    | with_reducible apply Keeps.out
    | (extract_lets +onlyGivenNames u; refine (?_ : Keeps z u → _) ?_; rotate_left; unfold u; rotate_left; intro hu; try clear_value u)
    | split

theorem State.movePawl_keeps {z s : State} {x1} (h : Keeps z s) : Keeps z (State.movePawl s x1) := by
  unfold State.movePawl
  repeat' first
    | with_reducible assumption
    | with_reducible apply State.setF_keeps
    | with_reducible apply State.motionOn_keeps
    | simp -zeta only [Keeps.mk_iff, Keeps.mkCom_iff, Keeps.mkLog_iff]
    | with_reducible apply Keeps.ite

theorem State.beginHome_keeps {z s : State} {x1} (h : Keeps z s) : Keeps z (Sys2Proof.Machine.State.beginHome s x1) := by
  unfold State.beginHome
  repeat' first
    | with_reducible assumption
    | with_reducible apply State.motionOn_keeps
    | with_reducible apply State.setAct_keeps
    | with_reducible apply State.setF_keeps
    | with_reducible apply State.setB_keeps
    | with_reducible apply Keeps.ite

theorem execActHome_keeps {z s : State} {x0} (h : Keeps z s) : KeepsOut z (execActHome x0 s) := by
  unfold execActHome
  repeat' first
    | with_reducible assumption
    | (with_reducible refine serveOp_keeps (by with_reducible assumption) fun z t u hu => ?_; beta_reduce)
    | with_reducible apply refuse_keeps
    | with_reducible apply State.beginHome_keeps
    | with_reducible apply Keeps.done
    | (extract_lets +onlyGivenNames u; try clear_value u)
    | split

theorem State.parkHomed_keeps {z s : State} (h : Keeps z s) : Keeps z (State.parkHomed s) := by
  unfold State.parkHomed
  repeat' first
    | with_reducible assumption
    | with_reducible apply State.motionEnding_keeps
    | with_reducible apply State.setF_keeps
    | with_reducible apply State.setB_keeps
    | with_reducible apply State.raise_keeps
    | with_reducible apply Keeps.ite

theorem State.shiftZeroed_keeps {z s : State} (h : Keeps z s) : Keeps z (State.shiftZeroed s) := by
  unfold State.shiftZeroed
  repeat' first
    | with_reducible assumption
    | with_reducible apply State.setQ_keeps
    | with_reducible apply State.planShift_keeps
    | simp -zeta only [Keeps.mk_iff, Keeps.mkCom_iff, Keeps.mkLog_iff]

theorem execHomeStopFound_keeps {z s : State} {x0 x1 x2} (h : Keeps z s) : KeepsOut z (execHomeStopFound x0 x1 x2 s) := by
  unfold execHomeStopFound
  repeat' first
    | with_reducible assumption
    | with_reducible apply State.advance_keeps
    | with_reducible apply State.parkHomed_keeps
    | with_reducible apply State.shiftZeroed_keeps
    | with_reducible apply Keeps.out
    | (extract_lets +onlyGivenNames u; refine (?_ : Keeps z u → _) ?_; rotate_left; unfold u; rotate_left; intro hu; try clear_value u)
    | split

theorem execActHomeFail_keeps {z s : State} {x0 x1} (h : Keeps z s) : KeepsOut z (execActHomeFail x0 x1 s) := by
  unfold execActHomeFail
  repeat' first
    | with_reducible assumption
    | with_reducible apply State.advance_keeps
    | with_reducible apply State.motionEnding_keeps
    | with_reducible apply State.raise_keeps
    | with_reducible apply State.setF_keeps
    | with_reducible apply State.shiftIdle_keeps
    | with_reducible apply Keeps.out
    | with_reducible apply Keeps.ite
    | (extract_lets +onlyGivenNames u; refine (?_ : Keeps z u → _) ?_; rotate_left; unfold u; rotate_left; intro hu; try clear_value u)
    | split

theorem State.lockNoted_keeps {z s : State} {x1} (h : Keeps z s) : Keeps z (State.lockNoted s x1) := by
  unfold State.lockNoted
  repeat' first
    | with_reducible assumption
    | with_reducible apply State.bump_keeps
    | with_reducible apply State.event_keeps
    | with_reducible apply State.raise_keeps

theorem State.lockEnding_keeps {z s : State} {x1 x2} (h : Keeps z s) : Keeps z (Sys2Proof.Machine.State.lockEnding s x1 x2) := by
  unfold State.lockEnding
  repeat' first
    | with_reducible assumption
    | with_reducible apply State.motionEnding_keeps
    | with_reducible apply State.setAct_keeps

theorem State.lockEffect_keeps {z s : State} {x1} (h : Keeps z s) : Keeps z (Sys2Proof.Machine.State.lockEffect s x1) := by
  unfold State.lockEffect
  repeat' first
    | with_reducible assumption
    | with_reducible apply State.lockEnding_keeps
    | with_reducible apply State.shiftIdle_keeps
    | with_reducible apply State.raise_keeps
    | with_reducible apply State.actFault_keeps
    | with_reducible apply Keeps.ite

theorem execLockedRotor_keeps {z s : State} {x0 x1 x2 x3} (h : Keeps z s) : KeepsOut z (execLockedRotor x0 x1 x2 x3 s) := by
  unfold execLockedRotor
  repeat' first
    | with_reducible assumption
    | with_reducible apply State.advance_keeps
    | with_reducible apply State.lockNoted_keeps
    | with_reducible apply State.lockEffect_keeps
    | with_reducible apply Keeps.out
    | (extract_lets +onlyGivenNames u; refine (?_ : Keeps z u → _) ?_; rotate_left; unfold u; rotate_left; intro hu; try clear_value u)
    | split

theorem State.restartMotion_keeps {z s : State} {x1} (h : Keeps z s) : Keeps z (State.restartMotion s x1) := by
  unfold State.restartMotion
  repeat' first
    | with_reducible assumption
    | with_reducible apply State.setAct_keeps
    | with_reducible apply State.setF_keeps
    | with_reducible apply State.motionOn_keeps
    | with_reducible apply State.planShift_keeps
    | simp -zeta only [Keeps.mk_iff, Keeps.mkCom_iff, Keeps.mkLog_iff]
    | with_reducible apply Keeps.ite

theorem execRetryRestart_keeps {z s : State} {x0 x1} (h : Keeps z s) : KeepsOut z (execRetryRestart x0 x1 s) := by
  unfold execRetryRestart
  repeat' first
    | with_reducible assumption
    | with_reducible apply State.advance_keeps
    | with_reducible apply State.restartMotion_keeps
    | with_reducible apply Keeps.out
    | (extract_lets +onlyGivenNames u; refine (?_ : Keeps z u → _) ?_; rotate_left; unfold u; rotate_left; intro hu; try clear_value u)
    | split

theorem State.pawlDone_keeps {z s : State} {x1} (h : Keeps z s) : Keeps z (State.pawlDone s x1) := by
  unfold State.pawlDone
  repeat' first
    | with_reducible assumption
    | with_reducible apply State.setF_keeps
    | with_reducible apply State.bump_keeps
    | with_reducible apply State.event_keeps
    | with_reducible apply State.motionEnding_keeps
    | with_reducible apply Keeps.ite

theorem execPawlState_keeps {z s : State} {x0 x1} (h : Keeps z s) : KeepsOut z (execPawlState x0 x1 s) := by
  unfold execPawlState
  repeat' first
    | with_reducible assumption
    | with_reducible apply State.advance_keeps
    | with_reducible apply State.setF_keeps
    | with_reducible apply State.pawlDone_keeps
    | simp -zeta only [Keeps.mk_iff, Keeps.mkCom_iff, Keeps.mkLog_iff]
    | with_reducible apply Keeps.out
    | with_reducible apply Keeps.ite
    | (extract_lets +onlyGivenNames u; refine (?_ : Keeps z u → _) ?_; rotate_left; unfold u; rotate_left; intro hu; try clear_value u)
    | (extract_lets +onlyGivenNames u; try clear_value u)
    | split

theorem execParkSwitchDisagree_keeps {z s : State} {x0 x1} (h : Keeps z s) : KeepsOut z (execParkSwitchDisagree x0 x1 s) := by
  unfold execParkSwitchDisagree
  repeat' first
    | with_reducible assumption
    | with_reducible apply State.advance_keeps
    | with_reducible apply State.setF_keeps
    | with_reducible apply State.raise_keeps
    | simp -zeta only [Keeps.mk_iff, Keeps.mkCom_iff, Keeps.mkLog_iff]
    | with_reducible apply Keeps.out
    | (extract_lets +onlyGivenNames u; refine (?_ : Keeps z u → _) ?_; rotate_left; unfold u; rotate_left; intro hu; try clear_value u)
    | (extract_lets +onlyGivenNames u; try clear_value u)
    | split

theorem execParkEngage_keeps {z s : State} {x0} (h : Keeps z s) : KeepsOut z (execParkEngage x0 s) := by
  unfold execParkEngage
  repeat' first
    | with_reducible assumption
    | (with_reducible refine serveOp_keeps (by with_reducible assumption) fun z t u hu => ?_; beta_reduce)
    | with_reducible apply refuse_keeps
    | with_reducible apply State.raise_keeps
    | with_reducible apply okWith_keeps
    | with_reducible apply State.movePawl_keeps
    | simp -zeta only [Keeps.mk_iff, Keeps.mkCom_iff, Keeps.mkLog_iff]
    | with_reducible apply Keeps.done
    | (extract_lets +onlyGivenNames u; try clear_value u)
    | split

theorem execParkRelease_keeps {z s : State} {x0} (h : Keeps z s) : KeepsOut z (execParkRelease x0 s) := by
  unfold execParkRelease
  repeat' first
    | with_reducible assumption
    | (with_reducible refine serveOp_keeps (by with_reducible assumption) fun z t u hu => ?_; beta_reduce)
    | with_reducible apply refuse_keeps
    | with_reducible apply okWith_keeps
    | with_reducible apply State.movePawl_keeps
    | simp -zeta only [Keeps.mk_iff, Keeps.mkCom_iff, Keeps.mkLog_iff]
    | with_reducible apply Keeps.done
    | (extract_lets +onlyGivenNames u; try clear_value u)
    | split

theorem State.pawlBlocked_keeps {z s : State} (h : Keeps z s) : Keeps z (State.pawlBlocked s) := by
  unfold State.pawlBlocked
  repeat' first
    | with_reducible assumption
    | with_reducible apply State.bump_keeps
    | with_reducible apply State.event_keeps
    | with_reducible apply State.setF_keeps
    | simp -zeta only [Keeps.mk_iff, Keeps.mkCom_iff, Keeps.mkLog_iff]

theorem execPawlBlocked_keeps {z s : State} {x0} (h : Keeps z s) : KeepsOut z (execPawlBlocked x0 s) := by
  unfold execPawlBlocked
  repeat' first
    | with_reducible assumption
    | with_reducible apply State.advance_keeps
    | with_reducible apply State.pawlBlocked_keeps
    | with_reducible apply Keeps.out
    | (extract_lets +onlyGivenNames u; refine (?_ : Keeps z u → _) ?_; rotate_left; unfold u; rotate_left; intro hu; try clear_value u)
    | split

theorem State.speedAbort_keeps {z s : State} (h : Keeps z s) : Keeps z (State.speedAbort s) := by
  unfold State.speedAbort
  repeat' first
    | with_reducible assumption
    | with_reducible apply State.movePawl_keeps
    | with_reducible apply State.raise_keeps
    | with_reducible apply State.event_keeps
    | with_reducible apply Keeps.ite

theorem execParkNotEngaged_keeps {z s : State} {x0} (h : Keeps z s) : KeepsOut z (execParkNotEngaged x0 s) := by
  unfold execParkNotEngaged
  repeat' first
    | with_reducible assumption
    | with_reducible apply State.advance_keeps
    | with_reducible apply State.speedAbort_keeps
    | with_reducible apply State.movePawl_keeps
    | with_reducible apply State.raise_keeps
    | with_reducible apply Keeps.out
    | (extract_lets +onlyGivenNames u; refine (?_ : Keeps z u → _) ?_; rotate_left; unfold u; rotate_left; intro hu; try clear_value u)
    | split

theorem execParkMoveTimeout_keeps {z s : State} {x0} (h : Keeps z s) : KeepsOut z (execParkMoveTimeout x0 s) := by
  unfold execParkMoveTimeout
  repeat' first
    | with_reducible assumption
    | with_reducible apply State.advance_keeps
    | with_reducible apply State.motionEnding_keeps
    | with_reducible apply State.actFault_keeps
    | with_reducible apply Keeps.out
    | (extract_lets +onlyGivenNames u; refine (?_ : Keeps z u → _) ?_; rotate_left; unfold u; rotate_left; intro hu; try clear_value u)
    | split

theorem execParkMotionEngaged_keeps {z s : State} {x0 x1} (h : Keeps z s) : KeepsOut z (execParkMotionEngaged x0 x1 s) := by
  unfold execParkMotionEngaged
  repeat' first
    | with_reducible assumption
    | with_reducible apply State.advance_keeps
    | with_reducible apply State.raise_keeps
    | with_reducible apply Keeps.out
    | with_reducible apply Keeps.ite

theorem execVspdHostExpired_keeps {z s : State} {x0} (h : Keeps z s) : KeepsOut z (execVspdHostExpired x0 s) := by
  unfold execVspdHostExpired
  repeat' first
    | with_reducible assumption
    | with_reducible apply State.advance_keeps
    | with_reducible apply State.showVspd_keeps
    | simp -zeta only [Keeps.mk_iff, Keeps.mkCom_iff, Keeps.mkLog_iff]
    | with_reducible apply Keeps.out
    | (extract_lets +onlyGivenNames u; refine (?_ : Keeps z u → _) ?_; rotate_left; unfold u; rotate_left; intro hu; try clear_value u)
    | (extract_lets +onlyGivenNames u; try clear_value u)
    | split

theorem State.outerLoop_keeps {z s : State} {x1} (h : Keeps z s) : Keeps z (State.outerLoop s x1).2 := by
  unfold State.outerLoop
  repeat' first
    | with_reducible assumption
    | with_reducible apply State.progPi_keeps
    | simp -zeta only [Keeps.mk_iff, Keeps.mkCom_iff, Keeps.mkLog_iff]
    | (extract_lets +onlyGivenNames u; try clear_value u)
    | split

theorem State.stageVolt_keeps {z s : State} {x1 x2 x3 x4} (h : Keeps z s) : Keeps z (State.stageVolt s x1 x2 x3 x4) := by
  unfold State.stageVolt
  repeat' first
    | with_reducible assumption
    | with_reducible apply State.stageLeg_keeps
    | with_reducible apply State.stage_keeps
    | with_reducible apply Keeps.ite

theorem State.stageWeights_keeps {z s : State} {x1 x2} (h : Keeps z s) : Keeps z (State.stageWeights s x1 x2) := by
  unfold State.stageWeights
  repeat' first
    | with_reducible assumption
    | with_reducible apply State.setEng_keeps
    | with_reducible apply Keeps.ite
    | (with_reducible refine Keeps.foldl (fun x a hx => ?_) ?_ _ <;> beta_reduce)

theorem State.actLoop_keeps {z s : State} {x1 x2} (h : Keeps z s) : Keeps z (State.actLoop s x1 x2) := by
  unfold State.actLoop
  repeat' first
    | with_reducible assumption
    | with_reducible apply State.outerLoop_keeps
    | with_reducible apply State.bankPi_keeps
    | with_reducible apply State.setAct_keeps
    | with_reducible apply State.stageWeights_keeps
    | with_reducible apply State.stageVolt_keeps
    | (with_reducible refine Keeps.foldl (fun x a hx => ?_) ?_ _ <;> beta_reduce)

theorem State.watchPawl_keeps {z s : State} (h : Keeps z s) : Keeps z (Sys2Proof.Machine.State.watchPawl s) := by
  unfold State.watchPawl
  repeat' first
    | with_reducible assumption
    | with_reducible apply State.showVspd_keeps
    | with_reducible apply State.setF_keeps
    | with_reducible apply State.speedAbort_keeps
    | simp -zeta only [Keeps.mk_iff, Keeps.mkCom_iff, Keeps.mkLog_iff]
    | with_reducible apply Keeps.ite

theorem State.slotAct_keeps {z s : State} {x1} (h : Keeps z s) : Keeps z (Sys2Proof.Machine.State.slotAct s x1) := by
  unfold State.slotAct
  repeat' first
    | with_reducible assumption
    | with_reducible apply State.actLoop_keeps
    | with_reducible apply State.sampleStage_keeps
    | with_reducible apply State.setAct_keeps
    | with_reducible apply State.watchPawl_keeps
    | with_reducible apply State.motionCut_keeps
    | with_reducible apply State.actFault_keeps
    | with_reducible apply Keeps.ite
    | (extract_lets +onlyGivenNames u; try clear_value u)
    | split

theorem State.actRelease_keeps {z s : State} {x1} (h : Keeps z s) : Keeps z (State.actRelease s x1) := by
  unfold State.actRelease
  repeat' first
    | with_reducible assumption
    | with_reducible apply State.shiftIdle_keeps
    | with_reducible apply State.setF_keeps
    | simp -zeta only [Keeps.mk_iff, Keeps.mkCom_iff, Keeps.mkLog_iff]
    | with_reducible apply Keeps.ite

theorem execFaultAck_keeps {z s : State} {x0} (h : Keeps z s) : KeepsOut z (execFaultAck x0 s) := by
  unfold execFaultAck
  repeat' first
    | with_reducible assumption
    | (with_reducible refine serveOp_keeps (by with_reducible assumption) fun z t u hu => ?_; beta_reduce)
    | with_reducible apply refuse_keeps
    | with_reducible apply State.refuseClear_keeps
    | with_reducible apply okWith_keeps
    | with_reducible apply State.actRelease_keeps
    | with_reducible apply State.ackTo_keeps
    | (extract_lets +onlyGivenNames u; try clear_value u)
    | split

end Sys2Proof.Machine
end

