-- ==== Sys2Proof/Laws/KeepsThermal.lean ====
section
/-! SUPPORT. The operations and meanings of Machine/Thermal.lean keep what every step keeps. -/

set_option linter.unreachableTactic false
set_option linter.unusedTactic false
set_option linter.unusedSimpArgs false
set_option linter.tactic.unusedName false
set_option linter.unusedVariables false

namespace Sys2Proof.Machine
open Sys2Proof

theorem State.publishLoss_keeps {z s : State} {x1 x2 x3 x4} (h : Keeps z s) : Keeps z (State.publishLoss s x1 x2 x3 x4) := by
  unfold State.publishLoss
  repeat' first
    | with_reducible assumption
    | with_reducible apply State.putLink_keeps
    | simp -zeta only [Keeps.mk_iff, Keeps.mkCom_iff, Keeps.mkLog_iff]
    | (extract_lets +onlyGivenNames u; refine (?_ : Keeps z u → _) ?_; rotate_left; unfold u; rotate_left; intro hu; try clear_value u)
    | (extract_lets +onlyGivenNames u; try clear_value u)

theorem State.publishLosses_keeps {z s : State} {x1} (h : Keeps z s) : Keeps z (State.publishLosses s x1) := by
  unfold State.publishLosses
  repeat' first
    | with_reducible assumption
    | with_reducible apply State.publishLoss_keeps
    | (with_reducible refine Keeps.foldl (fun x a hx => ?_) ?_ _ <;> beta_reduce)

theorem execLossWindowEnd_keeps {z s : State} {x0 x1} (h : Keeps z s) : KeepsOut z (Sys2Proof.Machine.execLossWindowEnd x0 x1 s) := by
  unfold execLossWindowEnd
  repeat' first
    | with_reducible assumption
    | with_reducible apply State.advance_keeps
    | with_reducible apply State.publishLosses_keeps
    | simp -zeta only [Keeps.mk_iff, Keeps.mkCom_iff, Keeps.mkLog_iff]
    | with_reducible apply Keeps.out
    | with_reducible apply Keeps.ite

theorem State.watchHbLoss_keeps {z s : State} {x1} (h : Keeps z s) : Keeps z (Sys2Proof.Machine.State.watchHbLoss s x1) := by
  unfold State.watchHbLoss
  repeat' first
    | with_reducible assumption
    | with_reducible apply State.raise_keeps
    | simp -zeta only [Keeps.mk_iff, Keeps.mkCom_iff, Keeps.mkLog_iff]
    | with_reducible apply Keeps.ite

theorem State.watchLoss_keeps {z s : State} (h : Keeps z s) : Keeps z (Sys2Proof.Machine.State.watchLoss s) := by
  unfold State.watchLoss
  repeat' first
    | with_reducible assumption
    | with_reducible apply State.watchHbLoss_keeps
    | (with_reducible refine Keeps.foldl (fun x a hx => ?_) ?_ _ <;> beta_reduce)

theorem State.setNtc_keeps {z s : State} {x1 x2} (h : Keeps z s) : Keeps z (State.setNtc s x1 x2) := by
  unfold State.setNtc
  repeat' first
    | with_reducible assumption
    | simp -zeta only [Keeps.mk_iff, Keeps.mkCom_iff, Keeps.mkLog_iff]

theorem State.ntcMiss_keeps {z s : State} {x1} (h : Keeps z s) : Keeps z (Sys2Proof.Machine.State.ntcMiss s x1) := by
  unfold State.ntcMiss
  repeat' first
    | with_reducible assumption
    | with_reducible apply State.setNtc_keeps

theorem State.takeNtc_keeps {z s : State} {x1 x2 x3} (h : Keeps z s) : Keeps z (Sys2Proof.Machine.State.takeNtc s x1 x2 x3) := by
  unfold State.takeNtc
  repeat' first
    | with_reducible assumption
    | with_reducible apply State.setNtc_keeps
    | with_reducible apply State.ntcMiss_keeps
    | simp -zeta only [Keeps.mk_iff, Keeps.mkCom_iff, Keeps.mkLog_iff]
    | with_reducible apply Keeps.ite
    | (extract_lets +onlyGivenNames u; try clear_value u)
    | split

theorem State.stepSwitch_keeps {z s : State} {x1 x2 x3} (h : Keeps z s) : Keeps z (State.stepSwitch s x1 x2 x3) := by
  unfold State.stepSwitch
  repeat' first
    | with_reducible assumption
    | with_reducible apply State.setQ_keeps
    | simp -zeta only [Keeps.mk_iff, Keeps.mkCom_iff, Keeps.mkLog_iff]

theorem State.stepNtcs_keeps {z s : State} {x1} (h : Keeps z s) : Keeps z (State.stepNtcs s x1) := by
  unfold State.stepNtcs
  repeat' first
    | with_reducible assumption
    | with_reducible apply State.setNtc_keeps
    | with_reducible apply State.setQ_keeps
    | with_reducible apply Keeps.ite
    | (with_reducible refine Keeps.foldl (fun x a hx => ?_) ?_ _ <;> beta_reduce)
    | (extract_lets +onlyGivenNames u; try clear_value u)
    | split

theorem State.publishFactors_keeps {z s : State} (h : Keeps z s) : Keeps z (State.publishFactors s) := by
  unfold State.publishFactors
  repeat' first
    | with_reducible assumption
    | with_reducible apply State.putLink_keeps
    | with_reducible apply State.setQ_keeps
    | simp -zeta only [Keeps.mk_iff, Keeps.mkCom_iff, Keeps.mkLog_iff]
    | (with_reducible refine Keeps.foldl (fun x a hx => ?_) ?_ _ <;> beta_reduce)
    | (extract_lets +onlyGivenNames u; refine (?_ : Keeps z u → _) ?_; rotate_left; unfold u; rotate_left; intro hu; try clear_value u)
    | (extract_lets +onlyGivenNames u; try clear_value u)

theorem State.derateFlags_keeps {z s : State} (h : Keeps z s) : Keeps z (State.derateFlags s) := by
  unfold State.derateFlags
  repeat' first
    | with_reducible assumption
    | with_reducible apply State.setF_keeps
    | with_reducible apply State.leDwell_keeps
    | with_reducible apply State.raise_keeps
    | with_reducible apply State.event_keeps
    | with_reducible apply Keeps.ite
    | (with_reducible refine Keeps.foldl (fun x a hx => ?_) ?_ _ <;> beta_reduce)

theorem State.modelRate_keeps {z s : State} (h : Keeps z s) : Keeps z (Sys2Proof.Machine.State.modelRate s) := by
  unfold State.modelRate
  dsimp only
  repeat' first
    | with_reducible assumption
    | with_reducible apply State.setAlt_keeps
    | with_reducible apply State.setB_keeps
    | simp -zeta only [Keeps.mk_iff, Keeps.mkCom_iff, Keeps.mkLog_iff]
    | with_reducible apply Keeps.ite
    | (extract_lets +onlyGivenNames u; try clear_value u)
    | split

theorem State.rainStep_keeps {z s : State} {x1 x2} (h : Keeps z s) : Keeps z (State.rainStep s x1 x2) := by
  unfold State.rainStep
  repeat' first
    | with_reducible assumption
    | simp -zeta only [Keeps.mk_iff, Keeps.mkCom_iff, Keeps.mkLog_iff]
    | (extract_lets +onlyGivenNames u; try clear_value u)

theorem State.rainDue_keeps {z s : State} {x1} (h : Keeps z s) : Keeps z (Sys2Proof.Machine.State.rainDue s x1) := by
  unfold State.rainDue
  repeat' first
    | with_reducible assumption
    | simp -zeta only [Keeps.mk_iff, Keeps.mkCom_iff, Keeps.mkLog_iff]
    | (extract_lets +onlyGivenNames u; try clear_value u)

theorem State.rainEnd_keeps {z s : State} {x1} (h : Keeps z s) : Keeps z (Sys2Proof.Machine.State.rainEnd s x1) := by
  unfold State.rainEnd
  repeat' first
    | with_reducible assumption
    | with_reducible apply State.rainDue_keeps
    | simp -zeta only [Keeps.mk_iff, Keeps.mkCom_iff, Keeps.mkLog_iff]
    | (with_reducible refine Keeps.foldl (fun x a hx => ?_) ?_ _ <;> beta_reduce)
    | (extract_lets +onlyGivenNames u; refine (?_ : Keeps z u → _) ?_; rotate_left; unfold u; rotate_left; intro hu; try clear_value u)

theorem State.rainAll_keeps {z s : State} {x1} (h : Keeps z s) : Keeps z (Sys2Proof.Machine.State.rainAll s x1) := by
  unfold State.rainAll
  repeat' first
    | with_reducible assumption
    | with_reducible apply State.rainDue_keeps
    | with_reducible apply State.rainStep_keeps
    | with_reducible apply State.rainEnd_keeps
    | simp -zeta only [Keeps.mk_iff, Keeps.mkCom_iff, Keeps.mkLog_iff]
    | with_reducible apply Keeps.ite
    | (with_reducible refine Keeps.foldl (fun x a hx => ?_) ?_ _ <;> beta_reduce)
    | (extract_lets +onlyGivenNames u; refine (?_ : Keeps z u → _) ?_; rotate_left; unfold u; rotate_left; intro hu; try clear_value u)
    | (extract_lets +onlyGivenNames u; try clear_value u)

theorem State.handOver_keeps {z s : State} (h : Keeps z s) : Keeps z (State.handOver s) := by
  unfold State.handOver
  repeat' first
    | with_reducible assumption
    | with_reducible apply State.putLink_keeps
    | simp -zeta only [Keeps.mk_iff, Keeps.mkCom_iff, Keeps.mkLog_iff]
    | with_reducible apply Keeps.ite

theorem State.addCycle_keeps {z s : State} {x1} (h : Keeps z s) : Keeps z (State.addCycle s x1) := by
  unfold State.addCycle
  repeat' first
    | with_reducible assumption
    | with_reducible apply State.setF_keeps
    | with_reducible apply State.setQ_keeps
    | simp -zeta only [Keeps.mk_iff, Keeps.mkCom_iff, Keeps.mkLog_iff]
    | with_reducible apply Keeps.ite
    | (extract_lets +onlyGivenNames u; try clear_value u)
    | split

theorem State.takeCycles_keeps {z s : State} (h : Keeps z s) : Keeps z (State.takeCycles s) := by
  unfold State.takeCycles
  repeat' first
    | with_reducible assumption
    | with_reducible apply State.addCycle_keeps
    | with_reducible apply State.putLink_keeps
    | with_reducible apply Keeps.ite

theorem State.clearJudged_keeps {z s : State} (h : Keeps z s) : Keeps z (State.clearJudged s) := by
  unfold State.clearJudged
  repeat' first
    | with_reducible assumption
    | simp -zeta only [Keeps.mk_iff, Keeps.mkCom_iff, Keeps.mkLog_iff]
    | (extract_lets +onlyGivenNames u; try clear_value u)

theorem State.slotLE11_keeps {z s : State} (h : Keeps z s) : Keeps z (Sys2Proof.Machine.State.slotLE11 s) := by
  unfold State.slotLE11
  repeat' first
    | with_reducible assumption
    | with_reducible apply State.watchLoss_keeps
    | with_reducible apply State.setB_keeps
    | with_reducible apply State.stepNtcs_keeps
    | with_reducible apply State.setQ_keeps
    | with_reducible apply State.stepSwitch_keeps
    | with_reducible apply State.clearJudged_keeps
    | with_reducible apply State.handOver_keeps
    | with_reducible apply State.rainAll_keeps
    | with_reducible apply State.modelRate_keeps
    | with_reducible apply State.derateFlags_keeps
    | with_reducible apply State.publishFactors_keeps
    | with_reducible apply State.phaseCare_keeps
    | simp -zeta only [Keeps.mk_iff, Keeps.mkCom_iff, Keeps.mkLog_iff]
    | (with_reducible refine Keeps.foldl (fun x a hx => ?_) ?_ _ <;> beta_reduce)

theorem State.breakNtc_keeps {z s : State} {x1} (h : Keeps z s) : Keeps z (State.breakNtc s x1) := by
  unfold State.breakNtc
  repeat' first
    | with_reducible assumption
    | with_reducible apply State.raise_keeps
    | with_reducible apply State.event_keeps
    | with_reducible apply State.setBit_keeps

theorem execThmSensorBroken_keeps {z s : State} {x0 x1 x2} (h : Keeps z s) : KeepsOut z (execThmSensorBroken x0 x1 x2 s) := by
  unfold execThmSensorBroken
  repeat' first
    | with_reducible assumption
    | with_reducible apply State.advance_keeps
    | with_reducible apply State.breakNtc_keeps
    | with_reducible apply Keeps.out
    | (extract_lets +onlyGivenNames u; refine (?_ : Keeps z u → _) ?_; rotate_left; unfold u; rotate_left; intro hu; try clear_value u)
    | split

theorem State.throttle_keeps {z s : State} (h : Keeps z s) : Keeps z (State.throttle s) := by
  unfold State.throttle
  repeat' first
    | with_reducible assumption
    | with_reducible apply State.raise_keeps
    | with_reducible apply State.bump_keeps
    | with_reducible apply State.event_keeps
    | with_reducible apply State.setB_keeps
    | with_reducible apply Keeps.ite

theorem State.saveNow_keeps {z s : State} {x1} (h : Keeps z s) : Keeps z (State.saveNow s x1) := by
  unfold State.saveNow
  repeat' first
    | with_reducible assumption
    | simp -zeta only [Keeps.mk_iff, Keeps.mkCom_iff, Keeps.mkLog_iff]

theorem State.endInhibit_keeps {z s : State} (h : Keeps z s) : Keeps z (Sys2Proof.Machine.State.endInhibit s) := by
  unfold State.endInhibit
  repeat' first
    | with_reducible assumption
    | with_reducible apply State.setQueue_keeps
    | with_reducible apply State.setB_keeps
    | with_reducible apply State.saveNow_keeps
    | with_reducible apply State.logPut_keeps
    | simp -zeta only [Keeps.mk_iff, Keeps.mkCom_iff, Keeps.mkLog_iff]
    | with_reducible apply Keeps.ite
    | (with_reducible refine Keeps.foldl (fun x a hx => ?_) ?_ _ <;> beta_reduce)
    | (extract_lets +onlyGivenNames u; (have hc : FaultLog := u); clear hc; subst u)

theorem execThmDieSensor_keeps {z s : State} {x0} (h : Keeps z s) : KeepsOut z (execThmDieSensor x0 s) := by
  unfold execThmDieSensor
  repeat' first
    | with_reducible assumption
    | with_reducible apply State.advance_keeps
    | with_reducible apply State.endInhibit_keeps
    | with_reducible apply State.throttle_keeps
    | with_reducible apply State.raise_keeps
    | simp -zeta only [Keeps.mk_iff, Keeps.mkCom_iff, Keeps.mkLog_iff]
    | with_reducible apply Keeps.out
    | (extract_lets +onlyGivenNames u; refine (?_ : Keeps z u → _) ?_; rotate_left; unfold u; rotate_left; intro hu; try clear_value u)
    | (extract_lets +onlyGivenNames u; try clear_value u)
    | split

theorem State.dieWord_keeps {z s : State} {x1 x2} (h : Keeps z s) : Keeps z (State.dieWord s x1 x2) := by
  unfold State.dieWord
  repeat' first
    | with_reducible assumption
    | with_reducible apply State.setF_keeps
    | with_reducible apply State.throttle_keeps
    | with_reducible apply State.raise_keeps
    | with_reducible apply State.event_keeps
    | with_reducible apply State.setB_keeps
    | simp -zeta only [Keeps.mk_iff, Keeps.mkCom_iff, Keeps.mkLog_iff]
    | with_reducible apply Keeps.ite

theorem execThrottleEnd_keeps {z s : State} {x0} (h : Keeps z s) : KeepsOut z (execThrottleEnd x0 s) := by
  unfold execThrottleEnd
  repeat' first
    | with_reducible assumption
    | with_reducible apply State.advance_keeps
    | with_reducible apply State.setB_keeps
    | with_reducible apply Keeps.out
    | with_reducible apply Keeps.ite
    | (extract_lets +onlyGivenNames u; refine (?_ : Keeps z u → _) ?_; rotate_left; unfold u; rotate_left; intro hu; try clear_value u)
    | split

theorem execMramInhibitEnd_keeps {z s : State} {x0} (h : Keeps z s) : KeepsOut z (execMramInhibitEnd x0 s) := by
  unfold execMramInhibitEnd
  repeat' first
    | with_reducible assumption
    | with_reducible apply State.advance_keeps
    | with_reducible apply State.endInhibit_keeps
    | with_reducible apply Keeps.out
    | with_reducible apply Keeps.ite
    | (extract_lets +onlyGivenNames u; refine (?_ : Keeps z u → _) ?_; rotate_left; unfold u; rotate_left; intro hu; try clear_value u)
    | split

theorem execThmOvertemp_keeps {z s : State} {x0 x1 x2} (h : Keeps z s) : KeepsOut z (execThmOvertemp x0 x1 x2 s) := by
  unfold execThmOvertemp
  repeat' first
    | with_reducible assumption
    | with_reducible apply State.advance_keeps
    | with_reducible apply State.raise_keeps
    | with_reducible apply State.event_keeps
    | simp -zeta only [Keeps.mk_iff, Keeps.mkCom_iff, Keeps.mkLog_iff]
    | with_reducible apply Keeps.out
    | (extract_lets +onlyGivenNames u; refine (?_ : Keeps z u → _) ?_; rotate_left; unfold u; rotate_left; intro hu; try clear_value u)
    | (extract_lets +onlyGivenNames u; try clear_value u)
    | split

theorem execThmNtcOver_keeps {z s : State} {x0 x1 x2} (h : Keeps z s) : KeepsOut z (execThmNtcOver x0 x1 x2 s) := by
  unfold execThmNtcOver
  repeat' first
    | with_reducible assumption
    | with_reducible apply State.advance_keeps
    | with_reducible apply State.raise_keeps
    | with_reducible apply State.event_keeps
    | simp -zeta only [Keeps.mk_iff, Keeps.mkCom_iff, Keeps.mkLog_iff]
    | with_reducible apply Keeps.out
    | (extract_lets +onlyGivenNames u; refine (?_ : Keeps z u → _) ?_; rotate_left; unfold u; rotate_left; intro hu; try clear_value u)
    | (extract_lets +onlyGivenNames u; try clear_value u)
    | split

theorem State.modelLost_keeps {z s : State} (h : Keeps z s) : Keeps z (State.modelLost s) := by
  unfold State.modelLost
  repeat' first
    | with_reducible assumption
    | with_reducible apply State.raise_keeps
    | with_reducible apply State.setB_keeps
    | simp -zeta only [Keeps.mk_iff, Keeps.mkCom_iff, Keeps.mkLog_iff]

theorem execThmModelLost_keeps {z s : State} {x0} (h : Keeps z s) : KeepsOut z (execThmModelLost x0 s) := by
  unfold execThmModelLost
  repeat' first
    | with_reducible assumption
    | with_reducible apply State.advance_keeps
    | with_reducible apply State.modelLost_keeps
    | with_reducible apply Keeps.out
    | (extract_lets +onlyGivenNames u; refine (?_ : Keeps z u → _) ?_; rotate_left; unfold u; rotate_left; intro hu; try clear_value u)
    | (extract_lets +onlyGivenNames u; try clear_value u)
    | split

theorem State.endOfSpare_keeps {z s : State} {x1 x2} (h : Keeps z s) : Keeps z (State.endOfSpare s x1 x2) := by
  unfold State.endOfSpare
  repeat' first
    | with_reducible assumption
    | with_reducible apply State.setBit_keeps
    | with_reducible apply State.raise_keeps
    | with_reducible apply State.event_keeps
    | with_reducible apply State.setB_keeps
    | simp -zeta only [Keeps.mk_iff, Keeps.mkCom_iff, Keeps.mkLog_iff]
    | with_reducible apply Keeps.ite

theorem State.retireStage_keeps {z s : State} {x1} (h : Keeps z s) : Keeps z (State.retireStage s x1) := by
  unfold State.retireStage
  repeat' first
    | with_reducible assumption
    | with_reducible apply State.raise_keeps
    | with_reducible apply State.event_keeps
    | with_reducible apply State.setBit_keeps
    | with_reducible apply Keeps.ite

theorem State.spareSet_keeps {z s : State} {x1} (h : Keeps z s) : Keeps z (State.spareSet s x1) := by
  unfold State.spareSet
  repeat' first
    | with_reducible assumption
    | with_reducible apply State.endOfSpare_keeps
    | with_reducible apply State.retireSet_keeps
    | with_reducible apply State.event_keeps
    | with_reducible apply State.setBit_keeps
    | with_reducible apply Keeps.ite
    | (with_reducible refine Keeps.foldl (fun x a hx => ?_) ?_ _ <;> beta_reduce)

theorem State.sparePhase_keeps {z s : State} {x1} (h : Keeps z s) : Keeps z (State.sparePhase s x1) := by
  unfold State.sparePhase
  repeat' first
    | with_reducible assumption
    | with_reducible apply State.retirePhase_keeps
    | with_reducible apply State.event_keeps
    | with_reducible apply State.endOfSpare_keeps
    | with_reducible apply Keeps.ite
    | (with_reducible refine Keeps.foldl (fun x a hx => ?_) ?_ _ <;> beta_reduce)
    | (extract_lets +onlyGivenNames u; try clear_value u)
    | split

theorem State.spareDcx_keeps {z s : State} (h : Keeps z s) : Keeps z (Sys2Proof.Machine.State.spareDcx s) := by
  unfold State.spareDcx
  repeat' first
    | with_reducible assumption
    | with_reducible apply State.endOfSpare_keeps
    | with_reducible apply State.event_keeps
    | with_reducible apply State.setBit_keeps
    | with_reducible apply State.queueRetire_keeps
    | with_reducible apply State.raise_keeps
    | with_reducible apply State.auxStop_keeps
    | simp -zeta only [Keeps.mk_iff, Keeps.mkCom_iff, Keeps.mkLog_iff]
    | with_reducible apply Keeps.ite
    | (with_reducible refine Keeps.foldl (fun x a hx => ?_) ?_ _ <;> beta_reduce)

theorem State.spareChopper_keeps {z s : State} {x1} (h : Keeps z s) : Keeps z (Sys2Proof.Machine.State.spareChopper s x1) := by
  unfold State.spareChopper
  repeat' first
    | with_reducible assumption
    | with_reducible apply State.endOfSpare_keeps
    | with_reducible apply State.event_keeps
    | with_reducible apply State.queueRetire_keeps
    | with_reducible apply State.retireStage_keeps
    | simp -zeta only [Keeps.mk_iff, Keeps.mkCom_iff, Keeps.mkLog_iff]
    | with_reducible apply Keeps.ite

theorem State.spareStage_keeps {z s : State} {x1} (h : Keeps z s) : Keeps z (State.spareStage s x1) := by
  unfold State.spareStage
  repeat' first
    | with_reducible assumption
    | with_reducible apply State.endOfSpare_keeps
    | with_reducible apply State.retireStage_keeps
    | with_reducible apply Keeps.ite
    | (with_reducible refine Keeps.foldl (fun x a hx => ?_) ?_ _ <;> beta_reduce)

theorem State.spareRules_keeps {z s : State} (h : Keeps z s) : Keeps z (State.spareRules s) := by
  unfold State.spareRules
  repeat' first
    | with_reducible assumption
    | with_reducible apply State.spareSet_keeps
    | with_reducible apply State.spareChopper_keeps
    | with_reducible apply State.spareStage_keeps
    | with_reducible apply State.sparePhase_keeps
    | with_reducible apply State.spareDcx_keeps
    | (with_reducible refine Keeps.foldl (fun x a hx => ?_) ?_ _ <;> beta_reduce)
    | split

theorem State.wearSaves_keeps {z s : State} (h : Keeps z s) : Keeps z (State.wearSaves s) := by
  unfold State.wearSaves
  repeat' first
    | with_reducible assumption
    | with_reducible apply State.saveNow_keeps
    | with_reducible apply State.mramPut_keeps
    | with_reducible apply State.logLost_keeps
    | with_reducible apply State.spareRules_keeps
    | simp -zeta only [Keeps.mk_iff, Keeps.mkCom_iff, Keeps.mkLog_iff]
    | with_reducible apply Keeps.ite
    | (with_reducible refine Keeps.foldl (fun x a hx => ?_) ?_ _ <;> beta_reduce)

theorem execWearSave_keeps {z s : State} {x0} (h : Keeps z s) : KeepsOut z (execWearSave x0 s) := by
  unfold execWearSave
  repeat' first
    | with_reducible assumption
    | with_reducible apply State.advance_keeps
    | with_reducible apply State.wearSaves_keeps
    | with_reducible apply Keeps.out
    | (extract_lets +onlyGivenNames u; refine (?_ : Keeps z u → _) ?_; rotate_left; unfold u; rotate_left; intro hu; try clear_value u)
    | split

end Sys2Proof.Machine
end

