-- ==== Sys2Proof/Laws/KeepsArming.lean ====
section
/-! SUPPORT. The operations and meanings of Machine/Arming.lean keep what every step keeps. -/

set_option linter.unreachableTactic false
set_option linter.unusedTactic false
set_option linter.unusedSimpArgs false
set_option linter.tactic.unusedName false
set_option linter.unusedVariables false

namespace Sys2Proof.Machine
open Sys2Proof

theorem State.refuseArming_keeps {z s : State} {x1} (h : Keeps z s) : Keeps z (State.refuseArming s x1) := by
  unfold State.refuseArming
  repeat' first
    | with_reducible assumption
    | with_reducible apply State.raise_keeps
    | split

theorem State.endHolds_keeps {z s : State} (h : Keeps z s) : Keeps z (State.endHolds s) := by
  unfold State.endHolds
  repeat' first
    | with_reducible assumption
    | with_reducible apply State.endHold_keeps
    | simp -zeta only [Keeps.mk_iff, Keeps.mkCom_iff, Keeps.mkLog_iff]
    | (with_reducible refine Keeps.foldl (fun x a hx => ?_) ?_ _ <;> beta_reduce)
    | (extract_lets +onlyGivenNames u; refine (?_ : Keeps z u → _) ?_; rotate_left; unfold u; rotate_left; intro hu; try clear_value u)

theorem State.toStandby_keeps {z s : State} (h : Keeps z s) : Keeps z (State.toStandby s) := by
  unfold State.toStandby
  repeat' first
    | with_reducible assumption
    | with_reducible apply State.stopSwitching_keeps
    | with_reducible apply State.setB_keeps
    | with_reducible apply State.chgEnd_keeps
    | with_reducible apply State.auxStopped_keeps
    | with_reducible apply State.setF_keeps
    | with_reducible apply State.answer_keeps
    | with_reducible apply State.showModes_keeps
    | with_reducible apply State.toPower_keeps
    | simp -zeta only [Keeps.mk_iff, Keeps.mkCom_iff, Keeps.mkLog_iff]
    | with_reducible apply Keeps.ite
    | (with_reducible refine Keeps.foldl (fun x a hx => ?_) ?_ _ <;> beta_reduce)
    | (extract_lets +onlyGivenNames u; refine (?_ : Keeps z u → _) ?_; rotate_left; unfold u; rotate_left; intro hu; try clear_value u)
    | (extract_lets +onlyGivenNames u; try clear_value u)
    | split

theorem State.requestArmed_keeps {z s : State} (h : Keeps z s) : KeepsRes z (State.requestArmed s) := by
  unfold State.requestArmed
  repeat' first
    | with_reducible assumption
    | with_reducible apply refuse_keeps
    | with_reducible apply State.refuseArming_keeps
    | with_reducible apply State.setF_keeps
    | simp -zeta only [Keeps.mk_iff, Keeps.mkCom_iff, Keeps.mkLog_iff]
    | with_reducible apply Keeps.done
    | (extract_lets +onlyGivenNames u; try clear_value u)
    | split

theorem State.requestStandby_keeps {z s : State} (h : Keeps z s) : KeepsRes z (State.requestStandby s) := by
  unfold State.requestStandby
  repeat' first
    | with_reducible assumption
    | with_reducible apply okWith_keeps
    | with_reducible apply State.abortArming_keeps
    | with_reducible apply refuse_keeps
    | with_reducible apply State.toStandby_keeps
    | with_reducible apply State.endHolds_keeps
    | split

theorem execSetState_keeps {z s : State} {x0} (h : Keeps z s) : KeepsOut z (execSetState x0 s) := by
  unfold execSetState
  repeat' first
    | with_reducible assumption
    | (with_reducible refine serveOp_keeps (by with_reducible assumption) fun z t u hu => ?_; beta_reduce)
    | with_reducible apply State.requestArmed_keeps
    | with_reducible apply State.requestStandby_keeps
    | with_reducible apply refuse_keeps
    | (extract_lets +onlyGivenNames u; try clear_value u)
    | split

theorem execArmingComplete_keeps {z s : State} {x0 x1} (h : Keeps z s) : KeepsOut z (Sys2Proof.Machine.execArmingComplete x0 x1 s) := by
  unfold execArmingComplete
  repeat' first
    | with_reducible assumption
    | with_reducible apply State.advance_keeps
    | with_reducible apply State.abortArming_keeps
    | with_reducible apply State.limitsFail_keeps
    | with_reducible apply State.raise_keeps
    | with_reducible apply State.setF_keeps
    | with_reducible apply State.toPower_keeps
    | with_reducible apply State.setB_keeps
    | simp -zeta only [Keeps.mk_iff, Keeps.mkCom_iff, Keeps.mkLog_iff]
    | with_reducible apply Keeps.out
    | (extract_lets +onlyGivenNames u; refine (?_ : Keeps z u → _) ?_; rotate_left; unfold u; rotate_left; intro hu; try clear_value u)
    | (extract_lets +onlyGivenNames u; try clear_value u)
    | split

end Sys2Proof.Machine
end

