-- ==== Sys2Proof/Laws/KeepsOutputs.lean ====
section
/-! SUPPORT. The operations and meanings of Machine/Outputs.lean keep what every step keeps. -/

set_option linter.unreachableTactic false
set_option linter.unusedTactic false
set_option linter.unusedSimpArgs false
set_option linter.tactic.unusedName false
set_option linter.unusedVariables false

namespace Sys2Proof.Machine
open Sys2Proof

theorem State.fastBoundary_keeps {z s : State} {x1} (h : Keeps z s) : Keeps z (State.fastBoundary s x1) := by
  unfold State.fastBoundary
  repeat' first
    | with_reducible assumption
    | with_reducible apply State.applyPart_keeps

theorem State.fineBoundary_keeps {z s : State} {x1} (h : Keeps z s) : Keeps z (State.fineBoundary s x1) := by
  unfold State.fineBoundary
  repeat' first
    | with_reducible assumption
    | with_reducible apply State.applyPart_keeps

theorem execCompOutput_keeps {z s : State} {x0 x1 x2} (h : Keeps z s) : KeepsOut z (execCompOutput x0 x1 x2 s) := by
  unfold execCompOutput
  repeat' first
    | with_reducible assumption
    | with_reducible apply State.advance_keeps
    | with_reducible apply State.compWord_keeps
    | with_reducible apply State.showModes_keeps
    | with_reducible apply State.slateComp_keeps
    | with_reducible apply Keeps.out
    | (extract_lets +onlyGivenNames u; refine (?_ : Keeps z u → _) ?_; rotate_left; unfold u; rotate_left; intro hu; try clear_value u)
    | (extract_lets +onlyGivenNames u; try clear_value u)
    | (with_reducible refine KeepsOptFst.of (by with_reducible assumption) ?_)
    | split

theorem State.deliverFast_keeps {z s : State} {x1 x2} (h : Keeps z s) : Keeps z (State.deliverFast s x1 x2) := by
  unfold State.deliverFast
  repeat' first
    | with_reducible assumption
    | with_reducible apply State.showPos_keeps
    | with_reducible apply State.routeOut_keeps
    | simp -zeta only [Keeps.mk_iff, Keeps.mkCom_iff, Keeps.mkLog_iff]
    | (extract_lets +onlyGivenNames u; refine (?_ : Keeps z u → _) ?_; rotate_left; unfold u; rotate_left; intro hu; try clear_value u)
    | (extract_lets +onlyGivenNames u; (have hc : Com := u); clear hc; subst u)
    | split

theorem execFastOutput_keeps {z s : State} {x0 x1 x2} (h : Keeps z s) : KeepsOut z (execFastOutput x0 x1 x2 s) := by
  unfold execFastOutput
  repeat' first
    | with_reducible assumption
    | with_reducible apply State.advance_keeps
    | with_reducible apply State.fastWord_keeps
    | with_reducible apply State.fastBoundary_keeps
    | with_reducible apply State.deliverFast_keeps
    | with_reducible apply Keeps.out
    | (extract_lets +onlyGivenNames u; refine (?_ : Keeps z u → _) ?_; rotate_left; unfold u; rotate_left; intro hu; try clear_value u)
    | (extract_lets +onlyGivenNames u; try clear_value u)
    | (with_reducible refine Keeps.fst (by with_reducible assumption) ?_)
    | split

theorem State.ntcWord_keeps {z s : State} {x1 x2} (h : Keeps z s) : Keeps z (State.ntcWord s x1 x2) := by
  unfold State.ntcWord
  repeat' first
    | with_reducible assumption
    | with_reducible apply State.takeNtc_keeps
    | with_reducible apply Keeps.ite

theorem State.ntcSkip_keeps {z s : State} {x1 x2} (h : Keeps z s) : Keeps z (Sys2Proof.Machine.State.ntcSkip s x1 x2) := by
  unfold State.ntcSkip
  repeat' first
    | with_reducible assumption
    | with_reducible apply State.ntcMiss_keeps
    | with_reducible apply Keeps.ite

theorem State.gz31Word_keeps {z s : State} {x1 x2 x3} (h : Keeps z s) : Keeps z (State.gz31Word s x1 x2 x3) := by
  unfold State.gz31Word
  repeat' first
    | with_reducible assumption
    | with_reducible apply State.refCheck_keeps
    | with_reducible apply State.dieWord_keeps
    | with_reducible apply Keeps.ite
    | (with_reducible refine Keeps.foldl (fun x a hx => ?_) ?_ _ <;> beta_reduce)

theorem State.deliverFine_keeps {z s : State} {x1 x2 x3 x4} (h : Keeps z s) : Keeps z (State.deliverFine s x1 x2 x3 x4) := by
  unfold State.deliverFine
  repeat' first
    | with_reducible assumption
    | with_reducible apply State.integrateGrid_keeps
    | with_reducible apply State.ntcWord_keeps
    | with_reducible apply State.routeOut_keeps
    | with_reducible apply State.showModes_keeps
    | with_reducible apply State.gz31Word_keeps
    | with_reducible apply Keeps.ite

theorem execFineOutput_keeps {z s : State} {x0 x1 x2 x3 x4} (h : Keeps z s) : KeepsOut z (Sys2Proof.Machine.execFineOutput x0 x1 x2 x3 x4 s) := by
  unfold execFineOutput
  repeat' first
    | with_reducible assumption
    | with_reducible apply State.advance_keeps
    | with_reducible apply State.fineWord_keeps
    | with_reducible apply State.fineBoundary_keeps
    | with_reducible apply State.deliverFine_keeps
    | with_reducible apply State.ntcSkip_keeps
    | with_reducible apply Keeps.out
    | (extract_lets +onlyGivenNames u; refine (?_ : Keeps z u → _) ?_; rotate_left; unfold u; rotate_left; intro hu; try clear_value u)
    | (extract_lets +onlyGivenNames u; try clear_value u)
    | (with_reducible refine Keeps.fst (by with_reducible assumption) ?_)
    | split

theorem State.slotBoundary_keeps {z s : State} {x1} (h : Keeps z s) : Keeps z (State.slotBoundary s x1) := by
  unfold State.slotBoundary
  repeat' first
    | with_reducible assumption
    | with_reducible apply State.fineBoundary_keeps
    | with_reducible apply State.applyPart_keeps
    | with_reducible apply State.fastBoundary_keeps
    | with_reducible apply Keeps.ite

theorem State.deliverSlot_keeps {z s : State} {x1 x2 x3 x4 x5} (h : Keeps z s) : Keeps z (State.deliverSlot s x1 x2 x3 x4 x5) := by
  unfold State.deliverSlot
  repeat' first
    | with_reducible assumption
    | with_reducible apply State.showPos_keeps
    | with_reducible apply State.routeOut_keeps
    | with_reducible apply State.deliverFine_keeps
    | with_reducible apply Keeps.ite

theorem execSlotConversion_keeps {z s : State} {x0 x1 x2} (h : Keeps z s) : KeepsOut z (Sys2Proof.Machine.execSlotConversion x0 x1 x2 s) := by
  unfold execSlotConversion
  repeat' first
    | with_reducible assumption
    | with_reducible apply State.advance_keeps
    | with_reducible apply State.slotWord_keeps
    | with_reducible apply State.slotBoundary_keeps
    | with_reducible apply State.deliverSlot_keeps
    | with_reducible apply State.ntcSkip_keeps
    | with_reducible apply Keeps.out
    | (extract_lets +onlyGivenNames u; refine (?_ : Keeps z u → _) ?_; rotate_left; unfold u; rotate_left; intro hu; try clear_value u)
    | (extract_lets +onlyGivenNames u; try clear_value u)
    | (with_reducible refine Keeps.fst (by with_reducible assumption) ?_)
    | split

end Sys2Proof.Machine
end

