-- ==== Sys2Proof/Laws/KeepsWrites.lean ====
section
/-! SUPPORT. The operations and meanings of Machine/Writes.lean keep what every step keeps. -/

set_option linter.unreachableTactic false
set_option linter.unusedTactic false
set_option linter.unusedSimpArgs false
set_option linter.tactic.unusedName false
set_option linter.unusedVariables false

namespace Sys2Proof.Machine
open Sys2Proof

theorem State.lockRefused_keeps {z s : State} {x1 x2 x3} (h : Keeps z s) : Keeps z (State.lockRefused s x1 x2 x3) := by
  unfold State.lockRefused
  repeat' first
    | with_reducible assumption
    | with_reducible apply State.setF_keeps
    | with_reducible apply State.bump_keeps
    | with_reducible apply State.raiseRate_keeps
    | with_reducible apply State.event_keeps

theorem State.mirrorWrite_keeps {z s : State} {x1 x2} (h : Keeps z s) : Keeps z (State.mirrorWrite s x1 x2) := by
  unfold State.mirrorWrite
  repeat' first
    | with_reducible assumption
    | with_reducible apply State.event_keeps
    | with_reducible apply State.lockRefused_keeps
    | simp -zeta only [Keeps.mk_iff, Keeps.mkCom_iff, Keeps.mkLog_iff]
    | (extract_lets +onlyGivenNames u; refine (?_ : Keeps z u → _) ?_; rotate_left; unfold u; rotate_left; intro hu; try clear_value u)

theorem State.afterWrite_keeps {z s : State} {x1} (h : Keeps z s) : Keeps z (Sys2Proof.Machine.State.afterWrite s x1) := by
  unfold State.afterWrite
  repeat' first
    | with_reducible assumption
    | with_reducible apply State.showEff_keeps
    | with_reducible apply State.showModes_keeps
    | with_reducible apply State.setB_keeps
    | with_reducible apply State.showVspd_keeps
    | with_reducible apply State.chargerFollows_keeps
    | with_reducible apply State.leDwell_keeps
    | simp -zeta only [Keeps.mk_iff, Keeps.mkCom_iff, Keeps.mkLog_iff]
    | with_reducible apply Keeps.ite
    | (extract_lets +onlyGivenNames u; try clear_value u)
    | split

theorem State.settle_keeps {z s : State} (h : Keeps z s) : Keeps z (State.settle s) := by
  unfold State.settle
  repeat' first
    | with_reducible assumption
    | with_reducible apply State.afterWrite_keeps
    | with_reducible apply State.applyPart_keeps
    | with_reducible apply Keeps.ite
    | (with_reducible refine Keeps.foldl (fun x a hx => ?_) ?_ _ <;> beta_reduce)

theorem State.shadowWrite_keeps {z s : State} {a m value} {held : Bool} (h : Keeps z s) (hh : held = true → s.heldWrites < 64) :
    Keeps z (State.shadowWrite s a m value held) := by
  have k : Keeps z { s with shadow := s.shadow ++ [({ addr := a, mask := m, value := value, held := held, armed := false } : PendWrite)] } := by
    refine h.trans ⟨rfl, Nat.le_refl _, Ridge.Kept.refl _, fun _ _ x => ⟨x.sessions, x.caches, x.recs, x.fifo, ?_, x.regs⟩⟩
    have hx := x.held
    unfold State.heldWrites at hx hh ⊢
    rcases held with _ | _
    · simpa using hx
    · have := hh rfl
      simpa using this
  unfold State.shadowWrite
  dsimp only
  split
  · exact State.setF_keeps k
  · exact State.settle_keeps k

theorem State.storeNow_keeps {z s : State} {x1 x2 x3} (h : Keeps z s) : Keeps z (State.storeNow s x1 x2 x3) := by
  unfold State.storeNow
  repeat' first
    | with_reducible assumption
    | with_reducible apply State.setW_keeps
    | with_reducible apply State.setF_keeps
    | with_reducible apply Keeps.ite
    | (with_reducible refine Keeps.foldl (fun x a hx => ?_) ?_ _ <;> beta_reduce)

theorem State.writeRun_keeps {z s : State} {x1 x2} (h : Keeps z s) : Keeps z (State.writeRun s x1 x2) := by
  unfold State.writeRun
  repeat' first
    | with_reducible assumption
    | with_reducible apply State.carrierRun_keeps
    | with_reducible apply State.settle_keeps
    | with_reducible apply State.carrierStop_keeps
    | with_reducible apply Keeps.ite

theorem State.tripMapGrown_keeps {z s : State} {x1 x2} (h : Keeps z s) : Keeps z (State.tripMapGrown s x1 x2) := by
  unfold State.tripMapGrown
  repeat' first
    | with_reducible assumption
    | with_reducible apply State.trip_keeps
    | with_reducible apply State.event_keeps
    | with_reducible apply Keeps.ite

theorem State.wearReset_keeps {z s : State} {x1} (h : Keeps z s) : Keeps z (State.wearReset s x1) := by
  unfold State.wearReset
  repeat' first
    | with_reducible assumption
    | with_reducible apply State.setF_keeps
    | with_reducible apply State.setQ_keeps
    | with_reducible apply State.mramPut_keeps
    | with_reducible apply State.saveNow_keeps
    | with_reducible apply State.setBit_keeps
    | with_reducible apply State.raise_keeps
    | with_reducible apply State.event_keeps
    | with_reducible apply State.bump_keeps
    | simp -zeta only [Keeps.mk_iff, Keeps.mkCom_iff, Keeps.mkLog_iff]
    | with_reducible apply Keeps.ite
    | (with_reducible refine Keeps.foldl (fun x a hx => ?_) ?_ _ <;> beta_reduce)

theorem State.debugWrite_keeps {z s : State} {x1} (h : Keeps z s) : Keeps z (State.debugWrite s x1) := by
  unfold State.debugWrite
  repeat' first
    | with_reducible assumption
    | with_reducible apply State.setF_keeps
    | with_reducible apply State.raise_keeps
    | with_reducible apply State.bump_keeps
    | simp -zeta only [Keeps.mk_iff, Keeps.mkCom_iff, Keeps.mkLog_iff]
    | with_reducible apply Keeps.ite

theorem State.clearEvents_keeps {z s : State} {x1} (h : Keeps z s) : Keeps z (State.clearEvents s x1) := by
  unfold State.clearEvents
  repeat' first
    | with_reducible assumption
    | with_reducible apply State.setW_keeps
    | with_reducible apply State.event_keeps
    | (with_reducible refine Keeps.foldl (fun x a hx => ?_) ?_ _ <;> beta_reduce)

theorem State.rcsWrite_keeps {z s : State} {x1 x2 x3} (h : Keeps z s) : Keeps z (State.rcsWrite s x1 x2 x3).2 := by
  unfold State.rcsWrite
  repeat' first
    | with_reducible assumption
    | with_reducible apply State.clearEvents_keeps
    | split

theorem State.carMoved_keeps {z s : State} {x1 x2} (h : Keeps z s) : Keeps z (State.carMoved s x1 x2) := by
  unfold State.carMoved
  repeat' first
    | with_reducible assumption
    | with_reducible apply State.setHb_keeps
    | with_reducible apply Keeps.ite

theorem foldl_shadow {α : Type} {f : State → α → State} (hf : ∀ x a, (f x a).shadow = x.shadow) (l : List α) (s : State) :
    (l.foldl f s).shadow = s.shadow := by
  induction l generalizing s with
  | nil => rfl
  | cons a l ih => rw [List.foldl_cons, ih, hf]

theorem State.shadow_of_setF (s : State) (f : Fld) (v : Nat) : (s.setF f v).shadow = s.shadow := rfl

theorem State.storeNow_shadow (s : State) (a mask value : Nat) : (s.storeNow a mask value).shadow = s.shadow := by
  unfold State.storeNow
  dsimp only
  rw [foldl_shadow]
  · rfl
  · intro x f
    split
    · rfl
    · rfl

theorem State.showModes_shadow (s : State) : s.showModes.shadow = s.shadow := by
  have k : ∀ t : State, t.settleRun.shadow = t.shadow := by
    intro t
    unfold State.settleRun
    split
    · rfl
    · split <;> rfl
  exact k _

theorem State.showVspd_shadow (s : State) : s.showVspd.shadow = s.shadow := by
  unfold State.showVspd
  split <;> rfl

theorem State.showCurrent_shadow (s : State) : s.showCurrent.shadow = s.shadow := by
  unfold State.showCurrent
  dsimp only
  split <;> rfl

theorem State.toPhase_shadow (s : State) (ph : Nat) : (s.toPhase ph).shadow = s.shadow := State.showCurrent_shadow _

theorem State.leDwell_shadow (s : State) (e : Nat) : (s.leDwell e).shadow = s.shadow := by
  unfold State.leDwell
  dsimp only
  split <;> rfl

theorem State.chargerFollows_shadow (s : State) : s.chargerFollows.shadow = s.shadow := by
  unfold State.chargerFollows
  dsimp only
  rw [State.showCurrent_shadow]
  split
  · exact State.toPhase_shadow _ _
  · rfl

theorem State.afterWrite_shadow (s : State) (a : Nat) : (s.afterWrite a).shadow = s.shadow := by
  unfold State.afterWrite
  split
  · rfl
  · rfl
  · rfl
  · exact State.showModes_shadow s
  · split <;> rfl
  · split
    · exact State.showVspd_shadow _
    · split
      · rfl
      · split
        · exact State.chargerFollows_shadow s
        · split
          · exact State.leDwell_shadow s _
          · rfl

theorem State.carMoved_shadow (s : State) (h old : Nat) : (s.carMoved h old).shadow = s.shadow := by
  unfold State.carMoved
  split <;> rfl

theorem State.moved_shadow (s : State) (a m value h old : Nat) : ((s.storeNow a m value).carMoved h old).shadow = s.shadow := by
  rw [State.carMoved_shadow, State.storeNow_shadow]

theorem maskIn_land {a mask c : Nat} {p : FieldRow → Bool} (h : maskIn a (Nat.land mask c) p ≠ 0) : maskIn a mask p ≠ 0 := by
  intro h0
  apply h
  unfold maskIn at h0 ⊢
  have e : (Nat.land (Nat.land mask c) (maskWhere p a)) = Nat.land c (Nat.land mask (maskWhere p a)) := by
    show (mask &&& c) &&& maskWhere p a = c &&& (mask &&& maskWhere p a)
    rw [Nat.and_comm mask c, Nat.and_assoc]
  rw [e, h0]
  exact Nat.and_zero c

theorem State.writeFields_keeps {z s : State} {w session a mask value} (h : Keeps z s)
    (hh : s.holds w session = true → maskIn a mask (fun f => f.acc == .rws) ≠ 0 → s.heldWrites < 64) :
    Keeps z (State.writeFields s w session a mask value).2 := by
  have sh : ∀ {t : State} {m : Nat}, Keeps z t → t.shadow = s.shadow → (maskIn a m (fun f => f.acc == .rws) ≠ 0 → maskIn a mask (fun f => f.acc == .rws) ≠ 0) →
      Keeps z (if maskIn a m (fun f => f.acc == .rws) = 0 then t else t.shadowWrite a (maskIn a m fun f => f.acc == .rws) value (s.holds w session)) := by
    intro t m ht e hm
    split
    · exact ht
    · refine State.shadowWrite_keeps ht fun hk => ?_
      rw [State.heldWrites, e]
      exact hh hk (hm (by assumption))
  unfold State.writeFields
  split
  · dsimp only
    split
    · exact State.writeRun_keeps (State.storeNow_keeps h)
    · exact State.storeNow_keeps h
  · dsimp only
    split
    · exact State.event_keeps (sh (State.carMoved_keeps (State.storeNow_keeps h)) (State.moved_shadow _ _ _ _ _ _) fun hm => maskIn_land hm)
    · exact sh (State.carMoved_keeps (State.storeNow_keeps h)) (State.moved_shadow _ _ _ _ _ _) id
  · exact State.tripMapGrown_keeps (State.storeNow_keeps h)
  · split
    · dsimp only
      split
      · exact Keeps.foldl (fun x st hx => State.wearReset_keeps hx) h _
      · exact h
    · dsimp only
      refine sh ?_ ?_ id
      · refine Keeps.ite ?_ (State.afterWrite_keeps (State.storeNow_keeps ?_)) <;> exact Keeps.ite (State.countCharge_keeps h) h
      · split
        · split <;> rfl
        · rw [State.afterWrite_shadow, State.storeNow_shadow]
          split <;> rfl

theorem State.writeWord_keeps {z s : State} {w session a mask value} (h : Keeps z s) : Keeps z (State.writeWord s w session a mask value).2 := by
  unfold State.writeWord
  dsimp only
  split
  · exact h
  split
  · exact State.lockRefused_keeps h
  split
  · exact State.lockRefused_keeps h
  split
  · exact State.rcsWrite_keeps h
  split
  · exact h
  split
  · split
    · exact h
    · exact State.debugWrite_keeps h
  split
  · exact State.settle_keeps (State.gzWriteCfg_keeps h)
  split
  · exact h
  · rename_i hf
    refine State.writeFields_keeps h fun hk hm => ?_
    simp only [State.holdFull, hk, Bool.true_and, Bool.and_eq_true, bne_iff_ne, ne_eq, decide_eq_true_eq, not_and, Nat.not_le] at hf
    exact hf hm

theorem State.regWrite_keeps {z s : State} {x1 x2 x3 x4 x5} (h : Keeps z s) : Keeps z (State.regWrite s x1 x2 x3 x4 x5).2 := by
  unfold State.regWrite
  repeat' first
    | with_reducible assumption
    | with_reducible apply State.mirrorWrite_keeps
    | with_reducible apply State.writeWord_keeps
    | split

theorem execRegWrite_keeps {z s : State} {x0} (h : Keeps z s) : KeepsOut z (execRegWrite x0 s) := by
  unfold execRegWrite
  repeat' first
    | with_reducible assumption
    | (with_reducible refine serveOp_keeps (by with_reducible assumption) fun z t u hu => ?_; beta_reduce)
    | with_reducible apply State.regWrite_keeps
    | simp -zeta only [Keeps.mk_iff, Keeps.mkCom_iff, Keeps.mkLog_iff]
    | with_reducible apply Keeps.done

theorem execGzConfig_keeps {z s : State} {x0} (h : Keeps z s) : KeepsOut z (execGzConfig x0 s) := by
  unfold execGzConfig
  repeat' first
    | with_reducible assumption
    | (with_reducible refine serveOp_keeps (by with_reducible assumption) fun z t u hu => ?_; beta_reduce)
    | with_reducible apply refuse_keeps
    | with_reducible apply State.regWrite_keeps
    | simp -zeta only [Keeps.mk_iff, Keeps.mkCom_iff, Keeps.mkLog_iff]
    | with_reducible apply Keeps.done
    | (extract_lets +onlyGivenNames u; try clear_value u)
    | split

theorem execApplyRelease_keeps {z s : State} {x0} (h : Keeps z s) : KeepsOut z (execApplyRelease x0 s) := by
  unfold execApplyRelease
  repeat' first
    | with_reducible assumption
    | (with_reducible refine serveOp_keeps (by with_reducible assumption) fun z t u hu => ?_; beta_reduce)
    | with_reducible apply okWith_keeps
    | with_reducible apply State.settle_keeps
    | with_reducible apply State.releaseHold_keeps
    | with_reducible apply Keeps.ite
    | split

theorem State.handoverWrite_keeps {z s : State} {x1 x2 x3} (h : Keeps z s) : Keeps z (State.handoverWrite s x1 x2 x3) := by
  unfold State.handoverWrite
  repeat' first
    | with_reducible assumption
    | with_reducible apply State.storeNow_keeps
    | with_reducible apply Keeps.ite
    | split

theorem writeEvent_keeps {z s : State} {x0 f1 x2 x3 x4 x5 x6} (h : Keeps z s) : KeepsOut z (writeEvent x0 f1 x2 x3 x4 x5 x6 s) := by
  unfold writeEvent
  repeat' first
    | with_reducible assumption
    | with_reducible apply State.advance_keeps
    | with_reducible apply State.regWrite_keeps
    | with_reducible apply State.handoverWrite_keeps
    | with_reducible apply Keeps.out
    | with_reducible apply Keeps.ite

theorem execRegisterWrite_keeps {z s : State} {x0 x1 x2 x3 x4} (h : Keeps z s) : KeepsOut z (execRegisterWrite x0 x1 x2 x3 x4 s) := by
  unfold execRegisterWrite
  repeat' first
    | with_reducible assumption
    | with_reducible apply writeEvent_keeps

theorem execEventClear_keeps {z s : State} {x0 x1 x2 x3 x4} (h : Keeps z s) : KeepsOut z (execEventClear x0 x1 x2 x3 x4 s) := by
  unfold execEventClear
  repeat' first
    | with_reducible assumption
    | with_reducible apply writeEvent_keeps

theorem execMirrorWrite_keeps {z s : State} {x0 x1 x2 x3 x4} (h : Keeps z s) : KeepsOut z (execMirrorWrite x0 x1 x2 x3 x4 s) := by
  unfold execMirrorWrite
  repeat' first
    | with_reducible assumption
    | with_reducible apply writeEvent_keeps

theorem execCarrierRun_keeps {z s : State} {x0 x1 x2} (h : Keeps z s) : KeepsOut z (execCarrierRun x0 x1 x2 s) := by
  unfold execCarrierRun
  repeat' first
    | with_reducible assumption
    | with_reducible apply writeEvent_keeps

theorem execCarrierStop_keeps {z s : State} {x0 x1 x2} (h : Keeps z s) : KeepsOut z (execCarrierStop x0 x1 x2 s) := by
  unfold execCarrierStop
  repeat' first
    | with_reducible assumption
    | with_reducible apply writeEvent_keeps

theorem execGzCfgWrite_keeps {z s : State} {x0 x1 x2 x3 x4} (h : Keeps z s) : KeepsOut z (execGzCfgWrite x0 x1 x2 x3 x4 s) := by
  unfold execGzCfgWrite
  repeat' first
    | with_reducible assumption
    | with_reducible apply writeEvent_keeps

theorem execSltLimitWrite_keeps {z s : State} {x0 x1 x2 x3 x4} (h : Keeps z s) : KeepsOut z (execSltLimitWrite x0 x1 x2 x3 x4 s) := by
  unfold execSltLimitWrite
  repeat' first
    | with_reducible assumption
    | with_reducible apply writeEvent_keeps

theorem execWearResetWrite_keeps {z s : State} {x0 x1 x2 x3} (h : Keeps z s) : KeepsOut z (execWearResetWrite x0 x1 x2 x3 s) := by
  unfold execWearResetWrite
  repeat' first
    | with_reducible assumption
    | with_reducible apply writeEvent_keeps

theorem execDebugUnlockWrite_keeps {z s : State} {x0 x1 x2 x3} (h : Keeps z s) : KeepsOut z (execDebugUnlockWrite x0 x1 x2 x3 s) := by
  unfold execDebugUnlockWrite
  repeat' first
    | with_reducible assumption
    | with_reducible apply writeEvent_keeps

end Sys2Proof.Machine
end

