-- ==== Sys2Proof/Laws/KeepsRegs.lean ====
section
/-! SUPPORT. The operations and meanings of Machine/Regs.lean keep what every step keeps. -/

set_option linter.unreachableTactic false
set_option linter.unusedTactic false
set_option linter.unusedSimpArgs false
set_option linter.tactic.unusedName false
set_option linter.unusedVariables false

namespace Sys2Proof.Machine
open Sys2Proof

theorem State.readsMbx_keeps {z s : State} {x1 x2 x3} (h : Keeps z s) : Keeps z (State.readsMbx s x1 x2 x3) := by
  unfold State.readsMbx
  repeat' first
    | with_reducible assumption
    | with_reducible apply State.mbxRead_keeps
    | with_reducible apply Keeps.ite

theorem execRegRead_keeps {z s : State} {x0} (h : Keeps z s) : KeepsOut z (execRegRead x0 s) := by
  unfold execRegRead
  repeat' first
    | with_reducible assumption
    | (with_reducible refine serveOp_keeps (by with_reducible assumption) fun z t u hu => ?_; beta_reduce)
    | with_reducible apply refuse_keeps
    | with_reducible apply okWith_keeps
    | with_reducible apply State.readsMbx_keeps
    | (extract_lets +onlyGivenNames u; try clear_value u)
    | split

theorem execRegReadBlock_keeps {z s : State} {x0} (h : Keeps z s) : KeepsOut z (execRegReadBlock x0 s) := by
  unfold execRegReadBlock
  repeat' first
    | with_reducible assumption
    | (with_reducible refine serveOp_keeps (by with_reducible assumption) fun z t u hu => ?_; beta_reduce)
    | with_reducible apply refuse_keeps
    | with_reducible apply okWith_keeps
    | with_reducible apply State.readsMbx_keeps
    | (extract_lets +onlyGivenNames u; try clear_value u)
    | split

theorem State.tlmTriple_keeps {z s : State} {x1 x2} (h : Keeps z s) : Keeps z (State.tlmTriple s x1 x2).2 := by
  unfold State.tlmTriple
  repeat' first
    | with_reducible assumption
    | with_reducible apply State.draw_keeps
    | simp -zeta only [Keeps.mk_iff, Keeps.mkCom_iff, Keeps.mkLog_iff]
    | split

theorem State.mbxStore_keeps {z s : State} {x1 x2 x3} (h : Keeps z s) : Keeps z (State.mbxStore s x1 x2 x3) := by
  unfold State.mbxStore
  repeat' first
    | with_reducible assumption
    | with_reducible apply State.setF_keeps
    | simp -zeta only [Keeps.mk_iff, Keeps.mkCom_iff, Keeps.mkLog_iff]
    | (with_reducible refine Keeps.foldl (fun x a hx => ?_) ?_ _ <;> beta_reduce)
    | (extract_lets +onlyGivenNames u; refine (?_ : Keeps z u → _) ?_; rotate_left; unfold u; rotate_left; intro hu; try clear_value u)
    | (extract_lets +onlyGivenNames u; (have hc : Com := u); clear hc; subst u)

theorem execMbxSnapshot_keeps {z s : State} {x0} (h : Keeps z s) : KeepsOut z (execMbxSnapshot x0 s) := by
  unfold execMbxSnapshot
  repeat' first
    | with_reducible assumption
    | (with_reducible refine serveOp_keeps (by with_reducible assumption) fun z t u hu => ?_; beta_reduce)
    | with_reducible apply refuse_keeps
    | with_reducible apply okWith_keeps
    | with_reducible apply State.mbxStore_keeps
    | with_reducible apply State.tlmTriple_keeps
    | simp -zeta only [Keeps.mk_iff, Keeps.mkCom_iff, Keeps.mkLog_iff]
    | (extract_lets +onlyGivenNames u; try clear_value u)
    | split

end Sys2Proof.Machine
end

