-- ==== Sys2Proof/Laws/KeepsPackets.lean ====
section
/-! SUPPORT. The operations and meanings of Machine/Packets.lean keep what every step keeps. -/

set_option linter.unreachableTactic false
set_option linter.unusedTactic false
set_option linter.unusedSimpArgs false
set_option linter.tactic.unusedName false
set_option linter.unusedVariables false

namespace Sys2Proof.Machine
open Sys2Proof

theorem State.runningVersion_keeps {z s : State} {x1} (h : Keeps z s) : Keeps z (State.runningVersion s x1).2 := by
  unfold State.runningVersion
  repeat' first
    | with_reducible assumption
    | with_reducible apply State.draw_keeps
    | simp -zeta only [Keeps.mk_iff, Keeps.mkCom_iff, Keeps.mkLog_iff]
    | split

theorem State.versionData_keeps {z s : State} (h : Keeps z s) : Keeps z (State.versionData s).2 := by
  unfold State.versionData
  repeat' first
    | with_reducible assumption
    | with_reducible apply State.runningVersion_keeps

theorem execGetVersion_keeps {z s : State} {x0} (h : Keeps z s) : KeepsOut z (execGetVersion x0 s) := by
  unfold execGetVersion
  repeat' first
    | with_reducible assumption
    | (with_reducible refine serveOp_keeps (by with_reducible assumption) fun z t u hu => ?_; beta_reduce)
    | with_reducible apply State.versionData_keeps
    | with_reducible apply okWith_keeps

theorem execIdentRead_keeps {z s : State} {x0} (h : Keeps z s) : KeepsOut z (execIdentRead x0 s) := by
  unfold execIdentRead
  repeat' first
    | with_reducible assumption
    | (with_reducible refine serveOp_keeps (by with_reducible assumption) fun z t u hu => ?_; beta_reduce)
    | with_reducible apply okWith_keeps
    | with_reducible apply refuse_keeps
    | (extract_lets +onlyGivenNames u; try clear_value u)
    | split

theorem execCertRead_keeps {z s : State} {x0} (h : Keeps z s) : KeepsOut z (execCertRead x0 s) := by
  unfold execCertRead
  repeat' first
    | with_reducible assumption
    | (with_reducible refine serveOp_keeps (by with_reducible assumption) fun z t u hu => ?_; beta_reduce)
    | with_reducible apply refuse_keeps
    | simp -zeta only [Keeps.mk_iff, Keeps.mkCom_iff, Keeps.mkLog_iff]
    | with_reducible apply Keeps.done
    | (extract_lets +onlyGivenNames u; try clear_value u)
    | split

theorem State.tlmData_keeps {z s : State} {x1} (h : Keeps z s) : Keeps z (State.tlmData s x1).2 := by
  unfold State.tlmData
  repeat' first
    | with_reducible assumption
    | with_reducible apply State.tlmTriple_keeps
    | simp -zeta only [Keeps.mk_iff, Keeps.mkCom_iff, Keeps.mkLog_iff]
    | (with_reducible refine Keeps.foldlSnd (fun x a hx => ?_) ?_ _ <;> beta_reduce)

theorem execTlmRead_keeps {z s : State} {x0} (h : Keeps z s) : KeepsOut z (execTlmRead x0 s) := by
  unfold execTlmRead
  repeat' first
    | with_reducible assumption
    | (with_reducible refine serveOp_keeps (by with_reducible assumption) fun z t u hu => ?_; beta_reduce)
    | with_reducible apply refuse_keeps
    | with_reducible apply State.tlmData_keeps
    | with_reducible apply okWith_keeps
    | simp -zeta only [Keeps.mk_iff, Keeps.mkCom_iff, Keeps.mkLog_iff]
    | with_reducible apply Keeps.ite
    | (extract_lets +onlyGivenNames u; try clear_value u)
    | split

theorem State.lastFault_keeps {z s : State} {x1} (h : Keeps z s) : Keeps z (State.lastFault s x1).2 := by
  unfold State.lastFault
  repeat' first
    | with_reducible assumption
    | with_reducible apply State.draw_keeps
    | simp -zeta only [Keeps.mk_iff, Keeps.mkCom_iff, Keeps.mkLog_iff]
    | (with_reducible refine Keeps.foldlSnd (fun x a hx => ?_) ?_ _ <;> beta_reduce)
    | split

theorem execLastfaultRead_keeps {z s : State} {x0} (h : Keeps z s) : KeepsOut z (execLastfaultRead x0 s) := by
  unfold execLastfaultRead
  repeat' first
    | with_reducible assumption
    | (with_reducible refine serveOp_keeps (by with_reducible assumption) fun z t u hu => ?_; beta_reduce)
    | with_reducible apply refuse_keeps
    | with_reducible apply State.lastFault_keeps
    | with_reducible apply okWith_keeps
    | simp -zeta only [Keeps.mk_iff, Keeps.mkCom_iff, Keeps.mkLog_iff]
    | (extract_lets +onlyGivenNames u; try clear_value u)
    | split

theorem State.thermSwitch_keeps {z s : State} {x1} (h : Keeps z s) : Keeps z (State.thermSwitch s x1).2 := by
  unfold State.thermSwitch
  repeat' first
    | with_reducible assumption
    | with_reducible apply State.draw_keeps
    | simp -zeta only [Keeps.mk_iff, Keeps.mkCom_iff, Keeps.mkLog_iff]
    | (extract_lets +onlyGivenNames u; try clear_value u)
    | split

theorem State.switches_keeps {z s : State} {first count} {f : State → Nat → List Byte × State} (h : Keeps z s)
    (hf : ∀ u n, Keeps z u → Keeps z (f u n).2) : Keeps z (State.switches s first count f).2 := by
  unfold State.switches
  refine Keeps.foldlSnd (fun x a hx => ?_) (p := ([], s)) h _
  exact hf x.2 (first + a) hx

theorem readSwitches_keeps {z s : State} {code r} {f : State → Nat → List Byte × State} (h : Keeps z s)
    (hf : ∀ z u n, Keeps z u → Keeps z (f u n).2) : KeepsOut z (readSwitches code f r s) := by
  unfold readSwitches
  refine serveOp_keeps h fun z t u hu => ?_
  dsimp only
  split
  · exact refuse_keeps hu
  · exact okWith_keeps (State.switches_keeps hu (hf z))

theorem execThermRead_keeps {z s : State} {r} (h : Keeps z s) : KeepsOut z (execThermRead r s) :=
  readSwitches_keeps h fun _ _ _ hu => State.thermSwitch_keeps hu

theorem execWearRead_keeps {z s : State} {r} (h : Keeps z s) : KeepsOut z (execWearRead r s) :=
  readSwitches_keeps h fun _ _ _ hu => hu

theorem execSpareStatus_keeps {z s : State} {x0} (h : Keeps z s) : KeepsOut z (execSpareStatus x0 s) := by
  unfold execSpareStatus
  repeat' first
    | with_reducible assumption
    | (with_reducible refine serveOp_keeps (by with_reducible assumption) fun z t u hu => ?_; beta_reduce)
    | with_reducible apply okWith_keeps

theorem State.streamBegins_keeps {z s : State} {x1} (h : Keeps z s) : Keeps z (State.streamBegins s x1) := by
  unfold State.streamBegins
  dsimp only
  repeat' first
    | with_reducible assumption
    | with_reducible apply State.draw_keeps
    | simp -zeta only [Keeps.mk_iff, Keeps.mkCom_iff, Keeps.mkLog_iff]

theorem execTlmStream_keeps {z s : State} {x0} (h : Keeps z s) : KeepsOut z (execTlmStream x0 s) := by
  unfold execTlmStream
  repeat' first
    | with_reducible assumption
    | (with_reducible refine serveOp_keeps (by with_reducible assumption) fun z t u hu => ?_; beta_reduce)
    | with_reducible apply refuse_keeps
    | with_reducible apply okWith_keeps
    | with_reducible apply State.streamBegins_keeps
    | simp -zeta only [Keeps.mk_iff, Keeps.mkCom_iff, Keeps.mkLog_iff]
    | (extract_lets +onlyGivenNames u; (have hc : Com := u); clear hc; subst u)
    | (extract_lets +onlyGivenNames u; try clear_value u)
    | split

theorem State.streamSends_keeps {z s : State} {x1 x2} (h : Keeps z s) : Keeps z (State.streamSends s x1 x2) := by
  unfold State.streamSends
  repeat' first
    | with_reducible assumption
    | simp -zeta only [Keeps.mk_iff, Keeps.mkCom_iff, Keeps.mkLog_iff]
    | (extract_lets +onlyGivenNames u; (have hc : Com := u); clear hc; subst u)
    | (extract_lets +onlyGivenNames u; try clear_value u)

theorem execTlmStreamFrame_keeps {z s : State} {x0} (h : Keeps z s) : KeepsOut z (execTlmStreamFrame x0 s) := by
  unfold execTlmStreamFrame
  repeat' first
    | with_reducible assumption
    | with_reducible apply State.advance_keeps
    | with_reducible apply State.streamSends_keeps
    | with_reducible apply Keeps.out
    | (extract_lets +onlyGivenNames u; refine (?_ : Keeps z u → _) ?_; rotate_left; unfold u; rotate_left; intro hu; try clear_value u)
    | (extract_lets +onlyGivenNames u; try clear_value u)
    | split

end Sys2Proof.Machine
end

