-- ==== Sys2Proof/Laws/KeepsImage.lean ====
section
/-! SUPPORT. The operations and meanings of Machine/Image.lean keep what every step keeps. -/

set_option linter.unreachableTactic false
set_option linter.unusedTactic false
set_option linter.unusedSimpArgs false
set_option linter.tactic.unusedName false
set_option linter.unusedVariables false

namespace Sys2Proof.Machine
open Sys2Proof

theorem State.withFields_keeps {z s : State} {x1} (h : Keeps z s) : Keeps z (State.withFields s x1) := by
  unfold State.withFields
  repeat' first
    | with_reducible assumption
    | with_reducible apply State.setW_keeps
    | with_reducible apply Keeps.ite
    | (with_reducible refine Keeps.foldl (fun x a hx => ?_) ?_ _ <;> beta_reduce)

theorem State.showStage_keeps {z s : State} {x1 x2} (h : Keeps z s) : Keeps z (State.showStage s x1 x2) := by
  unfold State.showStage
  repeat' first
    | with_reducible assumption
    | with_reducible apply State.setF_keeps

theorem State.stageBegins_keeps {z s : State} {x1} (h : Keeps z s) : Keeps z (State.stageBegins s x1) := by
  unfold State.stageBegins
  repeat' first
    | with_reducible assumption
    | with_reducible apply State.showStage_keeps
    | simp -zeta only [Keeps.mk_iff, Keeps.mkCom_iff, Keeps.mkLog_iff]
    | with_reducible apply Keeps.ite

theorem execImgStage_keeps {z s : State} {x0} (h : Keeps z s) : KeepsOut z (execImgStage x0 s) := by
  unfold execImgStage
  dsimp only
  repeat' first
    | with_reducible assumption
    | (with_reducible refine Keeps.out (serve_keeps (by with_reducible assumption) fun z t u hu => ?_); beta_reduce)
    | with_reducible apply State.chunk_keeps
    | with_reducible apply refuseChunk_keeps
    | with_reducible apply refuse_keeps
    | with_reducible apply okWith_keeps
    | with_reducible apply State.stageBegins_keeps
    | simp -zeta only [Keeps.mk_iff, Keeps.mkCom_iff, Keeps.mkLog_iff]
    | with_reducible apply Keeps.later
    | (extract_lets +onlyGivenNames u; try clear_value u)
    | (with_reducible refine KeepsChunk.ofMore (by with_reducible assumption) ?_)
    | (with_reducible refine KeepsChunk.ofWhole (by with_reducible assumption) ?_)
    | split

theorem State.jobDone_keeps {z s : State} (h : Keeps z s) : Keeps z (State.jobDone s) := by
  unfold State.jobDone
  repeat' first
    | with_reducible assumption
    | simp -zeta only [Keeps.mk_iff, Keeps.mkCom_iff, Keeps.mkLog_iff]
    | (extract_lets +onlyGivenNames u; (have hc : Com := u); clear hc; subst u)

theorem State.imageJudged_keeps {z s : State} {x1 x2 x3} (h : Keeps z s) : Keeps z (State.imageJudged s x1 x2 x3) := by
  unfold State.imageJudged
  repeat' first
    | with_reducible assumption
    | with_reducible apply State.showStage_keeps
    | simp -zeta only [Keeps.mk_iff, Keeps.mkCom_iff, Keeps.mkLog_iff]
    | with_reducible apply Keeps.ite
    | (extract_lets +onlyGivenNames u; try clear_value u)
    | split

theorem execImageChecked_keeps {z s : State} {x0} (h : Keeps z s) : KeepsOut z (execImageChecked x0 s) := by
  unfold execImageChecked
  repeat' first
    | with_reducible assumption
    | with_reducible apply State.advance_keeps
    | with_reducible apply State.jobDone_keeps
    | with_reducible apply State.answer_keeps
    | with_reducible apply State.imageJudged_keeps
    | simp -zeta only [Keeps.mk_iff, Keeps.mkCom_iff, Keeps.mkLog_iff]
    | with_reducible apply Keeps.out
    | (extract_lets +onlyGivenNames u; refine (?_ : Keeps z u → _) ?_; rotate_left; unfold u; rotate_left; intro hu; try clear_value u)
    | split

theorem execImgCommit_keeps {z s : State} {x0} (h : Keeps z s) : KeepsOut z (execImgCommit x0 s) := by
  unfold execImgCommit
  repeat' first
    | with_reducible assumption
    | (with_reducible refine serveOp_keeps (by with_reducible assumption) fun z t u hu => ?_; beta_reduce)
    | with_reducible apply refuse_keeps
    | simp -zeta only [Keeps.mk_iff, Keeps.mkCom_iff, Keeps.mkLog_iff]
    | with_reducible apply Keeps.later
    | (extract_lets +onlyGivenNames u; try clear_value u)
    | split

theorem State.imgSwitch_keeps {z s : State} (h : Keeps z s) : Keeps z (State.imgSwitch s) := by
  unfold State.imgSwitch
  repeat' first
    | with_reducible assumption
    | with_reducible apply State.setF_keeps
    | simp -zeta only [Keeps.mk_iff, Keeps.mkCom_iff, Keeps.mkLog_iff]

theorem execImgCommitDone_keeps {z s : State} {x0} (h : Keeps z s) : KeepsOut z (execImgCommitDone x0 s) := by
  unfold execImgCommitDone
  repeat' first
    | with_reducible assumption
    | with_reducible apply State.advance_keeps
    | with_reducible apply State.answer_keeps
    | with_reducible apply State.imgSwitch_keeps
    | with_reducible apply Keeps.out
    | (extract_lets +onlyGivenNames u; refine (?_ : Keeps z u → _) ?_; rotate_left; unfold u; rotate_left; intro hu; try clear_value u)
    | split

theorem State.keepLong_keeps {z s : State} {x1 x2 x3} (h : Keeps z s) : Keeps z (State.keepLong s x1 x2 x3) := by
  unfold State.keepLong
  repeat' first
    | with_reducible assumption
    | simp -zeta only [Keeps.mk_iff, Keeps.mkCom_iff, Keeps.mkLog_iff]
    | (extract_lets +onlyGivenNames u; (have hc : Com := u); clear hc; subst u)
    | (extract_lets +onlyGivenNames u; try clear_value u)

theorem State.longRead_keeps {z s : State} {x1 x2 x3 x4 x5} (h : Keeps z s) : KeepsRes z (State.longRead s x1 x2 x3 x4 x5) := by
  unfold State.longRead
  repeat' first
    | with_reducible assumption
    | with_reducible apply State.keepLong_keeps
    | with_reducible apply refuse_keeps
    | simp -zeta only [Keeps.mk_iff, Keeps.mkCom_iff, Keeps.mkLog_iff]
    | with_reducible apply Keeps.done
    | split

theorem execImgRead_keeps {z s : State} {x0} (h : Keeps z s) : KeepsOut z (execImgRead x0 s) := by
  unfold execImgRead
  repeat' first
    | with_reducible assumption
    | (with_reducible refine serveOp_keeps (by with_reducible assumption) fun z t u hu => ?_; beta_reduce)
    | with_reducible apply State.longRead_keeps

end Sys2Proof.Machine
end

