-- ==== Sys2Proof/Laws/KeepsFirmware.lean ====
section
/-! SUPPORT. The operations and meanings of Machine/Firmware.lean keep what every step keeps. -/

set_option linter.unreachableTactic false
set_option linter.unusedTactic false
set_option linter.unusedSimpArgs false
set_option linter.tactic.unusedName false
set_option linter.unusedVariables false

namespace Sys2Proof.Machine
open Sys2Proof

theorem State.setSlot_keeps {z s : State} {x1 x2 x3 x4} (h : Keeps z s) : Keeps z (State.setSlot s x1 x2 x3 x4) := by
  unfold State.setSlot
  repeat' first
    | with_reducible assumption
    | with_reducible apply State.setF_keeps
    | simp -zeta only [Keeps.mk_iff, Keeps.mkCom_iff, Keeps.mkLog_iff]

theorem State.fwRefuse_keeps {z s : State} {x1 x2 x3} (h : Keeps z s) : KeepsRes z (State.fwRefuse s x1 x2 x3) := by
  unfold State.fwRefuse
  repeat' first
    | with_reducible assumption
    | with_reducible apply refuse_keeps
    | with_reducible apply State.abandonTransfers_keeps
    | split

theorem State.fwBegins_keeps {z s : State} {x1 x2 x3} (h : Keeps z s) : Keeps z (State.fwBegins s x1 x2 x3) := by
  unfold State.fwBegins
  repeat' first
    | with_reducible assumption
    | with_reducible apply State.setSlot_keeps
    | with_reducible apply State.abandonTransfers_keeps
    | with_reducible apply Keeps.ite

theorem State.fwWrite_keeps {z s : State} {x1 x2} (h : Keeps z s) : Keeps z (Sys2Proof.Machine.State.fwWrite s x1 x2) := by
  unfold State.fwWrite
  repeat' first
    | with_reducible assumption
    | with_reducible apply State.mramPut_keeps

theorem execFwStage_keeps {z s : State} {x0} (h : Keeps z s) : KeepsOut z (Sys2Proof.Machine.execFwStage x0 s) := by
  unfold execFwStage
  dsimp only
  repeat' first
    | with_reducible assumption
    | (with_reducible refine Keeps.out (serve_keeps (by with_reducible assumption) fun z t u hu => ?_); beta_reduce)
    | with_reducible apply State.chunk_keeps
    | with_reducible apply refuseChunk_keeps
    | with_reducible apply refuse_keeps
    | with_reducible apply State.fwRefuse_keeps
    | with_reducible apply State.fwBegins_keeps
    | with_reducible apply State.fwWrite_keeps
    | with_reducible apply okWith_keeps
    | simp -zeta only [Keeps.mk_iff, Keeps.mkCom_iff, Keeps.mkLog_iff]
    | with_reducible apply Keeps.later
    | (extract_lets +onlyGivenNames u; try clear_value u)
    | (with_reducible refine KeepsChunk.ofMore (by with_reducible assumption) ?_)
    | (with_reducible refine KeepsChunk.ofWhole (by with_reducible assumption) ?_)
    | split

theorem execFwImageChecked_keeps {z s : State} {x0} (h : Keeps z s) : KeepsOut z (execFwImageChecked x0 s) := by
  unfold execFwImageChecked
  repeat' first
    | with_reducible assumption
    | with_reducible apply State.advance_keeps
    | with_reducible apply State.jobDone_keeps
    | with_reducible apply State.answer_keeps
    | with_reducible apply State.setSlot_keeps
    | simp -zeta only [Keeps.mk_iff, Keeps.mkCom_iff, Keeps.mkLog_iff]
    | with_reducible apply Keeps.out
    | (extract_lets +onlyGivenNames u; refine (?_ : Keeps z u → _) ?_; rotate_left; unfold u; rotate_left; intro hu; try clear_value u)
    | split

theorem State.fwSwitch_keeps {z s : State} {x1} (h : Keeps z s) : Keeps z (State.fwSwitch s x1) := by
  unfold State.fwSwitch
  repeat' first
    | with_reducible assumption
    | with_reducible apply State.raise_keeps
    | with_reducible apply State.setF_keeps
    | simp -zeta only [Keeps.mk_iff, Keeps.mkCom_iff, Keeps.mkLog_iff]
    | (extract_lets +onlyGivenNames u; refine (?_ : Keeps z u → _) ?_; rotate_left; unfold u; rotate_left; intro hu; try clear_value u)

theorem execFwActivate_keeps {z s : State} {x0} (h : Keeps z s) : KeepsOut z (execFwActivate x0 s) := by
  unfold execFwActivate
  repeat' first
    | with_reducible assumption
    | (with_reducible refine serveOp_keeps (by with_reducible assumption) fun z t u hu => ?_; beta_reduce)
    | with_reducible apply refuse_keeps
    | with_reducible apply State.fwSwitch_keeps
    | with_reducible apply Keeps.done
    | (extract_lets +onlyGivenNames u; try clear_value u)
    | split

theorem execFwActivateReset_keeps {z s : State} {x0} (h : Keeps z s) : KeepsOut z (execFwActivateReset x0 s) := by
  unfold execFwActivateReset
  repeat' first
    | with_reducible assumption
    | with_reducible apply State.advance_keeps
    | with_reducible apply State.resetAndBoot_keeps
    | with_reducible apply Keeps.out
    | with_reducible apply Keeps.ite
    | (extract_lets +onlyGivenNames u; refine (?_ : Keeps z u → _) ?_; rotate_left; unfold u; rotate_left; intro hu; try clear_value u)
    | split

theorem State.drawBytes_keeps {z s : State} {x1} (h : Keeps z s) : Keeps z (State.drawBytes s x1).2 := by
  unfold State.drawBytes
  repeat' first
    | with_reducible assumption
    | with_reducible apply State.draw_keeps
    | simp -zeta only [Keeps.mk_iff, Keeps.mkCom_iff, Keeps.mkLog_iff]
    | (with_reducible refine Keeps.foldlSnd (fun x a hx => ?_) ?_ _ <;> beta_reduce)

theorem State.targetReport_keeps {z s : State} {x1} (h : Keeps z s) : Keeps z (State.targetReport s x1).2 := by
  unfold State.targetReport
  repeat' first
    | with_reducible assumption
    | with_reducible apply State.runningVersion_keeps
    | with_reducible apply State.drawBytes_keeps
    | simp -zeta only [Keeps.mk_iff, Keeps.mkCom_iff, Keeps.mkLog_iff]
    | split

theorem State.report_keeps {z s : State} {x1} (h : Keeps z s) : Keeps z (State.report s x1).2 := by
  unfold State.report
  repeat' first
    | with_reducible assumption
    | with_reducible apply State.targetReport_keeps

theorem State.attestBegins_keeps {z s : State} {x1 x2 x3} (h : Keeps z s) : Keeps z (State.attestBegins s x1 x2 x3) := by
  unfold State.attestBegins
  repeat' first
    | with_reducible assumption
    | with_reducible apply State.report_keeps
    | simp -zeta only [Keeps.mk_iff, Keeps.mkCom_iff, Keeps.mkLog_iff]
    | (extract_lets +onlyGivenNames u; (have hc : Com := u); clear hc; subst u)

theorem execAttest_keeps {z s : State} {x0} (h : Keeps z s) : KeepsOut z (execAttest x0 s) := by
  unfold execAttest
  repeat' first
    | with_reducible assumption
    | (with_reducible refine serveOp_keeps (by with_reducible assumption) fun z t u hu => ?_; beta_reduce)
    | with_reducible apply State.longRead_keeps
    | with_reducible apply refuse_keeps
    | with_reducible apply State.attestBegins_keeps
    | with_reducible apply Keeps.later
    | (extract_lets +onlyGivenNames u; try clear_value u)
    | split

theorem execAttestSigned_keeps {z s : State} {x0} (h : Keeps z s) : KeepsOut z (execAttestSigned x0 s) := by
  unfold execAttestSigned
  repeat' first
    | with_reducible assumption
    | with_reducible apply State.advance_keeps
    | with_reducible apply State.answer_keeps
    | with_reducible apply State.keepLong_keeps
    | with_reducible apply State.jobDone_keeps
    | simp -zeta only [Keeps.mk_iff, Keeps.mkCom_iff, Keeps.mkLog_iff]
    | with_reducible apply Keeps.out
    | with_reducible apply Keeps.ite
    | (extract_lets +onlyGivenNames u; refine (?_ : Keeps z u → _) ?_; rotate_left; unfold u; rotate_left; intro hu; try clear_value u)
    | split

end Sys2Proof.Machine
end

