-- ==== Sys2Proof/Laws/KeepsBoot.lean ====
section
/-! SUPPORT. The operations and meanings of Machine/Boot.lean keep what every step keeps. -/

set_option linter.unreachableTactic false
set_option linter.unusedTactic false
set_option linter.unusedSimpArgs false
set_option linter.tactic.unusedName false
set_option linter.unusedVariables false

namespace Sys2Proof.Machine
open Sys2Proof

theorem State.resetPwr_keeps {z s : State} (h : Keeps z s) : Keeps z (State.resetPwr s) := by
  unfold State.resetPwr
  repeat' first
    | with_reducible assumption
    | with_reducible apply State.setW_keeps
    | with_reducible apply State.setF_keeps
    | (with_reducible refine Keeps.foldl (fun x a hx => ?_) ?_ _ <;> beta_reduce)

theorem State.showSlots_keeps {z s : State} {x1} (h : Keeps z s) : Keeps z (State.showSlots s x1) := by
  unfold State.showSlots
  repeat' first
    | with_reducible assumption
    | with_reducible apply State.setSlot_keeps
    | (with_reducible refine Keeps.foldl (fun x a hx => ?_) ?_ _ <;> beta_reduce)
    | (extract_lets +onlyGivenNames u; try clear_value u)
    | split

theorem State.bootCerts_keeps {z s : State} (h : Keeps z s) : Keeps z (State.bootCerts s) := by
  unfold State.bootCerts
  repeat' first
    | with_reducible assumption
    | with_reducible apply State.raise_keeps
    | (with_reducible refine Keeps.foldl (fun x a hx => ?_) ?_ _ <;> beta_reduce)

theorem State.bootFirmware_keeps {z s : State} (h : Keeps z s) : Keeps z (State.bootFirmware s) := by
  unfold State.bootFirmware
  repeat' first
    | with_reducible assumption
    | with_reducible apply State.showSlots_keeps
    | with_reducible apply State.setF_keeps
    | with_reducible apply State.raise_keeps
    | with_reducible apply State.setB_keeps
    | with_reducible apply Keeps.ite
    | (extract_lets +onlyGivenNames u; refine (?_ : Keeps z u → _) ?_; rotate_left; unfold u; rotate_left; intro hu; try clear_value u)
    | split

theorem State.bootLoopSet_keeps {z s : State} (h : Keeps z s) : Keeps z (State.bootLoopSet s) := by
  unfold State.bootLoopSet
  repeat' first
    | with_reducible assumption
    | with_reducible apply State.showSlots_keeps
    | with_reducible apply State.setF_keeps
    | with_reducible apply State.raise_keeps
    | with_reducible apply State.setB_keeps
    | (extract_lets +onlyGivenNames u; refine (?_ : Keeps z u → _) ?_; rotate_left; unfold u; rotate_left; intro hu; try clear_value u)
    | split

theorem State.imageEffects_keeps {z s : State} (h : Keeps z s) : Keeps z (State.imageEffects s) := by
  unfold State.imageEffects
  repeat' first
    | with_reducible assumption
    | with_reducible apply State.showEff_keeps
    | with_reducible apply State.carrierRun_keeps
    | with_reducible apply State.showModes_keeps
    | with_reducible apply State.wearReset_keeps
    | with_reducible apply State.setF_keeps
    | (with_reducible refine Keeps.foldl (fun x a hx => ?_) ?_ _ <;> beta_reduce)

theorem State.recoveryPorts_keeps {z s : State} (h : Keeps z s) : Keeps z (State.recoveryPorts s) := by
  unfold State.recoveryPorts
  repeat' first
    | with_reducible assumption
    | with_reducible apply State.setW_keeps
    | with_reducible apply Keeps.ite

theorem State.bootImage_keeps {z s : State} (h : Keeps z s) : Keeps z (State.bootImage s) := by
  unfold State.bootImage
  repeat' first
    | with_reducible assumption
    | with_reducible apply State.withFields_keeps
    | with_reducible apply State.recoveryPorts_keeps
    | with_reducible apply State.imageEffects_keeps
    | with_reducible apply State.setF_keeps
    | with_reducible apply State.raise_keeps
    | with_reducible apply State.setB_keeps
    | simp -zeta only [Keeps.mk_iff, Keeps.mkCom_iff, Keeps.mkLog_iff]
    | with_reducible apply Keeps.ite
    | (extract_lets +onlyGivenNames u; try clear_value u)
    | split

theorem State.bootEngines_keeps {z s : State} (h : Keeps z s) : Keeps z (State.bootEngines s) := by
  unfold State.bootEngines
  repeat' first
    | with_reducible assumption
    | with_reducible apply State.applyMode_keeps
    | with_reducible apply State.setF_keeps
    | with_reducible apply State.setBit_keeps
    | with_reducible apply Keeps.ite
    | (with_reducible refine Keeps.foldl (fun x a hx => ?_) ?_ _ <;> beta_reduce)

theorem State.bootGauze_keeps {z s : State} (h : Keeps z s) : Keeps z (State.bootGauze s) := by
  unfold State.bootGauze
  repeat' first
    | with_reducible assumption
    | with_reducible apply State.refBuffer_keeps
    | with_reducible apply State.gzRestart_keeps
    | (with_reducible refine Keeps.foldl (fun x a hx => ?_) ?_ _ <;> beta_reduce)

theorem State.bootDies_keeps {z s : State} {x1} (h : Keeps z s) : Keeps z (State.bootDies s x1) := by
  unfold State.bootDies
  repeat' first
    | with_reducible assumption
    | with_reducible apply State.setF_keeps
    | with_reducible apply State.raise_keeps
    | with_reducible apply Keeps.ite

theorem State.bootClocks_keeps {z s : State} (h : Keeps z s) : Keeps z (State.bootClocks s) := by
  unfold State.bootClocks
  repeat' first
    | with_reducible assumption
    | with_reducible apply State.markClock_keeps
    | (with_reducible refine Keeps.foldl (fun x a hx => ?_) ?_ _ <;> beta_reduce)

theorem State.bootIslands_keeps {z s : State} (h : Keeps z s) : Keeps z (State.bootIslands s) := by
  unfold State.bootIslands
  repeat' first
    | with_reducible assumption
    | with_reducible apply State.clockLost_keeps
    | (with_reducible refine Keeps.foldl (fun x a hx => ?_) ?_ _ <;> beta_reduce)

theorem State.bootBucket_keeps {z s : State} (h : Keeps z s) : Keeps z (State.bootBucket s) := by
  unfold State.bootBucket
  repeat' first
    | with_reducible assumption
    | with_reducible apply State.setF_keeps
    | simp -zeta only [Keeps.mk_iff, Keeps.mkCom_iff, Keeps.mkLog_iff]

theorem State.bootEave_keeps {z s : State} (h : Keeps z s) : Keeps z (State.bootEave s) := by
  unfold State.bootEave
  repeat' first
    | with_reducible assumption
    | with_reducible apply State.eaveLoad_keeps
    | with_reducible apply Keeps.ite

theorem State.bootKey_keeps {z s : State} (h : Keeps z s) : Keeps z (State.bootKey s) := by
  unfold State.bootKey
  repeat' first
    | with_reducible assumption
    | with_reducible apply State.setB_keeps
    | simp -zeta only [Keeps.mk_iff, Keeps.mkCom_iff, Keeps.mkLog_iff]
    | with_reducible apply Keeps.ite

theorem State.bootSteps_keeps {z s : State} {x1} (h : Keeps z s) : Keeps z (Sys2Proof.Machine.State.bootSteps s x1) := by
  unfold State.bootSteps
  repeat' first
    | with_reducible assumption
    | with_reducible apply State.countCharge_keeps
    | with_reducible apply State.showLevels_keeps
    | with_reducible apply State.bootKey_keeps
    | with_reducible apply State.resetPwr_keeps
    | with_reducible apply State.chargerFollows_keeps
    | with_reducible apply State.bootImage_keeps
    | with_reducible apply State.bootLoopSet_keeps
    | with_reducible apply State.bootFirmware_keeps
    | with_reducible apply State.bootCerts_keeps
    | with_reducible apply State.bootEngines_keeps
    | with_reducible apply State.bootBucket_keeps
    | with_reducible apply State.setB_keeps
    | with_reducible apply State.bootEave_keeps
    | with_reducible apply State.bootDies_keeps
    | with_reducible apply State.bootClocks_keeps
    | with_reducible apply State.bootGauze_keeps
    | simp -zeta only [Keeps.mk_iff, Keeps.mkCom_iff, Keeps.mkLog_iff]

theorem execBoot_keeps {z s : State} {x0 x1} (h : Keeps z s) : KeepsOut z (execBoot x0 x1 s) := by
  unfold execBoot
  repeat' first
    | with_reducible assumption
    | with_reducible apply State.advance_keeps
    | with_reducible apply State.bootSteps_keeps
    | with_reducible apply Keeps.out
    | (extract_lets +onlyGivenNames u; refine (?_ : Keeps z u → _) ?_; rotate_left; unfold u; rotate_left; intro hu; try clear_value u)
    | split

theorem State.raiseRollback_keeps {z s : State} {x1} (h : Keeps z s) : Keeps z (State.raiseRollback s x1) := by
  unfold State.raiseRollback
  repeat' first
    | with_reducible assumption
    | with_reducible apply State.raise_keeps
    | with_reducible apply State.setF_keeps
    | with_reducible apply Keeps.ite
    | split

theorem State.writeBootRecs_keeps {z s : State} (h : Keeps z s) : Keeps z (State.writeBootRecs s) := by
  unfold State.writeBootRecs
  repeat' first
    | with_reducible assumption
    | with_reducible apply State.logPut_keeps
    | simp -zeta only [Keeps.mk_iff, Keeps.mkCom_iff, Keeps.mkLog_iff]
    | (with_reducible refine Keeps.foldl (fun x a hx => ?_) ?_ _ <;> beta_reduce)
    | (extract_lets +onlyGivenNames u; (have hc : FaultLog := u); clear hc; subst u)

theorem State.bootRecords_keeps {z s : State} (h : Keeps z s) : Keeps z (State.bootRecords s) := by
  unfold State.bootRecords
  repeat' first
    | with_reducible assumption
    | with_reducible apply State.raise_keeps
    | with_reducible apply State.writeBootRecs_keeps
    | with_reducible apply State.raiseRollback_keeps
    | with_reducible apply Keeps.ite
    | (with_reducible refine Keeps.foldl (fun x a hx => ?_) ?_ _ <;> beta_reduce)

theorem State.bootTrips_keeps {z s : State} (h : Keeps z s) : Keeps z (Sys2Proof.Machine.State.bootTrips s) := by
  unfold State.bootTrips
  repeat' first
    | with_reducible assumption
    | with_reducible apply State.tripMapGrown_keeps
    | with_reducible apply State.latchEntry_keeps
    | with_reducible apply State.compVdc_keeps
    | simp -zeta only [Keeps.mk_iff, Keeps.mkCom_iff, Keeps.mkLog_iff]
    | (with_reducible refine Keeps.foldl (fun x a hx => ?_) ?_ _ <;> beta_reduce)

theorem State.bootSafe_keeps {z s : State} (h : Keeps z s) : Keeps z (State.bootSafe s) := by
  unfold State.bootSafe
  repeat' first
    | with_reducible assumption
    | with_reducible apply State.enterSafe_keeps
    | with_reducible apply Keeps.ite

theorem State.standbyReached_keeps {z s : State} {x1} (h : Keeps z s) : Keeps z (State.standbyReached s x1) := by
  unfold State.standbyReached
  repeat' first
    | with_reducible assumption
    | with_reducible apply State.bump_keeps
    | with_reducible apply State.setF_keeps
    | with_reducible apply State.bootRecords_keeps
    | with_reducible apply State.toPower_keeps
    | with_reducible apply State.bootSafe_keeps
    | with_reducible apply State.bootIslands_keeps
    | with_reducible apply State.bootTrips_keeps
    | simp -zeta only [Keeps.mk_iff, Keeps.mkCom_iff, Keeps.mkLog_iff]
    | with_reducible apply Keeps.ite
    | (extract_lets +onlyGivenNames u; (have hc : Com := u); clear hc; subst u)

theorem execBootStandbyReached_keeps {z s : State} {x0} (h : Keeps z s) : KeepsOut z (execBootStandbyReached x0 s) := by
  unfold execBootStandbyReached
  repeat' first
    | with_reducible assumption
    | with_reducible apply State.advance_keeps
    | with_reducible apply State.standbyReached_keeps
    | with_reducible apply Keeps.out
    | (extract_lets +onlyGivenNames u; refine (?_ : Keeps z u → _) ?_; rotate_left; unfold u; rotate_left; intro hu; try clear_value u)
    | split

end Sys2Proof.Machine
end

