-- ==== Sys2Proof/Laws/KeepsSlots.lean ====
section
/-! SUPPORT. The operations and meanings of Machine/Slots.lean keep what every step keeps. -/

set_option linter.unreachableTactic false
set_option linter.unusedTactic false
set_option linter.unusedSimpArgs false
set_option linter.tactic.unusedName false
set_option linter.unusedVariables false

namespace Sys2Proof.Machine
open Sys2Proof

theorem State.slotWork_keeps {z s : State} {x1 x2} (h : Keeps z s) : Keeps z (State.slotWork s x1 x2) := by
  unfold State.slotWork
  repeat' first
    | with_reducible assumption
    | with_reducible apply State.slotLE0_keeps
    | with_reducible apply State.slotLE2_keeps
    | with_reducible apply State.slotAct_keeps
    | with_reducible apply State.slotLE4_keeps
    | with_reducible apply State.slotLE5_keeps
    | with_reducible apply State.slotLE6_keeps
    | with_reducible apply State.slotLE7_keeps
    | with_reducible apply State.slotLE8_keeps
    | with_reducible apply State.slotLE9_keeps
    | with_reducible apply State.slotLE11_keeps
    | with_reducible apply State.slotLE13_keeps
    | split

theorem execSlotStart_keeps {z s : State} {x0 x1 x2 x3} (h : Keeps z s) : KeepsOut z (execSlotStart x0 x1 x2 x3 s) := by
  unfold execSlotStart
  repeat' first
    | with_reducible assumption
    | with_reducible apply State.advance_keeps
    | with_reducible apply State.slotBegin_keeps
    | with_reducible apply State.setEng_keeps
    | with_reducible apply State.ecc_keeps
    | with_reducible apply State.showModes_keeps
    | with_reducible apply State.slotWork_keeps
    | with_reducible apply Keeps.out
    | with_reducible apply Keeps.ite
    | (extract_lets +onlyGivenNames u; refine (?_ : Keeps z u → _) ?_; rotate_left; unfold u; rotate_left; intro hu; try clear_value u)
    | (extract_lets +onlyGivenNames u; try clear_value u)
    | split

theorem State.tlmPass_keeps {z s : State} (h : Keeps z s) : Keeps z (Sys2Proof.Machine.State.tlmPass s) := by
  unfold State.tlmPass
  repeat' first
    | with_reducible assumption
    | simp -zeta only [Keeps.mk_iff, Keeps.mkCom_iff, Keeps.mkLog_iff]
    | with_reducible apply Keeps.ite
    | (with_reducible refine Keeps.foldl (fun x a hx => ?_) ?_ _ <;> beta_reduce)

theorem State.wakeEngine_keeps {z s : State} {x1} (h : Keeps z s) : Keeps z (Sys2Proof.Machine.State.wakeEngine s x1) := by
  unfold State.wakeEngine
  repeat' first
    | with_reducible assumption
    | with_reducible apply State.leDwell_keeps
    | with_reducible apply State.pendingSwap_keeps
    | with_reducible apply State.applyEngine_keeps
    | with_reducible apply State.setEng_keeps
    | with_reducible apply State.tlmPass_keeps
    | with_reducible apply State.takeCycles_keeps
    | with_reducible apply Keeps.ite

theorem execBackgroundWake_keeps {z s : State} {x0 x1} (h : Keeps z s) : KeepsOut z (execBackgroundWake x0 x1 s) := by
  unfold execBackgroundWake
  repeat' first
    | with_reducible assumption
    | with_reducible apply State.advance_keeps
    | with_reducible apply State.wakeEngine_keeps
    | with_reducible apply Keeps.out
    | (extract_lets +onlyGivenNames u; refine (?_ : Keeps z u → _) ?_; rotate_left; unfold u; rotate_left; intro hu; try clear_value u)
    | split

end Sys2Proof.Machine
end

