-- ==== Sys2Proof/Laws/KeepsSpi.lean ====
section
/-! SUPPORT. The operations and meanings of Machine/Spi.lean keep what every step keeps. -/

set_option linter.unreachableTactic false
set_option linter.unusedTactic false
set_option linter.unusedSimpArgs false
set_option linter.tactic.unusedName false
set_option linter.unusedVariables false

namespace Sys2Proof.Machine
open Sys2Proof

theorem hostLow_keeps {z s : State} {op : Nat} {r : Req} {f : Req → State → Out} (h : Keeps z s) (e : hostLow op = some f) : KeepsOut z (f r s) := by
  unfold hostLow at e
  split at e
  all_goals first
    | (cases e; done)
    | (injection e with e; subst e)
  all_goals first
    | with_reducible exact execPing_keeps h
    | with_reducible exact execGetState_keeps h
    | with_reducible exact execSetState_keeps h
    | with_reducible exact execGetVersion_keeps h
    | with_reducible exact execHeartbeat_keeps h
    | with_reducible exact execSessionOpen_keeps h
    | with_reducible exact execSessionProve_keeps h
    | with_reducible exact execSessionClose_keeps h
    | with_reducible exact execRegRead_keeps h
    | with_reducible exact execRegWrite_keeps h
    | with_reducible exact execRegReadBlock_keeps h
    | with_reducible exact execMbxSnapshot_keeps h
    | with_reducible exact execApplyHold_keeps h
    | with_reducible exact execApplyRelease_keeps h
    | with_reducible exact execLock_keeps h
    | with_reducible exact execPwrStateSet_keeps h
    | with_reducible exact execWakeSources_keeps h
    | with_reducible exact execBkpChargerSet_keeps h
    | with_reducible exact execBkpStatus_keeps h
    | with_reducible exact execDriveArm_keeps h
    | with_reducible exact execDriveStart_keeps h
    | with_reducible exact execDriveStop_keeps h
    | with_reducible exact execTorqueSet_keeps h
    | with_reducible exact execSpeedLimitSet_keeps h
    | with_reducible exact execDriveDisarm_keeps h

theorem hostStage_keeps {z s : State} {op : Nat} {r : Req} {f : Req → State → Out} (h : Keeps z s) (e : hostStage op = some f) : KeepsOut z (f r s) := by
  unfold hostStage at e
  split at e
  all_goals first
    | (cases e; done)
    | (injection e with e; subst e)
  all_goals first
    | with_reducible exact execChgSessionBegin_keeps h
    | with_reducible exact execChgSet_keeps h
    | with_reducible exact execChgSessionEnd_keeps h
    | with_reducible exact execPilotStatus_keeps h
    | with_reducible exact execAuxEnable_keeps h
    | with_reducible exact execAuxSet_keeps h
    | with_reducible exact execAuxDisable_keeps h
    | with_reducible exact execAuxPhaseMask_keeps h
    | with_reducible exact execShiftTo_keeps h
    | with_reducible exact execParkEngage_keeps h
    | with_reducible exact execParkRelease_keeps h
    | with_reducible exact execActHome_keeps h
    | with_reducible exact execLeLoad_keeps h
    | with_reducible exact execLeBankWrite_keeps h
    | with_reducible exact execLeBankSwap_keeps h
    | with_reducible exact execLeMode_keeps h
    | with_reducible exact execLeTableWrite_keeps h

theorem hostHigh_keeps {z s : State} {op : Nat} {r : Req} {f : Req → State → Out} (h : Keeps z s) (e : hostHigh op = some f) : KeepsOut z (f r s) := by
  unfold hostHigh at e
  split at e
  all_goals first
    | (cases e; done)
    | (injection e with e; subst e)
  all_goals first
    | with_reducible exact execGzConfig_keeps h
    | with_reducible exact execGzInject_keeps h
    | with_reducible exact execGzCalibrate_keeps h
    | with_reducible exact execGzRead_keeps h
    | with_reducible exact execSafeStatus_keeps h
    | with_reducible exact execFaultLogRead_keeps h
    | with_reducible exact execFaultAck_keeps h
    | with_reducible exact execRidgeStatus_keeps h
    | with_reducible exact execRidgeReadRecords_keeps h
    | with_reducible exact execRidgeReadSeal_keeps h
    | with_reducible exact execRidgeReadEvents_keeps h
    | with_reducible exact execImgRead_keeps h
    | with_reducible exact execImgStage_keeps h
    | with_reducible exact execImgCommit_keeps h
    | with_reducible exact execFwStage_keeps h
    | with_reducible exact execFwActivate_keeps h
    | with_reducible exact execIdentRead_keeps h
    | with_reducible exact execAttest_keeps h
    | with_reducible exact execCertRead_keeps h
    | with_reducible exact execTlmRead_keeps h
    | with_reducible exact execTlmStream_keeps h
    | with_reducible exact execLastfaultRead_keeps h
    | with_reducible exact execThermRead_keeps h
    | with_reducible exact execWearRead_keeps h
    | with_reducible exact execSpareStatus_keeps h

theorem State.runPacket_keeps {z s : State} {opcode r} (h : Keeps z s) : KeepsOut z (State.runPacket s opcode r) := by
  unfold State.runPacket
  split
  · rename_i f e
    rcases Option.or_eq_some_iff.1 e with e | ⟨_, e⟩
    · exact hostLow_keeps h e
    · rcases Option.or_eq_some_iff.1 e with e | ⟨_, e⟩
      · exact hostStage_keeps h e
      · exact hostHigh_keeps h e
  · exact Keeps.out (serveNone_keeps h)

theorem State.spiDeliver_keeps {z s : State} {x1} (h : Keeps z s) : Keeps z (Sys2Proof.Machine.State.spiDeliver s x1) := by
  unfold State.spiDeliver
  repeat' first
    | with_reducible assumption
    | with_reducible apply State.flush_keeps
    | simp -zeta only [Keeps.mk_iff, Keeps.mkCom_iff, Keeps.mkLog_iff]
    | with_reducible apply Keeps.ite
    | (extract_lets +onlyGivenNames u; refine (?_ : Keeps z u → _) ?_; rotate_left; unfold u; rotate_left; intro hu; try clear_value u)
    | (extract_lets +onlyGivenNames u; (have hc : Com := u); clear hc; subst u)
    | (extract_lets +onlyGivenNames u; try clear_value u)
    | split

theorem State.spiReceive_keeps {z s : State} {x1 x2} (h : Keeps z s) : KeepsOut z (State.spiReceive s x1 x2) := by
  unfold State.spiReceive
  repeat' first
    | with_reducible assumption
    | with_reducible apply State.runPacket_keeps

theorem execSpiTransaction_keeps {z s : State} {x0 x1} (h : Keeps z s) : KeepsOut z (execSpiTransaction x0 x1 s) := by
  unfold execSpiTransaction
  repeat' first
    | with_reducible assumption
    | with_reducible apply State.advance_keeps
    | with_reducible apply State.spiDeliver_keeps
    | with_reducible apply State.bump_keeps
    | with_reducible apply State.spiReceive_keeps
    | simp -zeta only [Keeps.mk_iff, Keeps.mkCom_iff, Keeps.mkLog_iff]
    | with_reducible apply Keeps.out
    | (extract_lets +onlyGivenNames u; refine (?_ : Keeps z u → _) ?_; rotate_left; unfold u; rotate_left; intro hu; try clear_value u)
    | (extract_lets +onlyGivenNames u; (have hc : Com := u); clear hc; subst u)
    | (extract_lets +onlyGivenNames u; try clear_value u)
    | split

end Sys2Proof.Machine
end

