-- ==== Sys2Proof/Laws/OnlyR.lean ====
section
/-! SUPPORT. The operations and events of the Ridge change only the Ridge, the clock and the free values. -/

set_option linter.unreachableTactic false
set_option linter.unusedTactic false
set_option linter.unusedSimpArgs false
set_option linter.tactic.unusedName false
set_option linter.unusedVariables false

namespace Sys2Proof.Machine
open Sys2Proof

/-- Only the Ridge, the clock and the free values may have changed. -/
def OnlyR (z t : State) : Prop := t = { z with now := t.now, rdg := t.rdg, free := t.free }

theorem OnlyR.refl (z : State) : OnlyR z z := rfl

theorem OnlyR.mk_iff {z t : State} {n : Nat} {r : Ridge} {f : Nat} :
    OnlyR z (State.mk n t.regs t.shadow t.incs t.com t.pwr t.log t.slt t.gate t.bat t.gz t.le t.swaps t.trc t.map t.idn t.chg t.aux t.shift t.park t.thm t.tlm r t.wit f t.pending) ↔ OnlyR z t := by
  cases t; simp [OnlyR]

theorem State.setR_onlyR {z s : State} {r : Ridge} (h : OnlyR z s) : OnlyR z (s.setR r) := OnlyR.mk_iff.2 h

theorem State.advance_onlyR {z s : State} {t : Nat} (h : OnlyR z s) : OnlyR z (s.advance t) := OnlyR.mk_iff.2 h

theorem OnlyR.foldl {α : Type} {z : State} {f : State → α → State} (hf : ∀ x a, OnlyR z x → OnlyR z (f x a)) {s : State} (h : OnlyR z s) (l : List α) :
    OnlyR z (l.foldl f s) := by
  induction l generalizing s with
  | nil => exact h
  | cons a l ih => exact ih (hf s a h)

def OnlyROut (z : State) : Out → Prop
  | .next t => OnlyR z t
  | _ => True

theorem OnlyR.out {z t : State} (h : OnlyR z t) : OnlyROut z (.next t) := h

theorem OnlyR.ite {z a b : State} {c : Prop} [Decidable c] (h : OnlyR z a) (g : OnlyR z b) : OnlyR z (if c then a else b) := by split <;> assumption

theorem pruneDays_onlyR {z s : State} {n} (h : OnlyR z s) : OnlyR z (pruneDays n s) := by
  induction n generalizing s with
  | zero => exact h
  | succ n ih =>
    unfold pruneDays
    split
    · exact h
    · split
      · exact h
      · exact ih (State.setR_onlyR h)

theorem State.prune_onlyR {z s : State} (h : OnlyR z s) : OnlyR z (State.prune s) := by
  unfold State.prune
  repeat' first
    | with_reducible assumption
    | with_reducible apply pruneDays_onlyR

theorem State.rdgEvent_onlyR {z s : State} {x1 x2 x3} (h : OnlyR z s) : OnlyR z (State.rdgEvent s x1 x2 x3) := by
  unfold State.rdgEvent
  dsimp only
  repeat' first
    | with_reducible assumption
    | with_reducible apply State.setR_onlyR

theorem State.bumpLec_onlyR {z s : State} (h : OnlyR z s) : OnlyR z (State.bumpLec s) := by
  unfold State.bumpLec
  dsimp only
  repeat' first
    | with_reducible assumption
    | with_reducible apply State.setR_onlyR

theorem State.motionEntry_onlyR {z s : State} (h : OnlyR z s) : OnlyR z (State.motionEntry s) := by
  unfold State.motionEntry
  repeat' first
    | with_reducible assumption
    | with_reducible apply State.setR_onlyR
    | with_reducible apply State.prune_onlyR
    | with_reducible apply OnlyR.ite

theorem State.energyEntry_onlyR {z s : State} (h : OnlyR z s) : OnlyR z (State.energyEntry s) := by
  unfold State.energyEntry
  repeat' first
    | with_reducible assumption
    | with_reducible apply State.setR_onlyR
    | with_reducible apply State.prune_onlyR
    | with_reducible apply OnlyR.ite

theorem State.storeSeal_onlyR {z s : State} {x1 x2 x3} (h : OnlyR z s) : OnlyR z (State.storeSeal s x1 x2 x3) := by
  unfold State.storeSeal
  repeat' first
    | with_reducible assumption
    | with_reducible apply State.prune_onlyR
    | with_reducible apply State.setR_onlyR

theorem State.storeUnsigned_onlyR {z s : State} (h : OnlyR z s) : OnlyR z (State.storeUnsigned s) := by
  unfold State.storeUnsigned
  repeat' first
    | with_reducible assumption
    | with_reducible apply State.storeSeal_onlyR
    | (with_reducible refine OnlyR.foldl (fun x a hx => ?_) ?_ _ <;> beta_reduce)

theorem State.closeDay_onlyR {z s : State} {x1} (h : OnlyR z s) : OnlyR z (State.closeDay s x1) := by
  unfold State.closeDay
  repeat' first
    | with_reducible assumption
    | with_reducible apply State.setR_onlyR
    | with_reducible apply State.storeUnsigned_onlyR
    | with_reducible apply OnlyR.ite

theorem State.rollDay_onlyR {z s : State} {x1} (h : OnlyR z s) : OnlyR z (State.rollDay s x1) := by
  unfold State.rollDay
  repeat' first
    | with_reducible assumption
    | with_reducible apply State.closeDay_onlyR
    | with_reducible apply State.setR_onlyR
    | with_reducible apply OnlyR.ite

theorem State.meshRecorded_onlyR {z s : State} (h : OnlyR z s) : OnlyR z (State.meshRecorded s) := by
  unfold State.meshRecorded
  exact .ite (State.storeUnsigned_onlyR (State.rdgEvent_onlyR (State.setR_onlyR h))) h

theorem State.qpStart_onlyR {z s : State} {x1} (h : OnlyR z s) : OnlyR z (State.qpStart s x1) := by
  unfold State.qpStart
  dsimp only
  repeat' first
    | with_reducible assumption
    | with_reducible apply State.setR_onlyR
    | with_reducible apply State.rdgEvent_onlyR
    | with_reducible apply State.meshRecorded_onlyR
    | with_reducible apply State.bumpLec_onlyR
    | with_reducible apply State.motionEntry_onlyR
    | with_reducible apply State.energyEntry_onlyR
    | with_reducible apply OnlyR.ite

theorem State.endSegment_onlyR {z s : State} (h : OnlyR z s) : OnlyR z (State.endSegment s) := by
  unfold State.endSegment
  repeat' first
    | with_reducible assumption
    | with_reducible apply State.setR_onlyR
    | with_reducible apply State.rdgEvent_onlyR
    | with_reducible apply OnlyR.ite

theorem State.pulseAbsent_onlyR {z s : State} (h : OnlyR z s) : OnlyR z (State.pulseAbsent s) := by
  unfold State.pulseAbsent
  repeat' first
    | with_reducible assumption
    | with_reducible apply State.rdgEvent_onlyR
    | with_reducible apply State.setR_onlyR
    | with_reducible apply OnlyR.ite

theorem State.pulseWoken_onlyR {z s : State} (h : OnlyR z s) : OnlyR z (State.pulseWoken s) := by
  unfold State.pulseWoken
  repeat' first
    | with_reducible assumption
    | with_reducible apply State.setR_onlyR
    | with_reducible apply State.rdgEvent_onlyR
    | with_reducible apply OnlyR.ite

theorem State.countPulse_onlyR {z s : State} (h : OnlyR z s) : OnlyR z (State.countPulse s) := by
  unfold State.countPulse
  dsimp only
  repeat' first
    | with_reducible assumption
    | with_reducible apply State.setR_onlyR
    | with_reducible apply State.pulseWoken_onlyR
    | with_reducible apply State.pulseAbsent_onlyR
    | with_reducible apply State.endSegment_onlyR
    | with_reducible apply OnlyR.ite

theorem execWpiPulse_onlyR {z s : State} {x0} (h : OnlyR z s) : OnlyROut z (execWpiPulse x0 s) := by
  unfold execWpiPulse
  repeat' first
    | with_reducible assumption
    | with_reducible apply State.advance_onlyR
    | with_reducible apply State.qpStart_onlyR
    | with_reducible apply State.countPulse_onlyR
    | with_reducible apply OnlyR.out
    | with_reducible apply OnlyR.ite

theorem State.endWoken_onlyR {z s : State} (h : OnlyR z s) : OnlyR z (State.endWoken s) := by
  unfold State.endWoken
  repeat' first
    | with_reducible assumption
    | with_reducible apply State.rdgEvent_onlyR
    | with_reducible apply State.setR_onlyR
    | with_reducible apply OnlyR.ite

theorem State.toRetention_onlyR {z s : State} (h : OnlyR z s) : OnlyR z (State.toRetention s) := by
  unfold State.toRetention
  repeat' first
    | with_reducible assumption
    | with_reducible apply State.endWoken_onlyR
    | with_reducible apply State.setR_onlyR

theorem execQpRetention_onlyR {z s : State} {x0} (h : OnlyR z s) : OnlyROut z (execQpRetention x0 s) := by
  unfold execQpRetention
  repeat' first
    | with_reducible assumption
    | with_reducible apply State.advance_onlyR
    | with_reducible apply State.toRetention_onlyR
    | with_reducible apply OnlyR.out
    | with_reducible apply OnlyR.ite

theorem State.thatchBroken_onlyR {z s : State} (h : OnlyR z s) : OnlyR z (State.thatchBroken s) := by
  unfold State.thatchBroken
  dsimp only
  repeat' first
    | with_reducible assumption
    | with_reducible apply State.rdgEvent_onlyR
    | with_reducible apply State.setR_onlyR
    | with_reducible apply State.storeUnsigned_onlyR

theorem execThatchCheck_onlyR {z s : State} {x0 x1} (h : OnlyR z s) : OnlyROut z (execThatchCheck x0 x1 s) := by
  unfold execThatchCheck
  repeat' first
    | with_reducible assumption
    | with_reducible apply State.advance_onlyR
    | with_reducible apply State.thatchBroken_onlyR
    | with_reducible apply State.setR_onlyR
    | with_reducible apply OnlyR.out
    | (extract_lets +onlyGivenNames u; refine (?_ : OnlyR z u → _) ?_; rotate_left; unfold u; rotate_left; intro hu; try clear_value u)
    | split

theorem State.fieldAbove_onlyR {z s : State} {x1} (h : OnlyR z s) : OnlyR z (State.fieldAbove s x1) := by
  unfold State.fieldAbove
  repeat' first
    | with_reducible assumption
    | with_reducible apply State.setR_onlyR
    | with_reducible apply State.rdgEvent_onlyR
    | with_reducible apply OnlyR.ite

theorem State.fieldBelow_onlyR {z s : State} (h : OnlyR z s) : OnlyR z (State.fieldBelow s) := by
  unfold State.fieldBelow
  repeat' first
    | with_reducible assumption
    | with_reducible apply State.rdgEvent_onlyR
    | with_reducible apply State.setR_onlyR
    | with_reducible apply OnlyR.ite

theorem execFieldCheck_onlyR {z s : State} {x0 x1} (h : OnlyR z s) : OnlyROut z (execFieldCheck x0 x1 s) := by
  unfold execFieldCheck
  repeat' first
    | with_reducible assumption
    | with_reducible apply State.advance_onlyR
    | with_reducible apply State.fieldAbove_onlyR
    | with_reducible apply State.fieldBelow_onlyR
    | with_reducible apply OnlyR.out
    | (extract_lets +onlyGivenNames u; refine (?_ : OnlyR z u → _) ?_; rotate_left; unfold u; rotate_left; intro hu; try clear_value u)
    | split

theorem State.wpiOpened_onlyR {z s : State} (h : OnlyR z s) : OnlyR z (State.wpiOpened s) := by
  unfold State.wpiOpened
  repeat' first
    | with_reducible assumption
    | with_reducible apply State.setR_onlyR
    | with_reducible apply State.rdgEvent_onlyR
    | with_reducible apply OnlyR.ite

theorem State.wpiSound_onlyR {z s : State} (h : OnlyR z s) : OnlyR z (State.wpiSound s) := by
  unfold State.wpiSound
  repeat' first
    | with_reducible assumption
    | with_reducible apply State.setR_onlyR
    | with_reducible apply State.rdgEvent_onlyR
    | with_reducible apply OnlyR.ite

theorem execWpiOpenTest_onlyR {z s : State} {x0 x1} (h : OnlyR z s) : OnlyROut z (execWpiOpenTest x0 x1 s) := by
  unfold execWpiOpenTest
  repeat' first
    | with_reducible assumption
    | with_reducible apply State.advance_onlyR
    | with_reducible apply State.wpiOpened_onlyR
    | with_reducible apply State.wpiSound_onlyR
    | with_reducible apply OnlyR.out
    | (extract_lets +onlyGivenNames u; refine (?_ : OnlyR z u → _) ?_; rotate_left; unfold u; rotate_left; intro hu; try clear_value u)
    | split

theorem execRdgMbLoss_onlyR {z s : State} {x0 x1 x2} (h : OnlyR z s) : OnlyROut z (execRdgMbLoss x0 x1 x2 s) := by
  unfold execRdgMbLoss
  dsimp only
  repeat' first
    | with_reducible assumption
    | with_reducible apply State.advance_onlyR
    | with_reducible apply State.rdgEvent_onlyR
    | with_reducible apply State.setR_onlyR
    | with_reducible apply OnlyR.out
    | split

theorem execRdgMbFlat_onlyR {z s : State} {x0 x1 x2} (h : OnlyR z s) : OnlyROut z (execRdgMbFlat x0 x1 x2 s) := by
  unfold execRdgMbFlat
  dsimp only
  repeat' first
    | with_reducible assumption
    | with_reducible apply State.advance_onlyR
    | with_reducible apply State.rdgEvent_onlyR
    | with_reducible apply State.setR_onlyR
    | with_reducible apply OnlyR.out
    | split

theorem State.energySample_onlyR {z s : State} {x1} (h : OnlyR z s) : OnlyR z (State.energySample s x1) := by
  unfold State.energySample
  repeat' first
    | with_reducible assumption
    | with_reducible apply State.setR_onlyR
    | simp -zeta only [OnlyR.mk_iff]

theorem execRidgeEnergySample_onlyR {z s : State} {x0 x1} (h : OnlyR z s) : OnlyROut z (execRidgeEnergySample x0 x1 s) := by
  unfold execRidgeEnergySample
  repeat' first
    | with_reducible assumption
    | with_reducible apply State.advance_onlyR
    | with_reducible apply State.energySample_onlyR
    | with_reducible apply OnlyR.out
    | (extract_lets +onlyGivenNames u; refine (?_ : OnlyR z u → _) ?_; rotate_left; unfold u; rotate_left; intro hu; try clear_value u)
    | split

theorem State.endSession_onlyR {z s : State} {x1 x2 x3} (h : OnlyR z s) : OnlyR z (State.endSession s x1 x2 x3) := by
  unfold State.endSession
  repeat' first
    | with_reducible assumption
    | with_reducible apply State.setR_onlyR

theorem State.sessionSecond_onlyR {z s : State} {x1} (h : OnlyR z s) : OnlyR z (State.sessionSecond s x1) := by
  unfold State.sessionSecond
  dsimp only
  repeat' first
    | with_reducible assumption
    | with_reducible apply State.setR_onlyR
    | with_reducible apply State.endSession_onlyR
    | with_reducible apply OnlyR.ite
    | split

theorem State.energySecond_onlyR {z s : State} (h : OnlyR z s) : OnlyR z (State.energySecond s) := by
  unfold State.energySecond
  dsimp only
  repeat' first
    | with_reducible assumption
    | with_reducible apply State.setR_onlyR
    | with_reducible apply State.sessionSecond_onlyR

theorem State.speedSecond_onlyR {z s : State} (h : OnlyR z s) : OnlyR z (State.speedSecond s) := by
  unfold State.speedSecond
  repeat' first
    | with_reducible assumption
    | with_reducible apply State.setR_onlyR

theorem State.mirrorRecord_onlyR {z s : State} (h : OnlyR z s) : OnlyR z (State.mirrorRecord s) := by
  unfold State.mirrorRecord
  repeat' first
    | with_reducible assumption
    | with_reducible apply State.rdgEvent_onlyR
    | with_reducible apply State.setR_onlyR
    | with_reducible apply OnlyR.ite

theorem State.secondEnds_onlyR {z s : State} (h : OnlyR z s) : OnlyR z (State.secondEnds s) := by
  unfold State.secondEnds
  repeat' first
    | with_reducible assumption
    | with_reducible apply State.speedSecond_onlyR
    | with_reducible apply State.energySecond_onlyR
    | with_reducible apply State.mirrorRecord_onlyR
    | with_reducible apply State.setR_onlyR
    | with_reducible apply OnlyR.ite

theorem execRidgeSecond_onlyR {z s : State} {x0} (h : OnlyR z s) : OnlyROut z (execRidgeSecond x0 s) := by
  unfold execRidgeSecond
  repeat' first
    | with_reducible assumption
    | with_reducible apply State.advance_onlyR
    | with_reducible apply State.secondEnds_onlyR
    | with_reducible apply OnlyR.out
    | (extract_lets +onlyGivenNames u; refine (?_ : OnlyR z u → _) ?_; rotate_left; unfold u; rotate_left; intro hu; try clear_value u)
    | split

theorem State.compareMinute_onlyR {z s : State} (h : OnlyR z s) : OnlyR z (State.compareMinute s) := by
  unfold State.compareMinute
  dsimp only
  repeat' first
    | with_reducible assumption
    | with_reducible apply State.setR_onlyR
    | with_reducible apply State.rdgEvent_onlyR
    | (extract_lets +onlyGivenNames u; try clear_value u)
    | split

theorem State.takeParams_onlyR {z s : State} (h : OnlyR z s) : OnlyR z (State.takeParams s) := by
  unfold State.takeParams
  repeat' first
    | with_reducible assumption
    | with_reducible apply State.setR_onlyR
    | with_reducible apply OnlyR.ite

theorem State.minuteEnds_onlyR {z s : State} (h : OnlyR z s) : OnlyR z (State.minuteEnds s) := by
  unfold State.minuteEnds
  repeat' first
    | with_reducible assumption
    | with_reducible apply State.motionEntry_onlyR
    | with_reducible apply State.compareMinute_onlyR
    | with_reducible apply State.setR_onlyR
    | with_reducible apply State.takeParams_onlyR

theorem execRidgeMinute_onlyR {z s : State} {x0} (h : OnlyR z s) : OnlyROut z (execRidgeMinute x0 s) := by
  unfold execRidgeMinute
  repeat' first
    | with_reducible assumption
    | with_reducible apply State.advance_onlyR
    | with_reducible apply State.minuteEnds_onlyR
    | with_reducible apply OnlyR.out
    | (extract_lets +onlyGivenNames u; refine (?_ : OnlyR z u → _) ?_; rotate_left; unfold u; rotate_left; intro hu; try clear_value u)
    | split

theorem execRidgeQuarterHour_onlyR {z s : State} {x0} (h : OnlyR z s) : OnlyROut z (execRidgeQuarterHour x0 s) := by
  unfold execRidgeQuarterHour
  dsimp only
  repeat' first
    | with_reducible assumption
    | with_reducible apply State.advance_onlyR
    | with_reducible apply State.energyEntry_onlyR
    | with_reducible apply State.setR_onlyR
    | with_reducible apply OnlyR.out
    | split

theorem execDayClose_onlyR {z s : State} {x0} (h : OnlyR z s) : OnlyROut z (execDayClose x0 s) := by
  unfold execDayClose
  repeat' first
    | with_reducible assumption
    | with_reducible apply State.rollDay_onlyR
    | with_reducible apply State.advance_onlyR
    | with_reducible apply OnlyR.out

theorem State.sealDay_onlyR {z s : State} {x1} (h : OnlyR z s) : OnlyR z (State.sealDay s x1) := by
  unfold State.sealDay
  repeat' first
    | with_reducible assumption
    | with_reducible apply State.storeSeal_onlyR

theorem execSealSigned_onlyR {z s : State} {x0} (h : OnlyR z s) : OnlyROut z (execSealSigned x0 s) := by
  unfold execSealSigned
  repeat' first
    | with_reducible assumption
    | with_reducible apply State.advance_onlyR
    | with_reducible apply State.sealDay_onlyR
    | with_reducible apply OnlyR.out
    | (extract_lets +onlyGivenNames u; refine (?_ : OnlyR z u → _) ?_; rotate_left; unfold u; rotate_left; intro hu; try clear_value u)
    | split

theorem State.ridgeHandover_onlyR {z s : State} (h : OnlyR z s) : OnlyR z (State.ridgeHandover s) := by
  unfold State.ridgeHandover
  repeat' first
    | with_reducible assumption
    | with_reducible apply State.endSession_onlyR
    | with_reducible apply State.setR_onlyR
    | (extract_lets +onlyGivenNames u; try clear_value u)
    | split

theorem State.rtcStop_onlyR {z s : State} (h : OnlyR z s) : OnlyR z (State.rtcStop s) := by
  unfold State.rtcStop
  repeat' first
    | with_reducible assumption
    | with_reducible apply State.setR_onlyR

theorem execRidgeVrdgLoss_onlyR {z s : State} {x0 x1 x2} (h : OnlyR z s) : OnlyROut z (execRidgeVrdgLoss x0 x1 x2 s) := by
  unfold execRidgeVrdgLoss
  repeat' first
    | with_reducible assumption
    | with_reducible apply State.advance_onlyR
    | with_reducible apply State.rtcStop_onlyR
    | with_reducible apply State.ridgeHandover_onlyR
    | with_reducible apply OnlyR.out
    | with_reducible apply OnlyR.ite
    | (extract_lets +onlyGivenNames u; refine (?_ : OnlyR z u → _) ?_; rotate_left; unfold u; rotate_left; intro hu; try clear_value u)
    | split

theorem State.intEvent_onlyR {z s : State} {x1 x2 x3} (h : OnlyR z s) : OnlyR z (State.intEvent s x1 x2 x3) := by
  unfold State.intEvent
  repeat' first
    | with_reducible assumption
    | with_reducible apply State.rdgEvent_onlyR

theorem State.closeShort_onlyR {z s : State} (h : OnlyR z s) : OnlyR z (State.closeShort s) := by
  unfold State.closeShort
  dsimp only
  repeat' first
    | with_reducible assumption
    | with_reducible apply State.intEvent_onlyR
    | with_reducible apply State.setR_onlyR
    | split

theorem State.openShort_onlyR {z s : State} {x1} (h : OnlyR z s) : OnlyR z (State.openShort s x1) := by
  unfold State.openShort
  repeat' first
    | with_reducible assumption
    | with_reducible apply State.setR_onlyR

theorem State.endInterruption_onlyR {z s : State} (h : OnlyR z s) : OnlyR z (State.endInterruption s) := by
  unfold State.endInterruption
  dsimp only
  repeat' first
    | with_reducible assumption
    | with_reducible apply State.setR_onlyR
    | with_reducible apply State.closeShort_onlyR
    | with_reducible apply State.intEvent_onlyR
    | with_reducible apply State.openShort_onlyR
    | with_reducible apply OnlyR.ite
    | (extract_lets +onlyGivenNames u; try clear_value u)
    | split

theorem State.ridgeReturns_onlyR {z s : State} (h : OnlyR z s) : OnlyR z (State.ridgeReturns s) := by
  unfold State.ridgeReturns
  dsimp only
  repeat' first
    | with_reducible assumption
    | with_reducible apply State.endWoken_onlyR
    | with_reducible apply State.qpStart_onlyR
    | with_reducible apply State.setR_onlyR
    | with_reducible apply State.endInterruption_onlyR
    | with_reducible apply OnlyR.ite

theorem execRidgeStart_onlyR {z s : State} {x0 x1} (h : OnlyR z s) : OnlyROut z (execRidgeStart x0 x1 s) := by
  unfold execRidgeStart
  repeat' first
    | with_reducible assumption
    | with_reducible apply State.advance_onlyR
    | with_reducible apply State.ridgeReturns_onlyR
    | with_reducible apply State.qpStart_onlyR
    | with_reducible apply OnlyR.out
    | with_reducible apply OnlyR.ite
    | (extract_lets +onlyGivenNames u; refine (?_ : OnlyR z u → _) ?_; rotate_left; unfold u; rotate_left; intro hu; try clear_value u)
    | split

theorem execRidgeVrdgReturn_onlyR {z s : State} {x0 x1 x2} (h : OnlyR z s) : OnlyROut z (execRidgeVrdgReturn x0 x1 x2 s) := by
  unfold execRidgeVrdgReturn
  repeat' first
    | with_reducible assumption
    | with_reducible apply State.advance_onlyR
    | with_reducible apply State.ridgeReturns_onlyR
    | with_reducible apply OnlyR.out
    | (extract_lets +onlyGivenNames u; refine (?_ : OnlyR z u → _) ?_; rotate_left; unfold u; rotate_left; intro hu; try clear_value u)
    | split

theorem execShortInterruptionClose_onlyR {z s : State} {x0} (h : OnlyR z s) : OnlyROut z (execShortInterruptionClose x0 s) := by
  unfold execShortInterruptionClose
  repeat' first
    | with_reducible assumption
    | with_reducible apply State.advance_onlyR
    | with_reducible apply State.closeShort_onlyR
    | with_reducible apply OnlyR.out
    | with_reducible apply OnlyR.ite
    | (extract_lets +onlyGivenNames u; refine (?_ : OnlyR z u → _) ?_; rotate_left; unfold u; rotate_left; intro hu; try clear_value u)
    | split

theorem execRdgWitnessLost_onlyR {z s : State} {x0} (h : OnlyR z s) : OnlyROut z (execRdgWitnessLost x0 s) := by
  unfold execRdgWitnessLost
  dsimp only
  repeat' first
    | with_reducible assumption
    | with_reducible apply State.advance_onlyR
    | with_reducible apply State.rdgEvent_onlyR
    | with_reducible apply State.setR_onlyR
    | with_reducible apply OnlyR.out
    | split

theorem execRidgeLockoutEnd_onlyR {z s : State} {x0} (h : OnlyR z s) : OnlyROut z (execRidgeLockoutEnd x0 s) := by
  unfold execRidgeLockoutEnd
  dsimp only
  repeat' first
    | with_reducible assumption
    | with_reducible apply State.advance_onlyR
    | with_reducible apply State.setR_onlyR
    | with_reducible apply OnlyR.out
    | with_reducible apply OnlyR.ite
    | split


end Sys2Proof.Machine
end

