-- ==== Sys2Proof/Laws/Regs.lean ====
section
/-! SUPPORT. Laws of the register words: a word reads as it was written, a write leaves every other word alone, a field reads as it was written. -/

namespace Sys2Proof.Machine
open Sys2Proof

/-- An address below every listed one is not listed. -/
theorem sparseFind_none_of_lt {a : Nat} {l : List (Nat × Word)} (h : ∀ p ∈ l, a < p.1) : sparseFind a l = none := by
  cases l with
  | nil => rfl
  | cons p l =>
    have := h p (by simp)
    simp only [sparseFind]
    rw [if_neg (by omega), if_pos this]

/-- The changed address reads as written. -/
theorem sparseFind_put_same {d w : Word} {a : Nat} {l : List (Nat × Word)} (h : l.Pairwise (fun p q => p.1 < q.1)) :
    (sparseFind a (sparsePut d a w l)).getD d = w := by
  induction l with
  | nil => simp only [sparsePut]; split <;> simp_all [sparseFind]
  | cons p l ih =>
    obtain ⟨b, v⟩ := p
    have hp := List.pairwise_cons.1 h
    simp only [sparsePut]
    by_cases e : b = a
    · subst e
      rw [if_pos rfl]
      split
      · rw [sparseFind_none_of_lt fun q hq => hp.1 q hq]; simp_all
      · simp [sparseFind]
    · rw [if_neg e]
      by_cases l1 : a < b
      · rw [if_pos l1]
        split
        · simp only [sparseFind]; rw [if_neg e, if_pos l1]; simp_all
        · simp [sparseFind]
      · rw [if_neg l1]
        simp only [sparseFind]
        rw [if_neg e, if_neg l1]
        exact ih hp.2

/-- Every other address reads as before. -/
theorem sparseFind_put_ne {d w : Word} {a c : Nat} {l : List (Nat × Word)} (h : l.Pairwise (fun p q => p.1 < q.1)) (n : c ≠ a) :
    sparseFind c (sparsePut d a w l) = sparseFind c l := by
  induction l with
  | nil =>
    simp only [sparsePut]
    split
    · rfl
    · simp only [sparseFind]; rw [if_neg (Ne.symm n)]; split <;> rfl
  | cons p l ih =>
    obtain ⟨b, v⟩ := p
    have hp := List.pairwise_cons.1 h
    simp only [sparsePut]
    by_cases e : b = a
    · subst e
      rw [if_pos rfl]
      split
      · simp only [sparseFind]
        rw [if_neg (Ne.symm n)]
        split
        · exact sparseFind_none_of_lt fun q hq => Nat.lt_trans (by assumption) (hp.1 q hq)
        · rfl
      · simp [sparseFind, Ne.symm n]
    · rw [if_neg e]
      by_cases l1 : a < b
      · rw [if_pos l1]
        split
        · rfl
        · simp only [sparseFind]
          rw [if_neg (Ne.symm n)]
          by_cases l2 : c < a
          · rw [if_pos l2, if_neg (by omega), if_pos (by omega)]
          · rw [if_neg l2]
      · rw [if_neg l1]
        simp only [sparseFind]
        rw [ih hp.2]

/-- A register word reads as it was written. -/
theorem State.getW_setW_same {s : State} (h : RegsCanonical s.regs) (a : Nat) (w : Word) : (s.setW a w).getW a = w :=
  sparseFind_put_same h.1

/-- A write leaves every other register word alone. -/
theorem State.getW_setW_ne {s : State} (h : RegsCanonical s.regs) {a c : Nat} (n : c ≠ a) (w : Word) : (s.setW a w).getW c = s.getW c :=
  congrArg (fun o => Option.getD o (resetWord c)) (sparseFind_put_ne h.1 n)

/-- A replaced field stays within the word. -/
theorem Fld.into_lt {f : Fld} (h : f.hi < 32) (l : f.lo ≤ f.hi) (n v : Nat) (hn : n < 2 ^ 32) :
    n / 2 ^ (f.hi + 1) * 2 ^ (f.hi + 1) + v % 2 ^ (f.hi + 1 - f.lo) * 2 ^ f.lo + n % 2 ^ f.lo < 2 ^ 32 := by
  have e : 2 ^ (f.hi + 1) = 2 ^ (f.hi + 1 - f.lo) * 2 ^ f.lo := by rw [← Nat.pow_add]; congr 1; omega
  have e2 : (2 : Nat) ^ 32 = 2 ^ (31 - f.hi) * 2 ^ (f.hi + 1) := by rw [← Nat.pow_add]; congr 1; omega
  have h1 : v % 2 ^ (f.hi + 1 - f.lo) + 1 ≤ 2 ^ (f.hi + 1 - f.lo) := Nat.mod_lt _ (Nat.two_pow_pos _)
  have h2 : n % 2 ^ f.lo < 2 ^ f.lo := Nat.mod_lt _ (Nat.two_pow_pos _)
  have h3 : n / 2 ^ (f.hi + 1) + 1 ≤ 2 ^ (31 - f.hi) := Nat.div_lt_of_lt_mul (by rw [Nat.mul_comm, ← e2]; exact hn)
  have m1 := Nat.mul_le_mul_right (2 ^ f.lo) h1
  have m3 := Nat.mul_le_mul_right (2 ^ (f.hi + 1)) h3
  rw [Nat.add_mul] at m1 m3
  rw [← e] at m1
  rw [← e2] at m3
  omega

/-- A field reads as it was written, modulo its width. -/
theorem Fld.of_into {f : Fld} (h : f.hi < 32) (l : f.lo ≤ f.hi) (w : Word) (v : Nat) : f.of (f.into w v) = v % 2 ^ (f.hi + 1 - f.lo) := by
  have hl := Fld.into_lt h l w.toNat v w.isLt
  simp only [Fld.of, Fld.into, bitsOf, BitVec.toNat_ofNat]
  rw [Nat.mod_eq_of_lt hl]
  have e : 2 ^ (f.hi + 1) = 2 ^ (f.hi + 1 - f.lo) * 2 ^ f.lo := by rw [← Nat.pow_add]; congr 1; omega
  rw [e, ← Nat.mul_assoc, ← Nat.add_mul, Nat.add_comm, Nat.add_mul_div_right _ _ (Nat.two_pow_pos _), Nat.div_eq_of_lt (Nat.mod_lt _ (Nat.two_pow_pos _)), Nat.zero_add]
  rw [Nat.add_comm, Nat.add_mul_mod_self_right, Nat.mod_mod]

theorem State.canonical_setW {s : State} (h : RegsCanonical s.regs) (a : Nat) (w : Word) : RegsCanonical (s.setW a w).regs := sparsePut_canonical h

theorem State.canonical_setF {s : State} (h : RegsCanonical s.regs) (f : Fld) (v : Nat) : RegsCanonical (s.setF f v).regs := sparsePut_canonical h

/-- A field of a word reads as it was written, modulo its width. -/
theorem State.getF_setF_same {s : State} (h : RegsCanonical s.regs) {f : Fld} (hi : f.hi < 32) (l : f.lo ≤ f.hi) (v : Nat) :
    (s.setF f v).getF f = v % 2 ^ (f.hi + 1 - f.lo) := by
  rw [State.getF, State.setF, State.getW_setW_same h, Fld.of_into hi l]

/-- A write of a field leaves the fields of every other word alone. -/
theorem State.getF_setF_ne {s : State} (h : RegsCanonical s.regs) {f g : Fld} (n : g.addr ≠ f.addr) (v : Nat) : (s.setF f v).getF g = s.getF g := by
  rw [State.getF, State.setF, State.getW_setW_ne h n, State.getF]

end Sys2Proof.Machine
end

