-- ==== Sys2Proof/Laws/Serve.lean ====
section
/-! SUPPORT. Requests: what the checks of R81 and R82 and the reply do, and how a request that passes them ends. -/

namespace Sys2Proof.Machine

open Sys2Proof

/-- A request as its checks and its body give it. -/
theorem serveOp_eq (o : Op) (r : Req) (body : Ticket → State → Res) (s : State) : serveOp o r body s =
    .next (match admitOp o r s with
      | .ended u => u
      | .served u => match body (r.ticket o.code) u with
        | .done st d v => v.answer (r.ticket o.code) st d
        | .later v => v.trimCache (r.ticket o.code)) := rfl

/-- A request that is served and done answers its status and data. -/
theorem serveOp_done {o : Op} {r : Req} {body : Ticket → State → Res} {s u v : State} {st : Nat} {d : List Byte}
    (h : admitOp o r s = .served u) (hb : body (r.ticket o.code) u = .done st d v) :
    serveOp o r body s = .next (v.answer (r.ticket o.code) st d) := by rw [serveOp_eq, h]; simp only [hb]

/-- A request that is served and answered later leaves the state its body gives, with the session's replies cut to 16. -/
theorem serveOp_later {o : Op} {r : Req} {body : Ticket → State → Res} {s u v : State}
    (h : admitOp o r s = .served u) (hb : body (r.ticket o.code) u = .later v) :
    serveOp o r body s = .next (v.trimCache (r.ticket o.code)) := by
  rw [serveOp_eq, h]; simp only [hb]

/-- The same for a request whose lengths are a test. -/
theorem serve_done {o : Op} {lo : Nat → Bool} {r : Req} {body : Ticket → State → Res} {s u v : State} {st : Nat} {d : List Byte}
    (h : admitReq o lo r s = .served u) (hb : body (r.ticket o.code) u = .done st d v) :
    serve o lo r body s = v.answer (r.ticket o.code) st d := by unfold serve; rw [h]; simp only [hb]

/-- The same for a request whose lengths are a test and that is answered later. -/
theorem serve_later {o : Op} {lo : Nat → Bool} {r : Req} {body : Ticket → State → Res} {s u v : State}
    (h : admitReq o lo r s = .served u) (hb : body (r.ticket o.code) u = .later v) :
    serve o lo r body s = v.trimCache (r.ticket o.code) := by
  unfold serve; rw [h]; simp only [hb]

/-- Only the communication unit, its error counters, the clock and the free values may have changed. -/
def ReqFrame (z t : State) : Prop :=
  t = { z with now := t.now, com := t.com, regs := t.regs, incs := t.incs, free := t.free } ∧
  (RegsCanonical z.regs → RegsCanonical t.regs ∧ ∀ a, a ≠ F.COM_ERR_DUP.addr → t.getW a = z.getW a)

theorem ReqFrame.refl (z : State) : ReqFrame z z := ⟨rfl, fun h => ⟨h, fun _ _ => rfl⟩⟩

theorem ReqFrame.trans {a b c : State} (h : ReqFrame a b) (g : ReqFrame b c) : ReqFrame a c := by
  refine ⟨?_, fun x => ?_⟩
  · rw [g.1, h.1]
  · obtain ⟨y, hy⟩ := h.2 x
    obtain ⟨w, hw⟩ := g.2 y
    exact ⟨w, fun k n => (hw k n).trans (hy k n)⟩

/-- A change of the communication unit. -/
theorem ReqFrame.com {z s : State} (h : ReqFrame z s) (c : Com) : ReqFrame z { s with com := c } := h.trans ⟨rfl, fun x => ⟨x, fun _ _ => rfl⟩⟩

/-- Free values drawn. -/
theorem ReqFrame.drawn {z s : State} (h : ReqFrame z s) (n : Nat) : ReqFrame z { s with free := n } := h.trans ⟨rfl, fun x => ⟨x, fun _ _ => rfl⟩⟩

theorem State.advance_frame {z s : State} {t : Nat} (h : ReqFrame z s) : ReqFrame z (s.advance t) := h.trans ⟨rfl, fun x => ⟨x, fun _ _ => rfl⟩⟩

/-- An error counter of the communication unit counts. -/
theorem State.bump_frame {z s : State} {f : Fld} (h : ReqFrame z s) (e : f.addr = F.COM_ERR_DUP.addr) : ReqFrame z (s.bump f) := by
  refine h.trans ⟨rfl, fun x => ⟨State.canonical_setF x .., fun k n => ?_⟩⟩
  show (s.setF f _).getW k = _
  rw [State.setF, State.getW_setW_ne x (by rw [e]; exact n)]

theorem State.mapSession_frame {z s : State} {id : Word} {g : Session → Session} (h : ReqFrame z s) : ReqFrame z (s.mapSession id g) := h.com _

theorem State.emit_frame {z s : State} {t : Ticket} {r : Reply} (h : ReqFrame z s) : ReqFrame z (s.emit t r) := by
  unfold State.emit; split <;> exact h.com _

theorem State.flush_frame {z s : State} (h : ReqFrame z s) : ReqFrame z s.flush := by
  unfold State.flush
  generalize flushable (8 - s.com.spiOut.length) [] s.com.slots = p
  have : ∀ (l : List (Ticket × Reply)) (x : State), ReqFrame z x → ReqFrame z (l.foldl (fun t p => t.emit p.1 p.2) x) := by
    intro l
    induction l with
    | nil => exact fun x hx => hx
    | cons a l ih => exact fun x hx => ih _ (State.emit_frame hx)
  exact this _ _ (h.com _)

/-- A reply changes the communication unit alone. -/
theorem State.answer_frame {z s : State} {t : Ticket} {st : Nat} {d : List Byte} (h : ReqFrame z s) : ReqFrame z (s.answer t st d) := by
  unfold State.answer State.cacheReply
  exact State.flush_frame ((State.mapSession_frame h).com _)

/-- So does a reply to a request that failed at steps 1 to 4. -/
theorem State.reject_frame {z s : State} {t : Ticket} {st : Nat} (h : ReqFrame z s) : ReqFrame z (s.reject t st) := by
  unfold State.reject
  exact State.flush_frame (h.com _)

theorem State.markUsed_frame {z s : State} {t : Ticket} (h : ReqFrame z s) : ReqFrame z (s.markUsed t) := by
  unfold State.markUsed
  split
  · exact State.mapSession_frame h
  · exact h

/-- What the checks of R81 and R82 leave: the communication unit and its error counters alone have changed. -/
def Admit.Frame (z : State) : Admit → Prop
  | .served t => ReqFrame z t
  | .ended t => ReqFrame z t

theorem admitIn_frame {z s : State} {b : Bool} {r : Req} {t : Ticket} (h : ReqFrame z s) : (admitIn b r t s).Frame z := by
  have run : ∀ u : State, ReqFrame z u → Admit.Frame z (if b = true then .served u else .ended (u.answer t stBadLength [])) := by
    intro u hu; split
    · exact hu
    · exact State.answer_frame hu
  unfold admitIn
  dsimp only
  split
  · exact run _ h
  · split
    · exact run _ (State.mapSession_frame h)
    · split
      · split
        · split
          · exact State.flush_frame ((State.bump_frame (State.mapSession_frame h) rfl).com _)
          · exact (State.bump_frame (State.mapSession_frame h) rfl).com _
        · exact State.flush_frame ((State.mapSession_frame h).com _)
      · exact run _ (State.mapSession_frame (State.mapSession_frame h))

theorem admit_frame {z s : State} {o : Op} {lo : Nat → Bool} {r : Req} (h : ReqFrame z s) : (admitReq o lo r s).Frame z := by
  unfold admitReq State.enqueue
  dsimp only
  have a := State.advance_frame (t := r.time) h
  split
  · exact a
  · split
    · exact State.bump_frame a rfl
    · split
      · exact State.bump_frame a rfl
      · split
        · exact State.reject_frame (State.bump_frame (a.com _) rfl)
        · split
          · exact State.reject_frame (State.markUsed_frame ((a.com _).com _))
          · split
            · exact State.reject_frame (State.markUsed_frame ((a.com _).com _))
            · split
              · exact State.reject_frame (State.markUsed_frame ((a.com _).com _))
              · exact admitIn_frame (State.markUsed_frame ((a.com _).com _))

/-- What a body may leave. -/
def Res.Frame (z : State) : Res → Prop
  | .done _ _ t => ReqFrame z t
  | .later t => ReqFrame z t

/-- A request whose body changes the communication unit alone does so as a whole. -/
theorem serve_frame {z s : State} {o : Op} {lo : Nat → Bool} {r : Req} {body : Ticket → State → Res}
    (hb : ∀ u, ReqFrame z u → (body (r.ticket o.code) u).Frame z) (h : ReqFrame z s) : ReqFrame z (serve o lo r body s) := by
  unfold serve
  have a := admit_frame (o := o) (lo := lo) (r := r) h
  split
  · rename_i e; rw [e] at a; exact a
  · rename_i u e
    rw [e] at a
    have b := hb u a
    split
    · rename_i e2; rw [e2] at b; exact State.answer_frame b
    · rename_i e2; rw [e2] at b; exact State.mapSession_frame b

end Sys2Proof.Machine
end

