-- ==== Sys2Proof/Laws/State.lean ====
section
/-! SUPPORT. Laws of State: for each named update one lemma per field, so that no proof unfolds a record update. -/

namespace Sys2Proof.Machine
open Sys2Proof

/-! ## setW -/

@[simp] theorem State.setW_now (s : State) (a : Nat) (w : Word) : (s.setW a w).now = s.now := rfl
@[simp] theorem State.setW_regs (s : State) (a : Nat) (w : Word) : (s.setW a w).regs = sparsePut (resetWord a) a w s.regs := rfl
@[simp] theorem State.setW_shadow (s : State) (a : Nat) (w : Word) : (s.setW a w).shadow = s.shadow := rfl
@[simp] theorem State.setW_incs (s : State) (a : Nat) (w : Word) : (s.setW a w).incs = s.incs := rfl
@[simp] theorem State.setW_com (s : State) (a : Nat) (w : Word) : (s.setW a w).com = s.com := rfl
@[simp] theorem State.setW_pwr (s : State) (a : Nat) (w : Word) : (s.setW a w).pwr = s.pwr := rfl
@[simp] theorem State.setW_log (s : State) (a : Nat) (w : Word) : (s.setW a w).log = s.log := rfl
@[simp] theorem State.setW_slt (s : State) (a : Nat) (w : Word) : (s.setW a w).slt = s.slt := rfl
@[simp] theorem State.setW_gate (s : State) (a : Nat) (w : Word) : (s.setW a w).gate = s.gate := rfl
@[simp] theorem State.setW_bat (s : State) (a : Nat) (w : Word) : (s.setW a w).bat = s.bat := rfl
@[simp] theorem State.setW_gz (s : State) (a : Nat) (w : Word) : (s.setW a w).gz = s.gz := rfl
@[simp] theorem State.setW_le (s : State) (a : Nat) (w : Word) : (s.setW a w).le = s.le := rfl
@[simp] theorem State.setW_swaps (s : State) (a : Nat) (w : Word) : (s.setW a w).swaps = s.swaps := rfl
@[simp] theorem State.setW_trc (s : State) (a : Nat) (w : Word) : (s.setW a w).trc = s.trc := rfl
@[simp] theorem State.setW_map (s : State) (a : Nat) (w : Word) : (s.setW a w).map = s.map := rfl
@[simp] theorem State.setW_idn (s : State) (a : Nat) (w : Word) : (s.setW a w).idn = s.idn := rfl
@[simp] theorem State.setW_chg (s : State) (a : Nat) (w : Word) : (s.setW a w).chg = s.chg := rfl
@[simp] theorem State.setW_aux (s : State) (a : Nat) (w : Word) : (s.setW a w).aux = s.aux := rfl
@[simp] theorem State.setW_shift (s : State) (a : Nat) (w : Word) : (s.setW a w).shift = s.shift := rfl
@[simp] theorem State.setW_park (s : State) (a : Nat) (w : Word) : (s.setW a w).park = s.park := rfl
@[simp] theorem State.setW_thm (s : State) (a : Nat) (w : Word) : (s.setW a w).thm = s.thm := rfl
@[simp] theorem State.setW_tlm (s : State) (a : Nat) (w : Word) : (s.setW a w).tlm = s.tlm := rfl
@[simp] theorem State.setW_rdg (s : State) (a : Nat) (w : Word) : (s.setW a w).rdg = s.rdg := rfl
@[simp] theorem State.setW_wit (s : State) (a : Nat) (w : Word) : (s.setW a w).wit = s.wit := rfl
@[simp] theorem State.setW_free (s : State) (a : Nat) (w : Word) : (s.setW a w).free = s.free := rfl
@[simp] theorem State.setW_pending (s : State) (a : Nat) (w : Word) : (s.setW a w).pending = s.pending := rfl

/-! ## setF -/

@[simp] theorem State.setF_now (s : State) (f : Fld) (v : Nat) : (s.setF f v).now = s.now := rfl
@[simp] theorem State.setF_shadow (s : State) (f : Fld) (v : Nat) : (s.setF f v).shadow = s.shadow := rfl
@[simp] theorem State.setF_incs (s : State) (f : Fld) (v : Nat) : (s.setF f v).incs = s.incs := rfl
@[simp] theorem State.setF_com (s : State) (f : Fld) (v : Nat) : (s.setF f v).com = s.com := rfl
@[simp] theorem State.setF_pwr (s : State) (f : Fld) (v : Nat) : (s.setF f v).pwr = s.pwr := rfl
@[simp] theorem State.setF_log (s : State) (f : Fld) (v : Nat) : (s.setF f v).log = s.log := rfl
@[simp] theorem State.setF_slt (s : State) (f : Fld) (v : Nat) : (s.setF f v).slt = s.slt := rfl
@[simp] theorem State.setF_gate (s : State) (f : Fld) (v : Nat) : (s.setF f v).gate = s.gate := rfl
@[simp] theorem State.setF_bat (s : State) (f : Fld) (v : Nat) : (s.setF f v).bat = s.bat := rfl
@[simp] theorem State.setF_gz (s : State) (f : Fld) (v : Nat) : (s.setF f v).gz = s.gz := rfl
@[simp] theorem State.setF_le (s : State) (f : Fld) (v : Nat) : (s.setF f v).le = s.le := rfl
@[simp] theorem State.setF_swaps (s : State) (f : Fld) (v : Nat) : (s.setF f v).swaps = s.swaps := rfl
@[simp] theorem State.setF_trc (s : State) (f : Fld) (v : Nat) : (s.setF f v).trc = s.trc := rfl
@[simp] theorem State.setF_map (s : State) (f : Fld) (v : Nat) : (s.setF f v).map = s.map := rfl
@[simp] theorem State.setF_idn (s : State) (f : Fld) (v : Nat) : (s.setF f v).idn = s.idn := rfl
@[simp] theorem State.setF_chg (s : State) (f : Fld) (v : Nat) : (s.setF f v).chg = s.chg := rfl
@[simp] theorem State.setF_aux (s : State) (f : Fld) (v : Nat) : (s.setF f v).aux = s.aux := rfl
@[simp] theorem State.setF_shift (s : State) (f : Fld) (v : Nat) : (s.setF f v).shift = s.shift := rfl
@[simp] theorem State.setF_park (s : State) (f : Fld) (v : Nat) : (s.setF f v).park = s.park := rfl
@[simp] theorem State.setF_thm (s : State) (f : Fld) (v : Nat) : (s.setF f v).thm = s.thm := rfl
@[simp] theorem State.setF_tlm (s : State) (f : Fld) (v : Nat) : (s.setF f v).tlm = s.tlm := rfl
@[simp] theorem State.setF_rdg (s : State) (f : Fld) (v : Nat) : (s.setF f v).rdg = s.rdg := rfl
@[simp] theorem State.setF_wit (s : State) (f : Fld) (v : Nat) : (s.setF f v).wit = s.wit := rfl
@[simp] theorem State.setF_free (s : State) (f : Fld) (v : Nat) : (s.setF f v).free = s.free := rfl
@[simp] theorem State.setF_pending (s : State) (f : Fld) (v : Nat) : (s.setF f v).pending = s.pending := rfl

/-! ## setB -/

@[simp] theorem State.setB_now (s : State) (f : Fld) (b : Bool) : (s.setB f b).now = s.now := rfl
@[simp] theorem State.setB_shadow (s : State) (f : Fld) (b : Bool) : (s.setB f b).shadow = s.shadow := rfl
@[simp] theorem State.setB_incs (s : State) (f : Fld) (b : Bool) : (s.setB f b).incs = s.incs := rfl
@[simp] theorem State.setB_com (s : State) (f : Fld) (b : Bool) : (s.setB f b).com = s.com := rfl
@[simp] theorem State.setB_pwr (s : State) (f : Fld) (b : Bool) : (s.setB f b).pwr = s.pwr := rfl
@[simp] theorem State.setB_log (s : State) (f : Fld) (b : Bool) : (s.setB f b).log = s.log := rfl
@[simp] theorem State.setB_slt (s : State) (f : Fld) (b : Bool) : (s.setB f b).slt = s.slt := rfl
@[simp] theorem State.setB_gate (s : State) (f : Fld) (b : Bool) : (s.setB f b).gate = s.gate := rfl
@[simp] theorem State.setB_bat (s : State) (f : Fld) (b : Bool) : (s.setB f b).bat = s.bat := rfl
@[simp] theorem State.setB_gz (s : State) (f : Fld) (b : Bool) : (s.setB f b).gz = s.gz := rfl
@[simp] theorem State.setB_le (s : State) (f : Fld) (b : Bool) : (s.setB f b).le = s.le := rfl
@[simp] theorem State.setB_swaps (s : State) (f : Fld) (b : Bool) : (s.setB f b).swaps = s.swaps := rfl
@[simp] theorem State.setB_trc (s : State) (f : Fld) (b : Bool) : (s.setB f b).trc = s.trc := rfl
@[simp] theorem State.setB_map (s : State) (f : Fld) (b : Bool) : (s.setB f b).map = s.map := rfl
@[simp] theorem State.setB_idn (s : State) (f : Fld) (b : Bool) : (s.setB f b).idn = s.idn := rfl
@[simp] theorem State.setB_chg (s : State) (f : Fld) (b : Bool) : (s.setB f b).chg = s.chg := rfl
@[simp] theorem State.setB_aux (s : State) (f : Fld) (b : Bool) : (s.setB f b).aux = s.aux := rfl
@[simp] theorem State.setB_shift (s : State) (f : Fld) (b : Bool) : (s.setB f b).shift = s.shift := rfl
@[simp] theorem State.setB_park (s : State) (f : Fld) (b : Bool) : (s.setB f b).park = s.park := rfl
@[simp] theorem State.setB_thm (s : State) (f : Fld) (b : Bool) : (s.setB f b).thm = s.thm := rfl
@[simp] theorem State.setB_tlm (s : State) (f : Fld) (b : Bool) : (s.setB f b).tlm = s.tlm := rfl
@[simp] theorem State.setB_rdg (s : State) (f : Fld) (b : Bool) : (s.setB f b).rdg = s.rdg := rfl
@[simp] theorem State.setB_wit (s : State) (f : Fld) (b : Bool) : (s.setB f b).wit = s.wit := rfl
@[simp] theorem State.setB_free (s : State) (f : Fld) (b : Bool) : (s.setB f b).free = s.free := rfl
@[simp] theorem State.setB_pending (s : State) (f : Fld) (b : Bool) : (s.setB f b).pending = s.pending := rfl

/-! ## setFl -/

@[simp] theorem State.setFl_now (s : State) (f : Fld) (x : F32) : (s.setFl f x).now = s.now := rfl
@[simp] theorem State.setFl_shadow (s : State) (f : Fld) (x : F32) : (s.setFl f x).shadow = s.shadow := rfl
@[simp] theorem State.setFl_incs (s : State) (f : Fld) (x : F32) : (s.setFl f x).incs = s.incs := rfl
@[simp] theorem State.setFl_com (s : State) (f : Fld) (x : F32) : (s.setFl f x).com = s.com := rfl
@[simp] theorem State.setFl_pwr (s : State) (f : Fld) (x : F32) : (s.setFl f x).pwr = s.pwr := rfl
@[simp] theorem State.setFl_log (s : State) (f : Fld) (x : F32) : (s.setFl f x).log = s.log := rfl
@[simp] theorem State.setFl_slt (s : State) (f : Fld) (x : F32) : (s.setFl f x).slt = s.slt := rfl
@[simp] theorem State.setFl_gate (s : State) (f : Fld) (x : F32) : (s.setFl f x).gate = s.gate := rfl
@[simp] theorem State.setFl_bat (s : State) (f : Fld) (x : F32) : (s.setFl f x).bat = s.bat := rfl
@[simp] theorem State.setFl_gz (s : State) (f : Fld) (x : F32) : (s.setFl f x).gz = s.gz := rfl
@[simp] theorem State.setFl_le (s : State) (f : Fld) (x : F32) : (s.setFl f x).le = s.le := rfl
@[simp] theorem State.setFl_swaps (s : State) (f : Fld) (x : F32) : (s.setFl f x).swaps = s.swaps := rfl
@[simp] theorem State.setFl_trc (s : State) (f : Fld) (x : F32) : (s.setFl f x).trc = s.trc := rfl
@[simp] theorem State.setFl_map (s : State) (f : Fld) (x : F32) : (s.setFl f x).map = s.map := rfl
@[simp] theorem State.setFl_idn (s : State) (f : Fld) (x : F32) : (s.setFl f x).idn = s.idn := rfl
@[simp] theorem State.setFl_chg (s : State) (f : Fld) (x : F32) : (s.setFl f x).chg = s.chg := rfl
@[simp] theorem State.setFl_aux (s : State) (f : Fld) (x : F32) : (s.setFl f x).aux = s.aux := rfl
@[simp] theorem State.setFl_shift (s : State) (f : Fld) (x : F32) : (s.setFl f x).shift = s.shift := rfl
@[simp] theorem State.setFl_park (s : State) (f : Fld) (x : F32) : (s.setFl f x).park = s.park := rfl
@[simp] theorem State.setFl_thm (s : State) (f : Fld) (x : F32) : (s.setFl f x).thm = s.thm := rfl
@[simp] theorem State.setFl_tlm (s : State) (f : Fld) (x : F32) : (s.setFl f x).tlm = s.tlm := rfl
@[simp] theorem State.setFl_rdg (s : State) (f : Fld) (x : F32) : (s.setFl f x).rdg = s.rdg := rfl
@[simp] theorem State.setFl_wit (s : State) (f : Fld) (x : F32) : (s.setFl f x).wit = s.wit := rfl
@[simp] theorem State.setFl_free (s : State) (f : Fld) (x : F32) : (s.setFl f x).free = s.free := rfl
@[simp] theorem State.setFl_pending (s : State) (f : Fld) (x : F32) : (s.setFl f x).pending = s.pending := rfl

/-! ## setQ -/

@[simp] theorem State.setQ_now (s : State) (f : Fld) (x : Rat) : (s.setQ f x).now = s.now := rfl
@[simp] theorem State.setQ_shadow (s : State) (f : Fld) (x : Rat) : (s.setQ f x).shadow = s.shadow := rfl
@[simp] theorem State.setQ_incs (s : State) (f : Fld) (x : Rat) : (s.setQ f x).incs = s.incs := rfl
@[simp] theorem State.setQ_com (s : State) (f : Fld) (x : Rat) : (s.setQ f x).com = s.com := rfl
@[simp] theorem State.setQ_pwr (s : State) (f : Fld) (x : Rat) : (s.setQ f x).pwr = s.pwr := rfl
@[simp] theorem State.setQ_log (s : State) (f : Fld) (x : Rat) : (s.setQ f x).log = s.log := rfl
@[simp] theorem State.setQ_slt (s : State) (f : Fld) (x : Rat) : (s.setQ f x).slt = s.slt := rfl
@[simp] theorem State.setQ_gate (s : State) (f : Fld) (x : Rat) : (s.setQ f x).gate = s.gate := rfl
@[simp] theorem State.setQ_bat (s : State) (f : Fld) (x : Rat) : (s.setQ f x).bat = s.bat := rfl
@[simp] theorem State.setQ_gz (s : State) (f : Fld) (x : Rat) : (s.setQ f x).gz = s.gz := rfl
@[simp] theorem State.setQ_le (s : State) (f : Fld) (x : Rat) : (s.setQ f x).le = s.le := rfl
@[simp] theorem State.setQ_swaps (s : State) (f : Fld) (x : Rat) : (s.setQ f x).swaps = s.swaps := rfl
@[simp] theorem State.setQ_trc (s : State) (f : Fld) (x : Rat) : (s.setQ f x).trc = s.trc := rfl
@[simp] theorem State.setQ_map (s : State) (f : Fld) (x : Rat) : (s.setQ f x).map = s.map := rfl
@[simp] theorem State.setQ_idn (s : State) (f : Fld) (x : Rat) : (s.setQ f x).idn = s.idn := rfl
@[simp] theorem State.setQ_chg (s : State) (f : Fld) (x : Rat) : (s.setQ f x).chg = s.chg := rfl
@[simp] theorem State.setQ_aux (s : State) (f : Fld) (x : Rat) : (s.setQ f x).aux = s.aux := rfl
@[simp] theorem State.setQ_shift (s : State) (f : Fld) (x : Rat) : (s.setQ f x).shift = s.shift := rfl
@[simp] theorem State.setQ_park (s : State) (f : Fld) (x : Rat) : (s.setQ f x).park = s.park := rfl
@[simp] theorem State.setQ_thm (s : State) (f : Fld) (x : Rat) : (s.setQ f x).thm = s.thm := rfl
@[simp] theorem State.setQ_tlm (s : State) (f : Fld) (x : Rat) : (s.setQ f x).tlm = s.tlm := rfl
@[simp] theorem State.setQ_rdg (s : State) (f : Fld) (x : Rat) : (s.setQ f x).rdg = s.rdg := rfl
@[simp] theorem State.setQ_wit (s : State) (f : Fld) (x : Rat) : (s.setQ f x).wit = s.wit := rfl
@[simp] theorem State.setQ_free (s : State) (f : Fld) (x : Rat) : (s.setQ f x).free = s.free := rfl
@[simp] theorem State.setQ_pending (s : State) (f : Fld) (x : Rat) : (s.setQ f x).pending = s.pending := rfl

/-! ## setBit -/

@[simp] theorem State.setBit_now (s : State) (f : Fld) (n : Nat) (b : Bool) : (s.setBit f n b).now = s.now := rfl
@[simp] theorem State.setBit_shadow (s : State) (f : Fld) (n : Nat) (b : Bool) : (s.setBit f n b).shadow = s.shadow := rfl
@[simp] theorem State.setBit_incs (s : State) (f : Fld) (n : Nat) (b : Bool) : (s.setBit f n b).incs = s.incs := rfl
@[simp] theorem State.setBit_com (s : State) (f : Fld) (n : Nat) (b : Bool) : (s.setBit f n b).com = s.com := rfl
@[simp] theorem State.setBit_pwr (s : State) (f : Fld) (n : Nat) (b : Bool) : (s.setBit f n b).pwr = s.pwr := rfl
@[simp] theorem State.setBit_log (s : State) (f : Fld) (n : Nat) (b : Bool) : (s.setBit f n b).log = s.log := rfl
@[simp] theorem State.setBit_slt (s : State) (f : Fld) (n : Nat) (b : Bool) : (s.setBit f n b).slt = s.slt := rfl
@[simp] theorem State.setBit_gate (s : State) (f : Fld) (n : Nat) (b : Bool) : (s.setBit f n b).gate = s.gate := rfl
@[simp] theorem State.setBit_bat (s : State) (f : Fld) (n : Nat) (b : Bool) : (s.setBit f n b).bat = s.bat := rfl
@[simp] theorem State.setBit_gz (s : State) (f : Fld) (n : Nat) (b : Bool) : (s.setBit f n b).gz = s.gz := rfl
@[simp] theorem State.setBit_le (s : State) (f : Fld) (n : Nat) (b : Bool) : (s.setBit f n b).le = s.le := rfl
@[simp] theorem State.setBit_swaps (s : State) (f : Fld) (n : Nat) (b : Bool) : (s.setBit f n b).swaps = s.swaps := rfl
@[simp] theorem State.setBit_trc (s : State) (f : Fld) (n : Nat) (b : Bool) : (s.setBit f n b).trc = s.trc := rfl
@[simp] theorem State.setBit_map (s : State) (f : Fld) (n : Nat) (b : Bool) : (s.setBit f n b).map = s.map := rfl
@[simp] theorem State.setBit_idn (s : State) (f : Fld) (n : Nat) (b : Bool) : (s.setBit f n b).idn = s.idn := rfl
@[simp] theorem State.setBit_chg (s : State) (f : Fld) (n : Nat) (b : Bool) : (s.setBit f n b).chg = s.chg := rfl
@[simp] theorem State.setBit_aux (s : State) (f : Fld) (n : Nat) (b : Bool) : (s.setBit f n b).aux = s.aux := rfl
@[simp] theorem State.setBit_shift (s : State) (f : Fld) (n : Nat) (b : Bool) : (s.setBit f n b).shift = s.shift := rfl
@[simp] theorem State.setBit_park (s : State) (f : Fld) (n : Nat) (b : Bool) : (s.setBit f n b).park = s.park := rfl
@[simp] theorem State.setBit_thm (s : State) (f : Fld) (n : Nat) (b : Bool) : (s.setBit f n b).thm = s.thm := rfl
@[simp] theorem State.setBit_tlm (s : State) (f : Fld) (n : Nat) (b : Bool) : (s.setBit f n b).tlm = s.tlm := rfl
@[simp] theorem State.setBit_rdg (s : State) (f : Fld) (n : Nat) (b : Bool) : (s.setBit f n b).rdg = s.rdg := rfl
@[simp] theorem State.setBit_wit (s : State) (f : Fld) (n : Nat) (b : Bool) : (s.setBit f n b).wit = s.wit := rfl
@[simp] theorem State.setBit_free (s : State) (f : Fld) (n : Nat) (b : Bool) : (s.setBit f n b).free = s.free := rfl
@[simp] theorem State.setBit_pending (s : State) (f : Fld) (n : Nat) (b : Bool) : (s.setBit f n b).pending = s.pending := rfl

/-! ## event -/

@[simp] theorem State.event_now (s : State) (f : Fld) : (s.event f).now = s.now := rfl
@[simp] theorem State.event_shadow (s : State) (f : Fld) : (s.event f).shadow = s.shadow := rfl
@[simp] theorem State.event_incs (s : State) (f : Fld) : (s.event f).incs = s.incs := rfl
@[simp] theorem State.event_com (s : State) (f : Fld) : (s.event f).com = s.com := rfl
@[simp] theorem State.event_pwr (s : State) (f : Fld) : (s.event f).pwr = s.pwr := rfl
@[simp] theorem State.event_log (s : State) (f : Fld) : (s.event f).log = s.log := rfl
@[simp] theorem State.event_slt (s : State) (f : Fld) : (s.event f).slt = s.slt := rfl
@[simp] theorem State.event_gate (s : State) (f : Fld) : (s.event f).gate = s.gate := rfl
@[simp] theorem State.event_bat (s : State) (f : Fld) : (s.event f).bat = s.bat := rfl
@[simp] theorem State.event_gz (s : State) (f : Fld) : (s.event f).gz = s.gz := rfl
@[simp] theorem State.event_le (s : State) (f : Fld) : (s.event f).le = s.le := rfl
@[simp] theorem State.event_swaps (s : State) (f : Fld) : (s.event f).swaps = s.swaps := rfl
@[simp] theorem State.event_trc (s : State) (f : Fld) : (s.event f).trc = s.trc := rfl
@[simp] theorem State.event_map (s : State) (f : Fld) : (s.event f).map = s.map := rfl
@[simp] theorem State.event_idn (s : State) (f : Fld) : (s.event f).idn = s.idn := rfl
@[simp] theorem State.event_chg (s : State) (f : Fld) : (s.event f).chg = s.chg := rfl
@[simp] theorem State.event_aux (s : State) (f : Fld) : (s.event f).aux = s.aux := rfl
@[simp] theorem State.event_shift (s : State) (f : Fld) : (s.event f).shift = s.shift := rfl
@[simp] theorem State.event_park (s : State) (f : Fld) : (s.event f).park = s.park := rfl
@[simp] theorem State.event_thm (s : State) (f : Fld) : (s.event f).thm = s.thm := rfl
@[simp] theorem State.event_tlm (s : State) (f : Fld) : (s.event f).tlm = s.tlm := rfl
@[simp] theorem State.event_rdg (s : State) (f : Fld) : (s.event f).rdg = s.rdg := rfl
@[simp] theorem State.event_wit (s : State) (f : Fld) : (s.event f).wit = s.wit := rfl
@[simp] theorem State.event_free (s : State) (f : Fld) : (s.event f).free = s.free := rfl
@[simp] theorem State.event_pending (s : State) (f : Fld) : (s.event f).pending = s.pending := rfl

/-! ## eventBit -/

@[simp] theorem State.eventBit_now (s : State) (f : Fld) (n : Nat) : (s.eventBit f n).now = s.now := rfl
@[simp] theorem State.eventBit_shadow (s : State) (f : Fld) (n : Nat) : (s.eventBit f n).shadow = s.shadow := rfl
@[simp] theorem State.eventBit_incs (s : State) (f : Fld) (n : Nat) : (s.eventBit f n).incs = s.incs := rfl
@[simp] theorem State.eventBit_com (s : State) (f : Fld) (n : Nat) : (s.eventBit f n).com = s.com := rfl
@[simp] theorem State.eventBit_pwr (s : State) (f : Fld) (n : Nat) : (s.eventBit f n).pwr = s.pwr := rfl
@[simp] theorem State.eventBit_log (s : State) (f : Fld) (n : Nat) : (s.eventBit f n).log = s.log := rfl
@[simp] theorem State.eventBit_slt (s : State) (f : Fld) (n : Nat) : (s.eventBit f n).slt = s.slt := rfl
@[simp] theorem State.eventBit_gate (s : State) (f : Fld) (n : Nat) : (s.eventBit f n).gate = s.gate := rfl
@[simp] theorem State.eventBit_bat (s : State) (f : Fld) (n : Nat) : (s.eventBit f n).bat = s.bat := rfl
@[simp] theorem State.eventBit_gz (s : State) (f : Fld) (n : Nat) : (s.eventBit f n).gz = s.gz := rfl
@[simp] theorem State.eventBit_le (s : State) (f : Fld) (n : Nat) : (s.eventBit f n).le = s.le := rfl
@[simp] theorem State.eventBit_swaps (s : State) (f : Fld) (n : Nat) : (s.eventBit f n).swaps = s.swaps := rfl
@[simp] theorem State.eventBit_trc (s : State) (f : Fld) (n : Nat) : (s.eventBit f n).trc = s.trc := rfl
@[simp] theorem State.eventBit_map (s : State) (f : Fld) (n : Nat) : (s.eventBit f n).map = s.map := rfl
@[simp] theorem State.eventBit_idn (s : State) (f : Fld) (n : Nat) : (s.eventBit f n).idn = s.idn := rfl
@[simp] theorem State.eventBit_chg (s : State) (f : Fld) (n : Nat) : (s.eventBit f n).chg = s.chg := rfl
@[simp] theorem State.eventBit_aux (s : State) (f : Fld) (n : Nat) : (s.eventBit f n).aux = s.aux := rfl
@[simp] theorem State.eventBit_shift (s : State) (f : Fld) (n : Nat) : (s.eventBit f n).shift = s.shift := rfl
@[simp] theorem State.eventBit_park (s : State) (f : Fld) (n : Nat) : (s.eventBit f n).park = s.park := rfl
@[simp] theorem State.eventBit_thm (s : State) (f : Fld) (n : Nat) : (s.eventBit f n).thm = s.thm := rfl
@[simp] theorem State.eventBit_tlm (s : State) (f : Fld) (n : Nat) : (s.eventBit f n).tlm = s.tlm := rfl
@[simp] theorem State.eventBit_rdg (s : State) (f : Fld) (n : Nat) : (s.eventBit f n).rdg = s.rdg := rfl
@[simp] theorem State.eventBit_wit (s : State) (f : Fld) (n : Nat) : (s.eventBit f n).wit = s.wit := rfl
@[simp] theorem State.eventBit_free (s : State) (f : Fld) (n : Nat) : (s.eventBit f n).free = s.free := rfl
@[simp] theorem State.eventBit_pending (s : State) (f : Fld) (n : Nat) : (s.eventBit f n).pending = s.pending := rfl

/-! ## wrap -/

@[simp] theorem State.wrap_now (s : State) (f : Fld) : (s.wrap f).now = s.now := rfl
@[simp] theorem State.wrap_shadow (s : State) (f : Fld) : (s.wrap f).shadow = s.shadow := rfl
@[simp] theorem State.wrap_incs (s : State) (f : Fld) : (s.wrap f).incs = s.incs := rfl
@[simp] theorem State.wrap_com (s : State) (f : Fld) : (s.wrap f).com = s.com := rfl
@[simp] theorem State.wrap_pwr (s : State) (f : Fld) : (s.wrap f).pwr = s.pwr := rfl
@[simp] theorem State.wrap_log (s : State) (f : Fld) : (s.wrap f).log = s.log := rfl
@[simp] theorem State.wrap_slt (s : State) (f : Fld) : (s.wrap f).slt = s.slt := rfl
@[simp] theorem State.wrap_gate (s : State) (f : Fld) : (s.wrap f).gate = s.gate := rfl
@[simp] theorem State.wrap_bat (s : State) (f : Fld) : (s.wrap f).bat = s.bat := rfl
@[simp] theorem State.wrap_gz (s : State) (f : Fld) : (s.wrap f).gz = s.gz := rfl
@[simp] theorem State.wrap_le (s : State) (f : Fld) : (s.wrap f).le = s.le := rfl
@[simp] theorem State.wrap_swaps (s : State) (f : Fld) : (s.wrap f).swaps = s.swaps := rfl
@[simp] theorem State.wrap_trc (s : State) (f : Fld) : (s.wrap f).trc = s.trc := rfl
@[simp] theorem State.wrap_map (s : State) (f : Fld) : (s.wrap f).map = s.map := rfl
@[simp] theorem State.wrap_idn (s : State) (f : Fld) : (s.wrap f).idn = s.idn := rfl
@[simp] theorem State.wrap_chg (s : State) (f : Fld) : (s.wrap f).chg = s.chg := rfl
@[simp] theorem State.wrap_aux (s : State) (f : Fld) : (s.wrap f).aux = s.aux := rfl
@[simp] theorem State.wrap_shift (s : State) (f : Fld) : (s.wrap f).shift = s.shift := rfl
@[simp] theorem State.wrap_park (s : State) (f : Fld) : (s.wrap f).park = s.park := rfl
@[simp] theorem State.wrap_thm (s : State) (f : Fld) : (s.wrap f).thm = s.thm := rfl
@[simp] theorem State.wrap_tlm (s : State) (f : Fld) : (s.wrap f).tlm = s.tlm := rfl
@[simp] theorem State.wrap_rdg (s : State) (f : Fld) : (s.wrap f).rdg = s.rdg := rfl
@[simp] theorem State.wrap_wit (s : State) (f : Fld) : (s.wrap f).wit = s.wit := rfl
@[simp] theorem State.wrap_free (s : State) (f : Fld) : (s.wrap f).free = s.free := rfl
@[simp] theorem State.wrap_pending (s : State) (f : Fld) : (s.wrap f).pending = s.pending := rfl

/-! ## bumpBy -/

@[simp] theorem State.bumpBy_now (s : State) (f : Fld) (k : Nat) : (s.bumpBy f k).now = s.now := rfl
@[simp] theorem State.bumpBy_regs (s : State) (f : Fld) (k : Nat) : (s.bumpBy f k).regs = (s.setF f (satAdd (f.hi + 1 - f.lo) (s.getF f) k)).regs := rfl
@[simp] theorem State.bumpBy_shadow (s : State) (f : Fld) (k : Nat) : (s.bumpBy f k).shadow = s.shadow := rfl
@[simp] theorem State.bumpBy_com (s : State) (f : Fld) (k : Nat) : (s.bumpBy f k).com = s.com := rfl
@[simp] theorem State.bumpBy_pwr (s : State) (f : Fld) (k : Nat) : (s.bumpBy f k).pwr = s.pwr := rfl
@[simp] theorem State.bumpBy_log (s : State) (f : Fld) (k : Nat) : (s.bumpBy f k).log = s.log := rfl
@[simp] theorem State.bumpBy_slt (s : State) (f : Fld) (k : Nat) : (s.bumpBy f k).slt = s.slt := rfl
@[simp] theorem State.bumpBy_gate (s : State) (f : Fld) (k : Nat) : (s.bumpBy f k).gate = s.gate := rfl
@[simp] theorem State.bumpBy_bat (s : State) (f : Fld) (k : Nat) : (s.bumpBy f k).bat = s.bat := rfl
@[simp] theorem State.bumpBy_gz (s : State) (f : Fld) (k : Nat) : (s.bumpBy f k).gz = s.gz := rfl
@[simp] theorem State.bumpBy_le (s : State) (f : Fld) (k : Nat) : (s.bumpBy f k).le = s.le := rfl
@[simp] theorem State.bumpBy_swaps (s : State) (f : Fld) (k : Nat) : (s.bumpBy f k).swaps = s.swaps := rfl
@[simp] theorem State.bumpBy_trc (s : State) (f : Fld) (k : Nat) : (s.bumpBy f k).trc = s.trc := rfl
@[simp] theorem State.bumpBy_map (s : State) (f : Fld) (k : Nat) : (s.bumpBy f k).map = s.map := rfl
@[simp] theorem State.bumpBy_idn (s : State) (f : Fld) (k : Nat) : (s.bumpBy f k).idn = s.idn := rfl
@[simp] theorem State.bumpBy_chg (s : State) (f : Fld) (k : Nat) : (s.bumpBy f k).chg = s.chg := rfl
@[simp] theorem State.bumpBy_aux (s : State) (f : Fld) (k : Nat) : (s.bumpBy f k).aux = s.aux := rfl
@[simp] theorem State.bumpBy_shift (s : State) (f : Fld) (k : Nat) : (s.bumpBy f k).shift = s.shift := rfl
@[simp] theorem State.bumpBy_park (s : State) (f : Fld) (k : Nat) : (s.bumpBy f k).park = s.park := rfl
@[simp] theorem State.bumpBy_thm (s : State) (f : Fld) (k : Nat) : (s.bumpBy f k).thm = s.thm := rfl
@[simp] theorem State.bumpBy_tlm (s : State) (f : Fld) (k : Nat) : (s.bumpBy f k).tlm = s.tlm := rfl
@[simp] theorem State.bumpBy_rdg (s : State) (f : Fld) (k : Nat) : (s.bumpBy f k).rdg = s.rdg := rfl
@[simp] theorem State.bumpBy_wit (s : State) (f : Fld) (k : Nat) : (s.bumpBy f k).wit = s.wit := rfl
@[simp] theorem State.bumpBy_free (s : State) (f : Fld) (k : Nat) : (s.bumpBy f k).free = s.free := rfl
@[simp] theorem State.bumpBy_pending (s : State) (f : Fld) (k : Nat) : (s.bumpBy f k).pending = s.pending := rfl

/-! ## bump -/

@[simp] theorem State.bump_now (s : State) (f : Fld) : (s.bump f).now = s.now := rfl
@[simp] theorem State.bump_shadow (s : State) (f : Fld) : (s.bump f).shadow = s.shadow := rfl
@[simp] theorem State.bump_com (s : State) (f : Fld) : (s.bump f).com = s.com := rfl
@[simp] theorem State.bump_pwr (s : State) (f : Fld) : (s.bump f).pwr = s.pwr := rfl
@[simp] theorem State.bump_log (s : State) (f : Fld) : (s.bump f).log = s.log := rfl
@[simp] theorem State.bump_slt (s : State) (f : Fld) : (s.bump f).slt = s.slt := rfl
@[simp] theorem State.bump_gate (s : State) (f : Fld) : (s.bump f).gate = s.gate := rfl
@[simp] theorem State.bump_bat (s : State) (f : Fld) : (s.bump f).bat = s.bat := rfl
@[simp] theorem State.bump_gz (s : State) (f : Fld) : (s.bump f).gz = s.gz := rfl
@[simp] theorem State.bump_le (s : State) (f : Fld) : (s.bump f).le = s.le := rfl
@[simp] theorem State.bump_swaps (s : State) (f : Fld) : (s.bump f).swaps = s.swaps := rfl
@[simp] theorem State.bump_trc (s : State) (f : Fld) : (s.bump f).trc = s.trc := rfl
@[simp] theorem State.bump_map (s : State) (f : Fld) : (s.bump f).map = s.map := rfl
@[simp] theorem State.bump_idn (s : State) (f : Fld) : (s.bump f).idn = s.idn := rfl
@[simp] theorem State.bump_chg (s : State) (f : Fld) : (s.bump f).chg = s.chg := rfl
@[simp] theorem State.bump_aux (s : State) (f : Fld) : (s.bump f).aux = s.aux := rfl
@[simp] theorem State.bump_shift (s : State) (f : Fld) : (s.bump f).shift = s.shift := rfl
@[simp] theorem State.bump_park (s : State) (f : Fld) : (s.bump f).park = s.park := rfl
@[simp] theorem State.bump_thm (s : State) (f : Fld) : (s.bump f).thm = s.thm := rfl
@[simp] theorem State.bump_tlm (s : State) (f : Fld) : (s.bump f).tlm = s.tlm := rfl
@[simp] theorem State.bump_rdg (s : State) (f : Fld) : (s.bump f).rdg = s.rdg := rfl
@[simp] theorem State.bump_wit (s : State) (f : Fld) : (s.bump f).wit = s.wit := rfl
@[simp] theorem State.bump_free (s : State) (f : Fld) : (s.bump f).free = s.free := rfl
@[simp] theorem State.bump_pending (s : State) (f : Fld) : (s.bump f).pending = s.pending := rfl

/-! ## toPower -/

@[simp] theorem State.toPower_now (s : State) (st reason : Nat) : (s.toPower st reason).now = s.now := rfl
@[simp] theorem State.toPower_shadow (s : State) (st reason : Nat) : (s.toPower st reason).shadow = s.shadow := rfl
@[simp] theorem State.toPower_incs (s : State) (st reason : Nat) : (s.toPower st reason).incs = s.incs := rfl
@[simp] theorem State.toPower_com (s : State) (st reason : Nat) : (s.toPower st reason).com = s.com := rfl
@[simp] theorem State.toPower_pwr (s : State) (st reason : Nat) : (s.toPower st reason).pwr = s.pwr := rfl
@[simp] theorem State.toPower_log (s : State) (st reason : Nat) : (s.toPower st reason).log = s.log := rfl
@[simp] theorem State.toPower_slt (s : State) (st reason : Nat) : (s.toPower st reason).slt = s.slt := rfl
@[simp] theorem State.toPower_gate (s : State) (st reason : Nat) : (s.toPower st reason).gate = s.gate := rfl
@[simp] theorem State.toPower_bat (s : State) (st reason : Nat) : (s.toPower st reason).bat = s.bat := rfl
@[simp] theorem State.toPower_gz (s : State) (st reason : Nat) : (s.toPower st reason).gz = s.gz := rfl
@[simp] theorem State.toPower_le (s : State) (st reason : Nat) : (s.toPower st reason).le = s.le := rfl
@[simp] theorem State.toPower_swaps (s : State) (st reason : Nat) : (s.toPower st reason).swaps = s.swaps := rfl
@[simp] theorem State.toPower_trc (s : State) (st reason : Nat) : (s.toPower st reason).trc = s.trc := rfl
@[simp] theorem State.toPower_map (s : State) (st reason : Nat) : (s.toPower st reason).map = s.map := rfl
@[simp] theorem State.toPower_idn (s : State) (st reason : Nat) : (s.toPower st reason).idn = s.idn := rfl
@[simp] theorem State.toPower_chg (s : State) (st reason : Nat) : (s.toPower st reason).chg = s.chg := rfl
@[simp] theorem State.toPower_aux (s : State) (st reason : Nat) : (s.toPower st reason).aux = s.aux := rfl
@[simp] theorem State.toPower_shift (s : State) (st reason : Nat) : (s.toPower st reason).shift = s.shift := rfl
@[simp] theorem State.toPower_park (s : State) (st reason : Nat) : (s.toPower st reason).park = s.park := rfl
@[simp] theorem State.toPower_thm (s : State) (st reason : Nat) : (s.toPower st reason).thm = s.thm := rfl
@[simp] theorem State.toPower_tlm (s : State) (st reason : Nat) : (s.toPower st reason).tlm = s.tlm := rfl
@[simp] theorem State.toPower_rdg (s : State) (st reason : Nat) : (s.toPower st reason).rdg = s.rdg := rfl
@[simp] theorem State.toPower_wit (s : State) (st reason : Nat) : (s.toPower st reason).wit = s.wit := rfl
@[simp] theorem State.toPower_free (s : State) (st reason : Nat) : (s.toPower st reason).free = s.free := rfl
@[simp] theorem State.toPower_pending (s : State) (st reason : Nat) : (s.toPower st reason).pending = s.pending := rfl

/-! ## setMode -/

@[simp] theorem State.setMode_now (s : State) (hb mode : Nat) : (s.setMode hb mode).now = s.now := rfl
@[simp] theorem State.setMode_shadow (s : State) (hb mode : Nat) : (s.setMode hb mode).shadow = s.shadow := rfl
@[simp] theorem State.setMode_incs (s : State) (hb mode : Nat) : (s.setMode hb mode).incs = s.incs := rfl
@[simp] theorem State.setMode_com (s : State) (hb mode : Nat) : (s.setMode hb mode).com = s.com := rfl
@[simp] theorem State.setMode_pwr (s : State) (hb mode : Nat) : (s.setMode hb mode).pwr = s.pwr := rfl
@[simp] theorem State.setMode_log (s : State) (hb mode : Nat) : (s.setMode hb mode).log = s.log := rfl
@[simp] theorem State.setMode_slt (s : State) (hb mode : Nat) : (s.setMode hb mode).slt = s.slt := rfl
@[simp] theorem State.setMode_gate (s : State) (hb mode : Nat) : (s.setMode hb mode).gate = s.gate := rfl
@[simp] theorem State.setMode_bat (s : State) (hb mode : Nat) : (s.setMode hb mode).bat = s.bat := rfl
@[simp] theorem State.setMode_gz (s : State) (hb mode : Nat) : (s.setMode hb mode).gz = s.gz := rfl
@[simp] theorem State.setMode_le (s : State) (hb mode : Nat) : (s.setMode hb mode).le = s.le := rfl
@[simp] theorem State.setMode_swaps (s : State) (hb mode : Nat) : (s.setMode hb mode).swaps = s.swaps := rfl
@[simp] theorem State.setMode_trc (s : State) (hb mode : Nat) : (s.setMode hb mode).trc = s.trc := rfl
@[simp] theorem State.setMode_map (s : State) (hb mode : Nat) : (s.setMode hb mode).map = s.map := rfl
@[simp] theorem State.setMode_idn (s : State) (hb mode : Nat) : (s.setMode hb mode).idn = s.idn := rfl
@[simp] theorem State.setMode_chg (s : State) (hb mode : Nat) : (s.setMode hb mode).chg = s.chg := rfl
@[simp] theorem State.setMode_aux (s : State) (hb mode : Nat) : (s.setMode hb mode).aux = s.aux := rfl
@[simp] theorem State.setMode_shift (s : State) (hb mode : Nat) : (s.setMode hb mode).shift = s.shift := rfl
@[simp] theorem State.setMode_park (s : State) (hb mode : Nat) : (s.setMode hb mode).park = s.park := rfl
@[simp] theorem State.setMode_thm (s : State) (hb mode : Nat) : (s.setMode hb mode).thm = s.thm := rfl
@[simp] theorem State.setMode_tlm (s : State) (hb mode : Nat) : (s.setMode hb mode).tlm = s.tlm := rfl
@[simp] theorem State.setMode_rdg (s : State) (hb mode : Nat) : (s.setMode hb mode).rdg = s.rdg := rfl
@[simp] theorem State.setMode_wit (s : State) (hb mode : Nat) : (s.setMode hb mode).wit = s.wit := rfl
@[simp] theorem State.setMode_free (s : State) (hb mode : Nat) : (s.setMode hb mode).free = s.free := rfl
@[simp] theorem State.setMode_pending (s : State) (hb mode : Nat) : (s.setMode hb mode).pending = s.pending := rfl

/-! ## advance -/

@[simp] theorem State.advance_now (s : State) (t : Nat) : (s.advance t).now = max s.now t := rfl
@[simp] theorem State.advance_regs (s : State) (t : Nat) : (s.advance t).regs = s.regs := rfl
@[simp] theorem State.advance_shadow (s : State) (t : Nat) : (s.advance t).shadow = s.shadow := rfl
@[simp] theorem State.advance_incs (s : State) (t : Nat) : (s.advance t).incs = s.incs := rfl
@[simp] theorem State.advance_com (s : State) (t : Nat) : (s.advance t).com = s.com := rfl
@[simp] theorem State.advance_pwr (s : State) (t : Nat) : (s.advance t).pwr = s.pwr := rfl
@[simp] theorem State.advance_log (s : State) (t : Nat) : (s.advance t).log = s.log := rfl
@[simp] theorem State.advance_slt (s : State) (t : Nat) : (s.advance t).slt = s.slt := rfl
@[simp] theorem State.advance_gate (s : State) (t : Nat) : (s.advance t).gate = s.gate := rfl
@[simp] theorem State.advance_bat (s : State) (t : Nat) : (s.advance t).bat = s.bat := rfl
@[simp] theorem State.advance_gz (s : State) (t : Nat) : (s.advance t).gz = s.gz := rfl
@[simp] theorem State.advance_le (s : State) (t : Nat) : (s.advance t).le = s.le := rfl
@[simp] theorem State.advance_swaps (s : State) (t : Nat) : (s.advance t).swaps = s.swaps := rfl
@[simp] theorem State.advance_trc (s : State) (t : Nat) : (s.advance t).trc = s.trc := rfl
@[simp] theorem State.advance_map (s : State) (t : Nat) : (s.advance t).map = s.map := rfl
@[simp] theorem State.advance_idn (s : State) (t : Nat) : (s.advance t).idn = s.idn := rfl
@[simp] theorem State.advance_chg (s : State) (t : Nat) : (s.advance t).chg = s.chg := rfl
@[simp] theorem State.advance_aux (s : State) (t : Nat) : (s.advance t).aux = s.aux := rfl
@[simp] theorem State.advance_shift (s : State) (t : Nat) : (s.advance t).shift = s.shift := rfl
@[simp] theorem State.advance_park (s : State) (t : Nat) : (s.advance t).park = s.park := rfl
@[simp] theorem State.advance_thm (s : State) (t : Nat) : (s.advance t).thm = s.thm := rfl
@[simp] theorem State.advance_tlm (s : State) (t : Nat) : (s.advance t).tlm = s.tlm := rfl
@[simp] theorem State.advance_rdg (s : State) (t : Nat) : (s.advance t).rdg = s.rdg := rfl
@[simp] theorem State.advance_wit (s : State) (t : Nat) : (s.advance t).wit = s.wit := rfl
@[simp] theorem State.advance_free (s : State) (t : Nat) : (s.advance t).free = s.free := rfl
@[simp] theorem State.advance_pending (s : State) (t : Nat) : (s.advance t).pending = s.pending := rfl
@[simp] theorem State.advance_getW (s : State) (t : Nat) (adr : Nat) : (s.advance t).getW adr = s.getW adr := rfl
@[simp] theorem State.advance_getF (s : State) (t : Nat) (fld : Fld) : (s.advance t).getF fld = s.getF fld := rfl

/-! ## draw -/

@[simp] theorem State.draw_now (s : State) : (s.draw.2).now = s.now := rfl
@[simp] theorem State.draw_regs (s : State) : (s.draw.2).regs = s.regs := rfl
@[simp] theorem State.draw_shadow (s : State) : (s.draw.2).shadow = s.shadow := rfl
@[simp] theorem State.draw_incs (s : State) : (s.draw.2).incs = s.incs := rfl
@[simp] theorem State.draw_com (s : State) : (s.draw.2).com = s.com := rfl
@[simp] theorem State.draw_pwr (s : State) : (s.draw.2).pwr = s.pwr := rfl
@[simp] theorem State.draw_log (s : State) : (s.draw.2).log = s.log := rfl
@[simp] theorem State.draw_slt (s : State) : (s.draw.2).slt = s.slt := rfl
@[simp] theorem State.draw_gate (s : State) : (s.draw.2).gate = s.gate := rfl
@[simp] theorem State.draw_bat (s : State) : (s.draw.2).bat = s.bat := rfl
@[simp] theorem State.draw_gz (s : State) : (s.draw.2).gz = s.gz := rfl
@[simp] theorem State.draw_le (s : State) : (s.draw.2).le = s.le := rfl
@[simp] theorem State.draw_swaps (s : State) : (s.draw.2).swaps = s.swaps := rfl
@[simp] theorem State.draw_trc (s : State) : (s.draw.2).trc = s.trc := rfl
@[simp] theorem State.draw_map (s : State) : (s.draw.2).map = s.map := rfl
@[simp] theorem State.draw_idn (s : State) : (s.draw.2).idn = s.idn := rfl
@[simp] theorem State.draw_chg (s : State) : (s.draw.2).chg = s.chg := rfl
@[simp] theorem State.draw_aux (s : State) : (s.draw.2).aux = s.aux := rfl
@[simp] theorem State.draw_shift (s : State) : (s.draw.2).shift = s.shift := rfl
@[simp] theorem State.draw_park (s : State) : (s.draw.2).park = s.park := rfl
@[simp] theorem State.draw_thm (s : State) : (s.draw.2).thm = s.thm := rfl
@[simp] theorem State.draw_tlm (s : State) : (s.draw.2).tlm = s.tlm := rfl
@[simp] theorem State.draw_rdg (s : State) : (s.draw.2).rdg = s.rdg := rfl
@[simp] theorem State.draw_wit (s : State) : (s.draw.2).wit = s.wit := rfl
@[simp] theorem State.draw_free (s : State) : (s.draw.2).free = s.free + 1 := rfl
@[simp] theorem State.draw_pending (s : State) : (s.draw.2).pending = s.pending := rfl
@[simp] theorem State.draw_getW (s : State) (adr : Nat) : (s.draw.2).getW adr = s.getW adr := rfl
@[simp] theorem State.draw_getF (s : State) (fld : Fld) : (s.draw.2).getF fld = s.getF fld := rfl

/-! ## setEng -/

@[simp] theorem State.setEng_now (s : State) (e : Nat) (x : Engine) : (s.setEng e x).now = s.now := rfl
@[simp] theorem State.setEng_regs (s : State) (e : Nat) (x : Engine) : (s.setEng e x).regs = s.regs := rfl
@[simp] theorem State.setEng_shadow (s : State) (e : Nat) (x : Engine) : (s.setEng e x).shadow = s.shadow := rfl
@[simp] theorem State.setEng_incs (s : State) (e : Nat) (x : Engine) : (s.setEng e x).incs = s.incs := rfl
@[simp] theorem State.setEng_com (s : State) (e : Nat) (x : Engine) : (s.setEng e x).com = s.com := rfl
@[simp] theorem State.setEng_pwr (s : State) (e : Nat) (x : Engine) : (s.setEng e x).pwr = s.pwr := rfl
@[simp] theorem State.setEng_log (s : State) (e : Nat) (x : Engine) : (s.setEng e x).log = s.log := rfl
@[simp] theorem State.setEng_slt (s : State) (e : Nat) (x : Engine) : (s.setEng e x).slt = s.slt := rfl
@[simp] theorem State.setEng_gate (s : State) (e : Nat) (x : Engine) : (s.setEng e x).gate = s.gate := rfl
@[simp] theorem State.setEng_bat (s : State) (e : Nat) (x : Engine) : (s.setEng e x).bat = s.bat := rfl
@[simp] theorem State.setEng_gz (s : State) (e : Nat) (x : Engine) : (s.setEng e x).gz = s.gz := rfl
@[simp] theorem State.setEng_le (s : State) (e : Nat) (x : Engine) : (s.setEng e x).le = vset s.le e x := rfl
@[simp] theorem State.setEng_swaps (s : State) (e : Nat) (x : Engine) : (s.setEng e x).swaps = s.swaps := rfl
@[simp] theorem State.setEng_trc (s : State) (e : Nat) (x : Engine) : (s.setEng e x).trc = s.trc := rfl
@[simp] theorem State.setEng_map (s : State) (e : Nat) (x : Engine) : (s.setEng e x).map = s.map := rfl
@[simp] theorem State.setEng_idn (s : State) (e : Nat) (x : Engine) : (s.setEng e x).idn = s.idn := rfl
@[simp] theorem State.setEng_chg (s : State) (e : Nat) (x : Engine) : (s.setEng e x).chg = s.chg := rfl
@[simp] theorem State.setEng_aux (s : State) (e : Nat) (x : Engine) : (s.setEng e x).aux = s.aux := rfl
@[simp] theorem State.setEng_shift (s : State) (e : Nat) (x : Engine) : (s.setEng e x).shift = s.shift := rfl
@[simp] theorem State.setEng_park (s : State) (e : Nat) (x : Engine) : (s.setEng e x).park = s.park := rfl
@[simp] theorem State.setEng_thm (s : State) (e : Nat) (x : Engine) : (s.setEng e x).thm = s.thm := rfl
@[simp] theorem State.setEng_tlm (s : State) (e : Nat) (x : Engine) : (s.setEng e x).tlm = s.tlm := rfl
@[simp] theorem State.setEng_rdg (s : State) (e : Nat) (x : Engine) : (s.setEng e x).rdg = s.rdg := rfl
@[simp] theorem State.setEng_wit (s : State) (e : Nat) (x : Engine) : (s.setEng e x).wit = s.wit := rfl
@[simp] theorem State.setEng_free (s : State) (e : Nat) (x : Engine) : (s.setEng e x).free = s.free := rfl
@[simp] theorem State.setEng_pending (s : State) (e : Nat) (x : Engine) : (s.setEng e x).pending = s.pending := rfl
@[simp] theorem State.setEng_getW (s : State) (e : Nat) (x : Engine) (adr : Nat) : (s.setEng e x).getW adr = s.getW adr := rfl
@[simp] theorem State.setEng_getF (s : State) (e : Nat) (x : Engine) (fld : Fld) : (s.setEng e x).getF fld = s.getF fld := rfl

/-! ## setGzCh -/

@[simp] theorem State.setGzCh_now (s : State) (n : Nat) (c : GzCh) : (s.setGzCh n c).now = s.now := rfl
@[simp] theorem State.setGzCh_regs (s : State) (n : Nat) (c : GzCh) : (s.setGzCh n c).regs = s.regs := rfl
@[simp] theorem State.setGzCh_shadow (s : State) (n : Nat) (c : GzCh) : (s.setGzCh n c).shadow = s.shadow := rfl
@[simp] theorem State.setGzCh_incs (s : State) (n : Nat) (c : GzCh) : (s.setGzCh n c).incs = s.incs := rfl
@[simp] theorem State.setGzCh_com (s : State) (n : Nat) (c : GzCh) : (s.setGzCh n c).com = s.com := rfl
@[simp] theorem State.setGzCh_pwr (s : State) (n : Nat) (c : GzCh) : (s.setGzCh n c).pwr = s.pwr := rfl
@[simp] theorem State.setGzCh_log (s : State) (n : Nat) (c : GzCh) : (s.setGzCh n c).log = s.log := rfl
@[simp] theorem State.setGzCh_slt (s : State) (n : Nat) (c : GzCh) : (s.setGzCh n c).slt = s.slt := rfl
@[simp] theorem State.setGzCh_gate (s : State) (n : Nat) (c : GzCh) : (s.setGzCh n c).gate = s.gate := rfl
@[simp] theorem State.setGzCh_bat (s : State) (n : Nat) (c : GzCh) : (s.setGzCh n c).bat = s.bat := rfl
@[simp] theorem State.setGzCh_gz (s : State) (n : Nat) (c : GzCh) : (s.setGzCh n c).gz = { s.gz with chans := vset s.gz.chans n c } := rfl
@[simp] theorem State.setGzCh_le (s : State) (n : Nat) (c : GzCh) : (s.setGzCh n c).le = s.le := rfl
@[simp] theorem State.setGzCh_swaps (s : State) (n : Nat) (c : GzCh) : (s.setGzCh n c).swaps = s.swaps := rfl
@[simp] theorem State.setGzCh_trc (s : State) (n : Nat) (c : GzCh) : (s.setGzCh n c).trc = s.trc := rfl
@[simp] theorem State.setGzCh_map (s : State) (n : Nat) (c : GzCh) : (s.setGzCh n c).map = s.map := rfl
@[simp] theorem State.setGzCh_idn (s : State) (n : Nat) (c : GzCh) : (s.setGzCh n c).idn = s.idn := rfl
@[simp] theorem State.setGzCh_chg (s : State) (n : Nat) (c : GzCh) : (s.setGzCh n c).chg = s.chg := rfl
@[simp] theorem State.setGzCh_aux (s : State) (n : Nat) (c : GzCh) : (s.setGzCh n c).aux = s.aux := rfl
@[simp] theorem State.setGzCh_shift (s : State) (n : Nat) (c : GzCh) : (s.setGzCh n c).shift = s.shift := rfl
@[simp] theorem State.setGzCh_park (s : State) (n : Nat) (c : GzCh) : (s.setGzCh n c).park = s.park := rfl
@[simp] theorem State.setGzCh_thm (s : State) (n : Nat) (c : GzCh) : (s.setGzCh n c).thm = s.thm := rfl
@[simp] theorem State.setGzCh_tlm (s : State) (n : Nat) (c : GzCh) : (s.setGzCh n c).tlm = s.tlm := rfl
@[simp] theorem State.setGzCh_rdg (s : State) (n : Nat) (c : GzCh) : (s.setGzCh n c).rdg = s.rdg := rfl
@[simp] theorem State.setGzCh_wit (s : State) (n : Nat) (c : GzCh) : (s.setGzCh n c).wit = s.wit := rfl
@[simp] theorem State.setGzCh_free (s : State) (n : Nat) (c : GzCh) : (s.setGzCh n c).free = s.free := rfl
@[simp] theorem State.setGzCh_pending (s : State) (n : Nat) (c : GzCh) : (s.setGzCh n c).pending = s.pending := rfl
@[simp] theorem State.setGzCh_getW (s : State) (n : Nat) (c : GzCh) (adr : Nat) : (s.setGzCh n c).getW adr = s.getW adr := rfl
@[simp] theorem State.setGzCh_getF (s : State) (n : Nat) (c : GzCh) (fld : Fld) : (s.setGzCh n c).getF fld = s.getF fld := rfl

/-! ## setSched -/

@[simp] theorem State.setSched_now (s : State) (ch : Nat) (on : Bool) (rel : Nat) : (s.setSched ch on rel).now = s.now := rfl
@[simp] theorem State.setSched_regs (s : State) (ch : Nat) (on : Bool) (rel : Nat) : (s.setSched ch on rel).regs = s.regs := rfl
@[simp] theorem State.setSched_shadow (s : State) (ch : Nat) (on : Bool) (rel : Nat) : (s.setSched ch on rel).shadow = s.shadow := rfl
@[simp] theorem State.setSched_incs (s : State) (ch : Nat) (on : Bool) (rel : Nat) : (s.setSched ch on rel).incs = s.incs := rfl
@[simp] theorem State.setSched_com (s : State) (ch : Nat) (on : Bool) (rel : Nat) : (s.setSched ch on rel).com = s.com := rfl
@[simp] theorem State.setSched_pwr (s : State) (ch : Nat) (on : Bool) (rel : Nat) : (s.setSched ch on rel).pwr = s.pwr := rfl
@[simp] theorem State.setSched_log (s : State) (ch : Nat) (on : Bool) (rel : Nat) : (s.setSched ch on rel).log = s.log := rfl
@[simp] theorem State.setSched_slt (s : State) (ch : Nat) (on : Bool) (rel : Nat) : (s.setSched ch on rel).slt = s.slt := rfl
@[simp] theorem State.setSched_bat (s : State) (ch : Nat) (on : Bool) (rel : Nat) : (s.setSched ch on rel).bat = s.bat := rfl
@[simp] theorem State.setSched_gz (s : State) (ch : Nat) (on : Bool) (rel : Nat) : (s.setSched ch on rel).gz = s.gz := rfl
@[simp] theorem State.setSched_le (s : State) (ch : Nat) (on : Bool) (rel : Nat) : (s.setSched ch on rel).le = s.le := rfl
@[simp] theorem State.setSched_swaps (s : State) (ch : Nat) (on : Bool) (rel : Nat) : (s.setSched ch on rel).swaps = s.swaps := rfl
@[simp] theorem State.setSched_trc (s : State) (ch : Nat) (on : Bool) (rel : Nat) : (s.setSched ch on rel).trc = s.trc := rfl
@[simp] theorem State.setSched_map (s : State) (ch : Nat) (on : Bool) (rel : Nat) : (s.setSched ch on rel).map = s.map := rfl
@[simp] theorem State.setSched_idn (s : State) (ch : Nat) (on : Bool) (rel : Nat) : (s.setSched ch on rel).idn = s.idn := rfl
@[simp] theorem State.setSched_chg (s : State) (ch : Nat) (on : Bool) (rel : Nat) : (s.setSched ch on rel).chg = s.chg := rfl
@[simp] theorem State.setSched_aux (s : State) (ch : Nat) (on : Bool) (rel : Nat) : (s.setSched ch on rel).aux = s.aux := rfl
@[simp] theorem State.setSched_shift (s : State) (ch : Nat) (on : Bool) (rel : Nat) : (s.setSched ch on rel).shift = s.shift := rfl
@[simp] theorem State.setSched_park (s : State) (ch : Nat) (on : Bool) (rel : Nat) : (s.setSched ch on rel).park = s.park := rfl
@[simp] theorem State.setSched_thm (s : State) (ch : Nat) (on : Bool) (rel : Nat) : (s.setSched ch on rel).thm = s.thm := rfl
@[simp] theorem State.setSched_tlm (s : State) (ch : Nat) (on : Bool) (rel : Nat) : (s.setSched ch on rel).tlm = s.tlm := rfl
@[simp] theorem State.setSched_rdg (s : State) (ch : Nat) (on : Bool) (rel : Nat) : (s.setSched ch on rel).rdg = s.rdg := rfl
@[simp] theorem State.setSched_wit (s : State) (ch : Nat) (on : Bool) (rel : Nat) : (s.setSched ch on rel).wit = s.wit := rfl
@[simp] theorem State.setSched_free (s : State) (ch : Nat) (on : Bool) (rel : Nat) : (s.setSched ch on rel).free = s.free := rfl
@[simp] theorem State.setSched_pending (s : State) (ch : Nat) (on : Bool) (rel : Nat) : (s.setSched ch on rel).pending = s.pending := rfl
@[simp] theorem State.setSched_getW (s : State) (ch : Nat) (on : Bool) (rel : Nat) (adr : Nat) : (s.setSched ch on rel).getW adr = s.getW adr := rfl
@[simp] theorem State.setSched_getF (s : State) (ch : Nat) (on : Bool) (rel : Nat) (fld : Fld) : (s.setSched ch on rel).getF fld = s.getF fld := rfl

/-! ## seeDrven -/

@[simp] theorem State.seeDrven_now (s : State) (b : Bool) : (s.seeDrven b).now = s.now := rfl
@[simp] theorem State.seeDrven_shadow (s : State) (b : Bool) : (s.seeDrven b).shadow = s.shadow := rfl
@[simp] theorem State.seeDrven_incs (s : State) (b : Bool) : (s.seeDrven b).incs = s.incs := rfl
@[simp] theorem State.seeDrven_com (s : State) (b : Bool) : (s.seeDrven b).com = s.com := rfl
@[simp] theorem State.seeDrven_pwr (s : State) (b : Bool) : (s.seeDrven b).pwr = s.pwr := rfl
@[simp] theorem State.seeDrven_log (s : State) (b : Bool) : (s.seeDrven b).log = s.log := rfl
@[simp] theorem State.seeDrven_slt (s : State) (b : Bool) : (s.seeDrven b).slt = s.slt := rfl
@[simp] theorem State.seeDrven_gate (s : State) (b : Bool) : (s.seeDrven b).gate = { s.gate with levels := { s.gate.levels with drven := b } } := rfl
@[simp] theorem State.seeDrven_bat (s : State) (b : Bool) : (s.seeDrven b).bat = s.bat := rfl
@[simp] theorem State.seeDrven_gz (s : State) (b : Bool) : (s.seeDrven b).gz = s.gz := rfl
@[simp] theorem State.seeDrven_le (s : State) (b : Bool) : (s.seeDrven b).le = s.le := rfl
@[simp] theorem State.seeDrven_swaps (s : State) (b : Bool) : (s.seeDrven b).swaps = s.swaps := rfl
@[simp] theorem State.seeDrven_trc (s : State) (b : Bool) : (s.seeDrven b).trc = s.trc := rfl
@[simp] theorem State.seeDrven_map (s : State) (b : Bool) : (s.seeDrven b).map = s.map := rfl
@[simp] theorem State.seeDrven_idn (s : State) (b : Bool) : (s.seeDrven b).idn = s.idn := rfl
@[simp] theorem State.seeDrven_chg (s : State) (b : Bool) : (s.seeDrven b).chg = s.chg := rfl
@[simp] theorem State.seeDrven_aux (s : State) (b : Bool) : (s.seeDrven b).aux = s.aux := rfl
@[simp] theorem State.seeDrven_shift (s : State) (b : Bool) : (s.seeDrven b).shift = s.shift := rfl
@[simp] theorem State.seeDrven_park (s : State) (b : Bool) : (s.seeDrven b).park = s.park := rfl
@[simp] theorem State.seeDrven_thm (s : State) (b : Bool) : (s.seeDrven b).thm = s.thm := rfl
@[simp] theorem State.seeDrven_tlm (s : State) (b : Bool) : (s.seeDrven b).tlm = s.tlm := rfl
@[simp] theorem State.seeDrven_rdg (s : State) (b : Bool) : (s.seeDrven b).rdg = s.rdg := rfl
@[simp] theorem State.seeDrven_wit (s : State) (b : Bool) : (s.seeDrven b).wit = s.wit := rfl
@[simp] theorem State.seeDrven_free (s : State) (b : Bool) : (s.seeDrven b).free = s.free := rfl
@[simp] theorem State.seeDrven_pending (s : State) (b : Bool) : (s.seeDrven b).pending = s.pending := rfl

/-! ## seeTrip -/

@[simp] theorem State.seeTrip_now (s : State) (n : Nat) (b : Bool) : (s.seeTrip n b).now = s.now := rfl
@[simp] theorem State.seeTrip_shadow (s : State) (n : Nat) (b : Bool) : (s.seeTrip n b).shadow = s.shadow := rfl
@[simp] theorem State.seeTrip_incs (s : State) (n : Nat) (b : Bool) : (s.seeTrip n b).incs = s.incs := rfl
@[simp] theorem State.seeTrip_com (s : State) (n : Nat) (b : Bool) : (s.seeTrip n b).com = s.com := rfl
@[simp] theorem State.seeTrip_pwr (s : State) (n : Nat) (b : Bool) : (s.seeTrip n b).pwr = s.pwr := rfl
@[simp] theorem State.seeTrip_log (s : State) (n : Nat) (b : Bool) : (s.seeTrip n b).log = s.log := rfl
@[simp] theorem State.seeTrip_slt (s : State) (n : Nat) (b : Bool) : (s.seeTrip n b).slt = s.slt := rfl
@[simp] theorem State.seeTrip_bat (s : State) (n : Nat) (b : Bool) : (s.seeTrip n b).bat = s.bat := rfl
@[simp] theorem State.seeTrip_gz (s : State) (n : Nat) (b : Bool) : (s.seeTrip n b).gz = s.gz := rfl
@[simp] theorem State.seeTrip_le (s : State) (n : Nat) (b : Bool) : (s.seeTrip n b).le = s.le := rfl
@[simp] theorem State.seeTrip_swaps (s : State) (n : Nat) (b : Bool) : (s.seeTrip n b).swaps = s.swaps := rfl
@[simp] theorem State.seeTrip_trc (s : State) (n : Nat) (b : Bool) : (s.seeTrip n b).trc = s.trc := rfl
@[simp] theorem State.seeTrip_map (s : State) (n : Nat) (b : Bool) : (s.seeTrip n b).map = s.map := rfl
@[simp] theorem State.seeTrip_idn (s : State) (n : Nat) (b : Bool) : (s.seeTrip n b).idn = s.idn := rfl
@[simp] theorem State.seeTrip_chg (s : State) (n : Nat) (b : Bool) : (s.seeTrip n b).chg = s.chg := rfl
@[simp] theorem State.seeTrip_aux (s : State) (n : Nat) (b : Bool) : (s.seeTrip n b).aux = s.aux := rfl
@[simp] theorem State.seeTrip_shift (s : State) (n : Nat) (b : Bool) : (s.seeTrip n b).shift = s.shift := rfl
@[simp] theorem State.seeTrip_park (s : State) (n : Nat) (b : Bool) : (s.seeTrip n b).park = s.park := rfl
@[simp] theorem State.seeTrip_thm (s : State) (n : Nat) (b : Bool) : (s.seeTrip n b).thm = s.thm := rfl
@[simp] theorem State.seeTrip_tlm (s : State) (n : Nat) (b : Bool) : (s.seeTrip n b).tlm = s.tlm := rfl
@[simp] theorem State.seeTrip_rdg (s : State) (n : Nat) (b : Bool) : (s.seeTrip n b).rdg = s.rdg := rfl
@[simp] theorem State.seeTrip_wit (s : State) (n : Nat) (b : Bool) : (s.seeTrip n b).wit = s.wit := rfl
@[simp] theorem State.seeTrip_free (s : State) (n : Nat) (b : Bool) : (s.seeTrip n b).free = s.free := rfl
@[simp] theorem State.seeTrip_pending (s : State) (n : Nat) (b : Bool) : (s.seeTrip n b).pending = s.pending := rfl

/-! ## seeVdrv -/

@[simp] theorem State.seeVdrv_now (s : State) (b : Bool) : (s.seeVdrv b).now = s.now := rfl
@[simp] theorem State.seeVdrv_shadow (s : State) (b : Bool) : (s.seeVdrv b).shadow = s.shadow := rfl
@[simp] theorem State.seeVdrv_incs (s : State) (b : Bool) : (s.seeVdrv b).incs = s.incs := rfl
@[simp] theorem State.seeVdrv_com (s : State) (b : Bool) : (s.seeVdrv b).com = s.com := rfl
@[simp] theorem State.seeVdrv_pwr (s : State) (b : Bool) : (s.seeVdrv b).pwr = s.pwr := rfl
@[simp] theorem State.seeVdrv_log (s : State) (b : Bool) : (s.seeVdrv b).log = s.log := rfl
@[simp] theorem State.seeVdrv_slt (s : State) (b : Bool) : (s.seeVdrv b).slt = s.slt := rfl
@[simp] theorem State.seeVdrv_gate (s : State) (b : Bool) : (s.seeVdrv b).gate = { s.gate with levels := { s.gate.levels with vdrv := b } } := rfl
@[simp] theorem State.seeVdrv_bat (s : State) (b : Bool) : (s.seeVdrv b).bat = s.bat := rfl
@[simp] theorem State.seeVdrv_gz (s : State) (b : Bool) : (s.seeVdrv b).gz = s.gz := rfl
@[simp] theorem State.seeVdrv_le (s : State) (b : Bool) : (s.seeVdrv b).le = s.le := rfl
@[simp] theorem State.seeVdrv_swaps (s : State) (b : Bool) : (s.seeVdrv b).swaps = s.swaps := rfl
@[simp] theorem State.seeVdrv_trc (s : State) (b : Bool) : (s.seeVdrv b).trc = s.trc := rfl
@[simp] theorem State.seeVdrv_map (s : State) (b : Bool) : (s.seeVdrv b).map = s.map := rfl
@[simp] theorem State.seeVdrv_idn (s : State) (b : Bool) : (s.seeVdrv b).idn = s.idn := rfl
@[simp] theorem State.seeVdrv_chg (s : State) (b : Bool) : (s.seeVdrv b).chg = s.chg := rfl
@[simp] theorem State.seeVdrv_aux (s : State) (b : Bool) : (s.seeVdrv b).aux = s.aux := rfl
@[simp] theorem State.seeVdrv_shift (s : State) (b : Bool) : (s.seeVdrv b).shift = s.shift := rfl
@[simp] theorem State.seeVdrv_park (s : State) (b : Bool) : (s.seeVdrv b).park = s.park := rfl
@[simp] theorem State.seeVdrv_thm (s : State) (b : Bool) : (s.seeVdrv b).thm = s.thm := rfl
@[simp] theorem State.seeVdrv_tlm (s : State) (b : Bool) : (s.seeVdrv b).tlm = s.tlm := rfl
@[simp] theorem State.seeVdrv_rdg (s : State) (b : Bool) : (s.seeVdrv b).rdg = s.rdg := rfl
@[simp] theorem State.seeVdrv_wit (s : State) (b : Bool) : (s.seeVdrv b).wit = s.wit := rfl
@[simp] theorem State.seeVdrv_free (s : State) (b : Bool) : (s.seeVdrv b).free = s.free := rfl
@[simp] theorem State.seeVdrv_pending (s : State) (b : Bool) : (s.seeVdrv b).pending = s.pending := rfl

/-! ## seeVp -/

@[simp] theorem State.seeVp_now (s : State) (n : Nat) (b : Bool) : (s.seeVp n b).now = s.now := rfl
@[simp] theorem State.seeVp_shadow (s : State) (n : Nat) (b : Bool) : (s.seeVp n b).shadow = s.shadow := rfl
@[simp] theorem State.seeVp_incs (s : State) (n : Nat) (b : Bool) : (s.seeVp n b).incs = s.incs := rfl
@[simp] theorem State.seeVp_com (s : State) (n : Nat) (b : Bool) : (s.seeVp n b).com = s.com := rfl
@[simp] theorem State.seeVp_pwr (s : State) (n : Nat) (b : Bool) : (s.seeVp n b).pwr = s.pwr := rfl
@[simp] theorem State.seeVp_log (s : State) (n : Nat) (b : Bool) : (s.seeVp n b).log = s.log := rfl
@[simp] theorem State.seeVp_slt (s : State) (n : Nat) (b : Bool) : (s.seeVp n b).slt = s.slt := rfl
@[simp] theorem State.seeVp_gate (s : State) (n : Nat) (b : Bool) : (s.seeVp n b).gate = { s.gate with levels := { s.gate.levels with vp := setBitN s.gate.levels.vp n b } } := rfl
@[simp] theorem State.seeVp_bat (s : State) (n : Nat) (b : Bool) : (s.seeVp n b).bat = s.bat := rfl
@[simp] theorem State.seeVp_gz (s : State) (n : Nat) (b : Bool) : (s.seeVp n b).gz = s.gz := rfl
@[simp] theorem State.seeVp_le (s : State) (n : Nat) (b : Bool) : (s.seeVp n b).le = s.le := rfl
@[simp] theorem State.seeVp_swaps (s : State) (n : Nat) (b : Bool) : (s.seeVp n b).swaps = s.swaps := rfl
@[simp] theorem State.seeVp_trc (s : State) (n : Nat) (b : Bool) : (s.seeVp n b).trc = s.trc := rfl
@[simp] theorem State.seeVp_map (s : State) (n : Nat) (b : Bool) : (s.seeVp n b).map = s.map := rfl
@[simp] theorem State.seeVp_idn (s : State) (n : Nat) (b : Bool) : (s.seeVp n b).idn = s.idn := rfl
@[simp] theorem State.seeVp_chg (s : State) (n : Nat) (b : Bool) : (s.seeVp n b).chg = s.chg := rfl
@[simp] theorem State.seeVp_aux (s : State) (n : Nat) (b : Bool) : (s.seeVp n b).aux = s.aux := rfl
@[simp] theorem State.seeVp_shift (s : State) (n : Nat) (b : Bool) : (s.seeVp n b).shift = s.shift := rfl
@[simp] theorem State.seeVp_park (s : State) (n : Nat) (b : Bool) : (s.seeVp n b).park = s.park := rfl
@[simp] theorem State.seeVp_thm (s : State) (n : Nat) (b : Bool) : (s.seeVp n b).thm = s.thm := rfl
@[simp] theorem State.seeVp_tlm (s : State) (n : Nat) (b : Bool) : (s.seeVp n b).tlm = s.tlm := rfl
@[simp] theorem State.seeVp_rdg (s : State) (n : Nat) (b : Bool) : (s.seeVp n b).rdg = s.rdg := rfl
@[simp] theorem State.seeVp_wit (s : State) (n : Nat) (b : Bool) : (s.seeVp n b).wit = s.wit := rfl
@[simp] theorem State.seeVp_free (s : State) (n : Nat) (b : Bool) : (s.seeVp n b).free = s.free := rfl
@[simp] theorem State.seeVp_pending (s : State) (n : Nat) (b : Bool) : (s.seeVp n b).pending = s.pending := rfl

/-! ## seeVn -/

@[simp] theorem State.seeVn_now (s : State) (n : Nat) (b : Bool) : (s.seeVn n b).now = s.now := rfl
@[simp] theorem State.seeVn_shadow (s : State) (n : Nat) (b : Bool) : (s.seeVn n b).shadow = s.shadow := rfl
@[simp] theorem State.seeVn_incs (s : State) (n : Nat) (b : Bool) : (s.seeVn n b).incs = s.incs := rfl
@[simp] theorem State.seeVn_com (s : State) (n : Nat) (b : Bool) : (s.seeVn n b).com = s.com := rfl
@[simp] theorem State.seeVn_pwr (s : State) (n : Nat) (b : Bool) : (s.seeVn n b).pwr = s.pwr := rfl
@[simp] theorem State.seeVn_log (s : State) (n : Nat) (b : Bool) : (s.seeVn n b).log = s.log := rfl
@[simp] theorem State.seeVn_slt (s : State) (n : Nat) (b : Bool) : (s.seeVn n b).slt = s.slt := rfl
@[simp] theorem State.seeVn_gate (s : State) (n : Nat) (b : Bool) : (s.seeVn n b).gate = { s.gate with levels := { s.gate.levels with vn := setBitN s.gate.levels.vn n b } } := rfl
@[simp] theorem State.seeVn_bat (s : State) (n : Nat) (b : Bool) : (s.seeVn n b).bat = s.bat := rfl
@[simp] theorem State.seeVn_gz (s : State) (n : Nat) (b : Bool) : (s.seeVn n b).gz = s.gz := rfl
@[simp] theorem State.seeVn_le (s : State) (n : Nat) (b : Bool) : (s.seeVn n b).le = s.le := rfl
@[simp] theorem State.seeVn_swaps (s : State) (n : Nat) (b : Bool) : (s.seeVn n b).swaps = s.swaps := rfl
@[simp] theorem State.seeVn_trc (s : State) (n : Nat) (b : Bool) : (s.seeVn n b).trc = s.trc := rfl
@[simp] theorem State.seeVn_map (s : State) (n : Nat) (b : Bool) : (s.seeVn n b).map = s.map := rfl
@[simp] theorem State.seeVn_idn (s : State) (n : Nat) (b : Bool) : (s.seeVn n b).idn = s.idn := rfl
@[simp] theorem State.seeVn_chg (s : State) (n : Nat) (b : Bool) : (s.seeVn n b).chg = s.chg := rfl
@[simp] theorem State.seeVn_aux (s : State) (n : Nat) (b : Bool) : (s.seeVn n b).aux = s.aux := rfl
@[simp] theorem State.seeVn_shift (s : State) (n : Nat) (b : Bool) : (s.seeVn n b).shift = s.shift := rfl
@[simp] theorem State.seeVn_park (s : State) (n : Nat) (b : Bool) : (s.seeVn n b).park = s.park := rfl
@[simp] theorem State.seeVn_thm (s : State) (n : Nat) (b : Bool) : (s.seeVn n b).thm = s.thm := rfl
@[simp] theorem State.seeVn_tlm (s : State) (n : Nat) (b : Bool) : (s.seeVn n b).tlm = s.tlm := rfl
@[simp] theorem State.seeVn_rdg (s : State) (n : Nat) (b : Bool) : (s.seeVn n b).rdg = s.rdg := rfl
@[simp] theorem State.seeVn_wit (s : State) (n : Nat) (b : Bool) : (s.seeVn n b).wit = s.wit := rfl
@[simp] theorem State.seeVn_free (s : State) (n : Nat) (b : Bool) : (s.seeVn n b).free = s.free := rfl
@[simp] theorem State.seeVn_pending (s : State) (n : Nat) (b : Bool) : (s.seeVn n b).pending = s.pending := rfl

/-! ## sendWitness -/

@[simp] theorem State.sendWitness_now (s : State) (ty : Nat) (pl : List Byte) : ((s.sendWitness ty pl).2).now = s.now := rfl
@[simp] theorem State.sendWitness_regs (s : State) (ty : Nat) (pl : List Byte) : ((s.sendWitness ty pl).2).regs = s.regs := rfl
@[simp] theorem State.sendWitness_shadow (s : State) (ty : Nat) (pl : List Byte) : ((s.sendWitness ty pl).2).shadow = s.shadow := rfl
@[simp] theorem State.sendWitness_incs (s : State) (ty : Nat) (pl : List Byte) : ((s.sendWitness ty pl).2).incs = s.incs := rfl
@[simp] theorem State.sendWitness_com (s : State) (ty : Nat) (pl : List Byte) : ((s.sendWitness ty pl).2).com = s.com := rfl
@[simp] theorem State.sendWitness_pwr (s : State) (ty : Nat) (pl : List Byte) : ((s.sendWitness ty pl).2).pwr = s.pwr := rfl
@[simp] theorem State.sendWitness_log (s : State) (ty : Nat) (pl : List Byte) : ((s.sendWitness ty pl).2).log = s.log := rfl
@[simp] theorem State.sendWitness_slt (s : State) (ty : Nat) (pl : List Byte) : ((s.sendWitness ty pl).2).slt = s.slt := rfl
@[simp] theorem State.sendWitness_gate (s : State) (ty : Nat) (pl : List Byte) : ((s.sendWitness ty pl).2).gate = s.gate := rfl
@[simp] theorem State.sendWitness_bat (s : State) (ty : Nat) (pl : List Byte) : ((s.sendWitness ty pl).2).bat = s.bat := rfl
@[simp] theorem State.sendWitness_gz (s : State) (ty : Nat) (pl : List Byte) : ((s.sendWitness ty pl).2).gz = s.gz := rfl
@[simp] theorem State.sendWitness_le (s : State) (ty : Nat) (pl : List Byte) : ((s.sendWitness ty pl).2).le = s.le := rfl
@[simp] theorem State.sendWitness_swaps (s : State) (ty : Nat) (pl : List Byte) : ((s.sendWitness ty pl).2).swaps = s.swaps := rfl
@[simp] theorem State.sendWitness_trc (s : State) (ty : Nat) (pl : List Byte) : ((s.sendWitness ty pl).2).trc = s.trc := rfl
@[simp] theorem State.sendWitness_map (s : State) (ty : Nat) (pl : List Byte) : ((s.sendWitness ty pl).2).map = s.map := rfl
@[simp] theorem State.sendWitness_idn (s : State) (ty : Nat) (pl : List Byte) : ((s.sendWitness ty pl).2).idn = s.idn := rfl
@[simp] theorem State.sendWitness_chg (s : State) (ty : Nat) (pl : List Byte) : ((s.sendWitness ty pl).2).chg = s.chg := rfl
@[simp] theorem State.sendWitness_aux (s : State) (ty : Nat) (pl : List Byte) : ((s.sendWitness ty pl).2).aux = s.aux := rfl
@[simp] theorem State.sendWitness_shift (s : State) (ty : Nat) (pl : List Byte) : ((s.sendWitness ty pl).2).shift = s.shift := rfl
@[simp] theorem State.sendWitness_park (s : State) (ty : Nat) (pl : List Byte) : ((s.sendWitness ty pl).2).park = s.park := rfl
@[simp] theorem State.sendWitness_thm (s : State) (ty : Nat) (pl : List Byte) : ((s.sendWitness ty pl).2).thm = s.thm := rfl
@[simp] theorem State.sendWitness_tlm (s : State) (ty : Nat) (pl : List Byte) : ((s.sendWitness ty pl).2).tlm = s.tlm := rfl
@[simp] theorem State.sendWitness_rdg (s : State) (ty : Nat) (pl : List Byte) : ((s.sendWitness ty pl).2).rdg = s.rdg := rfl
@[simp] theorem State.sendWitness_free (s : State) (ty : Nat) (pl : List Byte) : ((s.sendWitness ty pl).2).free = s.free := rfl
@[simp] theorem State.sendWitness_pending (s : State) (ty : Nat) (pl : List Byte) : ((s.sendWitness ty pl).2).pending = s.pending := rfl
@[simp] theorem State.sendWitness_getW (s : State) (ty : Nat) (pl : List Byte) (adr : Nat) : ((s.sendWitness ty pl).2).getW adr = s.getW adr := rfl
@[simp] theorem State.sendWitness_getF (s : State) (ty : Nat) (pl : List Byte) (fld : Fld) : ((s.sendWitness ty pl).2).getF fld = s.getF fld := rfl

/-! ## setNtc -/

@[simp] theorem State.setNtc_now (s : State) (j : Nat) (n : Ntc) : (s.setNtc j n).now = s.now := rfl
@[simp] theorem State.setNtc_regs (s : State) (j : Nat) (n : Ntc) : (s.setNtc j n).regs = s.regs := rfl
@[simp] theorem State.setNtc_shadow (s : State) (j : Nat) (n : Ntc) : (s.setNtc j n).shadow = s.shadow := rfl
@[simp] theorem State.setNtc_incs (s : State) (j : Nat) (n : Ntc) : (s.setNtc j n).incs = s.incs := rfl
@[simp] theorem State.setNtc_com (s : State) (j : Nat) (n : Ntc) : (s.setNtc j n).com = s.com := rfl
@[simp] theorem State.setNtc_pwr (s : State) (j : Nat) (n : Ntc) : (s.setNtc j n).pwr = s.pwr := rfl
@[simp] theorem State.setNtc_log (s : State) (j : Nat) (n : Ntc) : (s.setNtc j n).log = s.log := rfl
@[simp] theorem State.setNtc_slt (s : State) (j : Nat) (n : Ntc) : (s.setNtc j n).slt = s.slt := rfl
@[simp] theorem State.setNtc_gate (s : State) (j : Nat) (n : Ntc) : (s.setNtc j n).gate = s.gate := rfl
@[simp] theorem State.setNtc_bat (s : State) (j : Nat) (n : Ntc) : (s.setNtc j n).bat = s.bat := rfl
@[simp] theorem State.setNtc_gz (s : State) (j : Nat) (n : Ntc) : (s.setNtc j n).gz = s.gz := rfl
@[simp] theorem State.setNtc_le (s : State) (j : Nat) (n : Ntc) : (s.setNtc j n).le = s.le := rfl
@[simp] theorem State.setNtc_swaps (s : State) (j : Nat) (n : Ntc) : (s.setNtc j n).swaps = s.swaps := rfl
@[simp] theorem State.setNtc_trc (s : State) (j : Nat) (n : Ntc) : (s.setNtc j n).trc = s.trc := rfl
@[simp] theorem State.setNtc_map (s : State) (j : Nat) (n : Ntc) : (s.setNtc j n).map = s.map := rfl
@[simp] theorem State.setNtc_idn (s : State) (j : Nat) (n : Ntc) : (s.setNtc j n).idn = s.idn := rfl
@[simp] theorem State.setNtc_chg (s : State) (j : Nat) (n : Ntc) : (s.setNtc j n).chg = s.chg := rfl
@[simp] theorem State.setNtc_aux (s : State) (j : Nat) (n : Ntc) : (s.setNtc j n).aux = s.aux := rfl
@[simp] theorem State.setNtc_shift (s : State) (j : Nat) (n : Ntc) : (s.setNtc j n).shift = s.shift := rfl
@[simp] theorem State.setNtc_park (s : State) (j : Nat) (n : Ntc) : (s.setNtc j n).park = s.park := rfl
@[simp] theorem State.setNtc_thm (s : State) (j : Nat) (n : Ntc) : (s.setNtc j n).thm = { s.thm with ntc := vset s.thm.ntc j n } := rfl
@[simp] theorem State.setNtc_tlm (s : State) (j : Nat) (n : Ntc) : (s.setNtc j n).tlm = s.tlm := rfl
@[simp] theorem State.setNtc_rdg (s : State) (j : Nat) (n : Ntc) : (s.setNtc j n).rdg = s.rdg := rfl
@[simp] theorem State.setNtc_wit (s : State) (j : Nat) (n : Ntc) : (s.setNtc j n).wit = s.wit := rfl
@[simp] theorem State.setNtc_free (s : State) (j : Nat) (n : Ntc) : (s.setNtc j n).free = s.free := rfl
@[simp] theorem State.setNtc_pending (s : State) (j : Nat) (n : Ntc) : (s.setNtc j n).pending = s.pending := rfl
@[simp] theorem State.setNtc_getW (s : State) (j : Nat) (n : Ntc) (adr : Nat) : (s.setNtc j n).getW adr = s.getW adr := rfl
@[simp] theorem State.setNtc_getF (s : State) (j : Nat) (n : Ntc) (fld : Fld) : (s.setNtc j n).getF fld = s.getF fld := rfl

/-! ## setR -/

@[simp] theorem State.setR_now (s : State) (r : Ridge) : (s.setR r).now = s.now := rfl
@[simp] theorem State.setR_regs (s : State) (r : Ridge) : (s.setR r).regs = s.regs := rfl
@[simp] theorem State.setR_shadow (s : State) (r : Ridge) : (s.setR r).shadow = s.shadow := rfl
@[simp] theorem State.setR_incs (s : State) (r : Ridge) : (s.setR r).incs = s.incs := rfl
@[simp] theorem State.setR_com (s : State) (r : Ridge) : (s.setR r).com = s.com := rfl
@[simp] theorem State.setR_pwr (s : State) (r : Ridge) : (s.setR r).pwr = s.pwr := rfl
@[simp] theorem State.setR_log (s : State) (r : Ridge) : (s.setR r).log = s.log := rfl
@[simp] theorem State.setR_slt (s : State) (r : Ridge) : (s.setR r).slt = s.slt := rfl
@[simp] theorem State.setR_gate (s : State) (r : Ridge) : (s.setR r).gate = s.gate := rfl
@[simp] theorem State.setR_bat (s : State) (r : Ridge) : (s.setR r).bat = s.bat := rfl
@[simp] theorem State.setR_gz (s : State) (r : Ridge) : (s.setR r).gz = s.gz := rfl
@[simp] theorem State.setR_le (s : State) (r : Ridge) : (s.setR r).le = s.le := rfl
@[simp] theorem State.setR_swaps (s : State) (r : Ridge) : (s.setR r).swaps = s.swaps := rfl
@[simp] theorem State.setR_trc (s : State) (r : Ridge) : (s.setR r).trc = s.trc := rfl
@[simp] theorem State.setR_map (s : State) (r : Ridge) : (s.setR r).map = s.map := rfl
@[simp] theorem State.setR_idn (s : State) (r : Ridge) : (s.setR r).idn = s.idn := rfl
@[simp] theorem State.setR_chg (s : State) (r : Ridge) : (s.setR r).chg = s.chg := rfl
@[simp] theorem State.setR_aux (s : State) (r : Ridge) : (s.setR r).aux = s.aux := rfl
@[simp] theorem State.setR_shift (s : State) (r : Ridge) : (s.setR r).shift = s.shift := rfl
@[simp] theorem State.setR_park (s : State) (r : Ridge) : (s.setR r).park = s.park := rfl
@[simp] theorem State.setR_thm (s : State) (r : Ridge) : (s.setR r).thm = s.thm := rfl
@[simp] theorem State.setR_tlm (s : State) (r : Ridge) : (s.setR r).tlm = s.tlm := rfl
@[simp] theorem State.setR_rdg (s : State) (r : Ridge) : (s.setR r).rdg = r := rfl
@[simp] theorem State.setR_wit (s : State) (r : Ridge) : (s.setR r).wit = s.wit := rfl
@[simp] theorem State.setR_free (s : State) (r : Ridge) : (s.setR r).free = s.free := rfl
@[simp] theorem State.setR_pending (s : State) (r : Ridge) : (s.setR r).pending = s.pending := rfl
@[simp] theorem State.setR_getW (s : State) (r : Ridge) (adr : Nat) : (s.setR r).getW adr = s.getW adr := rfl
@[simp] theorem State.setR_getF (s : State) (r : Ridge) (fld : Fld) : (s.setR r).getF fld = s.getF fld := rfl

/-! ## setCar -/

@[simp] theorem State.setCar_now (s : State) (n : Nat) (c : Carrier) : (s.setCar n c).now = s.now := rfl
@[simp] theorem State.setCar_shadow (s : State) (n : Nat) (c : Carrier) : (s.setCar n c).shadow = s.shadow := rfl
@[simp] theorem State.setCar_incs (s : State) (n : Nat) (c : Carrier) : (s.setCar n c).incs = s.incs := rfl
@[simp] theorem State.setCar_com (s : State) (n : Nat) (c : Carrier) : (s.setCar n c).com = s.com := rfl
@[simp] theorem State.setCar_pwr (s : State) (n : Nat) (c : Carrier) : (s.setCar n c).pwr = s.pwr := rfl
@[simp] theorem State.setCar_log (s : State) (n : Nat) (c : Carrier) : (s.setCar n c).log = s.log := rfl
@[simp] theorem State.setCar_slt (s : State) (n : Nat) (c : Carrier) : (s.setCar n c).slt = s.slt := rfl
@[simp] theorem State.setCar_gate (s : State) (n : Nat) (c : Carrier) : (s.setCar n c).gate = s.gate := rfl
@[simp] theorem State.setCar_bat (s : State) (n : Nat) (c : Carrier) : (s.setCar n c).bat = { s.bat with cars := vset s.bat.cars n c } := rfl
@[simp] theorem State.setCar_gz (s : State) (n : Nat) (c : Carrier) : (s.setCar n c).gz = s.gz := rfl
@[simp] theorem State.setCar_le (s : State) (n : Nat) (c : Carrier) : (s.setCar n c).le = s.le := rfl
@[simp] theorem State.setCar_swaps (s : State) (n : Nat) (c : Carrier) : (s.setCar n c).swaps = s.swaps := rfl
@[simp] theorem State.setCar_trc (s : State) (n : Nat) (c : Carrier) : (s.setCar n c).trc = s.trc := rfl
@[simp] theorem State.setCar_map (s : State) (n : Nat) (c : Carrier) : (s.setCar n c).map = s.map := rfl
@[simp] theorem State.setCar_idn (s : State) (n : Nat) (c : Carrier) : (s.setCar n c).idn = s.idn := rfl
@[simp] theorem State.setCar_chg (s : State) (n : Nat) (c : Carrier) : (s.setCar n c).chg = s.chg := rfl
@[simp] theorem State.setCar_aux (s : State) (n : Nat) (c : Carrier) : (s.setCar n c).aux = s.aux := rfl
@[simp] theorem State.setCar_shift (s : State) (n : Nat) (c : Carrier) : (s.setCar n c).shift = s.shift := rfl
@[simp] theorem State.setCar_park (s : State) (n : Nat) (c : Carrier) : (s.setCar n c).park = s.park := rfl
@[simp] theorem State.setCar_thm (s : State) (n : Nat) (c : Carrier) : (s.setCar n c).thm = s.thm := rfl
@[simp] theorem State.setCar_tlm (s : State) (n : Nat) (c : Carrier) : (s.setCar n c).tlm = s.tlm := rfl
@[simp] theorem State.setCar_rdg (s : State) (n : Nat) (c : Carrier) : (s.setCar n c).rdg = s.rdg := rfl
@[simp] theorem State.setCar_wit (s : State) (n : Nat) (c : Carrier) : (s.setCar n c).wit = s.wit := rfl
@[simp] theorem State.setCar_free (s : State) (n : Nat) (c : Carrier) : (s.setCar n c).free = s.free := rfl
@[simp] theorem State.setCar_pending (s : State) (n : Nat) (c : Carrier) : (s.setCar n c).pending = s.pending := rfl

/-! ## setHb -/

@[simp] theorem State.setHb_now (s : State) (h : Nat) (x : HbState) : (s.setHb h x).now = s.now := rfl
@[simp] theorem State.setHb_shadow (s : State) (h : Nat) (x : HbState) : (s.setHb h x).shadow = s.shadow := rfl
@[simp] theorem State.setHb_incs (s : State) (h : Nat) (x : HbState) : (s.setHb h x).incs = s.incs := rfl
@[simp] theorem State.setHb_com (s : State) (h : Nat) (x : HbState) : (s.setHb h x).com = s.com := rfl
@[simp] theorem State.setHb_pwr (s : State) (h : Nat) (x : HbState) : (s.setHb h x).pwr = s.pwr := rfl
@[simp] theorem State.setHb_log (s : State) (h : Nat) (x : HbState) : (s.setHb h x).log = s.log := rfl
@[simp] theorem State.setHb_slt (s : State) (h : Nat) (x : HbState) : (s.setHb h x).slt = s.slt := rfl
@[simp] theorem State.setHb_gate (s : State) (h : Nat) (x : HbState) : (s.setHb h x).gate = s.gate := rfl
@[simp] theorem State.setHb_bat (s : State) (h : Nat) (x : HbState) : (s.setHb h x).bat = { s.bat with hbs := vset s.bat.hbs h x } := rfl
@[simp] theorem State.setHb_gz (s : State) (h : Nat) (x : HbState) : (s.setHb h x).gz = s.gz := rfl
@[simp] theorem State.setHb_le (s : State) (h : Nat) (x : HbState) : (s.setHb h x).le = s.le := rfl
@[simp] theorem State.setHb_swaps (s : State) (h : Nat) (x : HbState) : (s.setHb h x).swaps = s.swaps := rfl
@[simp] theorem State.setHb_trc (s : State) (h : Nat) (x : HbState) : (s.setHb h x).trc = s.trc := rfl
@[simp] theorem State.setHb_map (s : State) (h : Nat) (x : HbState) : (s.setHb h x).map = s.map := rfl
@[simp] theorem State.setHb_idn (s : State) (h : Nat) (x : HbState) : (s.setHb h x).idn = s.idn := rfl
@[simp] theorem State.setHb_chg (s : State) (h : Nat) (x : HbState) : (s.setHb h x).chg = s.chg := rfl
@[simp] theorem State.setHb_aux (s : State) (h : Nat) (x : HbState) : (s.setHb h x).aux = s.aux := rfl
@[simp] theorem State.setHb_shift (s : State) (h : Nat) (x : HbState) : (s.setHb h x).shift = s.shift := rfl
@[simp] theorem State.setHb_park (s : State) (h : Nat) (x : HbState) : (s.setHb h x).park = s.park := rfl
@[simp] theorem State.setHb_thm (s : State) (h : Nat) (x : HbState) : (s.setHb h x).thm = s.thm := rfl
@[simp] theorem State.setHb_tlm (s : State) (h : Nat) (x : HbState) : (s.setHb h x).tlm = s.tlm := rfl
@[simp] theorem State.setHb_rdg (s : State) (h : Nat) (x : HbState) : (s.setHb h x).rdg = s.rdg := rfl
@[simp] theorem State.setHb_wit (s : State) (h : Nat) (x : HbState) : (s.setHb h x).wit = s.wit := rfl
@[simp] theorem State.setHb_free (s : State) (h : Nat) (x : HbState) : (s.setHb h x).free = s.free := rfl
@[simp] theorem State.setHb_pending (s : State) (h : Nat) (x : HbState) : (s.setHb h x).pending = s.pending := rfl

end Sys2Proof.Machine
end

