-- ==== Sys2Proof/Machine/Pins.lean ====
section
/-! DEFINITION. The levels of the output lands that show the machine's state: FLT_N, INT_N, S2, CHGSTAT and PORTLAMP (R69, R80, R298, R310, R411). -/

namespace Sys2Proof.Machine

open Sys2Proof

/-- FLT_N is low in SAFE and while SP_LOST is set (R411). -/
def State.fltLow (s : State) : Bool := s.power == pSAFE || s.getB F.SLT_STAT_SP_LOST

/-- INT_N is low while an SPI reply is pending (R80). -/
def State.intLow (s : State) : Bool := !s.com.spiOut.isEmpty

/-- What an indicator land does: released, driven steadily, or driven in a pattern. -/
inductive Lamp
  | off | steady | hz05 | hz1 | hz2 | hz4 | double
  deriving DecidableEq, Repr

/-- CHGSTAT (Table 3.5, R69). -/
def State.chgStat (s : State) : Lamp :=
  let p := s.getF F.PWR_BKP_STAT_PHASE
  if s.power < 2 then .off
  else if p = 7 then .hz4
  else if p = 6 then .hz1
  else if 1 ≤ p ∧ p ≤ 3 then .steady
  else .off

/-- PORTLAMP (Table 11.10, R310). -/
def State.portLamp (s : State) : Lamp :=
  let c := s.cstate
  if s.power ≤ 2 then .off
  else if s.chg.faulted then .hz2
  else if c = 1 ∨ c = 2 ∨ c = 4 then .double
  else if c = 3 then (if s.getB F.CHG_STAT_EXPORT then .hz05 else .steady)
  else .off

end Sys2Proof.Machine
end

