-- ==== Sys2Proof/WellFormed.lean ====
section
/-! DEFINITION. Which commands are well formed: what a transport can deliver, and operand values that the spec admits (R77, R78, R222, R369). -/

namespace Sys2Proof

/-- A port of the CAN controllers. -/
def Port.isCan : Port → Bool
  | .can0 => true
  | .can1 => true
  | _ => false

/-- What a transport can deliver: CAN FD frames only on CAN, Ethernet addressing and tags only on 1000BASE-T1, at most 65,535 parameter bytes (Tables 4.1, 4.2). -/
def Req.wf (r : Req) : Bool :=
  (!r.fd || r.port.isCan) && (r.vlan.isNone || r.port == .eth) && (r.dest == .own || r.port == .eth) && decide (r.params.length ≤ 65535)

/-- A loss part: a share of a period, a conducting time that is not negative (R369). -/
def LossPart.wf (p : LossPart) : Bool := decide (0 ≤ p.share) && decide (p.share ≤ 1) && decide (0 ≤ p.ton)

/-- A grid measurement: effective values are not negative and in order (R301). -/
def GridMeas.wf (g : GridMeas) : Bool := decide (0 ≤ g.halfMin) && decide (0 ≤ g.rmsMin) && decide (g.rmsMin ≤ g.rmsMax) && decide (0 ≤ g.freq)

/-- Whether a command is well formed. -/
def Instr.wf (i : Instr) : Bool :=
  match i with
  | .ping r => r.wf
  | .getState r => r.wf
  | .setState r => r.wf
  | .getVersion r => r.wf
  | .heartbeat r => r.wf
  | .sessionOpen r => r.wf
  | .sessionProve r => r.wf
  | .proofVerified _ => true
  | .authLockoutEnd _ => true
  | .sessionClose r => r.wf
  | .sessionIdleExpiry _ _ => true
  | .challengeExpiry _ _ => true
  | .ethLinkDown _ => true
  | .regRead r => r.wf
  | .regReadBlock r => r.wf
  | .regWrite r => r.wf
  | .registerWrite _ _ _ _ _ => true
  | .eventClear _ _ _ _ _ => true
  | .mirrorWrite _ _ _ _ _ => true
  | .carrierRun _ _ _ => true
  | .carrierStop _ _ _ => true
  | .gzCfgWrite _ _ _ _ _ => true
  | .sltLimitWrite _ _ _ _ _ => true
  | .wearResetWrite _ _ _ _ => true
  | .debugUnlockWrite _ _ _ _ => true
  | .mbxSnapshot r => r.wf
  | .mbxLastWordRead _ _ => true
  | .mbxExpiry _ => true
  | .applyHold r => r.wf
  | .applyRelease r => r.wf
  | .holdExpired _ => true
  | .lock r => r.wf
  | .pwrStateSet r => r.wf
  | .sleepEntry _ => true
  | .sleepReplyExpired _ => true
  | .wakeSources r => r.wf
  | .bkpChargerSet r => r.wf
  | .bkpStatus r => r.wf
  | .driveArm r => r.wf
  | .driveStart r => r.wf
  | .driveStop r => r.wf
  | .torqueSet r => r.wf
  | .speedLimitSet r => r.wf
  | .driveDisarm r => r.wf
  | .chgSessionBegin r => r.wf
  | .chgSet r => r.wf
  | .chgSessionEnd r => r.wf
  | .pilotStatus r => r.wf
  | .auxEnable r => r.wf
  | .auxSet r => r.wf
  | .auxDisable r => r.wf
  | .auxPhaseMask r => r.wf
  | .shiftTo r => r.wf
  | .parkEngage r => r.wf
  | .parkRelease r => r.wf
  | .actHome r => r.wf
  | .leLoad r => r.wf
  | .leBankWrite r => r.wf
  | .leBankSwap r => r.wf
  | .leMode r => r.wf
  | .leTableWrite r => r.wf
  | .gzConfig r => r.wf
  | .gzInject r => r.wf
  | .injectionDelivered _ _ _ => true
  | .gzCalibrate r => r.wf
  | .calibrationStart _ => true
  | .calibrationDone _ l => l.all fun x => decide (x.1 < 72)
  | .gzRead r => r.wf
  | .safeStatus r => r.wf
  | .faultLogRead r => r.wf
  | .faultAck r => r.wf
  | .ridgeStatus r => r.wf
  | .ridgeReadRecords r => r.wf
  | .ridgeReadSeal r => r.wf
  | .ridgeReadEvents r => r.wf
  | .ridgeReply _ => true
  | .ridgeQueryTimeout _ => true
  | .ridgeParamWrite r _ => r.wf
  | .ridgeSeal r _ => r.wf
  | .ridgeTimeAdjust r _ => r.wf
  | .ridgeLockoutEnd _ => true
  | .rlinkFrame _ bs => decide (bs.length ≤ 65535)
  | .imgRead r => r.wf
  | .imgStage r => r.wf
  | .imageChecked _ => true
  | .imgCommit r => r.wf
  | .imgCommitDone _ => true
  | .fwStage r => r.wf
  | .fwImageChecked _ => true
  | .fwActivate r => r.wf
  | .fwActivateReset _ => true
  | .identRead r => r.wf
  | .attest r => r.wf
  | .attestSigned _ => true
  | .certRead r => r.wf
  | .tlmRead r => r.wf
  | .tlmStream r => r.wf
  | .tlmStreamFrame _ => true
  | .lastfaultRead r => r.wf
  | .thermRead r => r.wf
  | .wearRead r => r.wf
  | .spareStatus r => r.wf
  | .undefinedOpcode r _ => r.wf
  | .packetDiscard _ _ _ => true
  | .bootPacketDiscard _ _ _ => true
  | .spiTransaction _ bs => decide (bs.length ≤ 65537)
  | .handoverToBkp _ _ _ => true
  | .handoverComplete _ => true
  | .vsupLow _ _ _ => true
  | .vsupValid _ _ _ => true
  | .bkpRise _ _ _ => true
  | .bkpFall _ _ => true
  | .wakeNQualified _ _ _ => true
  | .tc10Wake _ => true
  | .cpWake _ _ _ _ => true
  | .ppSample _ _ => true
  | .wheelPulseWake _ => true
  | .rtcAlarm _ => true
  | .sleepTimeout _ => true
  | .nrst _ _ => true
  | .nrstRelease _ => true
  | .boot _ _ => true
  | .bootStandbyReached _ => true
  | .eaveRealign _ => true
  | .bkpSample _ _ _ => true
  | .bkpDead _ => true
  | .bkpTimer _ => true
  | .topoffEnd _ => true
  | .bkpRest _ _ => true
  | .cellTempSuspend _ _ => true
  | .bkpNtcFault _ _ => true
  | .bkpOvervoltage _ _ => true
  | .bkpNoCell _ _ => true
  | .bkpNoCellRetry _ _ => true
  | .chargerFallback _ => true
  | .charge8hLimit _ => true
  | .ridgeVrdgLoss _ _ _ => true
  | .ridgeVrdgReturn _ _ _ => true
  | .shortInterruptionClose _ => true
  | .sltClockLoss _ _ _ _ => true
  | .gzIslandClock _ _ _ => true
  | .delayLineRecal _ => true
  | .shadowGuard _ _ => true
  | .periodStart _ _ => true
  | .feedforward _ _ => true
  | .edgeRelease _ _ _ => true
  | .minPulseHoldEnd _ _ => true
  | .bootstrapUndervoltage _ _ _ => true
  | .millerClamp _ _ _ => true
  | .tripInputLow _ _ => true
  | .drvenLow _ => true
  | .drvenCycle _ => true
  | .gdShortCircuit _ _ _ _ => true
  | .softTurnOffEnd _ _ => true
  | .gdVpUv _ _ _ _ => true
  | .gdVnUv _ _ _ _ => true
  | .gdVdrvUv _ _ _ => true
  | .gdGateMismatch _ _ _ _ => true
  | .compOutput _ _ _ => true
  | .fastOutput _ _ _ => true
  | .fineOutput _ _ _ _ _ => true
  | .throttleEnd _ => true
  | .mramInhibitEnd _ => true
  | .overrange _ _ _ => true
  | .overrangeEnd _ _ => true
  | .gzXbFlat _ _ _ => true
  | .slotConversion _ _ _ => true
  | .refBufferReady _ _ => true
  | .slotStart _ _ _ _ => true
  | .backgroundWake _ _ => true
  | .lateSlot _ _ => true
  | .leHung _ _ => true
  | .leSatExpired _ _ => true
  | .leFeExpired _ _ => true
  | .leDerateDwell _ _ => true
  | .ld _ _ _ _ => true
  | .st _ _ _ => true
  | .ldb _ _ _ _ => true
  | .fadd _ _ _ _ => true
  | .fsub _ _ _ _ => true
  | .fmul _ _ _ _ => true
  | .fma _ _ _ _ _ => true
  | .fmin _ _ _ _ => true
  | .fmax _ _ _ _ => true
  | .fabs _ _ _ => true
  | .fneg _ _ _ => true
  | .fdiv _ _ _ _ => true
  | .fsqrt _ _ _ => true
  | .qadd _ _ _ _ _ => true
  | .qsub _ _ _ _ _ => true
  | .qmul _ _ _ _ _ => true
  | .cvtqf _ _ _ _ => true
  | .cvtfq _ _ _ _ => true
  | .sincos _ _ _ _ => true
  | .atan2 _ _ _ _ => true
  | .cvtg _ _ _ _ => true
  | .cvtc _ _ _ => true
  | .piBlock _ _ _ _ _ => true
  | .preset _ _ _ => true
  | .sat _ _ _ => true
  | .tlook _ _ _ => true
  | .time _ _ _ => true
  | .lput _ _ _ => true
  | .link _ _ _ _ _ => true
  | .lwait _ _ _ _ _ => true
  | .lwaitTimeout _ _ => true
  | .br _ _ _ => true
  | .loop _ n _ => decide (1 ≤ n) && decide (n ≤ 4096)
  | .post _ => true
  | .endSlot _ => true
  | .pace _ _ => true
  | .wait _ => true
  | .ascExit _ => true
  | .listenEnd _ _ => true
  | .brakeStandstill _ => true
  | .trcBrakeAbort _ => true
  | .stopRampEnd _ => true
  | .trcRotorLost _ => true
  | .excRetime _ => true
  | .spAscRelease _ _ => true
  | .pilotEvaluation _ _ _ _ _ => true
  | .gridQualified _ g => g.wf
  | .vpfcPrecharged _ _ _ _ => true
  | .chgGridTrip _ g => g.wf
  | .gridReconnect _ g => g.wf
  | .powerRampEnd _ => true
  | .chgHostless _ => true
  | .chgHostlessStop _ => true
  | .chgVbatWindow _ _ _ => true
  | .auxV48Window _ _ => true
  | .shedLevelChange _ _ => true
  | .shedRotation _ => true
  | .sheddingEnd _ => true
  | .burstRestart _ => true
  | .auxRegulated _ _ => true
  | .auxSenseLost _ _ _ _ _ => true
  | .auxOverload _ _ => true
  | .auxVoutHigh _ _ => true
  | .auxStopComplete _ => true
  | .prechargeDone _ _ => true
  | .auxPrechargeTimeout _ => true
  | .hallEdge _ _ _ _ => true
  | .actHallFault _ _ _ => true
  | .actPosSensor _ _ _ => true
  | .profileSegment _ => true
  | .shiftTargetReached _ _ => true
  | .actShiftTimeout _ => true
  | .motionEnd _ _ => true
  | .homeStopFound _ _ _ => true
  | .actHomeFail _ _ => true
  | .lockedRotor _ _ _ _ => true
  | .retryRestart _ _ => true
  | .pawlState _ _ => true
  | .parkSwitchDisagree _ _ => true
  | .pawlBlocked _ => true
  | .parkNotEngaged _ => true
  | .parkMoveTimeout _ => true
  | .parkMotionEngaged _ _ => true
  | .vspdHostExpired _ => true
  | .lossWindowEnd _ ps => ps.all LossPart.wf
  | .thmSensorBroken _ _ _ => true
  | .thmDieSensor _ => true
  | .thmOvertemp _ _ _ => true
  | .thmNtcOver _ _ _ => true
  | .thmModelLost _ => true
  | .wearSave _ => true
  | .sltQuestion _ => true
  | .spAnswerWord _ _ => true
  | .sltQaMiss _ => true
  | .spLockstep _ => true
  | .sltLimitCorrupt _ _ => true
  | .spPeriodicCheck _ _ _ _ _ _ => true
  | .safeStateRequest _ _ => true
  | .safeStateConfirm _ _ => true
  | .sltBOverrun _ => true
  | .spHoldRelease _ _ => true
  | .armingComplete _ _ => true
  | .sltSelftestDue _ => true
  | .faultFifoDrain _ => true
  | .testPulse _ _ => true
  | .sinSample _ _ _ => true
  | .sinDebounce _ _ _ _ _ => true
  | .sinDiscrepancy _ _ => true
  | .chatter _ _ _ _ => true
  | .tpsOverload _ _ _ => true
  | .rstreqPress _ => true
  | .rstreqRelease _ => true
  | .resetStuck _ => true
  | .witnessHeartbeat _ _ => true
  | .witnessAngle _ _ _ => true
  | .witnessEnergy _ _ => true
  | .witnessMirrorWrite _ _ => true
  | .witnessSleep _ _ => true
  | .rdgWitnessLost _ => true
  | .wpiPulse _ => true
  | .qpRetention _ => true
  | .thatchCheck _ _ => true
  | .fieldCheck _ _ => true
  | .wpiOpenTest _ _ => true
  | .rdgMbLoss _ _ _ => true
  | .rdgMbFlat _ _ _ => true
  | .ridgeEnergySample _ _ => true
  | .ridgeSecond _ => true
  | .ridgeMinute _ => true
  | .ridgeQuarterHour _ => true
  | .dayClose _ => true
  | .sealSigned _ => true
  | .ridgeStart _ _ => true
  | .mirrorUpdate _ => true
  | .ridgeStale _ => true
  | .tripInputHigh _ _ => true
  | .leavesUndervoltage _ _ _ _ => true
  | .ethLinkUp _ => true

end Sys2Proof
end

