-- ==== Sys2Proof/Tests/Slice0.lean ====
section
/-! SUPPORT. Tests: an ill-formed term for every check of well-formedness, worked examples of the spec,
and for every statement with hypotheses a witness per clause (a concrete state and operands that meet all of them). -/

namespace Sys2Proof.Tests
set_option linter.unusedVariables false
set_option Elab.async false
open Sys2Proof Sys2Proof.Machine


/-- A request with its CRC made right, from the session 1 of `host` on CAN 0. -/
def rqst (code : Nat) (ps : List Byte) : Req := ({ session := 1, seq := 5, params := ps } : Req).withCrc code
/-- After reset, with one open session of level 3. -/
def host : State := { State.reset with com := { State.reset.com with sessions := [⟨1, .can0, 0, 3, 3, none, false, 0, 0, true, []⟩] } }
def onServed (a : Admit) (p : State → Bool) : Bool := match a with
  | .served u => p u
  | .ended _ => false
theorem exists_served {a : Admit} {P : State → Prop} [DecidablePred P] (h : onServed a (fun u => decide (P u)) = true) : ∃ u, a = .served u ∧ P u := by
  cases a with
  | served u => exact ⟨u, rfl, of_decide_eq_true h⟩
  | ended u => simp [onServed] at h
theorem exists_served0 {a : Admit} (h : onServed a (fun _ => true) = true) : ∃ u, a = .served u := by
  cases a with
  | served u => exact ⟨u, rfl⟩
  | ended u => simp [onServed] at h
/-- The ticket of a request from the host SPI. -/
def spiTicket : Ticket := ({ session := 1, seq := 5, port := .spi } : Req).ticket 0x0200
def drive : State := [(F.TRC_CFG_SETS, 3), (F.TRC_RATED, 0x459C4000), (F.TRC_KE, 0x42C80000), (F.TRC_TMAX, 0x43C80000), (F.TRC_IMAX, 0x44160000),
  (F.TRC_OVERSPEED, 0x46800000), (F.TRC_VREGEN_VREGEN1, 850), (F.TRC_VREGEN_VREGEN2, 900), (F.TRC_STAT_RES_OK, 1), (F.PWR_STATE_STATE, 4),
  (F.PWM_CAR_PERIOD 0, 640000), (F.PWM_CAR_PERIOD 1, 640000)].foldl (fun (x : State) p => x.setF p.1 p.2) host
def armed1 : State := ({ drive with trc := { drive.trc with sets := 3 } }).toD 1
/-- With about 419 V on the DC link. -/
def volts : State := (drive.setF (F.GZ_CH_FAST 45) 0x400000).setF F.SLT_VSCALE 0x38D1B717
/-- The whole stage map without a function. -/
def bareMap : StageMap := { StageMap.canonical with codes := Vector.replicate 32 0xF0, islands := 0 }
/-- STANDBY with a booted image in which nothing stands against arming. -/
def armable : State := (List.range 4).foldl (fun (x : State) e => x.setF (F.LE_FFSCALE e) 0x3F800000) ((({ host with map := bareMap, slt := { host.slt with sin := Vector.replicate 4 { a := { deb := true }, b := { deb := true } } }, idn := { host.idn with booted := some ⟨1, [], bareMap, []⟩ } }.setF F.SLT_VSCALE 0x38D1B717).setF F.SLT_ISCALE 0x38D1B717).setF F.GD_STAT_DRVEN 1)
/-- ARMED, a 20 A cable, the charger's carriers and scales set, the battery and the grid inside their windows. -/
def plugged : State := [(F.CHG_PP_CLASS, 2), (F.CHG_XBVSCALE, 0x38D1B717), (F.CHG_XBISCALE, 0x38D1B717), (F.CHG_CFG_VNOM, 230), (F.PWM_CAR_PERIOD 3, 100000), (F.PWM_CAR_PERIOD 4, 100000),
  (F.PWR_STATE_STATE, 4), (F.CHG_GRIDV_VLO, 85), (F.CHG_GRIDV_VHI, 110), (F.CHG_GRIDF_FLO, 4750), (F.CHG_GRIDF_FHI, 5150), (F.CHG_GRIDT_ROCOF, 20), (F.CHG_VPFC, 750), (F.CHG_VBAT_VBAT_MIN, 100), (F.CHG_VBAT_VBAT_MAX, 500)].foldl (fun (x : State) p => x.setF p.1 p.2)
  { host with chg := { host.chg with vbat := 400 } }
/-- A three-phase grid at 230 V and 50 Hz for 1,000 s. -/
def grid : GridMeas := { halfMin := 230, rmsMin := 230, rmsMax := 230, freq := 50, peak := 325, held := 6400000000000 }
/-- CSTATE 3 with the front end switching at 1 kW. -/
def charging : State := let a := (plugged.setF F.CHG_STAT_CSTATE 3).setF F.CHG_IMPORT_MAX 0x467A0000
  let b := (a.hbsOf 3).foldl (fun (x : State) h => x.setMode h 1) a
  { b with chg := { b.chg with rampFrom := 1000, rampTo := 1000, rampRate := 100 } }
/-- ARMED, the auxiliary converter fit to start either way: VDC about 838 V, VOUT about 26 V, its scales, phases and carriers set. -/
def auxReady : State := [(F.PWR_STATE_STATE, 4), (F.AUX_VSCALE, 0x36D1B717), (F.AUX_VOSSCALE, 0x36D1B717), (F.AUX_IOSCALE, 0x36D1B717), (F.AUX_IPSCALE, 0x36D1B717), (F.AUX_IDSCALE, 0x36D1B717),
  (F.SLT_VSCALE, 0x38D1B717), (F.GZ_CH_FAST 45, 0x7FFFFF), (F.GZ_CH_FAST 12, 4160000), (F.AUX_VSET, 0x41D00000), (F.AUX_CFG_PRESENT, 255), (F.AUX_CFG_MASK, 255), (F.AUX_CFG_REVERSE_EN, 1),
  (F.PWM_CAR_PERIOD 5, 25600), (F.AUX_PMIN, 200000)].foldl (fun (x : State) p => x.setF p.1 p.2) host
/-- ASTATE 3 at a shed level, with some output current. -/
def shedding (lvl : Nat) : State := ((auxReady.setF F.AUX_STAT_ASTATE 3).setF F.AUX_STAT_LEVEL lvl).setF (F.GZ_CH_FAST 13) 0x7FFFFF
/-- ARMED, both actuators fit: carriers, window units, shunt channels and positions set, the shift homed, the vehicle at rest. -/
def actReady : State := [(F.PWR_STATE_STATE, 4), (F.PWM_CAR_PERIOD 7, 320000), (F.PWM_CAR_PERIOD 8, 320000), (F.PWM_WIN_CFG_EN 0, 1), (F.PWM_WIN_CFG_EN 1, 1),
  (F.ACT_CFG_NPOS, 3), (F.ACT_STAT_SHOMED, 1), (F.ACT_STAT_PSTATE, 1)].foldl (fun (x : State) p => x.setF p.1 p.2) host
/-- The same, with a host speed of 0. -/
def slow : State := { actReady with park := { actReady.park with hostAt := some 0 } }
/-- The pawl at x = 0 with its released switch closed. -/
def pawlFree : State := { (host.setF F.ACT_PPOS_ENG 0x3F800000) with slt := { host.slt with sin := vset host.slt.sin 2 { a := { deb := true }, b := { deb := true } } } }
/-- LE14 in AUTO, on a timer, its first slot due. -/
def slotReady : State := [(F.LE_MODE_MODE 14, 1), (F.LE_CFG_PACE 14, 2), (F.LE_TIMER 14, 64000)].foldl (fun (x : State) p => x.setF p.1 p.2) host
/-- LE0 derated, its dwell timed from 0. -/
def dwelling : State := ((((host.setEng 0 { host.eng 0 with dwellSince := some 0 }).setF (F.LE_MODE_MODE 0) 1).setF (F.LE_DWELL_DWELL_LIM 0) 10).setF (F.LE_CFG_STAGES 0) 1).setF F.THM_DERATE_FLAGS 1
/-- HB0 under the feedforward of LE0, its carrier running, mode 1 and a supply voltage known. -/
def ffReady : State := let a := ((host.setF (F.LE_FFHB 0) 1).setF (F.LE_MODE_MODE 0) 1).setMode 0 1
  (a.setCar (a.hbCar 0) { a.car (a.hbCar 0) with running := true, next := 1088, eff := 640000 }).setEng 0 { a.eng 0 with vin := some 400 }
def isMore : ChunkRes → Bool
  | .more _ => true
  | _ => false
def wholeBytes : ChunkRes → Option (List Byte)
  | .whole b _ => some b
  | _ => none
theorem more_of {c : ChunkRes} (h : isMore c = true) : ∃ v, c = .more v := by
  cases c <;> simp_all [isMore]
theorem whole_of {c : ChunkRes} {b : List Byte} (h : wholeBytes c = some b) : ∃ v, c = .whole b v := by
  cases c <;> simp_all [wholeBytes]
/-- A program of one word with a sound header (Table 8.8). -/
def demoProgram : List Byte := beBytes 4 0x4F4C4550 ++ beBytes 2 1 ++ beBytes 2 1 ++ beBytes 2 0 ++ beBytes 2 1 ++ beBytes 4 0 ++ beBytes 4 0
/-- LE14 with 1.0, 2.0, a NaN and +infinity in R1 to R4. -/
def floats : State := host.setEng 14 (((((host.eng 14).setReg 1 0x3F800000).setReg 2 0x40000000).setReg 3 0x7FC00000).setReg 4 0x7F800000)
/-- A state in which LE14 runs a slot. -/
def running (s : State) : State := (s.setF (F.LE_MODE_MODE 14) 1).setEng 14 { s.eng 14 with inSlot := true }
/-- Link word 3 of LE15 written after LE14's pacing instant. -/
def linked : State := host.setEng 15 { host.eng 15 with links := vset (host.eng 15).links 3 { time := some 100 } }
/-- An injected conversion of GZ0 waits. -/
def demoInjection : Injection := { ticket := (rqst 0x0801 []).ticket 0x0801, ch := 0, centre := 0, copy := false }
def injecting : State := { host with gz := { host.gz with injections := [demoInjection] } }
/-- GZ0 converts continuously, its reference up; and in SLOT mode with a conversion scheduled. -/
def sampling : State := (host.setF (F.GZ_CH_CFG_MODE 0) 1).setF F.GZ_STAT_REF_OK 15
def slotting : State := let a := (host.setF (F.GZ_CH_CFG_MODE 0) 2).setF F.GZ_STAT_REF_OK 15
  a.setGzCh 0 { a.gzCh 0 with convs := [640000] }
/-- A stream of 16 channels with the 30 sets of one frame collected. -/
def demoStream : Stream := { session := 1, dest := 1, dec := 0, chans := List.range 16, sets := List.replicate 30 {} }

/-! The checks of well-formedness, each with a term that it refuses. -/

theorem test_wf_request : (Instr.ping (rqst 0x0001 [1])).wf = true := by decide +kernel
theorem test_wf_no_fd_on_spi : (Instr.getState { port := .spi, fd := true }).wf = false := by decide
theorem test_wf_no_tag_on_can : (Instr.getState { port := .can0, vlan := some 1 }).wf = false := by decide
theorem test_wf_no_broadcast_on_can : (Instr.getState { port := .can1, dest := .broadcast }).wf = false := by decide
theorem test_wf_params_bound : (Instr.ping { params := List.replicate 65536 0 }).wf = false := by decide +kernel
theorem test_wf_loop_bounds : (Instr.loop 14 0 0).wf = false ∧ (Instr.loop 14 4097 0).wf = false ∧ (Instr.loop 14 4096 0).wf = true := by decide
theorem test_wf_calibration_channels : (Instr.calibrationDone 0 [(72, 0, 0)]).wf = false := by decide
theorem test_wf_rlink_length : (Instr.rlinkFrame 0 (List.replicate 65536 0)).wf = false := by decide +kernel
theorem test_wf_spi_length : (Instr.spiTransaction 0 (List.replicate 65538 0)).wf = false := by decide +kernel
theorem test_wf_grid_order : (Instr.gridQualified 0 { grid with rmsMin := 231 }).wf = false := by decide +kernel
theorem test_wf_loss_share : ∀ p : LossPart, p.share = 2 → (Instr.lossWindowEnd 0 [p]).wf = false := by intro p h; simp [Instr.wf, LossPart.wf, h]

/-! Worked examples of the spec. -/

/-- R76: the check value. -/
theorem test_crc_check : crc32c [0x31, 0x32, 0x33, 0x34, 0x35, 0x36, 0x37, 0x38, 0x39] = 0xE3069283 := by decide +kernel
/-- Example 4.1: the header bytes of the HEARTBEAT. -/
theorem test_heartbeat_header : headerBytes 1 0 0x0142 0x0005 4 0x5C1E9037 0 = [0x01, 0x00, 0x01, 0x42, 0x00, 0x05, 0x00, 0x04, 0x5C, 0x1E, 0x90, 0x37, 0, 0, 0, 0] := by decide
/-- Table 4.6: the reply to a HEARTBEAT carries 12 bytes of result data. -/
theorem test_heartbeat_status : (match exec (.heartbeat (rqst 0x0005 [0, 0, 10, 31])) host with
    | .next t => t.com.sent.head?.map fun x => match x with
      | .reply _ r _ => (r.status, r.data.length)
      | _ => (99, 0)
    | _ => none) = some (0, 12) := by decide +kernel
/-- Example 5.1: a proximity change after a read of PWR_WAKE_SRC makes the clear STALE_SEQ. -/
theorem test_stale_clear : ((((State.reset.eventBit F.PWR_WAKE_SRC_SRC 0).eventBit F.PWR_WAKE_SRC_SRC 3).rcsWrite F.PWR_WAKE_SRC_SRC.addr 0xFF000000 0x01000000).1, ((((State.reset.eventBit F.PWR_WAKE_SRC_SRC 0).eventBit F.PWR_WAKE_SRC_SRC 3).rcsWrite F.PWR_WAKE_SRC_SRC.addr 0xFF000000 0x02000000).2.getF F.PWR_WAKE_SRC_SRC)) = (stStaleSeq, 0) := by decide +kernel
/-- R82 step 1: a wrong CRC is answered BAD_CRC and counted. -/
theorem test_bad_crc : (match exec (.getState { rqst 0x0002 [] with crc := 0 }) host with
    | .next t => (t.getF F.COM_ERR_CRC_ERR, t.com.sent.length)
    | _ => (0, 0)) = (1, 1) := by decide +kernel
/-- R19: an authority opcode on a main-die transport is RIDGE_ONLY. -/
theorem test_ridge_only : (match exec (.ridgeSeal (rqst 0x0A81 []) false) host with
    | .next t => t.com.sent.head?.map fun x => match x with
      | .reply _ r _ => r.status
      | _ => 0
    | _ => none) = some stRidgeOnly := by decide +kernel

/-! ## Witnesses for PowerRequestsComplete -/

theorem wit_PowerRequestsComplete_1 : ∃ (r : Req)  (s u : State), admitOp { code := 0x0200, level := if r.params.head? = some 0x0F then 3 else 1, lens := [1] } r s = .served u ∧ r.num 0 1 = 0x02 ∧ u.power = pSTANDBY ∧ u.activeWakes.isEmpty = true :=
  ⟨(rqst 0x0200 [2]), host, exists_served (by decide +kernel)⟩

theorem wit_PowerRequestsComplete_2 : ∃ (r : Req)  (s u : State), admitOp { code := 0x0200, level := if r.params.head? = some 0x0F then 3 else 1, lens := [1] } r s = .served u ∧ r.num 0 1 = 0x0F ∧ u.power = pSTANDBY :=
  ⟨(rqst 0x0200 [15]), host, exists_served (by decide +kernel)⟩

theorem wit_PowerRequestsComplete_3 : ∃ (r : Req)  (s u : State), admitOp { code := 0x0201, lens := [5] } r s = .served u ∧ r.num 0 1 < 64 :=
  ⟨(rqst 0x0201 [3,0,0,0,5]), host, exists_served (by decide +kernel)⟩

theorem wit_PowerRequestsComplete_4 : ∃ (r : Req)  (s u : State), admitOp { code := 0x0202, lens := [3] } r s = .served u ∧ r.num 0 1 ≤ 1 ∧ 2 * r.num 1 1 ≤ u.getF F.PWR_BKP_CTRL_CAPACITY ∧ r.num 2 1 ≤ 15 :=
  ⟨(rqst 0x0202 [1,10,3]), host, exists_served (by decide +kernel)⟩

theorem wit_PowerRequestsComplete_5 : ∃ (r : Req)  (s u : State), admitOp { code := 0x0203 } r s = .served u :=
  ⟨(rqst 0x0203 []), host, exists_served0 (by decide +kernel)⟩

/-! ## Witnesses for PowerEventsComplete -/

theorem wit_PowerEventsComplete_1 : ∃ (t : Nat)  (q : SleepReq) (s u : State), s.advance t = u ∧ u.power = pSTANDBY ∧ u.pwr.sleep = some q ∧ (u.com.slots.any fun x => x.ticket == q.ticket) = false ∧ (q.ticket.port != .spi || q.delivered) = true :=
  ⟨0, ⟨(rqst 0x0200 [2]).ticket 0x0200, 0, true, false⟩, { host with pwr := { host.pwr with sleep := some ⟨(rqst 0x0200 [2]).ticket 0x0200, 0, true, false⟩ } }, _, rfl, by decide +kernel⟩

theorem wit_PowerEventsComplete_2 : ∃ (t : Nat)  (q : SleepReq) (x : Nat × Ticket × Reply) (s u : State), s.advance t = u ∧ u.power = pSTANDBY ∧ u.pwr.sleep = some q ∧ q.ticket.port = .spi ∧ u.com.spiOut.find? (fun y => y.2.1 == q.ticket) = some x ∧ u.elapsed x.1 (100 * ticksPerMs) = true :=
  ⟨640000000, ⟨spiTicket, 0, false, false⟩, (0, spiTicket, ⟨0x0200, 5, 1, 0, []⟩), { host with pwr := { host.pwr with sleep := some ⟨spiTicket, 0, false, false⟩ }, com := { host.com with spiOut := [(0, spiTicket, ⟨0x0200, 5, 1, 0, []⟩)] } }, _, rfl, by decide +kernel⟩

theorem wit_PowerEventsComplete_3 : ∃ (t : Nat)  (s u : State), s.advance t = u ∧ u.mainUp = true ∧ u.power = pSTANDBY ∧ u.pwr.sleep = none ∧ u.getF F.PWR_CFG_SLEEP_TIMEOUT ≠ 0 ∧ u.elapsed u.com.lastContact (u.getF F.PWR_CFG_SLEEP_TIMEOUT * ticksPerS) = true ∧ u.levelWake = false :=
  ⟨64000000000, host.setF F.PWR_CFG_SLEEP_TIMEOUT 10, _, rfl, by decide +kernel⟩

theorem wit_PowerEventsComplete_4 : ∃ (t : Nat)  (held : Nat) (s u : State), s.advance t = u ∧ 50 * ticksPerUs ≤ held :=
  ⟨0, 320000, host, _, rfl, by decide +kernel⟩

theorem wit_PowerEventsComplete_6 : ∃ (t : Nat)  (mv : Int) (osc : Bool) (held : Nat) (s u : State), s.advance t = u ∧ (decide (6000 < mv) || osc) = true ∧ 10 * ticksPerMs ≤ held :=
  ⟨0, 6001, false, 64000000, host, _, rfl, by decide +kernel⟩

theorem wit_PowerEventsComplete_7 : ∃ (t : Nat)  (s u : State), s.advance t = u ∧ 2 ≤ u.rdg.wakePulses :=
  ⟨0, { host with rdg := { host.rdg with wakePulses := 2 } }, _, rfl, by decide +kernel⟩

theorem wit_PowerEventsComplete_8 : ∃ (t : Nat)  (s u : State), s.advance t = u ∧ u.eaveUp = true ∧ u.getF F.PWR_ALARM ≠ 0 ∧ u.getF F.PWR_ALARM ≤ u.eaveSeconds ∧ u.getB F.PWR_STATE_TIME_INVALID = false :=
  ⟨6400000000, host.setF F.PWR_ALARM 1, _, rfl, by decide +kernel⟩

theorem wit_PowerEventsComplete_9 : ∃ (t : Nat)  (s u : State), s.advance t = u ∧ 2 ≤ u.power ∧ u.pwr.handover = none ∧ u.pwr.eaveRuns = true ∧ u.elapsed u.pwr.realignAt (3600 * ticksPerS) = true :=
  ⟨23040000000000, host, _, rfl, by decide +kernel⟩

theorem wit_PowerEventsComplete_10 : ∃ (t : Nat)  (mv held : Nat) (b : State) (s u : State), s.advance t = u ∧ u.power = pSLEEP ∧ u.pwr.handover = none ∧ mv < 6500 ∧ 50 * ticksPerUs ≤ held ∧ (u.loseQueue.loseUnsaved.holdReset 0).bump F.PWR_CFG_HANDOVER = b :=
  ⟨0, 6499, 320000, _, host.setF F.PWR_STATE_STATE 2, _, rfl, by decide +kernel, by decide +kernel, by decide, by decide, rfl⟩

theorem wit_PowerEventsComplete_11 : ∃ (t : Nat)  (w : Nat) (s u : State), s.advance t = u ∧ u.pwr.handover = some w :=
  ⟨0, 0, { host with pwr := { host.pwr with handover := some 0 } }, _, rfl, by decide +kernel⟩

theorem wit_PowerEventsComplete_12 : ∃ (t : Nat)  (mv held : Nat) (s u : State), s.advance t = u ∧ mv < 7500 ∧ (u.vsupSeen mv none).mainUp = true ∧ ((u.vsupSeen mv none).power = pARMED ∨ (u.vsupSeen mv none).power = pRUN) ∧ ticksPerMs ≤ held :=
  ⟨0, 7499, 6400000, host.setF F.PWR_STATE_STATE 4, _, rfl, by decide +kernel⟩

theorem wit_PowerEventsComplete_13 : ∃ (t : Nat)  (mv held : Nat) (v : State) (s u : State), s.advance t = u ∧ 7500 < mv ∧ 10 * ticksPerMs ≤ held ∧ u.pwr.handover = none ∧ u.vsupSeen mv (some (u.now - held)) = v ∧ v.power = pVAULT ∧ v.elapsed v.pwr.handEnd (10 * ticksPerMs) = true :=
  ⟨64000000, 7501, 64000000, _, host.setF F.PWR_STATE_STATE 1, _, rfl, by decide, by decide, by decide +kernel, rfl, by decide +kernel, by decide +kernel⟩

theorem wit_PowerEventsComplete_14 : ∃ (t : Nat)  (mv held : Nat) (v : State) (s u : State), s.advance t = u ∧ 7500 < mv ∧ 10 * ticksPerMs ≤ held ∧ u.pwr.handover = none ∧ u.vsupSeen mv (some (u.now - held)) = v ∧ v.power = pOFF ∧ v.pwr.boot = none ∧ v.elapsed v.pwr.handEnd (10 * ticksPerMs) = true :=
  ⟨64000000, 7501, 64000000, _, host.setF F.PWR_STATE_STATE 0, _, rfl, by decide, by decide, by decide +kernel, rfl, by decide +kernel, by decide +kernel, by decide +kernel⟩

theorem wit_PowerEventsComplete_15 : ∃ (t : Nat)  (bkp vsup : Nat) (s u : State), s.advance t = u ∧ u.power = pOFF ∧ u.pwr.boot = none ∧ 2700 < bkp ∧ vsup < 6500 :=
  ⟨0, 2701, 0, host.setF F.PWR_STATE_STATE 0, _, rfl, by decide +kernel⟩

theorem wit_PowerEventsComplete_16 : ∃ (t : Nat)  (bkp : Nat) (s u : State), s.advance t = u ∧ u.power = pVAULT ∧ bkp < 2400 :=
  ⟨0, 2399, host.setF F.PWR_STATE_STATE 1, _, rfl, by decide +kernel⟩

theorem wit_PowerEventsComplete_17 : ∃ (t : Nat)  (bkp : Nat) (s u : State), s.advance t = u ∧ u.power ≠ pVAULT ∧ bkp < 2400 :=
  ⟨0, 2399, host, _, rfl, by decide +kernel⟩

theorem wit_PowerEventsComplete_18 : ∃ (t : Nat)  (held : Nat) (s u : State), s.advance t = u ∧ 3 ≤ u.power ∧ u.pwr.handover = none ∧ 10 * ticksPerUs ≤ held :=
  ⟨0, 64000, host, _, rfl, by decide +kernel⟩

theorem wit_PowerEventsComplete_19 : ∃ (t : Nat)  (s u : State), s.advance t = u ∧ u.pwr.inReset = true ∧ u.pwr.handover = none :=
  ⟨0, { host with pwr := { host.pwr with inReset := true } }, _, rfl, by decide +kernel⟩

/-! ## Witnesses for BackupChargerEventsComplete -/

theorem wit_BackupChargerEventsComplete_1 : ∃ (t : Nat)  (mv : Nat) (temp : Int) (s u : State), s.advance t = u ∧ u.chargerOn = true ∧ u.sampleDue = true :=
  ⟨0, 3000, 20, host, _, rfl, by decide +kernel⟩

theorem wit_BackupChargerEventsComplete_2 : ∃ (t : Nat)  (s u : State), (s.advance t).countCharge = u ∧ u.chargerOn = true ∧ u.getF F.PWR_BKP_STAT_PHASE = 1 ∧ 3600 * ticksPerS ≤ u.pwr.charger.ran :=
  ⟨23040000000000, host.setF F.PWR_BKP_STAT_PHASE 1, _, rfl, by decide +kernel⟩

theorem wit_BackupChargerEventsComplete_3 : ∃ (t : Nat)  (s u : State), (s.advance t).countCharge = u ∧ u.chargerOn = true ∧ u.getF F.PWR_BKP_STAT_PHASE = 2 ∧ max 1 (u.getF F.PWR_BKP_CTRL_FAST_TIMER) * 3600 * ticksPerS ≤ u.pwr.charger.ran :=
  ⟨345600000000000, host.setF F.PWR_BKP_STAT_PHASE 2, _, rfl, by decide +kernel⟩

theorem wit_BackupChargerEventsComplete_4 : ∃ (t : Nat)  (s u : State), (s.advance t).countCharge = u ∧ u.chargerOn = true ∧ u.getF F.PWR_BKP_STAT_PHASE = 3 ∧ 1800 * ticksPerS ≤ u.pwr.charger.ran :=
  ⟨11520000000000, host.setF F.PWR_BKP_STAT_PHASE 3, _, rfl, by decide +kernel⟩

theorem wit_BackupChargerEventsComplete_5 : ∃ (t : Nat)  (mv : Nat) (s u : State), (s.advance t).countCharge = u ∧ u.chargerOn = true ∧ u.getB F.PWR_BKP_CTRL_ENABLE = true ∧ u.elapsed u.pwr.charger.zeroAt (60 * ticksPerS) = true ∧ mv < 3750 ∧ u.pwr.charger.ntcBad = false ∧ u.getF F.PWR_BKP_STAT_PHASE = 0 :=
  ⟨384000000000, 3749, host.setF F.PWR_BKP_CTRL_ENABLE 1, _, rfl, by decide +kernel⟩

theorem wit_BackupChargerEventsComplete_6 : ∃ (t : Nat)  (mv : Nat) (s u : State), (s.advance t).countCharge = u ∧ u.chargerOn = true ∧ u.getB F.PWR_BKP_CTRL_ENABLE = true ∧ u.elapsed u.pwr.charger.zeroAt (60 * ticksPerS) = true ∧ mv < 3750 ∧ u.pwr.charger.ntcBad = false ∧ u.getF F.PWR_BKP_STAT_PHASE = 4 :=
  ⟨384000000000, 3749, (host.setF F.PWR_BKP_CTRL_ENABLE 1).setF F.PWR_BKP_STAT_PHASE 4, _, rfl, by decide +kernel⟩

theorem wit_BackupChargerEventsComplete_7 : ∃ (t : Nat)  (temp : Int) (s u : State), ((s.advance t).countCharge).setF F.PWR_BKP_STAT_CELL_TEMP (toBits 8 temp) = u ∧ u.chargerOn = true ∧ 1 ≤ u.getF F.PWR_BKP_STAT_PHASE ∧ u.getF F.PWR_BKP_STAT_PHASE ≤ 3 ∧ (temp < 0 ∨ 45 < temp) :=
  ⟨0, -1, host.setF F.PWR_BKP_STAT_PHASE 2, _, rfl, by decide +kernel⟩

theorem wit_BackupChargerEventsComplete_8 : ∃ (t : Nat)  (temp : Int) (s u : State), ((s.advance t).countCharge).setF F.PWR_BKP_STAT_CELL_TEMP (toBits 8 temp) = u ∧ u.chargerOn = true ∧ u.getF F.PWR_BKP_STAT_PHASE = 5 ∧ 1 ≤ temp ∧ temp ≤ 44 :=
  ⟨0, 44, host.setF F.PWR_BKP_STAT_PHASE 5, _, rfl, by decide +kernel⟩

theorem wit_BackupChargerEventsComplete_9 : ∃ (t : Nat)  (mv : Nat) (s u : State), (s.advance t).countCharge = u ∧ u.chargerOn = true ∧ (mv < 100 ∨ 3200 < mv) ∧ u.getF F.PWR_BKP_STAT_PHASE ≠ 0 ∧ u.getF F.PWR_BKP_STAT_PHASE ≠ 6 ∧ u.getF F.PWR_BKP_STAT_PHASE ≠ 7 :=
  ⟨0, 99, host.setF F.PWR_BKP_STAT_PHASE 2, _, rfl, by decide +kernel⟩

theorem wit_BackupChargerEventsComplete_10 : ∃ (t : Nat)  (mv : Nat) (s u : State), (s.advance t).countCharge = u ∧ u.chargerOn = true ∧ (mv < 100 ∨ 3200 < mv) ∧ (u.getF F.PWR_BKP_STAT_PHASE = 0 ∨ u.getF F.PWR_BKP_STAT_PHASE = 6 ∨ u.getF F.PWR_BKP_STAT_PHASE = 7) ∧ u.pwr.charger.ntcBad = false :=
  ⟨0, 3201, host, _, rfl, by decide +kernel⟩

theorem wit_BackupChargerEventsComplete_11 : ∃ (t : Nat)  (mv : Nat) (s u : State), (s.advance t).countCharge = u ∧ u.chargerOn = true ∧ 100 ≤ mv ∧ mv ≤ 3200 :=
  ⟨0, 100, host, _, rfl, by decide +kernel⟩

theorem wit_BackupChargerEventsComplete_12 : ∃ (t : Nat)  (mv : Nat) (s u : State), (s.advance t).countCharge = u ∧ u.chargerOn = true ∧ u.getF F.PWR_BKP_STAT_CURRENT_MA ≠ 0 ∧ 4800 < mv :=
  ⟨0, 4801, host.setF F.PWR_BKP_STAT_CURRENT_MA 100, _, rfl, by decide +kernel⟩

theorem wit_BackupChargerEventsComplete_13 : ∃ (t : Nat)  (mv : Nat) (s u : State), (s.advance t).countCharge = u ∧ u.chargerOn = true ∧ u.getF F.PWR_BKP_STAT_PHASE ≠ 7 ∧ (mv < 500 ∨ (5200 < mv ∧ u.getF F.PWR_BKP_STAT_CURRENT_MA ≠ 0)) :=
  ⟨0, 499, host, _, rfl, by decide +kernel⟩

theorem wit_BackupChargerEventsComplete_14 : ∃ (t : Nat)  (mv : Nat) (s u : State), (s.advance t).countCharge = u ∧ u.chargerOn = true ∧ u.getF F.PWR_BKP_STAT_PHASE = 7 ∧ u.elapsed u.pwr.charger.retryAt (60 * ticksPerS) = true :=
  ⟨384000000000, 499, host.setF F.PWR_BKP_STAT_PHASE 7, _, rfl, by decide +kernel⟩

theorem wit_BackupChargerEventsComplete_15 : ∃ (t : Nat)  (s u : State), (s.advance t).countCharge = u ∧ u.chargerOn = true ∧ u.hostGone = true :=
  ⟨384000000000, host, _, rfl, by decide +kernel⟩

theorem wit_BackupChargerEventsComplete_16 : ∃ (t : Nat)  (s u : State), (s.advance t).countCharge = u ∧ u.chargerOn = true ∧ u.getB F.PWR_BKP_STAT_FALLBACK = true ∧ 1 ≤ u.getF F.PWR_BKP_STAT_PHASE ∧ u.getF F.PWR_BKP_STAT_PHASE ≤ 3 ∧ 8 * 3600 * ticksPerS ≤ u.pwr.charger.defaultRan :=
  ⟨184320000000000, (host.setF F.PWR_BKP_STAT_PHASE 2).setB F.PWR_BKP_STAT_FALLBACK true, _, rfl, by decide +kernel⟩

/-! ## Witnesses for DriveRequestsComplete -/

theorem wit_DriveRequestsComplete_1 : ∃ (r : Req)  (s u : State), admitOp { code := 0x0300, lens := [1] } r s = .served u ∧ r.num 0 1 ≠ 0 ∧ Nat.land (r.num 0 1) u.setsPresent = r.num 0 1 ∧ u.power ≠ pSAFE ∧ (bitsList 2 (r.num 0 1)).any (fun k => u.held k) = false ∧ u.armRefused (r.num 0 1) = false :=
  ⟨(rqst 0x0300 [3]), drive, exists_served (by decide +kernel)⟩

theorem wit_DriveRequestsComplete_2 : ∃ (r : Req)  (s u : State), admitOp { code := 0x0301, lens := [1] } r s = .served u ∧ r.num 0 1 ≤ 1 ∧ (bitsList 2 u.setsInUse).any (fun k => u.held k) = false ∧ u.dstate = 1 ∧ (bitsList 2 u.trc.sets).all (fun k => bitAt u.trc.retired k) = false ∧ u.trc.start = none ∧ (u.startMode (r.num 0 1 == 1)).vdc * (9 / 10) < (u.startMode (r.num 0 1 == 1)).emfAt (u.getQ F.TRC_SPEED) :=
  ⟨(rqst 0x0301 [0]), (armed1.setF F.TRC_SPEED 0x459C4000).setF F.TRC_KE 0x447A0000, exists_served (by decide +kernel)⟩

theorem wit_DriveRequestsComplete_3 : ∃ (r : Req)  (s u : State), admitOp { code := 0x0301, lens := [1] } r s = .served u ∧ r.num 0 1 ≤ 1 ∧ (bitsList 2 u.setsInUse).any (fun k => u.held k) = false ∧ u.dstate = 1 ∧ (bitsList 2 u.trc.sets).all (fun k => bitAt u.trc.retired k) = false ∧ u.trc.start = none ∧ ¬ (u.startMode (r.num 0 1 == 1)).vdc * (9 / 10) < (u.startMode (r.num 0 1 == 1)).emfAt (u.getQ F.TRC_SPEED) :=
  ⟨(rqst 0x0301 [1]), armed1, exists_served (by decide +kernel)⟩

theorem wit_DriveRequestsComplete_4 : ∃ (r : Req)  (s u : State), admitOp { code := 0x0302 } r s = .served u ∧ (u.dstate = 3 ∨ u.dstate = 5) :=
  ⟨(rqst 0x0302 []), drive.toD 5, exists_served (by decide +kernel)⟩

theorem wit_DriveRequestsComplete_5 : ∃ (r : Req)  (s u : State), admitOp { code := 0x0302 } r s = .served u ∧ u.dstate = 6 :=
  ⟨(rqst 0x0302 []), drive.toD 6, exists_served (by decide +kernel)⟩

theorem wit_DriveRequestsComplete_6 : ∃ (r : Req)  (s u : State), admitOp { code := 0x0302 } r s = .served u ∧ u.dstate = 4 :=
  ⟨(rqst 0x0302 []), drive.toD 4, exists_served (by decide +kernel)⟩

theorem wit_DriveRequestsComplete_7 : ∃ (r : Req)  (s u : State), admitOp { code := 0x0302 } r s = .served u ∧ u.dstate = 2 :=
  ⟨(rqst 0x0302 []), drive.toD 2, exists_served (by decide +kernel)⟩

theorem wit_DriveRequestsComplete_8 : ∃ (r : Req)  (s u : State), admitOp { code := 0x0302 } r s = .served u ∧ (u.dstate = 0 ∨ u.dstate = 1 ∨ u.dstate = 7) :=
  ⟨(rqst 0x0302 []), drive.toD 7, exists_served (by decide +kernel)⟩

theorem wit_DriveRequestsComplete_9 : ∃ (r : Req)  (s u : State), admitOp { code := 0x0303, lens := [8] } r s = .served u ∧ F32.isFinite (r.fl 0) = true ∧ ¬ u.getQ F.TRC_TMAX < absRat (F32.toRat (r.fl 0)) ∧ posFinite (r.fl 4) = true ∧ u.dstate ≠ 0 ∧ u.dstate ≠ 8 :=
  ⟨(rqst 0x0303 [0x43, 0x7A, 0, 0, 0x3F, 0x80, 0, 0]), armed1, exists_served (by decide +kernel)⟩

theorem wit_DriveRequestsComplete_10 : ∃ (r : Req)  (s u : State), admitOp { code := 0x0304, lens := [8] } r s = .served u ∧ u.speedLimitOk (r.fl 0) = true ∧ u.speedLimitOk (r.fl 4) = true :=
  ⟨(rqst 0x0304 [0x46, 0x1C, 0x40, 0, 0, 0, 0, 0]), drive, exists_served (by decide +kernel)⟩

theorem wit_DriveRequestsComplete_11 : ∃ (r : Req)  (s u : State), admitOp { code := 0x0305 } r s = .served u ∧ u.dstate = 1 :=
  ⟨(rqst 0x0305 []), armed1, exists_served (by decide +kernel)⟩

theorem wit_DriveRequestsComplete_12 : ∃ (r : Req)  (s u : State), admitOp { code := 0x0305 } r s = .served u ∧ u.dstate = 0 :=
  ⟨(rqst 0x0305 []), drive, exists_served (by decide +kernel)⟩

/-! ## Witnesses for DriveEventsComplete -/

theorem wit_DriveEventsComplete_1 : ∃ (t : Nat)  (m : ListenMeas) (n : Rat) (diff : Option Rat) (s u : State), s.advance t = u ∧ u.mainUp = true ∧ u.dstate = 2 ∧ u.listenCut m = true ∧ u.listened m = (n, diff) :=
  ⟨0, { eMeas := 1 }, _, _, drive.toD 2, _, rfl, by decide +kernel, by decide +kernel, by decide +kernel, rfl⟩

theorem wit_DriveEventsComplete_2 : ∃ (t : Nat)  (m : ListenMeas) (n : Rat) (diff : Option Rat) (c : Nat) (s u : State), s.advance t = u ∧ u.mainUp = true ∧ u.dstate = 2 ∧ u.listenCut m = false ∧ u.trc.listenAt + u.trc.listenFor ≤ u.now ∧ u.listened m = (n, diff) ∧ startDecision (u.getQ F.TRC_RATED) n diff u.dirForward = .case c :=
  ⟨0, {}, _, _, 0, (drive.setF F.TRC_RATED 0x459C4000).toD 2, _, rfl, by decide +kernel, by decide +kernel, by decide +kernel, by decide +kernel, rfl, by decide +kernel⟩

theorem wit_DriveEventsComplete_3 : ∃ (t : Nat)  (m : ListenMeas) (n : Rat) (diff : Option Rat) (s u : State), s.advance t = u ∧ u.mainUp = true ∧ u.dstate = 2 ∧ u.listenCut m = false ∧ u.trc.listenAt + u.trc.listenFor ≤ u.now ∧ u.listened m = (n, diff) ∧ startDecision (u.getQ F.TRC_RATED) n diff u.dirForward = .disagree :=
  ⟨0, { eMeas := 20, angleV := 16 }, _, _, volts.toD 2, _, rfl, by decide +kernel, by decide +kernel, by decide +kernel, by decide +kernel, rfl, by decide +kernel⟩

theorem wit_DriveEventsComplete_4 : ∃ (t : Nat)  (m : ListenMeas) (n : Rat) (diff : Option Rat) (s u : State), s.advance t = u ∧ u.mainUp = true ∧ u.dstate = 2 ∧ u.listenCut m = false ∧ u.trc.listenAt + u.trc.listenFor ≤ u.now ∧ u.listened m = (n, diff) ∧ startDecision (u.getQ F.TRC_RATED) n diff u.dirForward = .reverse :=
  ⟨0, {}, _, _, ((drive.setF F.TRC_RATED 0x459C4000).setF F.TRC_SPEED 0xC4FA0000).toD 2, _, rfl, by decide +kernel, by decide +kernel, by decide +kernel, by decide +kernel, rfl, by decide +kernel⟩

theorem wit_DriveEventsComplete_5 : ∃ (t : Nat)  (s u : State), s.advance t = u ∧ u.mainUp = true ∧ u.dstate = 7 ∧ u.trc.torqueNow = 0 :=
  ⟨0, drive.toD 7, _, rfl, by decide +kernel⟩

theorem wit_DriveEventsComplete_6 : ∃ (t : Nat)  (x : Nat) (v : State) (s u : State), s.advance t = u ∧ u.trc.ascLowSince = some x ∧ u.mainUp = true ∧ u.dstate = 4 ∧ x + 100 * ticksPerMs ≤ u.now ∧ u.leaveAsc = v ∧ v.trc.ascForStop = true :=
  ⟨640000000, 0, _, { (drive.toD 4) with trc := { drive.trc with ascLowSince := some 0, ascForStop := true } }, _, rfl, by decide, by decide +kernel, by decide +kernel, by decide, rfl, by decide⟩

theorem wit_DriveEventsComplete_7 : ∃ (t : Nat)  (x c : Nat) (v : State) (s u : State), s.advance t = u ∧ u.trc.ascLowSince = some x ∧ u.mainUp = true ∧ u.dstate = 4 ∧ x + 100 * ticksPerMs ≤ u.now ∧ u.leaveAsc = v ∧ v.trc.ascForStop = false ∧ startDecision (v.getQ F.TRC_RATED) (v.getQ F.TRC_SPEED) none v.dirForward = .case c :=
  ⟨640000000, 0, 0, _, { ((drive.setF F.TRC_RATED 0x459C4000).toD 4) with trc := { drive.trc with ascLowSince := some 0, ascForStop := false } }, _, rfl, by decide, by decide +kernel, by decide +kernel, by decide, rfl, by decide, by decide +kernel⟩

theorem wit_DriveEventsComplete_8 : ∃ (t : Nat)  (x : Nat) (v : State) (s u : State), s.advance t = u ∧ u.trc.ascLowSince = some x ∧ u.mainUp = true ∧ u.dstate = 4 ∧ x + 100 * ticksPerMs ≤ u.now ∧ u.leaveAsc = v ∧ v.trc.ascForStop = false ∧ startDecision (v.getQ F.TRC_RATED) (v.getQ F.TRC_SPEED) none v.dirForward = .reverse :=
  ⟨640000000, 0, _, { (((drive.setF F.TRC_RATED 0x459C4000).setF F.TRC_SPEED 0xC4FA0000).toD 4) with trc := { drive.trc with ascLowSince := some 0, ascForStop := false } }, _, rfl, by decide, by decide +kernel, by decide +kernel, by decide, rfl, by decide, by decide +kernel⟩

theorem wit_DriveEventsComplete_9 : ∃ (t : Nat)  (x : Nat) (s u : State), s.advance t = u ∧ u.mainUp = true ∧ u.trc.slowSince = some x ∧ u.dstate = 3 ∧ x + 50 * ticksPerMs ≤ u.now :=
  ⟨320000000, 0, { (drive.toD 3) with trc := { drive.trc with slowSince := some 0 } }, _, rfl, by decide +kernel⟩

theorem wit_DriveEventsComplete_10 : ∃ (t : Nat)  (x : Nat) (s u : State), s.advance t = u ∧ u.mainUp = true ∧ u.dstate = 3 ∧ u.trc.brakeZeroSince = some x ∧ x + 500 * ticksPerMs ≤ u.now :=
  ⟨3200000000, 0, { (drive.toD 3) with trc := { drive.trc with brakeZeroSince := some 0 } }, _, rfl, by decide +kernel⟩

theorem wit_DriveEventsComplete_11 : ∃ (t : Nat)  (s u : State), s.advance t = u ∧ u.mainUp = true ∧ u.dstate = 3 ∧ u.trc.brakeAt + u.getF F.TRC_FLY_BRAKE_S * 100 * ticksPerMs ≤ u.now ∧ u.getQ F.TRC_RATED / 100 ≤ absRat (u.getQ F.TRC_SPEED) :=
  ⟨6400000000, ((drive.setF F.TRC_FLY_BRAKE_S 10).setF F.TRC_SPEED 0x459C4000).toD 3, _, rfl, by decide +kernel⟩

theorem wit_DriveEventsComplete_12 : ∃ (t : Nat)  (s u : State), s.advance t = u ∧ u.mainUp = true ∧ u.dstate = 6 ∧ u.trc.lossAt + 20 * ticksPerMs ≤ u.now :=
  ⟨128000000, drive.toD 6, _, rfl, by decide +kernel⟩

theorem wit_DriveEventsComplete_13 : ∃ (t : Nat)  (tex : Nat) (pulled : Bool) (s u : State), s.advance t = u ∧ u.mainUp = true ∧ excRule u.texNom (u.car 0).eff = (tex, pulled) :=
  ⟨0, 640000 * 256, false, drive, _, rfl, by decide +kernel⟩

/-! ## Witnesses for ArmingAndLogCommandsComplete -/

theorem wit_ArmingAndLogCommandsComplete_1 : ∃ (r : Req)  (s u : State), admitOp { code := 0x0003, lens := [1] } r s = .served u ∧ r.num 0 1 = 4 ∧ u.power = pSTANDBY ∧ u.slt.arming = none ∧ u.armRefusal = 0 :=
  ⟨(rqst 0x0003 [4]), armable, exists_served (by decide +kernel)⟩

theorem wit_ArmingAndLogCommandsComplete_2 : ∃ (r : Req)  (s u : State), admitOp { code := 0x0003, lens := [1] } r s = .served u ∧ r.num 0 1 = 3 ∧ u.power = pSTANDBY ∧ u.slt.arming.isSome = true :=
  ⟨(rqst 0x0003 [3]), { host with slt := { host.slt with arming := some 0 } }, exists_served (by decide +kernel)⟩

theorem wit_ArmingAndLogCommandsComplete_3 : ∃ (r : Req)  (s u : State), admitOp { code := 0x0003, lens := [1] } r s = .served u ∧ r.num 0 1 = 3 ∧ (u.power = pARMED ∨ u.power = pRUN) ∧ u.anySwitching = false :=
  ⟨(rqst 0x0003 [3]), drive, exists_served (by decide +kernel)⟩

theorem wit_ArmingAndLogCommandsComplete_4 : ∃ (r : Req)  (s u : State), admitOp { code := 0x0003, lens := [1] } r s = .served u ∧ r.num 0 1 = 3 ∧ u.power = pSAFE ∧ u.anySwitching = false ∧ u.ascOn 0 = false ∧ u.ascOn 1 = false ∧ u.unacked (fun _ => true) = false ∧ u.getB F.SLT_STAT_SP_LOST = false :=
  ⟨(rqst 0x0003 [3]), host.setF F.PWR_STATE_STATE 6, exists_served (by decide +kernel)⟩

theorem wit_ArmingAndLogCommandsComplete_5 : ∃ (t : Nat)  (failed : Fin 4) (b : State) (s u : State), s.advance t = u ∧ u.slt.arming.isSome = true ∧ u.power = pSTANDBY ∧ u.storeOk = true ∧ failed.val = 0 ∧ ((u.abortArming.setB F.SYS_LOCK_ARMED_LOCK true).setB F.SLT_STAT_LOCKED true).toPower pARMED 0x01 = b :=
  ⟨0, 0, _, { host with slt := { host.slt with arming := some 0 } }, _, rfl, rfl, by decide +kernel, by decide +kernel, by decide, rfl⟩

theorem wit_ArmingAndLogCommandsComplete_6 : ∃ (t : Nat)  (failed : Fin 4) (s u : State), s.advance t = u ∧ u.slt.arming.isSome = true ∧ u.power = pSTANDBY ∧ u.armStep failed ≠ 0 ∧ (u.storeOk = true ∨ u.slt.limitsBad = true) :=
  ⟨0, 2, { host with slt := { host.slt with arming := some 0 } }, _, rfl, by decide +kernel⟩

theorem wit_ArmingAndLogCommandsComplete_7 : ∃ (t : Nat)  (failed : Fin 4) (s u : State), s.advance t = u ∧ u.slt.arming.isSome = true ∧ u.power = pSTANDBY ∧ u.storeOk = false ∧ u.slt.limitsBad = false :=
  ⟨0, 0, { (host.setF (F.SLT_HB_FSW 0) 3) with slt := { host.slt with arming := some 0 } }, _, rfl, by decide +kernel⟩

theorem wit_ArmingAndLogCommandsComplete_8 : ∃ (r : Req)  (s u : State), admitOp { code := 0x0900 } r s = .served u :=
  ⟨(rqst 0x0900 []), host, exists_served0 (by decide +kernel)⟩

theorem wit_ArmingAndLogCommandsComplete_9 : ∃ (r : Req) (l : List FaultRec) (s u : State), admitOp { code := 0x0901, lens := [3] } r s = .served u ∧ 1 ≤ r.num 2 1 ∧ r.num 2 1 ≤ 16 ∧ (u.recordsFrom (r.num 0 2)).take (min (r.num 2 1) ((maxPacket r.port r.fd - 23) / 32)) = l :=
  ⟨(rqst 0x0901 [0, 0, 16]), [], host, exists_served (by decide +kernel)⟩

theorem wit_ArmingAndLogCommandsComplete_10 : ∃ (t : Nat)  (s u : State), s.advance t = u ∧ u.mainUp = true :=
  ⟨0, host, _, rfl, by decide +kernel⟩

theorem wit_ArmingAndLogCommandsComplete_11 : ∃ (t : Nat)  (s u : State), s.advance t = u ∧ u.mainUp = true ∧ pARMED ≤ u.power ∧ u.power ≤ pSAFE ∧ u.slt.armedAt + 24 * 3600 * (u.slt.dueCount + 1) * ticksPerS ≤ u.now :=
  ⟨552960000000000, drive, _, rfl, by decide +kernel⟩

/-! ## Witnesses for MutualCheckEventsComplete -/

theorem wit_MutualCheckEventsComplete_1 : ∃ (t : Nat)  (clk : SltClock) (missing count : Nat) (s u : State), s.advance t = u ∧ u.clocksWatched = true ∧ clockBad clk missing count = true ∧ u.slt.clkLost.contains clk = false ∧ clk ≠ .cd3 :=
  ⟨0, .cd5, 8, 0, host, _, rfl, by decide +kernel⟩

theorem wit_MutualCheckEventsComplete_2 : ∃ (t : Nat)  (missing count : Nat) (s u : State), s.advance t = u ∧ u.clocksWatched = true ∧ clockBad .cd3 missing count = true ∧ u.slt.clkLost.contains .cd3 = false :=
  ⟨0, 8, 0, host, _, rfl, by decide +kernel⟩

theorem wit_MutualCheckEventsComplete_3 : ∃ (t : Nat)  (clk : SltClock) (missing count : Nat) (s u : State), s.advance t = u ∧ u.clocksWatched = true ∧ clockBad clk missing count = false :=
  ⟨0, .cd3, 7, 8533, host, _, rfl, by decide +kernel⟩

theorem wit_MutualCheckEventsComplete_4 : ∃ (t : Nat)  (a : State) (s u : State), s.advance t = u ∧ u.mainUp = true ∧ (u.slt.questionAt = 0 ∨ u.slt.questionAt + ticksPerMs ≤ u.now) ∧ (if u.qaOpen then u.qaMiss else u) = a :=
  ⟨0, _, host, _, rfl, by decide +kernel, by decide, rfl⟩

theorem wit_MutualCheckEventsComplete_5 : ∃ (t : Nat)  (word : BitVec 16) (s u : State), s.advance t = u ∧ u.mainUp = true ∧ u.slt.questionAt ≠ 0 ∧ u.slt.judged = false ∧ u.slt.words < 3 ∧ word = Config.answerWord u.slt.question u.slt.words :=
  ⟨0, _, { host with now := 6400000, slt := { host.slt with questionAt := 6400000, words := 0 } }, _, rfl, by decide +kernel, by decide, rfl, by decide, rfl⟩

theorem wit_MutualCheckEventsComplete_6 : ∃ (t : Nat)  (word : BitVec 16) (s u : State), s.advance t = u ∧ u.mainUp = true ∧ u.slt.questionAt ≠ 0 ∧ u.slt.judged = false ∧ u.slt.words = 3 ∧ word = Config.answerWord u.slt.question u.slt.words ∧ u.slt.questionAt + 250 * ticksPerUs ≤ u.now ∧ u.now ≤ u.slt.questionAt + 900 * ticksPerUs :=
  ⟨8000000, _, { host with now := 6400000, slt := { host.slt with questionAt := 6400000, words := 3 } }, _, rfl, by decide +kernel, by decide, rfl, rfl, rfl, by decide, by decide⟩

theorem wit_MutualCheckEventsComplete_7 : ∃ (t : Nat)  (word : BitVec 16) (s u : State), s.advance t = u ∧ u.mainUp = true ∧ u.slt.questionAt ≠ 0 ∧ u.slt.judged = false ∧ u.slt.words < 4 ∧ word ≠ Config.answerWord u.slt.question u.slt.words :=
  ⟨0, Config.answerWord 0 0 + 1, { host with now := 6400000, slt := { host.slt with questionAt := 6400000, words := 0 } }, _, rfl, by decide +kernel, by decide, rfl, by decide, fun h => absurd (BitVec.add_right_eq_self.1 h) (by decide)⟩

theorem wit_MutualCheckEventsComplete_8 : ∃ (t : Nat)  (s u : State), s.advance t = u ∧ u.mainUp = true ∧ u.qaOpen = true ∧ u.slt.questionAt + 900 * ticksPerUs < u.now :=
  ⟨12160001, { host with now := 6400000, slt := { host.slt with questionAt := 6400000, words := 0 } }, _, rfl, by decide +kernel⟩

theorem wit_MutualCheckEventsComplete_9 : ∃ (t : Nat)  (s u : State), s.advance t = u ∧ u.mainUp = true ∧ bitAt u.slt.lostBy 1 = false :=
  ⟨0, host, _, rfl, by decide +kernel⟩

theorem wit_MutualCheckEventsComplete_10 : ∃ (t : Nat)  (parity : Bool) (s u : State), s.advance t = u ∧ u.mainUp = true ∧ (parity || !u.storeOk) = true ∧ u.slt.limitsBad = false :=
  ⟨0, true, host, _, rfl, by decide +kernel⟩

theorem wit_MutualCheckEventsComplete_11 : ∃ (t : Nat)  (s u : State), s.advance t = u ∧ u.mainUp = true ∧ u.storeOk = true :=
  ⟨0, host, _, rfl, by decide +kernel⟩

theorem wit_MutualCheckEventsComplete_12 : ∃ (t : Nat)  (dev : Int) (gate : BitVec 9) (torqueA torqueB : Rat) (held : Nat) (s u : State), s.advance t = u ∧ u.mainUp = true ∧ u.getB F.SLT_STAT_SP_LOST = false :=
  ⟨0, 51, 1, 0, 0, 64000000, host, _, rfl, by decide +kernel⟩

/-! ## Witnesses for SafeStateEventsComplete -/

theorem wit_SafeStateEventsComplete_1 : ∃ (t : Nat)  (stage : Fin 9) (s u : State), s.advance t = u ∧ u.mainUp = true ∧ u.getB F.SLT_STAT_SP_LOST = false ∧ (u.hbsOf stage).isEmpty = false ∧ 2 ≤ stage.val :=
  ⟨0, 3, host, _, rfl, by decide +kernel⟩

theorem wit_SafeStateEventsComplete_2 : ∃ (t : Nat)  (stage : Fin 9) (s u : State), s.advance t = u ∧ u.mainUp = true ∧ u.getB F.SLT_STAT_SP_LOST = false ∧ (u.hbsOf stage).isEmpty = false ∧ stage.val ≤ 1 :=
  ⟨0, 0, host, _, rfl, by decide +kernel⟩

theorem wit_SafeStateEventsComplete_3 : ∃ (t : Nat)  (stages : BitVec 9) (s u : State), s.advance t = u ∧ u.getB F.SLT_STAT_SP_LOST = false :=
  ⟨0, 511, host, _, rfl, by decide +kernel⟩

theorem wit_SafeStateEventsComplete_4 : ∃ (t : Nat)  (s u : State), s.advance t = u ∧ u.mainUp = true ∧ u.overdue ≠ 0 :=
  ⟨64000000, { host with slt := { host.slt with timer := vset host.slt.timer 3 (some 64000000) } }, _, rfl, by decide +kernel⟩

theorem wit_SafeStateEventsComplete_5 : ∃ (t : Nat)  (setB : Bool) (st x : Nat) (s u : State), s.advance t = u ∧ (if setB then 1 else 0) = st ∧ u.mainUp = true ∧ u.getB F.SLT_STAT_SP_LOST = false ∧ u.ascOn st = true ∧ bitAt u.slt.classA st = false ∧ bitAt u.slt.scLow st = false ∧ bitAt u.slt.scHigh st = false ∧ u.slt.lowEmfSince = some x ∧ x + ticksPerS ≤ u.now :=
  ⟨6400000000, true, 1, 0, { host with slt := { host.slt with kind := vset host.slt.kind 1 2, lowEmfSince := some 0 } }, _, rfl, by decide +kernel⟩

theorem wit_SafeStateEventsComplete_6 : ∃ (t : Nat)  (stage : Fin 9) (s u : State), s.advance t = u ∧ u.mainUp = true ∧ u.mayRelease stage = true :=
  ⟨0, 8, { host with slt := { host.slt with kind := vset host.slt.kind 8 1 } }, _, rfl, by decide +kernel⟩

/-! ## Witnesses for SafetyInputEventsComplete -/

theorem wit_SafetyInputEventsComplete_1 : ∃ (t : Nat)  (b : Bool) (i : Nat) (s u : State), s.advance t = u ∧ u.mainUp = true ∧ (if b then 1 else 0) = i ∧ vget u.slt.pulseFrame i 0 < u.testFrame b :=
  ⟨64000000, true, 1, host, _, rfl, by decide +kernel⟩

theorem wit_SafetyInputEventsComplete_2 : ∃ (t : Nat)  (b : Bool) (levels : BitVec 8) (s u : State), s.advance t = u ∧ u.mainUp = true ∧ u.pulseSampled b = true :=
  ⟨960000, false, 255, { host with slt := { host.slt with pulseFrame := vset host.slt.pulseFrame 0 1 } }, _, rfl, by decide +kernel⟩

theorem wit_SafetyInputEventsComplete_3 : ∃ (t : Nat)  (pair : Fin 4) (b raw : Bool) (held : Nat) (s u : State), s.advance t = u ∧ u.mainUp = true ∧ 3 * ticksPerMs ≤ held :=
  ⟨0, 3, true, false, 19200000, host, _, rfl, by decide +kernel⟩

theorem wit_SafetyInputEventsComplete_4 : ∃ (t : Nat)  (pair : Fin 4) (d : Nat) (s u : State), s.advance t = u ∧ (u.pair pair).differSince = some d ∧ u.mainUp = true ∧ d + 50 * ticksPerMs ≤ u.now :=
  ⟨320000000, 3, 0, { host with slt := { host.slt with sin := vset host.slt.sin 3 { differSince := some 0 } } }, _, rfl, by decide +kernel⟩

theorem wit_SafetyInputEventsComplete_5 : ∃ (t : Nat)  (pair : Fin 4) (b : Bool) (transitions : Nat) (s u : State), s.advance t = u ∧ u.mainUp = true ∧ 8 < transitions :=
  ⟨0, 0, true, 9, host, _, rfl, by decide +kernel⟩

theorem wit_SafetyInputEventsComplete_6 : ∃ (t : Nat)  (b : Bool) (held : Nat) (hit : List Nat) (s u : State), s.advance t = u ∧ u.mainUp = true ∧ ticksPerMs ≤ held ∧ below 4 (fun p => u.pairUsed p && (u.pair p).kind != 5) = hit ∧ hit ≠ [] :=
  ⟨0, false, 6400000, [0, 1, 2, 3], host, _, rfl, by decide +kernel⟩

theorem wit_SafetyInputEventsComplete_7 : ∃ (t : Nat)  (s u : State), (s.advance t).keyLevel true = u ∧ u.mainUp = true ∧ u.getB F.SLT_RST_LEVEL = false :=
  ⟨0, host, _, rfl, by decide +kernel⟩

theorem wit_SafetyInputEventsComplete_8 : ∃ (t : Nat)  (p : Nat) (b : State) (s u : State), (s.advance t).keyLevel false = u ∧ u.mainUp = true ∧ u.power ≠ pTEST ∧ u.getB F.SLT_RST_LEVEL = true ∧ u.getB F.SLT_RST_STUCK = false ∧ u.slt.rstPressAt = some p ∧ u.rstReleased p = b ∧ 50 * ticksPerMs ≤ u.now - p ∧ u.now - p ≤ 3 * ticksPerS ∧ u.slt.rstClean = true ∧ b.resetRefused = false :=
  ⟨320000000, 0, _, { (host.setF F.SLT_RST_LEVEL 1) with slt := { host.slt with rstPressAt := some 0, rstClean := true } }, _, rfl, by decide +kernel, by decide +kernel, by decide +kernel, by decide +kernel, rfl, rfl, by decide +kernel, by decide +kernel, by decide +kernel, by decide +kernel⟩

theorem wit_SafetyInputEventsComplete_9 : ∃ (t : Nat)  (p : Nat) (b : State) (s u : State), (s.advance t).keyLevel false = u ∧ u.mainUp = true ∧ u.power ≠ pTEST ∧ u.getB F.SLT_RST_LEVEL = true ∧ u.getB F.SLT_RST_STUCK = false ∧ u.slt.rstPressAt = some p ∧ u.rstReleased p = b ∧ 50 * ticksPerMs ≤ u.now - p ∧ u.now - p ≤ 3 * ticksPerS ∧ u.slt.rstClean = true ∧ b.resetRefused = true :=
  ⟨320000000, 0, _, { (host.setF F.SLT_RST_LEVEL 1) with slt := { host.slt with rstPressAt := some 0, rstClean := true, kind := vset host.slt.kind 0 2 } }, _, rfl, by decide +kernel, by decide +kernel, by decide +kernel, by decide +kernel, rfl, rfl, by decide +kernel, by decide +kernel, by decide +kernel, by decide +kernel⟩

theorem wit_SafetyInputEventsComplete_10 : ∃ (t : Nat)  (p : Nat) (b : State) (s u : State), (s.advance t).keyLevel false = u ∧ u.mainUp = true ∧ u.power ≠ pTEST ∧ u.getB F.SLT_RST_LEVEL = true ∧ u.getB F.SLT_RST_STUCK = false ∧ u.slt.rstPressAt = some p ∧ u.rstReleased p = b ∧ 3 * ticksPerS < u.now - p ∧ u.now - p ≤ 30 * ticksPerS :=
  ⟨19200000001, 0, _, { (host.setF F.SLT_RST_LEVEL 1) with slt := { host.slt with rstPressAt := some 0, rstClean := true } }, _, rfl, by decide +kernel, by decide +kernel, by decide +kernel, by decide +kernel, rfl, rfl, by decide +kernel, by decide +kernel⟩

theorem wit_SafetyInputEventsComplete_11 : ∃ (t : Nat)  (p : Nat) (b : State) (s u : State), (s.advance t).keyLevel false = u ∧ u.mainUp = true ∧ u.power ≠ pTEST ∧ u.getB F.SLT_RST_LEVEL = true ∧ u.getB F.SLT_RST_STUCK = false ∧ u.slt.rstPressAt = some p ∧ u.rstReleased p = b ∧ u.now - p < 50 * ticksPerMs :=
  ⟨319999999, 0, _, { (host.setF F.SLT_RST_LEVEL 1) with slt := { host.slt with rstPressAt := some 0, rstClean := true } }, _, rfl, by decide +kernel, by decide +kernel, by decide +kernel, by decide +kernel, rfl, rfl, by decide +kernel⟩

theorem wit_SafetyInputEventsComplete_12 : ∃ (t : Nat)  (p : Nat) (s u : State), (s.advance t).keyLevel false = u ∧ u.mainUp = true ∧ u.power = pTEST ∧ u.getB F.SLT_RST_LEVEL = true ∧ u.slt.rstPressAt = some p :=
  ⟨0, 0, { ((host.setF F.SLT_RST_LEVEL 1).setF F.PWR_STATE_STATE 15) with slt := { host.slt with rstPressAt := some 0 } }, _, rfl, by decide +kernel⟩

theorem wit_SafetyInputEventsComplete_13 : ∃ (t : Nat)  (p : Nat) (s u : State), s.advance t = u ∧ u.mainUp = true ∧ u.slt.rstPressAt = some p ∧ u.getB F.SLT_RST_STUCK = false ∧ p + 30 * ticksPerS ≤ u.now :=
  ⟨192000000000, 0, { (host.setF F.SLT_RST_LEVEL 1) with slt := { host.slt with rstPressAt := some 0, rstClean := true } }, _, rfl, by decide +kernel⟩

/-! ## Witnesses for ChargerRequestsComplete -/

theorem wit_ChargerRequestsComplete_1 : ∃ (r : Req)  (s u : State), admitOp { code := 0x0400, lens := [6] } r s = .served u ∧ (r.num 0 1 = 1 ∨ r.num 0 1 = 3) ∧ r.num 1 1 ≤ 1 ∧ posFinite (r.fl 2) = true ∧ u.held 3 = false ∧ u.held 4 = false ∧ u.beginRefused = false :=
  ⟨(rqst 0x0400 [3, 1, 0x41, 0x80, 0, 0]), plugged, exists_served (by decide +kernel)⟩

theorem wit_ChargerRequestsComplete_2 : ∃ (r : Req)  (s u : State), admitOp { code := 0x0401, lens := [8] } r s = .served u ∧ F32.isFinite (r.fl 0) = true ∧ posFinite (r.fl 4) = true ∧ F32.toRat (r.fl 0) ≤ u.getQ F.CHG_IMPORT_MAX ∧ -(u.getQ F.CHG_EXPORT_MAX) ≤ F32.toRat (r.fl 0) ∧ u.cstate ≠ 0 ∧ (0 ≤ F32.toRat (r.fl 0) ∨ (u.chg.exportOk = true ∧ u.getB F.CHG_CFG_EXPORT_EN = true ∧ u.getB F.CHG_STAT_FALLBACK = false)) :=
  ⟨(rqst 0x0401 [0x45, 0x7A, 0, 0, 0x42, 0xC8, 0, 0]), ((host.setF F.CHG_STAT_CSTATE 1).setF F.CHG_IMPORT_MAX 0x467A0000), exists_served (by decide +kernel)⟩

theorem wit_ChargerRequestsComplete_3 : ∃ (r : Req)  (s u : State), admitOp { code := 0x0402, background := true } r s = .served u ∧ u.cstate ≠ 0 ∧ (u.chgSwitching = false ∨ u.rampPower = 0) :=
  ⟨(rqst 0x0402 []), host.setF F.CHG_STAT_CSTATE 3, exists_served (by decide +kernel)⟩

theorem wit_ChargerRequestsComplete_4 : ∃ (r : Req)  (s u : State), admitOp { code := 0x0402, background := true } r s = .served u ∧ u.cstate ≠ 0 ∧ u.chgSwitching = true ∧ u.rampPower ≠ 0 :=
  ⟨(rqst 0x0402 []), charging, exists_served (by decide +kernel)⟩

theorem wit_ChargerRequestsComplete_5 : ∃ (r : Req)  (s u : State), admitOp { code := 0x0403 } r s = .served u :=
  ⟨(rqst 0x0403 []), host, exists_served0 (by decide +kernel)⟩

/-! ## Witnesses for ChargerEventsComplete -/

theorem wit_ChargerEventsComplete_1 : ∃ (t : Nat)  (ohm : Option Nat) (b : State) (s u : State), s.advance t = u ∧ 2 ≤ u.power ∧ u.countPp ohm = b :=
  ⟨0, some 680, _, host, _, rfl, by decide, rfl⟩

theorem wit_ChargerEventsComplete_2 : ∃ (t : Nat)  (highMv lowMv : Int) (osc : Bool) (duty : Vector Nat 8) (s u : State), s.advance t = u ∧ u.mainUp = true :=
  ⟨0, 9000, -12000, true, Vector.replicate 8 50000, host, _, rfl, by decide +kernel⟩

theorem wit_ChargerEventsComplete_3 : ∃ (t : Nat)  (m : GridMeas) (s u : State), s.advance t = u ∧ u.mainUp = true ∧ (u.cstate = 1 ∨ (u.cstate = 4 ∧ u.chgSwitching = false)) ∧ u.gridFit m = true ∧ u.getF F.CHG_QUAL * ticksPerMs ≤ m.held :=
  ⟨0, grid, (plugged.setF F.CHG_STAT_CSTATE 1), _, rfl, by decide +kernel⟩

theorem wit_ChargerEventsComplete_4 : ∃ (t : Nat)  (m : GridMeas) (s u : State), s.advance t = u ∧ u.mainUp = true ∧ (u.cstate = 1 ∨ u.cstate = 2 ∨ (u.cstate = 4 ∧ u.chgSwitching = false)) ∧ u.gridFit m = false :=
  ⟨0, {}, (plugged.setF F.CHG_STAT_CSTATE 2), _, rfl, by decide +kernel⟩

theorem wit_ChargerEventsComplete_5 : ∃ (t : Nat)  (vpfc peak : Rat) (held : Nat) (s u : State), s.advance t = u ∧ u.mainUp = true ∧ u.cstate = 2 ∧ u.getB F.CHG_STAT_QUALIFIED = true ∧ peak * (95 / 100) < vpfc ∧ 100 * ticksPerMs ≤ held :=
  ⟨0, 381, 400, 640000000, ((plugged.setF F.CHG_STAT_CSTATE 2).setF F.CHG_STAT_QUALIFIED 1), _, rfl, by decide +kernel⟩

theorem wit_ChargerEventsComplete_6 : ∃ (t : Nat)  (m : GridMeas) (c : Nat) (s u : State), s.advance t = u ∧ u.mainUp = true ∧ u.gridTrip m = c ∧ c ≠ 0 ∧ (u.cstate = 3 ∨ (u.cstate = 4 ∧ u.chgSwitching = true)) :=
  ⟨0, {}, 2, charging, _, rfl, by decide +kernel⟩

theorem wit_ChargerEventsComplete_7 : ∃ (t : Nat)  (m : GridMeas) (s u : State), s.advance t = u ∧ u.mainUp = true ∧ u.gridTrip m ≠ 0 ∧ (u.cstate = 1 ∨ u.cstate = 2) :=
  ⟨0, {}, plugged.setF F.CHG_STAT_CSTATE 2, _, rfl, by decide +kernel⟩

theorem wit_ChargerEventsComplete_8 : ∃ (t : Nat)  (m : GridMeas) (c : Nat) (s u : State), s.advance t = u ∧ u.mainUp = true ∧ u.gridTrip m = c ∧ c ≠ 0 ∧ u.cstate = 4 ∧ u.chgSwitching = false ∧ u.getF F.CHG_STAT_PAUSE = 1 :=
  ⟨0, {}, 2, (plugged.setF F.CHG_STAT_CSTATE 4).setF F.CHG_STAT_PAUSE 1, _, rfl, by decide +kernel⟩

theorem wit_ChargerEventsComplete_9 : ∃ (t : Nat)  (m : GridMeas) (s u : State), s.advance t = u ∧ u.mainUp = true ∧ u.cstate = 4 ∧ 2 ≤ u.getF F.CHG_STAT_PAUSE ∧ u.chgSwitching = false ∧ u.gridGood m = true ∧ u.getF F.CHG_GRIDT_RECONNECT_S * ticksPerS ≤ m.held :=
  ⟨0, grid, ((plugged.setF F.CHG_STAT_CSTATE 4).setF F.CHG_STAT_PAUSE 2), _, rfl, by decide +kernel⟩

theorem wit_ChargerEventsComplete_10 : ∃ (t : Nat)  (s u : State), s.advance t = u ∧ u.mainUp = true ∧ u.rampPower = 0 ∧ u.chg.zeroFor = 1 :=
  ⟨0, { host with chg := { host.chg with zeroFor := 1 } }, _, rfl, by decide +kernel⟩

theorem wit_ChargerEventsComplete_11 : ∃ (t : Nat)  (s u : State), s.advance t = u ∧ u.mainUp = true ∧ u.rampPower = 0 ∧ u.chg.zeroFor = 3 :=
  ⟨0, { host with chg := { host.chg with zeroFor := 3 } }, _, rfl, by decide +kernel⟩

theorem wit_ChargerEventsComplete_12 : ∃ (t : Nat)  (s u : State), s.advance t = u ∧ u.mainUp = true ∧ u.rampPower = 0 ∧ u.chg.zeroFor = 2 :=
  ⟨0, { host with chg := { host.chg with zeroFor := 2 } }, _, rfl, by decide +kernel⟩

theorem wit_ChargerEventsComplete_13 : ∃ (t : Nat)  (s u : State), s.advance t = u ∧ u.mainUp = true ∧ u.cstate ≠ 0 ∧ u.getB F.CHG_STAT_FALLBACK = false ∧ u.com.lastHeartbeat + 2 * ticksPerS ≤ u.now :=
  ⟨12800000000, host.setF F.CHG_STAT_CSTATE 1, _, rfl, by decide +kernel⟩

theorem wit_ChargerEventsComplete_14 : ∃ (t : Nat)  (a : State) (s u : State), s.advance t = u ∧ u.mainUp = true ∧ u.cstate ≠ 0 ∧ u.getB F.CHG_STAT_FALLBACK = true ∧ u.chg.zeroFor ≠ 3 ∧ u.chg.fallbackAt + 60 * ticksPerS ≤ u.now ∧ u.raise Flt.CHG_HOSTLESS_STOP {} = a :=
  ⟨384000000000, _, (host.setF F.CHG_STAT_CSTATE 1).setF F.CHG_STAT_FALLBACK 1, _, rfl, by decide +kernel, by decide +kernel, by decide +kernel, by decide, by decide, rfl⟩

theorem wit_ChargerEventsComplete_15 : ∃ (t : Nat)  (vbat : Rat) (held : Nat) (s u : State), s.advance t = u ∧ u.mainUp = true ∧ (u.cstate = 3 ∨ (u.cstate = 0 ∧ u.chgOpen = true)) ∧ u.vbatOut vbat = true ∧ 100 * ticksPerMs ≤ held :=
  ⟨0, -1, 640000000, charging, _, rfl, by decide +kernel⟩

theorem wit_ChargerEventsComplete_16 : ∃ (t : Nat)  (n : Fin 8) (run : Nat) (a : State) (s u : State), s.advance t = u ∧ u.mainUp = true ∧ 256 ≤ run ∧ (u.gzCh (64 + n.val)).flat = false ∧ u.xbFlat (64 + n.val) n = a :=
  ⟨0, 7, 256, _, host, _, rfl, by decide +kernel, by decide, by decide +kernel, rfl⟩

theorem wit_ChargerEventsComplete_17 : ∃ (t : Nat)  (intact : Bool) (i e : Nat) (s u : State), s.advance t = u ∧ u.witnessDue 2 = true ∧ floorNat u.chg.imp - u.wit.impSent = i ∧ floorNat u.chg.exp - u.wit.expSent = e :=
  ⟨6400000000, true, 0, 0, host, _, rfl, by decide +kernel⟩

/-! ## Witnesses for AuxRequestsComplete -/

theorem wit_AuxRequestsComplete_1 : ∃ (r : Req)  (s u : State), admitOp { code := 0x0500, lens := [1] } r s = .served u ∧ r.num 0 1 = 0 ∧ u.held 5 = false ∧ u.held 6 = false ∧ u.enableRefused = false ∧ u.vdcInside = true :=
  ⟨(rqst 0x0500 [0]), auxReady, exists_served (by decide +kernel)⟩

theorem wit_AuxRequestsComplete_2 : ∃ (r : Req)  (s u : State), admitOp { code := 0x0500, lens := [1] } r s = .served u ∧ r.num 0 1 = 1 ∧ u.held 5 = false ∧ u.held 6 = false ∧ u.enableRefused = false ∧ u.reverseRefused = false :=
  ⟨(rqst 0x0500 [1]), auxReady, exists_served (by decide +kernel)⟩

theorem wit_AuxRequestsComplete_3 : ∃ (r : Req)  (s u : State), admitOp { code := 0x0501, lens := [8] } r s = .served u ∧ u.auxReverse = false ∧ inRange (r.fl 0) 24 30 = true ∧ inRange (r.fl 4) 0 357 = true ∧ (u.holdOf r.session && decide (64 < u.heldWrites + 2)) = false :=
  ⟨(rqst 0x0501 [0x41, 0xF0, 0, 0, 0x43, 0xB2, 0x80, 0]), host, exists_served (by decide +kernel)⟩

theorem wit_AuxRequestsComplete_4 : ∃ (r : Req)  (s u : State), admitOp { code := 0x0501, lens := [8] } r s = .served u ∧ u.auxReverse = true ∧ (inRange (r.fl 0) 100 992 || F32.isZero (r.fl 0)) = true ∧ inRange (r.fl 4) 0 100 = true ∧ (u.holdOf r.session && decide (64 < u.heldWrites + 2)) = false :=
  ⟨(rqst 0x0501 [0x44, 0x78, 0, 0, 0x42, 0xC8, 0, 0]), host.setF F.AUX_STAT_ASTATE 6, exists_served (by decide +kernel)⟩

theorem wit_AuxRequestsComplete_5 : ∃ (r : Req)  (s u : State), admitOp { code := 0x0502 } r s = .served u ∧ u.astate = 0 :=
  ⟨(rqst 0x0502 []), host, exists_served (by decide +kernel)⟩

theorem wit_AuxRequestsComplete_6 : ∃ (r : Req)  (s u : State), admitOp { code := 0x0502 } r s = .served u ∧ u.astate ≠ 0 :=
  ⟨(rqst 0x0502 []), host.setF F.AUX_STAT_ASTATE 3, exists_served (by decide +kernel)⟩

theorem wit_AuxRequestsComplete_7 : ∃ (r : Req)  (s u : State), admitOp { code := 0x0503, level := 2, lens := [1] } r s = .served u ∧ 3 ≤ (bitsList 8 (Nat.land (r.num 0 1) (u.getF F.AUX_CFG_PRESENT))).length :=
  ⟨(rqst 0x0503 [7]), host.setF F.AUX_CFG_PRESENT 255, exists_served (by decide +kernel)⟩

/-! ## Witnesses for AuxEventsComplete -/

theorem wit_AuxEventsComplete_1 : ∃ (t : Nat)  (held : Nat) (s u : State), s.advance t = u ∧ u.mainUp = true ∧ u.auxForward = true ∧ u.aux.stopping = false ∧ (ticksPerMs ≤ held ∧ u.v48Out = true ∨ u.astate = 1 ∧ u.aux.startAt + 20 * ticksPerMs ≤ u.now) :=
  ⟨0, 6400000, host.setF F.AUX_STAT_ASTATE 3, _, rfl, by decide +kernel⟩

theorem wit_AuxEventsComplete_2 : ∃ (t : Nat)  (held : Nat) (s u : State), s.advance t = u ∧ u.mainUp = true ∧ (u.astate = 3 ∨ u.astate = 4) ∧ u.aux.stopping = false ∧ u.aux.outgoing = 0 ∧ u.shedUp held = true :=
  ⟨0, 6400000, shedding 2, _, rfl, by decide +kernel⟩

theorem wit_AuxEventsComplete_3 : ∃ (t : Nat)  (held : Nat) (s u : State), s.advance t = u ∧ u.mainUp = true ∧ (u.astate = 3 ∨ u.astate = 4) ∧ u.aux.stopping = false ∧ u.aux.outgoing = 0 ∧ u.shedUp held = false ∧ u.shedDown held = true :=
  ⟨0, 64000000, ((((host.setF F.AUX_STAT_ASTATE 3).setF F.AUX_STAT_REGULATED 1).setF F.AUX_STAT_AVAIL 255).setF F.AUX_CFG_SHED_EN 1).setF F.AUX_SHED_SHED1 100, _, rfl, by decide +kernel⟩

theorem wit_AuxEventsComplete_4 : ∃ (t : Nat)  (s u : State), s.advance t = u ∧ u.mainUp = true ∧ 2 ≤ u.astate ∧ u.astate ≤ 5 ∧ u.aux.stopping = false ∧ u.aux.rotAt + u.getF F.AUX_SHEDT_ROT_MS * ticksPerMs ≤ u.now :=
  ⟨6400000000, (host.setF F.AUX_STAT_ASTATE 3).setF F.AUX_STAT_LEVEL 1, _, rfl, by decide +kernel⟩

theorem wit_AuxEventsComplete_5 : ∃ (t : Nat)  (s u : State), s.advance t = u ∧ u.mainUp = true ∧ u.shedDue ≠ 0 :=
  ⟨64000000000, { host with aux := { host.aux with outgoing := 1 } }, _, rfl, by decide +kernel⟩

theorem wit_AuxEventsComplete_6 : ∃ (t : Nat)  (s u : State), s.advance t = u ∧ u.mainUp = true ∧ u.astate = 4 ∧ u.aux.burstIdle = true ∧ u.aux.stopping = false ∧ u.aux.burstAt + u.getF F.AUX_SHEDT_ROT_MS * ticksPerMs ≤ u.now :=
  ⟨6400000000, { (host.setF F.AUX_STAT_ASTATE 4) with aux := { host.aux with burstIdle := true } }, _, rfl, by decide +kernel⟩

theorem wit_AuxEventsComplete_7 : ∃ (t : Nat)  (held : Nat) (s u : State), s.advance t = u ∧ u.mainUp = true ∧ (u.astate = 2 ∨ u.astate = 3) ∧ u.getB F.AUX_STAT_REGULATED = false ∧ absRat (u.auxV - u.getQ F.AUX_VSET) ≤ u.getQ F.AUX_VSET / 100 ∧ ticksPerMs ≤ held :=
  ⟨0, 6400000, (auxReady.setF F.AUX_STAT_ASTATE 3), _, rfl, by decide +kernel⟩

theorem wit_AuxEventsComplete_8 : ∃ (t : Nat)  (ch : Fin 9) (mv held run : Nat) (s u : State), s.advance t = u ∧ u.mainUp = true ∧ ch.val < 8 ∧ 2700 < mv ∧ 64000 ≤ held :=
  ⟨0, 7, 2701, 64000, 0, host, _, rfl, by decide +kernel⟩

theorem wit_AuxEventsComplete_9 : ∃ (t : Nat)  (mv held run : Nat) (s u : State), s.advance t = u ∧ u.mainUp = true ∧ u.getB F.AUX_STAT_REMOTE_OK = true ∧ ((2700 < mv ∧ 64000 ≤ held) ∨ (3 ≤ run ∧ (u.getQ F.AUX_VOSMAX < absRat (u.fastQ 14 F.AUX_VOSSCALE) ∨ (u.gzCh 14).fastFlags % 2 = 0))) :=
  ⟨0, 0, 0, 3, host.setF F.AUX_STAT_REMOTE_OK 1, _, rfl, by decide +kernel⟩

theorem wit_AuxEventsComplete_10 : ∃ (t : Nat)  (held : Nat) (s u : State), s.advance t = u ∧ u.mainUp = true ∧ u.getB F.AUX_STAT_REGULATED = true ∧ u.vout < u.getQ F.AUX_VSET * 9 / 10 ∧ 10 * ticksPerMs ≤ held :=
  ⟨0, 64000000, (host.setF F.AUX_STAT_REGULATED 1).setF F.AUX_VSET 0x41D00000, _, rfl, by decide +kernel⟩

theorem wit_AuxEventsComplete_11 : ∃ (t : Nat)  (held : Nat) (s u : State), s.advance t = u ∧ u.mainUp = true ∧ u.getQ F.AUX_VSET * 23 / 20 < u.vout ∧ 640000 ≤ held :=
  ⟨0, 640000, auxReady.setF F.AUX_VSET 0, _, rfl, by decide +kernel⟩

theorem wit_AuxEventsComplete_12 : ∃ (t : Nat)  (s u : State), s.advance t = u ∧ u.mainUp = true ∧ u.aux.stopping = true ∧ (u.phasesQuiet = true ∨ u.aux.stopAt + ticksPerMs ≤ u.now) :=
  ⟨6400000, { host with aux := { host.aux with stopping := true } }, _, rfl, by decide +kernel⟩

theorem wit_AuxEventsComplete_13 : ∃ (t : Nat)  (held : Nat) (s u : State), s.advance t = u ∧ u.mainUp = true ∧ u.astate = 7 ∧ u.aux.stopping = false ∧ absRat (u.vdc - u.getQ F.AUX_PRE_VDC) ≤ u.getQ F.AUX_PRE_VDC / 100 ∧ 10 * ticksPerMs ≤ held :=
  ⟨0, 64000000, (host.setF F.AUX_STAT_ASTATE 7).setF F.AUX_PRE_VDC 0, _, rfl, by decide +kernel⟩

theorem wit_AuxEventsComplete_14 : ∃ (t : Nat)  (x : Nat) (s u : State), s.advance t = u ∧ u.aux.preAt = some x ∧ u.mainUp = true ∧ (u.astate = 6 ∨ u.astate = 7) ∧ u.aux.stopping = false ∧ x + u.getF F.AUX_PRE_TMAX * ticksPerMs ≤ u.now :=
  ⟨640000000000, 0, { (host.setF F.AUX_STAT_ASTATE 6) with aux := { host.aux with preAt := some 0 } }, _, rfl, by decide +kernel⟩

/-! ## Witnesses for ActuatorRequestsComplete -/

theorem wit_ActuatorRequestsComplete_1 : ∃ (r : Req)  (s u : State), admitOp { code := 0x0600, lens := [3] } r s = .served u ∧ r.num 0 1 < u.getF F.ACT_CFG_NPOS ∧ r.num 0 1 < 8 ∧ F32.isFinite (u.getFl (F.ACT_POS (r.num 0 1))) = true ∧ r.num 1 2 ≠ 0 ∧ u.held 7 = false ∧ u.shiftRefused = false :=
  ⟨(rqst 0x0600 [1, 1, 0]), actReady, exists_served (by decide +kernel)⟩

theorem wit_ActuatorRequestsComplete_2 : ∃ (r : Req)  (s u : State), admitOp { code := 0x0603, lens := [1] } r s = .served u ∧ r.num 0 1 ≤ 1 ∧ u.held (actStage (r.num 0 1 == 1)) = false ∧ u.homeRefused (r.num 0 1 == 1) = false :=
  ⟨(rqst 0x0603 [0]), actReady, exists_served (by decide +kernel)⟩

theorem wit_ActuatorRequestsComplete_3 : ∃ (r : Req)  (s u : State), admitOp { code := 0x0601 } r s = .served u ∧ u.held 8 = false ∧ u.actRefused true = false ∧ u.tooFast = false ∧ u.pstate = 3 :=
  ⟨(rqst 0x0601 []), (slow.setF F.ACT_STAT_PSTATE 3), exists_served (by decide +kernel)⟩

theorem wit_ActuatorRequestsComplete_4 : ∃ (r : Req)  (s u : State), admitOp { code := 0x0601 } r s = .served u ∧ u.held 8 = false ∧ u.actRefused true = false ∧ u.tooFast = false ∧ (u.pstate = 0 ∨ u.pstate = 1 ∨ u.pstate = 4) ∧ u.park.retry = false :=
  ⟨(rqst 0x0601 []), (slow.setF F.ACT_STAT_PSTATE 4), exists_served (by decide +kernel)⟩

theorem wit_ActuatorRequestsComplete_5 : ∃ (r : Req)  (s u : State), admitOp { code := 0x0601 } r s = .served u ∧ u.held 8 = false ∧ u.actRefused true = false ∧ u.tooFast = false ∧ (u.pstate = 2 ∨ u.pstate = 5) ∧ u.park.retry = false :=
  ⟨(rqst 0x0601 []), (slow.setF F.ACT_STAT_PSTATE 5), exists_served (by decide +kernel)⟩

theorem wit_ActuatorRequestsComplete_6 : ∃ (r : Req)  (s u : State), admitOp { code := 0x0601 } r s = .served u ∧ u.held 8 = false ∧ u.actRefused true = false ∧ u.tooFast = false ∧ u.pstate ≠ 3 ∧ u.pstate ≠ 7 ∧ (u.pstate = 6 ∨ u.park.retry = true) :=
  ⟨(rqst 0x0601 []), (slow.setF F.ACT_STAT_PSTATE 6), exists_served (by decide +kernel)⟩

theorem wit_ActuatorRequestsComplete_7 : ∃ (r : Req)  (s u : State), admitOp { code := 0x0602 } r s = .served u ∧ u.held 8 = false ∧ u.actRefused true = false ∧ u.pstate = 1 :=
  ⟨(rqst 0x0602 []), (slow.setF F.ACT_STAT_PSTATE 1), exists_served (by decide +kernel)⟩

theorem wit_ActuatorRequestsComplete_8 : ∃ (r : Req)  (s u : State), admitOp { code := 0x0602 } r s = .served u ∧ u.held 8 = false ∧ u.actRefused true = false ∧ (u.pstate = 0 ∨ u.pstate = 2 ∨ u.pstate = 3 ∨ u.pstate = 5 ∨ (u.pstate = 4 ∧ u.park.kind ≠ 1)) ∧ u.park.retry = false :=
  ⟨(rqst 0x0602 []), (slow.setF F.ACT_STAT_PSTATE 5), exists_served (by decide +kernel)⟩

theorem wit_ActuatorRequestsComplete_9 : ∃ (r : Req)  (s u : State), admitOp { code := 0x0602 } r s = .served u ∧ u.held 8 = false ∧ u.actRefused true = false ∧ u.pstate = 4 ∧ u.park.kind = 1 ∧ u.park.retry = false :=
  ⟨(rqst 0x0602 []), ({ slow with park := { slow.park with kind := 1 } }.setF F.ACT_STAT_PSTATE 4), exists_served (by decide +kernel)⟩

theorem wit_ActuatorRequestsComplete_10 : ∃ (r : Req)  (s u : State), admitOp { code := 0x0602 } r s = .served u ∧ u.held 8 = false ∧ u.actRefused true = false ∧ u.pstate ≠ 1 ∧ u.pstate ≠ 7 ∧ (u.pstate = 6 ∨ u.park.retry = true) :=
  ⟨(rqst 0x0602 []), (slow.setF F.ACT_STAT_PSTATE 6), exists_served (by decide +kernel)⟩

theorem wit_ActuatorRequestsComplete_11 : ∃ (r : Req)  (s u : State), admitOp { code := 0x0902, lens := [2] } r s = .served u ∧ idxNewer (r.num 0 2) (u.getF F.SLT_LOGIDX_NEWEST) = false ∧ (u.gate.latches.filter fun l => u.coversLatch (r.num 0 2) l && u.causeActive l).isEmpty = true :=
  ⟨(rqst 0x0902 [0, 0]), host.setF F.SLT_LOGIDX_NEWEST 0, exists_served (by decide +kernel)⟩

/-! ## Witnesses for ActuatorEventsComplete -/

theorem wit_ActuatorEventsComplete_1 : ∃ (t : Nat)  (park : Bool) (level : BitVec 3) (held : Nat) (s u : State), s.advance t = u ∧ u.mainUp = true ∧ 6400 ≤ held ∧ u.getF (hallField park) ≠ level.toNat :=
  ⟨0, true, 5, 6400, host, _, rfl, by decide +kernel⟩

theorem wit_ActuatorEventsComplete_2 : ∃ (t : Nat)  (park : Bool) (held : Nat) (s u : State), s.advance t = u ∧ u.mainUp = true ∧ (u.hallBad park held || u.hallSkips park) = true ∧ u.actInFault park = false :=
  ⟨0, true, 64000, host, _, rfl, by decide +kernel⟩

theorem wit_ActuatorEventsComplete_3 : ∃ (t : Nat)  (invalidRun held : Nat) (s u : State), s.advance t = u ∧ u.mainUp = true ∧ u.posBad invalidRun held = true ∧ u.actInFault false = false :=
  ⟨0, 3, 0, host, _, rfl, by decide +kernel⟩

theorem wit_ActuatorEventsComplete_4 : ∃ (t : Nat)  (at_ : Nat) (acc : Rat) (rest : List (Nat × Rat)) (s u : State), s.advance t = u ∧ u.shift.segs = (at_, acc) :: rest ∧ u.mainUp = true ∧ at_ ≤ u.now :=
  ⟨6400, 6400, 1, [], { host with shift := { host.shift with segs := [(6400, 1)] } }, _, rfl, by decide +kernel⟩

theorem wit_ActuatorEventsComplete_5 : ∃ (t : Nat)  (held : Nat) (s u : State), s.advance t = u ∧ u.mainUp = true ∧ u.shiftSettled held = true :=
  ⟨6400000000, 6400000000, { (host.setF F.ACT_STAT_SSTATE 2) with shift := { host.shift with kind := 1, target := 0 } }, _, rfl, by decide +kernel⟩

theorem wit_ActuatorEventsComplete_6 : ∃ (t : Nat)  (s u : State), s.advance t = u ∧ u.mainUp = true ∧ u.shiftLate = true :=
  ⟨6400, { (host.setF F.ACT_STAT_SSTATE 2) with shift := { host.shift with kind := 1, deadline := 6400 } }, _, rfl, by decide +kernel⟩

theorem wit_ActuatorEventsComplete_7 : ∃ (t : Nat)  (park : Bool) (s u : State), s.advance t = u ∧ u.mainUp = true ∧ (u.act park).ending.isSome = true :=
  ⟨0, true, { host with park := { host.park with ending := some 0 } }, _, rfl, by decide +kernel⟩

theorem wit_ActuatorEventsComplete_8 : ∃ (t : Nat)  (park : Bool) (iq : Rat) (s u : State), s.advance t = u ∧ u.mainUp = true ∧ u.atStop park iq = true :=
  ⟨320000000, true, 1000, { host with park := { host.park with kind := 2 } }, _, rfl, by decide +kernel⟩

theorem wit_ActuatorEventsComplete_9 : ∃ (t : Nat)  (park : Bool) (b : State) (s u : State), s.advance t = u ∧ u.mainUp = true ∧ u.homeLate park = true ∧ (u.raise Flt.ACT_HOME_FAIL { stages := 2 ^ actStage park }).motionEnding park = b :=
  ⟨32000000000, true, _, { host with park := { host.park with kind := 2 } }, _, rfl, by decide +kernel, by decide +kernel, rfl⟩

theorem wit_ActuatorEventsComplete_10 : ∃ (t : Nat)  (park : Bool) (iq : Rat) (held : Nat) (s u : State), s.advance t = u ∧ u.mainUp = true ∧ u.rotorStuck park iq held = true ∧ u.lockable park = true ∧ u.limitSameSlot park = false :=
  ⟨6400000000000, true, 1000, 6400000000000, { (host.setF F.ACT_STAT_PSTATE 2) with park := { host.park with kind := 1 } }, _, rfl, by decide +kernel⟩

theorem wit_ActuatorEventsComplete_11 : ∃ (t : Nat)  (park : Bool) (iq : Rat) (held : Nat) (s u : State), s.advance t = u ∧ u.mainUp = true ∧ u.rotorStuck park iq held = true ∧ u.limitSameSlot park = true :=
  ⟨6400000000000, false, 1000, 6400000000000, { host with shift := { host.shift with limitSlot := some 0, ending := some 0 } }, _, rfl, by decide +kernel⟩

theorem wit_ActuatorEventsComplete_12 : ∃ (t : Nat)  (park : Bool) (s u : State), s.advance t = u ∧ u.mainUp = true ∧ u.retryDue park = true :=
  ⟨6400000000000, false, (host.setF F.ACT_STAT_SSTATE 3), _, rfl, by decide +kernel⟩

theorem wit_ActuatorEventsComplete_13 : ∃ (t : Nat)  (held : Nat) (s u : State), s.advance t = u ∧ u.mainUp = true ∧ 20 * ticksPerMs ≤ held ∧ u.pstate ≠ 7 ∧ u.park.kind = 0 :=
  ⟨0, 128000000, host, _, rfl, by decide +kernel⟩

theorem wit_ActuatorEventsComplete_14 : ∃ (t : Nat)  (held : Nat) (s u : State), s.advance t = u ∧ u.mainUp = true ∧ 20 * ticksPerMs ≤ held ∧ u.pstate ≠ 7 ∧ u.pstate ≠ 6 ∧ u.park.kind = 1 ∧ u.park.ending = none ∧ u.restState ≠ 0 ∧ u.restState = (if u.park.target = 1 then 3 else 1) :=
  ⟨0, 128000000, { pawlFree with park := { host.park with kind := 1, target := 0 } }, _, rfl, by decide +kernel⟩

theorem wit_ActuatorEventsComplete_15 : ∃ (t : Nat)  (held : Nat) (s u : State), s.advance t = u ∧ u.mainUp = true ∧ u.park.kind = 0 ∧ u.pstate ≠ 7 ∧ u.getB F.ACT_STAT_SWITCH_OK = true ∧ u.xState ≠ u.switchState ∧ 100 * ticksPerMs ≤ held :=
  ⟨0, 640000000, ((host.setF F.ACT_PPOS_ENG 0x3F800000).setB F.ACT_STAT_SWITCH_OK true), _, rfl, by decide +kernel⟩

theorem wit_ActuatorEventsComplete_16 : ∃ (t : Nat)  (s u : State), s.advance t = u ∧ u.mainUp = true ∧ u.onTooth = true :=
  ⟨320000000, (({ host with park := { host.park with kind := 1 } }.setF F.ACT_PPOS_ENG 0x3F800000).setF F.ACT_STAT_PSTATE 2).setF F.ACT_PARK_TOOTH_LO 0, _, rfl, by decide +kernel⟩

theorem wit_ActuatorEventsComplete_17 : ∃ (t : Nat)  (s u : State), s.advance t = u ∧ u.mainUp = true ∧ u.pstate = 5 ∧ u.park.blockedAt + u.getF F.ACT_PARK_TOOTH_S * ticksPerS ≤ u.now :=
  ⟨6400000000000, (host.setF F.ACT_STAT_PSTATE 5), _, rfl, by decide +kernel⟩

theorem wit_ActuatorEventsComplete_18 : ∃ (t : Nat)  (s u : State), s.advance t = u ∧ u.mainUp = true ∧ u.park.kind = 1 ∧ u.park.ending = none ∧ (u.pstate = 2 ∨ u.pstate = 4) ∧ ticksPerS ≤ u.park.spent + (u.now - u.park.spentAt) :=
  ⟨6400000000, { (host.setF F.ACT_STAT_PSTATE 4) with park := { host.park with kind := 1 } }, _, rfl, by decide +kernel⟩

theorem wit_ActuatorEventsComplete_19 : ∃ (t : Nat)  (held : Nat) (v : Rat) (s u : State), s.advance t = u ∧ u.mainUp = true ∧ u.pstate = 3 ∧ u.vspd = some v ∧ 3 ≤ v ∧ ticksPerS ≤ held :=
  ⟨0, 6400000000, 8, { ((host.setF F.ACT_STAT_PSTATE 3).setF F.ACT_VSPD_HOST 0x41000000) with park := { host.park with hostAt := some 0 } }, _, rfl, by decide +kernel⟩

theorem wit_ActuatorEventsComplete_20 : ∃ (t : Nat)  (x : Nat) (s u : State), s.advance t = u ∧ u.park.hostAt = some x ∧ u.mainUp = true ∧ x + 200 * ticksPerMs ≤ u.now :=
  ⟨1280000000, 0, { host with park := { host.park with hostAt := some 0 } }, _, rfl, by decide +kernel⟩

/-! ## Witnesses for EngineRequestsComplete -/

theorem wit_EngineRequestsComplete_1 : ∃ (r : Req) (v : State) (s u : State), admitReq { code := 0x0700, level := 2 } (fun n => decide (10 ≤ n)) r s = .served u ∧ (r.num 0 1 = 14 ∨ r.num 0 1 = 15) ∧ u.power = pSTANDBY ∧ u.leMode (r.num 0 1) = 0 ∧ u.chunk 0x0700 (r.num 0 1) 16384 r.session (r.num 1 4) (r.num 5 4) (r.params.drop 9) = .more v := by
  let r : Req := rqst 0x0700 ([14, 0, 0, 0, 0, 0, 0, 0, 100, 1])
  obtain ⟨u, hu, hp⟩ := exists_served (a := admitReq { code := 0x0700, level := 2 } (fun n => decide (10 ≤ n)) (rqst 0x0700 ([14, 0, 0, 0, 0, 0, 0, 0, 100, 1])) host) (P := fun u => ((r.num 0 1 = 14 ∨ r.num 0 1 = 15) ∧ u.power = pSTANDBY ∧ u.leMode (r.num 0 1) = 0) ∧ isMore (u.chunk 0x0700 (r.num 0 1) 16384 r.session (r.num 1 4) (r.num 5 4) (r.params.drop 9)) = true) (by decide +kernel)
  obtain ⟨v, hv⟩ := more_of hp.2
  exact ⟨r, v, host, u, hu, hp.1.1, hp.1.2.1, hp.1.2.2, hv⟩

theorem wit_EngineRequestsComplete_2 : ∃ (r : Req) (v : State) (bytes : List Byte) (s u : State), admitReq { code := 0x0700, level := 2 } (fun n => decide (10 ≤ n)) r s = .served u ∧ (r.num 0 1 = 14 ∨ r.num 0 1 = 15) ∧ (u.power = pSTANDBY) ∧ (u.leMode (r.num 0 1) = 0) ∧ (u.chunk 0x0700 (r.num 0 1) 16384 r.session (r.num 1 4) (r.num 5 4) (r.params.drop 9) = .whole bytes v) ∧ (progHeaderOk bytes = true) := by
  let r : Req := rqst 0x0700 ([15] ++ beBytes 4 0 ++ beBytes 4 20 ++ demoProgram)
  obtain ⟨u, hu, hp⟩ := exists_served (a := admitReq { code := 0x0700, level := 2 } (fun n => decide (10 ≤ n)) (rqst 0x0700 ([15] ++ beBytes 4 0 ++ beBytes 4 20 ++ demoProgram)) host) (P := fun u => ((r.num 0 1 = 14 ∨ r.num 0 1 = 15) ∧ u.power = pSTANDBY ∧ u.leMode (r.num 0 1) = 0) ∧ wholeBytes (u.chunk 0x0700 (r.num 0 1) 16384 r.session (r.num 1 4) (r.num 5 4) (r.params.drop 9)) = some demoProgram) (by decide +kernel)
  obtain ⟨v, hv⟩ := whole_of hp.2
  exact ⟨r, v, demoProgram, host, u, hu, hp.1.1, hp.1.2.1, hp.1.2.2, hv, by decide +kernel⟩

theorem wit_EngineRequestsComplete_3 : ∃ (r : Req)  (s u : State), admitReq { code := 0x0701 } (fun n => decide (3 ≤ n) && n % 4 == 3) r s = .served u ∧ r.num 0 1 < 16 ∧ r.num 1 2 + (r.params.length - 3) / 4 ≤ 256 ∧ u.bit F.LE_BANK_PEND (r.num 0 1) = false :=
  ⟨(rqst 0x0701 [15, 0, 255, 1, 2, 3, 4]), host, exists_served (by decide +kernel)⟩

theorem wit_EngineRequestsComplete_4 : ∃ (r : Req)  (s u : State), admitOp { code := 0x0702, lens := [2] } r s = .served u ∧ (bitsList 16 (r.num 0 2)).any (fun e => u.bit F.LE_BANK_PEND e) = false ∧ ((bitsList 16 (r.num 0 2)).filter u.swapWaits).isEmpty = true :=
  ⟨(rqst 0x0702 [0x80, 1]), host, exists_served (by decide +kernel)⟩

theorem wit_EngineRequestsComplete_5 : ∃ (r : Req)  (s u : State), admitOp { code := 0x0702, lens := [2] } r s = .served u ∧ (bitsList 16 (r.num 0 2)).any (fun e => u.bit F.LE_BANK_PEND e) = false ∧ ((bitsList 16 (r.num 0 2)).filter u.swapWaits).isEmpty = false ∧ u.swapFar (bitsList 16 (r.num 0 2)) = true :=
  ⟨(rqst 0x0702 [8, 0]), ((host.setF (F.LE_MODE_MODE 11) 1).setF (F.LE_CFG_PACE 11) 3), exists_served (by decide +kernel)⟩

theorem wit_EngineRequestsComplete_6 : ∃ (r : Req)  (s u : State), admitOp { code := 0x0702, lens := [2] } r s = .served u ∧ (bitsList 16 (r.num 0 2)).any (fun e => u.bit F.LE_BANK_PEND e) = false ∧ ((bitsList 16 (r.num 0 2)).filter u.swapWaits).isEmpty = false ∧ u.swapFar (bitsList 16 (r.num 0 2)) = false :=
  ⟨(rqst 0x0702 [0x40, 0]), slotReady, exists_served (by decide +kernel)⟩

theorem wit_EngineRequestsComplete_7 : ∃ (r : Req)  (s u : State), admitOp { code := 0x0703, level := 2, lens := [2] } r s = .served u ∧ r.num 0 1 < 16 ∧ r.num 1 1 ≤ 2 ∧ u.modeRefused (r.num 0 1) (r.num 1 1) = false ∧ (bitsList 9 (u.getF (F.LE_CFG_STAGES (r.num 0 1)))).any (fun k => u.held k) = false :=
  ⟨(rqst 0x0703 [15, 0]), host, exists_served (by decide +kernel)⟩

theorem wit_EngineRequestsComplete_8 : ∃ (r : Req)  (s u : State), admitReq { code := 0x0704, level := 2 } (fun n => decide (3 ≤ n) && n % 4 == 3) r s = .served u ∧ r.num 0 1 < 16 ∧ r.num 1 2 + (r.params.length - 3) / 4 ≤ 1024 ∧ (reqWords r).any (fun w => !F32.isFinite w) = false :=
  ⟨(rqst 0x0704 [15, 3, 255, 0x3F, 0x80, 0, 0]), host, exists_served (by decide +kernel)⟩

/-! ## Witnesses for EngineEventsComplete -/

theorem wit_EngineEventsComplete_1 : ∃ (t : Nat)  (e : Fin 16) (m : SlotMeas) (ecc : Fin 3) (p : Nat) (a : State) (s u : State), s.advance t = u ∧ u.slotDue e = some p ∧ u.slotBegin e p = a ∧ a.leMode e ≠ 0 ∧ ecc ≠ 2 :=
  ⟨0, 14, {}, 0, 0, _, slotReady, _, rfl, by decide +kernel, rfl, by decide +kernel, by decide⟩

theorem wit_EngineEventsComplete_2 : ∃ (t : Nat)  (e : Fin 16) (m : SlotMeas) (p : Nat) (a : State) (s u : State), s.advance t = u ∧ u.slotDue e = some p ∧ u.slotBegin e p = a ∧ a.leMode e ≠ 0 :=
  ⟨0, 14, {}, 0, _, slotReady, _, rfl, by decide +kernel, rfl, by decide +kernel⟩

theorem wit_EngineEventsComplete_3 : ∃ (t : Nat)  (e : Fin 16) (m : SlotMeas) (ecc : Fin 3) (p : Nat) (a : State) (s u : State), s.advance t = u ∧ u.slotDue e = some p ∧ u.slotBegin e p = a ∧ a.leMode e = 0 :=
  ⟨0, 14, {}, 0, 0, _, slotReady.setEng 14 { slotReady.eng 14 with pendMode := some 0 }, _, rfl, by decide +kernel, rfl, by decide +kernel⟩

theorem wit_EngineEventsComplete_4 : ∃ (t : Nat)  (e : Fin 16) (s u : State), s.advance t = u ∧ u.mainUp = true ∧ u.background e = true ∧ (u.eng e).waitFine = true ∧ (u.eng e).waitAt / 655360 < u.battenTime / 655360 :=
  ⟨655360, 11, ((host.setEng 11 { host.eng 11 with waitFine := true }).setF (F.LE_MODE_MODE 11) 1).setF (F.LE_CFG_PACE 11) 3, _, rfl, by decide +kernel⟩

theorem wit_EngineEventsComplete_5 : ∃ (t : Nat)  (e : Fin 16) (s u : State), s.advance t = u ∧ (u.eng e).inSlot = true ∧ (u.eng e).posted = false ∧ (u.eng e).deadline < u.now :=
  ⟨101, 15, host.setEng 15 { host.eng 15 with inSlot := true, deadline := 100 }, _, rfl, by decide +kernel⟩

theorem wit_EngineEventsComplete_6 : ∃ (t : Nat)  (e : Fin 16) (s u : State), s.advance t = u ∧ (u.eng e).inSlot = true ∧ (u.nextDeadline e).any (fun d => decide (d ≤ u.now)) = true :=
  ⟨100, 0, host.setEng 0 { host.eng 0 with inSlot := true, pacings := [(0, 100)] }, _, rfl, by decide +kernel⟩

theorem wit_EngineEventsComplete_7 : ∃ (t : Nat)  (e : Fin 16) (s u : State), s.advance t = u ∧ u.mainUp = true ∧ u.getF (F.LE_SAT_SAT_LIM e) ≠ 0 ∧ u.getF (F.LE_SAT_SAT_LIM e) * ticksPerMs ≤ (u.eng e).satTicks ∧ (u.eng e).satDone = false :=
  ⟨0, 15, (host.setF (F.LE_SAT_SAT_LIM 15) 10).setEng 15 { host.eng 15 with satTicks := 64000000 }, _, rfl, by decide +kernel⟩

theorem wit_EngineEventsComplete_8 : ∃ (t : Nat)  (e : Fin 16) (s u : State), s.advance t = u ∧ u.mainUp = true ∧ u.getF (F.LE_FE_FE_LIM e) ≠ 0 ∧ u.getF (F.LE_FE_FE_LIM e) * ticksPerMs ≤ (u.eng e).feTicks ∧ (u.eng e).feDone = false :=
  ⟨0, 15, (host.setF (F.LE_FE_FE_LIM 15) 10).setEng 15 { host.eng 15 with feTicks := 64000000 }, _, rfl, by decide +kernel⟩

theorem wit_EngineEventsComplete_9 : ∃ (t : Nat)  (e : Fin 16) (d : Nat) (s u : State), (s.advance t).leDwell e = u ∧ (u.eng e).dwellSince = some d ∧ u.mainUp = true ∧ u.leMode e ≠ 0 ∧ d + u.getF (F.LE_DWELL_DWELL_LIM e) * 100 * ticksPerMs ≤ u.now ∧ (u.eng e).dwellDone = false :=
  ⟨64000000000, 0, 0, dwelling, _, rfl, by decide +kernel⟩

theorem wit_EngineEventsComplete_10 : ∃ (t : Nat)  (e : Fin 16) (w : LinkWait) (s u : State), s.advance t = u ∧ (u.eng e).wait = some w ∧ w.until_ ≤ u.now :=
  ⟨160, 3, { engine := 0, link := 0, flagReg := 0, since := 0, until_ := 160 }, host.setEng 3 { host.eng 3 with wait := some { engine := 0, link := 0, flagReg := 0, since := 0, until_ := 160 } }, _, rfl, by decide +kernel⟩

theorem wit_EngineEventsComplete_11 : ∃ (t : Nat)  (n : Fin 32) (e : Nat) (c : Carrier) (a : State) (vin : Rat) (s u : State), s.advance t = u ∧ u.ffEngine n = some e ∧ u.mainUp = true ∧ u.car (u.hbCar n) = c ∧ u.leMode e ≠ 0 ∧ c.running = true ∧ c.next ≤ u.now + 1088 ∧ u.ffPeriod e (c.next - c.offset) = a ∧ (u.comingCar (u.hbCar n)).hbMode n = 1 ∧ (a.eng e).ffStopped = false ∧ (a.eng e).vin = some vin :=
  ⟨0, 0, 0, _, _, 400, ffReady, _, rfl, by decide +kernel, by decide +kernel, rfl, by decide +kernel, by decide +kernel, by decide +kernel, rfl, by decide +kernel, by decide +kernel, by decide +kernel⟩

theorem wit_EngineEventsComplete_12 : ∃ (t : Nat)  (n : Fin 32) (e : Nat) (c : Carrier) (a : State) (s u : State), s.advance t = u ∧ u.ffEngine n = some e ∧ u.mainUp = true ∧ u.car (u.hbCar n) = c ∧ u.leMode e ≠ 0 ∧ c.running = true ∧ c.next ≤ u.now + 1088 ∧ u.ffPeriod e (c.next - c.offset) = a ∧ (u.comingCar (u.hbCar n)).hbMode n ≠ 1 :=
  ⟨0, 0, 0, _, _, (ffReady.setMode 0 0), _, rfl, by decide +kernel, by decide +kernel, rfl, by decide +kernel, by decide +kernel, by decide +kernel, rfl, by decide +kernel⟩

/-! ## Witnesses for EngineFloatInstructionsComplete -/

theorem wit_EngineFloatInstructionsComplete_1 : ∃  (e : Fin 16) (d x y : Fin 32) (u : State), u.executes e = true :=
  ⟨14, 1, 1, 1, (running host), by decide +kernel⟩

theorem wit_EngineFloatInstructionsComplete_2 : ∃  (e : Fin 16) (d x y : Fin 32) (u : State), u.executes e = true :=
  ⟨14, 1, 1, 1, (running host), by decide +kernel⟩

theorem wit_EngineFloatInstructionsComplete_3 : ∃  (e : Fin 16) (d x y : Fin 32) (u : State), u.executes e = true :=
  ⟨14, 1, 1, 1, (running host), by decide +kernel⟩

theorem wit_EngineFloatInstructionsComplete_4 : ∃  (e : Fin 16) (d x y : Fin 32) (u : State), u.executes e = true :=
  ⟨14, 1, 1, 1, (running host), by decide +kernel⟩

theorem wit_EngineFloatInstructionsComplete_5 : ∃  (e : Fin 16) (d x y z : Fin 32) (u : State), u.executes e = true :=
  ⟨14, 1, 1, 1, 1, (running host), by decide +kernel⟩

theorem wit_EngineFloatInstructionsComplete_6 : ∃  (e : Fin 16) (d x : Fin 32) (u : State), u.executes e = true :=
  ⟨14, 1, 1, (running host), by decide +kernel⟩

theorem wit_EngineFloatInstructionsComplete_7 : ∃  (e : Fin 16) (d x : Fin 32) (u : State), u.executes e = true :=
  ⟨14, 1, 1, (running host), by decide +kernel⟩

theorem wit_EngineFloatInstructionsComplete_8 : ∃  (e : Fin 16) (d x : Fin 32) (u : State), u.executes e = true :=
  ⟨14, 1, 1, (running host), by decide +kernel⟩

theorem wit_EngineFloatInstructionsComplete_9 : ∃  (e : Fin 16) (d x y : Fin 32) (u : State), F32.isNaN (u.leReg e x) = false ∧ F32.isNaN (u.leReg e y) = false ∧ F32.lt (u.leReg e x) (u.leReg e y) = true ∧ u.executes e = true :=
  ⟨14, 0, 1, 2, (running floats), by decide +kernel⟩

theorem wit_EngineFloatInstructionsComplete_10 : ∃  (e : Fin 16) (d x y : Fin 32) (u : State), F32.isNaN (u.leReg e x) = false ∧ F32.isNaN (u.leReg e y) = false ∧ F32.lt (u.leReg e x) (u.leReg e y) = false ∧ F32.lt (u.leReg e y) (u.leReg e x) = true ∧ u.executes e = true :=
  ⟨14, 0, 2, 1, (running floats), by decide +kernel⟩

theorem wit_EngineFloatInstructionsComplete_11 : ∃  (e : Fin 16) (d x y : Fin 32) (u : State), (F32.isNaN (u.leReg e x) || F32.isNaN (u.leReg e y)) = true ∧ u.executes e = true :=
  ⟨14, 0, 3, 1, (running floats), by decide +kernel⟩

theorem wit_EngineFloatInstructionsComplete_12 : ∃  (e : Fin 16) (d x y : Fin 32) (u : State), F32.isNaN (u.leReg e x) = false ∧ F32.isNaN (u.leReg e y) = false ∧ F32.lt (u.leReg e x) (u.leReg e y) = true ∧ u.executes e = true :=
  ⟨14, 0, 1, 2, (running floats), by decide +kernel⟩

theorem wit_EngineFloatInstructionsComplete_13 : ∃  (e : Fin 16) (d x y : Fin 32) (u : State), F32.isNaN (u.leReg e x) = false ∧ F32.isNaN (u.leReg e y) = false ∧ F32.lt (u.leReg e x) (u.leReg e y) = false ∧ F32.lt (u.leReg e y) (u.leReg e x) = true ∧ u.executes e = true :=
  ⟨14, 0, 2, 1, (running floats), by decide +kernel⟩

theorem wit_EngineFloatInstructionsComplete_14 : ∃  (e : Fin 16) (d x y : Fin 32) (u : State), (F32.isNaN (u.leReg e x) || F32.isNaN (u.leReg e y)) = true ∧ u.executes e = true :=
  ⟨14, 0, 3, 1, (running floats), by decide +kernel⟩

theorem wit_EngineFloatInstructionsComplete_15 : ∃  (e : Fin 16) (d x : Fin 32) (u : State), u.executes e = true :=
  ⟨14, 1, 1, (running host), by decide +kernel⟩

theorem wit_EngineFloatInstructionsComplete_16 : ∃ (e : Fin 16) (u : State), u.executes e = false := ⟨14, host, by decide +kernel⟩

/-! ## Witnesses for EngineConversionsComplete -/

theorem wit_EngineConversionsComplete_1 : ∃  (e : Fin 16) (q : QFmt) (d x y : Fin 32) (u : State), u.executes e = true :=
  ⟨14, .q131, 1, 1, 1, (running host), by decide +kernel⟩

theorem wit_EngineConversionsComplete_2 : ∃  (e : Fin 16) (q : QFmt) (d x y : Fin 32) (u : State), u.executes e = true :=
  ⟨14, .q131, 1, 1, 1, (running host), by decide +kernel⟩

theorem wit_EngineConversionsComplete_3 : ∃  (e : Fin 16) (q : QFmt) (d x y : Fin 32) (u : State), u.executes e = true :=
  ⟨14, .q131, 1, 1, 1, (running host), by decide +kernel⟩

theorem wit_EngineConversionsComplete_4 : ∃  (e : Fin 16) (q : QFmt) (d x : Fin 32) (u : State), u.executes e = true :=
  ⟨14, .q131, 1, 1, (running host), by decide +kernel⟩

theorem wit_EngineConversionsComplete_5 : ∃  (e : Fin 16) (q : QFmt) (d x : Fin 32) (u : State), F32.isFinite (u.leReg e x) = true ∧ u.executes e = true :=
  ⟨14, .q131, 0, 1, (running floats), by decide +kernel⟩

theorem wit_EngineConversionsComplete_6 : ∃  (e : Fin 16) (q : QFmt) (d x : Fin 32) (u : State), F32.isNaN (u.leReg e x) = false ∧ F32.isInf (u.leReg e x) = true ∧ u.executes e = true :=
  ⟨14, .q1616, 0, 4, (running floats), by decide +kernel⟩

theorem wit_EngineConversionsComplete_7 : ∃  (e : Fin 16) (q : QFmt) (d x : Fin 32) (u : State), F32.isNaN (u.leReg e x) = true ∧ u.executes e = true :=
  ⟨14, .q131, 0, 3, (running floats), by decide +kernel⟩

theorem wit_EngineConversionsComplete_8 : ∃  (e : Fin 16) (ds dc x : Fin 32) (u : State), u.executes e = true :=
  ⟨14, 1, 1, 1, (running host), by decide +kernel⟩

theorem wit_EngineConversionsComplete_9 : ∃  (e : Fin 16) (d y x : Fin 32) (u : State), u.executes e = true :=
  ⟨14, 1, 1, 1, (running host), by decide +kernel⟩

theorem wit_EngineConversionsComplete_10 : ∃  (e : Fin 16) (d : Fin 32) (ch : Fin 72) (fine : Bool) (w : Word) (u : State), u.leRead e (if fine then 0x48 + ch.val else ch.val) = w ∧ u.executes e = true :=
  ⟨14, 0, 71, true, 0, (running host), by decide +kernel⟩

theorem wit_EngineConversionsComplete_11 : ∃  (e : Fin 16) (d x : Fin 32) (v : Int) (u : State), F32.isFinite (u.leReg e x) = true ∧ roundRat (F32.toRat (u.leReg e x) * (u.getF (F.PWM_CAR_EFF (u.leCar e)) : Rat)) = v ∧ -(2 ^ 31) ≤ v ∧ v < 2 ^ 32 ∧ u.executes e = true :=
  ⟨14, 0, 1, 0, (running floats), by decide +kernel⟩

theorem wit_EngineConversionsComplete_12 : ∃  (e : Fin 16) (d x : Fin 32) (u : State), F32.isFinite (u.leReg e x) = false ∧ u.executes e = true :=
  ⟨14, 0, 4, (running floats), by decide +kernel⟩

theorem wit_EngineConversionsComplete_13 : ∃  (e : Fin 16) (d x : Fin 32) (p : Nat) (a b : F32) (u : State), (u.leReg e x).toNat = p ∧ (sparseFind (bitsOf p 31 22) (u.eng e).table).getD 0 = a ∧ (sparseFind ((bitsOf p 31 22 + 1) % 1024) (u.eng e).table).getD 0 = b ∧ u.executes e = true :=
  ⟨14, 0, 4, 0x7F800000, 0, 0, (running floats), by decide +kernel⟩

theorem wit_EngineConversionsComplete_14 : ∃  (e : Fin 16) (dh dl : Fin 32) (u : State), u.executes e = true :=
  ⟨14, 1, 1, (running host), by decide +kernel⟩

theorem wit_EngineConversionsComplete_15 : ∃  (e : Fin 16) (k : Fin 8) (d x : Fin 32) (coef : Fin 253) (out st : F32) (sat : Bool) (u : State), u.tracked e k = false ∧ piRule u.nan (u.bankWord e (coef.val + 0)) (u.bankWord e (coef.val + 1)) (u.bankWord e (coef.val + 2)) (u.bankWord e (coef.val + 3)) (u.leReg e x) ((u.eng e).pi.get k).state = (out, st, sat) ∧ u.executes e = true :=
  ⟨14, 7, 0, 1, 252, _, _, _, (running floats), by decide +kernel, rfl, by decide +kernel⟩

theorem wit_EngineConversionsComplete_16 : ∃  (e : Fin 16) (k : Fin 8) (d x : Fin 32) (coef : Fin 253) (m : F32) (u : State), u.tracked e k = true ∧ u.getFl (manReg e k) = m ∧ u.executes e = true :=
  ⟨14, 3, 0, 1, 0, 0, (((running floats)).setF (F.LE_MODE_MODE 14) 2).setF (F.LE_MODE_TRACK 14) 8, by decide +kernel⟩

theorem wit_EngineConversionsComplete_17 : ∃  (e : Fin 16) (k : Fin 8) (x : Fin 32) (u : State), u.executes e = true :=
  ⟨14, 0, 1, (running host), by decide +kernel⟩

theorem wit_EngineConversionsComplete_18 : ∃ (e : Fin 16) (u : State), u.executes e = false := ⟨14, host, by decide +kernel⟩

/-! ## Witnesses for EngineControlInstructionsComplete -/

theorem wit_EngineControlInstructionsComplete_1 : ∃  (e : Fin 16) (d : Fin 32) (a : LeAddr) (ecc : Fin 3) (v : State) (u : State), ecc ≠ 2 ∧ u.ecc e ecc = v ∧ u.executes e = true :=
  ⟨14, 0, .abs 2047, 1, _, (running host), by decide, rfl, by decide +kernel⟩

theorem wit_EngineControlInstructionsComplete_2 : ∃  (e : Fin 16) (d : Fin 32) (a : LeAddr) (u : State), u.executes e = true :=
  ⟨14, 1, .abs 0, (running host), by decide +kernel⟩

theorem wit_EngineControlInstructionsComplete_3 : ∃  (e : Fin 16) (d : Fin 32) (b : Fin 2048) (ecc : Fin 3) (v : State) (u : State), ecc ≠ 2 ∧ u.ecc e ecc = v ∧ u.executes e = true :=
  ⟨14, 0, 255, 1, _, (running host), by decide, rfl, by decide +kernel⟩

theorem wit_EngineControlInstructionsComplete_4 : ∃  (e : Fin 16) (d x : Fin 32) (b : Fin 2048) (ecc : Fin 3) (v : State) (u : State), ecc ≠ 2 ∧ u.ecc e ecc = v ∧ u.executes e = true :=
  ⟨14, 0, 1, 255, 0, _, (running host), by decide, rfl, by decide +kernel⟩

theorem wit_EngineControlInstructionsComplete_5 : ∃  (e : Fin 16) (d : Fin 32) (a : LeAddr) (u : State), u.executes e = true :=
  ⟨14, 1, .abs 0, (running host), by decide +kernel⟩

theorem wit_EngineControlInstructionsComplete_6 : ∃  (e : Fin 16) (x : Fin 32) (a : LeAddr) (k : Nat) (h : Engine) (u : State), leAddress (u.eng e) a = k ∧ (if leWritable k then (u.eng e).putMem k ((u.eng e).reg x) else u.eng e) = h ∧ u.executes e = true :=
  ⟨14, 0, .abs 256, _, _, (running host), rfl, rfl, by decide +kernel⟩

theorem wit_EngineControlInstructionsComplete_7 : ∃  (e : Fin 16) (k : Fin 16) (x : Fin 32) (v : State) (u : State), u.putLink e k (u.leReg e x) = v ∧ u.executes e = true :=
  ⟨14, 15, 0, _, (running host), rfl, by decide +kernel⟩

theorem wit_EngineControlInstructionsComplete_8 : ∃  (e : Fin 16) (d df : Fin 32) (src k : Fin 16) (u : State), u.executes e = true :=
  ⟨14, 1, 1, 14, 14, (running host), by decide +kernel⟩

theorem wit_EngineControlInstructionsComplete_9 : ∃  (e : Fin 16) (df : Fin 32) (src k : Fin 16) (cycles : Nat) (u : State), u.fresh e src k = true ∧ u.executes e = true :=
  ⟨14, 0, 15, 3, 0, (running linked), by decide +kernel⟩

theorem wit_EngineControlInstructionsComplete_10 : ∃  (e : Fin 16) (df : Fin 32) (src k : Fin 16) (cycles : Nat) (u : State), u.fresh e src k = false ∧ cycles = 0 ∧ u.executes e = true :=
  ⟨14, 0, 15, 3, 0, (running host), by decide +kernel⟩

theorem wit_EngineControlInstructionsComplete_11 : ∃  (e : Fin 16) (df : Fin 32) (src k : Fin 16) (cycles : Nat) (u : State), u.fresh e src k = false ∧ cycles ≠ 0 ∧ u.executes e = true :=
  ⟨14, 0, 15, 3, 1, (running host), by decide +kernel⟩

theorem wit_EngineControlInstructionsComplete_12 : ∃  (e : Fin 16) (taken : Bool) (target : Fin 4096) (u : State), (taken && decide ((u.eng e).pc < target.val)) = true ∧ u.executes e = true :=
  ⟨14, true, 1, (running host), by decide +kernel⟩

theorem wit_EngineControlInstructionsComplete_13 : ∃  (e : Fin 16) (taken : Bool) (target : Fin 4096) (u : State), (taken && decide ((u.eng e).pc < target.val)) = false ∧ u.executes e = true :=
  ⟨14, true, 0, (running host), by decide +kernel⟩

theorem wit_EngineControlInstructionsComplete_14 : ∃  (e : Fin 16) (count : Nat) (last : Fin 4096) (g : Engine) (u : State), u.eng e = g ∧ 1 ≤ count ∧ count ≤ 4096 ∧ g.loops.length < 4 ∧ g.pc < last.val ∧ u.executes e = true :=
  ⟨14, 4096, 1, _, (running host), rfl, by decide, by decide, by decide, by decide, by decide +kernel⟩

theorem wit_EngineControlInstructionsComplete_15 : ∃  (e : Fin 16) (v : State) (u : State), u.loopPost e = v ∧ u.executes e = true :=
  ⟨14, _, (running host), rfl, by decide +kernel⟩

theorem wit_EngineControlInstructionsComplete_16 : ∃  (e : Fin 16) (v : State) (u : State), u.loopPost e = v ∧ u.executes e = true :=
  ⟨14, _, (running host), rfl, by decide +kernel⟩

theorem wit_EngineControlInstructionsComplete_17 : ∃  (e : Fin 16) (alt : Bool) (u : State), u.executes e = true :=
  ⟨14, true, (running host), by decide +kernel⟩

theorem wit_EngineControlInstructionsComplete_18 : ∃  (e : Fin 16) (v : State) (u : State), (u.setF (F.LE_EXEC e) (u.eng e).cycles).setF (F.LE_PEAK e) (max (u.eng e).cycles (u.getF (F.LE_PEAK e))) = v ∧ u.executes e = true :=
  ⟨14, _, (running host), rfl, by decide +kernel⟩

theorem wit_EngineControlInstructionsComplete_19 : ∃ (e : Fin 16) (u : State), u.executes e = false := ⟨14, host, by decide +kernel⟩

/-! ## Witnesses for GauzeRequestsComplete -/

theorem wit_GauzeRequestsComplete_1 : ∃ (r : Req)  (s u : State), admitOp { code := 0x0801, background := true, lens := [9] } r s = .served u ∧ r.num 0 1 < 72 ∧ (r.num 1 8 = 0 ∨ (u.battenTime + u.injectLead (r.num 0 1) ≤ r.num 1 8 ∧ r.num 1 8 ≤ u.battenTime + 10 * ticksPerS)) ∧ u.injectBusy (r.num 0 1) = false :=
  ⟨(rqst 0x0801 ([71] ++ beBytes 8 64000000000)), host, exists_served (by decide +kernel)⟩

theorem wit_GauzeRequestsComplete_2 : ∃ (r : Req)  (s u : State), admitOp { code := 0x0802, level := 2, lens := [9] } r s = .served u ∧ r.num 0 9 < 2 ^ 64 ∧ u.power = pSTANDBY ∧ u.gz.cal.isSome = false ∧ (u.gz.injections.any fun i => bitAt (r.num 0 9) i.ch) = false :=
  ⟨(rqst 0x0802 [0, 0x80, 0, 0, 0, 0, 0, 0, 1]), host, exists_served (by decide +kernel)⟩

theorem wit_GauzeRequestsComplete_3 : ∃ (r : Req)  (s u : State), admitOp { code := 0x0802, level := 2, lens := [9] } r s = .served u ∧ r.num 0 9 < 2 ^ 64 ∧ u.power = pSTANDBY ∧ u.gz.cal.isSome = false ∧ (u.gz.injections.any fun i => bitAt (r.num 0 9) i.ch) = true :=
  ⟨(rqst 0x0802 [0, 0x80, 0, 0, 0, 0, 0, 0, 1]), injecting, exists_served (by decide +kernel)⟩

theorem wit_GauzeRequestsComplete_4 : ∃ (r : Req)  (s u : State), admitOp { code := 0x0803, lens := [2] } r s = .served u ∧ r.num 0 1 < 72 ∧ r.num 1 1 ≤ 2 :=
  ⟨(rqst 0x0803 [71, 2]), host, exists_served (by decide +kernel)⟩

/-! ## Witnesses for GauzeEventsComplete -/

theorem wit_GauzeEventsComplete_1 : ∃ (t : Nat)  (n : Fin 72) (code : Code24) (v : State) (o : GzOut) (s u : State), s.advance t = u ∧ u.compWord n code.toNat = some (v, o) :=
  by
  obtain ⟨⟨v, o⟩, h⟩ := Option.isSome_iff_exists.1 (show ((sampling.advance 64000000).compWord 0 5).isSome = true by decide +kernel)
  exact ⟨64000000, 0, 5, v, o, sampling, _, rfl, h⟩

theorem wit_GauzeEventsComplete_2 : ∃ (t : Nat)  (n : Fin 72) (x : FastMeas) (v : State) (o : GzOut) (s u : State), s.advance t = u ∧ (u.fastBoundary n).fastWord n x.code.toNat x.samples = (v, some o) :=
  by
  obtain ⟨o, h⟩ := Option.isSome_iff_exists.1 (show (((sampling.advance 64000000).fastBoundary 0).fastWord 0 5 []).2.isSome = true by decide +kernel)
  exact ⟨64000000, 0, ⟨5, []⟩, _, o, sampling, _, rfl, Prod.ext rfl h⟩

theorem wit_GauzeEventsComplete_3 : ∃ (t : Nat)  (n : Fin 72) (x : FastMeas) (v : State) (s u : State), s.advance t = u ∧ (u.fastBoundary n).fastWord n x.code.toNat x.samples = (v, none) :=
  by
  have h := Option.isNone_iff_eq_none.1 (show (((host.advance 0).fastBoundary 71).fastWord 71 5 []).2.isNone = true by decide +kernel)
  exact ⟨0, 71, ⟨5, []⟩, _, host, _, rfl, Prod.ext rfl h⟩

theorem wit_GauzeEventsComplete_4 : ∃ (t : Nat)  (n : Fin 72) (code : Code24) (dev : Vector Int 4) (dieT : Int) (v : State) (o : GzOut) (s u : State), s.advance t = u ∧ (u.fineBoundary n).fineWord n code.toNat = (v, some o) :=
  by
  obtain ⟨o, h⟩ := Option.isSome_iff_exists.1 (show (((sampling.advance 64000000).fineBoundary 0).fineWord 0 5).2.isSome = true by decide +kernel)
  exact ⟨64000000, 0, 5, Vector.replicate 4 0, 250, _, o, sampling, _, rfl, Prod.ext rfl h⟩

theorem wit_GauzeEventsComplete_5 : ∃ (t : Nat)  (n : Fin 72) (x : SlotConv) (v : State) (p : GzPath) (o : GzOut) (s u : State), s.advance t = u ∧ (u.slotBoundary n).slotWord n x.code.toNat = (v, some (p, o)) :=
  by
  obtain ⟨⟨p, o⟩, h⟩ := Option.isSome_iff_exists.1 (show (((slotting.advance 64000000).slotBoundary 0).slotWord 0 5).2.isSome = true by decide +kernel)
  exact ⟨64000000, 0, ⟨5, Vector.replicate 4 0, 250⟩, _, p, o, slotting, _, rfl, Prod.ext rfl h⟩

theorem wit_GauzeEventsComplete_6 : ∃ (t : Nat)  (n : Fin 72) (up : Bool) (s u : State), s.advance t = u ∧ u.gzUp = true ∧ n.val < 64 ∧ u.gzMode n ≠ 0 :=
  ⟨0, 63, true, host.setF (F.GZ_CH_CFG_MODE 63) 1, _, rfl, by decide +kernel⟩

theorem wit_GauzeEventsComplete_7 : ∃ (t : Nat)  (n : Fin 72) (s u : State), s.advance t = u ∧ u.gzUp = true ∧ (u.gzCh n).ovrIn = true :=
  ⟨0, 71, host.setGzCh 71 { host.gzCh 71 with ovrIn := true }, _, rfl, by decide +kernel⟩

theorem wit_GauzeEventsComplete_8 : ∃ (t : Nat)  (group : Fin 4) (s u : State), s.advance t = u ∧ u.gzUp = true ∧ u.groupOff group = false ∧ u.refDue group = true :=
  ⟨0, 3, host.setF (F.GZ_CH_CFG_MODE 31) 1, _, rfl, by decide +kernel⟩

theorem wit_GauzeEventsComplete_9 : ∃ (t : Nat)  (n : Fin 72) (code : Code24) (i : Injection) (s u : State), s.advance t = u ∧ (u.gz.injections.find? fun j => j.ch == n.val) = some i ∧ u.mainUp = true ∧ i.due ≤ u.battenTime :=
  ⟨1638400, 0, 5, demoInjection, injecting, _, rfl, by decide +kernel⟩

theorem wit_GauzeEventsComplete_10 : ∃ (t : Nat)  (c : Calibration) (s u : State), s.advance t = u ∧ u.gz.cal = some c ∧ u.mainUp = true ∧ c.waiting = true ∧ c.startAt ≠ 0 ∧ c.startAt ≤ u.battenTime :=
  ⟨655360, ⟨1, true, 655360⟩, { host with gz := { host.gz with cal := some ⟨1, true, 655360⟩ } }, _, rfl, by decide +kernel⟩

theorem wit_GauzeEventsComplete_11 : ∃ (t : Nat)  (results : List (Nat × Int × Int)) (c : Calibration) (s u : State), s.advance t = u ∧ u.gz.cal = some c ∧ u.mainUp = true ∧ c.waiting = false ∧ c.startAt + 15073280 ≤ u.now :=
  ⟨15728640, [], ⟨1, false, 655360⟩, { host with gz := { host.gz with cal := some ⟨1, false, 655360⟩ } }, _, rfl, by decide +kernel⟩

/-! ## Witnesses for RidgeSupplyEventsComplete -/

theorem wit_RidgeSupplyEventsComplete_1 : ∃ (t : Nat)  (mv held : Nat) (s u : State), s.advance t = u ∧ u.rdg.mode = .running ∧ mv < 6500 ∧ 50 * ticksPerUs ≤ held :=
  ⟨0, 6499, 320000, host, _, rfl, by decide +kernel⟩

theorem wit_RidgeSupplyEventsComplete_2 : ∃ (t : Nat)  (mv held : Nat) (s u : State), s.advance t = u ∧ u.rdg.mode ≠ .running ∧ 7500 < mv ∧ 10 * ticksPerMs ≤ held :=
  ⟨0, 7501, 64000000, host.ridgeHandover, _, rfl, by decide +kernel⟩

theorem wit_RidgeSupplyEventsComplete_3 : ∃ (t : Nat)  (start stop count last : Nat) (s u : State), s.advance t = u ∧ u.rdg.short = some (start, stop, count, last) ∧ u.rdg.lossAt = none ∧ last + 60 * ticksPerS ≤ u.now :=
  ⟨384000000000, 5, 5, 1, 0, host.setR { host.rdg with short := some (5, 5, 1, 0) }, _, rfl, by decide +kernel⟩

theorem wit_RidgeSupplyEventsComplete_4 : ∃ (t : Nat)  (s u : State), s.advance t = u ∧ (u.rdg.mode = .retention ∨ u.rdg.rtcStopped = true ∨ u.rdg.alive = false) :=
  ⟨0, host.setR { host.rdg with rtcStopped := true }, _, rfl, by decide +kernel⟩

theorem wit_RidgeSupplyEventsComplete_5 : ∃ (t : Nat)  (s u : State), s.advance t = u ∧ (u.rdg.mode = .retention ∨ u.rdg.rtcStopped = true ∨ u.rdg.alive = false) ∧ u.rdg.bkpGone = false :=
  ⟨0, host.setR { host.rdg with rtcStopped := true }, _, rfl, by decide +kernel⟩

theorem wit_RidgeSupplyEventsComplete_6 : ∃ (t : Nat)  (s u : State), s.advance t = u ∧ u.rdg.mode = .woken ∧ max u.rdg.wokenAt (u.rdg.lastPulse.getD 0) + 60 * ticksPerS ≤ u.now :=
  ⟨384000000000, host.setR { host.rdg with mode := .woken }, _, rfl, by decide +kernel⟩

theorem wit_RidgeSupplyEventsComplete_7 : ∃ (t : Nat)  (limit : Nat) (s u : State), s.advance t = u ∧ u.rdg.lockoutUntil = some limit ∧ limit ≤ u.now :=
  ⟨64, 64, host.setR { host.rdg with lockoutUntil := some 64 }, _, rfl, by decide +kernel⟩

theorem wit_RidgeSupplyEventsComplete_8 : ∃ (t : Nat)  (s u : State), s.advance t = u ∧ u.rdg.sealed ≠ 2 ∧ u.rdg.rtcStopped = false :=
  ⟨0, host, _, rfl, by decide +kernel⟩

theorem wit_RidgeSupplyEventsComplete_9 : ∃ (t : Nat)  (s u : State), s.advance t = u ∧ u.rdg.sealed ≠ 2 ∧ u.rdg.rtcStopped = true :=
  ⟨0, host.setR { host.rdg with rtcStopped := true }, _, rfl, by decide +kernel⟩

/-! ## Witnesses for RidgeMeasurementComplete -/

theorem wit_RidgeMeasurementComplete_1 : ∃ (t : Nat)  (v : State) (s u : State), s.advance t = u ∧ v = (if u.rdg.mode = .retention ∧ u.rdg.bkpGone = false then u.qpStart .woken else u) ∧ v.qpOn = true :=
  ⟨0, host, host, _, rfl, by decide +kernel⟩

theorem wit_RidgeMeasurementComplete_2 : ∃ (t : Nat)  (codes : Vector Code24 6) (s u : State), s.advance t = u ∧ u.qpRunning = true :=
  ⟨0, Vector.replicate 6 0x800000, host, _, rfl, by decide +kernel⟩

theorem wit_RidgeMeasurementComplete_3 : ∃ (t : Nat)  (s u : State), s.advance t = u ∧ u.qpOn = true ∧ u.rdg.curSec < u.rdgTime :=
  ⟨6400000000, host, _, rfl, by decide +kernel⟩

theorem wit_RidgeMeasurementComplete_4 : ∃ (t : Nat)  (s u : State), s.advance t = u ∧ u.qpOn = true ∧ u.rdg.curMin < u.rdgTime / 60 :=
  ⟨384000000000, host, _, rfl, by decide +kernel⟩

theorem wit_RidgeMeasurementComplete_5 : ∃ (t : Nat)  (s u : State), s.advance t = u ∧ u.qpOn = true ∧ u.rdg.curQuarter < u.rdgTime / 900 :=
  ⟨5760000000000, host, _, rfl, by decide +kernel⟩

theorem wit_RidgeMeasurementComplete_7 : ∃ (t : Nat)  (d : RdgDay) (l : List RdgDay) (s u : State), s.advance t = u ∧ u.rdg.closed = d :: l ∧ u.qpRunning = true ∧ u.rdg.keysErased = false :=
  ⟨0, _, [], host.closeDay false, _, rfl, rfl, by decide +kernel, by decide +kernel⟩

theorem wit_RidgeMeasurementComplete_8 : ∃ (t : Nat)  (field : Nat) (s u : State), s.advance t = u ∧ u.qpRunning = true ∧ 100 < field :=
  ⟨0, 101, host, _, rfl, by decide +kernel⟩

theorem wit_RidgeMeasurementComplete_9 : ∃ (t : Nat)  (field : Nat) (s u : State), s.advance t = u ∧ u.qpRunning = true ∧ field ≤ 100 :=
  ⟨0, 100, host, _, rfl, by decide +kernel⟩

theorem wit_RidgeMeasurementComplete_10 : ∃ (t : Nat)  (mv : Int) (s u : State), s.advance t = u ∧ u.qpRunning = true ∧ 1000 < mv :=
  ⟨0, 1001, host, _, rfl, by decide +kernel⟩

theorem wit_RidgeMeasurementComplete_11 : ∃ (t : Nat)  (mv : Int) (s u : State), s.advance t = u ∧ u.qpRunning = true ∧ mv ≤ 1000 :=
  ⟨0, 1000, host, _, rfl, by decide +kernel⟩

theorem wit_RidgeMeasurementComplete_12 : ∃ (t : Nat)  (n : Fin 8) (run : Nat) (on : Bool) (s u : State), s.advance t = u ∧ decide (1024 ≤ run) = on ∧ u.qpRunning = true ∧ u.mbUsed n.val = true ∧ bitAt u.rdg.mbLoss n.val = !on :=
  ⟨0, 5, 1024, true, host, _, rfl, by decide +kernel⟩

theorem wit_RidgeMeasurementComplete_13 : ∃ (t : Nat)  (n : Fin 8) (span : Nat) (on : Bool) (s u : State), s.advance t = u ∧ decide (span < 4) = on ∧ u.qpRunning = true ∧ u.mbUsed n.val = true ∧ bitAt u.rdg.mbFlat n.val = !on :=
  ⟨0, 5, 4, false, host.setR { host.rdg with mbFlat := 32 }, _, rfl, by decide +kernel⟩

/-! ## Witnesses for WitnessAndMirrorEventsComplete -/

theorem wit_WitnessAndMirrorEventsComplete_1 : ∃ (t : Nat)  (s u : State), s.advance t = u ∧ u.witnessDue 0 = true ∧ u.qpOn = true :=
  ⟨640000000, host, _, rfl, by decide +kernel⟩

theorem wit_WitnessAndMirrorEventsComplete_2 : ∃ (t : Nat)  (s u : State), s.advance t = u ∧ u.witnessDue 0 = true ∧ u.qpOn = true :=
  ⟨640000000, host, _, rfl, by decide +kernel⟩

theorem wit_WitnessAndMirrorEventsComplete_3 : ∃ (t : Nat)  (b : Bool) (s u : State), s.advance t = u ∧ u.witnessDue 0 = true ∧ u.qpOn = false :=
  ⟨640000000, true, { (host) with rdg := { (host).rdg with alive := false } }, _, rfl, by decide +kernel⟩

theorem wit_WitnessAndMirrorEventsComplete_4 : ∃ (t : Nat)  (s u : State), s.advance t = u ∧ u.witnessDue 1 = true ∧ u.qpOn = true :=
  ⟨640000000, host, _, rfl, by decide +kernel⟩

theorem wit_WitnessAndMirrorEventsComplete_5 : ∃ (t : Nat)  (s u : State), s.advance t = u ∧ u.witnessDue 1 = true ∧ u.qpOn = true :=
  ⟨640000000, host, _, rfl, by decide +kernel⟩

theorem wit_WitnessAndMirrorEventsComplete_6 : ∃ (t : Nat)  (b : Bool) (s u : State), s.advance t = u ∧ u.witnessDue 1 = true ∧ u.qpOn = false :=
  ⟨640000000, true, { (host) with rdg := { (host).rdg with alive := false } }, _, rfl, by decide +kernel⟩

theorem wit_WitnessAndMirrorEventsComplete_7 : ∃ (t : Nat)  (b : Bool) (s u : State), s.advance t = u ∧ u.witnessDue 1 = true :=
  ⟨640000000, true, host, _, rfl, by decide +kernel⟩

theorem wit_WitnessAndMirrorEventsComplete_8 : ∃ (t : Nat)  (a w : Nat) (rest : List (Nat × Nat)) (s u : State), s.advance t = u ∧ u.wit.notices = (a, w) :: rest ∧ u.qpOn = true :=
  ⟨0, 0x7800, 1, [], { host with wit := { host.wit with notices := [(0x7800, 1)] } }, _, rfl, by decide +kernel⟩

theorem wit_WitnessAndMirrorEventsComplete_9 : ∃ (t : Nat)  (a w : Nat) (rest : List (Nat × Nat)) (s u : State), s.advance t = u ∧ u.wit.notices = (a, w) :: rest ∧ u.qpOn = true :=
  ⟨0, 0x7800, 1, [], { host with wit := { host.wit with notices := [(0x7800, 1)] } }, _, rfl, by decide +kernel⟩

theorem wit_WitnessAndMirrorEventsComplete_10 : ∃ (t : Nat)  (a w : Nat) (rest : List (Nat × Nat)) (b : Bool) (s u : State), s.advance t = u ∧ u.wit.notices = (a, w) :: rest ∧ u.qpOn = false :=
  ⟨0, 0x7800, 1, [], true, { ({ host with wit := { host.wit with notices := [(0x7800, 1)] } }) with rdg := { ({ host with wit := { host.wit with notices := [(0x7800, 1)] } }).rdg with alive := false } }, _, rfl, by decide +kernel⟩

theorem wit_WitnessAndMirrorEventsComplete_11 : ∃ (t : Nat)  (s u : State), s.advance t = u ∧ u.power = pSLEEP ∧ u.pwr.boot = none ∧ u.qpOn = true :=
  ⟨0, host.setF F.PWR_STATE_STATE 2, _, rfl, by decide +kernel⟩

theorem wit_WitnessAndMirrorEventsComplete_12 : ∃ (t : Nat)  (s u : State), s.advance t = u ∧ u.power = pSLEEP ∧ u.pwr.boot = none ∧ u.qpOn = true :=
  ⟨0, host.setF F.PWR_STATE_STATE 2, _, rfl, by decide +kernel⟩

theorem wit_WitnessAndMirrorEventsComplete_13 : ∃ (t : Nat)  (b : Bool) (s u : State), s.advance t = u ∧ u.power = pSLEEP ∧ u.pwr.boot = none ∧ u.qpOn = false :=
  ⟨0, true, { (host.setF F.PWR_STATE_STATE 2) with rdg := { (host.setF F.PWR_STATE_STATE 2).rdg with alive := false } }, _, rfl, by decide +kernel⟩

theorem wit_WitnessAndMirrorEventsComplete_14 : ∃ (t : Nat)  (h : Nat) (s u : State), s.advance t = u ∧ u.rdg.hbAt = some h ∧ u.qpOn = true ∧ u.rdg.witLost = false ∧ max h u.rdg.angleAt + ticksPerS ≤ u.now :=
  ⟨6400000000, 0, host.setR { host.rdg with hbAt := some 0 }, _, rfl, by decide +kernel⟩

theorem wit_WitnessAndMirrorEventsComplete_15 : ∃ (t : Nat)  (f : Forward) (rest : List Forward) (s u : State), s.advance t = u ∧ u.wit.forwards = f :: rest ∧ u.mainUp = true ∧ u.qpOn = true ∧ u.now < f.since + 18 * ticksPerMs :=
  ⟨115199999, ⟨spiTicket, [], 0⟩, [], { host with wit := { host.wit with forwards := [⟨spiTicket, [], 0⟩] } }, _, rfl, by decide +kernel⟩

theorem wit_WitnessAndMirrorEventsComplete_16 : ∃ (t : Nat)  (f : Forward) (rest : List Forward) (s u : State), s.advance t = u ∧ u.wit.forwards = f :: rest ∧ u.mainUp = true ∧ f.since + 18 * ticksPerMs ≤ u.now :=
  ⟨115200000, ⟨spiTicket, [], 0⟩, [], { host with wit := { host.wit with forwards := [⟨spiTicket, [], 0⟩] } }, _, rfl, by decide +kernel⟩

theorem wit_WitnessAndMirrorEventsComplete_17 : ∃ (t : Nat)  (frame : List Byte) (s u : State), s.advance t = u ∧ u.qpRunning = true ∧ 22 ≤ frame.length ∧ beAt frame 0 2 = frame.length - 2 ∧ frame.length ≤ 12290 :=
  ⟨0, [0, 20] ++ beBytes 20 1, host, _, rfl, by decide +kernel⟩

theorem wit_WitnessAndMirrorEventsComplete_18 : ∃ (t : Nat)  (frame : List Byte) (s u : State), s.advance t = u ∧ u.qpRunning = true ∧ (frame.length < 22 ∨ beAt frame 0 2 ≠ frame.length - 2 ∨ 12290 < frame.length) :=
  ⟨0, [0, 20], host, _, rfl, by decide +kernel⟩

theorem wit_WitnessAndMirrorEventsComplete_19 : ∃ (t : Nat)  (s u : State), s.advance t = u ∧ u.mainUp = true ∧ u.qpRunning = true :=
  ⟨0, host, _, rfl, by decide +kernel⟩

theorem wit_WitnessAndMirrorEventsComplete_20 : ∃ (t : Nat)  (s u : State), s.advance t = u ∧ u.mainUp = true ∧ 5000 ≤ u.mirrorAge :=
  ⟨0, host, _, rfl, by decide +kernel⟩

/-! ## Witnesses for RidgeRequestsComplete -/

theorem wit_RidgeRequestsComplete_1 : ∃ (r : Req)  (s u : State), admitOp { code := 0x0A00, background := true, lens := [0] } r s = .served u ∧ r.fits 46 = true :=
  ⟨(rqst 0x0A00 []), host, exists_served (by decide +kernel)⟩

theorem wit_RidgeRequestsComplete_2 : ∃ (r : Req)  (s u : State), admitOp { code := 0x0A01, background := true, lens := [7] } r s = .served u :=
  ⟨(rqst 0x0A01 [1, 0, 0, 0, 0, 0, 5]), host, exists_served0 (by decide +kernel)⟩

theorem wit_RidgeRequestsComplete_3 : ∃ (r : Req)  (s u : State), admitOp { code := 0x0A02, background := true, lens := [10] } r s = .served u :=
  ⟨(rqst 0x0A02 [0, 0, 0, 0, 0, 0, 0, 0, 1, 0]), host, exists_served0 (by decide +kernel)⟩

theorem wit_RidgeRequestsComplete_4 : ∃ (r : Req)  (s u : State), admitOp { code := 0x0A03, background := true, lens := [6] } r s = .served u :=
  ⟨(rqst 0x0A03 [0, 0, 0, 0, 0, 5]), host, exists_served0 (by decide +kernel)⟩

theorem wit_RidgeRequestsComplete_5 : ∃ (r : Req) (s u : State), s.advance r.time = u ∧ u.qpRunning = true ∧ r.version = 1 ∧ r.plen.toNat = r.params.length ∧ r.total ≤ 12288 ∧ r.crc.toNat = r.wantCrc 0x0A80 ∧ r.flags = 0 ∧ r.reserved = 0 ∧ r.session = 0 ∧ u.envelopeOk 0x0A80 r.params = true ∧ u.rdgLocked = false :=
  ⟨{ rqst 0x0A80 [] with params := [0x4F, 0x52, 0x41, 0x43] ++ beBytes 2 0x0A80 ++ [0xFF, 0] ++ beBytes 14 0 ++ [0, 0], session := 0, plen := 24, crc := BitVec.ofNat 32 (({ rqst 0x0A80 [] with params := [0x4F, 0x52, 0x41, 0x43] ++ beBytes 2 0x0A80 ++ [0xFF, 0] ++ beBytes 14 0 ++ [0, 0], session := 0, plen := 24 } : Req).wantCrc 0x0A80) }, host, _, rfl, by decide +kernel⟩

theorem wit_RidgeRequestsComplete_7 : ∃ (r : Req) (s u : State), s.advance r.time = u ∧ u.qpRunning = true ∧ r.version = 1 ∧ r.plen.toNat = r.params.length ∧ r.total ≤ 12288 ∧ r.crc.toNat = r.wantCrc 0x0A81 ∧ r.flags = 0 ∧ r.reserved = 0 ∧ r.session = 0 ∧ u.envelopeOk 0x0A81 r.params = true ∧ u.rdgLocked = false :=
  ⟨{ rqst 0x0A81 [] with params := [0x4F, 0x52, 0x41, 0x43] ++ beBytes 2 0x0A81 ++ [0xFF, 0] ++ beBytes 14 0 ++ [0, 0], session := 0, plen := 24, crc := BitVec.ofNat 32 (({ rqst 0x0A81 [] with params := [0x4F, 0x52, 0x41, 0x43] ++ beBytes 2 0x0A81 ++ [0xFF, 0] ++ beBytes 14 0 ++ [0, 0], session := 0, plen := 24 } : Req).wantCrc 0x0A81) }, host, _, rfl, by decide +kernel⟩

theorem wit_RidgeRequestsComplete_9 : ∃ (r : Req) (s u : State), s.advance r.time = u ∧ u.qpRunning = true ∧ r.version = 1 ∧ r.plen.toNat = r.params.length ∧ r.total ≤ 12288 ∧ r.crc.toNat = r.wantCrc 0x0A82 ∧ r.flags = 0 ∧ r.reserved = 0 ∧ r.session = 0 ∧ u.envelopeOk 0x0A82 r.params = true ∧ u.rdgLocked = false :=
  ⟨{ rqst 0x0A82 [] with params := [0x4F, 0x52, 0x41, 0x43] ++ beBytes 2 0x0A82 ++ [0xFF, 0] ++ beBytes 14 0 ++ [0, 0], session := 0, plen := 24, crc := BitVec.ofNat 32 (({ rqst 0x0A82 [] with params := [0x4F, 0x52, 0x41, 0x43] ++ beBytes 2 0x0A82 ++ [0xFF, 0] ++ beBytes 14 0 ++ [0, 0], session := 0, plen := 24 } : Req).wantCrc 0x0A82) }, host, _, rfl, by decide +kernel⟩

/-! ## Witnesses for ImageCommandsComplete -/

theorem wit_ImageCommandsComplete_1 : ∃ (r : Req) (v : State) (s u : State), admitReq { code := 0x0B01, level := 2, background := lastChunk r 0 } (fun n => decide (9 ≤ n)) r s = .served u ∧ u.chunk 0x0B01 0 65536 r.session (r.num 0 4) (r.num 4 4) (r.params.drop 8) = .more v := by
  obtain ⟨u, hu, hp⟩ := exists_served (a := admitReq { code := 0x0B01, level := 2, background := lastChunk (rqst 0x0B01 [0, 0, 0, 0, 0, 0, 0, 9, 7]) 0 } (fun n => decide (9 ≤ n)) (rqst 0x0B01 [0, 0, 0, 0, 0, 0, 0, 9, 7]) host) (P := fun u => isMore (u.chunk 0x0B01 0 65536 (rqst 0x0B01 [0, 0, 0, 0, 0, 0, 0, 9, 7]).session ((rqst 0x0B01 [0, 0, 0, 0, 0, 0, 0, 9, 7]).num 0 4) ((rqst 0x0B01 [0, 0, 0, 0, 0, 0, 0, 9, 7]).num 4 4) ((rqst 0x0B01 [0, 0, 0, 0, 0, 0, 0, 9, 7]).params.drop 8)) = true) (by decide +kernel)
  obtain ⟨v, hv⟩ := more_of hp
  exact ⟨_, v, host, u, hu, hv⟩

theorem wit_ImageCommandsComplete_2 : ∃ (r : Req) (bytes : List Byte)(v : State) (s u : State), admitReq { code := 0x0B01, level := 2, background := lastChunk r 0 } (fun n => decide (9 ≤ n)) r s = .served u ∧ u.chunk 0x0B01 0 65536 r.session (r.num 0 4) (r.num 4 4) (r.params.drop 8) = .whole bytes v ∧ u.com.sigJob = none := by
  obtain ⟨u, hu, hp⟩ := exists_served (a := admitReq { code := 0x0B01, level := 2, background := lastChunk (rqst 0x0B01 [0, 0, 0, 0, 0, 0, 0, 1, 7]) 0 } (fun n => decide (9 ≤ n)) (rqst 0x0B01 [0, 0, 0, 0, 0, 0, 0, 1, 7]) host) (P := fun u => wholeBytes (u.chunk 0x0B01 0 65536 (rqst 0x0B01 [0, 0, 0, 0, 0, 0, 0, 1, 7]).session ((rqst 0x0B01 [0, 0, 0, 0, 0, 0, 0, 1, 7]).num 0 4) ((rqst 0x0B01 [0, 0, 0, 0, 0, 0, 0, 1, 7]).num 4 4) ((rqst 0x0B01 [0, 0, 0, 0, 0, 0, 0, 1, 7]).params.drop 8)) = some [7] ∧ u.com.sigJob.isNone = true) (by decide +kernel)
  obtain ⟨v, hv⟩ := whole_of hp.1
  exact ⟨_, _, v, host, u, hu, hv, Option.isNone_iff_eq_none.1 hp.2⟩

theorem wit_ImageCommandsComplete_3 : ∃ (t : Nat)  (tk : Ticket) (bytes : List Byte) (st : Nat) (bad : Option Nat) (img : Option Image) (s u : State), s.advance t = u ∧ u.com.sigJob = some (.image tk bytes) ∧ u.jobDone.checkImage bytes = (st, bad, img) :=
  ⟨0, spiTicket, [], _, _, _, { host with com := { host.com with sigJob := some (.image spiTicket []) } }, _, rfl, rfl, rfl⟩

theorem wit_ImageCommandsComplete_4 : ∃ (r : Req) (i : Image) (s u : State), admitOp { code := 0x0B02, level := 2, background := true } r s = .served u ∧ u.power = pSTANDBY ∧ u.getF F.SYS_IMG_STAGE_STATE = 2 ∧ u.idn.staged = some (r.session, i) ∧ u.idn.commit = none ∧ u.getB F.THM_STAT_MRAM_INH = false :=
  ⟨(rqst 0x0B02 []), ⟨1, [], bareMap, []⟩, ({ host with idn := { host.idn with staged := some (1, ⟨1, [], bareMap, []⟩) } }.setF F.SYS_IMG_STAGE_STATE 2), exists_served (by decide +kernel)⟩

theorem wit_ImageCommandsComplete_5 : ∃ (t : Nat)  (tk : Ticket) (ses : Word) (s u : State), s.advance t = u ∧ u.idn.commit = some (tk, ses) :=
  ⟨0, spiTicket, 1, { host with idn := { host.idn with commit := some (spiTicket, 1) } }, _, rfl, by decide +kernel⟩

theorem wit_ImageCommandsComplete_6 : ∃ (r : Req) (st : Nat)(d : List Byte) (s u : State), admitOp { code := 0x0B00, lens := [6] } r s = .served u ∧ r.num 0 4 = 0 ∧ longReply ((u.activeImage.map fun i => i.bytes).getD []) 0 (r.num 4 2) (r.ticket 0x0B00).room = (st, d) :=
  ⟨(rqst 0x0B00 [0, 0, 0, 0, 1, 0]), 0, beBytes 4 0, host, exists_served (by decide +kernel)⟩

theorem wit_ImageCommandsComplete_7 : ∃ (r : Req) (x : LongResult)(st : Nat)(d : List Byte) (s u : State), admitOp { code := 0x0B00, lens := [6] } r s = .served u ∧ r.num 0 4 ≠ 0 ∧ (u.com.longs.find? fun x => x.opcode == 0x0B00 && x.session == r.session) = some x ∧ x.key = [] ∧ longReply x.bytes (r.num 0 4) (r.num 4 2) (r.ticket 0x0B00).room = (st, d) :=
  ⟨(rqst 0x0B00 [0, 0, 0, 1, 1, 0]), ⟨0x0B00, 1, [], [5, 6]⟩, 0, [0, 0, 0, 2, 6], { host with com := { host.com with longs := [⟨0x0B00, 1, [], [5, 6]⟩] } }, exists_served (by decide +kernel)⟩

/-! ## Witnesses for FirmwareAndAttestComplete -/

theorem wit_FirmwareAndAttestComplete_1 : ∃ (r : Req) (v w : State) (s u : State), admitReq { code := 0x0B03, level := 2, background := lastChunk r 1 } (fun n => decide (10 ≤ n)) r s = .served u ∧ r.num 0 1 ≤ 1 ∧ u.fwRefusal (r.num 0 1) (r.num 1 4) (chunkWords r) = 0 ∧ u.chunk 0x0B03 (r.num 0 1) (fwMax (r.num 0 1)) r.session (r.num 1 4) (r.num 5 4) (r.params.drop 9) = .more w ∧ (u.fwBegins r.session (r.num 0 1) (r.num 1 4)).chunk 0x0B03 (r.num 0 1) (fwMax (r.num 0 1)) r.session (r.num 1 4) (r.num 5 4) (r.params.drop 9) = .more v := by
  obtain ⟨u, hu, hp⟩ := exists_served (a := admitReq { code := 0x0B03, level := 2, background := lastChunk (rqst 0x0B03 [0, 0, 0, 0, 0, 0, 0, 0, 9, 7]) 1 } (fun n => decide (10 ≤ n)) (rqst 0x0B03 [0, 0, 0, 0, 0, 0, 0, 0, 9, 7]) host) (P := fun u => ((rqst 0x0B03 [0, 0, 0, 0, 0, 0, 0, 0, 9, 7]).num 0 1 ≤ 1 ∧ u.fwRefusal ((rqst 0x0B03 [0, 0, 0, 0, 0, 0, 0, 0, 9, 7]).num 0 1) ((rqst 0x0B03 [0, 0, 0, 0, 0, 0, 0, 0, 9, 7]).num 1 4) (chunkWords (rqst 0x0B03 [0, 0, 0, 0, 0, 0, 0, 0, 9, 7])) = 0) ∧ isMore (u.chunk 0x0B03 ((rqst 0x0B03 [0, 0, 0, 0, 0, 0, 0, 0, 9, 7]).num 0 1) (fwMax ((rqst 0x0B03 [0, 0, 0, 0, 0, 0, 0, 0, 9, 7]).num 0 1)) (rqst 0x0B03 [0, 0, 0, 0, 0, 0, 0, 0, 9, 7]).session ((rqst 0x0B03 [0, 0, 0, 0, 0, 0, 0, 0, 9, 7]).num 1 4) ((rqst 0x0B03 [0, 0, 0, 0, 0, 0, 0, 0, 9, 7]).num 5 4) ((rqst 0x0B03 [0, 0, 0, 0, 0, 0, 0, 0, 9, 7]).params.drop 9)) = true ∧ isMore ((u.fwBegins (rqst 0x0B03 [0, 0, 0, 0, 0, 0, 0, 0, 9, 7]).session ((rqst 0x0B03 [0, 0, 0, 0, 0, 0, 0, 0, 9, 7]).num 0 1) ((rqst 0x0B03 [0, 0, 0, 0, 0, 0, 0, 0, 9, 7]).num 1 4)).chunk 0x0B03 ((rqst 0x0B03 [0, 0, 0, 0, 0, 0, 0, 0, 9, 7]).num 0 1) (fwMax ((rqst 0x0B03 [0, 0, 0, 0, 0, 0, 0, 0, 9, 7]).num 0 1)) (rqst 0x0B03 [0, 0, 0, 0, 0, 0, 0, 0, 9, 7]).session ((rqst 0x0B03 [0, 0, 0, 0, 0, 0, 0, 0, 9, 7]).num 1 4) ((rqst 0x0B03 [0, 0, 0, 0, 0, 0, 0, 0, 9, 7]).num 5 4) ((rqst 0x0B03 [0, 0, 0, 0, 0, 0, 0, 0, 9, 7]).params.drop 9)) = true) (by decide +kernel)
  obtain ⟨w, hw⟩ := more_of hp.2.1
  obtain ⟨v, hv⟩ := more_of hp.2.2
  exact ⟨_, v, w, host, u, hu, hp.1.1, hp.1.2, hw, hv⟩

theorem wit_FirmwareAndAttestComplete_2 : ∃ (r : Req) (bytes : List Byte)(v w : State) (s u : State), admitReq { code := 0x0B03, level := 2, background := lastChunk r 1 } (fun n => decide (10 ≤ n)) r s = .served u ∧ r.num 0 1 ≤ 1 ∧ u.fwRefusal (r.num 0 1) (r.num 1 4) (chunkWords r) = 0 ∧ u.com.sigJob = none ∧ u.chunk 0x0B03 (r.num 0 1) (fwMax (r.num 0 1)) r.session (r.num 1 4) (r.num 5 4) (r.params.drop 9) = .whole bytes w ∧ (u.fwBegins r.session (r.num 0 1) (r.num 1 4)).chunk 0x0B03 (r.num 0 1) (fwMax (r.num 0 1)) r.session (r.num 1 4) (r.num 5 4) (r.params.drop 9) = .whole bytes v := by
  obtain ⟨u, hu, hp⟩ := exists_served (a := admitReq { code := 0x0B03, level := 2, background := lastChunk (rqst 0x0B03 [0, 0, 0, 0, 0, 0, 0, 0, 1, 7]) 1 } (fun n => decide (10 ≤ n)) (rqst 0x0B03 [0, 0, 0, 0, 0, 0, 0, 0, 1, 7]) host) (P := fun u => ((rqst 0x0B03 [0, 0, 0, 0, 0, 0, 0, 0, 1, 7]).num 0 1 ≤ 1 ∧ u.fwRefusal ((rqst 0x0B03 [0, 0, 0, 0, 0, 0, 0, 0, 1, 7]).num 0 1) ((rqst 0x0B03 [0, 0, 0, 0, 0, 0, 0, 0, 1, 7]).num 1 4) (chunkWords (rqst 0x0B03 [0, 0, 0, 0, 0, 0, 0, 0, 1, 7])) = 0 ∧ u.com.sigJob.isNone = true) ∧ wholeBytes (u.chunk 0x0B03 ((rqst 0x0B03 [0, 0, 0, 0, 0, 0, 0, 0, 1, 7]).num 0 1) (fwMax ((rqst 0x0B03 [0, 0, 0, 0, 0, 0, 0, 0, 1, 7]).num 0 1)) (rqst 0x0B03 [0, 0, 0, 0, 0, 0, 0, 0, 1, 7]).session ((rqst 0x0B03 [0, 0, 0, 0, 0, 0, 0, 0, 1, 7]).num 1 4) ((rqst 0x0B03 [0, 0, 0, 0, 0, 0, 0, 0, 1, 7]).num 5 4) ((rqst 0x0B03 [0, 0, 0, 0, 0, 0, 0, 0, 1, 7]).params.drop 9)) = some [7] ∧ wholeBytes ((u.fwBegins (rqst 0x0B03 [0, 0, 0, 0, 0, 0, 0, 0, 1, 7]).session ((rqst 0x0B03 [0, 0, 0, 0, 0, 0, 0, 0, 1, 7]).num 0 1) ((rqst 0x0B03 [0, 0, 0, 0, 0, 0, 0, 0, 1, 7]).num 1 4)).chunk 0x0B03 ((rqst 0x0B03 [0, 0, 0, 0, 0, 0, 0, 0, 1, 7]).num 0 1) (fwMax ((rqst 0x0B03 [0, 0, 0, 0, 0, 0, 0, 0, 1, 7]).num 0 1)) (rqst 0x0B03 [0, 0, 0, 0, 0, 0, 0, 0, 1, 7]).session ((rqst 0x0B03 [0, 0, 0, 0, 0, 0, 0, 0, 1, 7]).num 1 4) ((rqst 0x0B03 [0, 0, 0, 0, 0, 0, 0, 0, 1, 7]).num 5 4) ((rqst 0x0B03 [0, 0, 0, 0, 0, 0, 0, 0, 1, 7]).params.drop 9)) = some [7]) (by decide +kernel)
  obtain ⟨w, hw⟩ := whole_of hp.2.1
  obtain ⟨v, hv⟩ := whole_of hp.2.2
  exact ⟨_, _, v, w, host, u, hu, hp.1.1, hp.1.2.1, Option.isNone_iff_eq_none.1 hp.1.2.2, hw, hv⟩

theorem wit_FirmwareAndAttestComplete_3 : ∃ (t : Nat)  (tk : Ticket) (target : Nat) (bytes : List Byte) (st : Nat) (f : Option FwImage) (s u : State), s.advance t = u ∧ u.com.sigJob = some (.firmware tk target bytes) ∧ u.jobDone.checkFirmware target bytes = (st, f) :=
  ⟨0, spiTicket, 1, [], _, _, { host with com := { host.com with sigJob := some (.firmware spiTicket 1 []) } }, _, rfl, rfl, rfl⟩

theorem wit_FirmwareAndAttestComplete_4 : ∃ (r : Req)  (s u : State), admitOp { code := 0x0B04, level := 2, background := true, lens := [1] } r s = .served u ∧ r.num 0 1 ≤ 1 ∧ u.power = pSTANDBY ∧ u.idn.activated = 0 ∧ u.mayActivate (r.num 0 1) = true ∧ u.getB F.THM_STAT_MRAM_INH = false :=
  ⟨(rqst 0x0B04 [1]), ((host.setSlot 1 (host.idleSlot 1) (some ⟨5, 2, false, [], []⟩) 2)), exists_served (by decide +kernel)⟩

theorem wit_FirmwareAndAttestComplete_5 : ∃ (t : Nat)  (a : Nat) (s u : State), s.advance t = u ∧ u.pwr.activateAt = some a ∧ u.mainUp = true ∧ u.power ≠ pTEST ∧ a ≤ u.now :=
  ⟨64, 64, { host with pwr := { host.pwr with activateAt := some 64 } }, _, rfl, by decide +kernel⟩

theorem wit_FirmwareAndAttestComplete_6 : ∃ (r : Req) (s u : State), admitOp { code := 0x0C01, background := r.num 32 4 == 0, lens := [38] } r s = .served u ∧ r.num 32 4 = 0 ∧ u.com.sigJob = none := by
  obtain ⟨u, hu, hp⟩ := exists_served (a := admitOp { code := 0x0C01, background := (rqst 0x0C01 (List.replicate 38 0)).num 32 4 == 0, lens := [38] } (rqst 0x0C01 (List.replicate 38 0)) host) (P := fun u => (rqst 0x0C01 (List.replicate 38 0)).num 32 4 = 0 ∧ u.com.sigJob.isNone = true) (by decide +kernel)
  exact ⟨_, host, u, hu, hp.1, Option.isNone_iff_eq_none.1 hp.2⟩

theorem wit_FirmwareAndAttestComplete_7 : ∃ (r : Req) (x : LongResult)(st : Nat)(d : List Byte) (s u : State), admitOp { code := 0x0C01, background := r.num 32 4 == 0, lens := [38] } r s = .served u ∧ r.num 32 4 ≠ 0 ∧ (u.com.longs.find? fun x => x.opcode == 0x0C01 && x.session == r.session) = some x ∧ x.key = r.params.take 32 ∧ longReply x.bytes (r.num 32 4) (r.num 36 2) (r.ticket 0x0C01).room = (st, d) :=
  ⟨(rqst 0x0C01 (List.replicate 35 0 ++ [1, 1, 0])), ⟨0x0C01, 1, List.replicate 32 0, [5, 6]⟩, 0, [0, 0, 0, 2, 6], { host with com := { host.com with longs := [⟨0x0C01, 1, List.replicate 32 0, [5, 6]⟩] } }, exists_served (by decide +kernel)⟩

theorem wit_FirmwareAndAttestComplete_8 : ∃ (t : Nat)  (tk : Ticket) (nonce b : List Byte) (maxLen st : Nat) (d : List Byte) (s u : State), s.advance t = u ∧ u.com.sigJob = some (.attest tk nonce b maxLen) ∧ longReply (signedReport b) 0 maxLen tk.room = (st, d) :=
  ⟨0, spiTicket, [], [], 0, (longReply (signedReport []) 0 0 spiTicket.room).1, (longReply (signedReport []) 0 0 spiTicket.room).2, { host with com := { host.com with sigJob := some (.attest spiTicket [] [] 0) } }, _, rfl, rfl, Prod.mk.eta.symm⟩

/-! ## Witnesses for TelemetryAndWearRequestsComplete -/

theorem wit_TelemetryAndWearRequestsComplete_1 : ∃ (r : Req)  (s u : State), admitOp { code := 0x0D00, level := 2, lens := [2] } r s = .served u ∧ r.num 0 1 ≤ 8 ∧ r.num 1 1 = 0 ∧ r.fits (1 + 13 * (u.quantityCodes (r.num 0 1)).length) = true ∧ u.tlmServed (r.num 0 1) = true :=
  ⟨(rqst 0x0D00 [7, 0]), actReady, exists_served (by decide +kernel)⟩

theorem wit_TelemetryAndWearRequestsComplete_2 : ∃ (r : Req)  (s u : State), admitOp { code := 0x0D00, level := 2, lens := [2] } r s = .served u ∧ r.num 0 1 ≤ 8 ∧ r.num 1 1 = 1 ∧ r.fits (1 + 13 * (u.quantityCodes (r.num 0 1)).length) = true ∧ u.tlmServed (r.num 0 1) = true :=
  ⟨(rqst 0x0D00 [7, 1]), actReady, exists_served (by decide +kernel)⟩

theorem wit_TelemetryAndWearRequestsComplete_3 : ∃ (r : Req)  (s u : State), admitOp { code := 0x0D01, level := 2, lens := [25] } r s = .served u ∧ r.num 0 1 = 0 ∧ r.port = .eth := by
  obtain ⟨u, hu, hp⟩ := exists_served (a := admitOp { code := 0x0D01, level := 2, lens := [25] } (({ session := 1, seq := 5, port := .eth, mac := 1, params := List.replicate 25 0 } : Req).withCrc 0x0D01) { sampling with com := { sampling.com with linkUp := true, sessions := [⟨1, .eth, 1, 3, 3, none, false, 0, 0, true, []⟩] } }) (P := fun u => (({ session := 1, seq := 5, port := .eth, mac := 1, params := List.replicate 25 0 } : Req).withCrc 0x0D01).num 0 1 = 0 ∧ (({ session := 1, seq := 5, port := .eth, mac := 1, params := List.replicate 25 0 } : Req).withCrc 0x0D01).port = .eth) (by decide +kernel)
  exact ⟨_, { sampling with com := { sampling.com with linkUp := true, sessions := [⟨1, .eth, 1, 3, 3, none, false, 0, 0, true, []⟩] } }, u, hu, hp⟩

theorem wit_TelemetryAndWearRequestsComplete_4 : ∃ (r : Req)  (s u : State), admitOp { code := 0x0D01, level := 2, lens := [25] } r s = .served u ∧ r.num 0 1 = 1 ∧ r.port = .eth ∧ u.streamOk r = true ∧ (u.com.stream.any fun x => x.session != r.session) = false := by
  obtain ⟨u, hu, hp⟩ := exists_served (a := admitOp { code := 0x0D01, level := 2, lens := [25] } (({ session := 1, seq := 5, port := .eth, mac := 1, params := [1, 0, 2, 0, 0, 0, 0, 0, 1, 0] ++ List.replicate 15 0xFF } : Req).withCrc 0x0D01) { sampling with com := { sampling.com with linkUp := true, sessions := [⟨1, .eth, 1, 3, 3, none, false, 0, 0, true, []⟩] } }) (P := fun u => (({ session := 1, seq := 5, port := .eth, mac := 1, params := [1, 0, 2, 0, 0, 0, 0, 0, 1, 0] ++ List.replicate 15 0xFF } : Req).withCrc 0x0D01).num 0 1 = 1 ∧ (({ session := 1, seq := 5, port := .eth, mac := 1, params := [1, 0, 2, 0, 0, 0, 0, 0, 1, 0] ++ List.replicate 15 0xFF } : Req).withCrc 0x0D01).port = .eth ∧ u.streamOk (({ session := 1, seq := 5, port := .eth, mac := 1, params := [1, 0, 2, 0, 0, 0, 0, 0, 1, 0] ++ List.replicate 15 0xFF } : Req).withCrc 0x0D01) = true ∧ (u.com.stream.any fun x => x.session != (({ session := 1, seq := 5, port := .eth, mac := 1, params := [1, 0, 2, 0, 0, 0, 0, 0, 1, 0] ++ List.replicate 15 0xFF } : Req).withCrc 0x0D01).session) = false) (by decide +kernel)
  exact ⟨_, { sampling with com := { sampling.com with linkUp := true, sessions := [⟨1, .eth, 1, 3, 3, none, false, 0, 0, true, []⟩] } }, u, hu, hp⟩

theorem wit_TelemetryAndWearRequestsComplete_5 : ∃ (r : Req) (f : LastFault)(v : State) (s u : State), admitOp { code := 0x0D02, lens := [1] } r s = .served u ∧ r.num 0 1 ≤ 8 ∧ u.lastFault (r.num 0 1) = (f, v) ∧ r.fits (11 + 5 * f.quantities.length) = true := by
  obtain ⟨u, hu, hp⟩ := exists_served (a := admitOp { code := 0x0D02, lens := [1] } (rqst 0x0D02 [3]) ({ host with log := { host.log with last := [(3, ⟨1, 0x1001, []⟩)] } })) (P := fun u => (rqst 0x0D02 [3]).num 0 1 ≤ 8 ∧ u.lastFault ((rqst 0x0D02 [3]).num 0 1) = (⟨1, 0x1001, []⟩, u)) (by decide +kernel)
  exact ⟨_, _, _, _, u, hu, hp.1, hp.2, by decide +kernel⟩

theorem wit_TelemetryAndWearRequestsComplete_6 : ∃ (r : Req)  (s u : State), admitOp { code := 0x0E00, lens := [2] } r s = .served u ∧ r.num 0 1 + r.num 1 1 ≤ 64 ∧ r.fits (9 * r.num 1 1) = true :=
  ⟨(rqst 0x0E00 [63, 1]), host, exists_served (by decide +kernel)⟩

theorem wit_TelemetryAndWearRequestsComplete_7 : ∃ (r : Req)  (s u : State), admitOp { code := 0x0E01, lens := [2] } r s = .served u ∧ r.num 0 1 + r.num 1 1 ≤ 64 ∧ r.fits (9 * r.num 1 1) = true :=
  ⟨(rqst 0x0E01 [63, 1]), host, exists_served (by decide +kernel)⟩

theorem wit_TelemetryAndWearRequestsComplete_8 : ∃ (r : Req)  (s u : State), admitOp { code := 0x0E02 } r s = .served u :=
  ⟨(rqst 0x0E02 []), host, exists_served0 (by decide +kernel)⟩

/-! ## Witnesses for ThermalEventsComplete -/

theorem wit_ThermalEventsComplete_1 : ∃ (t : Nat)  (parts : List LossPart) (s u : State), s.advance t = u ∧ u.mainUp = true ∧ u.lossDue ≤ u.lossEnded :=
  ⟨640000, [], host, _, rfl, by decide +kernel⟩

theorem wit_ThermalEventsComplete_2 : ∃ (t : Nat)  (x : Nat) (s u : State), s.advance t = u ∧ u.thm.throttleAt = some x ∧ u.mainUp = true ∧ u.thm.dieFault = false ∧ x + ticksPerS ≤ u.now :=
  ⟨6400000000, 0, { host with thm := { host.thm with throttleAt := some 0 } }, _, rfl, by decide +kernel⟩

theorem wit_ThermalEventsComplete_3 : ∃ (t : Nat)  (x : Nat) (s u : State), s.advance t = u ∧ u.thm.inhibitAt = some x ∧ u.mainUp = true ∧ x + ticksPerS ≤ u.now :=
  ⟨6400000000, 0, { host with thm := { host.thm with inhibitAt := some 0 } }, _, rfl, by decide +kernel⟩

theorem wit_ThermalEventsComplete_4 : ∃ (t : Nat)  (n : Fin 6) (held : Nat) (s u : State), s.advance t = u ∧ u.mainUp = true ∧ u.ntcBroken n = false ∧ (u.ntcGone n = true ∨ u.ntcOdd n = true ∧ ticksPerS ≤ held) :=
  ⟨6400000000, 5, 0, host, _, rfl, by decide +kernel⟩

theorem wit_ThermalEventsComplete_5 : ∃ (t : Nat)  (s u : State), s.advance t = u ∧ u.mainUp = true ∧ u.thm.dieFault = false ∧ max u.thm.dieAt u.pwr.battenBase + 10 * ticksPerMs ≤ u.now :=
  ⟨64000000, host, _, rfl, by decide +kernel⟩

theorem wit_ThermalEventsComplete_6 : ∃ (t : Nat)  (n : Fin 64) (held st : Nat) (s u : State), s.advance t = u ∧ u.chStage n = some st ∧ u.mainUp = true ∧ u.tjLim st + (u.getF (F.THM_STG_LIM_OT_K st) : Rat) ≤ u.getQ (F.THM_TJ n) ∧ 10 * ticksPerMs ≤ held ∧ bitAt u.thm.overDone n = false :=
  ⟨0, 0, 64000000, 0, (host.setF (F.THM_TJ 0) 0x43960000), _, rfl, by decide +kernel⟩

theorem wit_ThermalEventsComplete_7 : ∃ (t : Nat)  (n : Fin 6) (held : Nat) (s u : State), s.advance t = u ∧ u.mainUp = true ∧ u.ntcBroken n = false ∧ (u.ntc n).seen = true ∧ (u.ntc n).missing = false ∧ (u.getF F.THM_NTCCFG_NTCMAX : Rat) < (u.ntc n).last ∧ 100 * ticksPerMs ≤ held ∧ bitAt u.thm.ntcDone n = false :=
  ⟨0, 0, 640000000, { host with thm := { host.thm with ntc := vset host.thm.ntc 0 { host.ntc 0 with seen := true, missing := false, last := 300 } } }, _, rfl, by decide +kernel⟩

theorem wit_ThermalEventsComplete_8 : ∃ (t : Nat)  (s u : State), s.advance t = u ∧ u.mainUp = true ∧ u.thm.lost = false ∧ (u.getB (F.LE_MODE_HALTED 11) = true ∨ max u.thm.slotAt u.pwr.battenBase + 20 * ticksPerMs ≤ u.now) :=
  ⟨128000000, host, _, rfl, by decide +kernel⟩

theorem wit_ThermalEventsComplete_9 : ∃ (t : Nat)  (s u : State), s.advance t = u ∧ u.mainUp = true ∧ (u.thm.runEnded = true ∨ u.thm.dirty ≠ [] ∧ u.thm.saveAt + 10 * ticksPerS ≤ u.now) :=
  ⟨64000000000, { host with thm := { host.thm with dirty := [3] } }, _, rfl, by decide +kernel⟩

theorem wit_ThermalEventsComplete_10 : ∃ (t : Nat)  (x : Stream) (s u : State), s.advance t = u ∧ u.com.stream = some x ∧ 0 < setsPerFrame x.chans.length ∧ setsPerFrame x.chans.length ≤ x.sets.length ∧ u.com.linkUp = true :=
  ⟨0, (demoStream), { host with com := { host.com with linkUp := true, stream := some demoStream } }, _, rfl, by decide +kernel⟩

/-! ## Witnesses for BridgeProtectionComplete -/

theorem wit_BridgeProtectionComplete_1 : ∃ (t : Nat)  (n : Fin 32) (missing : Nat) (s u : State), s.advance t = u ∧ u.mainUp = true ∧ ticksPerUs < missing ∧ vget u.gate.clkMissing n false = false :=
  ⟨0, 31, 6401, host, _, rfl, by decide +kernel⟩

theorem wit_BridgeProtectionComplete_2 : ∃ (t : Nat)  (n : Fin 32) (s u : State), s.advance t = u ∧ u.mainUp = true :=
  ⟨0, 31, host, _, rfl, by decide +kernel⟩

theorem wit_BridgeProtectionComplete_3 : ∃ (t : Nat)  (n : Fin 32) (s u : State), s.advance t = u ∧ u.mainUp = false ∧ u.pwr.step = 8 :=
  ⟨0, 31, { host.setF F.PWR_STATE_STATE 2 with pwr := { host.pwr with step := 8 } }, _, rfl, by decide +kernel⟩

theorem wit_BridgeProtectionComplete_4 : ∃ (t : Nat)  (n : Fin 32) (s u : State), s.advance t = u ∧ u.mainUp = false ∧ u.pwr.step ≠ 8 :=
  ⟨0, 31, host.setF F.PWR_STATE_STATE 2, _, rfl, by decide +kernel⟩

theorem wit_BridgeProtectionComplete_5 : ∃ (t : Nat)  (n : Fin 32) (mv on : Nat) (s u : State), s.advance t = u ∧ u.mainUp = true ∧ u.getB (F.GD_CH_PROT_SC_EN n) = true ∧ u.scWatched n = true ∧ 640 * (u.getF (F.GD_CH_PROT_SC_BLK n) + 1) ≤ on ∧ 100 * (u.getF (F.GD_CH_PROT_SC_TH n) + 1) < mv :=
  ⟨0, 0, 100000, 1000000, (((((((host.setF F.PWR_STATE_STATE 4).setB F.GD_STAT_DRVEN true).setB (F.GD_CH_STAT_VP_OK 0) true).setB (F.GD_CH_STAT_VN_OK 0) true).setB (F.GD_CH_STAT_CLKOK 0) true).setB F.GD_STAT_VDRV_OK true).setSched 0 true 0).setF (F.GD_CH_PROT_SC_EN 0) 1, _, rfl, by decide +kernel⟩

theorem wit_BridgeProtectionComplete_6 : ∃ (t : Nat)  (n : Fin 32) (s u : State), s.advance t = u ∧ u.getB (F.GD_CH_STAT_SOFT n) = true ∧ vget u.gate.softUntil n 0 ≤ u.now :=
  ⟨0, 31, host.setB (F.GD_CH_STAT_SOFT 31) true, _, rfl, by decide +kernel⟩

theorem wit_BridgeProtectionComplete_7 : ∃ (t : Nat)  (n : Fin 32) (mv held : Nat) (s u : State), s.advance t = u ∧ u.islandUsed n = true ∧ u.getB (F.GD_CH_STAT_VP_OK n) = true ∧ ticksPerUs ≤ held ∧ (mv : Int) < uvpThreshold (u.getF (F.GD_CH_PROT_UVP n)) :=
  ⟨0, 0, 8999, 6400, host.setB (F.GD_CH_STAT_VP_OK 0) true, _, rfl, by decide +kernel⟩

theorem wit_BridgeProtectionComplete_8 : ∃ (t : Nat)  (n : Fin 32) (mv : Int) (held : Nat) (s u : State), s.advance t = u ∧ u.islandUsed n = true ∧ u.getB (F.GD_CH_STAT_VN_OK n) = true ∧ u.getF (F.GD_CH_PROT_UVN n) ≠ 0 ∧ ticksPerUs ≤ held ∧ -1000 * (u.getF (F.GD_CH_PROT_UVN n) : Int) < mv :=
  ⟨0, 0, 0, 6400, (host.setB (F.GD_CH_STAT_VN_OK 0) true).setF (F.GD_CH_PROT_UVN 0) 1, _, rfl, by decide +kernel⟩

theorem wit_BridgeProtectionComplete_9 : ∃ (t : Nat)  (mv held : Nat) (s u : State), s.advance t = u ∧ u.mainUp = true ∧ u.getB F.GD_STAT_VDRV_OK = true ∧ ticksPerUs ≤ held ∧ mv < 9000 :=
  ⟨0, 8999, 6400, host.setB F.GD_STAT_VDRV_OK true, _, rfl, by decide +kernel⟩

theorem wit_BridgeProtectionComplete_10 : ∃ (t : Nat)  (n : Fin 64) (seen : Bool) (held : Nat) (s u : State), s.advance t = u ∧ u.mainUp = true ∧ seen ≠ u.gateOn n ∧ (3200 * (u.getF (F.GD_CH_DRV_GMON_T n) + 1) < held ∨ vget u.gate.cmdAt n 0 + 3200 * (u.getF (F.GD_CH_DRV_GMON_T n) + 1) < u.now) ∧ u.monitorsGate n (3200 * (u.getF (F.GD_CH_DRV_GMON_T n) + 1)) = true :=
  ⟨0, 63, true, 100000, host, _, rfl, by decide +kernel⟩

theorem wit_BridgeProtectionComplete_11 : ∃ (t : Nat)  (n : Fin 32) (mv : Int) (held : Nat) (s u : State), s.advance t = u ∧ ticksPerUs ≤ held ∧ uvpThreshold (u.getF (F.GD_CH_PROT_UVP n)) + 500 ≤ mv :=
  ⟨0, 31, 30000, 6400, host, _, rfl, by decide +kernel⟩

theorem wit_BridgeProtectionComplete_12 : ∃ (t : Nat)  (n : Fin 32) (mv : Int) (held : Nat) (s u : State), s.advance t = u ∧ ticksPerUs ≤ held ∧ (u.getF (F.GD_CH_PROT_UVN n) = 0 ∨ mv ≤ -1000 * (u.getF (F.GD_CH_PROT_UVN n) : Int) - 300) :=
  ⟨0, 31, -30000, 6400, host, _, rfl, by decide +kernel⟩

theorem wit_BridgeProtectionComplete_13 : ∃ (t : Nat)  (mv : Int) (held : Nat) (s u : State), s.advance t = u ∧ ticksPerUs ≤ held ∧ 9500 ≤ mv :=
  ⟨0, 9500, 6400, host, _, rfl, by decide +kernel⟩

theorem wit_BridgeProtectionComplete_14 : ∃ (t : Nat)  (n : Fin 4) (v : State) (s u : State), s.advance t = u ∧ u.seeTrip n true = v ∧ v.mainUp = true ∧ v.getF (F.GD_TRIPMAP n) ≠ 0 :=
  ⟨0, 3, _, host.setF (F.GD_TRIPMAP 3) 0x80000000, _, rfl, rfl, by decide +kernel⟩

theorem wit_BridgeProtectionComplete_16 : ∃ (t : Nat)  (s u : State), s.advance t = u ∧ u.mainUp = true ∧ u.activeStages ≠ 0 :=
  ⟨0, (host.setB F.GD_STAT_DRVEN true).setMode 0 1, _, rfl, by decide +kernel⟩

theorem wit_BridgeProtectionComplete_17 : ∃ (t : Nat)  (s u : State), s.advance t = u ∧ u.activeStages = 0 :=
  ⟨0, host, _, rfl, by decide +kernel⟩

theorem wit_BridgeProtectionComplete_18 : ∃ (t : Nat)  (since : Nat) (s u : State), s.advance t = u ∧ u.gate.drvenLowAt = some since ∧ since + 10 * ticksPerUs ≤ u.now ∧ u.mainUp = true :=
  ⟨64000, 0, { host with gate := { host.gate with drvenLowAt := some 0 } }, _, rfl, by decide +kernel⟩

theorem wit_BridgeProtectionComplete_19 : ∃ (t : Nat)  (since : Nat) (s u : State), s.advance t = u ∧ u.gate.drvenLowAt = some since ∧ (u.now < since + 10 * ticksPerUs ∨ u.mainUp = false) :=
  ⟨63999, 0, { host with gate := { host.gate with drvenLowAt := some 0 } }, _, rfl, by decide +kernel⟩

theorem wit_BridgeProtectionComplete_20 : ∃ (u : State) (n : Fin 32), u.gateOn n = true ∧ u.now < vget u.gate.cmdAt n 0 + 128 * u.getF (F.GD_CH_DRV_T1 n) :=
  ⟨(((((((host.setF F.PWR_STATE_STATE 4).setB F.GD_STAT_DRVEN true).setB (F.GD_CH_STAT_VP_OK 0) true).setB (F.GD_CH_STAT_VN_OK 0) true).setB (F.GD_CH_STAT_CLKOK 0) true).setB F.GD_STAT_VDRV_OK true).setSched 0 true 0).setF (F.GD_CH_DRV_T1 0) 1, 0, by decide +kernel⟩

/-! ## Witnesses for EdgeAndCarrierEventsComplete -/

theorem wit_EdgeAndCarrierEventsComplete_1 : ∃ (t : Nat)  (n : Fin 64) (bst : Bool) (e : Edge) (s u : State), s.advance t = u ∧ nextEdge n u.bat.edges = some e ∧ u.mainUp = true ∧ e.release ≤ u.now :=
  ⟨6016, 63, false, ⟨63, true, 6400⟩, { host with bat := { host.bat with edges := [⟨63, true, 6400⟩] } }, _, rfl, by decide +kernel⟩

theorem wit_EdgeAndCarrierEventsComplete_2 : ∃ (t : Nat)  (n : Fin 64) (d : Nat) (s u : State), s.advance t = u ∧ vget u.gate.minHold n none = some d ∧ d ≤ u.now :=
  ⟨64, 63, 64, { host with gate := { host.gate with minHold := vset host.gate.minHold 63 (some 64) } }, _, rfl, by decide +kernel⟩

theorem wit_EdgeAndCarrierEventsComplete_3 : ∃ (t : Nat)  (n : Fin 64) (mv : Nat) (s u : State), s.advance t = u ∧ n.val < 32 ∧ u.getB (F.GD_CH_DRV_MCLAMP n) = true ∧ u.gateOn n = false ∧ mv ≤ 2000 ∧ vget u.gate.softUntil n 0 ≤ u.now :=
  ⟨0, 31, 2000, host.setB (F.GD_CH_DRV_MCLAMP 31) true, _, rfl, by decide +kernel⟩

theorem wit_EdgeAndCarrierEventsComplete_4 : ∃ (t : Nat)  (n : Fin 16) (s u : State), s.advance t = u ∧ u.mainUp = true ∧ ((u.car n).running = true ∨ (u.car n).waiting = true) ∧ 0 < (u.car n).next ∧ (u.car n).next ≤ u.now + 1024 ∧ (u.car n).stopping = false :=
  ⟨64, 15, host.setCar 15 { host.car 15 with running := true, next := 1088 }, _, rfl, by decide +kernel⟩

theorem wit_EdgeAndCarrierEventsComplete_5 : ∃ (t : Nat)  (n : Fin 16) (s u : State), s.advance t = u ∧ u.mainUp = true ∧ ((u.car n).running = true ∨ (u.car n).waiting = true) ∧ 0 < (u.car n).next ∧ (u.car n).next ≤ u.now ∧ (u.car n).stopping = false :=
  ⟨1088, 15, host.setCar 15 { host.car 15 with waiting := true, next := 1088 }, _, rfl, by decide +kernel⟩

theorem wit_EdgeAndCarrierEventsComplete_6 : ∃ (t : Nat)  (n : Fin 16) (s u : State), s.advance t = u ∧ u.mainUp = true ∧ (u.car n).running = true ∧ (u.car n).stopping = true ∧ 0 < (u.car n).next ∧ (u.car n).next ≤ u.now :=
  ⟨1088, 15, host.setCar 15 { host.car 15 with running := true, stopping := true, next := 1088 }, _, rfl, by decide +kernel⟩

theorem wit_EdgeAndCarrierEventsComplete_8 : ∃ (t : Nat)  (n : Fin 32) (mv : Nat) (s u : State), s.advance t = u ∧ u.mainUp = true ∧ 16 ≤ n.val ∧ (u.hbMode n = 1 ∨ u.hbMode n = 2) ∧ mv < 7200 :=
  ⟨0, 31, 7199, host.setMode 31 2, _, rfl, by decide +kernel⟩

/-! ## Witnesses for PacketAndBootCommandsComplete -/

theorem wit_PacketAndBootCommandsComplete_1 : ∃ (t : Nat) (sdi : List Byte) (s u : State), s.advance t = u ∧ u.mainUp = true ∧ u.portOpen .spi = true ∧ ({ u with com := { u.com with sent := .sdo (u.sdo sdi.length) :: u.com.sent } }.spiDeliver sdi.length).pwr.sleep = none ∧
    20 ≤ beAt sdi 0 2 ∧ beAt sdi 0 2 ≤ 4096 ∧ 2 + beAt sdi 0 2 ≤ sdi.length :=
  ⟨0, [0, 20] ++ List.replicate 20 0, host, _, rfl, by decide +kernel, by decide +kernel, by decide +kernel, by decide +kernel⟩

theorem wit_PacketAndBootCommandsComplete_2 : ∃ (t : Nat)  (sdi : List Byte) (s u : State), s.advance t = u ∧ u.mainUp = true ∧ u.portOpen .spi = true ∧ 2 ≤ sdi.length ∧ beAt sdi 0 2 = 0 :=
  ⟨0, [0, 0], host, _, rfl, by decide +kernel⟩

theorem wit_PacketAndBootCommandsComplete_3 : ∃ (t : Nat)  (sdi : List Byte) (s u : State), s.advance t = u ∧ u.mainUp = true ∧ u.portOpen .spi = true ∧ 2 ≤ sdi.length ∧ ({ u with com := { u.com with sent := .sdo (u.sdo sdi.length) :: u.com.sent } }.spiDeliver sdi.length).pwr.sleep = none ∧ (0 < beAt sdi 0 2 ∧ beAt sdi 0 2 < 20 ∨ 4096 < beAt sdi 0 2 ∨ sdi.length < 2 + beAt sdi 0 2 ∧ beAt sdi 0 2 ≠ 0) :=
  ⟨0, [0, 20], host, _, rfl, by decide +kernel⟩

theorem wit_PacketAndBootCommandsComplete_4 : ∃ (r : Req) (op : BitVec 16) (s u : State), s.advance r.time = u ∧ definedOps.contains op.toNat = false ∧ u.receives r op.toNat = true ∧
    (r.port = .spi → u.com.spiOut.length < 8) ∧ r.intact = true ∧ r.crc.toNat = r.wantCrc op.toNat ∧ r.flags = 0 ∧ r.reserved = 0 :=
  ⟨rqst 0x0FFF [], 0x0FFF, host, _, rfl, by decide +kernel⟩

theorem wit_PacketAndBootCommandsComplete_5 : ∃ (t : Nat)  (port : Port) (bytes : List Byte) (s u : State), s.advance t = u ∧ u.mainUp = true ∧ u.pwr.sleep = none ∧ u.portOpen port = true ∧ intactBytes port bytes = false :=
  ⟨0, .can0, [], host, _, rfl, by decide +kernel⟩

theorem wit_PacketAndBootCommandsComplete_7 : ∃ (t : Nat)  (mis : BitVec 32) (b : Nat) (s u : State), s.advance t = u ∧ u.pwr.boot = some b ∧ u.pwr.step = 0 ∧ u.pwr.inReset = false ∧ u.pwr.handover = none :=
  ⟨0, 0, 0, { host with pwr := { host.pwr with boot := some 0, step := 0 } }, _, rfl, by decide +kernel⟩

theorem wit_PacketAndBootCommandsComplete_8 : ∃ (t : Nat)  (b : Nat) (s u : State), s.advance t = u ∧ u.pwr.boot = some b ∧ u.pwr.step = 8 :=
  ⟨0, 0, { host with pwr := { host.pwr with boot := some 0, step := 8 } }, _, rfl, by decide +kernel⟩

theorem wit_GeneralRequests_1 : ∃ (r : Req) (s u : State), admitReq { code := 0x0001, level := 0 } (fun n => decide (n ≤ 64)) r s = .served u ∧ r.fits r.params.length = true :=
  ⟨rqst 0x0001 [1, 2], host, exists_served (by decide +kernel)⟩
theorem wit_GeneralRequests_2 : ∃ (r : Req) (s u : State), admitOp { code := 0x0002, level := 0 } r s = .served u := ⟨rqst 0x0002 [], host, exists_served0 (by decide +kernel)⟩
theorem wit_GeneralRequests_3 : ∃ (r : Req) (s u : State), admitOp { code := 0x0004, level := 0 } r s = .served u := ⟨rqst 0x0004 [], host, exists_served0 (by decide +kernel)⟩
theorem wit_GeneralRequests_4 : ∃ (r : Req) (s u : State), admitOp { code := 0x0005, lens := [4] } r s = .served u := ⟨rqst 0x0005 [0, 0, 10, 31], host, exists_served0 (by decide +kernel)⟩
theorem wit_GeneralRequests_5 : ∃ (r : Req) (s u : State), admitOp { code := 0x0C00, level := 0, lens := [1] } r s = .served u ∧ r.num 0 1 = 0xFF :=
  ⟨rqst 0x0C00 [255], host, exists_served (by decide +kernel)⟩
theorem wit_GeneralRequests_6 : ∃ (r : Req) (s u : State), admitOp { code := 0x0C00, level := 0, lens := [1] } r s = .served u ∧ r.num 0 1 ≤ 33 :=
  ⟨rqst 0x0C00 [33], host, exists_served (by decide +kernel)⟩
theorem wit_GeneralRequests_7 : ∃ (r : Req) (s u : State), admitOp { code := 0x0C02, level := 0, lens := [7] } r s = .served u ∧ r.num 0 1 ≤ 11 ∧ r.num 1 4 ≤ (u.certBytes (r.num 0 1)).length := by
  obtain ⟨u, h, h1⟩ := exists_served (a := admitOp { code := 0x0C02, level := 0, lens := [7] } (rqst 0x0C02 [11, 0, 0, 0, 0, 0, 100]) host)
    (P := fun _ => (rqst 0x0C02 [11, 0, 0, 0, 0, 0, 100]).num 0 1 ≤ 11 ∧ (rqst 0x0C02 [11, 0, 0, 0, 0, 0, 100]).num 1 4 = 0) (by decide +kernel)
  exact ⟨_, _, u, h, h1.1, by rw [h1.2]; exact Nat.zero_le _⟩
theorem wit_SessionCommands_1 : ∃ (r : Req) (s u : State), admitOp { code := 0x0010, level := 0, lens := [1] } r s = .served u ∧ u.retryOf (r.ticket 0x0010) = none ∧
    1 ≤ r.num 0 1 ∧ r.num 0 1 ≤ 3 ∧ (2 ≤ r.num 0 1 → u.lockedOut = false) ∧ u.com.sessions.length < 4 ∧
    (2 ≤ r.num 0 1 → u.com.sessions.any (fun x => decide (2 ≤ x.level) || u.challengeLive x || u.proving x.id) = false) :=
  ⟨({ session := 0, seq := 5, params := [3] } : Req).withCrc 0x0010, State.reset, exists_served (by decide +kernel)⟩
/-- Session 1 with a live challenge. -/
def challenged : State := { host with com := { host.com with sessions := [⟨1, .can0, 0, 1, 3, some [7], false, 0, 0, true, []⟩] } }
theorem wit_SessionCommands_2 : ∃ (r : Req) (s u v : State) (x : Session), admitReq { code := 0x0011, background := lastChunk r 0 } (fun n => decide (9 ≤ n)) r s = .served u ∧
    u.chunk 0x0011 0 8240 r.session (r.num 0 4) (r.num 4 4) (r.params.drop 8) = .more v ∧ u.session r.session = some x ∧ x.challenge.isSome = true ∧ u.challengeLive x = true := by
  obtain ⟨u, h, h1, h2⟩ := exists_served (a := admitReq { code := 0x0011, background := lastChunk (rqst 0x0011 [0, 0, 0, 0, 0, 0, 32, 48, 9]) 0 } (fun n => decide (9 ≤ n)) (rqst 0x0011 [0, 0, 0, 0, 0, 0, 32, 48, 9]) challenged)
    (P := fun u => isMore (u.chunk 0x0011 0 8240 1 0 8240 [9]) = true ∧ (u.session 1).any (fun x => x.challenge.isSome && u.challengeLive x) = true) (by decide +kernel)
  obtain ⟨v, hv⟩ := more_of h1
  cases hs : u.session 1 with
  | none => rw [hs] at h2; cases h2
  | some x =>
    rw [hs] at h2
    have h3 : (x.challenge.isSome && u.challengeLive x) = true := h2
    rw [Bool.and_eq_true] at h3
    exact ⟨_, _, u, v, x, h, hv, hs, h3.1, h3.2⟩
theorem wit_SessionCommands_3 : ∃ (t : Nat) (s u : State) (tk : Ticket) (bytes : List Byte) (x : Session), { s.advance t with com := { s.com with sigJob := none } } = u ∧
    s.com.sigJob = some (.proof tk bytes) ∧ u.session tk.session = some x :=
  ⟨0, { challenged with com := { challenged.com with sigJob := some (.proof ((rqst 0x0011 []).ticket 0x0011) []) } }, _, (rqst 0x0011 []).ticket 0x0011, [], _, rfl, rfl, rfl⟩
theorem wit_SessionCommands_4 : ∃ (t : Nat) (s u : State), s.advance t = u ∧ u.lockedOut = false := ⟨0, host, _, rfl, by decide +kernel⟩
theorem wit_SessionCommands_5 : ∃ (r : Req) (s u : State), admitOp { code := 0x0012 } r s = .served u := ⟨rqst 0x0012 [], host, exists_served0 (by decide +kernel)⟩
theorem wit_SessionCommands_6 : ∃ (t : Nat) (id : Word) (s u : State) (x : Session), s.advance t = u ∧ u.session id = some x ∧ u.mainUp = true ∧ x.lastAt + u.sessionIdle ≤ u.now :=
  ⟨192000000000, 1, host, _, _, rfl, rfl, by decide +kernel, by decide +kernel⟩
theorem wit_SessionCommands_7 : ∃ (t : Nat) (id : Word) (s u : State) (x : Session), s.advance t = u ∧ u.session id = some x ∧ x.challenge.isSome = true ∧ x.openedAt + 60 * ticksPerS ≤ u.now :=
  ⟨384000000000, 1, challenged, _, _, rfl, rfl, rfl, by decide +kernel⟩
theorem wit_SessionCommands_8 : ∃ (t : Nat) (s u : State), s.advance t = u ∧ u.com.linkUp = true ∧ u.com.sessions.any (fun x => x.port == Port.eth) = true :=
  ⟨0, { host with com := { host.com with linkUp := true, sessions := [⟨1, .eth, 0, 1, 1, none, false, 0, 0, true, []⟩] } }, _, rfl, rfl, by decide +kernel⟩
theorem wit_SessionCommands_9 : ∃ (t : Nat) (s u : State), s.advance t = u ∧ u.mainUp = true := ⟨0, host, _, rfl, by decide +kernel⟩
theorem wit_RegisterRequests_1 : ∃ (r : Req) (s u : State), admitOp { code := 0x0100, lens := [4] } r s = .served u ∧ r.num 0 4 % 4 = 0 ∧ r.num 0 4 ≤ 0xEFFFF ∧ (findReg (r.num 0 4)).isSome = true :=
  ⟨rqst 0x0100 [0, 14, 0, 0], host, exists_served (by decide +kernel)⟩
theorem wit_RegisterRequests_2 : ∃ (r : Req) (s u : State), admitOp { code := 0x0102, lens := [6] } r s = .served u ∧ r.num 0 4 % 4 = 0 ∧ r.num 0 4 ≤ 0xEFFFF ∧ 1 ≤ r.num 4 2 ∧ r.num 4 2 ≤ 256 ∧
    (r.num 0 4 + 4 * r.num 4 2 - 1) / 65536 = r.num 0 4 / 65536 ∧ r.fits (4 * r.num 4 2) = true :=
  ⟨rqst 0x0102 [0, 11, 255, 252, 0, 1], host, exists_served (by decide +kernel)⟩
theorem wit_RegisterRequests_3 : ∃ (r : Req) (s u v : State), admitOp { code := 0x0101, level := if 4 ≤ r.params.length then writeLevel (r.num 0 4) else 1, lens := [12] } r s = .served u ∧
    u.regWrite .host r.session (r.num 0 4) (r.num 8 4) (r.num 4 4) = (stOK, v) := by
  obtain ⟨u, h, h1⟩ := exists_served (a := admitOp { code := 0x0101, level := 1, lens := [12] } (rqst 0x0101 [0, 12, 0, 0, 0, 0, 40, 0, 0, 0, 255, 0]) host)
    (P := fun u => (u.regWrite .host 1 0xC0000 0xFF00 0x2800).1 = stOK) (by decide +kernel)
  exact ⟨_, _, u, (u.regWrite .host 1 0xC0000 0xFF00 0x2800).2, h, Prod.ext h1 rfl⟩
theorem wit_RegisterRequests_4 : ∃ (r : Req) (s u v : State), admitOp { code := 0x0800, level := 2, lens := [5] } r s = .served u ∧ r.num 0 1 < 72 ∧ gzCfgOk (r.num 0 1) (r.num 1 4) = true ∧
    u.regWrite .host r.session (F.GZ_CH_CFG_MODE (r.num 0 1)).addr 0xFFFFFFFF (r.num 1 4) = (stOK, v) := by
  obtain ⟨u, h, h1, h2⟩ := exists_served (a := admitOp { code := 0x0800, level := 2, lens := [5] } (rqst 0x0800 [0, 0, 0, 0, 1]) host)
    (P := fun u => gzCfgOk 0 1 = true ∧ (u.regWrite .host 1 (F.GZ_CH_CFG_MODE 0).addr 0xFFFFFFFF 1).1 = stOK) (by decide +kernel)
  exact ⟨_, _, u, (u.regWrite .host 1 (F.GZ_CH_CFG_MODE 0).addr 0xFFFFFFFF 1).2, h, by decide, h1, Prod.ext h2 rfl⟩
theorem wit_RegisterRequests_5 : ∃ (r : Req) (s u : State) (ws : List Nat), admitOp { code := 0x0103, level := if r.params.length = 2 ∧ (mbxQuantity (r.num 0 2)).isSome then 2 else 1, lens := [2] } r s = .served u ∧ u.mbxValue (r.num 0 2) = some ws ∧ u.mbxBusy r.session = false := by
  obtain ⟨u, h, h1, h2⟩ := exists_served (a := admitOp { code := 0x0103, level := 1, lens := [2] } (rqst 0x0103 [0, 1]) host)
    (P := fun u => (u.mbxValue 1).isSome = true ∧ u.mbxBusy 1 = false) (by decide +kernel)
  obtain ⟨ws, hw⟩ := Option.isSome_iff_exists.1 h1
  exact ⟨_, _, u, ws, h, hw, h2⟩
theorem wit_RegisterRequests_5b : ∃ (r : Req) (s u : State) (st q : Nat), admitOp { code := 0x0103, level := if r.params.length = 2 ∧ (mbxQuantity (r.num 0 2)).isSome then 2 else 1, lens := [2] } r s = .served u ∧
    u.mbxValue (r.num 0 2) = none ∧ mbxQuantity (r.num 0 2) = some (st, q) ∧ (u.quantityCodes st).contains q = true ∧ u.tlmServed st = true ∧ u.mbxBusy r.session = false := by
  obtain ⟨u, h, h1, h2, h3, h4⟩ := exists_served (a := admitOp { code := 0x0103, level := 2, lens := [2] } (rqst 0x0103 [0x17, 0]) host)
    (P := fun u => (u.mbxValue 0x1700).isNone = true ∧ (u.quantityCodes 7).contains 0 = true ∧ u.tlmServed 7 = true ∧ u.mbxBusy 1 = false) (by decide +kernel)
  exact ⟨_, _, u, 7, 0, h, Option.isNone_iff_eq_none.1 h1, by decide, h2, h3, h4⟩
theorem wit_RegisterRequests_6 : ∃ (r : Req) (s u : State), admitOp { code := 0x0104 } r s = .served u ∧ u.com.hold = none := ⟨rqst 0x0104 [], host, exists_served (by decide +kernel)⟩
/-- Session 1 holds its writes; and another session does. -/
def holding (id : Word) : State := { host with com := { host.com with hold := some ⟨id, 0⟩ } }
theorem wit_RegisterRequests_7 : ∃ (r : Req) (s u : State) (h : Hold), admitOp { code := 0x0105 } r s = .served u ∧ u.com.hold = some h ∧ h.session = r.session := by
  obtain ⟨u, h, h1⟩ := exists_served (a := admitOp { code := 0x0105 } (rqst 0x0105 []) (holding 1)) (P := fun u => u.com.hold = some ⟨1, 0⟩) (by decide +kernel)
  exact ⟨_, _, u, ⟨1, 0⟩, h, h1, rfl⟩
theorem wit_RegisterRequests_8 : ∃ (r : Req) (s u : State), admitOp { code := 0x0106 } r s = .served u := ⟨rqst 0x0106 [], host, exists_served0 (by decide +kernel)⟩
theorem wit_RegisterEvents_1 : ∃ (t : Nat) (s u : State), s.advance t = u ∧ u.mainUp = true ∧ isRcs 4 = true ∧ (0xD0000 : Word).toNat / 65536 = 0xD ∧ isLimit F.SLT_BUDGET_CHOP_PCONT.addr = true :=
  ⟨0, host, _, rfl, by decide +kernel, by decide +kernel, by decide, by decide +kernel⟩
theorem wit_RegisterEvents_2 : ∃ (t : Nat) (id : Word) (x : Session) (s u : State), s.advance t = u ∧ u.mainUp = true ∧ u.session id = some x ∧ 3 ≤ x.level :=
  ⟨0, 1, _, host, _, rfl, by decide +kernel, rfl, by decide⟩
/-- A snapshot of session 1 stands. -/
def snapshot : State := host.mbxStore 1 1 [0, 0]
theorem wit_RegisterEvents_3 : ∃ (t : Nat) (id : Word) (s u : State), s.advance t = u ∧ u.com.mbxOwner = some id ∧ u.getB F.SYS_MBX_CTRL_VALID = true := ⟨0, 1, snapshot, _, rfl, by decide +kernel, by decide +kernel⟩
theorem wit_RegisterEvents_4 : ∃ (t : Nat) (s u : State), s.advance t = u ∧ u.com.mbxAt + 100 * ticksPerMs ≤ u.now ∧ u.getB F.SYS_MBX_CTRL_VALID = true :=
  ⟨640000000, snapshot, _, rfl, by decide +kernel, by decide +kernel⟩
theorem wit_RegisterEvents_5 : ∃ (t : Nat) (h : Hold) (s u : State), s.advance t = u ∧ u.com.hold = some h ∧ h.since + 100 * ticksPerMs ≤ u.now := ⟨640000000, ⟨1, 0⟩, holding 1, _, rfl, rfl, by decide +kernel⟩
/-- The state after reset is sound. -/
theorem test_reset_sound : State.reset.Sound := ⟨by decide, by decide, by decide, by decide, by decide +kernel, ⟨List.Pairwise.nil, fun p h => by cases h⟩⟩
theorem wit_IdleStep : ∃ s : State, s.pending = [] := ⟨State.reset, rfl⟩
theorem wit_StepKeepsSound : ∃ s t : State, s.Sound ∧ step s = .next t := ⟨State.reset, _, test_reset_sound, rfl⟩
theorem wit_RidgeTakesNothingBack : ∃ (s t : State), exec (.dayClose 0) s = .next t ∧ s.rdg.keysErased = true ∧ s.rdg.sealed = 2 :=
  ⟨{ State.reset with rdg := { State.reset.rdg with keysErased := true, sealed := 2 } }, _, rfl, rfl, rfl⟩
theorem wit_RidgeEventsFrame : ∃ (s v : State), exec (.wpiPulse 0) s = .next v := ⟨State.reset, _, rfl⟩
theorem wit_EngineInstructionsFrame : ∃ (s t : State), s.executes 14 = true ∧ exec (.fadd 14 3 1 2) s = .next t := by
  have h : (running floats).executes 14 = true := by decide +kernel
  exact ⟨running floats, (running floats).leFloat 14 3 (F32.add (running floats).nan ((running floats).leReg 14 1) ((running floats).leReg 14 2)) 1, h,
    (if_pos h : State.onEngine (running floats) 14 _ = _)⟩
theorem wit_ReadRequestsFrame : ∃ (r : Req) (s t : State), exec (.getState r) s = .next t ∧ s.Sound := ⟨rqst 0x0002 [], State.reset, _, rfl, test_reset_sound⟩
theorem wit_EventRegisters_1 : ∃ r ∈ (List.range 15).flatMap blockRegs, (r.fields.any fun f => f.acc == .rcs) = true := by decide +kernel
theorem wit_EventRegisters_2 : ∃ (s : State) (a n : Nat), s.Sound ∧ a = F.SYS_WRSTAT_MIRROR_W.addr ∧ n < 24 := ⟨State.reset, 4, 23, test_reset_sound, rfl, by decide⟩
theorem wit_EventClearRule_1 : ∃ (s : State) (mask : Nat), s.Sound ∧ bitsOf mask 31 24 ≠ 255 := ⟨State.reset, 0x7F000000, test_reset_sound, by decide⟩
theorem wit_EventClearRule_2 : ∃ (s : State) (a mask value : Nat), s.Sound ∧ bitsOf mask 31 24 = 255 ∧ bitsOf value 31 24 ≠ s.getF ⟨a, 31, 24⟩ :=
  ⟨State.reset, 4, 0xFF000000, 0x01000000, test_reset_sound, by decide, by decide +kernel⟩
theorem wit_EventClearRule_3 : ∃ (s : State) (a mask value : Nat), s.Sound ∧ bitsOf mask 31 24 = 255 ∧ bitsOf value 31 24 = s.getF ⟨a, 31, 24⟩ :=
  ⟨State.reset, 4, 0xFF00001F, 0, test_reset_sound, by decide, by decide +kernel⟩
/-- The cache of session 1 holds the sequence number 5 with a CRC and, where one is given, a reply. -/
def cached (crc : Word) (rep : Option Reply) : State := { host with com := { host.com with sessions := [⟨1, .can0, 0, 3, 3, none, false, 0, 0, true, [⟨5, crc, rep⟩]⟩] } }
theorem wit_Duplicate_1 : ∃ (o : Op) (r : Req) (s : State) (x : Session) (e : CacheEntry) (rep : Reply), s.passesFour o r = true ∧ r.session ≠ 0 ∧ s.session r.session = some x ∧
    x.cache.find? (fun y => y.seq == r.seq) = some e ∧ e.crc = r.crc ∧ e.reply = some rep :=
  ⟨{ code := 0x0203 }, rqst 0x0203 [], cached (rqst 0x0203 []).crc (some ⟨0x0203, 5, 1, 0, []⟩), _, _, ⟨0x0203, 5, 1, 0, []⟩, by decide +kernel, by decide, rfl, rfl, rfl, rfl⟩
theorem wit_Duplicate_2 : ∃ (o : Op) (r : Req) (s : State) (x : Session) (e : CacheEntry), s.passesFour o r = true ∧ r.session ≠ 0 ∧ s.session r.session = some x ∧
    x.cache.find? (fun y => y.seq == r.seq) = some e ∧ e.crc = r.crc ∧ e.reply = none :=
  ⟨{ code := 0x0203 }, rqst 0x0203 [], cached (rqst 0x0203 []).crc none, _, _, by decide +kernel, by decide, rfl, rfl, rfl, rfl⟩
theorem wit_Duplicate_3 : ∃ (o : Op) (r : Req) (s : State) (x : Session) (e : CacheEntry), s.passesFour o r = true ∧ r.session ≠ 0 ∧ s.session r.session = some x ∧
    x.cache.find? (fun y => y.seq == r.seq) = some e ∧ e.crc ≠ r.crc :=
  ⟨{ code := 0x0203 }, rqst 0x0203 [], cached 0 none, _, _, by decide +kernel, by decide, rfl, rfl, by decide +kernel⟩
theorem wit_DrvenLow : ∃ s : State, s.Sound := ⟨State.reset, test_reset_sound⟩
theorem wit_WheelPulse : ∃ (t : Nat) (s u : State), s.advance t = u ∧ u.qpRunning = true ∧ 0 < u.wpiK := ⟨0, State.reset, _, rfl, by decide +kernel, by decide +kernel⟩
theorem wit_DaySealRoot : ∃ l : List (List Byte), 2 ≤ l.length := ⟨[[1], [2]], by decide⟩
/-- An unsealed Ridge with the scaling of its inputs set. -/
def sealable : State := { State.reset with rdg := { State.reset.rdg with params := (List.range 6).map fun k => (0x0030 + k, 0x3F800000) } }
theorem wit_SealRules_1 : ∃ (s : State) (body : List Byte), body ≠ paramHash s.rdg.params := ⟨State.reset, [], by decide +kernel⟩
theorem wit_SealRules_2 : ∃ (s : State) (body : List Byte), body = paramHash s.rdg.params ∧ s.rdg.sealed = 1 := ⟨{ sealable with rdg := { sealable.rdg with sealed := 1 } }, _, rfl, rfl⟩
theorem wit_SealRules_3 : ∃ (s : State) (body : List Byte), body = paramHash s.rdg.params ∧ s.rdg.sealed = 2 := ⟨{ sealable with rdg := { sealable.rdg with sealed := 2 } }, _, rfl, rfl⟩
theorem wit_SealRules_4 : ∃ (s : State) (slot : Nat) (body : List Byte), body = paramHash s.rdg.params ∧ s.rdg.sealed = 0 ∧ slot ≠ 0xFF ∧ s.rdgScaled = true ∧ s.rdg.lec < 0xFFFFFFFF :=
  ⟨sealable, 3, _, rfl, rfl, by decide, by decide +kernel, by decide⟩
theorem wit_SealRules_5 : ∃ (s : State) (slot : Nat) (body : List Byte), (s.rdgSeal slot body).1 = stOK := ⟨sealable, 3, paramHash sealable.rdg.params, by decide +kernel⟩
theorem wit_HeaderCheck_1 : ∃ (t : Nat) (p : Port) (bs : List Byte) (s u : State), s.advance t = u ∧ u.mainUp = true ∧ u.pwr.sleep = none ∧ u.portOpen p = true ∧
    20 ≤ bs.length ∧ bs.getD 0 0 = 1 ∧ (p = .spi → beAt bs 6 2 = bs.length - 20) ∧ (p ≠ .spi → beAt bs 6 2 ≤ bs.length - 20) ∧ beAt bs 6 2 + 20 ≤ maxPacket p false :=
  ⟨0, .can0, 1 :: List.replicate 19 0, State.reset, _, rfl, by decide +kernel, rfl, by decide +kernel, by decide, by decide, by decide, by decide, by decide⟩
theorem wit_HeaderCheck_2 : ∃ (t : Nat) (p : Port) (bs : List Byte) (s u : State), s.advance t = u ∧ u.mainUp = true ∧ u.pwr.sleep = none ∧ u.portOpen p = true ∧ ¬ 20 ≤ bs.length :=
  ⟨0, .can0, 1 :: List.replicate 18 0, State.reset, _, rfl, by decide +kernel, rfl, by decide +kernel, by decide⟩
theorem host_sound : host.Sound := ⟨by decide, by decide, by decide, by decide, by decide +kernel, ⟨List.Pairwise.nil, fun p h => by cases h⟩⟩
theorem wit_MirrorWrite : ∃ (r : Req) (s u : State), s.Sound ∧ admitOp { code := 0x0101, level := if 4 ≤ r.params.length then writeLevel (r.num 0 4) else 1, lens := [12] } r s = .served u ∧ r.num 0 4 / 65536 = 0xD := by
  obtain ⟨u, h, h1⟩ := exists_served (a := admitOp { code := 0x0101, level := 1, lens := [12] } (rqst 0x0101 [0, 13, 255, 255, 0, 0, 0, 0, 0, 0, 0, 0]) host)
    (P := fun _ => (rqst 0x0101 [0, 13, 255, 255, 0, 0, 0, 0, 0, 0, 0, 0]).num 0 4 / 65536 = 0xD) (by decide +kernel)
  exact ⟨_, _, u, host_sound, h, h1⟩
theorem wit_SecondHold : ∃ (r : Req) (s u : State) (h : Hold), admitOp { code := 0x0104 } r s = .served u ∧ u.com.hold = some h ∧ h.session ≠ r.session := by
  obtain ⟨u, h, h1⟩ := exists_served (a := admitOp { code := 0x0104 } (rqst 0x0104 []) (holding 2)) (P := fun u => u.com.hold = some ⟨2, 0⟩) (by decide +kernel)
  exact ⟨_, _, u, ⟨2, 0⟩, h, h1, by decide⟩
/-- A request of session 0 with its CRC made right. -/
def outer (code : Nat) (ps : List Byte) : Req := ({ session := 0, seq := 5, params := ps } : Req).withCrc code
theorem wit_CheckOrder_1 : ∃ (o : Op) (r : Req) (s u : State), s.advance r.time = u ∧ u.receives r o.code = true ∧ (r.port = .spi → u.com.spiOut.length < 8) ∧ r.intact = true ∧ r.crc.toNat ≠ r.wantCrc o.code :=
  ⟨{ code := 0x0203 }, { rqst 0x0203 [] with crc := 0 }, host, _, rfl, by decide +kernel, by decide, by decide +kernel, by decide +kernel⟩
theorem wit_CheckOrder_2 : ∃ (o : Op) (r : Req) (s u : State), s.advance r.time = u ∧ u.receives r o.code = true ∧ (r.port = .spi → u.com.spiOut.length < 8) ∧ r.intact = true ∧ r.crc.toNat = r.wantCrc o.code ∧ (r.flags ≠ 0 ∨ r.reserved ≠ 0) :=
  ⟨{ code := 0x0203 }, ({ session := 1, seq := 5, flags := 1 } : Req).withCrc 0x0203, host, _, rfl, by decide +kernel, by decide, by decide +kernel, by decide +kernel, by decide⟩
theorem wit_CheckOrder_3 : ∃ (o : Op) (r : Req) (s u : State), s.advance r.time = u ∧ u.receives r o.code = true ∧ (r.port = .spi → u.com.spiOut.length < 8) ∧ r.intact = true ∧ r.crc.toNat = r.wantCrc o.code ∧ r.flags = 0 ∧ r.reserved = 0 ∧
    u.getB F.SYS_BOOT_RECOVERY = true ∧ o.code ∉ recoveryOps :=
  ⟨{ code := 0x0203 }, rqst 0x0203 [], host.setB F.SYS_BOOT_RECOVERY true, _, rfl, by decide +kernel, by decide, by decide +kernel, by decide +kernel, by decide, by decide, by decide +kernel, by decide⟩
theorem wit_CheckOrder_4 : ∃ (o : Op) (r : Req) (s u : State), s.advance r.time = u ∧ u.receives r o.code = true ∧ (r.port = .spi → u.com.spiOut.length < 8) ∧ r.intact = true ∧ r.crc.toNat = r.wantCrc o.code ∧ r.flags = 0 ∧ r.reserved = 0 ∧
    (u.getB F.SYS_BOOT_RECOVERY = false ∨ o.code ∈ recoveryOps) ∧ r.session ≠ 0 ∧ ∀ x, u.session r.session = some x → x.port = r.port → x.mac = senderKey r.port r.mac → x.level < o.level :=
  ⟨{ code := 0x0B01, level := 2 }, rqst 0x0B01 [], { host with com := { host.com with sessions := [⟨1, .can0, 0, 1, 1, none, false, 0, 0, true, []⟩] } }, _, rfl, by decide +kernel, by decide, by decide +kernel, by decide +kernel, by decide, by decide,
    .inl (by decide +kernel), by decide, fun x h _ _ => by cases h; decide⟩
theorem wit_CheckOrder_5 : ∃ (o : Op) (lo : Nat → Bool) (r : Req) (s u : State), s.advance r.time = u ∧ u.receives r o.code = true ∧ (r.port = .spi → u.com.spiOut.length < 8) ∧ r.intact = true ∧ r.crc.toNat = r.wantCrc o.code ∧ r.flags = 0 ∧ r.reserved = 0 ∧
    (u.getB F.SYS_BOOT_RECOVERY = false ∨ o.code ∈ recoveryOps) ∧ r.session = 0 ∧ o.level = 0 ∧ lo r.params.length = false :=
  ⟨{ code := 0x0002, level := 0 }, fun n => n == 0, outer 0x0002 [1], State.reset, _, rfl, by decide +kernel, by decide, by decide +kernel, by decide +kernel, by decide, by decide, .inl (by decide +kernel), rfl, rfl, by decide⟩

end Sys2Proof.Tests
end

section
/-! What a step does on an empty queue, and what the registers read at reset: with no word listed, every field reads the Reset column of its register map (R6). -/

namespace Sys2Proof.Machine
open Sys2Proof

/-- Settles O2: the empty queue selects the idle branch of `step`. -/
theorem idleStepAdvancesClock : Obligations.IdleStepAdvancesClock := by
  unfold Obligations.IdleStepAdvancesClock
  intro s idle
  rw [step, idle]

/-- With no register word listed, a field reads its bits of the reset word. -/
theorem State.getF_of_regs_nil {s : State} (h : s.regs = []) (f : Fld) : s.getF f = f.of (resetWord f.addr) := by
  rw [State.getF, State.getW, h, sparseFind, Option.getD_none]

/-- After reset no register word is listed (R6). -/
theorem State.getF_reset (f : Fld) : State.reset.getF f = f.of (resetWord f.addr) :=
  State.getF_of_regs_nil rfl f

/-- The power state after reset is the Reset column of PWR_STATE.STATE. -/
theorem State.power_reset : State.reset.power = F.PWR_STATE_STATE.of (resetWord F.PWR_STATE_STATE.addr) :=
  State.getF_reset _

/-- Settles O59: each field reads its bits of the reset word, and the register map gives that word at the sixteen addresses. -/
theorem resetValues : Obligations.ResetValues := by
  unfold Obligations.ResetValues
  simp only [State.power_reset, State.getF_reset]
  decide

end Sys2Proof.Machine
end

section
/-! Every command, through `exec`, keeps what every step keeps: the queue, the clock's direction, soundness, and what the Ridge never takes back. -/

namespace Sys2Proof.Machine
open Sys2Proof

/-- Whatever the command, its meaning keeps what every step keeps: one arm per row of the opcode table. -/
theorem exec_keeps {z s : State} (c : Instr) (h : Keeps z s) : KeepsOut z (exec c s) :=
  match c with
  | .ping .. => execPing_keeps h
  | .getState .. => execGetState_keeps h
  | .setState .. => execSetState_keeps h
  | .getVersion .. => execGetVersion_keeps h
  | .heartbeat .. => execHeartbeat_keeps h
  | .sessionOpen .. => execSessionOpen_keeps h
  | .sessionProve .. => execSessionProve_keeps h
  | .proofVerified .. => execProofVerified_keeps h
  | .authLockoutEnd .. => execAuthLockoutEnd_keeps h
  | .sessionClose .. => execSessionClose_keeps h
  | .sessionIdleExpiry .. => execSessionIdleExpiry_keeps h
  | .challengeExpiry .. => execChallengeExpiry_keeps h
  | .ethLinkDown .. => execEthLinkDown_keeps h
  | .regRead .. => execRegRead_keeps h
  | .regReadBlock .. => execRegReadBlock_keeps h
  | .regWrite .. => execRegWrite_keeps h
  | .registerWrite .. => execRegisterWrite_keeps h
  | .eventClear .. => execEventClear_keeps h
  | .mirrorWrite .. => execMirrorWrite_keeps h
  | .carrierRun .. => execCarrierRun_keeps h
  | .carrierStop .. => execCarrierStop_keeps h
  | .gzCfgWrite .. => execGzCfgWrite_keeps h
  | .sltLimitWrite .. => execSltLimitWrite_keeps h
  | .wearResetWrite .. => execWearResetWrite_keeps h
  | .debugUnlockWrite .. => execDebugUnlockWrite_keeps h
  | .mbxSnapshot .. => execMbxSnapshot_keeps h
  | .mbxLastWordRead .. => execMbxLastWordRead_keeps h
  | .mbxExpiry .. => execMbxExpiry_keeps h
  | .applyHold .. => execApplyHold_keeps h
  | .applyRelease .. => execApplyRelease_keeps h
  | .holdExpired .. => execHoldExpired_keeps h
  | .lock .. => execLock_keeps h
  | .pwrStateSet .. => execPwrStateSet_keeps h
  | .sleepEntry .. => execSleepEntry_keeps h
  | .sleepReplyExpired .. => execSleepReplyExpired_keeps h
  | .wakeSources .. => execWakeSources_keeps h
  | .bkpChargerSet .. => execBkpChargerSet_keeps h
  | .bkpStatus .. => execBkpStatus_keeps h
  | .driveArm .. => execDriveArm_keeps h
  | .driveStart .. => execDriveStart_keeps h
  | .driveStop .. => execDriveStop_keeps h
  | .torqueSet .. => execTorqueSet_keeps h
  | .speedLimitSet .. => execSpeedLimitSet_keeps h
  | .driveDisarm .. => execDriveDisarm_keeps h
  | .chgSessionBegin .. => execChgSessionBegin_keeps h
  | .chgSet .. => execChgSet_keeps h
  | .chgSessionEnd .. => execChgSessionEnd_keeps h
  | .pilotStatus .. => execPilotStatus_keeps h
  | .auxEnable .. => execAuxEnable_keeps h
  | .auxSet .. => execAuxSet_keeps h
  | .auxDisable .. => execAuxDisable_keeps h
  | .auxPhaseMask .. => execAuxPhaseMask_keeps h
  | .shiftTo .. => execShiftTo_keeps h
  | .parkEngage .. => execParkEngage_keeps h
  | .parkRelease .. => execParkRelease_keeps h
  | .actHome .. => execActHome_keeps h
  | .leLoad .. => execLeLoad_keeps h
  | .leBankWrite .. => execLeBankWrite_keeps h
  | .leBankSwap .. => execLeBankSwap_keeps h
  | .leMode .. => execLeMode_keeps h
  | .leTableWrite .. => execLeTableWrite_keeps h
  | .gzConfig .. => execGzConfig_keeps h
  | .gzInject .. => execGzInject_keeps h
  | .injectionDelivered .. => execInjectionDelivered_keeps h
  | .gzCalibrate .. => execGzCalibrate_keeps h
  | .calibrationStart .. => execCalibrationStart_keeps h
  | .calibrationDone .. => execCalibrationDone_keeps h
  | .gzRead .. => execGzRead_keeps h
  | .safeStatus .. => execSafeStatus_keeps h
  | .faultLogRead .. => execFaultLogRead_keeps h
  | .faultAck .. => execFaultAck_keeps h
  | .ridgeStatus .. => execRidgeStatus_keeps h
  | .ridgeReadRecords .. => execRidgeReadRecords_keeps h
  | .ridgeReadSeal .. => execRidgeReadSeal_keeps h
  | .ridgeReadEvents .. => execRidgeReadEvents_keeps h
  | .ridgeReply .. => execRidgeReply_keeps h
  | .ridgeQueryTimeout .. => execRidgeQueryTimeout_keeps h
  | .ridgeParamWrite .. => execRidgeParamWrite_keeps h
  | .ridgeSeal .. => execRidgeSeal_keeps h
  | .ridgeTimeAdjust .. => execRidgeTimeAdjust_keeps h
  | .ridgeLockoutEnd .. => execRidgeLockoutEnd_keeps h
  | .rlinkFrame .. => execRlinkFrame_keeps h
  | .imgRead .. => execImgRead_keeps h
  | .imgStage .. => execImgStage_keeps h
  | .imageChecked .. => execImageChecked_keeps h
  | .imgCommit .. => execImgCommit_keeps h
  | .imgCommitDone .. => execImgCommitDone_keeps h
  | .fwStage .. => execFwStage_keeps h
  | .fwImageChecked .. => execFwImageChecked_keeps h
  | .fwActivate .. => execFwActivate_keeps h
  | .fwActivateReset .. => execFwActivateReset_keeps h
  | .identRead .. => execIdentRead_keeps h
  | .attest .. => execAttest_keeps h
  | .attestSigned .. => execAttestSigned_keeps h
  | .certRead .. => execCertRead_keeps h
  | .tlmRead .. => execTlmRead_keeps h
  | .tlmStream .. => execTlmStream_keeps h
  | .tlmStreamFrame .. => execTlmStreamFrame_keeps h
  | .lastfaultRead .. => execLastfaultRead_keeps h
  | .thermRead .. => execThermRead_keeps h
  | .wearRead .. => execWearRead_keeps h
  | .spareStatus .. => execSpareStatus_keeps h
  | .undefinedOpcode .. => execUndefinedOpcode_keeps h
  | .packetDiscard .. => execPacketDiscard_keeps h
  | .bootPacketDiscard _ port bytes => execBootPacketDiscard_keeps (x1 := port) (x2 := bytes) h
  | .spiTransaction .. => execSpiTransaction_keeps h
  | .handoverToBkp .. => execHandoverToBkp_keeps h
  | .handoverComplete .. => execHandoverComplete_keeps h
  | .vsupLow .. => execVsupLow_keeps h
  | .vsupValid .. => execVsupValid_keeps h
  | .bkpRise .. => execBkpRise_keeps h
  | .bkpFall .. => execBkpFall_keeps h
  | .wakeNQualified .. => execWakeNQualified_keeps h
  | .tc10Wake .. => execTc10Wake_keeps h
  | .cpWake .. => execCpWake_keeps h
  | .ppSample .. => execPpSample_keeps h
  | .wheelPulseWake .. => execWheelPulseWake_keeps h
  | .rtcAlarm .. => execRtcAlarm_keeps h
  | .sleepTimeout .. => execSleepTimeout_keeps h
  | .nrst .. => execNrst_keeps h
  | .nrstRelease .. => execNrstRelease_keeps h
  | .boot .. => execBoot_keeps h
  | .bootStandbyReached .. => execBootStandbyReached_keeps h
  | .eaveRealign .. => execEaveRealign_keeps h
  | .bkpSample .. => execBkpSample_keeps h
  | .bkpDead .. => execBkpDead_keeps h
  | .bkpTimer .. => execBkpTimer_keeps h
  | .topoffEnd .. => execTopoffEnd_keeps h
  | .bkpRest .. => execBkpRest_keeps h
  | .cellTempSuspend .. => execCellTempSuspend_keeps h
  | .bkpNtcFault .. => execBkpNtcFault_keeps h
  | .bkpOvervoltage .. => execBkpOvervoltage_keeps h
  | .bkpNoCell .. => execBkpNoCell_keeps h
  | .bkpNoCellRetry .. => execBkpNoCellRetry_keeps h
  | .chargerFallback .. => execChargerFallback_keeps h
  | .charge8hLimit .. => execCharge8hLimit_keeps h
  | .ridgeVrdgLoss .. => execRidgeVrdgLoss_keeps h
  | .ridgeVrdgReturn .. => execRidgeVrdgReturn_keeps h
  | .shortInterruptionClose .. => execShortInterruptionClose_keeps h
  | .sltClockLoss .. => execSltClockLoss_keeps h
  | .gzIslandClock .. => execGzIslandClock_keeps h
  | .delayLineRecal .. => execDelayLineRecal_keeps h
  | .shadowGuard .. => execShadowGuard_keeps h
  | .periodStart .. => execPeriodStart_keeps h
  | .feedforward .. => execFeedforward_keeps h
  | .edgeRelease .. => execEdgeRelease_keeps h
  | .minPulseHoldEnd .. => execMinPulseHoldEnd_keeps h
  | .bootstrapUndervoltage .. => execBootstrapUndervoltage_keeps h
  | .millerClamp .. => execMillerClamp_keeps h
  | .tripInputLow .. => execTripInputLow_keeps h
  | .drvenLow .. => execDrvenLow_keeps h
  | .drvenCycle .. => execDrvenCycle_keeps h
  | .gdShortCircuit .. => execGdShortCircuit_keeps h
  | .softTurnOffEnd .. => execSoftTurnOffEnd_keeps h
  | .gdVpUv .. => execGdVpUv_keeps h
  | .gdVnUv .. => execGdVnUv_keeps h
  | .gdVdrvUv .. => execGdVdrvUv_keeps h
  | .gdGateMismatch .. => execGdGateMismatch_keeps h
  | .compOutput .. => execCompOutput_keeps h
  | .fastOutput .. => execFastOutput_keeps h
  | .fineOutput .. => execFineOutput_keeps h
  | .throttleEnd .. => execThrottleEnd_keeps h
  | .mramInhibitEnd .. => execMramInhibitEnd_keeps h
  | .overrange .. => execOverrange_keeps h
  | .overrangeEnd .. => execOverrangeEnd_keeps h
  | .gzXbFlat .. => execGzXbFlat_keeps h
  | .slotConversion .. => execSlotConversion_keeps h
  | .refBufferReady .. => execRefBufferReady_keeps h
  | .slotStart .. => execSlotStart_keeps h
  | .backgroundWake .. => execBackgroundWake_keeps h
  | .lateSlot .. => execLateSlot_keeps h
  | .leHung .. => execLeHung_keeps h
  | .leSatExpired .. => execLeSatExpired_keeps h
  | .leFeExpired .. => execLeFeExpired_keeps h
  | .leDerateDwell .. => execLeDerateDwell_keeps h
  | .ld .. => execLd_keeps h
  | .st .. => execSt_keeps h
  | .ldb .. => execLdb_keeps h
  | .fadd .. => execFadd_keeps h
  | .fsub .. => execFsub_keeps h
  | .fmul .. => execFmul_keeps h
  | .fma .. => execFma_keeps h
  | .fmin .. => execFmin_keeps h
  | .fmax .. => execFmax_keeps h
  | .fabs .. => execFabs_keeps h
  | .fneg .. => execFneg_keeps h
  | .fdiv .. => execFdiv_keeps h
  | .fsqrt .. => execFsqrt_keeps h
  | .qadd _ q .. => execQadd_keeps (x1 := q) h
  | .qsub _ q .. => execQsub_keeps (x1 := q) h
  | .qmul .. => execQmul_keeps h
  | .cvtqf .. => execCvtqf_keeps h
  | .cvtfq .. => execCvtfq_keeps h
  | .sincos .. => execSincos_keeps h
  | .atan2 .. => execAtan2_keeps h
  | .cvtg .. => execCvtg_keeps h
  | .cvtc .. => execCvtc_keeps h
  | .piBlock .. => execPiBlock_keeps h
  | .preset .. => execPreset_keeps h
  | .sat _ _ a => execSat_keeps (x2 := a) h
  | .tlook .. => execTlook_keeps h
  | .time .. => execTime_keeps h
  | .lput .. => execLput_keeps h
  | .link .. => execLink_keeps h
  | .lwait .. => execLwait_keeps h
  | .lwaitTimeout .. => execLwaitTimeout_keeps h
  | .br .. => execBr_keeps h
  | .loop .. => execLoop_keeps h
  | .post .. => execPost_keeps h
  | .endSlot .. => execEndSlot_keeps h
  | .pace .. => execPace_keeps h
  | .wait .. => execWait_keeps h
  | .ascExit .. => execAscExit_keeps h
  | .listenEnd .. => execListenEnd_keeps h
  | .brakeStandstill .. => execBrakeStandstill_keeps h
  | .trcBrakeAbort .. => execTrcBrakeAbort_keeps h
  | .stopRampEnd .. => execStopRampEnd_keeps h
  | .trcRotorLost .. => execTrcRotorLost_keeps h
  | .excRetime .. => execExcRetime_keeps h
  | .spAscRelease .. => execSpAscRelease_keeps h
  | .pilotEvaluation .. => execPilotEvaluation_keeps h
  | .gridQualified .. => execGridQualified_keeps h
  | .vpfcPrecharged .. => execVpfcPrecharged_keeps h
  | .chgGridTrip .. => execChgGridTrip_keeps h
  | .gridReconnect .. => execGridReconnect_keeps h
  | .powerRampEnd .. => execPowerRampEnd_keeps h
  | .chgHostless .. => execChgHostless_keeps h
  | .chgHostlessStop .. => execChgHostlessStop_keeps h
  | .chgVbatWindow .. => execChgVbatWindow_keeps h
  | .auxV48Window .. => execAuxV48Window_keeps h
  | .shedLevelChange .. => execShedLevelChange_keeps h
  | .shedRotation .. => execShedRotation_keeps h
  | .sheddingEnd .. => execSheddingEnd_keeps h
  | .burstRestart .. => execBurstRestart_keeps h
  | .auxRegulated .. => execAuxRegulated_keeps h
  | .auxSenseLost .. => execAuxSenseLost_keeps h
  | .auxOverload .. => execAuxOverload_keeps h
  | .auxVoutHigh .. => execAuxVoutHigh_keeps h
  | .auxStopComplete .. => execAuxStopComplete_keeps h
  | .prechargeDone .. => execPrechargeDone_keeps h
  | .auxPrechargeTimeout .. => execAuxPrechargeTimeout_keeps h
  | .hallEdge .. => execHallEdge_keeps h
  | .actHallFault .. => execActHallFault_keeps h
  | .actPosSensor .. => execActPosSensor_keeps h
  | .profileSegment .. => execProfileSegment_keeps h
  | .shiftTargetReached .. => execShiftTargetReached_keeps h
  | .actShiftTimeout .. => execActShiftTimeout_keeps h
  | .motionEnd .. => execMotionEnd_keeps h
  | .homeStopFound .. => execHomeStopFound_keeps h
  | .actHomeFail .. => execActHomeFail_keeps h
  | .lockedRotor .. => execLockedRotor_keeps h
  | .retryRestart .. => execRetryRestart_keeps h
  | .pawlState .. => execPawlState_keeps h
  | .parkSwitchDisagree .. => execParkSwitchDisagree_keeps h
  | .pawlBlocked .. => execPawlBlocked_keeps h
  | .parkNotEngaged .. => execParkNotEngaged_keeps h
  | .parkMoveTimeout .. => execParkMoveTimeout_keeps h
  | .parkMotionEngaged .. => execParkMotionEngaged_keeps h
  | .vspdHostExpired .. => execVspdHostExpired_keeps h
  | .lossWindowEnd .. => execLossWindowEnd_keeps h
  | .thmSensorBroken .. => execThmSensorBroken_keeps h
  | .thmDieSensor .. => execThmDieSensor_keeps h
  | .thmOvertemp .. => execThmOvertemp_keeps h
  | .thmNtcOver .. => execThmNtcOver_keeps h
  | .thmModelLost .. => execThmModelLost_keeps h
  | .wearSave .. => execWearSave_keeps h
  | .sltQuestion .. => execSltQuestion_keeps h
  | .spAnswerWord .. => execSpAnswerWord_keeps h
  | .sltQaMiss .. => execSltQaMiss_keeps h
  | .spLockstep .. => execSpLockstep_keeps h
  | .sltLimitCorrupt .. => execSltLimitCorrupt_keeps h
  | .spPeriodicCheck .. => execSpPeriodicCheck_keeps h
  | .safeStateRequest .. => execSafeStateRequest_keeps h
  | .safeStateConfirm .. => execSafeStateConfirm_keeps h
  | .sltBOverrun .. => execSltBOverrun_keeps h
  | .spHoldRelease .. => execSpHoldRelease_keeps h
  | .armingComplete .. => execArmingComplete_keeps h
  | .sltSelftestDue .. => execSltSelftestDue_keeps h
  | .faultFifoDrain .. => execFaultFifoDrain_keeps h
  | .testPulse .. => execTestPulse_keeps h
  | .sinSample .. => execSinSample_keeps h
  | .sinDebounce .. => execSinDebounce_keeps h
  | .sinDiscrepancy .. => execSinDiscrepancy_keeps h
  | .chatter .. => execChatter_keeps h
  | .tpsOverload _ b _ => execTpsOverload_keeps (x1 := b) h
  | .rstreqPress .. => execRstreqPress_keeps h
  | .rstreqRelease .. => execRstreqRelease_keeps h
  | .resetStuck .. => execResetStuck_keeps h
  | .witnessHeartbeat .. => execWitnessHeartbeat_keeps h
  | .witnessAngle .. => execWitnessAngle_keeps h
  | .witnessEnergy .. => execWitnessEnergy_keeps h
  | .witnessMirrorWrite .. => execWitnessMirrorWrite_keeps h
  | .witnessSleep .. => execWitnessSleep_keeps h
  | .rdgWitnessLost .. => execRdgWitnessLost_keeps h
  | .wpiPulse .. => execWpiPulse_keeps h
  | .qpRetention .. => execQpRetention_keeps h
  | .thatchCheck .. => execThatchCheck_keeps h
  | .fieldCheck .. => execFieldCheck_keeps h
  | .wpiOpenTest .. => execWpiOpenTest_keeps h
  | .rdgMbLoss .. => execRdgMbLoss_keeps h
  | .rdgMbFlat .. => execRdgMbFlat_keeps h
  | .ridgeEnergySample .. => execRidgeEnergySample_keeps h
  | .ridgeSecond .. => execRidgeSecond_keeps h
  | .ridgeMinute .. => execRidgeMinute_keeps h
  | .ridgeQuarterHour .. => execRidgeQuarterHour_keeps h
  | .dayClose .. => execDayClose_keeps h
  | .sealSigned .. => execSealSigned_keeps h
  | .ridgeStart .. => execRidgeStart_keeps h
  | .mirrorUpdate .. => execMirrorUpdate_keeps h
  | .ridgeStale .. => execRidgeStale_keeps h
  | .tripInputHigh .. => execTripInputHigh_keeps h
  | .leavesUndervoltage .. => execLeavesUndervoltage_keeps h
  | .ethLinkUp .. => execEthLinkUp_keeps h

/-- Settles O1: the queue is `c :: rest`, which selects the second branch of `step`. -/
theorem stepRunsFrontCommand : Obligations.StepRunsFrontCommand := by
  unfold Obligations.StepRunsFrontCommand
  intro c rest s
  rw [step]

/-- Settles O5: the queue and the direction of the clock are the first two parts of what every command keeps. -/
theorem execLeavesQueueAndClock : Obligations.ExecLeavesQueueAndClock := by
  unfold Obligations.ExecLeavesQueueAndClock
  intro c s t executed
  have kept : KeepsOut s (exec c s) := exec_keeps c (.refl s)
  rw [executed] at kept
  obtain ⟨queue, clock, -⟩ := kept
  exact ⟨queue, clock⟩

end Sys2Proof.Machine
end

section
/-! The mutual checks of Slate and safety processor (R20, R395 to R397, Table 15.1): one equation for each case of an event, `u` being the state at the event. -/

namespace Sys2Proof.Machine
open Sys2Proof

section
variable {t : Nat} {s u : State}

/-- A lost CD5 or CD6 turns every gate off, an ASC included (R20, Table 1.10). -/
theorem execSltClockLoss_edge {clk : SltClock} {missing count : Nat} (now : s.advance t = u) (watched : u.clocksWatched = true)
    (bad : clockBad clk missing count = true) (fresh : u.slt.clkLost.contains clk = false) (edge : clk ≠ .cd3) :
    execSltClockLoss t clk missing count s = .next (((({ u with slt := { u.slt with clkLost := clk :: u.slt.clkLost } }).blockAll.releaseAsc).raise
      Flt.SLT_CLOCK_LOSS { stages := 0x1FF }).showModes) := by
  cases clk with
  | cd3 => exact absurd rfl edge
  | cd5 => simp only [execSltClockLoss, now, watched, bad, fresh]; rfl
  | cd6 => simp only [execSltClockLoss, now, watched, bad, fresh]; rfl

/-- A lost CD3 takes the safety processor with it (R20, R397). -/
theorem execSltClockLoss_cd3 {missing count : Nat} (now : s.advance t = u) (watched : u.clocksWatched = true)
    (bad : clockBad .cd3 missing count = true) (fresh : u.slt.clkLost.contains .cd3 = false) :
    execSltClockLoss t .cd3 missing count s = .next (({ u with slt := { u.slt with clkLost := .cd3 :: u.slt.clkLost } }).spLost Flt.SLT_CLOCK_LOSS none) := by
  simp only [execSltClockLoss, now, watched, bad, fresh]; rfl

/-- A clock back in its window is no longer lost (R20). -/
theorem execSltClockLoss_back {clk : SltClock} {missing count : Nat} (now : s.advance t = u) (watched : u.clocksWatched = true)
    (good : clockBad clk missing count = false) :
    execSltClockLoss t clk missing count s = .next { u with slt := { u.slt with clkLost := u.slt.clkLost.filter fun c => c != clk } } := by
  simp [execSltClockLoss, now, watched, good]

/-- A new question is the next free value; the one before, if unanswered, was a miss (R396). -/
theorem execSltQuestion_due {a : State} (now : s.advance t = u) (up : u.mainUp = true)
    (due : u.slt.questionAt = 0 ∨ u.slt.questionAt + ticksPerMs ≤ u.now) (missed : (if u.qaOpen then u.qaMiss else u) = a) :
    execSltQuestion t s = .next ({ a with free := a.free + 1, slt := { a.slt with question := BitVec.ofNat 16 (Config.freeWord a.free).toNat, questionAt := a.now, words := 0, judged := false } }.wrap F.SLT_QA_QUESTIONS) := by
  simp [execSltQuestion, State.elapsed, State.draw, now, up, due, missed]

/-- A right word below the fourth is counted (R396). -/
theorem execSpAnswerWord_counted {word : BitVec 16} (now : s.advance t = u) (up : u.mainUp = true) (asked : u.slt.questionAt ≠ 0)
    (unjudged : u.slt.judged = false) (early : u.slt.words < 3) (right : word = Config.answerWord u.slt.question u.slt.words) :
    execSpAnswerWord t word s = .next { u with slt := { u.slt with words := u.slt.words + 1 } } := by
  have notFifth : ¬ 4 ≤ u.slt.words := by omega
  simp [execSpAnswerWord, now, up, asked, unjudged, notFifth, early, right]

/-- The fourth right word within its window judges the answer right (R396). -/
theorem execSpAnswerWord_fourth {word : BitVec 16} (now : s.advance t = u) (up : u.mainUp = true) (asked : u.slt.questionAt ≠ 0)
    (unjudged : u.slt.judged = false) (fourth : u.slt.words = 3) (right : word = Config.answerWord u.slt.question u.slt.words)
    (notEarly : u.slt.questionAt + 250 * ticksPerUs ≤ u.now) (notLate : u.now ≤ u.slt.questionAt + 900 * ticksPerUs) :
    execSpAnswerWord t word s = .next ({ u with slt := { u.slt with words := 4, judged := true } }.setB F.SLT_STAT_QA_OK true) := by
  have window : 250 * ticksPerUs ≤ u.now - u.slt.questionAt ∧ u.now - u.slt.questionAt ≤ 900 * ticksPerUs := by omega
  simp [execSpAnswerWord, now, up, asked, unjudged, fourth, right, window]

/-- A wrong word is a miss (R396). -/
theorem execSpAnswerWord_wrong {word : BitVec 16} (now : s.advance t = u) (up : u.mainUp = true) (asked : u.slt.questionAt ≠ 0)
    (unjudged : u.slt.judged = false) (notFifth : u.slt.words < 4) (wrong : word ≠ Config.answerWord u.slt.question u.slt.words) :
    execSpAnswerWord t word s = .next u.qaMiss := by
  simp [execSpAnswerWord, now, up, asked, unjudged, Nat.not_le.2 notFifth, wrong]

/-- A question still open after its window is a miss (R396, R397). -/
theorem execSltQaMiss_late (now : s.advance t = u) (up : u.mainUp = true) (unanswered : u.qaOpen = true)
    (late : u.slt.questionAt + 900 * ticksPerUs < u.now) : execSltQaMiss t s = .next u.qaMiss := by
  simp [execSltQaMiss, now, up, unanswered, late]

/-- A cause that is not recorded yet is recorded and loses the safety processor (R397). -/
theorem State.loseSp_fresh {cause : Nat} {k : FaultKind} {ev : Fld} (fresh : bitAt u.slt.lostBy cause = false) :
    u.loseSp cause k ev = ({ u with slt := { u.slt with lostBy := setBitN u.slt.lostBy cause true } }).spLost k (some ev) := by
  rw [State.loseSp, fresh, if_neg Bool.false_ne_true]

theorem execSpLockstep_fresh (now : s.advance t = u) (up : u.mainUp = true) (fresh : bitAt u.slt.lostBy 1 = false) :
    execSpLockstep t s = .next (({ u with slt := { u.slt with lostBy := setBitN u.slt.lostBy 1 true } }).spLost Flt.SP_LOCKSTEP (some F.SLT_EVT_LOCKSTEP)) := by
  simp only [execSpLockstep, now, up, if_true, State.loseSp_fresh fresh]

/-- The limits of the Slate fail their check for the first time (R395). -/
theorem State.limitsFail_fresh (fresh : u.slt.limitsBad = false) :
    u.limitsFail = (({ u with slt := { u.slt with limitsBad := true } }).event F.SLT_EVT_LIMIT).raise Flt.SLT_LIMIT_CORRUPT { stages := slateStages } := by
  rw [State.limitsFail, fresh, if_neg Bool.false_ne_true]

theorem execSltLimitCorrupt_fresh {parity : Bool} (now : s.advance t = u) (up : u.mainUp = true) (bad : (parity || !u.storeOk) = true)
    (fresh : u.slt.limitsBad = false) :
    execSltLimitCorrupt t parity s = .next ((({ u with slt := { u.slt with limitsBad := true } }).event F.SLT_EVT_LIMIT).raise Flt.SLT_LIMIT_CORRUPT { stages := slateStages }) := by
  rw [← State.limitsFail_fresh fresh]
  simp only [execSltLimitCorrupt, now, up, bad, Bool.not_true, Bool.false_eq_true, if_true, if_false]

/-- A check that passes ends the condition (R395). -/
theorem execSltLimitCorrupt_sound (now : s.advance t = u) (up : u.mainUp = true) (sound : u.storeOk = true) :
    execSltLimitCorrupt t false s = .next { u with slt := { u.slt with limitsBad := false } } := by
  simp [execSltLimitCorrupt, now, up, sound]

/-- A safety processor that is not lost judges drift, gates and torque in turn (Table 15.1). -/
theorem execSpPeriodicCheck_present {dev : Int} {gate : BitVec 9} {torqueA torqueB : Rat} {held : Nat} (now : s.advance t = u)
    (up : u.mainUp = true) (present : u.getB F.SLT_STAT_SP_LOST = false) :
    execSpPeriodicCheck t dev gate torqueA torqueB held s = .next (((u.checkDrift dev held).checkGates gate.toNat).checkTorque torqueA torqueB held) := by
  simp [execSpPeriodicCheck, now, up, present]

end

/-- Settles O18: each clause is the equation of its case of its event. -/
theorem mutualCheckEventsComplete : Obligations.MutualCheckEventsComplete :=
  ⟨fun _ _ _ _ _ _ => execSltClockLoss_edge,
   fun _ _ _ _ _ => execSltClockLoss_cd3,
   fun _ _ _ _ _ _ => execSltClockLoss_back,
   fun _ _ _ _ => execSltQuestion_due,
   fun _ _ _ _ => execSpAnswerWord_counted,
   fun _ _ _ _ => execSpAnswerWord_fourth,
   fun _ _ _ _ => execSpAnswerWord_wrong,
   fun _ _ _ => execSltQaMiss_late,
   fun _ _ _ => execSpLockstep_fresh,
   fun _ _ _ _ => execSltLimitCorrupt_fresh,
   fun _ _ _ => execSltLimitCorrupt_sound,
   fun _ _ _ _ _ _ _ _ => execSpPeriodicCheck_present⟩

end Sys2Proof.Machine
end

section
/-! The Ridge queries of the host, and the authority commands on RLINK and on a transport of the main die (R431, R433, R457 to R465). -/

namespace Sys2Proof.Machine
open Sys2Proof

/-- A served query waits for the Ridge; RIDGE_STATUS needs a transport that its 46 data bytes fit (R433). -/
theorem forwardQuery_served {code len : Nat} {r : Req} {s u : State}
    (served : admitOp { code := code, background := true, lens := [len] } r s = .served u) (room : code = 0x0A00 → r.fits 46 = true) :
    forwardQuery code len r s = .next (({ u with wit := { u.wit with forwards := u.wit.forwards ++ [⟨r.ticket code, r.params, u.now⟩] } : State }).trimCache (r.ticket code)) := by
  have fits : ¬ (code = 0x0A00 ∧ !r.fits 46) := by
    rintro ⟨status, unfit⟩
    simp [room status] at unfit
  exact serveOp_later served (if_neg fits)

/-- The opcodes of the authority commands (R459). -/
def authorityOps : List Nat := [0x0A80, 0x0A81, 0x0A82]

/-- An authority opcode is one of RLINK's, of any length, and above PING and the queries (R465). -/
theorem authorityOps_on_rlink {code : Nat} (authority : code ∈ authorityOps) (n : Nat) :
    rlinkOps.contains code = true ∧ rlinkLenOk code n = true ∧ code ≠ 0x0001 ∧ ¬ code < 0x0A80 := by
  simp only [authorityOps, List.mem_cons, List.not_mem_nil, or_false] at authority
  rcases authority with rfl | rfl | rfl <;> exact ⟨by decide, rfl, by decide, by decide⟩

/-- A sound authority request on RLINK is answered with what the checks of R459 and its command make of it. -/
theorem authorityCommand_rlink {code : Nat} {r : Req} {s u : State} (authority : code ∈ authorityOps) (now : s.advance r.time = u)
    (running : u.qpRunning = true) (version : r.version = 1) (plen : r.plen.toNat = r.params.length) (total : r.total ≤ 12288)
    (crc : r.crc.toNat = r.wantCrc code) (flags : r.flags = 0) (reserved : r.reserved = 0) (session : r.session = 0) :
    authorityCommand code r true s = (u.authority code r.params).2.rlinkReply code r (u.authority code r.params).1 [] := by
  obtain ⟨known, length, notPing, notQuery⟩ := authorityOps_on_rlink authority r.params.length
  have sound : ¬ (r.version ≠ 1 ∨ r.plen.toNat ≠ r.params.length ∨ 12288 < r.total) := by simp [version, plen, total]
  simp only [authorityCommand, if_true, now, State.rlinkPacket, running, sound, crc, flags, reserved, session, known, length, notPing, notQuery,
    Bool.not_true, Bool.false_eq_true, ne_eq, not_true_eq_false, or_self, if_false]

/-- What becomes of an authority envelope past check 1 and outside the lockout: a signed one whose signatures fail is recorded, any other is carried out (R459 to R462). -/
def State.authorityOutcome (u : State) (code : Nat) (env : List Byte) : Nat × State :=
  let slot := beAt env 6 1
  let len := beAt env 20 2
  let body := (env.drop 24).take len
  if slot ≠ 0xFF ∧ !blockVerifies (8 + slot) (env.take (24 + len)) (env.drop (24 + len)) then (stSigInvalid, u.rdgAuthFailed code slot)
  else if code = 0x0A80 then u.rdgParamWrite slot body
  else if code = 0x0A81 then u.rdgSeal slot body
  else u.rdgTimeAdjust slot body

theorem State.authority_checked {u : State} {code : Nat} {env : List Byte} (format : u.envelopeOk code env = true) (unlocked : u.rdgLocked = false) :
    u.authority code env = u.authorityOutcome code env := by
  simp only [State.authority, State.authorityOutcome, format, unlocked, Bool.not_true, Bool.false_eq_true, if_false]

/-- A sound authority request on RLINK whose envelope passes check 1 outside the lockout is answered with its outcome. -/
theorem authorityCommand_accepted {code : Nat} {r : Req} {s u : State} (authority : code ∈ authorityOps) (now : s.advance r.time = u)
    (running : u.qpRunning = true) (version : r.version = 1) (plen : r.plen.toNat = r.params.length) (total : r.total ≤ 12288)
    (crc : r.crc.toNat = r.wantCrc code) (flags : r.flags = 0) (reserved : r.reserved = 0) (session : r.session = 0)
    (format : u.envelopeOk code r.params = true) (unlocked : u.rdgLocked = false) :
    (.next (authorityCommand code r true s) : Out) = .next ((u.authorityOutcome code r.params).2.rlinkReply code r (u.authorityOutcome code r.params).1 []) := by
  rw [authorityCommand_rlink authority now running version plen total crc flags reserved session, State.authority_checked format unlocked]

/-- Settles O37: a query is forwarded, an authority command is answered by the Ridge on RLINK and by RIDGE_ONLY elsewhere. -/
theorem ridgeRequestsComplete : Obligations.RidgeRequestsComplete :=
  ⟨fun _ _ _ served fits => forwardQuery_served served fun _ => fits,
   fun _ _ _ served => forwardQuery_served served fun status => absurd status (by decide),
   fun _ _ _ served => forwardQuery_served served fun status => absurd status (by decide),
   fun _ _ _ served => forwardQuery_served served fun status => absurd status (by decide),
   fun _ _ _ => authorityCommand_accepted (code := 0x0A80) (by decide),
   fun _ _ => rfl,
   fun _ _ _ => authorityCommand_accepted (code := 0x0A81) (by decide),
   fun _ _ => rfl,
   fun _ _ _ => authorityCommand_accepted (code := 0x0A82) (by decide),
   fun _ _ => rfl⟩

end Sys2Proof.Machine
end

section
/-! The drivers and bridge protection (R265 to R291): one equation for each case of an event, `u` being the state at the event, and the drive in force at an output. -/

namespace Sys2Proof.Machine
open Sys2Proof

section
variable {t : Nat} {s u : State}

/-- An island whose clock stops for more than 1 us latches it (R21). -/
theorem execGzIslandClock_lost {n : Fin 32} {missing : Nat} (now : s.advance t = u) (up : u.mainUp = true) (long : ticksPerUs < missing)
    (present : vget u.gate.clkMissing n false = false) : execGzIslandClock t n missing s = .next (u.clockLost n) := by
  have stopped : missing ≠ 0 := Nat.ne_zero_of_lt long
  simp [execGzIslandClock, now, stopped, long, present, up]

/-- A clock that is back is shown while the islands run: with the main die up, and from boot step 8 (R21). -/
theorem execGzIslandClock_back {n : Fin 32} (now : s.advance t = u) (runs : (u.mainUp || u.pwr.step == 8) = true) :
    execGzIslandClock t n 0 s = .next ({ u with gate := { u.gate with clkMissing := vset u.gate.clkMissing n false } }.markClock n false) := by
  simp only [execGzIslandClock, now, runs, if_true]

/-- Before that a clock that is back is only noted (R21). -/
theorem execGzIslandClock_backDown {n : Fin 32} (now : s.advance t = u) (down : u.mainUp = false) (early : u.pwr.step ≠ 8) :
    execGzIslandClock t n 0 s = .next { u with gate := { u.gate with clkMissing := vset u.gate.clkMissing n false } } := by
  simp [execGzIslandClock, now, down, early]

/-- A short circuit above its threshold after the blanking of a watched channel latches (R270). -/
theorem execGdShortCircuit_seen {n : Fin 32} {mv on : Nat} (now : s.advance t = u) (up : u.mainUp = true)
    (enabled : u.getB (F.GD_CH_PROT_SC_EN n) = true) (watched : u.scWatched n = true)
    (blanked : 640 * (u.getF (F.GD_CH_PROT_SC_BLK n) + 1) ≤ on) (above : 100 * (u.getF (F.GD_CH_PROT_SC_TH n) + 1) < mv) :
    execGdShortCircuit t n mv on s = .next (u.shortCircuit n) := by
  simp [execGdShortCircuit, now, up, enabled, watched, blanked, above]

/-- A soft turn-off ends when its time has passed (R271). -/
theorem execSoftTurnOffEnd_over {n : Fin 32} (now : s.advance t = u) (soft : u.getB (F.GD_CH_STAT_SOFT n) = true)
    (passed : vget u.gate.softUntil n 0 ≤ u.now) : execSoftTurnOffEnd t n s = .next (u.softEnds n) := by
  simp [execSoftTurnOffEnd, now, soft, passed]

/-- A positive supply that was sound falls below its threshold for 1 us (R268). -/
theorem execGdVpUv_seen {n : Fin 32} {mv held : Nat} (now : s.advance t = u) (used : u.islandUsed n = true)
    (sound : u.getB (F.GD_CH_STAT_VP_OK n) = true) (long : ticksPerUs ≤ held) (under : (mv : Int) < uvpThreshold (u.getF (F.GD_CH_PROT_UVP n))) :
    execGdVpUv t n mv held s = .next (u.supplyLost n 9 Flt.GD_VP_UV) := by
  simp [execGdVpUv, now, used, sound, long, under]

/-- A negative supply that was sound and is monitored rises above its threshold for 1 us (R268). -/
theorem execGdVnUv_seen {n : Fin 32} {mv : Int} {held : Nat} (now : s.advance t = u) (used : u.islandUsed n = true)
    (sound : u.getB (F.GD_CH_STAT_VN_OK n) = true) (monitored : u.getF (F.GD_CH_PROT_UVN n) ≠ 0) (long : ticksPerUs ≤ held)
    (under : -1000 * (u.getF (F.GD_CH_PROT_UVN n) : Int) < mv) : execGdVnUv t n mv held s = .next (u.supplyLost n 10 Flt.GD_VN_UV) := by
  simp only [execGdVnUv, now, used, sound, bne_iff_ne.2 monitored, decide_eq_true long, decide_eq_true under, Bool.and_self, if_true]

/-- The driver supply that was sound falls below 9 V for 1 us (R268). -/
theorem execGdVdrvUv_seen {mv held : Nat} (now : s.advance t = u) (up : u.mainUp = true) (sound : u.getB F.GD_STAT_VDRV_OK = true)
    (long : ticksPerUs ≤ held) (under : mv < 9000) : execGdVdrvUv t mv held s = .next u.vdrvLost := by
  simp [execGdVdrvUv, now, up, sound, long, under]

/-- A monitored gate that differs from its command for longer than GMON_T latches (R269). -/
theorem execGdGateMismatch_due {n : Fin 64} {seen : Bool} {held : Nat} (now : s.advance t = u) (up : u.mainUp = true) (differs : seen ≠ u.gateOn n)
    (due : 3200 * (u.getF (F.GD_CH_DRV_GMON_T n) + 1) < held ∨ vget u.gate.cmdAt n 0 + 3200 * (u.getF (F.GD_CH_DRV_GMON_T n) + 1) < u.now)
    (monitored : u.monitorsGate n (3200 * (u.getF (F.GD_CH_DRV_GMON_T n) + 1)) = true) :
    execGdGateMismatch t n seen held s = .next ((u.noteSeen n seen).gateMismatch n) := by
  simp [execGdGateMismatch, State.monitorDue, now, up, monitored, differs, due]

/-- A supply that leaves its undervoltage with the hysteresis for 1 us shows sound (R268). -/
theorem execLeavesUndervoltage_vp {n : Fin 32} {mv : Int} {held : Nat} (now : s.advance t = u) (long : ticksPerUs ≤ held)
    (above : uvpThreshold (u.getF (F.GD_CH_PROT_UVP n)) + 500 ≤ mv) : execLeavesUndervoltage t (.vp n) mv held s = .next (u.seeVp n true) := by
  simp [execLeavesUndervoltage, now, Nat.not_lt.2 long, above]

theorem execLeavesUndervoltage_vn {n : Fin 32} {mv : Int} {held : Nat} (now : s.advance t = u) (long : ticksPerUs ≤ held)
    (within : u.getF (F.GD_CH_PROT_UVN n) = 0 ∨ mv ≤ -1000 * (u.getF (F.GD_CH_PROT_UVN n) : Int) - 300) :
    execLeavesUndervoltage t (.vn n) mv held s = .next (u.seeVn n true) := by
  have inside : (decide (u.getF (F.GD_CH_PROT_UVN n) = 0) || decide (mv ≤ -1000 * (u.getF (F.GD_CH_PROT_UVN n) : Int) - 300)) = true := by
    simpa only [Bool.or_eq_true, decide_eq_true_eq] using within
  simp only [execLeavesUndervoltage, now, Nat.not_lt.2 long, inside, if_true, if_false]

theorem execLeavesUndervoltage_vdrv {mv : Int} {held : Nat} (now : s.advance t = u) (long : ticksPerUs ≤ held) (above : 9500 ≤ mv) :
    execLeavesUndervoltage t .vdrv mv held s = .next (u.seeVdrv true) := by
  simp [execLeavesUndervoltage, now, Nat.not_lt.2 long, above]

/-- A trip input that goes low latches the half-bridges of its map (R275). -/
theorem execTripInputLow_mapped {n : Fin 4} {v : State} (now : s.advance t = u) (seen : u.seeTrip n true = v) (up : v.mainUp = true)
    (mapped : v.getF (F.GD_TRIPMAP n) ≠ 0) :
    execTripInputLow t n s = .next ((v.event F.GD_EVT_EXTTRIP).trip (bitsList 32 (v.getF (F.GD_TRIPMAP n))) { source := n, kind := Flt.GD_EXT_TRIP }) := by
  simp [execTripInputLow, now, seen, up, mapped]

/-- A trip input that goes high ends the cause alone (R280). -/
theorem execTripInputHigh_eq {n : Fin 4} (now : s.advance t = u) : execTripInputHigh t n s = .next (u.seeTrip n false) := by
  rw [execTripInputHigh, now]

/-- DRVEN that drops while a stage is active is a fault of these stages (R284). -/
theorem execDrvenLow_active (now : s.advance t = u) (up : u.mainUp = true) (active : u.activeStages ≠ 0) :
    execDrvenLow t s = .next (((u.drvenDrops.event F.GD_EVT_DRVENLOSS).raise Flt.GD_DRVEN_LOSS { stages := u.activeStages }).showModes) := by
  simp [execDrvenLow, now, up, active]

/-- With no stage active it only blocks the gates (R284). -/
theorem execDrvenLow_idle (now : s.advance t = u) (idle : u.activeStages = 0) : execDrvenLow t s = .next u.drvenDrops := by
  simp [execDrvenLow, now, idle]

/-- DRVEN low for 10 us clears the driver latches when it returns (R282). -/
theorem execDrvenCycle_long {since : Nat} (now : s.advance t = u) (low : u.gate.drvenLowAt = some since) (long : since + 10 * ticksPerUs ≤ u.now)
    (up : u.mainUp = true) : execDrvenCycle t s = .next u.drvenClear := by
  simp [execDrvenCycle, now, low, Nat.not_lt.2 long, up]

/-- Low for less, or with the main die down, its return is only shown (R282). -/
theorem execDrvenCycle_short {since : Nat} (now : s.advance t = u) (low : u.gate.drvenLowAt = some since)
    (short : u.now < since + 10 * ticksPerUs ∨ u.mainUp = false) : execDrvenCycle t s = .next u.drvenHigh := by
  have onlyShown : (decide (u.now < since + 10 * ticksPerUs) || !u.mainUp) = true := by simpa using short
  simp only [execDrvenCycle, now, low, onlyShown, if_true]

/-- The drive of a gate that is on: SRC1 for T1 after its command, then SRC2 (R266). -/
theorem State.driveOut_first {n : Fin 32} (on : u.gateOn n = true) (first : u.now < vget u.gate.cmdAt n 0 + 128 * u.getF (F.GD_CH_DRV_T1 n)) :
    u.driveOut n = .source (u.getF (F.GD_CH_DRV_SRC1 n)) := by
  rw [State.driveOut, if_pos on, if_pos ⟨n.isLt, first⟩]

theorem State.driveOut_second {n : Fin 32} (on : u.gateOn n = true) (second : vget u.gate.cmdAt n 0 + 128 * u.getF (F.GD_CH_DRV_T1 n) ≤ u.now) :
    u.driveOut n = .source (u.getF (F.GD_CH_DRV_SRC2 n)) := by
  rw [State.driveOut, if_pos on, if_neg fun first => Nat.not_lt.2 second first.2]

/-- The drive of a gate that is off: SOFTSNK in a soft turn-off, then the clamp or SNK (R266, R267, R271). -/
theorem State.driveOut_soft {n : Fin 32} (off : u.gateOn n = false) (soft : u.now < vget u.gate.softUntil n 0) :
    u.driveOut n = .sink (u.getF (F.GD_CH_DRV_SOFTSNK n)) := by
  rw [State.driveOut, off, if_neg Bool.false_ne_true, if_pos ⟨n.isLt, soft⟩]

theorem State.driveOut_off {n : Fin 32} (off : u.gateOn n = false) (passed : vget u.gate.softUntil n 0 ≤ u.now) :
    u.driveOut n = if vget u.gate.clamp n false then .clamp else .sink (u.getF (F.GD_CH_DRV_SNK n)) := by
  rw [State.driveOut, off, if_neg Bool.false_ne_true, if_neg fun soft => Nat.not_lt.2 passed soft.2]

end

/-- Settles O42: each clause is the equation of its case; the island clock that is back covers the running main die and boot step 8. -/
theorem bridgeProtectionComplete : Obligations.BridgeProtectionComplete :=
  ⟨fun _ _ _ _ _ => execGzIslandClock_lost,
   fun _ _ _ _ now up => execGzIslandClock_back now (by rw [up, Bool.true_or]),
   fun _ _ _ _ now _ started => execGzIslandClock_back now (by rw [started, beq_self_eq_true, Bool.or_true]),
   fun _ _ _ _ => execGzIslandClock_backDown,
   fun _ _ _ _ _ _ => execGdShortCircuit_seen,
   fun _ _ _ _ => execSoftTurnOffEnd_over,
   fun _ _ _ _ _ _ => execGdVpUv_seen,
   fun _ _ _ _ _ _ => execGdVnUv_seen,
   fun _ _ _ _ _ => execGdVdrvUv_seen,
   fun _ _ _ _ _ _ => execGdGateMismatch_due,
   fun _ _ _ _ _ _ => execLeavesUndervoltage_vp,
   fun _ _ _ _ _ _ => execLeavesUndervoltage_vn,
   fun _ _ _ _ _ => execLeavesUndervoltage_vdrv,
   fun _ _ _ _ _ => execTripInputLow_mapped,
   fun _ _ _ _ => execTripInputHigh_eq,
   fun _ _ _ => execDrvenLow_active,
   fun _ _ _ => execDrvenLow_idle,
   fun _ _ _ _ => execDrvenCycle_long,
   fun _ _ _ _ => execDrvenCycle_short,
   fun _ _ => ⟨State.driveOut_first, State.driveOut_second, State.driveOut_soft, State.driveOut_off⟩⟩

end Sys2Proof.Machine
end

section
/-! The supply of the Ridge, its start and its retention (R59, R436, R450, R459, R484): one equation for each case of an event, `u` being the state at the event. -/

namespace Sys2Proof.Machine
open Sys2Proof

section
variable {t : Nat} {s u : State}

/-- A span has elapsed once the clock has reached its end. -/
theorem State.elapsed_of_le {since span : Nat} (passed : since + span ≤ u.now) : u.elapsed since span = true :=
  decide_eq_true passed

/-- A Ridge in Running whose VRDG stays below 6.5 V for 50 us hands over, and its clock stops where BKP is gone too (R59, R436). -/
theorem execRidgeVrdgLoss_running {mv held : Nat} (now : s.advance t = u) (running : u.rdg.mode = .running) (low : mv < 6500)
    (long : 50 * ticksPerUs ≤ held) :
    execRidgeVrdgLoss t mv held s = .next (if u.rdg.bkpGone then u.ridgeHandover.rtcStop else u.ridgeHandover) := by
  have lost : ¬ (u.rdg.mode ≠ .running ∨ 6500 ≤ mv ∨ held < 50 * ticksPerUs) := by simp [running, low, long]
  rw [execRidgeVrdgLoss, now, if_neg lost]

/-- Outside Running, VRDG above 7.5 V for 10 ms brings Running back (R59). -/
theorem execRidgeVrdgReturn_valid {mv held : Nat} (now : s.advance t = u) (away : u.rdg.mode ≠ .running) (valid : 7500 < mv)
    (long : 10 * ticksPerMs ≤ held) : execRidgeVrdgReturn t mv held s = .next u.ridgeReturns := by
  have back : ¬ (u.rdg.mode = .running ∨ mv ≤ 7500 ∨ held < 10 * ticksPerMs) := by simp [away, valid, long]
  rw [execRidgeVrdgReturn, now, if_neg back]

/-- With no interruption in progress, 60 s after its last one an open record is written (R59). -/
theorem execShortInterruptionClose_due {start stop count last : Nat} (now : s.advance t = u)
    (opened : u.rdg.short = some (start, stop, count, last)) (ended : u.rdg.lossAt = none) (passed : last + 60 * ticksPerS ≤ u.now) :
    execShortInterruptionClose t s = .next u.closeShort := by
  have due : u.elapsed last (60 * ticksPerS) = true ∧ u.rdg.lossAt.isNone = true := ⟨State.elapsed_of_le passed, by rw [ended, Option.isNone_none]⟩
  simp only [execShortInterruptionClose, now, opened, if_pos due]

/-- QP of a Ridge in Retention, stopped or down starts: on VRDG in Running with the interruption ended, on BKP in Woken (R59, R436, R484). -/
theorem execRidgeStart_rest {vrdg : Bool} (now : s.advance t = u) (rest : u.rdg.mode = .retention ∨ u.rdg.rtcStopped = true ∨ u.rdg.alive = false) :
    execRidgeStart t vrdg s = .next (if vrdg then u.ridgeReturns else if u.rdg.bkpGone then u else u.qpStart .woken) := by
  have starts : decide (u.rdg.mode = .retention ∨ u.rdg.rtcStopped = true ∨ (!u.rdg.alive) = true) = true := by
    simpa only [Bool.not_eq_true', decide_eq_true_eq] using rest
  cases vrdg with
  | true => simp only [execRidgeStart, now, starts, Bool.not_true, Bool.false_eq_true, if_false, if_true]
  | false => simp only [execRidgeStart, now, starts, Bool.not_true, Bool.false_eq_true, if_false]

theorem execRidgeStart_vrdg (now : s.advance t = u) (rest : u.rdg.mode = .retention ∨ u.rdg.rtcStopped = true ∨ u.rdg.alive = false) :
    execRidgeStart t true s = .next u.ridgeReturns :=
  execRidgeStart_rest now rest

theorem execRidgeStart_bkp (now : s.advance t = u) (rest : u.rdg.mode = .retention ∨ u.rdg.rtcStopped = true ∨ u.rdg.alive = false)
    (bkp : u.rdg.bkpGone = false) : execRidgeStart t false s = .next (u.qpStart .woken) := by
  rw [execRidgeStart_rest now rest, bkp]; rfl

/-- Woken ends 60 s after its last pulse, or after its start where no pulse came later (Table 16.3). -/
theorem execQpRetention_due (now : s.advance t = u) (woken : u.rdg.mode = .woken)
    (passed : max u.rdg.wokenAt (u.rdg.lastPulse.getD 0) + 60 * ticksPerS ≤ u.now) : execQpRetention t s = .next u.toRetention := by
  simp only [execQpRetention, now, if_pos (And.intro woken (State.elapsed_of_le passed))]

/-- The authority lockout ends at its limit (R459). -/
theorem execRidgeLockoutEnd_due {limit : Nat} (now : s.advance t = u) (locked : u.rdg.lockoutUntil = some limit) (passed : limit ≤ u.now) :
    execRidgeLockoutEnd t s = .next (u.setR { u.rdg with lockoutUntil := none }) := by
  simp only [execRidgeLockoutEnd, now, locked, if_pos passed]

/-- A mesh found broken, the seal not yet broken for good, breaks it; with the clock stopped its record waits for QP (R450, assumption 235). -/
theorem execThatchCheck_broken (now : s.advance t = u) (fresh : u.rdg.sealed ≠ 2) :
    execThatchCheck t true s =
      .next (if u.rdg.rtcStopped then u.setR { u.rdg with sealed := 2, keysErased := true, meshDue := true } else u.thatchBroken) := by
  have found : ¬ ((!true) = true ∨ u.rdg.sealed = 2) := by simp [fresh]
  simp only [execThatchCheck, now, if_neg found]
  split <;> rfl

theorem execThatchCheck_recorded (now : s.advance t = u) (fresh : u.rdg.sealed ≠ 2) (runs : u.rdg.rtcStopped = false) :
    execThatchCheck t true s = .next u.thatchBroken := by
  rw [execThatchCheck_broken now fresh, runs]; rfl

theorem execThatchCheck_deferred (now : s.advance t = u) (fresh : u.rdg.sealed ≠ 2) (stopped : u.rdg.rtcStopped = true) :
    execThatchCheck t true s = .next (u.setR { u.rdg with sealed := 2, keysErased := true, meshDue := true }) := by
  rw [execThatchCheck_broken now fresh, if_pos stopped]

end

/-- Settles O34: each clause is the equation of its case of its event. -/
theorem ridgeSupplyEventsComplete : Obligations.RidgeSupplyEventsComplete :=
  ⟨fun _ _ _ _ _ => execRidgeVrdgLoss_running,
   fun _ _ _ _ _ => execRidgeVrdgReturn_valid,
   fun _ _ _ _ _ _ _ => execShortInterruptionClose_due,
   fun _ _ _ => execRidgeStart_vrdg,
   fun _ _ _ => execRidgeStart_bkp,
   fun _ _ _ => execQpRetention_due,
   fun _ _ _ _ => execRidgeLockoutEnd_due,
   fun _ _ _ => execThatchCheck_recorded,
   fun _ _ _ => execThatchCheck_deferred⟩

end Sys2Proof.Machine
end

section
/-! The requests that read the module and its power state, and those that set power state, wake sources and backup-cell charger (R39, R41, R47, R67, R96, R98, R470, R476): how each ends once the checks of R81 and R82 have served it as `u`. -/

namespace Sys2Proof.Machine
open Sys2Proof

section
variable {r : Req} {s u : State}

/-- PING returns its parameters where a reply of the transport holds them (R96). -/
theorem execPing_served (served : admitReq { code := 0x0001, level := 0 } (fun n => decide (n ≤ 64)) r s = .served u) (fits : r.fits r.params.length = true) :
    execPing r s = .next (u.answer (r.ticket 0x0001) stOK r.params) :=
  congrArg _ (serve_done served (if_pos fits))

theorem execGetState_served (served : admitOp { code := 0x0002, level := 0 } r s = .served u) :
    execGetState r s = .next (u.answer (r.ticket 0x0002) stOK (beBytes 4 (u.getW F.PWR_STATE_STATE.addr).toNat)) :=
  serveOp_done served rfl

theorem execGetVersion_served (served : admitOp { code := 0x0004, level := 0 } r s = .served u) :
    execGetVersion r s = .next (u.versionData.2.answer (r.ticket 0x0004) stOK u.versionData.1) :=
  serveOp_done served rfl

theorem execHeartbeat_served (served : admitOp { code := 0x0005, lens := [4] } r s = .served u) :
    execHeartbeat r s = .next (({ u with com := { u.com with lastHeartbeat := u.now } }).endFallback.answer (r.ticket 0x0005) stOK
      (beBytes 1 u.power ++ beBytes 1 u.topClass ++ beBytes 2 (u.getF F.SLT_LOGIDX_NEWEST) ++ beBytes 4 u.eaveSeconds ++ r.params)) :=
  serveOp_done served rfl

/-- IDENT_READ of 0xFF reads the serial number and the revision (R470). -/
theorem execIdentRead_serial (served : admitOp { code := 0x0C00, level := 0, lens := [1] } r s = .served u) (module : r.num 0 1 = 0xFF) :
    execIdentRead r s = .next (u.answer (r.ticket 0x0C00) stOK (u.serialBytes ++ beBytes 1 (u.getF F.IDN_REV_REV))) :=
  serveOp_done served (if_pos module)

/-- IDENT_READ of a die reads its stored identity (R470). -/
theorem execIdentRead_die (served : admitOp { code := 0x0C00, level := 0, lens := [1] } r s = .served u) (die : r.num 0 1 ≤ 33) :
    execIdentRead r s = .next (u.answer (r.ticket 0x0C00) stOK (u.dieData (r.num 0 1))) := by
  have notModule : r.num 0 1 ≠ 0xFF := by omega
  exact serveOp_done served ((if_neg notModule).trans (if_neg (Nat.not_lt.2 die)))

/-- A long result that is read from an offset inside it gives its length and the part asked for, as far as the reply holds it (R90). -/
theorem longReply_inside {bytes : List Byte} {off maxLen room : Nat} (inside : off ≤ bytes.length) :
    longReply bytes off maxLen room = (stOK, beBytes 4 bytes.length ++ (bytes.drop off).take (min maxLen (room - 4))) :=
  if_neg (Nat.not_lt.2 inside)

theorem execCertRead_inside (served : admitOp { code := 0x0C02, level := 0, lens := [7] } r s = .served u) (held : r.num 0 1 ≤ 11)
    (inside : r.num 1 4 ≤ (u.certBytes (r.num 0 1)).length) :
    execCertRead r s = .next (u.answer (r.ticket 0x0C02) stOK (beBytes 4 (u.certBytes (r.num 0 1)).length ++
      ((u.certBytes (r.num 0 1)).drop (r.num 1 4)).take (min (r.num 5 2) ((r.ticket 0x0C02).room - 4)))) := by
  refine serveOp_done served ((if_neg (Nat.not_lt.2 held)).trans ?_)
  simp only [longReply_inside inside]

/-- PWR_STATE_SET SLEEP in STANDBY with no wake source active asks for the entry into SLEEP and ends an arming sequence (R41, R42, assumption 16). -/
theorem execPwrStateSet_sleep (served : admitOp { code := 0x0200, level := if r.params.head? = some 0x0F then 3 else 1, lens := [1] } r s = .served u)
    (sleep : r.num 0 1 = 0x02) (standby : u.power = pSTANDBY) (quiet : u.activeWakes.isEmpty = true) :
    execPwrStateSet r s = .next (({ u with pwr := { u.pwr with sleep := some ⟨r.ticket 0x0200, u.now, false, false⟩ }, slt := { u.slt with arming := none } }).answer (r.ticket 0x0200) stOK []) := by
  have notTest : r.num 0 1 ≠ 0x0F := by rw [sleep]; decide
  have notSafe : u.power ≠ pSAFE := by rw [standby]; decide
  have allQuiet : ¬ (!u.activeWakes.isEmpty) = true := by rw [quiet]; decide
  exact serveOp_done served ((if_neg notTest).trans ((if_neg (not_not.2 sleep)).trans ((if_neg notSafe).trans ((if_neg (not_not.2 standby)).trans (if_neg allQuiet)))))

/-- PWR_STATE_SET TEST in STANDBY enters TEST and ends an arming sequence (Table 3.2, assumption 28). -/
theorem execPwrStateSet_test (served : admitOp { code := 0x0200, level := if r.params.head? = some 0x0F then 3 else 1, lens := [1] } r s = .served u)
    (test : r.num 0 1 = 0x0F) (standby : u.power = pSTANDBY) :
    execPwrStateSet r s = .next ((u.abortArming.toPower pTEST 0x01).answer (r.ticket 0x0200) stOK []) :=
  serveOp_done served ((if_pos test).trans (if_pos standby))

/-- WAKE_SOURCES with defined enables writes them and the alarm and returns PWR_WAKE_SRC (R47). -/
theorem execWakeSources_defined (served : admitOp { code := 0x0201, lens := [5] } r s = .served u) (defined : r.num 0 1 < 64) :
    execWakeSources r s = .next (((u.setF F.PWR_WAKE_EN (r.num 0 1)).setF F.PWR_ALARM (r.num 1 4)).answer (r.ticket 0x0201) stOK
      (beBytes 4 (((u.setF F.PWR_WAKE_EN (r.num 0 1)).setF F.PWR_ALARM (r.num 1 4)).getW F.PWR_WAKE_SRC_SRC.addr).toNat)) :=
  serveOp_done served (if_neg (Nat.not_le.2 defined))

/-- BKP_CHARGER_SET with its three parameters in range stores them (R67). -/
theorem execBkpChargerSet_inRange (served : admitOp { code := 0x0202, lens := [3] } r s = .served u) (enable : r.num 0 1 ≤ 1)
    (current : 2 * r.num 1 1 ≤ u.getF F.PWR_BKP_CTRL_CAPACITY) (timer : r.num 2 1 ≤ 15) :
    execBkpChargerSet r s = .next ((u.bkpSet (r.num 0 1) (r.num 1 1) (r.num 2 1)).answer (r.ticket 0x0202) stOK []) := by
  have inRange : ¬ (1 < r.num 0 1 || u.getF F.PWR_BKP_CTRL_CAPACITY < 2 * r.num 1 1 || 15 < r.num 2 1) = true := by
    simp [enable, current, timer]
  exact serveOp_done served (if_neg inRange)

theorem execBkpStatus_served (served : admitOp { code := 0x0203 } r s = .served u) :
    execBkpStatus r s = .next (u.answer (r.ticket 0x0203) stOK
      (beBytes 4 (u.getW F.PWR_BKP_STAT_PHASE.addr).toNat ++ beBytes 4 (u.getW F.PWR_SUPPLY_VSUP_MV.addr).toNat)) :=
  serveOp_done served rfl

end

/-- Settles O8: each clause is the equation of its request, served. -/
theorem generalRequestsComplete : Obligations.GeneralRequestsComplete := fun _ _ _ =>
  ⟨execPing_served, execGetState_served, execGetVersion_served, execHeartbeat_served, execIdentRead_serial, execIdentRead_die, execCertRead_inside⟩

/-- Settles O12: each clause is the equation of its request, served with parameters the state takes. -/
theorem powerRequestsComplete : Obligations.PowerRequestsComplete :=
  ⟨fun _ _ _ => execPwrStateSet_sleep,
   fun _ _ _ => execPwrStateSet_test,
   fun _ _ _ => execWakeSources_defined,
   fun _ _ _ => execBkpChargerSet_inRange,
   fun _ _ _ => execBkpStatus_served⟩

end Sys2Proof.Machine
end

section
/-! Sleep, wake, supply, hand-over and reset (R42 to R58, R72, R491): one equation for each case of an event, `u` being the state at the event. -/

namespace Sys2Proof.Machine
open Sys2Proof

section
variable {t : Nat} {s u : State}

/-- SLEEP follows once the reply to its request has left its slot and, on SPI, was delivered (R491). -/
theorem execSleepEntry_left {q : SleepReq} (now : s.advance t = u) (standby : u.power = pSTANDBY) (asked : u.pwr.sleep = some q)
    (left : (u.com.slots.any fun x => x.ticket == q.ticket) = false) (delivered : (q.ticket.port != .spi || q.delivered) = true) :
    execSleepEntry t s = .next (u.enterSleep 0x01 q.wake) := by
  simp only [execSleepEntry, now, asked, standby, left, delivered, beq_self_eq_true, Bool.not_false, Bool.and_self, if_true]

/-- An SPI reply that nobody fetches for 100 ms is dropped, and SLEEP follows (R491). -/
theorem execSleepReplyExpired_due {q : SleepReq} {x : Nat × Ticket × Reply} (now : s.advance t = u) (standby : u.power = pSTANDBY)
    (asked : u.pwr.sleep = some q) (spi : q.ticket.port = .spi) (waits : u.com.spiOut.find? (fun y => y.2.1 == q.ticket) = some x)
    (passed : u.elapsed x.1 (100 * ticksPerMs) = true) :
    execSleepReplyExpired t s =
      .next (({ u with com := { u.com with spiOut := u.com.spiOut.filter fun y => y.2.1 != q.ticket } }).enterSleep 0x01 q.wake) := by
  simp only [execSleepReplyExpired, now, asked, waits, standby, spi, passed, decide_true, Bool.and_self, if_true]

/-- Without host contact for SLEEP_TIMEOUT, STANDBY goes to SLEEP (R43). -/
theorem execSleepTimeout_due (now : s.advance t = u) (up : u.mainUp = true) (standby : u.power = pSTANDBY) (unasked : u.pwr.sleep = none)
    (limited : u.getF F.PWR_CFG_SLEEP_TIMEOUT ≠ 0) (passed : u.elapsed u.com.lastContact (u.getF F.PWR_CFG_SLEEP_TIMEOUT * ticksPerS) = true)
    (quiet : u.levelWake = false) : execSleepTimeout t s = .next (u.enterSleep 0x06 false) := by
  simp [execSleepTimeout, now, up, standby, unasked, limited, passed, quiet]

/-- WAKE_N low for 50 us qualifies (Table 3.3). -/
theorem execWakeNQualified_low {held : Nat} (now : s.advance t = u) (long : 50 * ticksPerUs ≤ held) :
    execWakeNQualified t true held s = .next (({ u with pwr := { u.pwr with wakeN := true } }).wake 0) := by
  simp only [execWakeNQualified, now, Bool.true_and, decide_eq_true long, if_true]

theorem execTc10Wake_eq (now : s.advance t = u) : execTc10Wake t s = .next (u.wake 1) := by
  rw [execTc10Wake, now]

/-- CP above 6 V or oscillating for 10 ms qualifies (Table 3.3). -/
theorem execCpWake_seen {mv : Int} {osc : Bool} {held : Nat} (now : s.advance t = u) (seen : (decide (6000 < mv) || osc) = true)
    (long : 10 * ticksPerMs ≤ held) : execCpWake t mv osc held s = .next (({ u with pwr := { u.pwr with cpWake := true } }).wake 2) := by
  simp only [execCpWake, now, if_pos seen, if_pos long]

/-- Two wheel pulses qualify and are counted anew (Table 3.3). -/
theorem execWheelPulseWake_two (now : s.advance t = u) (pulses : 2 ≤ u.rdg.wakePulses) :
    execWheelPulseWake t s = .next ((u.setR { u.rdg with wakePulses := 0 }).wake 4) := by
  simp only [execWheelPulseWake, now, if_pos pulses]

/-- An alarm that Eave time has reached qualifies and is spent, unless the time is invalid (Table 3.3). -/
theorem execRtcAlarm_reached (now : s.advance t = u) (up : u.eaveUp = true) (set : u.getF F.PWR_ALARM ≠ 0)
    (reached : u.getF F.PWR_ALARM ≤ u.eaveSeconds) (valid : u.getB F.PWR_STATE_TIME_INVALID = false) :
    execRtcAlarm t s = .next ((u.setF F.PWR_ALARM 0).wake 5) := by
  simp [execRtcAlarm, now, up, set, reached, valid]

/-- An hour after the last alignment, Eave time slews to the Ridge RTC (R52). -/
theorem execEaveRealign_due (now : s.advance t = u) (fed : 2 ≤ u.power) (steady : u.pwr.handover = none) (runs : u.pwr.eaveRuns = true)
    (passed : u.elapsed u.pwr.realignAt (3600 * ticksPerS) = true) :
    execEaveRealign t s =
      .next ({ u with pwr := { u.pwr with eaveBase := u.eaveTicks, eaveAt := u.now, eaveSlew := (u.rdgTicks : Int) - (u.eaveTicks : Int), realignAt := u.now } }.setB F.PWR_STATE_TIME_INVALID (!u.rdg.timeValid)) := by
  simp only [execEaveRealign, now, fed, steady, runs, passed, decide_true, Option.isNone_none, Bool.and_self, if_true]

/-- VSUP below 6.5 V for 50 us in SLEEP hands over to BKP, with no VSUP_LOSS, which is raised from STANDBY up (R54). -/
theorem execHandoverToBkp_sleep {mv held : Nat} {b : State} (now : s.advance t = u) (asleep : u.power = pSLEEP) (steady : u.pwr.handover = none)
    (low : mv < 6500) (long : 50 * ticksPerUs ≤ held) (stopped : (u.loseQueue.loseUnsaved.holdReset 0).bump F.PWR_CFG_HANDOVER = b) :
    execHandoverToBkp t mv held s =
      .next (({ b with pwr := { b.pwr with handover := some b.now, interruptions := b.pwr.interruptions + 1, chargeLost := b.pwr.chargeLost || u.getF F.CHG_STAT_CSTATE != 0 } }.vsupSeen mv none).chargerHandover) := by
  subst stopped
  simp [execHandoverToBkp, now, asleep, steady, low, long, pSLEEP]

/-- A hand-over under way ends in VAULT (R54, R57). -/
theorem execHandoverComplete_under {since : Nat} (now : s.advance t = u) (under : u.pwr.handover = some since) :
    execHandoverComplete t s =
      .next ({ (u.toPower pVAULT 0x0A).eaveStop with pwr := { (u.toPower pVAULT 0x0A).eaveStop.pwr with handover := none, handEnd := (u.toPower pVAULT 0x0A).eaveStop.now, inReset := false } }) := by
  simp only [execHandoverComplete, now, under]

/-- VSUP below 7.5 V for 1 ms in ARMED or RUN is a fault of every stage but the chopper (R55, assumption 116). -/
theorem execVsupLow_working {mv held : Nat} (now : s.advance t = u) (low : mv < 7500) (up : (u.vsupSeen mv none).mainUp = true)
    (working : (u.vsupSeen mv none).power = pARMED ∨ (u.vsupSeen mv none).power = pRUN) (long : ticksPerMs ≤ held) :
    execVsupLow t mv held s = .next ((u.vsupSeen mv none).raise Flt.VSUP_LOW { stages := 0x1FB }) := by
  simp [execVsupLow, now, low, up, working, long]

/-- VSUP valid again 10 ms after the hand-over ended: VAULT goes to SLEEP, and on where a wake source is active (R58). -/
theorem execVsupValid_vault {mv held : Nat} {v : State} (now : s.advance t = u) (valid : 7500 < mv) (long : 10 * ticksPerMs ≤ held)
    (steady : u.pwr.handover = none) (seen : u.vsupSeen mv (some (u.now - held)) = v) (vault : v.power = pVAULT)
    (passed : v.elapsed v.pwr.handEnd (10 * ticksPerMs) = true) :
    execVsupValid t mv held s = .next (((v.toPower pSLEEP 0x04).eaveLoad).wakeAtReturn) := by
  simp [execVsupValid, now, valid, long, steady, seen, vault, passed]

/-- From OFF it begins the boot (R58). -/
theorem execVsupValid_off {mv held : Nat} {v : State} (now : s.advance t = u) (valid : 7500 < mv) (long : 10 * ticksPerMs ≤ held)
    (steady : u.pwr.handover = none) (seen : u.vsupSeen mv (some (u.now - held)) = v) (off : v.power = pOFF) (unbooted : v.pwr.boot = none)
    (passed : v.elapsed v.pwr.handEnd (10 * ticksPerMs) = true) :
    execVsupValid t mv held s = .next ({ v with pwr := { v.pwr with boot := some v.now, step := 0, bootReason := 0x0D } }) := by
  have notVault : pOFF ≠ pVAULT := by decide
  simp [execVsupValid, now, valid, long, steady, seen, off, notVault, unbooted, passed]

/-- BKP above 2.7 V with VSUP absent: OFF goes to VAULT (Table 3.2, assumption 154). -/
theorem execBkpRise_off {bkp vsup : Nat} (now : s.advance t = u) (off : u.power = pOFF) (unbooted : u.pwr.boot = none) (charged : 2700 < bkp)
    (absent : vsup < 6500) : execBkpRise t bkp vsup s = .next ((u.setR { u.rdg with bkpGone := false }).toPower pVAULT 0x0C) := by
  have stillOff : (u.setR { u.rdg with bkpGone := false }).power = pOFF := off
  simp [execBkpRise, now, charged, stillOff, unbooted, absent]

/-- The Ridge that loses its retention supply changes no register, so the power state stays. -/
theorem State.ridgeBkpLost_power (u : State) : u.ridgeBkpLost.power = u.power := by
  unfold State.ridgeBkpLost
  dsimp only
  split
  · rfl
  · have ridgeOnly : OnlyR u (u.setR { u.rdg with bkpGone := true }).rtcStop := State.rtcStop_onlyR (State.setR_onlyR (.refl u))
    rw [ridgeOnly]; rfl

/-- BKP below 2.4 V takes the retention supply of the Ridge in every state, and VAULT goes to OFF, where the Eave forgets (R72, R436, assumption 213). -/
theorem execBkpFall_below {bkp : Nat} (now : s.advance t = u) (low : bkp < 2400) :
    execBkpFall t bkp s = .next (if u.power = pVAULT then (u.ridgeBkpLost.toPower pOFF 0x0B).loseEave else u.ridgeBkpLost) := by
  simp only [execBkpFall, now, if_neg (Nat.not_le.2 low), State.ridgeBkpLost_power]

theorem execBkpFall_vault {bkp : Nat} (now : s.advance t = u) (vault : u.power = pVAULT) (low : bkp < 2400) :
    execBkpFall t bkp s = .next ((u.ridgeBkpLost.toPower pOFF 0x0B).loseEave) := by
  rw [execBkpFall_below now low, if_pos vault]

theorem execBkpFall_other {bkp : Nat} (now : s.advance t = u) (other : u.power ≠ pVAULT) (low : bkp < 2400) :
    execBkpFall t bkp s = .next u.ridgeBkpLost := by
  rw [execBkpFall_below now low, if_neg other]

/-- NRST low for 10 us holds the powered main die in reset (R44). -/
theorem execNrst_powered {held : Nat} (now : s.advance t = u) (powered : 3 ≤ u.power) (steady : u.pwr.handover = none)
    (long : 10 * ticksPerUs ≤ held) : execNrst t held s = .next (u.holdReset 0x05) := by
  simp [execNrst, now, powered, steady, long]

/-- Its release starts the boot (R44). -/
theorem execNrstRelease_held (now : s.advance t = u) (held : u.pwr.inReset = true) (steady : u.pwr.handover = none) :
    execNrstRelease t s = .next ({ u with pwr := { u.pwr with inReset := false, boot := some u.now, step := 0 } }) := by
  simp only [execNrstRelease, now, held, steady, Option.isNone_none, Bool.and_self, if_true]

end

/-- Settles O13: each clause is the equation of its case of its event. -/
theorem powerEventsComplete : Obligations.PowerEventsComplete :=
  ⟨fun _ _ _ _ => execSleepEntry_left,
   fun _ _ _ _ _ => execSleepReplyExpired_due,
   fun _ _ _ => execSleepTimeout_due,
   fun _ _ _ _ => execWakeNQualified_low,
   fun _ _ _ => execTc10Wake_eq,
   fun _ _ _ _ _ _ => execCpWake_seen,
   fun _ _ _ => execWheelPulseWake_two,
   fun _ _ _ => execRtcAlarm_reached,
   fun _ _ _ => execEaveRealign_due,
   fun _ _ _ _ _ _ => execHandoverToBkp_sleep,
   fun _ _ _ _ => execHandoverComplete_under,
   fun _ _ _ _ _ => execVsupLow_working,
   fun _ _ _ _ _ _ => execVsupValid_vault,
   fun _ _ _ _ _ _ => execVsupValid_off,
   fun _ _ _ _ _ => execBkpRise_off,
   fun _ _ _ _ => execBkpFall_vault,
   fun _ _ _ _ => execBkpFall_other,
   fun _ _ _ _ => execNrst_powered,
   fun _ _ _ => execNrstRelease_held⟩

end Sys2Proof.Machine
end

section
/-! The charger of the backup cell (R62 to R67, R70, Table 3.4): one equation for each case of an event, `u` being the state at the event with its charging times brought up to the present. -/

namespace Sys2Proof.Machine
open Sys2Proof

/-- A due sample of BKP and the cell temperature is taken, and CURRENT_MA follows (R61, R63). -/
theorem execBkpSample_due {t mv : Nat} {temp : Int} {s u : State} (now : s.advance t = u) (on : u.chargerOn = true) (due : u.sampleDue = true) :
    execBkpSample t mv temp s = .next ((u.bkpSampled mv temp).showCurrent) := by
  simp only [execBkpSample, now, on, due, Bool.not_true, Bool.or_self, Bool.false_eq_true, if_false]

section
variable {t mv : Nat} {s u : State} (now : (s.advance t).countCharge = u) (on : u.chargerOn = true)
include now on

/-- An hour of Precharge is a dead cell (Table 3.4). -/
theorem execBkpDead_due (precharge : u.getF F.PWR_BKP_STAT_PHASE = 1) (ran : 3600 * ticksPerS ≤ u.pwr.charger.ran) :
    execBkpDead t s = .next (u.chargeFault Flt.BKP_DEAD 0 0) := by
  simp [execBkpDead, now, on, precharge, ran]

/-- Fast beyond FAST_TIMER hours, at least one, stops in Fault (Table 3.4). -/
theorem execBkpTimer_due (fast : u.getF F.PWR_BKP_STAT_PHASE = 2)
    (ran : max 1 (u.getF F.PWR_BKP_CTRL_FAST_TIMER) * 3600 * ticksPerS ≤ u.pwr.charger.ran) :
    execBkpTimer t s = .next (u.chargeFault Flt.BKP_TIMER 3 0) := by
  simp only [execBkpTimer, now, on, fast, decide_eq_true ran, decide_true, Bool.and_self, if_true]

/-- Top-off of 30 min completes the charge (Table 3.4). -/
theorem execTopoffEnd_due (topoff : u.getF F.PWR_BKP_STAT_PHASE = 3) (ran : 1800 * ticksPerS ≤ u.pwr.charger.ran) :
    execTopoffEnd t s = .next (u.toPhase 4) := by
  simp [execTopoffEnd, now, on, topoff, ran]

/-- An enabled charger finds its cell at rest below 3.75 V, BKP_NTC in range: it starts from Idle and from Complete (R64). -/
theorem execBkpRest_low (enabled : u.getB F.PWR_BKP_CTRL_ENABLE = true) (rested : u.elapsed u.pwr.charger.zeroAt (60 * ticksPerS) = true)
    (low : mv < 3750) (ntc : u.pwr.charger.ntcBad = false) :
    execBkpRest t mv s = if u.getF F.PWR_BKP_STAT_PHASE = 0 then .next (u.startCharge (if mv < 3000 then 1 else 2))
      else if u.getF F.PWR_BKP_STAT_PHASE = 4 then .next (u.startCharge 2) else .next u := by
  simp only [execBkpRest, now, on, enabled, rested, decide_eq_true low, ntc, Bool.not_false, Bool.and_self, if_true]

theorem execBkpRest_idle (enabled : u.getB F.PWR_BKP_CTRL_ENABLE = true) (rested : u.elapsed u.pwr.charger.zeroAt (60 * ticksPerS) = true)
    (low : mv < 3750) (ntc : u.pwr.charger.ntcBad = false) (idle : u.getF F.PWR_BKP_STAT_PHASE = 0) :
    execBkpRest t mv s = .next (u.startCharge (if mv < 3000 then 1 else 2)) := by
  rw [execBkpRest_low now on enabled rested low ntc, if_pos idle]

theorem execBkpRest_complete (enabled : u.getB F.PWR_BKP_CTRL_ENABLE = true) (rested : u.elapsed u.pwr.charger.zeroAt (60 * ticksPerS) = true)
    (low : mv < 3750) (ntc : u.pwr.charger.ntcBad = false) (complete : u.getF F.PWR_BKP_STAT_PHASE = 4) :
    execBkpRest t mv s = .next (u.startCharge 2) := by
  have notIdle : u.getF F.PWR_BKP_STAT_PHASE ≠ 0 := by omega
  rw [execBkpRest_low now on enabled rested low ntc, if_neg notIdle, if_pos complete]

end

section
variable {t : Nat} {temp : Int} {s u : State} (now : ((s.advance t).countCharge).setF F.PWR_BKP_STAT_CELL_TEMP (toBits 8 temp) = u)
  (on : u.chargerOn = true)
include now on

/-- A phase that charges is suspended outside 0 to 45 degrees, and noted as the one interrupted (Table 3.4). -/
theorem execCellTempSuspend_outside (charges : 1 ≤ u.getF F.PWR_BKP_STAT_PHASE) (belowSuspend : u.getF F.PWR_BKP_STAT_PHASE ≤ 3)
    (outside : temp < 0 ∨ 45 < temp) :
    execCellTempSuspend t temp s = .next (({ u.setF F.PWR_BKP_STAT_PHASE 5 with pwr := { (u.setF F.PWR_BKP_STAT_PHASE 5).pwr with
      charger := { (u.setF F.PWR_BKP_STAT_PHASE 5).pwr.charger with interrupted := u.getF F.PWR_BKP_STAT_PHASE } } } : State).showCurrent) := by
  simp [execCellTempSuspend, now, on, charges, belowSuspend, outside]

/-- At 1 to 44 degrees the interrupted phase resumes (Table 3.4). -/
theorem execCellTempSuspend_back (suspended : u.getF F.PWR_BKP_STAT_PHASE = 5) (above : 1 ≤ temp) (below : temp ≤ 44) :
    execCellTempSuspend t temp s = .next ((u.setF F.PWR_BKP_STAT_PHASE u.pwr.charger.interrupted).showCurrent) := by
  simp [execCellTempSuspend, now, on, suspended, above, below]

end

/-- BKP_NTC that leaves its range stops a phase that charges or is suspended in Fault (R65). -/
theorem State.ntcLeaves_active {u : State} (idle : u.getF F.PWR_BKP_STAT_PHASE ≠ 0) (fault : u.getF F.PWR_BKP_STAT_PHASE ≠ 6)
    (noCell : u.getF F.PWR_BKP_STAT_PHASE ≠ 7) :
    u.ntcLeaves = ({ u with pwr := { u.pwr with charger := { u.pwr.charger with ntcBad := true } } } : State).chargeFault Flt.BKP_NTC_FAULT 0 1 := by
  simp only [State.ntcLeaves, idle, fault, noCell, decide_false, Bool.or_self, Bool.false_eq_true, if_false]

/-- In Idle, Fault and no cell it is recorded, once (R65). -/
theorem State.ntcLeaves_resting {u : State} (resting : u.getF F.PWR_BKP_STAT_PHASE = 0 ∨ u.getF F.PWR_BKP_STAT_PHASE = 6 ∨ u.getF F.PWR_BKP_STAT_PHASE = 7)
    (fresh : u.pwr.charger.ntcBad = false) :
    u.ntcLeaves = ({ u with pwr := { u.pwr with charger := { u.pwr.charger with ntcBad := true } } } : State).raise Flt.BKP_NTC_FAULT {} := by
  have recorded : (decide (u.getF F.PWR_BKP_STAT_PHASE = 0) || decide (u.getF F.PWR_BKP_STAT_PHASE = 6) || decide (u.getF F.PWR_BKP_STAT_PHASE = 7)) = true := by
    simpa [or_assoc] using resting
  rw [State.ntcLeaves, if_pos recorded, fresh, if_neg Bool.false_ne_true]

section
variable {t mv : Nat} {s u : State} (now : (s.advance t).countCharge = u) (on : u.chargerOn = true)
include now on

theorem execBkpNtcFault_outside (outside : mv < 100 ∨ 3200 < mv) : execBkpNtcFault t mv s = .next u.ntcLeaves := by
  simp [execBkpNtcFault, now, on, outside]

theorem execBkpNtcFault_inside (above : 100 ≤ mv) (below : mv ≤ 3200) : execBkpNtcFault t mv s = .next u.ntcInRange := by
  simp [execBkpNtcFault, now, on, Nat.not_lt.2 above, Nat.not_lt.2 below]

/-- BKP above 4.8 V while current flows stops in Fault (R70). -/
theorem execBkpOvervoltage_charging (flows : u.getF F.PWR_BKP_STAT_CURRENT_MA ≠ 0) (above : 4800 < mv) :
    execBkpOvervoltage t mv s = .next (u.chargeFault Flt.BKP_OVERVOLTAGE 4 2) := by
  simp [execBkpOvervoltage, now, on, flows, above]

/-- BKP below 0.5 V, or above 5.2 V under current, is an absent cell; a Fault it finds is kept for the cell's return (R66, assumption 163). -/
theorem execBkpNoCell_absent (present : u.getF F.PWR_BKP_STAT_PHASE ≠ 7)
    (absent : mv < 500 ∨ (5200 < mv ∧ u.getF F.PWR_BKP_STAT_CURRENT_MA ≠ 0)) :
    execBkpNoCell t mv s = .next (({ u.toPhase 7 with pwr := { (u.toPhase 7).pwr with charger := { (u.toPhase 7).pwr.charger with
      retryAt := (u.toPhase 7).now, underFault := decide (u.getF F.PWR_BKP_STAT_PHASE = 6) } } } : State).raise Flt.BKP_NO_CELL {}) := by
  simp [execBkpNoCell, now, on, present, absent]

/-- Every 60 s the absent cell is looked for; one that is back finds Idle, or the Fault it left (R66, assumption 163). -/
theorem execBkpNoCellRetry_due (noCell : u.getF F.PWR_BKP_STAT_PHASE = 7) (passed : u.elapsed u.pwr.charger.retryAt (60 * ticksPerS) = true) :
    execBkpNoCellRetry t mv s = .next (if mv < 500 ∨ 5200 < mv then { u with pwr := { u.pwr with charger := { u.pwr.charger with retryAt := u.now } } }
      else u.toPhase (if u.pwr.charger.underFault then 6 else 0)) := by
  simp only [execBkpNoCellRetry, now, on, noCell, passed, decide_true, Bool.and_self, if_true, Bool.or_eq_true, decide_eq_true_eq]
  split <;> rfl

/-- Without host contact for 60 s the safe defaults apply (R67). -/
theorem execChargerFallback_gone (gone : u.hostGone = true) :
    execChargerFallback t s = .next ((u.setB F.PWR_BKP_STAT_FALLBACK true).showCurrent) := by
  simp only [execChargerFallback, now, on, gone, Bool.and_self, if_true]

/-- Charging under the safe defaults completes after 8 h of it (R67, assumption 226). -/
theorem execCharge8hLimit_due (defaults : u.getB F.PWR_BKP_STAT_FALLBACK = true) (charges : 1 ≤ u.getF F.PWR_BKP_STAT_PHASE)
    (belowComplete : u.getF F.PWR_BKP_STAT_PHASE ≤ 3) (ran : 8 * 3600 * ticksPerS ≤ u.pwr.charger.defaultRan) :
    execCharge8hLimit t s = .next ((u.toPhase 4).setF F.PWR_BKP_STAT_TERM 5) := by
  simp only [execCharge8hLimit, now, on, defaults, decide_eq_true charges, decide_eq_true belowComplete, decide_eq_true ran, Bool.and_self, if_true]

end

/-- Settles O14: each clause is the equation of its case of its event; a BKP_NTC out of range goes through what `ntcLeaves` does in its phase. -/
theorem backupChargerEventsComplete : Obligations.BackupChargerEventsComplete :=
  ⟨fun _ _ _ _ _ => execBkpSample_due,
   fun _ _ _ => execBkpDead_due,
   fun _ _ _ => execBkpTimer_due,
   fun _ _ _ => execTopoffEnd_due,
   fun _ _ _ _ => execBkpRest_idle,
   fun _ _ _ _ => execBkpRest_complete,
   fun _ _ _ _ => execCellTempSuspend_outside,
   fun _ _ _ _ => execCellTempSuspend_back,
   fun _ _ _ _ now on outside idle fault noCell => (execBkpNtcFault_outside now on outside).trans (congrArg _ (State.ntcLeaves_active idle fault noCell)),
   fun _ _ _ _ now on outside resting fresh => (execBkpNtcFault_outside now on outside).trans (congrArg _ (State.ntcLeaves_resting resting fresh)),
   fun _ _ _ _ => execBkpNtcFault_inside,
   fun _ _ _ _ => execBkpOvervoltage_charging,
   fun _ _ _ _ => execBkpNoCell_absent,
   fun _ _ _ _ => execBkpNoCellRetry_due,
   fun _ _ _ => execChargerFallback_gone,
   fun _ _ _ => execCharge8hLimit_due⟩

end Sys2Proof.Machine
end

section
/-! Soundness: the state after reset is sound, and every step keeps it. -/

namespace Sys2Proof.Machine
open Sys2Proof

/-- Settles O3: reset holds no session, record, held write or register word, and its power state reads the Reset column. -/
theorem resetIsSound : Obligations.ResetIsSound := by
  unfold Obligations.ResetIsSound
  exact ⟨⟨by decide, by decide, by decide, by decide, by decide, List.Pairwise.nil, by simp [State.reset]⟩, rfl, by decide +kernel⟩

/-- Soundness speaks of neither the clock nor the queue. -/
theorem State.Sound.withClockAndQueue {s : State} (h : s.Sound) (n : Nat) (q : List Instr) : ({ s with now := n, pending := q } : State).Sound :=
  ⟨h.sessions, h.caches, h.recs, h.fifo, h.held, h.regs⟩

/-- Settles O4: with no command waiting only the clock moves, and soundness is among what every command keeps. -/
theorem stepKeepsSound : Obligations.StepKeepsSound := by
  unfold Obligations.StepKeepsSound
  intro s t sound stepped
  rw [step] at stepped
  split at stepped
  case _ idle =>
    cases stepped
    exact sound.withClockAndQueue (s.now + 16) s.pending
  case _ c rest queue =>
    have kept : KeepsOut { s with pending := rest } (exec c { s with pending := rest }) := exec_keeps c (.refl _)
    rw [stepped] at kept
    exact Keeps.sound kept (sound.withClockAndQueue s.now rest)

end Sys2Proof.Machine
end

section
/-! No command ends in a fault or a refusal of the model (assumption 9): every branch of every meaning is a next state. A meaning that branches on a `match` has a lemma of its own; the branches of the others stand in the arm of their command. -/

namespace Sys2Proof.Machine
open Sys2Proof

/-- A meaning that answers a next state, neither a fault nor a refusal. -/
def Answers (o : Out) : Prop := ∃ t, o = .next t

theorem Answers.next (t : State) : Answers (.next t) := ⟨t, rfl⟩

theorem Answers.ite {c : Prop} [Decidable c] {a b : Out} (h : Answers a) (g : Answers b) : Answers (if c then a else b) := by
  split <;> assumption

theorem Answers.onEngine {s : State} {e : Nat} {r : Out} (h : Answers r) : Answers (s.onEngine e r) := h.ite (.next s)

section
variable {t : Nat} {s : State}

theorem execProofVerified_answers : Answers (execProofVerified t s) := by
  fun_cases execProofVerified <;> exact .next _

theorem execSessionIdleExpiry_answers {session : Word} : Answers (execSessionIdleExpiry t session s) := by
  fun_cases execSessionIdleExpiry <;> exact .next _

theorem execChallengeExpiry_answers {session : Word} : Answers (execChallengeExpiry t session s) := by
  fun_cases execChallengeExpiry <;> exact .next _

theorem execHoldExpired_answers : Answers (execHoldExpired t s) := by
  fun_cases execHoldExpired <;> exact .next _

theorem execEdgeRelease_answers {n : Fin 64} {bstLow : Bool} : Answers (execEdgeRelease t n bstLow s) := by
  fun_cases execEdgeRelease <;> exact .next _

theorem execMinPulseHoldEnd_answers {n : Fin 64} : Answers (execMinPulseHoldEnd t n s) := by
  fun_cases execMinPulseHoldEnd <;> exact .next _

theorem execDrvenCycle_answers : Answers (execDrvenCycle t s) := by
  fun_cases execDrvenCycle <;> exact .next _

theorem execLeavesUndervoltage_answers {supply : Supply} {mv : Int} {held : Nat} : Answers (execLeavesUndervoltage t supply mv held s) := by
  fun_cases execLeavesUndervoltage <;> exact .next _

theorem execSltClockLoss_answers {clk : SltClock} {missing count : Nat} : Answers (execSltClockLoss t clk missing count s) := by
  fun_cases execSltClockLoss <;> exact .next _

theorem execInjectionDelivered_answers {n : Fin 72} {code : Code24} : Answers (execInjectionDelivered t n code s) := by
  fun_cases execInjectionDelivered <;> exact .next _

theorem execCalibrationStart_answers : Answers (execCalibrationStart t s) := by
  fun_cases execCalibrationStart <;> exact .next _

theorem execCalibrationDone_answers {results : List (Nat × Int × Int)} : Answers (execCalibrationDone t results s) := by
  fun_cases execCalibrationDone <;> exact .next _

theorem execLeDerateDwell_answers {e : Fin 16} : Answers (execLeDerateDwell t e s) := by
  fun_cases execLeDerateDwell <;> exact .next _

theorem execLwaitTimeout_answers {e : Fin 16} : Answers (execLwaitTimeout t e s) := by
  fun_cases execLwaitTimeout <;> exact .next _

theorem execFeedforward_answers {n : Fin 32} : Answers (execFeedforward t n s) := by
  fun_cases execFeedforward <;> exact .next _

theorem execSealSigned_answers : Answers (execSealSigned t s) := by
  fun_cases execSealSigned <;> exact .next _

theorem execShortInterruptionClose_answers : Answers (execShortInterruptionClose t s) := by
  fun_cases execShortInterruptionClose <;> exact .next _

theorem execWitnessMirrorWrite_answers {intact : Bool} : Answers (execWitnessMirrorWrite t intact s) := by
  fun_cases execWitnessMirrorWrite <;> exact .next _

theorem execRdgWitnessLost_answers : Answers (execRdgWitnessLost t s) := by
  fun_cases execRdgWitnessLost <;> exact .next _

theorem execRidgeLockoutEnd_answers : Answers (execRidgeLockoutEnd t s) := by
  fun_cases execRidgeLockoutEnd <;> exact .next _

theorem execSleepEntry_answers : Answers (execSleepEntry t s) := by
  fun_cases execSleepEntry <;> exact .next _

theorem execSleepReplyExpired_answers : Answers (execSleepReplyExpired t s) := by
  fun_cases execSleepReplyExpired <;> exact .next _

theorem execHandoverComplete_answers : Answers (execHandoverComplete t s) := by
  fun_cases execHandoverComplete <;> exact .next _

theorem execRidgeReply_answers : Answers (execRidgeReply t s) := by
  fun_cases execRidgeReply <;> exact .next _

theorem execRidgeQueryTimeout_answers : Answers (execRidgeQueryTimeout t s) := by
  fun_cases execRidgeQueryTimeout <;> exact .next _

theorem execListenEnd_answers {m : ListenMeas} : Answers (execListenEnd t m s) := by
  fun_cases execListenEnd <;> exact .next _

theorem execAscExit_answers : Answers (execAscExit t s) := by
  fun_cases execAscExit <;> exact .next _

theorem execBrakeStandstill_answers : Answers (execBrakeStandstill t s) := by
  fun_cases execBrakeStandstill <;> exact .next _

theorem execAuxPrechargeTimeout_answers : Answers (execAuxPrechargeTimeout t s) := by
  fun_cases execAuxPrechargeTimeout <;> exact .next _

theorem execSinDiscrepancy_answers {pair : Fin 4} : Answers (execSinDiscrepancy t pair s) := by
  fun_cases execSinDiscrepancy <;> exact .next _

theorem execRstreqRelease_answers : Answers (execRstreqRelease t s) := by
  fun_cases execRstreqRelease <;> exact .next _

theorem execResetStuck_answers : Answers (execResetStuck t s) := by
  fun_cases execResetStuck <;> exact .next _

theorem execProfileSegment_answers : Answers (execProfileSegment t s) := by
  fun_cases execProfileSegment <;> exact .next _

theorem execVspdHostExpired_answers : Answers (execVspdHostExpired t s) := by
  fun_cases execVspdHostExpired <;> exact .next _

theorem execThrottleEnd_answers : Answers (execThrottleEnd t s) := by
  fun_cases execThrottleEnd <;> exact .next _

theorem execMramInhibitEnd_answers : Answers (execMramInhibitEnd t s) := by
  fun_cases execMramInhibitEnd <;> exact .next _

theorem execThmOvertemp_answers {n : Fin 64} {held : Nat} : Answers (execThmOvertemp t n held s) := by
  fun_cases execThmOvertemp <;> exact .next _

theorem execArmingComplete_answers {failed : Fin 4} : Answers (execArmingComplete t failed s) := by
  fun_cases execArmingComplete <;> exact .next _

theorem execCompOutput_answers {n : Fin 72} {code : Code24} : Answers (execCompOutput t n code s) := by
  fun_cases execCompOutput <;> exact .next _

theorem execFastOutput_answers {n : Fin 72} {x : FastMeas} : Answers (execFastOutput t n x s) := by
  fun_cases execFastOutput <;> exact .next _

theorem execFineOutput_answers {n : Fin 72} {code : Code24} {refDev : Vector Int 4} {dieT : Int} : Answers (execFineOutput t n code refDev dieT s) := by
  fun_cases execFineOutput <;> exact .next _

theorem execSlotConversion_answers {n : Fin 72} {x : SlotConv} : Answers (execSlotConversion t n x s) := by
  fun_cases execSlotConversion <;> exact .next _

theorem execTlmStreamFrame_answers : Answers (execTlmStreamFrame t s) := by
  fun_cases execTlmStreamFrame <;> exact .next _

theorem execImageChecked_answers : Answers (execImageChecked t s) := by
  fun_cases execImageChecked <;> exact .next _

theorem execImgCommitDone_answers : Answers (execImgCommitDone t s) := by
  fun_cases execImgCommitDone <;> exact .next _

theorem execFwImageChecked_answers : Answers (execFwImageChecked t s) := by
  fun_cases execFwImageChecked <;> exact .next _

theorem execFwActivateReset_answers : Answers (execFwActivateReset t s) := by
  fun_cases execFwActivateReset <;> exact .next _

theorem execAttestSigned_answers : Answers (execAttestSigned t s) := by
  fun_cases execAttestSigned <;> exact .next _

theorem execBootStandbyReached_answers : Answers (execBootStandbyReached t s) := by
  fun_cases execBootStandbyReached <;> exact .next _

theorem execSlotStart_answers {e : Fin 16} {m : SlotMeas} {ecc : Fin 3} : Answers (execSlotStart t e m ecc s) := by
  fun_cases execSlotStart <;> exact .next _

end

section
variable {code : Nat} {f : Req → State → Out} {r : Req} {s : State}

theorem hostLow_answers (h : hostLow code = some f) : Answers (f r s) := by
  revert h
  fun_cases hostLow <;> rintro ⟨⟩ <;> exact .next _

theorem hostStage_answers (h : hostStage code = some f) : Answers (f r s) := by
  revert h
  fun_cases hostStage <;> rintro ⟨⟩ <;> exact .next _

theorem hostHigh_answers (h : hostHigh code = some f) : Answers (f r s) := by
  revert h
  fun_cases hostHigh <;> rintro ⟨⟩ <;> exact .next _

/-- A packet runs the meaning that one of the three lists gives its opcode, or the one of an opcode without execution. -/
theorem runPacket_answers : Answers (s.runPacket code r) := by
  unfold State.runPacket
  split
  case _ f found =>
    rcases Option.or_eq_some_iff.1 found with low | ⟨-, other⟩
    · exact hostLow_answers low
    · rcases Option.or_eq_some_iff.1 other with stage | ⟨-, high⟩
      · exact hostStage_answers stage
      · exact hostHigh_answers high
  · exact .next _

end

/-- Whatever the command, its meaning answers a next state: one arm per row of the opcode table, with the branches of the meaning. -/
theorem exec_answers (c : Instr) (s : State) : Answers (exec c s) :=
  match c with
  | .ping .. => .next _
  | .getState .. => .next _
  | .setState .. => .next _
  | .getVersion .. => .next _
  | .heartbeat .. => .next _
  | .sessionOpen .. => .next _
  | .sessionProve .. => .next _
  | .proofVerified .. => execProofVerified_answers
  | .authLockoutEnd .. => .next _
  | .sessionClose .. => .next _
  | .sessionIdleExpiry .. => execSessionIdleExpiry_answers
  | .challengeExpiry .. => execChallengeExpiry_answers
  | .ethLinkDown .. => .ite (.next _) (.next _)
  | .regRead .. => .next _
  | .regReadBlock .. => .next _
  | .regWrite .. => .next _
  | .registerWrite .. => .next _
  | .eventClear .. => .next _
  | .mirrorWrite .. => .next _
  | .carrierRun .. => .next _
  | .carrierStop .. => .next _
  | .gzCfgWrite .. => .next _
  | .sltLimitWrite .. => .next _
  | .wearResetWrite .. => .next _
  | .debugUnlockWrite .. => .next _
  | .mbxSnapshot .. => .next _
  | .mbxLastWordRead .. => .next _
  | .mbxExpiry .. => .next _
  | .applyHold .. => .next _
  | .applyRelease .. => .next _
  | .holdExpired .. => execHoldExpired_answers
  | .lock .. => .next _
  | .pwrStateSet .. => .next _
  | .sleepEntry .. => execSleepEntry_answers
  | .sleepReplyExpired .. => execSleepReplyExpired_answers
  | .wakeSources .. => .next _
  | .bkpChargerSet .. => .next _
  | .bkpStatus .. => .next _
  | .driveArm .. => .next _
  | .driveStart .. => .next _
  | .driveStop .. => .next _
  | .torqueSet .. => .next _
  | .speedLimitSet .. => .next _
  | .driveDisarm .. => .next _
  | .chgSessionBegin .. => .next _
  | .chgSet .. => .next _
  | .chgSessionEnd .. => .next _
  | .pilotStatus .. => .next _
  | .auxEnable .. => .next _
  | .auxSet .. => .next _
  | .auxDisable .. => .next _
  | .auxPhaseMask .. => .next _
  | .shiftTo .. => .next _
  | .parkEngage .. => .next _
  | .parkRelease .. => .next _
  | .actHome .. => .next _
  | .leLoad .. => .next _
  | .leBankWrite .. => .next _
  | .leBankSwap .. => .next _
  | .leMode .. => .next _
  | .leTableWrite .. => .next _
  | .gzConfig .. => .next _
  | .gzInject .. => .next _
  | .injectionDelivered .. => execInjectionDelivered_answers
  | .gzCalibrate .. => .next _
  | .calibrationStart .. => execCalibrationStart_answers
  | .calibrationDone .. => execCalibrationDone_answers
  | .gzRead .. => .next _
  | .safeStatus .. => .next _
  | .faultLogRead .. => .next _
  | .faultAck .. => .next _
  | .ridgeStatus .. => .next _
  | .ridgeReadRecords .. => .next _
  | .ridgeReadSeal .. => .next _
  | .ridgeReadEvents .. => .next _
  | .ridgeReply .. => execRidgeReply_answers
  | .ridgeQueryTimeout .. => execRidgeQueryTimeout_answers
  | .ridgeParamWrite .. => .next _
  | .ridgeSeal .. => .next _
  | .ridgeTimeAdjust .. => .next _
  | .ridgeLockoutEnd .. => execRidgeLockoutEnd_answers
  | .rlinkFrame .. => .ite (.next _) (.ite (.next _) (.next _))
  | .imgRead .. => .next _
  | .imgStage .. => .next _
  | .imageChecked .. => execImageChecked_answers
  | .imgCommit .. => .next _
  | .imgCommitDone .. => execImgCommitDone_answers
  | .fwStage .. => .next _
  | .fwImageChecked .. => execFwImageChecked_answers
  | .fwActivate .. => .next _
  | .fwActivateReset .. => execFwActivateReset_answers
  | .identRead .. => .next _
  | .attest .. => .next _
  | .attestSigned .. => execAttestSigned_answers
  | .certRead .. => .next _
  | .tlmRead .. => .next _
  | .tlmStream .. => .next _
  | .tlmStreamFrame .. => execTlmStreamFrame_answers
  | .lastfaultRead .. => .next _
  | .thermRead .. => .next _
  | .wearRead .. => .next _
  | .spareStatus .. => .next _
  | .undefinedOpcode .. => .next _
  | .packetDiscard .. => .next _
  | .bootPacketDiscard .. => .next _
  | .spiTransaction .. => .ite (.next _) (.ite (.next _) (.ite (.next _) runPacket_answers))
  | .handoverToBkp .. => .ite (.next _) (.next _)
  | .handoverComplete .. => execHandoverComplete_answers
  | .vsupLow .. => .ite (.ite (.next _) (.next _)) (.next _)
  | .vsupValid .. => .ite (.ite (.next _) (.ite (.next _) (.ite (.next _) (.next _)))) (.next _)
  | .bkpRise .. => .ite (.next _) (.next _)
  | .bkpFall .. => .ite (.next _) (.next _)
  | .wakeNQualified .. => .ite (.next _) (.ite (.next _) (.next _))
  | .tc10Wake .. => .next _
  | .cpWake .. => .ite (.ite (.next _) (.next _)) (.next _)
  | .ppSample .. => .ite (.next _) (.ite (.next _) (.ite (.next _) (.next _)))
  | .wheelPulseWake .. => .ite (.next _) (.next _)
  | .rtcAlarm .. => .ite (.next _) (.next _)
  | .sleepTimeout .. => .ite (.next _) (.next _)
  | .nrst .. => .ite (.next _) (.next _)
  | .nrstRelease .. => .ite (.next _) (.next _)
  | .boot .. => .ite (.next _) (.next _)
  | .bootStandbyReached .. => execBootStandbyReached_answers
  | .eaveRealign .. => .ite (.next _) (.next _)
  | .bkpSample .. => .ite (.next _) (.next _)
  | .bkpDead .. => .ite (.next _) (.next _)
  | .bkpTimer .. => .ite (.next _) (.next _)
  | .topoffEnd .. => .ite (.next _) (.next _)
  | .bkpRest .. => .ite (.ite (.next _) (.ite (.next _) (.next _))) (.next _)
  | .cellTempSuspend .. => .ite (.next _) (.ite (.next _) (.ite (.next _) (.next _)))
  | .bkpNtcFault .. => .ite (.next _) (.ite (.next _) (.next _))
  | .bkpOvervoltage .. => .ite (.next _) (.next _)
  | .bkpNoCell .. => .ite (.next _) (.next _)
  | .bkpNoCellRetry .. => .ite (.ite (.next _) (.next _)) (.next _)
  | .chargerFallback .. => .ite (.next _) (.next _)
  | .charge8hLimit .. => .ite (.next _) (.next _)
  | .ridgeVrdgLoss .. => .ite (.next _) (.next _)
  | .ridgeVrdgReturn .. => .ite (.next _) (.next _)
  | .shortInterruptionClose .. => execShortInterruptionClose_answers
  | .sltClockLoss .. => execSltClockLoss_answers
  | .gzIslandClock .. => .ite (.next _) (.ite (.next _) (.next _))
  | .delayLineRecal .. => .next _
  | .shadowGuard .. => .ite (.next _) (.next _)
  | .periodStart .. => .ite (.ite (.next _) (.next _)) (.next _)
  | .feedforward .. => execFeedforward_answers
  | .edgeRelease .. => execEdgeRelease_answers
  | .minPulseHoldEnd .. => execMinPulseHoldEnd_answers
  | .bootstrapUndervoltage .. => .ite (.next _) (.next _)
  | .millerClamp .. => .ite (.next _) (.next _)
  | .tripInputLow .. => .ite (.next _) (.next _)
  | .drvenLow .. => .ite (.next _) (.next _)
  | .drvenCycle .. => execDrvenCycle_answers
  | .gdShortCircuit .. => .ite (.next _) (.next _)
  | .softTurnOffEnd .. => .ite (.next _) (.next _)
  | .gdVpUv .. => .ite (.next _) (.next _)
  | .gdVnUv .. => .ite (.next _) (.next _)
  | .gdVdrvUv .. => .ite (.next _) (.next _)
  | .gdGateMismatch .. => .ite (.next _) (.next _)
  | .compOutput .. => execCompOutput_answers
  | .fastOutput .. => execFastOutput_answers
  | .fineOutput .. => execFineOutput_answers
  | .throttleEnd .. => execThrottleEnd_answers
  | .mramInhibitEnd .. => execMramInhibitEnd_answers
  | .overrange .. => .next _
  | .overrangeEnd .. => .next _
  | .gzXbFlat .. => .ite (.next _) (.ite (.next _) (.ite (.next _) (.next _)))
  | .slotConversion .. => execSlotConversion_answers
  | .refBufferReady .. => .ite (.next _) (.next _)
  | .slotStart .. => execSlotStart_answers
  | .backgroundWake .. => .ite (.next _) (.next _)
  | .lateSlot .. => .next _
  | .leHung .. => .next _
  | .leSatExpired .. => .ite (.next _) (.next _)
  | .leFeExpired .. => .ite (.next _) (.next _)
  | .leDerateDwell .. => execLeDerateDwell_answers
  | .ld .. => .onEngine (.ite (.next _) (.next _))
  | .st .. => .onEngine (.next _)
  | .ldb .. => .onEngine (.ite (.next _) (.next _))
  | .fadd .. => .onEngine (.next _)
  | .fsub .. => .onEngine (.next _)
  | .fmul .. => .onEngine (.next _)
  | .fma .. => .onEngine (.next _)
  | .fmin .. => .onEngine (.next _)
  | .fmax .. => .onEngine (.next _)
  | .fabs .. => .onEngine (.next _)
  | .fneg .. => .onEngine (.next _)
  | .fdiv .. => .onEngine (.next _)
  | .fsqrt .. => .onEngine (.next _)
  | .qadd .. => .onEngine (.next _)
  | .qsub .. => .onEngine (.next _)
  | .qmul .. => .onEngine (.next _)
  | .cvtqf .. => .onEngine (.next _)
  | .cvtfq .. => .onEngine (.ite (.next _) (.ite (.next _) (.next _)))
  | .sincos .. => .onEngine (.next _)
  | .atan2 .. => .onEngine (.next _)
  | .cvtg .. => .onEngine (.next _)
  | .cvtc .. => .onEngine (.ite (.next _) (.next _))
  | .piBlock .. => .onEngine (.ite (.next _) (.next _))
  | .preset .. => .onEngine (.next _)
  | .sat .. => .onEngine (.next _)
  | .tlook .. => .onEngine (.next _)
  | .time .. => .onEngine (.next _)
  | .lput .. => .onEngine (.next _)
  | .link .. => .onEngine (.next _)
  | .lwait .. => .onEngine (.ite (.next _) (.ite (.next _) (.next _)))
  | .lwaitTimeout .. => execLwaitTimeout_answers
  | .br .. => .onEngine (.next _)
  | .loop .. => .onEngine (.next _)
  | .post .. => .onEngine (.next _)
  | .endSlot .. => .onEngine (.next _)
  | .pace .. => .onEngine (.next _)
  | .wait .. => .onEngine (.next _)
  | .ascExit .. => execAscExit_answers
  | .listenEnd .. => execListenEnd_answers
  | .brakeStandstill .. => execBrakeStandstill_answers
  | .trcBrakeAbort .. => .ite (.next _) (.next _)
  | .stopRampEnd .. => .ite (.next _) (.ite (.next _) (.ite (.next _) (.next _)))
  | .trcRotorLost .. => .ite (.next _) (.next _)
  | .excRetime .. => .ite (.next _) (.next _)
  | .spAscRelease .. => .ite (.next _) (.next _)
  | .pilotEvaluation .. => .ite (.next _) (.next _)
  | .gridQualified .. => .ite (.next _) (.ite (.next _) (.ite (.next _) (.next _)))
  | .vpfcPrecharged .. => .ite (.next _) (.next _)
  | .chgGridTrip .. => .ite (.next _) (.ite (.next _) (.ite (.next _) (.ite (.next _) (.next _))))
  | .gridReconnect .. => .ite (.next _) (.next _)
  | .powerRampEnd .. => .ite (.next _) (.next _)
  | .chgHostless .. => .ite (.next _) (.next _)
  | .chgHostlessStop .. => .ite (.ite (.next _) (.next _)) (.next _)
  | .chgVbatWindow .. => .ite (.next _) (.next _)
  | .auxV48Window .. => .ite (.next _) (.next _)
  | .shedLevelChange .. => .ite (.next _) (.ite (.next _) (.ite (.next _) (.next _)))
  | .shedRotation .. => .ite (.next _) (.next _)
  | .sheddingEnd .. => .ite (.next _) (.next _)
  | .burstRestart .. => .next _
  | .auxRegulated .. => .ite (.next _) (.next _)
  | .auxSenseLost .. => .ite (.next _) (.ite (.next _) (.ite (.next _) (.next _)))
  | .auxOverload .. => .ite (.next _) (.next _)
  | .auxVoutHigh .. => .ite (.next _) (.next _)
  | .auxStopComplete .. => .next _
  | .prechargeDone .. => .ite (.next _) (.next _)
  | .auxPrechargeTimeout .. => execAuxPrechargeTimeout_answers
  | .hallEdge .. => .ite (.next _) (.next _)
  | .actHallFault .. => .ite (.next _) (.next _)
  | .actPosSensor .. => .ite (.next _) (.next _)
  | .profileSegment .. => execProfileSegment_answers
  | .shiftTargetReached .. => .ite (.next _) (.next _)
  | .actShiftTimeout .. => .ite (.next _) (.next _)
  | .motionEnd .. => .ite (.next _) (.next _)
  | .homeStopFound .. => .ite (.next _) (.ite (.next _) (.next _))
  | .actHomeFail .. => .ite (.next _) (.next _)
  | .lockedRotor .. => .ite (.next _) (.ite (.next _) (.next _))
  | .retryRestart .. => .ite (.next _) (.next _)
  | .pawlState .. => .ite (.next _) (.ite (.next _) (.ite (.next _) (.next _)))
  | .parkSwitchDisagree .. => .ite (.ite (.next _) (.next _)) (.next _)
  | .pawlBlocked .. => .ite (.next _) (.next _)
  | .parkNotEngaged .. => .ite (.ite (.next _) (.next _)) (.next _)
  | .parkMoveTimeout .. => .ite (.next _) (.next _)
  | .parkMotionEngaged .. => .next _
  | .vspdHostExpired .. => execVspdHostExpired_answers
  | .lossWindowEnd .. => .next _
  | .thmSensorBroken .. => .ite (.next _) (.next _)
  | .thmDieSensor .. => .ite (.next _) (.next _)
  | .thmOvertemp .. => execThmOvertemp_answers
  | .thmNtcOver .. => .ite (.next _) (.next _)
  | .thmModelLost .. => .ite (.next _) (.next _)
  | .wearSave .. => .ite (.next _) (.next _)
  | .sltQuestion .. => .ite (.next _) (.next _)
  | .spAnswerWord .. => .ite (.next _) (.ite (.next _) (.ite (.next _) (.ite (.next _) (.ite (.next _) (.ite (.next _) (.next _))))))
  | .sltQaMiss .. => .ite (.next _) (.next _)
  | .spLockstep .. => .ite (.next _) (.next _)
  | .sltLimitCorrupt .. => .ite (.next _) (.ite (.next _) (.next _))
  | .spPeriodicCheck .. => .ite (.next _) (.next _)
  | .safeStateRequest .. => .ite (.next _) (.next _)
  | .safeStateConfirm .. => .ite (.next _) (.next _)
  | .sltBOverrun .. => .ite (.next _) (.next _)
  | .spHoldRelease .. => .ite (.next _) (.next _)
  | .armingComplete .. => execArmingComplete_answers
  | .sltSelftestDue .. => .ite (.next _) (.next _)
  | .faultFifoDrain .. => .ite (.next _) (.next _)
  | .testPulse .. => .ite (.next _) (.next _)
  | .sinSample .. => .ite (.next _) (.next _)
  | .sinDebounce .. => .ite (.next _) (.next _)
  | .sinDiscrepancy .. => execSinDiscrepancy_answers
  | .chatter .. => .ite (.next _) (.next _)
  | .tpsOverload .. => .ite (.next _) (.next _)
  | .rstreqPress .. => .ite (.next _) (.next _)
  | .rstreqRelease .. => execRstreqRelease_answers
  | .resetStuck .. => execResetStuck_answers
  | .witnessHeartbeat .. => .ite (.next _) (.next _)
  | .witnessAngle .. => .ite (.next _) (.next _)
  | .witnessEnergy .. => .ite (.next _) (.next _)
  | .witnessMirrorWrite .. => execWitnessMirrorWrite_answers
  | .witnessSleep .. => .next _
  | .rdgWitnessLost .. => execRdgWitnessLost_answers
  | .wpiPulse .. => .next _
  | .qpRetention .. => .next _
  | .thatchCheck .. => .ite (.next _) (.ite (.next _) (.next _))
  | .fieldCheck .. => .ite (.next _) (.ite (.next _) (.next _))
  | .wpiOpenTest .. => .ite (.next _) (.ite (.next _) (.next _))
  | .rdgMbLoss .. => .ite (.next _) (.next _)
  | .rdgMbFlat .. => .ite (.next _) (.next _)
  | .ridgeEnergySample .. => .ite (.next _) (.next _)
  | .ridgeSecond .. => .ite (.next _) (.next _)
  | .ridgeMinute .. => .ite (.next _) (.next _)
  | .ridgeQuarterHour .. => .ite (.next _) (.next _)
  | .dayClose .. => .next _
  | .sealSigned .. => execSealSigned_answers
  | .ridgeStart .. => .ite (.next _) (.ite (.next _) (.next _))
  | .mirrorUpdate .. => .ite (.next _) (.next _)
  | .ridgeStale .. => .next _
  | .tripInputHigh .. => .next _
  | .leavesUndervoltage .. => execLeavesUndervoltage_answers
  | .ethLinkUp .. => .next _

/-- Settles O6: one arm per command, and one next state per branch of its meaning. -/
theorem everyCommandAnswersNext : Obligations.EveryCommandAnswersNext :=
  exec_answers

end Sys2Proof.Machine
end

section
/-! The requests that only read: whatever their reply, they change the communication unit, its error counters, the clock and the free values alone (R82, R83, R96). -/

namespace Sys2Proof.Machine
open Sys2Proof

variable {z s t : State} {r : Req}

theorem State.draw_frame (h : ReqFrame z s) : ReqFrame z s.draw.2 := h.drawn _

/-- A run of reads that each draw at most free values. -/
theorem ReqFrame.foldlSnd {α β : Type} {f : β × State → α → β × State} (hf : ∀ p a, ReqFrame z p.2 → ReqFrame z (f p a).2)
    {p : β × State} (h : ReqFrame z p.2) (l : List α) : ReqFrame z (l.foldl f p).2 :=
  List.foldlRecOn (motive := fun p => ReqFrame z p.2) l f h fun p hp a _ => hf p a hp

theorem State.runningVersion_frame {target : Nat} (h : ReqFrame z s) : ReqFrame z (s.runningVersion target).2 := by
  unfold State.runningVersion
  split
  · exact h
  · exact State.draw_frame h

theorem State.versionData_frame (h : ReqFrame z s) : ReqFrame z s.versionData.2 :=
  State.runningVersion_frame (State.runningVersion_frame h)

theorem State.lastFault_frame {st : Nat} (h : ReqFrame z s) : ReqFrame z (s.lastFault st).2 := by
  unfold State.lastFault
  split
  · exact h
  · exact ReqFrame.foldlSnd (f := fun (acc : List (Nat × F32) × State) c => (acc.1 ++ [(c, acc.2.draw.1)], acc.2.draw.2))
      (fun _ _ hp => State.draw_frame hp) (p := (_, _)) (State.draw_frame (State.draw_frame (State.draw_frame h))) _

theorem State.thermSwitch_frame {c : Nat} (h : ReqFrame z s) : ReqFrame z (s.thermSwitch c).2 := by
  unfold State.thermSwitch
  dsimp only
  split
  · exact h
  · exact State.draw_frame h

theorem State.switches_frame {first count : Nat} {f : State → Nat → List Byte × State} (hf : ∀ u c, ReqFrame z u → ReqFrame z (f u c).2)
    (h : ReqFrame z s) : ReqFrame z (s.switches first count f).2 :=
  ReqFrame.foldlSnd (f := fun (acc : List Byte × State) i => (acc.1 ++ (f acc.2 (first + i)).1, (f acc.2 (first + i)).2))
    (fun p i hp => hf p.2 (first + i) hp) (p := ([], s)) h _

/-- A refusal that stands for what the body would leave. -/
theorem Res.Frame.refuse_or {c : Prop} [Decidable c] {st : Nat} {b : Res} (h : ReqFrame z s) (hb : b.Frame z) :
    Res.Frame z (if c then refuse st s else b) := by
  split
  · exact h
  · exact hb

/-- What a meaning leaves that may change the communication unit alone. -/
def ReqFrameOut (z : State) : Out → Prop
  | .next t => ReqFrame z t
  | _ => True

theorem ReqFrameOut.of_next {o : Out} (h : ReqFrameOut z o) (e : o = .next t) : ReqFrame z t := by
  subst e
  exact h

theorem serveOp_frame {o : Op} {body : Ticket → State → Res} (hb : ∀ u, ReqFrame s u → (body (r.ticket o.code) u).Frame s) :
    ReqFrameOut s (serveOp o r body s) := serve_frame hb (.refl s)

theorem execPing_frame : ReqFrameOut s (execPing r s) :=
  serve_frame (fun _ h => by
    split
    · exact h
    · exact h) (.refl s)

theorem execGetState_frame : ReqFrameOut s (execGetState r s) := serveOp_frame fun _ h => h

theorem execGetVersion_frame : ReqFrameOut s (execGetVersion r s) := serveOp_frame fun _ h => State.versionData_frame h

theorem execIdentRead_frame : ReqFrameOut s (execIdentRead r s) :=
  serveOp_frame fun _ h => by
    dsimp only
    split
    · exact h
    · exact .refuse_or h h

theorem execCertRead_frame : ReqFrameOut s (execCertRead r s) := serveOp_frame fun _ h => .refuse_or h h

theorem execSafeStatus_frame : ReqFrameOut s (execSafeStatus r s) := serveOp_frame fun _ h => h

theorem execFaultLogRead_frame : ReqFrameOut s (execFaultLogRead r s) := serveOp_frame fun _ h => .refuse_or h h

theorem execLastfaultRead_frame : ReqFrameOut s (execLastfaultRead r s) :=
  serveOp_frame fun _ h => .refuse_or h (.refuse_or h (State.lastFault_frame h))

theorem readSwitches_frame {code : Nat} {f : State → Nat → List Byte × State} (hf : ∀ u c, ReqFrame s u → ReqFrame s (f u c).2) :
    ReqFrameOut s (readSwitches code f r s) :=
  serveOp_frame fun _ h => .refuse_or h (State.switches_frame hf h)

theorem execThermRead_frame : ReqFrameOut s (execThermRead r s) := readSwitches_frame fun _ _ => State.thermSwitch_frame

theorem execWearRead_frame : ReqFrameOut s (execWearRead r s) := readSwitches_frame fun _ _ h => h

theorem execSpareStatus_frame : ReqFrameOut s (execSpareStatus r s) := serveOp_frame fun _ h => h

theorem execGzRead_frame : ReqFrameOut s (execGzRead r s) := serveOp_frame fun _ h => .refuse_or h h

theorem execPilotStatus_frame : ReqFrameOut s (execPilotStatus r s) := serveOp_frame fun _ h => h

theorem execBkpStatus_frame : ReqFrameOut s (execBkpStatus r s) := serveOp_frame fun _ h => h

end Sys2Proof.Machine

namespace Sys2Proof.Machine
open Sys2Proof

/-- Settles O47: each reading request leaves the frame of a request, whose body draws at most free values. -/
theorem readRequestsFrame : Obligations.ReadRequestsFrame := by
  unfold Obligations.ReadRequestsFrame
  intro r s t executed
  have framed : ReqFrame s t := by
    rcases executed with e | e | e | e | e | e | e | e | e | e | e | e | e | e
    · exact execPing_frame.of_next e
    · exact execGetState_frame.of_next e
    · exact execGetVersion_frame.of_next e
    · exact execIdentRead_frame.of_next e
    · exact execCertRead_frame.of_next e
    · exact execSafeStatus_frame.of_next e
    · exact execFaultLogRead_frame.of_next e
    · exact execLastfaultRead_frame.of_next e
    · exact execThermRead_frame.of_next e
    · exact execWearRead_frame.of_next e
    · exact execSpareStatus_frame.of_next e
    · exact execGzRead_frame.of_next e
    · exact execPilotStatus_frame.of_next e
    · exact execBkpStatus_frame.of_next e
  obtain ⟨parts, words⟩ := framed
  exact ⟨parts, fun sound => (words sound.regs).2⟩

end Sys2Proof.Machine
end

section
/-! The checks of R82 in their order, for a request that the module receives with an intact header: which check ends it, and with what reply. -/

namespace Sys2Proof.Machine
open Sys2Proof

/-- A received request waits for its reply; contact, and use of the session it names, are noted (R86, R87). -/
def State.contacted (u : State) (o : Op) (r : Req) : State :=
  ({ u.enqueue o r with com := { (u.enqueue o r).com with lastContact := u.now, hostAt := some u.now } } : State).markUsed (r.ticket o.code)

section
variable {o : Op} {lo : Nat → Bool} {r : Req} {body : Ticket → State → Res} {s u v : State}

/-- A request that is finished by a check leaves what the check left. -/
theorem serve_ended (h : admitReq o lo r s = .ended v) : serve o lo r body s = v := by
  rw [serve, h]

/-- A received request with an intact header meets the steps of R82 from the CRC on. -/
theorem admitReq_received (now : s.advance r.time = u) (received : u.receives r o.code = true)
    (room : r.port = .spi → u.com.spiOut.length < 8) (intact : r.intact = true) : admitReq o lo r s =
      if r.crc.toNat ≠ r.wantCrc o.code then .ended (((u.enqueue o r).bump F.COM_ERR_CRC_ERR).reject (r.ticket o.code) stBadCrc)
      else if r.flags ≠ 0 ∨ r.reserved ≠ 0 then .ended ((u.contacted o r).reject (r.ticket o.code) stBadParam)
      else if (u.contacted o r).getB F.SYS_BOOT_RECOVERY && !recoveryOps.contains o.code then .ended ((u.contacted o r).reject (r.ticket o.code) stStateRefused)
      else if !(u.contacted o r).privileged o.level (r.ticket o.code) then .ended ((u.contacted o r).reject (r.ticket o.code) stNotPrivileged)
      else admitIn (lo r.params.length) r (r.ticket o.code) (u.contacted o r) := by
  have notFull : ¬(r.port = .spi ∧ 8 ≤ u.com.spiOut.length) := fun ⟨spi, full⟩ => Nat.not_lt.2 full (room spi)
  subst now
  rw [admitReq, received, intact]
  simp only [Bool.not_true, Bool.false_eq_true, if_false, if_neg notFull]
  rfl

end

section
variable {s : State} {o : Op} {r : Req} {t : Ticket} {id i : Word} {g : Session → Session}

/-- Sessions are found by their identifier, also after a change that leaves it alone. -/
theorem State.session_mapSession (keepsId : ∀ x, (g x).id = x.id) :
    (s.mapSession id g).session i = (s.session i).map fun x => if x.id = id then g x else x := by
  have sameId : ∀ x : Session, (if x.id = id then g x else x).id = x.id := fun x => by
    split
    · exact keepsId x
    · rfl
  simp only [State.session, State.mapSession, List.find?_map, Function.comp_def, sameId]

theorem State.markUsed_regs : (s.markUsed t).regs = s.regs := by
  unfold State.markUsed
  split <;> rfl

theorem State.contacted_getB {f : Fld} : (s.contacted o r).getB f = s.getB f :=
  congrArg (fun l => f.of ((sparseFind f.addr l).getD (resetWord f.addr)) != 0) State.markUsed_regs

/-- A session in which a request has been received (R86). -/
def Session.inUse (x : Session) : Session := { x with used := true }

/-- A request received marks its session as used and changes nothing else of any session. -/
theorem State.session_markUsed : (s.markUsed t).session i = s.session i ∨ (s.markUsed t).session i = (s.session i).map Session.inUse := by
  unfold State.markUsed
  split
  case _ x bound =>
    have found := State.session_mapSession (s := s) (id := x.id) (i := i) (g := Session.inUse) fun _ => rfl
    cases listed : s.session i with
    | none => exact .inl (by rw [listed] at found; exact found)
    | some y =>
      rw [listed] at found
      by_cases own : y.id = x.id
      · exact .inr (found.trans (by simp [own]))
      · exact .inl (found.trans (by simp [own]))
  case _ => exact .inl rfl

theorem State.session_contacted : (s.contacted o r).session i = s.session i ∨ (s.contacted o r).session i = (s.session i).map Session.inUse :=
  State.session_markUsed (s := { s.enqueue o r with com := { (s.enqueue o r).com with lastContact := s.now, hostAt := some s.now } })

/-- Step 4 of R82 does not depend on the marks that contact leaves. -/
theorem State.contacted_privileged {level : Nat} : (s.contacted o r).privileged level t = s.privileged level t := by
  unfold State.privileged State.boundSession
  rcases State.session_contacted (s := s) (o := o) (r := r) (i := t.session) with same | marked
  · rw [same]
  · rw [marked]
    cases s.session t.session with
    | none => rfl
    | some x =>
      by_cases bound : x.port = t.port ∧ x.mac = t.mac <;> simp [Session.inUse, bound]

/-- A bound session is the open one of its identifier, with the transport and the sender of the ticket (R91). -/
theorem State.boundSession_eq_some {x : Session} : s.boundSession t = some x ↔ s.session t.session = some x ∧ x.port = t.port ∧ x.mac = t.mac := by
  unfold State.boundSession
  cases s.session t.session with
  | none => simp
  | some y =>
    by_cases bound : y.port = t.port ∧ y.mac = t.mac
    · simp only [if_pos bound, Option.some.injEq]
      exact ⟨fun same => ⟨same, same ▸ bound⟩, And.left⟩
    · simp only [if_neg bound, Option.some.injEq, reduceCtorEq, false_iff]
      exact fun ⟨same, own⟩ => bound (same ▸ own)

/-- Where no bound session of the level is open, step 4 of R82 fails. -/
theorem State.privileged_false {level : Nat}
    (lacking : (r.session = 0 ∧ 0 < level) ∨ (r.session ≠ 0 ∧ ∀ x, s.session r.session = some x → x.port = r.port → x.mac = senderKey r.port r.mac → x.level < level)) :
    s.privileged level (r.ticket o.code) = false := by
  unfold State.privileged
  rcases lacking with ⟨none, needed⟩ | ⟨named, low⟩
  · rw [if_pos (show (r.ticket o.code).session = 0 from none)]
    exact beq_false_of_ne (Nat.ne_of_gt needed)
  · rw [if_neg (show ¬(r.ticket o.code).session = 0 from named)]
    split
    case _ x bound =>
      obtain ⟨found, port, mac⟩ := State.boundSession_eq_some.1 bound
      exact decide_eq_false (Nat.not_le.2 (low x found port mac))
    case _ => rfl

/-- Session 0 passes step 4 of R82 where the opcode needs no session. -/
theorem State.privileged_zero {level : Nat} (none : r.session = 0) (free : level = 0) : s.privileged level (r.ticket o.code) = true := by
  rw [State.privileged, if_pos (show (r.ticket o.code).session = 0 from none), free]
  rfl

end

/-- Settles O60: each clause takes the first check of `admitReq_received` that fails. -/
theorem checkOrder : Obligations.CheckOrder := by
  unfold Obligations.CheckOrder
  intro o lo r body s u v now received room intact contact
  have checks := admitReq_received (lo := lo) now received room intact
  have contacted : u.contacted o r = v := contact
  rw [contacted] at checks
  have recovery : v.getB F.SYS_BOOT_RECOVERY = u.getB F.SYS_BOOT_RECOVERY := by rw [← contacted, State.contacted_getB]
  have level : v.privileged o.level (r.ticket o.code) = u.privileged o.level (r.ticket o.code) := by rw [← contacted, State.contacted_privileged]
  rw [recovery, level] at checks
  refine ⟨fun wrong => serve_ended (checks.trans (if_pos wrong)), fun right reserved => ?_, fun right flags reserved => ?_⟩
  · rw [if_neg (not_not.2 right), if_pos reserved] at checks
    exact serve_ended checks
  · rw [if_neg (not_not.2 right), if_neg (not_or.2 ⟨not_not.2 flags, not_not.2 reserved⟩)] at checks
    refine ⟨fun inRecovery refused => ?_, fun allowed => ?_⟩
    · rw [if_pos (by simp [inRecovery, refused])] at checks
      exact serve_ended checks
    · rw [if_neg (by rcases allowed with out | listed <;> simp [*])] at checks
      refine ⟨fun lacking => ?_, fun none free short => ?_⟩
      · rw [State.privileged_false lacking] at checks
        exact serve_ended checks
      · rw [State.privileged_zero none free, short] at checks
        refine serve_ended (checks.trans ?_)
        rw [if_neg (by decide), admitIn, if_pos none]
        rfl

end Sys2Proof.Machine
end

section
/-! A request whose sequence number its session's cache holds: the CRC and the kept reply decide what is sent, and nothing is executed (R85). -/

namespace Sys2Proof.Machine
open Sys2Proof

section
variable {o : Op} {lo : Nat → Bool} {r : Req} {body : Ticket → State → Res} {s : State} {t : Ticket} {x : Session} {e : CacheEntry}

/-- The session a request names has been in contact at the present instant. -/
def State.touchSession (s : State) (r : Req) : State := s.mapSession r.session fun x => { x with lastAt := s.now }

/-- A sequence number in the session's cache ends the request: the CRC tells a repeat from another request (R85). -/
theorem admitIn_cached {lenOk : Bool} (named : r.session ≠ 0) (found : s.session r.session = some x)
    (cached : x.cache.find? (fun y => y.seq == t.seq) = some e) : admitIn lenOk r t s =
      if e.crc = t.crc then
        match e.reply with
        | some rep => .ended ((s.touchSession r).resend t rep)
        | none => .ended (((s.touchSession r).bump F.COM_ERR_DUP).mute t)
      else .ended ((s.touchSession r).refill t (mkReply t stBadParam [])) := by
  have touched := State.session_mapSession (s := s) (id := r.session) (i := r.session) (g := fun x => { x with lastAt := s.now }) fun _ => rfl
  rw [found, Option.map_some] at touched
  have held : (if x.id = r.session then ({ x with lastAt := s.now } : Session) else x).cache = x.cache := by split <;> rfl
  rw [admitIn, if_neg named]
  simp only [touched, held, cached]
  rfl

/-- The session a request names keeps its cache while contact is noted. -/
theorem State.session_contacted_cache (found : s.session r.session = some x) :
    ∃ y, (s.contacted o r).session r.session = some y ∧ y.cache = x.cache := by
  rcases State.session_contacted (s := s) (o := o) (r := r) (i := r.session) with same | marked
  · exact ⟨x, same.trans found, rfl⟩
  · exact ⟨x.inUse, by rw [marked, found, Option.map_some], rfl⟩

/-- A request that passes steps 1 to 4 of R82 meets the check for duplicates and lengths. -/
theorem admitReq_passesFour (passes : s.passesFour o r = true) :
    admitReq o lo r s = admitIn (lo r.params.length) r (r.ticket o.code) ((s.advance r.time).contacted o r) := by
  simp only [State.passesFour, Bool.and_eq_true, Bool.not_eq_true', Bool.and_eq_false_iff, beq_eq_false_iff_ne, decide_eq_false_iff_not,
    beq_iff_eq, ne_eq] at passes
  obtain ⟨⟨⟨⟨⟨⟨⟨received, room⟩, intact⟩, crc⟩, flags⟩, reserved⟩, recovery⟩, privileged⟩ := passes
  rw [admitReq_received rfl received (fun spi => Nat.not_le.1 (room.resolve_left (not_not.2 spi))) intact, if_neg (not_not.2 crc),
    if_neg (not_or.2 ⟨not_not.2 flags, not_not.2 reserved⟩), State.contacted_getB, State.contacted_privileged, privileged, if_neg, if_neg (by decide)]
  rcases recovery with off | off <;> simp only [off, Bool.false_and, Bool.and_false, Bool.false_eq_true, not_false_eq_true]

end

/-- Settles O51: the three ends of `admitIn_cached`, on the state that `contacted` leaves. -/
theorem duplicateNotExecuted : Obligations.DuplicateNotExecuted := by
  unfold Obligations.DuplicateNotExecuted
  intro o lo r body s x e passes named found cached
  obtain ⟨y, opened, kept⟩ := State.session_contacted_cache (s := s.advance r.time) (o := o) found
  have ended := (admitReq_passesFour (lo := lo) passes).trans (admitIn_cached (t := r.ticket o.code) named opened (by rw [kept]; exact cached))
  refine ⟨fun same rep reply => ?_, fun same silent => ?_, fun other => ?_⟩
  · rw [if_pos (show e.crc = (r.ticket o.code).crc from same), reply] at ended
    exact serve_ended ended
  · rw [if_pos (show e.crc = (r.ticket o.code).crc from same), silent] at ended
    exact serve_ended ended
  · rw [if_neg (show ¬e.crc = (r.ticket o.code).crc from other)] at ended
    exact serve_ended ended

end Sys2Proof.Machine
end

section
/-! Packets that are not requests: a header that is not intact, and an opcode that is not defined (R81, R82 step 3). -/

namespace Sys2Proof.Machine
open Sys2Proof

/-- The conditions of R81 for an intact header: exact length on SPI, padding allowed elsewhere (assumption 11). -/
theorem intactBytes_iff {p : Port} {bs : List Byte} : intactBytes p bs = true ↔
    20 ≤ bs.length ∧ bs.getD 0 0 = 1 ∧ (p = .spi → beAt bs 6 2 = bs.length - 20) ∧ (p ≠ .spi → beAt bs 6 2 ≤ bs.length - 20) ∧ beAt bs 6 2 + 20 ≤ maxPacket p false := by
  have lengths (long : 20 ≤ bs.length) : (if p = .spi then beAt bs 6 2 + 20 == bs.length else decide (beAt bs 6 2 + 20 ≤ bs.length)) = true ↔
      (p = .spi → beAt bs 6 2 = bs.length - 20) ∧ (p ≠ .spi → beAt bs 6 2 ≤ bs.length - 20) := by
    by_cases spi : p = .spi
    · simp only [spi, if_true, beq_iff_eq, forall_const, ne_eq, not_true_eq_false, false_implies, and_true]
      omega
    · simp only [spi, if_false, decide_eq_true_eq, ne_eq, not_false_eq_true, forall_const, false_implies, true_and]
      omega
  simp only [intactBytes, Bool.and_eq_true, decide_eq_true_eq, beq_iff_eq, and_assoc]
  exact and_congr_right fun long => and_congr_right fun _ => by rw [lengths long, and_assoc]

section
variable {t : Nat} {p : Port} {bs : List Byte} {s u : State} (now : s.advance t = u) (up : u.mainUp = true) (awake : u.pwr.sleep = none)
  (carried : u.portOpen p = true)
include now

theorem execPacketDiscard_intact (intact : intactBytes p bs = true) : execPacketDiscard t p bs s = .next u := by
  simp [execPacketDiscard, now, intact]

include up awake carried

theorem execPacketDiscard_broken (broken : intactBytes p bs = false) : execPacketDiscard t p bs s = .next (u.bump F.COM_ERR_DISCARD) := by
  simp [execPacketDiscard, now, up, awake, carried, broken]

end

/-- Settles O56: the header decides through `intactBytes_iff`, and a counter leaves the communication unit alone. -/
theorem headerCheckDiscards : Obligations.HeaderCheckDiscards := by
  unfold Obligations.HeaderCheckDiscards
  intro t p bs s u now up awake carried
  refine ⟨fun conditions => execPacketDiscard_intact now (intactBytes_iff.2 conditions), fun lacking => ⟨?_, State.bump_com u _⟩⟩
  exact execPacketDiscard_broken now up awake carried (Bool.eq_false_iff.2 fun intact => lacking (intactBytes_iff.1 intact))

end Sys2Proof.Machine
end

section
/-! A transaction on the host SPI, a request of an opcode that is not defined, and the steps of a boot (R80, R82, R129). -/

namespace Sys2Proof.Machine
open Sys2Proof

/-- The reply side of a transaction of n bytes: the bytes on SDO, and the reply they deliver (R80). -/
def State.replies (u : State) (n : Nat) : State :=
  { u with com := { u.com with sent := .sdo (u.sdo n) :: u.com.sent } }.spiDeliver n

section
variable {t : Nat} {sdi : List Byte} {s u : State} (now : s.advance t = u) (up : u.mainUp = true) (carried : u.portOpen .spi = true)
include now up carried

/-- A transaction outside a boot: the reply side first, then what L says of the bytes on SDI (R80). -/
theorem execSpiTransaction_open : execSpiTransaction t sdi s =
    if sdi.length < 2 ∨ beAt sdi 0 2 = 0 ∨ (u.replies sdi.length).pwr.sleep.isSome then .next (u.replies sdi.length)
    else if 4096 < beAt sdi 0 2 ∨ sdi.length < 2 + beAt sdi 0 2 ∨ beAt sdi 0 2 < 20 then .next ((u.replies sdi.length).bump F.COM_ERR_DISCARD)
    else (u.replies sdi.length).spiReceive t ((sdi.drop 2).take (beAt sdi 0 2)) := by
  rw [execSpiTransaction, now]
  simp only [up, carried, Bool.not_true, Bool.or_self, Bool.false_eq_true, if_false]
  rfl

theorem execSpiTransaction_noRequest (none : beAt sdi 0 2 = 0) : execSpiTransaction t sdi s = .next (u.replies sdi.length) := by
  rw [execSpiTransaction_open now up carried, if_pos (.inr (.inl none))]

variable (awake : (u.replies sdi.length).pwr.sleep = none)
include awake

theorem execSpiTransaction_badLength (long : 2 ≤ sdi.length)
    (bad : 0 < beAt sdi 0 2 ∧ beAt sdi 0 2 < 20 ∨ 4096 < beAt sdi 0 2 ∨ sdi.length < 2 + beAt sdi 0 2 ∧ beAt sdi 0 2 ≠ 0) :
    execSpiTransaction t sdi s = .next ((u.replies sdi.length).bump F.COM_ERR_DISCARD) := by
  rw [execSpiTransaction_open now up carried, awake, if_neg (by simp only [Option.isSome_none, Bool.false_eq_true, or_false]; omega), if_pos (by omega)]

theorem execSpiTransaction_packet (least : 20 ≤ beAt sdi 0 2) (most : beAt sdi 0 2 ≤ 4096) (whole : 2 + beAt sdi 0 2 ≤ sdi.length) :
    execSpiTransaction t sdi s = (u.replies sdi.length).spiReceive t ((sdi.drop 2).take (beAt sdi 0 2)) := by
  rw [execSpiTransaction_open now up carried, awake, if_neg (by simp only [Option.isSome_none, Bool.false_eq_true, or_false]; omega), if_neg (by omega)]

end

/-- A request of an opcode that is not defined, with no fault before step 3 of R82. -/
theorem execUndefinedOpcode_sound {r : Req} {op : BitVec 16} {s u : State} (now : s.advance r.time = u) (undefined : definedOps.contains op.toNat = false)
    (received : u.receives r op.toNat = true) (room : r.port = .spi → u.com.spiOut.length < 8) (intact : r.intact = true)
    (crc : r.crc.toNat = r.wantCrc op.toNat) (flags : r.flags = 0) (reserved : r.reserved = 0) :
    execUndefinedOpcode r op s = .next ((u.contacted { code := op.toNat } r).reject (r.ticket op.toNat) stBadOpcode) := by
  have notFull : ¬(r.port = .spi ∧ 8 ≤ u.com.spiOut.length) := fun ⟨spi, full⟩ => Nat.not_lt.2 full (room spi)
  subst now
  rw [execUndefinedOpcode, undefined, serveNone, received, intact]
  simp only [Bool.not_true, Bool.false_eq_true, if_false, if_neg notFull, crc, flags, reserved, ne_eq, not_true_eq_false, or_self]
  rfl

section
variable {t b : Nat} {mis : BitVec 32} {s u : State} (now : s.advance t = u) (waits : u.pwr.boot = some b)
include now waits

theorem execBoot_waiting (first : u.pwr.step = 0) (out : u.pwr.inReset = false) (steady : u.pwr.handover = none) :
    execBoot t mis s = .next (u.bootSteps mis.toNat) := by
  simp [execBoot, now, waits, first, out, steady]

theorem execBootStandbyReached_step8 (last : u.pwr.step = 8) : execBootStandbyReached t s = .next (u.standbyReached b) := by
  simp [execBootStandbyReached, now, waits, last]

end

/-- Settles O44: each clause is the equation of its case; the meaning a packet runs answers a next state (`runPacket_answers`). -/
theorem packetAndBootCommandsComplete : Obligations.PacketAndBootCommandsComplete :=
  ⟨fun t sdi _ u now up carried awake least most whole =>
      have ⟨v, ran⟩ : Answers ((u.replies sdi.length).spiReceive t ((sdi.drop 2).take (beAt sdi 0 2))) := runPacket_answers
      ⟨v, (execSpiTransaction_packet now up carried awake least most whole).trans ran, ran⟩,
    fun _ _ _ _ now up carried _ none => execSpiTransaction_noRequest now up carried none,
    fun _ _ _ _ now up carried long awake bad => execSpiTransaction_badLength now up carried awake long bad,
    fun _ _ _ _ => execUndefinedOpcode_sound,
    fun _ _ _ _ _ => execPacketDiscard_broken,
    fun _ _ _ _ _ now => congrArg Host.Outcome.next now,
    fun _ _ _ _ _ => execBoot_waiting,
    fun _ _ _ _ => execBootStandbyReached_step8⟩

end Sys2Proof.Machine
end

section
/-! The CRC-32C of the model shifts right with the reflected polynomial; read bit-reversed, its register is that of R76's parameters, which shifts left. -/

namespace Sys2Proof.Machine
open Sys2Proof

theorem reverse_xor (a b : BitVec 32) : (a ^^^ b).reverse = a.reverse ^^^ b.reverse := by
  ext i inside
  simp only [BitVec.getElem_xor, BitVec.getElem_reverse, BitVec.getMsbD_xor]

theorem reverse_shiftLeft_one (a : BitVec 32) : (a <<< 1).reverse = a.reverse >>> 1 := by
  ext i inside
  simp only [BitVec.getElem_reverse, BitVec.getMsbD_shiftLeft, BitVec.getElem_ushiftRight, BitVec.getLsbD_reverse, Nat.add_comm]

/-- The polynomial of R76 read bit-reversed is the reflected polynomial. -/
theorem reverse_polynomial : (0x1EDC6F41#32).reverse = 0x82F63B78#32 := by decide +kernel

/-- A byte that enters the register at its top, its bits reflected, enters the reversed register at its bottom. -/
theorem reverse_enteringByte (b : Byte) : (b.reverse.setWidth 32 <<< 24).reverse = b.setWidth 32 := by
  ext i inside
  simp only [BitVec.getElem_reverse, BitVec.getMsbD_shiftLeft, BitVec.getMsbD_setWidth, BitVec.getMsbD_reverse, BitVec.getElem_setWidth]
  rw [show i + 24 + 8 - 32 = i by omega, decide_eq_true (show 32 - 8 ≤ i + 24 by omega), Bool.true_and]

theorem reverse_lowBit (c : BitVec 32) : c.reverse.toNat % 2 = 1 ↔ c.msb = true := by
  have low : c.reverse.getLsbD 0 = c.msb := by rw [BitVec.getLsbD_reverse]; rfl
  rw [← low, BitVec.getLsbD, Nat.testBit_zero, decide_eq_true_iff]

/-- One bit step of the model is one bit step by the parameters, on the reversed register. -/
theorem crcBit_reverse (c : BitVec 32) : crcBit c.reverse.toNat = (crcStepMsb c).reverse.toNat := by
  have halved : c.reverse.toNat / 2 = (c <<< 1).reverse.toNat := by
    rw [reverse_shiftLeft_one, BitVec.toNat_ushiftRight, Nat.shiftRight_one]
  rw [crcBit, crcStepMsb, halved]
  simp only [reverse_lowBit]
  split
  · rw [reverse_xor, reverse_polynomial, BitVec.toNat_xor]
    rfl
  · rfl

theorem crcByte_reverse (c : BitVec 32) (b : Byte) : crcByte c.reverse.toNat b = (crcByteMsb c b).reverse.toNat := by
  have entered : Nat.xor c.reverse.toNat b.toNat = (c ^^^ (b.reverse.setWidth 32 <<< 24)).reverse.toNat := by
    rw [reverse_xor, reverse_enteringByte, BitVec.toNat_xor, BitVec.toNat_setWidth_of_le (by decide)]
    rfl
  rw [crcByte, entered]
  simp only [crcBit_reverse]
  rfl

theorem foldl_crcByte_reverse (bs : List Byte) (c : BitVec 32) : bs.foldl crcByte c.reverse.toNat = (bs.foldl crcByteMsb c).reverse.toNat := by
  induction bs generalizing c with
  | nil => rfl
  | cons b bs ih => rw [List.foldl_cons, crcByte_reverse, ih, List.foldl_cons]

/-- The CRC of the model is the one by the parameters of R76. -/
theorem crc32c_eq_crcByParameters (bs : List Byte) : crc32c bs = (crcByParameters bs).toNat := by
  have ones : 0xFFFFFFFF = (0xFFFFFFFF#32).reverse.toNat := by decide +kernel
  rw [crc32c, crcByParameters, BitVec.toNat_xor, ← foldl_crcByte_reverse, ← ones]
  rfl

/-- Settles O48: the parameters are `crc32c_eq_crcByParameters`, the check value is computed, and the input of the CRC is its definition. -/
theorem crc32cParameters : Obligations.Crc32cParameters :=
  ⟨crc32c_eq_crcByParameters, by decide +kernel, fun _ _ => rfl⟩

end Sys2Proof.Machine
end

section
/-! Sessions: their opening, their proof, and the events that end them or what they hold (R86 to R94, R101). -/

namespace Sys2Proof.Machine
open Sys2Proof

section
variable {t : Ticket} {u : State}

/-- Drawing free values changes their count alone. -/
theorem State.drawChallenge_free : ∃ n, u.drawChallenge.2 = { u with free := n } := by
  unfold State.drawChallenge
  refine List.foldlRecOn (motive := fun (p : List Byte × State) => ∃ n, p.2 = { u with free := n }) _ _ ⟨u.free, rfl⟩ fun p ⟨n, drawn⟩ _ _ => ⟨n + 1, ?_⟩
  show { p.2 with free := p.2.free + 1 } = _
  rw [drawn]

/-- A session of level 1 opens, with the identifier that is free, and with a challenge where a higher level is asked for (R91). -/
def State.opened (u : State) (t : Ticket) (level : Nat) (challenge : Option (List Byte)) : Session :=
  { id := u.freshId (Config.freeWord u.free), port := t.port, mac := t.mac, level := 1, want := level, challenge := challenge,
    openedAt := u.now, lastAt := u.now, lapsed := false, used := false, cache := [] }

/-- With room for a session, and no lockout or other higher session against a higher level, a session opens. -/
theorem openSession_opens {level : Nat} (positive : 1 ≤ level) (free : 2 ≤ level → u.lockedOut = false) (room : u.com.sessions.length < 4)
    (alone : 2 ≤ level → u.com.sessions.any (fun x => decide (2 ≤ x.level) || u.challengeLive x || u.proving x.id) = false) :
    ∃ (challenge : Option (List Byte)) (v : State), openSession level t u = .done stOK (openData (u.opened t level challenge).id challenge) v ∧
      v.com.sessions = u.opened t level challenge :: u.com.sessions ∧ v.regs = u.regs ∧ challenge.isSome = decide (2 ≤ level) := by
  have unlocked : ¬(2 ≤ level ∧ u.lockedOut = true) := fun ⟨high, locked⟩ => by simp [free high] at locked
  have lone : ¬(2 ≤ level ∧ u.com.sessions.any (fun x => decide (2 ≤ x.level) || u.challengeLive x || u.proving x.id) = true) :=
    fun ⟨high, other⟩ => by simp [alone high] at other
  unfold openSession
  rw [if_neg unlocked, if_neg (Nat.not_le.2 room), if_neg lone]
  by_cases operate : level = 1
  · subst operate
    exact ⟨none, _, rfl, rfl, rfl, rfl⟩
  · simp only [if_neg operate]
    obtain ⟨n, drawn⟩ := State.drawChallenge_free (u := u.draw.2)
    refine ⟨some u.draw.2.drawChallenge.1, _, rfl, ?_, ?_, ?_⟩
    · show _ :: u.draw.2.drawChallenge.2.com.sessions = _
      rw [drawn]
      rfl
    · show u.draw.2.drawChallenge.2.regs = _
      rw [drawn]
      rfl
    · exact (decide_eq_true (by omega)).symm

end

section
variable {r : Req} {s u : State}

theorem execSessionOpen_new (served : admitOp { code := 0x0010, level := 0, lens := [1] } r s = .served u) (fresh : u.retryOf (r.ticket 0x0010) = none)
    (positive : 1 ≤ r.num 0 1) (known : r.num 0 1 ≤ 3) (free : 2 ≤ r.num 0 1 → u.lockedOut = false) (room : u.com.sessions.length < 4)
    (alone : 2 ≤ r.num 0 1 → u.com.sessions.any (fun x => decide (2 ≤ x.level) || u.challengeLive x || u.proving x.id) = false) :
    ∃ (challenge : Option (List Byte)) (v : State), execSessionOpen r s =
        .next (v.answer (r.ticket 0x0010) stOK (openData (u.opened (r.ticket 0x0010) (r.num 0 1) challenge).id challenge)) ∧
      v.com.sessions = u.opened (r.ticket 0x0010) (r.num 0 1) challenge :: u.com.sessions ∧ v.regs = u.regs ∧ challenge.isSome = decide (2 ≤ r.num 0 1) := by
  obtain ⟨challenge, v, opened, facts⟩ := openSession_opens (t := r.ticket 0x0010) positive free room alone
  refine ⟨challenge, v, serveOp_done served ?_, facts⟩
  simp only [fresh]
  rw [if_neg (by omega)]
  exact opened

theorem execSessionProve_more {v : State} {x : Session}
    (served : admitReq { code := 0x0011, background := lastChunk r 0 } (fun n => decide (9 ≤ n)) r s = .served u)
    (chunk : u.chunk 0x0011 0 8240 r.session (r.num 0 4) (r.num 4 4) (r.params.drop 8) = .more v) (found : u.session r.session = some x)
    (pending : x.challenge.isSome = true) (live : u.challengeLive x = true) : execSessionProve r s = .next (v.answer (r.ticket 0x0011) stOK []) :=
  congrArg _ (serve_done served (by simp [chunk, found, Option.isSome_iff_ne_none.1 pending, live, okWith]))

theorem execSessionClose_served (served : admitOp { code := 0x0012 } r s = .served u) :
    execSessionClose r s = .next (((u.answer (r.ticket 0x0012) stOK []).closeSession r.session).trimCache (r.ticket 0x0012)) :=
  serveOp_later served rfl

end

section
variable {t : Nat} {id : Word} {tk : Ticket} {bytes : List Byte} {x : Session} {s u : State}

theorem execProofVerified_open (now : { s.advance t with com := { s.com with sigJob := none } } = u) (job : s.com.sigJob = some (.proof tk bytes))
    (found : u.session tk.session = some x) : execProofVerified t s =
      .next (if u.proofOk x bytes = true then (u.mapSession x.id fun y => { y with level := y.want, challenge := none }).answer tk stOK (beBytes 1 x.want)
        else failProof tk u) := by
  have verifying : (s.advance t).com.sigJob = some (.proof tk bytes) := job
  have after : ({ s.advance t with com := { (s.advance t).com with sigJob := none } } : State) = u := now
  rw [execProofVerified]
  simp only [verifying, after, found]
  split <;> rfl

variable (now : s.advance t = u)
include now

theorem execAuthLockoutEnd_passed (passed : u.lockedOut = false) :
    execAuthLockoutEnd t s = .next { u with com := { u.com with lockoutUntil := none } } := by
  simp [execAuthLockoutEnd, now, passed]

theorem execSessionIdleExpiry_idle (found : u.session id = some x) (up : u.mainUp = true) (idle : x.lastAt + u.sessionIdle ≤ u.now) :
    execSessionIdleExpiry t id s = .next (u.closeSession id) := by
  simp [execSessionIdleExpiry, now, found, up, State.elapsed_of_le idle]

theorem execChallengeExpiry_old (found : u.session id = some x) (pending : x.challenge.isSome = true) (old : x.openedAt + 60 * ticksPerS ≤ u.now) :
    execChallengeExpiry t id s = .next (u.mapSession id fun y => { y with lapsed := true }) := by
  simp [execChallengeExpiry, now, found, pending, State.elapsed_of_le old]

theorem execEthLinkDown_open (link : u.com.linkUp = true) (used : u.com.sessions.any (fun x => x.port == Port.eth) = true) :
    execEthLinkDown t s =
      .next ((({ u with com := { u.com with linkUp := false, stream := none } }).raise Flt.ETH_LINK_DOWN {}).closeSessions fun x => x.port == Port.eth) := by
  simp only [execEthLinkDown, now, link, used, Bool.not_true, Bool.false_eq_true, if_false, if_true]

theorem execEthLinkUp_running (up : u.mainUp = true) : execEthLinkUp t s = .next { u with com := { u.com with linkUp := true } } := by
  simp [execEthLinkUp, now, up]

end

/-- Settles O9: each clause is the equation of its case; the session that opens is `State.opened`. -/
theorem sessionCommandsComplete : Obligations.SessionCommandsComplete :=
  ⟨fun r _ u served fresh positive known free room alone =>
      have ⟨challenge, v, executed, sessions, regs, challenged⟩ := execSessionOpen_new served fresh positive known free room alone
      ⟨u.opened (r.ticket 0x0010) (r.num 0 1) challenge, v, executed, sessions, regs, rfl, rfl, rfl, rfl, rfl, challenged, rfl, rfl⟩,
    fun _ _ _ _ _ => execSessionProve_more,
    fun _ _ _ _ _ _ => execProofVerified_open,
    fun _ _ _ => execAuthLockoutEnd_passed,
    fun _ _ _ => execSessionClose_served,
    fun _ _ _ _ _ => execSessionIdleExpiry_idle,
    fun _ _ _ _ _ => execChallengeExpiry_old,
    fun _ _ _ => execEthLinkDown_open,
    fun _ _ _ => execEthLinkUp_running⟩

end Sys2Proof.Machine
end

section
/-! The loop-engine requests (R195, R206 to R209, R214, R222, R493): one equation for each request that is served and within its conditions. -/

namespace Sys2Proof.Machine
open Sys2Proof

/-- A program with a sound header is loaded, or its first refused word is shown (R195). -/
theorem State.loadProgram_sound {v : State} {e : Nat} {bytes : List Byte} (header : progHeaderOk bytes = true) :
    v.loadProgram e bytes = match progError (progWords bytes) with
      | some (c, i) => refuse stBadParam (v.loadStat e c i)
      | none => okWith [] (v.putProgram e bytes) := by
  rw [State.loadProgram, header]
  rfl

section
variable {r : Req} {s u : State}

section
variable {v : State} {bytes : List Byte} (served : admitReq { code := 0x0700, level := 2 } (fun n => decide (10 ≤ n)) r s = .served u)
  (background : r.num 0 1 = 14 ∨ r.num 0 1 = 15) (standby : u.power = pSTANDBY) (stopped : u.leMode (r.num 0 1) = 0)
include served background standby stopped

theorem execLeLoad_more (chunk : u.chunk 0x0700 (r.num 0 1) 16384 r.session (r.num 1 4) (r.num 5 4) (r.params.drop 9) = .more v) :
    execLeLoad r s = .next (v.answer (r.ticket 0x0700) stOK []) := by
  have loadable : ¬(r.num 0 1 ≠ 14 ∧ r.num 0 1 ≠ 15) := by omega
  exact congrArg _ (serve_done served (by simp [loadable, chunk, standby, stopped, okWith]))

theorem execLeLoad_whole (chunk : u.chunk 0x0700 (r.num 0 1) 16384 r.session (r.num 1 4) (r.num 5 4) (r.params.drop 9) = .whole bytes v)
    (header : progHeaderOk bytes = true) : execLeLoad r s = .next (match progError (progWords bytes) with
      | some (c, i) => (v.loadStat (r.num 0 1) c i).answer (r.ticket 0x0700) stBadParam []
      | none => (v.putProgram (r.num 0 1) bytes).answer (r.ticket 0x0700) stOK []) := by
  have loadable : ¬(r.num 0 1 ≠ 14 ∧ r.num 0 1 ≠ 15) := by omega
  have loaded := State.loadProgram_sound (v := v) (e := r.num 0 1) header
  cases refused : progError (progWords bytes) with
  | none =>
    rw [refused] at loaded
    exact congrArg _ (serve_done served (by simp [loadable, chunk, standby, stopped, loaded, okWith]))
  | some w =>
    rw [refused] at loaded
    exact congrArg _ (serve_done served (by simp [loadable, chunk, standby, stopped, loaded, refuse]))

end

theorem execLeBankWrite_inside (served : admitReq { code := 0x0701 } (fun n => decide (3 ≤ n) && n % 4 == 3) r s = .served u)
    (engine : r.num 0 1 < 16) (inside : r.num 1 2 + (r.params.length - 3) / 4 ≤ 256) (free : u.bit F.LE_BANK_PEND (r.num 0 1) = false) :
    execLeBankWrite r s = .next ((u.putBank (r.num 0 1) (r.num 1 2) (reqWords r)).answer (r.ticket 0x0701) stOK []) :=
  congrArg _ (serve_done served (by simp [Nat.not_le.2 engine, Nat.not_lt.2 inside, free, okWith]))

theorem execLeTableWrite_inside (served : admitReq { code := 0x0704, level := 2 } (fun n => decide (3 ≤ n) && n % 4 == 3) r s = .served u)
    (engine : r.num 0 1 < 16) (inside : r.num 1 2 + (r.params.length - 3) / 4 ≤ 1024) (finite : (reqWords r).any (fun w => !F32.isFinite w) = false) :
    execLeTableWrite r s = .next ((u.putTable (r.num 0 1) ((List.range (reqWords r).length).map fun k => (r.num 1 2 + k, (reqWords r).getD k 0))).answer
      (r.ticket 0x0704) stOK []) := by
  have within : ¬(16 ≤ r.num 0 1 ∨ 1024 < r.num 1 2 + (r.params.length - 3) / 4 ∨ (reqWords r).any (fun w => !F32.isFinite w) = true) := by
    rw [finite]
    simp only [Bool.false_eq_true, or_false]
    omega
  exact congrArg _ (serve_done served (if_neg within))

theorem execLeMode_allowed (served : admitOp { code := 0x0703, level := 2, lens := [2] } r s = .served u) (engine : r.num 0 1 < 16) (known : r.num 1 1 ≤ 2)
    (allowed : u.modeRefused (r.num 0 1) (r.num 1 1) = false) (free : (bitsList 9 (u.getF (F.LE_CFG_STAGES (r.num 0 1)))).any (fun k => u.held k) = false) :
    execLeMode r s = .next ((u.takeMode (r.num 0 1) (r.num 1 1)).answer (r.ticket 0x0703) stOK []) :=
  serveOp_done served (by simp only [free, allowed]; rw [if_neg (by omega)]; rfl)

section
variable (served : admitOp { code := 0x0702, lens := [2] } r s = .served u)
  (idle : (bitsList 16 (r.num 0 2)).any (fun e => u.bit F.LE_BANK_PEND e) = false)
include served idle

theorem execLeBankSwap_atOnce (stopped : ((bitsList 16 (r.num 0 2)).filter u.swapWaits).isEmpty = true) : execLeBankSwap r s =
    .next ((u.requestSwap (bitsList 16 (r.num 0 2))).answer (r.ticket 0x0702) stOK (u.requestSwap (bitsList 16 (r.num 0 2))).activeBanks) :=
  serveOp_done served (by simp only [idle, stopped]; rfl)

variable (waits : ((bitsList 16 (r.num 0 2)).filter u.swapWaits).isEmpty = false)
include waits

theorem execLeBankSwap_far (far : u.swapFar (bitsList 16 (r.num 0 2)) = true) : execLeBankSwap r s =
    .next ((u.requestSwap (bitsList 16 (r.num 0 2))).answer (r.ticket 0x0702) stDeferred (u.requestSwap (bitsList 16 (r.num 0 2))).activeBanks) :=
  serveOp_done served (by simp only [idle, waits, far]; rfl)

theorem execLeBankSwap_near (near : u.swapFar (bitsList 16 (r.num 0 2)) = false) : execLeBankSwap r s =
    .next (({ (u.requestSwap (bitsList 16 (r.num 0 2))) with swaps := (u.requestSwap (bitsList 16 (r.num 0 2))).swaps ++
      [{ ticket := r.ticket 0x0702, mask := maskOf ((bitsList 16 (r.num 0 2)).filter u.swapWaits) }] : State }).trimCache (r.ticket 0x0702)) :=
  serveOp_later served (by simp only [idle, waits, near]; rfl)

end

end

/-- Settles O27: each clause is the equation of its request, served within its conditions. -/
theorem engineRequestsComplete : Obligations.EngineRequestsComplete :=
  ⟨fun _ _ _ _ => execLeLoad_more,
    fun _ _ _ _ _ => execLeLoad_whole,
    fun _ _ _ => execLeBankWrite_inside,
    fun _ _ _ => execLeBankSwap_atOnce,
    fun _ _ _ => execLeBankSwap_far,
    fun _ _ _ => execLeBankSwap_near,
    fun _ _ _ => execLeMode_allowed,
    fun _ _ _ => execLeTableWrite_inside⟩

end Sys2Proof.Machine
end

section
/-! The configuration image: staging, check, commit and read (R89, R90, R122, R126, R128). -/

namespace Sys2Proof.Machine
open Sys2Proof

section
variable {t : Ticket} {u : State} {key bytes d : List Byte} {off maxLen st : Nat}

/-- At offset 0 a long result is formed, kept, and its first part answered (R90). -/
theorem State.longRead_first (part : longReply bytes 0 maxLen t.room = (st, d)) :
    u.longRead t key bytes 0 maxLen = .done st d (u.keepLong t key bytes) := by
  rw [State.longRead, if_pos rfl, part]

/-- At another offset a part of the result that was kept with the same key is answered (R90). -/
theorem State.longRead_later {x : LongResult} (later : off ≠ 0) (kept : (u.com.longs.find? fun x => x.opcode == t.opcode && x.session == t.session) = some x)
    (same : x.key = key) (part : longReply x.bytes off maxLen t.room = (st, d)) : u.longRead t key bytes off maxLen = .done st d u := by
  rw [State.longRead, if_neg later, kept]
  simp only [if_pos same, part]

end

section
variable {r : Req} {bytes : List Byte} {v s u : State}
  (served : admitReq { code := 0x0B01, level := 2, background := lastChunk r 0 } (fun n => decide (9 ≤ n)) r s = .served u)
include served

theorem execImgStage_more (chunk : u.chunk 0x0B01 0 65536 r.session (r.num 0 4) (r.num 4 4) (r.params.drop 8) = .more v) :
    execImgStage r s = .next ((v.stageBegins (r.num 0 4)).answer (r.ticket 0x0B01) stOK []) :=
  congrArg _ (serve_done served (by simp only [chunk]; rfl))

theorem execImgStage_whole (chunk : u.chunk 0x0B01 0 65536 r.session (r.num 0 4) (r.num 4 4) (r.params.drop 8) = .whole bytes v)
    (idle : u.com.sigJob = none) : execImgStage r s =
      .next (({ v.stageBegins (r.num 0 4) with com := { (v.stageBegins (r.num 0 4)).com with sigJob := some (.image (r.ticket 0x0B01) bytes) } }).trimCache
        (r.ticket 0x0B01)) :=
  congrArg _ (serve_later served (by simp only [chunk, idle]; rfl))

end

section
variable {t st : Nat} {tk : Ticket} {ses : Word} {bytes : List Byte} {bad : Option Nat} {img : Option Image} {s u : State} (now : s.advance t = u)
include now

theorem execImageChecked_judged (job : u.com.sigJob = some (.image tk bytes)) (checked : u.jobDone.checkImage bytes = (st, bad, img)) :
    execImageChecked t s = .next ((u.jobDone.imageJudged tk bad img).answer tk st []) := by
  simp only [execImageChecked, now, job, checked]

theorem execImgCommitDone_written (written : u.idn.commit = some (tk, ses)) : execImgCommitDone t s = .next (u.imgSwitch.answer tk stOK []) := by
  simp only [execImgCommitDone, now, written]

end

section
variable {r : Req} {d : List Byte} {st : Nat} {s u : State}

theorem execImgCommit_staged {i : Image} (served : admitOp { code := 0x0B02, level := 2, background := true } r s = .served u) (standby : u.power = pSTANDBY)
    (shown : u.getF F.SYS_IMG_STAGE_STATE = 2) (staged : u.idn.staged = some (r.session, i)) (idle : u.idn.commit = none)
    (cool : u.getB F.THM_STAT_MRAM_INH = false) : execImgCommit r s =
      .next (({ u with idn := { u.idn with slots := vset u.idn.slots (1 - u.idn.imgActive) (some i), commit := some (r.ticket 0x0B02, r.session) } }).trimCache
        (r.ticket 0x0B02)) :=
  serveOp_later served (by simp [standby, shown, staged, idle, cool])

variable (served : admitOp { code := 0x0B00, lens := [6] } r s = .served u)
include served

theorem execImgRead_first (first : r.num 0 4 = 0)
    (part : longReply ((u.activeImage.map fun i => i.bytes).getD []) 0 (r.num 4 2) (r.ticket 0x0B00).room = (st, d)) :
    execImgRead r s = .next ((u.keepLong (r.ticket 0x0B00) [] ((u.activeImage.map fun i => i.bytes).getD [])).answer (r.ticket 0x0B00) st d) :=
  serveOp_done served (by simp only [first]; exact State.longRead_first part)

theorem execImgRead_later {x : LongResult} (later : r.num 0 4 ≠ 0) (kept : (u.com.longs.find? fun x => x.opcode == 0x0B00 && x.session == r.session) = some x)
    (same : x.key = []) (part : longReply x.bytes (r.num 0 4) (r.num 4 2) (r.ticket 0x0B00).room = (st, d)) :
    execImgRead r s = .next (u.answer (r.ticket 0x0B00) st d) :=
  serveOp_done served (State.longRead_later later kept same part)

end

/-- Settles O38: each clause is the equation of its request or event in its conditions. -/
theorem imageCommandsComplete : Obligations.ImageCommandsComplete :=
  ⟨fun _ _ _ _ => execImgStage_more,
    fun _ _ _ _ _ => execImgStage_whole,
    fun _ _ _ _ _ _ _ _ => execImageChecked_judged,
    fun _ _ _ _ => execImgCommit_staged,
    fun _ _ _ _ _ => execImgCommitDone_written,
    fun _ _ _ _ _ => execImgRead_first,
    fun _ _ _ _ _ _ served => execImgRead_later served⟩

end Sys2Proof.Machine
end

section
/-! Firmware staging and activation, and attestation (R90, R477, R480 to R482): one equation for each request or event within its conditions. -/

namespace Sys2Proof.Machine
open Sys2Proof

section
variable {r : Req} {bytes : List Byte} {v w s u : State}
  (served : admitReq { code := 0x0B03, level := 2, background := lastChunk r 1 } (fun n => decide (10 ≤ n)) r s = .served u)
  (target : r.num 0 1 ≤ 1) (taken : u.fwRefusal (r.num 0 1) (r.num 1 4) (chunkWords r) = 0)
include served target taken

theorem execFwStage_more
    (chunk : u.chunk 0x0B03 (r.num 0 1) (fwMax (r.num 0 1)) r.session (r.num 1 4) (r.num 5 4) (r.params.drop 9) = .more w)
    (begun : (u.fwBegins r.session (r.num 0 1) (r.num 1 4)).chunk 0x0B03 (r.num 0 1) (fwMax (r.num 0 1)) r.session (r.num 1 4) (r.num 5 4) (r.params.drop 9) = .more v) :
    execFwStage r s = .next ((v.fwWrite (r.num 0 1) (chunkWords r)).answer (r.ticket 0x0B03) stOK []) :=
  congrArg _ (serve_done served (by
    rw [if_neg (Nat.not_lt.2 target)]
    simp only [chunk, begun, taken]
    rfl))

theorem execFwStage_whole (idle : u.com.sigJob = none)
    (chunk : u.chunk 0x0B03 (r.num 0 1) (fwMax (r.num 0 1)) r.session (r.num 1 4) (r.num 5 4) (r.params.drop 9) = .whole bytes w)
    (begun : (u.fwBegins r.session (r.num 0 1) (r.num 1 4)).chunk 0x0B03 (r.num 0 1) (fwMax (r.num 0 1)) r.session (r.num 1 4) (r.num 5 4) (r.params.drop 9) = .whole bytes v) :
    execFwStage r s = .next ((({ v with com := { v.com with sigJob := some (.firmware (r.ticket 0x0B03) (r.num 0 1) bytes) } }).fwWrite (r.num 0 1)
      (chunkWords r)).trimCache (r.ticket 0x0B03)) :=
  congrArg _ (serve_later served (by
    rw [if_neg (Nat.not_lt.2 target)]
    simp only [chunk, begun, taken, idle]
    rfl))

end

section
variable {t target maxLen st : Nat} {tk : Ticket} {nonce b bytes d : List Byte} {f : Option FwImage} {s u : State} (now : s.advance t = u)
include now

theorem execFwImageChecked_judged (job : u.com.sigJob = some (.firmware tk target bytes)) (checked : u.jobDone.checkFirmware target bytes = (st, f)) :
    execFwImageChecked t s = .next ((u.jobDone.setSlot target (u.jobDone.idleSlot target) f (if f.isSome then 2 else 0)).answer tk st []) := by
  simp only [execFwImageChecked, now, job, checked]

theorem execFwActivateReset_due {a : Nat} (due : u.pwr.activateAt = some a) (up : u.mainUp = true) (serving : u.power ≠ pTEST) (passed : a ≤ u.now) :
    execFwActivateReset t s = .next (u.resetAndBoot 0x09) := by
  simp [execFwActivateReset, now, due, up, serving, passed]

theorem execAttestSigned_formed (job : u.com.sigJob = some (.attest tk nonce b maxLen)) (part : longReply (signedReport b) 0 maxLen tk.room = (st, d)) :
    execAttestSigned t s =
      .next ((if (u.session tk.session).isSome then u.jobDone.keepLong tk nonce (signedReport b) else u.jobDone).answer tk st d) := by
  simp only [execAttestSigned, now, job, part]

end

section
variable {r : Req} {s u : State}

theorem execFwActivate_allowed (served : admitOp { code := 0x0B04, level := 2, background := true, lens := [1] } r s = .served u) (target : r.num 0 1 ≤ 1)
    (standby : u.power = pSTANDBY) (first : u.idn.activated = 0) (fit : u.mayActivate (r.num 0 1) = true) (cool : u.getB F.THM_STAT_MRAM_INH = false) :
    execFwActivate r s = .next ((u.fwSwitch (r.num 0 1)).answer (r.ticket 0x0B04) stDeferred []) :=
  serveOp_done served (by simp [Nat.not_lt.2 target, standby, first, fit, cool])

variable (served : admitOp { code := 0x0C01, background := r.num 32 4 == 0, lens := [38] } r s = .served u)
include served

theorem execAttest_first (first : r.num 32 4 = 0) (idle : u.com.sigJob = none) : execAttest r s =
    .next (if Config.certOk 3 then (u.attestBegins (r.ticket 0x0C01) (r.params.take 32) (r.num 36 2)).trimCache (r.ticket 0x0C01)
      else u.answer (r.ticket 0x0C01) stStateRefused []) := by
  by_cases valid : Config.certOk 3 = true
  · rw [if_pos valid]
    exact serveOp_later served (by simp only [first, valid, idle]; rfl)
  · rw [if_neg valid]
    exact serveOp_done served (by simp only [first, Bool.eq_false_iff.2 valid]; rfl)

theorem execAttest_later {x : LongResult} {d : List Byte} {st : Nat} (later : r.num 32 4 ≠ 0)
    (kept : (u.com.longs.find? fun x => x.opcode == 0x0C01 && x.session == r.session) = some x)
    (same : x.key = r.params.take 32) (part : longReply x.bytes (r.num 32 4) (r.num 36 2) (r.ticket 0x0C01).room = (st, d)) :
    execAttest r s = .next (u.answer (r.ticket 0x0C01) st d) :=
  serveOp_done served (by
    rw [if_pos later]
    exact State.longRead_later later kept same part)

end

/-- Settles O39: each clause is the equation of its request or event in its conditions. -/
theorem firmwareAndAttestComplete : Obligations.FirmwareAndAttestComplete :=
  ⟨fun _ _ _ _ _ => execFwStage_more,
    fun _ _ _ _ _ _ => execFwStage_whole,
    fun _ _ _ _ _ _ _ _ => execFwImageChecked_judged,
    fun _ _ _ => execFwActivate_allowed,
    fun _ _ _ _ now due => execFwActivateReset_due now due,
    fun _ _ _ => execAttest_first,
    fun _ _ _ _ _ _ served => execAttest_later served,
    fun _ _ _ _ _ _ _ _ _ => execAttestSigned_formed⟩

end Sys2Proof.Machine
end

section
/-! The telemetry, last-fault, thermal and wear requests (R96, R99, R345, R389): one equation for each request that is served within its conditions. -/

namespace Sys2Proof.Machine
open Sys2Proof

section
variable {r : Req} {s u : State}

section
variable (served : admitOp { code := 0x0D00, level := 2, lens := [2] } r s = .served u) (stage : r.num 0 1 ≤ 8)
  (fits : r.fits (1 + 13 * (u.quantityCodes (r.num 0 1)).length) = true) (serves : u.tlmServed (r.num 0 1) = true)
include served stage fits serves

theorem execTlmRead_kept (keep : r.num 1 1 = 0) :
    execTlmRead r s = .next ((u.tlmData (r.num 0 1)).2.answer (r.ticket 0x0D00) stOK (u.tlmData (r.num 0 1)).1) :=
  serveOp_done served (by simp [Nat.not_lt.2 stage, keep, fits, serves, okWith])

theorem execTlmRead_restarted (restart : r.num 1 1 = 1) : execTlmRead r s =
    .next ({ (u.tlmData (r.num 0 1)).2 with tlm := { (u.tlmData (r.num 0 1)).2.tlm with
      peaks := (u.tlmData (r.num 0 1)).2.tlm.peaks.filter fun p => p.1 != r.num 0 1 } }.answer (r.ticket 0x0D00) stOK (u.tlmData (r.num 0 1)).1) :=
  serveOp_done served (by simp [Nat.not_lt.2 stage, restart, fits, serves, okWith])

end

section
variable (served : admitOp { code := 0x0D01, level := 2, lens := [25] } r s = .served u)
include served

theorem execTlmStream_stops (stop : r.num 0 1 = 0) (link : r.port = .eth) :
    execTlmStream r s = .next ({ u with com := { u.com with stream := none } }.answer (r.ticket 0x0D01) stOK []) :=
  serveOp_done served (by simp [stop, link, okWith])

theorem execTlmStream_begins (start : r.num 0 1 = 1) (link : r.port = .eth) (sound : u.streamOk r = true)
    (alone : (u.com.stream.any fun x => x.session != r.session) = false) :
    execTlmStream r s = .next ((u.streamBegins r).answer (r.ticket 0x0D01) stOK []) :=
  serveOp_done served (by simp only [start, link, sound, alone]; rfl)

end

theorem execLastfaultRead_fits {f : LastFault} {v : State} (served : admitOp { code := 0x0D02, lens := [1] } r s = .served u) (stage : r.num 0 1 ≤ 8)
    (last : u.lastFault (r.num 0 1) = (f, v)) (fits : r.fits (11 + 5 * f.quantities.length) = true) : execLastfaultRead r s =
      .next (v.answer (r.ticket 0x0D02) stOK (beBytes 8 f.time ++ beBytes 2 f.code ++ beBytes 1 f.quantities.length
        ++ f.quantities.flatMap fun q => beBytes 1 q.1 ++ beBytes 4 q.2.toNat)) :=
  serveOp_done served (by
    rw [if_neg (Nat.not_lt.2 stage)]
    simp only [last, fits]
    rfl)

/-- A run of switches that ends at CH63 and whose reply fits. -/
theorem readSwitches_fits {code : Nat} {f : State → Nat → List Byte × State} (served : admitOp { code := code, lens := [2] } r s = .served u)
    (inside : r.num 0 1 + r.num 1 1 ≤ 64) (fits : r.fits (9 * r.num 1 1) = true) : readSwitches code f r s =
      .next ((u.switches (r.num 0 1) (r.num 1 1) f).2.answer (r.ticket code) stOK (u.switches (r.num 0 1) (r.num 1 1) f).1) :=
  serveOp_done served (by simp [Nat.not_lt.2 inside, fits, okWith])

theorem execThermRead_fits (served : admitOp { code := 0x0E00, lens := [2] } r s = .served u) (inside : r.num 0 1 + r.num 1 1 ≤ 64)
    (fits : r.fits (9 * r.num 1 1) = true) : execThermRead r s =
      .next ((u.switches (r.num 0 1) (r.num 1 1) State.thermSwitch).2.answer (r.ticket 0x0E00) stOK (u.switches (r.num 0 1) (r.num 1 1) State.thermSwitch).1) :=
  readSwitches_fits served inside fits

/-- The wear figures of a switch: LIFE and CYC (R96). -/
def State.wearSwitch (s : State) (c : Nat) : List Byte × State := (beBytes 1 c ++ beBytes 4 (s.getF (F.THM_LIFE c)) ++ beBytes 4 (s.getF (F.THM_CYC c)), s)

theorem execWearRead_fits (served : admitOp { code := 0x0E01, lens := [2] } r s = .served u) (inside : r.num 0 1 + r.num 1 1 ≤ 64)
    (fits : r.fits (9 * r.num 1 1) = true) : execWearRead r s =
      .next ((u.switches (r.num 0 1) (r.num 1 1) State.wearSwitch).2.answer (r.ticket 0x0E01) stOK (u.switches (r.num 0 1) (r.num 1 1) State.wearSwitch).1) :=
  readSwitches_fits (f := State.wearSwitch) served inside fits

theorem execSpareStatus_served (served : admitOp { code := 0x0E02 } r s = .served u) :
    execSpareStatus r s = .next (u.answer (r.ticket 0x0E02) stOK u.spareData) :=
  serveOp_done served rfl

end

/-- Settles O40: each clause is the equation of its request; the two requests for a run of switches share theirs. -/
theorem telemetryAndWearRequestsComplete : Obligations.TelemetryAndWearRequestsComplete :=
  ⟨fun _ _ _ served stage keep fits serves => execTlmRead_kept served stage fits serves keep,
    fun _ _ _ served stage restart fits serves => execTlmRead_restarted served stage fits serves restart,
    fun _ _ _ => execTlmStream_stops,
    fun _ _ _ => execTlmStream_begins,
    fun _ _ _ _ _ => execLastfaultRead_fits,
    fun _ _ _ => execThermRead_fits,
    fun _ _ _ => execWearRead_fits,
    fun _ _ _ => execSpareStatus_served⟩

end Sys2Proof.Machine
end

section
/-! The thermal, wear and stream events (R100, R369 to R387): one equation for the case of each event that acts, `u` being the state at the event. -/

namespace Sys2Proof.Machine
open Sys2Proof

section
variable {t : Nat} {s u : State} (now : s.advance t = u)
include now

theorem execTlmStreamFrame_whole {x : Stream} (runs : u.com.stream = some x) (fits : 0 < setsPerFrame x.chans.length)
    (collected : setsPerFrame x.chans.length ≤ x.sets.length) (link : u.com.linkUp = true) :
    execTlmStreamFrame t s = .next (u.streamSends x (setsPerFrame x.chans.length)) := by
  simp [execTlmStreamFrame, now, runs, Nat.ne_of_gt fits, Nat.not_lt.2 collected, link]

variable (up : u.mainUp = true)
include up

theorem execLossWindowEnd_ended {parts : List LossPart} (ended : u.lossDue ≤ u.lossEnded) :
    execLossWindowEnd t parts s = .next (({ u with thm := { u.thm with lossWin := u.lossDue } } : State).publishLosses parts) := by
  simp [execLossWindowEnd, now, up, ended]

theorem execThrottleEnd_cool {x : Nat} (since : u.thm.throttleAt = some x) (sound : u.thm.dieFault = false) (passed : x + ticksPerS ≤ u.now) :
    execThrottleEnd t s = .next (u.setB F.THM_STAT_THROTTLE false) := by
  simp [execThrottleEnd, now, up, since, sound, State.elapsed_of_le passed]

theorem execMramInhibitEnd_cool {x : Nat} (since : u.thm.inhibitAt = some x) (passed : x + ticksPerS ≤ u.now) :
    execMramInhibitEnd t s = .next u.endInhibit := by
  simp [execMramInhibitEnd, now, up, since, State.elapsed_of_le passed]

theorem execThmSensorBroken_gone {n : Fin 6} {held : Nat} (whole : u.ntcBroken n = false)
    (gone : u.ntcGone n = true ∨ u.ntcOdd n = true ∧ ticksPerS ≤ held) : execThmSensorBroken t n held s = .next (u.breakNtc n) := by
  simp [execThmSensorBroken, now, up, whole, gone]

theorem execThmDieSensor_silent (fresh : u.thm.dieFault = false) (silent : max u.thm.dieAt u.pwr.battenBase + 10 * ticksPerMs ≤ u.now) :
    execThmDieSensor t s =
      .next ((({ u with thm := { u.thm with dieFault := true } }.raise Flt.THM_DIE_SENSOR {}).throttle).endInhibit) := by
  simp [execThmDieSensor, now, up, fresh, State.elapsed_of_le silent]

theorem execThmOvertemp_hot {n : Fin 64} {held st : Nat} (stage : u.chStage n = some st)
    (hot : u.tjLim st + (u.getF (F.THM_STG_LIM_OT_K st) : Rat) ≤ u.getQ (F.THM_TJ n)) (long : 10 * ticksPerMs ≤ held) (fresh : bitAt u.thm.overDone n = false) :
    execThmOvertemp t n held s = .next ((({ u with thm := { u.thm with overDone := setBitN u.thm.overDone n true } }).event F.THM_EVT_OVERTEMP).raise
      Flt.THM_OVERTEMP { stages := if st ≤ 1 then 3 else 2 ^ st, item := n }) := by
  simp only [execThmOvertemp, now, stage, up, hot, long, fresh, decide_true, Bool.not_false, Bool.and_self, if_true]

theorem execThmNtcOver_hot {n : Fin 6} {held : Nat} (whole : u.ntcBroken n = false) (seen : (u.ntc n).seen = true) (valid : (u.ntc n).missing = false)
    (hot : (u.getF F.THM_NTCCFG_NTCMAX : Rat) < (u.ntc n).last) (long : 100 * ticksPerMs ≤ held) (fresh : bitAt u.thm.ntcDone n = false) :
    execThmNtcOver t n held s = .next ((({ u with thm := { u.thm with ntcDone := setBitN u.thm.ntcDone n true } }).event F.THM_EVT_OVERTEMP).raise
      Flt.THM_NTC_OVER { stages := maskOf (u.usedStages.filter fun st => u.getF (F.THM_STG_LIM_REFNTC st) == n.val), item := n }) := by
  simp only [execThmNtcOver, now, up, whole, seen, valid, hot, long, fresh, decide_true, Bool.not_false, Bool.and_self, if_true]

theorem execThmModelLost_silent (fresh : u.thm.lost = false)
    (silent : u.getB (F.LE_MODE_HALTED 11) = true ∨ max u.thm.slotAt u.pwr.battenBase + 20 * ticksPerMs ≤ u.now) :
    execThmModelLost t s = .next u.modelLost := by
  simp [execThmModelLost, now, up, fresh, State.elapsed, silent]

theorem execWearSave_due (due : u.thm.runEnded = true ∨ u.thm.dirty ≠ [] ∧ u.thm.saveAt + 10 * ticksPerS ≤ u.now) :
    execWearSave t s = .next u.wearSaves := by
  simp [execWearSave, now, up, State.elapsed, due]

end

/-- Settles O41: each clause is the equation of its case of its event. -/
theorem thermalEventsComplete : Obligations.ThermalEventsComplete :=
  ⟨fun _ _ _ _ now up => execLossWindowEnd_ended now up,
    fun _ _ _ _ now since up => execThrottleEnd_cool now up since,
    fun _ _ _ _ now since up => execMramInhibitEnd_cool now up since,
    fun _ _ _ _ _ now up => execThmSensorBroken_gone now up,
    fun _ _ _ => execThmDieSensor_silent,
    fun _ _ _ _ _ _ now stage up => execThmOvertemp_hot now up stage,
    fun _ _ _ _ _ now up => execThmNtcOver_hot now up,
    fun _ _ _ => execThmModelLost_silent,
    fun _ _ _ => execWearSave_due,
    fun _ _ _ _ now runs => execTlmStreamFrame_whole now runs⟩

end Sys2Proof.Machine
end

section
/-! Fields of a register word and the event registers (R106, R108, R110 to R112): a field written leaves every other field of its word alone, an event sets its bit and counts in SEQ, and a clear leaves what still stands. -/

namespace Sys2Proof.Machine
open Sys2Proof

theorem testBit_bitsOf (w hi lo i : Nat) : (bitsOf w hi lo).testBit i = (decide (i < hi + 1 - lo) && w.testBit (lo + i)) := by
  rw [bitsOf, Nat.testBit_mod_two_pow, Nat.testBit_div_two_pow, Nat.add_comm i]

/-- A replaced field changes the bits of the field alone. -/
theorem Fld.testBit_into {f : Fld} (h : f.hi < 32) (l : f.lo ≤ f.hi) (w : Word) (v i : Nat) :
    (f.into w v).toNat.testBit i = if f.lo ≤ i ∧ i ≤ f.hi then v.testBit (i - f.lo) else w.toNat.testBit i := by
  obtain ⟨k, hk⟩ : ∃ k, f.hi + 1 = k + f.lo := ⟨f.hi + 1 - f.lo, by omega⟩
  have split : w.toNat / 2 ^ (f.hi + 1) * 2 ^ (f.hi + 1) + v % 2 ^ (f.hi + 1 - f.lo) * 2 ^ f.lo + w.toNat % 2 ^ f.lo =
      2 ^ f.lo * (2 ^ k * (w.toNat / 2 ^ (f.hi + 1)) + v % 2 ^ k) + w.toNat % 2 ^ f.lo := by
    rw [hk, Nat.add_sub_cancel, Nat.pow_add]; ring
  simp only [Fld.into]
  rw [BitVec.toNat_ofNat, Nat.mod_eq_of_lt (Fld.into_lt h l w.toNat v w.isLt), split, Nat.testBit_two_pow_mul_add _ (Nat.mod_lt _ (Nat.two_pow_pos _)),
    Nat.testBit_two_pow_mul_add _ (Nat.mod_lt _ (Nat.two_pow_pos _)), Nat.testBit_mod_two_pow, Nat.testBit_mod_two_pow, Nat.testBit_div_two_pow]
  by_cases below : i < f.lo
  · simp [below, Nat.not_le.2 below]
  · by_cases above : f.hi < i
    · have : i - f.lo - k + (f.hi + 1) = i := by omega
      simp [below, Nat.not_le.2 above, show ¬ i - f.lo < k by omega, this]
    · simp [Nat.not_lt.1 below, Nat.not_lt.1 above, below, show i - f.lo < k by omega]

/-- A replaced field leaves every other field of the word alone. -/
theorem Fld.of_into_apart {f g : Fld} (h : f.hi < 32) (l : f.lo ≤ f.hi) (apart : g.hi < f.lo ∨ f.hi < g.lo) (w : Word) (v : Nat) :
    g.of (f.into w v) = g.of w := by
  apply Nat.eq_of_testBit_eq
  intro i
  simp only [Fld.of, testBit_bitsOf, Fld.testBit_into h l]
  by_cases inside : i < g.hi + 1 - g.lo
  · rw [if_neg (by omega)]
  · simp [inside]

theorem Fld.of_lt (f : Fld) (w : Word) : f.of w < 2 ^ (f.hi + 1 - f.lo) := Nat.mod_lt _ (Nat.two_pow_pos _)

/-- A field of the word 0 is 0. -/
theorem Fld.of_zero (f : Fld) : f.of 0 = 0 := by simp [Fld.of, bitsOf]

/-- SEQ written reads modulo 256 (R110). -/
theorem Fld.of_into_seq (a : Nat) (w : Word) (v : Nat) : (⟨a, 31, 24⟩ : Fld).of ((⟨a, 31, 24⟩ : Fld).into w v) = v % 256 :=
  Fld.of_into (show 31 < 32 by decide) (show 24 ≤ 31 by decide) w v

/-- SEQ written leaves every event bit alone (R110). -/
theorem Fld.of_bit_into_seq {a n : Nat} (bit : n < 24) (w : Word) (v : Nat) :
    (⟨a, n, n⟩ : Fld).of ((⟨a, 31, 24⟩ : Fld).into w v) = (⟨a, n, n⟩ : Fld).of w :=
  Fld.of_into_apart (show 31 < 32 by decide) (show 24 ≤ 31 by decide) (.inl bit) w v

section
variable {s : State} (canonical : RegsCanonical s.regs) {a n : Nat} (bit : n < 24)

theorem State.canonical_event {f : Fld} (h : RegsCanonical s.regs) : RegsCanonical (s.event f).regs := State.canonical_setW h _ _

include canonical

theorem State.getW_event_ne {f : Fld} {b : Nat} (other : b ≠ f.addr) : (s.event f).getW b = s.getW b := State.getW_setW_ne canonical other _

/-- An event increments SEQ modulo 256 (R110). -/
theorem State.getF_event_seq : (s.event ⟨a, n, n⟩).getF ⟨a, 31, 24⟩ = (s.getF ⟨a, 31, 24⟩ + 1) % 256 := by
  rw [State.getF, State.event, State.getW_setW_same canonical, Fld.of_into_seq, State.getF]

include bit

/-- An event sets its bit (R110). -/
theorem State.getF_event_same : (s.event ⟨a, n, n⟩).getF ⟨a, n, n⟩ = 1 := by
  have width : n < 32 := by omega
  rw [State.getF, State.event, State.getW_setW_same canonical, Fld.of_bit_into_seq bit, Fld.of_into width (Nat.le_refl n)]
  simp

/-- An event leaves the other event bits of its word alone (R110). -/
theorem State.getF_event_apart {m : Nat} (below : m < 24) (other : m ≠ n) : (s.event ⟨a, n, n⟩).getF ⟨a, m, m⟩ = s.getF ⟨a, m, m⟩ := by
  have width : n < 32 := by omega
  rw [State.getF, State.event, State.getW_setW_same canonical, Fld.of_bit_into_seq below,
    Fld.of_into_apart width (Nat.le_refl n) (Nat.lt_or_gt_of_ne other), State.getF]

end

/-- In the register map a word with an event field holds event fields below bit 24 and SEQ alone (R110). -/
theorem rcsRows_fields : ∀ r ∈ (List.range 15).flatMap blockRegs, (r.fields.any fun f => f.acc == .rcs) = true →
    (∃ f ∈ r.fields, f.hi = 31 ∧ f.lo = 24) ∧ ∀ f ∈ r.fields, f.acc = .rcs ∧ (f.hi < 24 ∨ (f.hi = 31 ∧ f.lo = 24)) := by decide +kernel

/-- Settles O49: the map by its rows, an event by the fields that its two writes touch. -/
theorem eventRegisters : Obligations.EventRegisters :=
  ⟨rcsRows_fields, fun _ _ _ sound bit =>
    ⟨State.getF_event_same sound.regs bit, State.getF_event_seq sound.regs, fun _ => State.getF_event_apart sound.regs bit,
      fun _ other => State.getW_event_ne sound.regs other, rfl⟩⟩

/-- Events of one word in a row set the bits listed, count each in SEQ, and leave every other word alone (R110). -/
structure State.AfterEvents (s : State) (a : Nat) (l : List Nat) (t : State) : Prop where
  canonical : RegsCanonical t.regs
  bits : ∀ n, n < 24 → t.getF ⟨a, n, n⟩ = if n ∈ l then 1 else s.getF ⟨a, n, n⟩
  seq : t.getF ⟨a, 31, 24⟩ = (s.getF ⟨a, 31, 24⟩ + l.length) % 256
  others : ∀ b, b ≠ a → t.getW b = s.getW b

theorem State.afterEvents_foldl {a : Nat} {l : List Nat} (bits : ∀ n ∈ l, n < 24) {s : State} (canonical : RegsCanonical s.regs) :
    s.AfterEvents a l (l.foldl (fun x n => x.event ⟨a, n, n⟩) s) := by
  induction l generalizing s with
  | nil => exact ⟨canonical, fun _ _ => rfl, (Nat.mod_eq_of_lt (Fld.of_lt _ _)).symm, fun _ _ => rfl⟩
  | cons k l ih =>
    have bit : k < 24 := bits k List.mem_cons_self
    obtain ⟨canonical', bits', seq', others'⟩ := ih (fun n h => bits n (List.mem_cons_of_mem k h)) (State.canonical_event (f := ⟨a, k, k⟩) canonical)
    refine ⟨canonical', fun n below => ?_, ?_, fun b other => (others' b other).trans (State.getW_event_ne canonical other)⟩
    · rw [List.foldl_cons, bits' n below]
      by_cases same : n = k
      · subst same; simp [State.getF_event_same canonical bit]
      · simp [same, State.getF_event_apart canonical bit below same]
    · rw [List.foldl_cons, seq', State.getF_event_seq canonical, Nat.mod_add_mod, List.length_cons, Nat.add_assoc, Nat.add_comm 1]

/-- Every number listed is an event bit. -/
def EventBits (l : List Nat) : Prop := ∀ n ∈ l, n < 24

theorem EventBits.nil : EventBits [] := fun _ h => absurd h List.not_mem_nil

theorem EventBits.one {n : Nat} (bit : n < 24) : EventBits [n] := fun _ h => List.mem_singleton.1 h ▸ bit

theorem EventBits.append {l m : List Nat} (hl : EventBits l) (hm : EventBits m) : EventBits (l ++ m) :=
  fun n h => (List.mem_append.1 h).elim (hl n) (hm n)

theorem EventBits.ite {c : Prop} [Decidable c] {l m : List Nat} (hl : EventBits l) (hm : EventBits m) : EventBits (if c then l else m) := by
  split <;> assumption

theorem EventBits.below {k : Nat} {p : Nat → Bool} (bits : k ≤ 24) : EventBits (below k p) :=
  fun _ h => Nat.lt_of_lt_of_le (List.mem_range.1 (List.mem_filter.1 h).1) bits

/-- The causes that stand are event bits of their register (R111). -/
theorem State.standing_eventBits (s : State) (a : Nat) : EventBits (s.standing a) := by
  have flag : ∀ {c : Prop} [Decidable c] {n : Nat}, n < 24 → EventBits (if c then [] else [n]) := fun bit => .ite .nil (.one bit)
  have shown : ∀ {c : Prop} [Decidable c] {n : Nat}, n < 24 → EventBits (if c then [n] else []) := fun bit => .ite (.one bit) .nil
  have wakes : EventBits (s.activeWakes.filter fun n => n == 0 || n == 2) := fun n h =>
    EventBits.below (k := 6) (by decide) n (List.mem_filter.1 h).1
  have buffers : EventBits ((below 4 fun g => vget s.gz.refBad g false).map fun g => 8 + g) := fun n h => by
    obtain ⟨g, group, rfl⟩ := List.mem_map.1 h
    have four : g < 4 := List.mem_range.1 (List.mem_filter.1 group).1
    show 8 + g < 24
    omega
  unfold State.standing
  refine .ite (.below (by decide)) (.ite (.append (.below (by decide)) buffers) (.ite ?_ (.ite ?_ (.ite ?_ (.ite ?_ (.ite wakes (.ite ?_ (.ite ?_ ?_))))))))
  · exact (((((flag (by decide)).append (flag (by decide))).append (shown (by decide))).append (flag (by decide))).append (shown (by decide))).append
      (shown (by decide))
  · exact (shown (by decide)).append (shown (by decide))
  · exact ((((flag (by decide)).append (flag (by decide))).append (flag (by decide))).append (shown (by decide))).append (shown (by decide))
  · exact (shown (by decide)).append (flag (by decide))
  · exact flag (by decide)
  · exact flag (by decide)
  · split
    · exact shown (by decide)
    · exact shown (by decide)
    · exact .nil

/-- The mask of a write covers SEQ where it holds bits 31 to 24 (R108). -/
theorem land_seqMask_iff (mask : Nat) : Nat.land mask 0xFF000000 = 0xFF000000 ↔ bitsOf mask 31 24 = 255 := by
  have seq : Nat.land mask 0xFF000000 = bitsOf mask 31 24 * 2 ^ 24 := by
    apply Nat.eq_of_testBit_eq
    intro i
    have width : (0xFF000000 : Nat) = (2 ^ 8 - 1) * 2 ^ 24 := by decide
    show (mask &&& 0xFF000000).testBit i = _
    rw [Nat.testBit_and, width, Nat.testBit_mul_two_pow, Nat.testBit_mul_two_pow, testBit_bitsOf, Nat.testBit_two_pow_sub_one]
    by_cases inside : 24 ≤ i
    · simp [inside, Bool.and_comm]
    · simp [inside]
  rw [seq]
  omega

/-- A clear leaves the bits whose causes stand, set again, and SEQ counts them (R111, R112). -/
theorem State.afterEvents_clearEvents {s : State} (canonical : RegsCanonical s.regs) (a : Nat) :
    (s.setW a ((⟨a, 31, 24⟩ : Fld).into 0 (s.getF ⟨a, 31, 24⟩))).AfterEvents a (s.standing a) (s.clearEvents a) :=
  State.afterEvents_foldl (s.standing_eventBits a) (State.canonical_setW canonical _ _)

/-- Settles O50: the first two tests of `rcsWrite`, then what a clear leaves over the word that holds SEQ alone. -/
theorem eventClearRule : Obligations.EventClearRule := by
  unfold Obligations.EventClearRule
  intro s a mask value sound
  refine ⟨fun uncovered => ?_, fun covered stale => ?_, fun covered current => ?_⟩
  · rw [State.rcsWrite, if_pos (mt (land_seqMask_iff mask).1 uncovered)]
  · rw [State.rcsWrite, if_neg (not_not.2 ((land_seqMask_iff mask).2 covered)), if_pos stale]
  · rw [State.rcsWrite, if_neg (not_not.2 ((land_seqMask_iff mask).2 covered)), if_neg (not_not.2 current)]
    obtain ⟨-, bits, seq, others⟩ := State.afterEvents_clearEvents sound.regs a
    refine ⟨rfl, fun n below => (bits n below).trans ?_, seq.trans ?_, fun b other => (others b other).trans (State.getW_setW_ne sound.regs other _)⟩
    · rw [State.getF, State.getW_setW_same sound.regs, Fld.of_bit_into_seq below, Fld.of_zero]
    · rw [State.getF, State.getW_setW_same sound.regs, Fld.of_into_seq]
      exact Nat.mod_add_mod _ _ _

end Sys2Proof.Machine
end

section
/-! The register, mailbox, hold and lock requests, and the register write events (R103 to R120): how each ends, once the checks of R81 and R82 have served it as `u` or `u` is the state at the event. -/

namespace Sys2Proof.Machine
open Sys2Proof

section
variable {r : Req} {s u v : State}

theorem execRegRead_assigned (served : admitOp { code := 0x0100, lens := [4] } r s = .served u) (aligned : r.num 0 4 % 4 = 0) (low : r.num 0 4 ≤ 0xEFFFF)
    (assigned : (findReg (r.num 0 4)).isSome = true) :
    execRegRead r s = .next ((u.readsMbx r.session (r.num 0 4) 1).answer (r.ticket 0x0100) stOK (beBytes 4 (u.regRead (r.num 0 4)).toNat)) :=
  serveOp_done served (if_neg (by simp [aligned, Nat.not_lt.2 low, Option.isSome_iff_ne_none.1 assigned]))

theorem execRegReadBlock_inside (served : admitOp { code := 0x0102, lens := [6] } r s = .served u) (aligned : r.num 0 4 % 4 = 0) (low : r.num 0 4 ≤ 0xEFFFF)
    (nonempty : 1 ≤ r.num 4 2) (most : r.num 4 2 ≤ 256) (block : (r.num 0 4 + 4 * r.num 4 2 - 1) / 65536 = r.num 0 4 / 65536) (fits : r.fits (4 * r.num 4 2) = true) :
    execRegReadBlock r s = .next ((u.readsMbx r.session (r.num 0 4) (r.num 4 2)).answer (r.ticket 0x0102) stOK
      ((List.range (r.num 4 2)).flatMap fun i => beBytes 4 (u.regRead (r.num 0 4 + 4 * i)).toNat)) :=
  serveOp_done served (if_neg (by simp [aligned, Nat.not_lt.2 low, Nat.ne_of_gt nonempty, Nat.not_lt.2 most, block, fits]))

/-- REG_WRITE answers the status of its write on the state the write leaves (R108). -/
theorem execRegWrite_written {st : Nat}
    (served : admitOp { code := 0x0101, level := if 4 ≤ r.params.length then writeLevel (r.num 0 4) else 1, lens := [12] } r s = .served u)
    (written : u.regWrite .host r.session (r.num 0 4) (r.num 8 4) (r.num 4 4) = (st, v)) :
    execRegWrite r s = .next (v.answer (r.ticket 0x0101) st []) :=
  serveOp_done served (by simp only [written])

theorem execGzConfig_written (served : admitOp { code := 0x0800, level := 2, lens := [5] } r s = .served u) (channel : r.num 0 1 < 72)
    (sound : gzCfgOk (r.num 0 1) (r.num 1 4) = true)
    (written : u.regWrite .host r.session (F.GZ_CH_CFG_MODE (r.num 0 1)).addr 0xFFFFFFFF (r.num 1 4) = (stOK, v)) :
    execGzConfig r s = .next (v.answer (r.ticket 0x0800) stOK []) :=
  serveOp_done served (by
    rw [if_neg (by simp [Nat.not_le.2 channel, sound])]
    simp only [written])

section
variable (served : admitOp { code := 0x0103, level := if r.params.length = 2 ∧ (mbxQuantity (r.num 0 2)).isSome then 2 else 1, lens := [2] } r s = .served u)
  (free : u.mbxBusy r.session = false)
include served free

theorem execMbxSnapshot_words {ws : List Nat} (words : u.mbxValue (r.num 0 2) = some ws) :
    execMbxSnapshot r s = .next ((u.mbxStore r.session (r.num 0 2) ws).answer (r.ticket 0x0103) stOK []) :=
  serveOp_done served (by simp only [words, free]; rfl)

theorem execMbxSnapshot_quantity {st q : Nat} (noWords : u.mbxValue (r.num 0 2) = none) (quantity : mbxQuantity (r.num 0 2) = some (st, q))
    (coded : (u.quantityCodes st).contains q = true) (serves : u.tlmServed st = true) : execMbxSnapshot r s =
      .next (((u.tlmTriple st q).2.mbxStore r.session (r.num 0 2) (u.tlmTriple st q).1).answer (r.ticket 0x0103) stOK []) :=
  serveOp_done served (by simp only [noWords, quantity, coded, serves, free]; rfl)

end

theorem execApplyHold_opens (served : admitOp { code := 0x0104 } r s = .served u) (closed : u.com.hold = none) :
    execApplyHold r s =
      .next ((({ u with com := { u.com with hold := some ⟨r.session, u.now⟩ } }).setF F.SYS_APPLY_HOLD 1).answer (r.ticket 0x0104) stOK []) :=
  serveOp_done served (by simp only [closed]; rfl)

/-- A hold that is open stays as it is, whoever asks for it (R117). -/
theorem execApplyHold_open {h : Hold} (served : admitOp { code := 0x0104 } r s = .served u) (hold : u.com.hold = some h) :
    execApplyHold r s = .next (u.answer (r.ticket 0x0104) (if h.session = r.session then stOK else stBusy) []) := by
  by_cases own : h.session = r.session
  · rw [if_pos own]
    exact serveOp_done served (by simp only [hold, own]; rfl)
  · rw [if_neg own]
    exact serveOp_done served (by simp only [hold, own]; rfl)

theorem execApplyRelease_own {h : Hold} (served : admitOp { code := 0x0105 } r s = .served u) (hold : u.com.hold = some h) (own : h.session = r.session) :
    execApplyRelease r s = .next (u.releaseHold.settle.answer (r.ticket 0x0105) stOK []) :=
  serveOp_done served (by simp only [hold, own]; rfl)

theorem execLock_served (served : admitOp { code := 0x0106 } r s = .served u) :
    execLock r s = .next ((u.setF F.SYS_LOCK_LOCK 1).answer (r.ticket 0x0106) stOK []) :=
  serveOp_done served rfl

end

/-- Settles O10: each clause is the equation of its request, served within its conditions. -/
theorem registerRequestsComplete : Obligations.RegisterRequestsComplete := fun _ _ _ =>
  ⟨execRegRead_assigned, execRegReadBlock_inside, fun _ => execRegWrite_written, fun _ => execGzConfig_written,
    fun _ served words free => execMbxSnapshot_words served free words,
    fun _ _ served noWords quantity coded serves free => execMbxSnapshot_quantity served free noWords quantity coded serves,
    execApplyHold_opens, fun _ => execApplyRelease_own, execLock_served⟩

/-- Settles O58: an open hold is not opened again, and its owner decides the status. -/
theorem secondHoldRefused : Obligations.SecondHoldRefused := fun _ _ _ _ => execApplyHold_open

/-- A write to the RDG_ block is a write to the mirror (R120). -/
theorem State.regWrite_mirror {u : State} {w : Writer} {session : Word} {addr mask value : Nat} (ridge : addr / 65536 = 0xD) :
    u.regWrite w session addr mask value = (stLocked, u.mirrorWrite w addr) := if_pos ridge

section
variable {t : Nat} {s u : State} (now : s.advance t = u)
include now

/-- A write event at an address its row is about, while the main die runs, leaves the state of its write (R106). -/
theorem writeEvent_written {p : State → Bool} {w : Writer} {session : Word} {addr mask value : Nat} (up : u.mainUp = true) (about : p u = true) :
    writeEvent t p w session addr mask value s = .next (u.regWrite w session addr mask value).2 := by
  simp [writeEvent, now, up, about]

section
variable {w : Writer} {addr value mask : Word} (up : u.mainUp = true)
include up

theorem execRegisterWrite_written : execRegisterWrite t w addr value mask s = .next (u.regWrite w 0 addr.toNat mask.toNat value.toNat).2 :=
  writeEvent_written now up rfl

theorem execEventClear_written (rcs : isRcs addr.toNat = true) :
    execEventClear t w addr value mask s = .next (u.regWrite w 0 addr.toNat mask.toNat value.toNat).2 := writeEvent_written now up rcs

theorem execMirrorWrite_refused (ridge : addr.toNat / 65536 = 0xD) :
    execMirrorWrite t w addr value mask s = .next (u.mirrorWrite w addr.toNat) :=
  (writeEvent_written (p := fun _ => addr.toNat / 65536 == 0xD) now up (beq_iff_eq.2 ridge)).trans (by rw [State.regWrite_mirror ridge])

theorem execCarrierRun_written {n : Fin 16} : execCarrierRun t w n s = .next (u.regWrite w 0 (F.PWM_CAR_CTRL_RUN n).addr 1 1).2 :=
  writeEvent_written now up rfl

theorem execCarrierStop_written {n : Fin 16} : execCarrierStop t w n s = .next (u.regWrite w 0 (F.PWM_CAR_CTRL_RUN n).addr 1 0).2 :=
  writeEvent_written now up rfl

theorem execGzCfgWrite_written {n : Fin 72} :
    execGzCfgWrite t w n value mask s = .next (u.regWrite w 0 (F.GZ_CH_CFG_MODE n).addr mask.toNat value.toNat).2 := writeEvent_written now up rfl

theorem execSltLimitWrite_written (limit : isLimit addr.toNat = true) :
    execSltLimitWrite t w addr value mask s = .next (u.regWrite w 0 addr.toNat mask.toNat value.toNat).2 := writeEvent_written now up limit

theorem execWearResetWrite_written :
    execWearResetWrite t w value mask s = .next (u.regWrite w 0 F.THM_WEAR_RESET_STAGES.addr mask.toNat value.toNat).2 := writeEvent_written now up rfl

/-- IDN_DEBUG is written from a FACTORY session (R474). -/
theorem execDebugUnlockWrite_factory {id : Word} {x : Session} (session : u.session id = some x) (factory : 3 ≤ x.level) :
    execDebugUnlockWrite t id value mask s = .next (u.regWrite .host id F.IDN_DEBUG_UNLOCK.addr mask.toNat value.toNat).2 :=
  writeEvent_written now up (by simp only [session, factory, decide_true])

end

theorem execMbxLastWordRead_owner {session : Word} (owner : u.com.mbxOwner = some session) (valid : u.getB F.SYS_MBX_CTRL_VALID = true) :
    execMbxLastWordRead t session s = .next (u.setF F.SYS_MBX_CTRL_VALID 0) := by
  simp [execMbxLastWordRead, now, State.mbxRead, owner, valid]

theorem execMbxExpiry_passed (passed : u.com.mbxAt + 100 * ticksPerMs ≤ u.now) (valid : u.getB F.SYS_MBX_CTRL_VALID = true) :
    execMbxExpiry t s = .next ((u.setF F.SYS_MBX_CTRL_VALID 0).setF F.SYS_MBX_CTRL_EXPIRED 1) := by
  simp [execMbxExpiry, now, State.elapsed_of_le passed, State.mbxLapse, valid]

theorem execHoldExpired_passed {h : Hold} (hold : u.com.hold = some h) (passed : h.since + 100 * ticksPerMs ≤ u.now) :
    execHoldExpired t s = .next u.discardHold := by
  simp [execHoldExpired, now, hold, State.elapsed_of_le passed]

end

/-- Settles O11: every write event is one write, at the address of its row; the mailbox and hold events by their own equations. -/
theorem registerEventsComplete : Obligations.RegisterEventsComplete :=
  ⟨fun _ _ _ _ _ _ _ _ _ now up =>
      ⟨execRegisterWrite_written now up, execEventClear_written now up, execMirrorWrite_refused now up, execCarrierRun_written now up,
        execCarrierStop_written now up, execGzCfgWrite_written now up, execSltLimitWrite_written now up, execWearResetWrite_written now up⟩,
    fun _ _ _ _ _ _ _ now up => execDebugUnlockWrite_factory now up,
    fun _ _ _ _ now => execMbxLastWordRead_owner now,
    fun _ _ _ now => execMbxExpiry_passed now,
    fun _ _ _ _ now => execHoldExpired_passed now⟩

end Sys2Proof.Machine
end

section
/-! A refused write is recorded and nothing more: the frame of the log and of the register words (R119, R384, R414), and what a REG_WRITE into the mirror leaves (R120). -/

namespace Sys2Proof.Machine
open Sys2Proof

/-- Only register words, their increments and the fault log may have changed. -/
def LogFrame (z t : State) : Prop := t = { z with regs := t.regs, incs := t.incs, log := t.log }

theorem LogFrame.trans {a b c : State} (h : LogFrame a b) (g : LogFrame b c) : LogFrame a c := by
  unfold LogFrame at *
  rw [g, h]

theorem LogFrame.wit {z t : State} (h : LogFrame z t) : t.wit = z.wit := by rw [h]

theorem LogFrame.rdg {z t : State} (h : LogFrame z t) : t.rdg = z.rdg := by rw [h]

section
variable {s : State}

theorem LogFrame.setF {f : Fld} {v : Nat} : LogFrame s (s.setF f v) := rfl

theorem LogFrame.event {f : Fld} : LogFrame s (s.event f) := rfl

theorem LogFrame.bump {f : Fld} : LogFrame s (s.bump f) := rfl

theorem State.mramPut_frame {i : MramItem} {urgent : Bool} : LogFrame s (s.mramPut i urgent).2 := by
  unfold State.mramPut
  split
  · rfl
  · extract_lets queue used shorter
    split
    · rfl
    · split <;> rfl

theorem State.logLost_frame : LogFrame s s.logLost := by
  have counted : LogFrame s ((s.bump F.THM_CNT_LOGLOST).event F.THM_EVT_LOGLOST) := LogFrame.bump.trans .event
  unfold State.logLost
  dsimp only
  split
  · exact counted
  · split
    · exact counted.trans (State.mramPut_frame.trans rfl)
    · exact counted.trans rfl

/-- A record changes the log and the registers that show it (R384, R414). -/
theorem State.logPut_frame {r : FaultRec} : LogFrame s (s.logPut r) := by
  unfold State.logPut
  dsimp only
  split
  · rfl
  · split
    · exact State.mramPut_frame.trans rfl
    · refine .trans ?_ State.logLost_frame
      rfl

theorem State.eaveFault_frame {k : FaultKind} {i : FaultInfo} : LogFrame s (s.eaveFault k i) := by
  unfold State.eaveFault; split <;> rfl

/-- A fault of class D without a stage is recorded and nothing more (Table 15.5). -/
theorem State.raise_classD_frame {k : FaultKind} {i : FaultInfo} (classD : k.cls = 4) (noStage : i.stages = 0) : LogFrame s (s.raise k i) := by
  have noted : (s.noteLast k i.stages).noteCharger k i.stages = s := by
    rw [noStage, State.noteCharger, classD, if_neg (by simp)]
    rfl
  rw [State.raise]
  split
  · exact State.eaveFault_frame
  · dsimp only
    rw [noted, classD, if_neg (by decide), if_neg (by decide), if_neg (by simp [stopsAux])]
    exact State.logPut_frame

/-- Where it is rate-limited, it may merge into the record before instead (Table 15.7). -/
theorem State.raiseRate_classD_frame {k : FaultKind} {i : FaultInfo} {key span : Nat} (classD : k.cls = 4) (noStage : i.stages = 0) :
    LogFrame s (s.raiseRate k i key span) := by
  have merged : ∀ t, s.mergeRate k key span = some t → LogFrame s t := by
    intro t h
    unfold State.mergeRate at h
    split at h
    · split at h
      · cases h; rfl
      · cases h
    · cases h
  unfold State.raiseRate
  split
  · exact merged _ ‹_›
  · exact (State.raise_classD_frame classD noStage).trans rfl

/-- A refused write is counted, shown and recorded (R119). -/
theorem State.lockRefused_frame {w : Writer} {addr : Nat} {ev : Fld} : LogFrame s (s.lockRefused w addr ev) := by
  unfold State.lockRefused
  exact ((((LogFrame.bump.trans .setF).trans .setF).trans .setF).trans .event).trans (State.raiseRate_classD_frame rfl rfl)

/-- A write to the mirror is refused like any other, and notes an event more (R120). -/
theorem State.mirrorRefused_frame {w : Writer} {addr : Nat} :
    LogFrame s ((s.lockRefused w addr F.SYS_WRSTAT_LOCKED_W).event F.SYS_WRSTAT_MIRROR_W) := State.lockRefused_frame.trans .event

/-- A write to the mirror leaves the Ridge alone (R120). -/
theorem State.mirrorWrite_rdg {w : Writer} {addr : Nat} : (s.mirrorWrite w addr).rdg = s.rdg := by
  have same := (State.mirrorRefused_frame (s := s) (w := w) (addr := addr)).rdg
  exact same

/-- Its notice stands behind those that wait (R120). -/
theorem State.mirrorWrite_notices {w : Writer} {addr : Nat} : (s.mirrorWrite w addr).wit.notices = s.wit.notices ++ [(addr, (writerCode w).1)] := by
  rw [← (State.mirrorRefused_frame (s := s) (w := w) (addr := addr)).wit]
  rfl

/-- MIRROR_W is set (R120). -/
theorem State.mirrorWrite_shown {w : Writer} {addr : Nat} (canonical : RegsCanonical (s.lockRefused w addr F.SYS_WRSTAT_LOCKED_W).regs) :
    (s.mirrorWrite w addr).getF F.SYS_WRSTAT_MIRROR_W = 1 := State.getF_event_same canonical (by decide)

end

/-- A served request stands on a sound state but for its own place in a cache. -/
theorem admitOp_soundUnder {o : Op} {r : Req} {s u : State} (sound : s.Sound) (served : admitOp o r s = .served u) :
    ∃ b : Word → Nat, (∀ i, 16 ≤ b i) ∧ u.SoundUnder b := by
  obtain ⟨-, -, -, kept⟩ := KeepsAdmit.ofServed served (admitOp_keeps (Keeps.refl s))
  exact ⟨_, fun i => by split <;> omega, kept (fun _ => 16) (fun _ => Nat.le_refl 16) (sound.under fun _ => Nat.le_refl 16)⟩

/-- Register words stay in canonical form through a refused write of a served request. -/
theorem State.canonical_lockRefused {b : Word → Nat} {u : State} {w : Writer} {addr : Nat} {ev : Fld} (wide : ∀ i, 16 ≤ b i) (sound : u.SoundUnder b) :
    RegsCanonical (u.lockRefused w addr ev).regs := by
  obtain ⟨-, -, -, kept⟩ := State.lockRefused_keeps (x1 := w) (x2 := addr) (x3 := ev) (Keeps.refl u)
  exact (kept b wide sound).regs

/-- Settles O57: the write is a write to the mirror, whose parts the lemmas above give. -/
theorem mirrorWriteRefused : Obligations.MirrorWriteRefused := by
  unfold Obligations.MirrorWriteRefused
  intro r s u sound served ridge
  obtain ⟨b, wide, soundUnder⟩ := admitOp_soundUnder sound served
  exact ⟨u.mirrorWrite .host (r.num 0 4), execRegWrite_written served (State.regWrite_mirror ridge),
    State.mirrorWrite_shown (State.canonical_lockRefused wide soundUnder), State.mirrorWrite_notices, State.mirrorWrite_rdg⟩

end Sys2Proof.Machine
end

section
/-! The Gauze outputs, overranges, reference buffers, injections and calibrations (R167 to R189): one equation for the case of each event that acts, `u` being the state at the event. -/

namespace Sys2Proof.Machine
open Sys2Proof

section
variable {t : Nat} {n : Fin 72} {s u v : State} (now : s.advance t = u)
include now

theorem execCompOutput_forms {code : Code24} {o : GzOut} (formed : u.compWord n code.toNat = some (v, o)) :
    execCompOutput t n code s = .next ((v.slateComp n o.code).showModes) := by
  simp only [execCompOutput, now, formed]

theorem execFastOutput_forms {x : FastMeas} {o : GzOut} (formed : (u.fastBoundary n).fastWord n x.code.toNat x.samples = (v, some o)) :
    execFastOutput t n x s = .next (v.deliverFast n o) := by
  simp only [execFastOutput, now, formed]

theorem execFastOutput_formsNone {x : FastMeas} (unformed : (u.fastBoundary n).fastWord n x.code.toNat x.samples = (v, none)) :
    execFastOutput t n x s = .next v := by
  simp only [execFastOutput, now, unformed]

theorem execFineOutput_forms {code : Code24} {dev : Vector Int 4} {dieT : Int} {o : GzOut}
    (formed : (u.fineBoundary n).fineWord n code.toNat = (v, some o)) :
    execFineOutput t n code dev dieT s = .next (v.deliverFine n o dev dieT) := by
  simp only [execFineOutput, now, formed]

theorem execSlotConversion_forms {x : SlotConv} {p : GzPath} {o : GzOut} (formed : (u.slotBoundary n).slotWord n x.code.toNat = (v, some (p, o))) :
    execSlotConversion t n x s = .next (v.deliverSlot n p o x.refDev x.dieT) := by
  simp only [execSlotConversion, now, formed]

theorem execOverrange_leaves {up : Bool} (runs : u.gzUp = true) (input : n.val < 64) (mode : u.gzMode n ≠ 0) :
    execOverrange t n up s = .next (u.gzOverrange n up) := by
  simp [execOverrange, now, runs, input, mode]

theorem execOverrangeEnd_returns (runs : u.gzUp = true) (outside : (u.gzCh n).ovrIn = true) :
    execOverrangeEnd t n s =
      .next (u.setGzCh n { u.gzCh n with ovrIn := false, backAt := some u.now, compLeft := 3, fastLeft := 3, fineLeft := 5, avgFrom := u.now + 15360 }) := by
  simp only [execOverrangeEnd, now, runs, outside, Bool.and_self, if_true]

theorem execRefBufferReady_due {group : Fin 4} (runs : u.gzUp = true) (used : u.groupOff group = false) (due : u.refDue group = true) :
    execRefBufferReady t group s = .next (u.refReady group) := by
  simp [execRefBufferReady, now, runs, used, due]

theorem execInjectionDelivered_due {code : Code24} {i : Injection} (waiting : (u.gz.injections.find? fun j => j.ch == n.val) = some i)
    (up : u.mainUp = true) (due : i.due ≤ u.battenTime) : execInjectionDelivered t n code s = .next (u.deliverInjection n code.toNat i) := by
  simp [execInjectionDelivered, now, waiting, up, Nat.not_lt.2 due]

theorem execCalibrationStart_due {c : Calibration} (cal : u.gz.cal = some c) (up : u.mainUp = true) (waiting : c.waiting = true)
    (dated : c.startAt ≠ 0) (due : c.startAt ≤ u.battenTime) : execCalibrationStart t s = .next (u.beginCal c) := by
  simp [execCalibrationStart, now, cal, up, waiting, dated, due]

theorem execCalibrationDone_due {results : List (Nat × Int × Int)} {c : Calibration} (cal : u.gz.cal = some c) (up : u.mainUp = true)
    (begun : c.waiting = false) (passed : c.startAt + 15073280 ≤ u.now) : execCalibrationDone t results s = .next (u.endCal c results) := by
  simp [execCalibrationDone, now, cal, up, begun, State.elapsed_of_le passed]

end

/-- Settles O33: each clause is the equation of its case of its event. -/
theorem gauzeEventsComplete : Obligations.GauzeEventsComplete :=
  ⟨fun _ _ _ _ _ _ _ now => execCompOutput_forms now,
    fun _ _ _ _ _ _ _ now => execFastOutput_forms now,
    fun _ _ _ _ _ _ now => execFastOutput_formsNone now,
    fun _ _ _ _ _ _ _ _ _ now => execFineOutput_forms now,
    fun _ _ _ _ _ _ _ _ now => execSlotConversion_forms now,
    fun _ _ _ _ _ now => execOverrange_leaves now,
    fun _ _ _ _ now => execOverrangeEnd_returns now,
    fun _ _ _ _ now => execRefBufferReady_due now,
    fun _ _ _ _ _ _ now => execInjectionDelivered_due now,
    fun _ _ _ _ now => execCalibrationStart_due now,
    fun _ _ _ _ _ now => execCalibrationDone_due now⟩

end Sys2Proof.Machine
end

section
/-! The witness frames, the supervision of the witness, the forwarded queries, RLINK frames and the mirror (R120, R431, R433, R434, R447 to R449, R464, R467): one equation for the case of each event that acts, `u` being the state at the event. -/

namespace Sys2Proof.Machine
open Sys2Proof

section
variable {type : Nat} {payload : List Byte} {handle : Bool → State → State} {u : State}

/-- A frame that arrives intact while QP runs is handled as the Ridge has received it (R434). -/
theorem witnessFrame_handled (on : u.qpOn = true) : witnessFrame type payload true handle u =
    handle ((u.sendWitness type payload).2.gotWitness type (u.sendWitness type payload).1).1
      ((u.sendWitness type payload).2.gotWitness type (u.sendWitness type payload).1).2 := by
  have still : (u.sendWitness type payload).2.qpOn = true := on
  simp [witnessFrame, still]

/-- A damaged frame counts as a reject while QP runs (R431). -/
theorem witnessFrame_damaged (on : u.qpOn = true) : witnessFrame type payload false handle u = (u.sendWitness type payload).2.rdgReject := by
  have still : (u.sendWitness type payload).2.qpOn = true := on
  simp [witnessFrame, still]

/-- A frame is sent into the void while QP does not run (R434). -/
theorem witnessFrame_unheard {intact : Bool} (off : u.qpOn = false) : witnessFrame type payload intact handle u = (u.sendWitness type payload).2 := by
  have still : (u.sendWitness type payload).2.qpOn = false := off
  simp [witnessFrame, still]

end

section
variable {t : Nat} {s u : State} (now : s.advance t = u)
include now

theorem execWitnessHeartbeat_due {intact : Bool} (due : u.witnessDue 0 = true) : execWitnessHeartbeat t intact s =
    .next (witnessFrame 0 (beBytes 1 u.power ++ [0#8]) intact
      (fun _ v => v.setR { v.rdg with hbPower := u.power, hbAt := if v.rdg.hbAt.isNone then some u.now else v.rdg.hbAt }) u) := by
  simp only [execWitnessHeartbeat, now, due]; rfl

theorem execWitnessAngle_due {intact : Bool} (due : u.witnessDue 1 = true) : execWitnessAngle t intact false s =
    .next (witnessFrame 1 (u.takeTurns.2.anglePayload u.takeTurns.1) intact (fun gap v => v.angleArrived gap u.takeTurns.1) u.takeTurns.2) := by
  simp only [execWitnessAngle, now, due]; rfl

theorem execWitnessAngle_lost {intact : Bool} (due : u.witnessDue 1 = true) :
    execWitnessAngle t intact true s = .next (u.takeTurns.2.sendWitness 1 (u.takeTurns.2.anglePayload u.takeTurns.1)).2 := by
  simp only [execWitnessAngle, now, due]; rfl

theorem execWitnessMirrorWrite_waiting {intact : Bool} {a w : Nat} {rest : List (Nat × Nat)} (waiting : u.wit.notices = (a, w) :: rest) :
    execWitnessMirrorWrite t intact s = .next (witnessFrame 3 (beBytes 4 a ++ beBytes 1 w) intact
      (fun _ v => (v.setR { v.rdg with mirrorMerged := v.rdg.mirrorMerged + 1, mirrorAddr := a, mirrorWriter := w }).mirrorRecord)
      { u with wit := { u.wit with notices := rest } }) := by
  simp only [execWitnessMirrorWrite, now, waiting]

theorem execWitnessSleep_asleep {intact : Bool} (asleep : u.power = pSLEEP) (noBoot : u.pwr.boot = none) :
    execWitnessSleep t intact s = .next (u.sleepFrame intact) := by
  simp [execWitnessSleep, now, asleep, noBoot]

theorem execRdgWitnessLost_silent {h : Nat} (beats : u.rdg.hbAt = some h) (on : u.qpOn = true) (fresh : u.rdg.witLost = false)
    (silent : max h u.rdg.angleAt + ticksPerS ≤ u.now) : execRdgWitnessLost t s =
      .next ((u.setR { u.rdg with witLost := true, segLost := true }).rdgEvent 0xC032 false (beBytes 1 u.rdg.hbPower)) := by
  simp [execRdgWitnessLost, now, beats, on, fresh, State.elapsed_of_le silent]

theorem execRidgeReply_inTime {f : Forward} {rest : List Forward} (waiting : u.wit.forwards = f :: rest) (up : u.mainUp = true) (on : u.qpOn = true)
    (inTime : u.now < f.since + 18 * ticksPerMs) : execRidgeReply t s = .next (u.ridgeAnswers f rest) := by
  simp [execRidgeReply, now, waiting, up, on, State.elapsed, inTime]

theorem execRidgeQueryTimeout_passed {f : Forward} {rest : List Forward} (waiting : u.wit.forwards = f :: rest) (up : u.mainUp = true)
    (passed : f.since + 18 * ticksPerMs ≤ u.now) :
    execRidgeQueryTimeout t s = .next ({ u with wit := { u.wit with forwards := rest } }.answer f.ticket stBusy []) := by
  simp only [execRidgeQueryTimeout, now, waiting, up, State.elapsed_of_le passed, and_self, if_true]

section
variable {frame : List Byte} (running : u.qpRunning = true)
include running

/-- The length of an RLINK frame covers its packet, which holds a header and no more than 12,288 bytes (R464). -/
theorem execRlinkFrame_sound (header : 22 ≤ frame.length) (length : beAt frame 0 2 = frame.length - 2) (most : frame.length ≤ 12290) :
    execRlinkFrame t frame s = .next (u.rlinkPacket (beAt (frame.drop 2) 4 2) (parseReq t .spi (frame.drop 2))) := by
  have sound : ¬ (frame.length < 2 ∨ 12288 < beAt frame 0 2 ∨ (frame.drop 2).length ≠ beAt frame 0 2 ∨ beAt frame 0 2 < 20) := by
    rw [List.length_drop]; omega
  simp only [execRlinkFrame, now, running, sound, Bool.not_true, Bool.false_eq_true, if_false]

theorem execRlinkFrame_unsound (unsound : frame.length < 22 ∨ beAt frame 0 2 ≠ frame.length - 2 ∨ 12290 < frame.length) :
    execRlinkFrame t frame s = .next u.rdgReject := by
  have refused : frame.length < 2 ∨ 12288 < beAt frame 0 2 ∨ (frame.drop 2).length ≠ beAt frame 0 2 ∨ beAt frame 0 2 < 20 := by
    rw [List.length_drop]; omega
  simp only [execRlinkFrame, now, running, refused, Bool.not_true, Bool.false_eq_true, if_true, if_false]

end

theorem execMirrorUpdate_running (up : u.mainUp = true) (running : u.qpRunning = true) : execMirrorUpdate t s =
    .next { (u.fillMirror).setB F.PWR_STATE_TIME_INVALID (!u.rdg.timeValid) with
      wit := { ((u.fillMirror).setB F.PWR_STATE_TIME_INVALID (!u.rdg.timeValid)).wit with
        mirrorAt := some ((u.fillMirror).setB F.PWR_STATE_TIME_INVALID (!u.rdg.timeValid)).now } } := by
  simp only [execMirrorUpdate, now, up, running, Bool.not_true, Bool.false_eq_true, or_self, if_false]

theorem execRidgeStale_old (up : u.mainUp = true) (old : 5000 ≤ u.mirrorAge) : execRidgeStale t s = .next (u.setB F.RDG_STAT_STALE true) := by
  simp only [execRidgeStale, now, up, old, and_self, if_true]

end

/-- Settles O36: a frame that is sent goes through what `witnessFrame` does with it; every other clause is the equation of its case. -/
theorem witnessAndMirrorEventsComplete : Obligations.WitnessAndMirrorEventsComplete :=
  ⟨fun _ _ _ now due on => (execWitnessHeartbeat_due now due).trans (congrArg _ (witnessFrame_handled on)),
    fun _ _ _ now due on => (execWitnessHeartbeat_due now due).trans (congrArg _ (witnessFrame_damaged on)),
    fun _ _ _ _ now due off => (execWitnessHeartbeat_due now due).trans (congrArg _ (witnessFrame_unheard off)),
    fun _ _ _ now due on => (execWitnessAngle_due now due).trans (congrArg _ (witnessFrame_handled on)),
    fun _ _ _ now due on => (execWitnessAngle_due now due).trans (congrArg _ (witnessFrame_damaged on)),
    fun _ _ _ _ now due off => (execWitnessAngle_due now due).trans (congrArg _ (witnessFrame_unheard off)),
    fun _ _ _ _ now => execWitnessAngle_lost now,
    fun _ _ _ _ _ _ now waiting on => (execWitnessMirrorWrite_waiting now waiting).trans (congrArg _ (witnessFrame_handled on)),
    fun _ _ _ _ _ _ now waiting on => (execWitnessMirrorWrite_waiting now waiting).trans (congrArg _ (witnessFrame_damaged on)),
    fun _ _ _ _ _ _ _ now waiting off => (execWitnessMirrorWrite_waiting now waiting).trans (congrArg _ (witnessFrame_unheard off)),
    fun _ _ _ now asleep noBoot on => (execWitnessSleep_asleep now asleep noBoot).trans (congrArg _ (witnessFrame_handled on)),
    fun _ _ _ now asleep noBoot on => (execWitnessSleep_asleep now asleep noBoot).trans (congrArg _ (witnessFrame_damaged on)),
    fun _ _ _ _ now asleep noBoot off => (execWitnessSleep_asleep now asleep noBoot).trans (congrArg _ (witnessFrame_unheard off)),
    fun _ _ _ _ now => execRdgWitnessLost_silent now,
    fun _ _ _ _ _ now => execRidgeReply_inTime now,
    fun _ _ _ _ _ now => execRidgeQueryTimeout_passed now,
    fun _ _ _ _ now => execRlinkFrame_sound now,
    fun _ _ _ _ now => execRlinkFrame_unsound now,
    fun _ _ _ now => execMirrorUpdate_running now,
    fun _ _ _ now => execRidgeStale_old now⟩

end Sys2Proof.Machine
end

section
/-! The edge, carrier and bootstrap events (R133 to R156, R267, R274, R402): one equation for the case of each event that acts, `u` being the state at the event. -/

namespace Sys2Proof.Machine
open Sys2Proof

section
variable {t : Nat} {s u : State} (now : s.advance t = u)
include now

/-- The earliest edge of a channel leaves the schedule at its release instant (R135, R274). -/
theorem execEdgeRelease_due {n : Fin 64} {bst : Bool} {e : Edge} (earliest : nextEdge n u.bat.edges = some e) (up : u.mainUp = true)
    (due : e.release ≤ u.now) :
    execEdgeRelease t n bst s = .next (if e.on then { u with bat := { u.bat with edges := u.bat.edges.erase e } }.releaseOn n e.release
      else { u with bat := { u.bat with edges := u.bat.edges.erase e } }.releaseOff n e.release bst) := by
  simp [execEdgeRelease, now, earliest, up, due]

/-- A channel held to its minimum pulse goes off when the hold ends (R149). -/
theorem execMinPulseHoldEnd_due {n : Fin 64} {d : Nat} (held : vget u.gate.minHold n none = some d) (due : d ≤ u.now) :
    execMinPulseHoldEnd t n s = .next (u.holdEnds n d) := by
  simp only [execMinPulseHoldEnd, now, held, due, if_true]

/-- The clamp of an island driver engages with the gate off, after any soft turn-off, and within 2.0 V of VN (R267). -/
theorem execMillerClamp_engages {n : Fin 64} {mv : Nat} (driver : n.val < 32) (enabled : u.getB (F.GD_CH_DRV_MCLAMP n) = true)
    (off : u.gateOn n = false) (near : mv ≤ 2000) (passed : vget u.gate.softUntil n 0 ≤ u.now) :
    execMillerClamp t n mv s = .next { u with gate := { u.gate with clamp := vset u.gate.clamp n true } } := by
  simp [execMillerClamp, now, driver, enabled, off, near, passed]

section
variable {n : Fin 16} (up : u.mainUp = true)
include up

/-- A carrier is evaluated in the 1,024 fine ticks before its start (R147). -/
theorem execShadowGuard_evaluates (goes : (u.car n).running = true ∨ (u.car n).waiting = true) (dated : 0 < (u.car n).next)
    (near : (u.car n).next ≤ u.now + 1024) (goesOn : (u.car n).stopping = false) : execShadowGuard t n s = .next (u.guardCar n) := by
  simp [execShadowGuard, now, up, goes, dated, near, goesOn]

/-- At its start a carrier that runs or waits begins the period (R139, R147). -/
theorem execPeriodStart_begins (goes : (u.car n).running = true ∨ (u.car n).waiting = true) (dated : 0 < (u.car n).next)
    (due : (u.car n).next ≤ u.now) (goesOn : (u.car n).stopping = false) : execPeriodStart t n s = .next ((u.startPeriod n).softStep n) := by
  simp [execPeriodStart, now, up, goes, dated, due, goesOn]

/-- A running carrier that is told to stop ends with its period (R141). -/
theorem execPeriodStart_stops (running : (u.car n).running = true) (stopping : (u.car n).stopping = true) (dated : 0 < (u.car n).next)
    (due : (u.car n).next ≤ u.now) : execPeriodStart t n s = .next (u.stopCar n) := by
  simp [execPeriodStart, now, up, running, stopping, dated, due]

end

/-- A recalibration of the delay line is noted and moves no edge (R133). -/
theorem execDelayLineRecal_eq : execDelayLineRecal t s = .next { u with bat := { u.bat with recalAt := u.now } } := by
  rw [execDelayLineRecal, now]

/-- A bootstrap supply below 7.2 V counts in mode 1 or 2 of HB16 to HB31 (R156). -/
theorem execBootstrapUndervoltage_counts {n : Fin 32} {mv : Nat} (up : u.mainUp = true) (bootstrapped : 16 ≤ n.val)
    (mode : u.hbMode n = 1 ∨ u.hbMode n = 2) (under : mv < 7200) : execBootstrapUndervoltage t n mv s = .next (u.bstLow n) := by
  simp [execBootstrapUndervoltage, now, up, bootstrapped, mode, under]

end

/-- Settles O43: each clause is the equation of its case of its event. -/
theorem edgeAndCarrierEventsComplete : Obligations.EdgeAndCarrierEventsComplete :=
  ⟨fun _ _ _ _ _ _ now => execEdgeRelease_due now,
    fun _ _ _ _ _ now => execMinPulseHoldEnd_due now,
    fun _ _ _ _ _ now => execMillerClamp_engages now,
    fun _ _ _ _ now => execShadowGuard_evaluates now,
    fun _ _ _ _ now => execPeriodStart_begins now,
    fun _ _ _ _ now => execPeriodStart_stops now,
    fun _ _ _ now => execDelayLineRecal_eq now,
    fun _ _ _ _ _ now => execBootstrapUndervoltage_counts now⟩

end Sys2Proof.Machine
end

section
/-! The conversion, angle, table and block instructions of the loop engines (R135, R166, R194, R198, R210 to R213): the result of each on an engine that executes. An instruction without a case of its own is what `onEngine` runs. -/

namespace Sys2Proof.Machine
open Sys2Proof

/-- A finite pattern is neither a NaN nor an infinity: its exponent is not all ones. -/
theorem F32.isNaN_of_isFinite {a : F32} (finite : F32.isFinite a = true) : F32.isNaN a = false := by
  rw [F32.isNaN, beq_eq_false_iff_ne.2 (bne_iff_ne.1 finite), Bool.false_and]

theorem F32.isInf_of_isFinite {a : F32} (finite : F32.isFinite a = true) : F32.isInf a = false := by
  rw [F32.isInf, beq_eq_false_iff_ne.2 (bne_iff_ne.1 finite), Bool.false_and]

section
variable {e : Fin 16} {d x : Fin 32} {u : State} (executes : u.executes e = true)
include executes

section
variable {q : QFmt}

theorem execCvtfq_finite (finite : F32.isFinite (u.leReg e x) = true) :
    execCvtfq e q d x u = .next (u.leQuantize e d (F32.toRat (u.leReg e x) * (2 ^ fracBits q : Nat)) 1) := by
  simp only [execCvtfq, State.onEngine_runs executes, F32.isNaN_of_isFinite finite, F32.isInf_of_isFinite finite, Bool.false_eq_true, if_false]

/-- An infinity saturates by its sign (R194). -/
theorem execCvtfq_infinite (number : F32.isNaN (u.leReg e x) = false) (infinite : F32.isInf (u.leReg e x) = true) :
    execCvtfq e q d x u = .next (u.leSet e d (satQ (if F32.sign (u.leReg e x) then -(2 ^ 31) else 2 ^ 31 - 1)) 1) := by
  simp only [execCvtfq, State.onEngine_runs executes, number, infinite, Bool.false_eq_true, if_false, if_true]

/-- Table 8.4 states no result for a NaN: it is free. -/
theorem execCvtfq_nan (nan : F32.isNaN (u.leReg e x) = true) :
    execCvtfq e q d x u =
      .next { u.leSet e d (Config.freeWord u.free) 1 with free := (u.leSet e d (Config.freeWord u.free) 1).free + 1 } := by
  simp only [execCvtfq, State.onEngine_runs executes, nan, if_true]

end

/-- A period fraction that a word holds, as a signed or an unsigned number, is written (R198). -/
theorem execCvtc_held {v : Int} (finite : F32.isFinite (u.leReg e x) = true)
    (rounded : roundRat (F32.toRat (u.leReg e x) * (u.getF (F.PWM_CAR_EFF (u.leCar e)) : Rat)) = v) (least : -(2 ^ 31) ≤ v) (most : v < 2 ^ 32) :
    execCvtc e d x u = .next (u.leSet e d (BitVec.ofInt 32 v) 2) := by
  simp only [execCvtc, State.onEngine_runs executes, finite, rounded, decide_eq_true least, decide_eq_true most, Bool.and_self, if_true]

/-- A fraction that is not finite has no period: the result is free (assumption 73). -/
theorem execCvtc_notFinite (notFinite : F32.isFinite (u.leReg e x) = false) :
    execCvtc e d x u =
      .next { u.leSet e d (Config.freeWord u.free) 2 with free := (u.leSet e d (Config.freeWord u.free) 2).free + 1 } := by
  simp only [execCvtc, State.onEngine_runs executes, notFinite, Bool.false_and, Bool.false_eq_true, if_false]

section
variable {k : Fin 8} {coef : Fin 253}

/-- A block that is not tracked follows the rule with its four coefficients (R210). -/
theorem execPiBlock_runs {out st : F32} {sat : Bool} (untracked : u.tracked e k = false)
    (rule : piRule u.nan (u.bankWord e (coef.val + 0)) (u.bankWord e (coef.val + 1)) (u.bankWord e (coef.val + 2)) (u.bankWord e (coef.val + 3))
      (u.leReg e x) ((u.eng e).pi.get k).state = (out, st, sat)) :
    execPiBlock e k d x coef u = .next ((u.setEng e { u.eng e with
      pi := (u.eng e).pi.set k { state := st, out := out, sat := sat }, satNow := (u.eng e).satNow || sat }).leFloat e d out 3) := by
  simp only [execPiBlock, State.onEngine_runs executes, untracked, rule, Bool.false_eq_true, if_false]

/-- A tracked block puts out the MANUAL value and presets its state so that it would resume there (R211). -/
theorem execPiBlock_tracks {m : F32} (tracked : u.tracked e k = true) (manual : u.getFl (manReg e k) = m) :
    execPiBlock e k d x coef u = .next ((u.setEng e { u.eng e with
      pi := (u.eng e).pi.set k { state := F32.sub u.nan m (F32.mul u.nan (u.bankWord e (coef.val + 0)) (u.leReg e x)), out := m, sat := false } }).leFloat
        e d m 3) := by
  simp only [execPiBlock, State.onEngine_runs executes, tracked, manual, if_true]

end

/-- The code of a channel word is scaled to full scale (R166). -/
theorem execCvtg_scales {ch : Fin 72} {fine : Bool} {w : Word} (word : u.leRead e (if fine then 0x48 + ch.val else ch.val) = w) :
    execCvtg e d ch fine u = .next (u.leSet e d (F32.ofRat (mkRat (u.gzValue ch (u.gzCode ch w)) (if u.gzSingle ch then 2 ^ 24 else 2 ^ 23))) 2) := by
  simp only [execCvtg, State.onEngine_runs executes, word]

/-- The ten upper bits name the entry, and the entry after the last is the first (R213). -/
theorem execTlook_interpolates {p : Nat} {a b : F32} (phase : (u.leReg e x).toNat = p)
    (entry : (sparseFind (bitsOf p 31 22) (u.eng e).table).getD 0 = a)
    (next : (sparseFind ((bitsOf p 31 22 + 1) % 1024) (u.eng e).table).getD 0 = b) :
    execTlook e d x u =
      .next (u.leFloat e d (F32.add u.nan a (F32.mul u.nan (F32.ofRat (mkRat (bitsOf p 21 0 : Nat) (2 ^ 22))) (F32.sub u.nan b a))) 3) := by
  rw [State.leReg] at phase
  simp only [execTlook, State.onEngine_runs executes, phase, entry, next]

end

/-- Settles O30: an instruction with cases has one equation for each; the others are what `onEngine` runs, and on an engine that does not execute it runs none. -/
theorem engineConversionsComplete : Obligations.EngineConversionsComplete :=
  ⟨fun _ _ _ _ _ _ => State.onEngine_runs,
    fun _ _ _ _ _ _ => State.onEngine_runs,
    fun _ _ _ _ _ _ => State.onEngine_runs,
    fun _ _ _ _ _ => State.onEngine_runs,
    fun _ _ _ _ _ finite executes => execCvtfq_finite executes finite,
    fun _ _ _ _ _ number infinite executes => execCvtfq_infinite executes number infinite,
    fun _ _ _ _ _ nan executes => execCvtfq_nan executes nan,
    fun _ _ _ _ _ => State.onEngine_runs,
    fun _ _ _ _ _ => State.onEngine_runs,
    fun _ _ _ _ _ _ word executes => execCvtg_scales executes word,
    fun _ _ _ _ _ finite rounded least most executes => execCvtc_held executes finite rounded least most,
    fun _ _ _ _ notFinite executes => execCvtc_notFinite executes notFinite,
    fun _ _ _ _ _ _ _ phase entry next executes => execTlook_interpolates executes phase entry next,
    fun _ _ _ _ => State.onEngine_runs,
    fun _ _ _ _ _ _ _ _ _ untracked rule executes => execPiBlock_runs executes untracked rule,
    fun _ _ _ _ _ _ _ tracked manual executes => execPiBlock_tracks executes tracked manual,
    fun _ _ _ _ => State.onEngine_runs,
    fun _ _ _ _ _ _ _ _ _ _ idle => by and_intros <;> exact State.onEngine_idle idle⟩

end Sys2Proof.Machine
end

section
/-! The Gauze requests (R178 to R182, R192): one equation for each request that is served as `u` and within its conditions. -/

namespace Sys2Proof.Machine
open Sys2Proof

section
variable {r : Req} {s u : State}

/-- GZ_INJECT of a channel that exists, as soon as possible or inside the window of R178, and that R179 does not answer BUSY. -/
theorem execGzInject_queued (served : admitOp { code := 0x0801, background := true, lens := [9] } r s = .served u) (channel : r.num 0 1 < 72)
    (window : r.num 1 8 = 0 ∨ (u.battenTime + u.injectLead (r.num 0 1) ≤ r.num 1 8 ∧ r.num 1 8 ≤ u.battenTime + 10 * ticksPerS))
    (free : u.injectBusy (r.num 0 1) = false) :
    execGzInject r s = .next ((u.addInjection (r.ticket 0x0801) (r.num 0 1) (r.num 1 8)).trimCache (r.ticket 0x0801)) := by
  have inRange : ¬(72 ≤ r.num 0 1 ∨
      (r.num 1 8 ≠ 0 ∧ (r.num 1 8 < u.battenTime + u.injectLead (r.num 0 1) ∨ u.battenTime + 10 * ticksPerS < r.num 1 8))) := by
    omega
  exact serveOp_later served ((if_neg inRange).trans (if_neg (ne_true_of_eq_false free)))

section
variable (served : admitOp { code := 0x0802, level := 2, lens := [9] } r s = .served u) (channels : r.num 0 9 < 2 ^ 64) (standby : u.power = pSTANDBY)
  (idle : u.gz.cal.isSome = false)
include served channels standby idle

theorem execGzCalibrate_starts (clear : (u.gz.injections.any fun i => bitAt (r.num 0 9) i.ch) = false) : execGzCalibrate r s =
    .next (({ u with gz := { u.gz with cal := some { mask := r.num 0 9, waiting := true, startAt := gridUp 655360 (u.battenTime + 1) } } }).answer
      (r.ticket 0x0802) stOK []) :=
  serveOp_done served (by simp only [if_neg (Nat.not_le.2 channels), standby, idle, clear]; rfl)

theorem execGzCalibrate_deferred (waits : (u.gz.injections.any fun i => bitAt (r.num 0 9) i.ch) = true) : execGzCalibrate r s =
    .next ((({ u with gz := { u.gz with cal := some { mask := r.num 0 9, waiting := true, startAt := 0 } } }).setB F.GZ_STAT_CAL_WAIT true).answer
      (r.ticket 0x0802) stDeferred []) :=
  serveOp_done served (by simp only [if_neg (Nat.not_le.2 channels), standby, idle, waits]; rfl)

end

theorem execGzRead_inRange (served : admitOp { code := 0x0803, lens := [2] } r s = .served u) (channel : r.num 0 1 < 72) (path : r.num 1 1 ≤ 2) :
    execGzRead r s = .next (u.answer (r.ticket 0x0803) stOK (u.gzReadData (r.num 0 1) (r.num 1 1))) := by
  have inRange : ¬(72 ≤ r.num 0 1 ∨ 2 < r.num 1 1) := by omega
  exact serveOp_done served (if_neg inRange)

end

/-- Settles O32: each clause is the equation of its request, served within its conditions. -/
theorem gauzeRequestsComplete : Obligations.GauzeRequestsComplete :=
  ⟨fun _ _ _ => execGzInject_queued,
    fun _ _ _ => execGzCalibrate_starts,
    fun _ _ _ => execGzCalibrate_deferred,
    fun _ _ _ => execGzRead_inRange⟩

end Sys2Proof.Machine
end

section
/-! The computing instructions of the loop engines (R194, R195): each writes one register in some cycles and may draw free values, on an engine that executes. The frame of that one write is the frame of them all. -/

namespace Sys2Proof.Machine
open Sys2Proof

theorem vget_vset_same {α : Type} {m n : Nat} {v : Vector α m} {x d : α} (inside : n < m) : vget (vset v n x) n d = x := by
  simp [vget, vset, inside]

theorem vget_vset_ne {α : Type} {m k n : Nat} {v : Vector α m} {x d : α} (other : k ≠ n) : vget (vset v n x) k d = vget v k d := by
  unfold vset
  split
  · simp [vget, List.getD_eq_getElem?_getD, Vector.getElem?_set_ne _ other.symm]
  · rfl

theorem State.eng_setEng_same {s : State} {e : Fin 16} {x : Engine} : (s.setEng e x).eng e = x := vget_vset_same e.isLt

theorem State.eng_setEng_ne {s : State} {e f : Fin 16} {x : Engine} (other : f ≠ e) : (s.setEng e x).eng f = s.eng f :=
  vget_vset_ne (Fin.val_ne_of_ne other)

/-- The step to the next instruction moves the program counter and the running loops. -/
theorem Engine.stepPc_frame (x : Engine) : x.stepPc = { x with pc := x.stepPc.pc, loops := x.stepPc.loops } := by
  fun_cases Engine.stepPc <;> rfl

theorem Engine.tick_frame (x : Engine) (cycles : Nat) :
    x.tick cycles = { x with pc := (x.tick cycles).pc, loops := (x.tick cycles).loops, cycles := (x.tick cycles).cycles } :=
  congrArg (fun y : Engine => { y with cycles := x.cycles + cycles }) x.stepPc_frame

theorem Engine.tick_v (x : Engine) (cycles : Nat) : (x.tick cycles).v = x.v := by
  rw [x.tick_frame]

theorem Engine.reg_setReg_ne {x : Engine} {d k : Fin 32} {w : Word} (other : k ≠ d) : (x.setReg d w).reg k = x.reg k :=
  Vector.getElem_set_ne d.isLt k.isLt (Fin.val_ne_of_ne other.symm)

/-- All that a computing instruction with destination d can do on engine e: nothing, or one register write in some cycles, drawing free values. -/
def State.ComputesTo (s : State) (e : Fin 16) (d : Fin 32) (t : State) : Prop :=
  t = s ∨ ∃ (w : Word) (cycles free : Nat), t = { s.leSet e d w cycles with free := free }

/-- What `ComputesTo` says of a meaning: of the next state where it answers one. -/
def State.Computes (s : State) (e : Fin 16) (d : Fin 32) (o : Out) : Prop := ∀ t : State, o = .next t → s.ComputesTo e d t

section
variable {s t : State} {e : Fin 16} {d x y z : Fin 32} {q : QFmt}

/-- One register write touches the engine's registers, program counter, loops and cycles, and of the registers the destination alone. -/
theorem State.ComputesTo.frame (h : s.ComputesTo e d t) :
    t = { s with le := t.le, free := t.free } ∧ (∀ f : Fin 16, f ≠ e → t.eng f = s.eng f) ∧ (∀ k : Fin 32, k ≠ d → t.leReg e k = s.leReg e k) ∧
    t.eng e = { s.eng e with v := (t.eng e).v, pc := (t.eng e).pc, loops := (t.eng e).loops, cycles := (t.eng e).cycles } := by
  obtain rfl | ⟨w, cycles, free, rfl⟩ := h
  · exact ⟨rfl, fun _ _ => rfl, fun _ _ => rfl, rfl⟩
  · have written : ({ s.leSet e d w cycles with free := free } : State).eng e = ((s.eng e).setReg d w).tick cycles := State.eng_setEng_same
    refine ⟨rfl, fun f other => State.eng_setEng_ne other, fun k other => ?_, ?_⟩
    · rw [State.leReg, written, Engine.reg, Engine.tick_v]
      exact Engine.reg_setReg_ne other
    · rw [written, Engine.tick_frame]
      rfl

theorem State.Computes.of_write {w : Word} {cycles free : Nat} : s.Computes e d (.next { s.leSet e d w cycles with free := free }) := by
  rintro _ ⟨⟩
  exact .inr ⟨w, cycles, free, rfl⟩

theorem State.Computes.leSet {w : Word} {cycles : Nat} : s.Computes e d (.next (s.leSet e d w cycles)) := .of_write (free := s.free)

theorem State.Computes.ite {c : Prop} [Decidable c] {a b : Out} (ha : s.Computes e d a) (hb : s.Computes e d b) :
    s.Computes e d (if c then a else b) := by
  split
  · exact ha
  · exact hb

theorem State.Computes.onEngine {o : Out} (h : s.Computes e d o) : s.Computes e d (s.onEngine e o) := by
  refine .ite h ?_
  rintro _ ⟨⟩
  exact .inl rfl

theorem State.Computes.leFloat {w : F32} {cycles : Nat} : s.Computes e d (.next (s.leFloat e d w cycles)) := by
  unfold State.leFloat
  split
  · exact .of_write
  · exact .leSet

theorem State.Computes.leQuantize {v : Rat} {cycles : Nat} : s.Computes e d (.next (s.leQuantize e d v cycles)) := by
  fun_cases State.leQuantize
  · exact .leSet
  · exact .of_write

theorem State.Computes.leMinMax {wantMax : Bool} : s.Computes e d (.next (s.leMinMax e d x y wantMax)) := by
  fun_cases State.leMinMax
  · exact .of_write
  · exact .leSet
  · exact .leSet
  · exact .leSet
  · exact .of_write

/-- A NaN has no stated result, an infinity saturates, and a number is quantized. -/
theorem execCvtfq_computes : s.Computes e d (execCvtfq e q d x s) := .onEngine (.ite .of_write (.ite .leSet .leQuantize))

/-- A fraction that no word holds has no stated result. -/
theorem execCvtc_computes : s.Computes e d (execCvtc e d x s) := .onEngine (.ite .leSet .of_write)

end

/-- Settles O46: each instruction is one register write on an engine that executes, and `ComputesTo.frame` is the frame of that write. -/
theorem engineInstructionsFrame : Obligations.EngineInstructionsFrame := by
  unfold Obligations.EngineInstructionsFrame
  intro e d x y z q ch fine s t answers
  have computes : s.ComputesTo e d t := by
    obtain fadd | fsub | fmul | fma | fmin | fmax | fabs | fneg | fdiv | fsqrt | qadd | qsub | qmul | cvtqf | cvtfq | atan2 | cvtg | cvtc |
      tlook | sat := answers
    · exact State.Computes.leFloat.onEngine t fadd
    · exact State.Computes.leFloat.onEngine t fsub
    · exact State.Computes.leFloat.onEngine t fmul
    · exact State.Computes.leFloat.onEngine t fma
    · exact State.Computes.leMinMax.onEngine t fmin
    · exact State.Computes.leMinMax.onEngine t fmax
    · exact State.Computes.leSet.onEngine t fabs
    · exact State.Computes.leSet.onEngine t fneg
    · exact State.Computes.leFloat.onEngine t fdiv
    · exact State.Computes.leFloat.onEngine t fsqrt
    · exact State.Computes.leSet.onEngine t qadd
    · exact State.Computes.leSet.onEngine t qsub
    · exact State.Computes.leQuantize.onEngine t qmul
    · exact State.Computes.leSet.onEngine t cvtqf
    · exact execCvtfq_computes t cvtfq
    · exact State.Computes.leSet.onEngine t atan2
    · exact State.Computes.leSet.onEngine t cvtg
    · exact execCvtc_computes t cvtc
    · exact State.Computes.leFloat.onEngine t tlook
    · exact State.Computes.of_write.onEngine t sat
  exact computes.frame

end Sys2Proof.Machine
end

section
/-! The float instructions of the loop engines (R194, R205, Table 8.4). FMIN and FMAX share the comparison `leMinMax`; the others are what `onEngine` runs. -/

namespace Sys2Proof.Machine
open Sys2Proof

/-- On an engine that executes, a meaning under `onEngine` answers the state that its own equation gives. -/
theorem State.onEngine_next {s a b : State} {e : Nat} (executes : s.executes e = true) (next : a = b) : s.onEngine e (.next a) = .next b :=
  (State.onEngine_runs executes).trans (congrArg _ next)

section
variable {e : Fin 16} {d x y : Fin 32} {u : State} {wantMax : Bool}

/-- Of a NaN neither operand is stated as the result: it is free (assumption 73). -/
theorem State.leMinMax_nan (nan : (F32.isNaN (u.leReg e x) || F32.isNaN (u.leReg e y)) = true) :
    u.leMinMax e d x y wantMax =
      { u.leSet e d (Config.freeWord u.free) 1 with free := (u.leSet e d (Config.freeWord u.free) 1).free + 1 } :=
  if_pos nan

section
variable (numberX : F32.isNaN (u.leReg e x) = false) (numberY : F32.isNaN (u.leReg e y) = false)
include numberX numberY

theorem State.leMinMax_less (less : F32.lt (u.leReg e x) (u.leReg e y) = true) :
    u.leMinMax e d x y wantMax = u.leSet e d (if wantMax then u.leReg e y else u.leReg e x) 1 := by
  simp only [State.leMinMax, numberX, numberY, less, Bool.or_self, Bool.false_eq_true, if_false, if_true]

theorem State.leMinMax_greater (notLess : F32.lt (u.leReg e x) (u.leReg e y) = false) (greater : F32.lt (u.leReg e y) (u.leReg e x) = true) :
    u.leMinMax e d x y wantMax = u.leSet e d (if wantMax then u.leReg e x else u.leReg e y) 1 := by
  simp only [State.leMinMax, numberX, numberY, notLess, greater, Bool.or_self, Bool.false_eq_true, if_false, if_true]

end

end

/-- Settles O29: FMIN and FMAX by the order of their operands; every other instruction is what `onEngine` runs, and on an engine that does not execute it runs none. -/
theorem engineFloatInstructionsComplete : Obligations.EngineFloatInstructionsComplete :=
  ⟨fun _ _ _ _ _ => State.onEngine_runs,
    fun _ _ _ _ _ => State.onEngine_runs,
    fun _ _ _ _ _ => State.onEngine_runs,
    fun _ _ _ _ _ => State.onEngine_runs,
    fun _ _ _ _ _ _ => State.onEngine_runs,
    fun _ _ _ _ => State.onEngine_runs,
    fun _ _ _ _ => State.onEngine_runs,
    fun _ _ _ _ => State.onEngine_runs,
    fun _ _ _ _ _ numberX numberY less executes => State.onEngine_next executes (State.leMinMax_less numberX numberY less),
    fun _ _ _ _ _ numberX numberY notLess greater executes =>
      State.onEngine_next executes (State.leMinMax_greater numberX numberY notLess greater),
    fun _ _ _ _ _ nan executes => State.onEngine_next executes (State.leMinMax_nan nan),
    fun _ _ _ _ _ numberX numberY less executes => State.onEngine_next executes (State.leMinMax_less numberX numberY less),
    fun _ _ _ _ _ numberX numberY notLess greater executes =>
      State.onEngine_next executes (State.leMinMax_greater numberX numberY notLess greater),
    fun _ _ _ _ _ nan executes => State.onEngine_next executes (State.leMinMax_nan nan),
    fun _ _ _ _ => State.onEngine_runs,
    fun _ _ _ _ _ _ idle => by and_intros <;> exact State.onEngine_idle idle⟩

end Sys2Proof.Machine
end

section
/-! The memory, link and control instructions of the loop engines (R195, R197, R201, R203 to R205): the effect of each on an engine that executes. An instruction without a case of its own is what `onEngine` runs. -/

namespace Sys2Proof.Machine
open Sys2Proof

/-- An error that cannot be corrected halts the engine (R203). -/
theorem State.ecc_uncorrectable {u : State} {e : Nat} : u.ecc e 2 = u.haltClass e Flt.LE_MEM_ERR := rfl

section
variable {e : Fin 16} {d x df : Fin 32} {a : LeAddr} {ecc : Fin 3} {u v : State} (executes : u.executes e = true)
include executes

theorem execLd_reads (readable : ecc ≠ 2) (looked : u.ecc e ecc = v) :
    execLd e d a ecc u = .next (v.leSet e d (v.leRead e (leAddress (v.eng e) a)) 1) := by
  simp only [execLd, State.onEngine_runs executes, looked, if_neg readable]

theorem execLd_halts : execLd e d a 2 u = .next (u.haltClass e Flt.LE_MEM_ERR) := by
  simp only [execLd, State.onEngine_runs executes, State.ecc_uncorrectable, if_true]

section
variable {b : Fin 2048} (readable : ecc ≠ 2) (looked : u.ecc e ecc = v)
include readable looked

theorem execLdb_readsAbs : execLdb e d (.abs b) ecc u = .next (v.leSet e d (v.bankWord e (b.val % 256)) 1) := by
  simp only [execLdb, State.onEngine_runs executes, looked, if_neg readable]

theorem execLdb_readsIdx : execLdb e d (.idx b x) ecc u = .next (v.leSet e d (v.bankWord e ((b.val + (v.leReg e x).toNat) % 256)) 1) := by
  simp only [execLdb, State.onEngine_runs executes, looked, if_neg readable]

end

theorem execLdb_halts : execLdb e d a 2 u = .next (u.haltClass e Flt.LE_MEM_ERR) := by
  simp only [execLdb, State.onEngine_runs executes, State.ecc_uncorrectable, if_true]

/-- A writable word is written, and a compare word is staged for POST (R195, R204). -/
theorem execSt_writes {k : Nat} {h : Engine} (address : leAddress (u.eng e) a = k)
    (written : (if leWritable k then (u.eng e).putMem k ((u.eng e).reg x) else u.eng e) = h) :
    execSt e x a u = .next (u.setEng e ((if 0x100 ≤ k ∧ k < 0x180 then { h with staged := k :: h.staged } else h).tick 1)) := by
  simp only [execSt, State.onEngine_runs executes, address, written]

theorem execLput_puts {k : Fin 16} (put : u.putLink e k (u.leReg e x) = v) : execLput e k x u = .next (v.setEng e ((v.eng e).tick 1)) := by
  simp only [execLput, State.onEngine_runs executes, put]

section
variable {src k : Fin 16} {cycles : Nat}

theorem execLwait_fresh (fresh : u.fresh e src k = true) : execLwait e df src k cycles u = .next (u.leSet e df 1 0) := by
  simp only [execLwait, State.onEngine_runs executes, fresh, if_true]

theorem execLwait_atOnce (stale : u.fresh e src k = false) (noCycles : cycles = 0) : execLwait e df src k cycles u = .next (u.leSet e df 0 0) := by
  simp only [execLwait, State.onEngine_runs executes, stale, noCycles, Bool.false_eq_true, if_false, if_true]

/-- With the word not fresh the engine is gated for the cycles given (R205). -/
theorem execLwait_gates (stale : u.fresh e src k = false) (someCycles : cycles ≠ 0) : execLwait e df src k cycles u =
    .next (u.setEng e { (u.eng e).tick 0 with
      wait := some { engine := src, link := k, flagReg := df, since := u.now, until_ := u.now + 16 * cycles } }) := by
  simp only [execLwait, State.onEngine_runs executes, stale, if_neg someCycles, Bool.false_eq_true, if_false]

end

section
variable {taken : Bool} {target : Fin 4096}

theorem execBr_jumps (forward : (taken && decide ((u.eng e).pc < target.val)) = true) :
    execBr e taken target u = .next (u.setEng e { (u.eng e).tick 1 with pc := target }) := by
  simp only [execBr, State.onEngine_runs executes, forward, if_true]

theorem execBr_goesOn (notTaken : (taken && decide ((u.eng e).pc < target.val)) = false) :
    execBr e taken target u = .next (u.setEng e ((u.eng e).tick 1)) := by
  simp only [execBr, State.onEngine_runs executes, notTaken, Bool.false_eq_true, if_false]

end

/-- A LOOP of 1 to 4,096 passes is entered below four nested loops. -/
theorem execLoop_enters {count : Nat} {last : Fin 4096} {g : Engine} (engine : u.eng e = g) (least : 1 ≤ count) (most : count ≤ 4096)
    (nested : g.loops.length < 4) (forward : g.pc < last.val) :
    execLoop e count last u =
      .next (u.setEng e { g with pc := g.pc + 1, cycles := g.cycles + 1, loops := (g.pc + 1, last.val, count) :: g.loops }) := by
  simp only [execLoop, State.onEngine_runs executes, engine, if_pos (And.intro least (And.intro most (And.intro nested forward)))]

theorem execPost_posts (computed : u.loopPost e = v) : execPost e u = .next ((v.setEng e ((v.eng e).tick 2)).post e) := by
  simp only [execPost, State.onEngine_runs executes, computed]

/-- END takes the two cycles of a POST that the slot has not reached (R204). -/
theorem execEndSlot_ends (computed : u.loopPost e = v) :
    execEndSlot e u = .next ((v.setEng e ((v.eng e).tick (if (v.eng e).posted then 1 else 3))).endSlot e) := by
  simp only [execEndSlot, State.onEngine_runs executes, computed]

/-- WAIT records the cycles of the pass and gates the engine until the next FINE output instant (R197). -/
theorem execWait_gates
    (recorded : (u.setF (F.LE_EXEC e) (u.eng e).cycles).setF (F.LE_PEAK e) (max (u.eng e).cycles (u.getF (F.LE_PEAK e))) = v) :
    execWait e u = .next (v.setEng e { (u.eng e).stepPc.clearNew with waitFine := true, waitAt := v.battenTime }) := by
  simp only [execWait, State.onEngine_runs executes, recorded]

end

/-- Settles O31: each clause is the equation of its instruction in its case; LINK and PACE are what `onEngine` runs, and on an engine that does not execute it runs none. -/
theorem engineControlInstructionsComplete : Obligations.EngineControlInstructionsComplete :=
  ⟨fun _ _ _ _ _ _ readable looked executes => execLd_reads executes readable looked,
    fun _ _ _ _ => execLd_halts,
    fun _ _ _ _ _ _ readable looked executes => execLdb_readsAbs executes readable looked,
    fun _ _ _ _ _ _ _ readable looked executes => execLdb_readsIdx executes readable looked,
    fun _ _ _ _ => execLdb_halts,
    fun _ _ _ _ _ _ address written executes => execSt_writes executes address written,
    fun _ _ _ _ _ put executes => execLput_puts executes put,
    fun _ _ _ _ _ _ => State.onEngine_runs,
    fun _ _ _ _ _ _ fresh executes => execLwait_fresh executes fresh,
    fun _ _ _ _ _ _ stale noCycles executes => execLwait_atOnce executes stale noCycles,
    fun _ _ _ _ _ _ stale someCycles executes => execLwait_gates executes stale someCycles,
    fun _ _ _ _ forward executes => execBr_jumps executes forward,
    fun _ _ _ _ notTaken executes => execBr_goesOn executes notTaken,
    fun _ _ _ _ _ engine least most nested forward executes => execLoop_enters executes engine least most nested forward,
    fun _ _ _ computed executes => execPost_posts executes computed,
    fun _ _ _ computed executes => execEndSlot_ends executes computed,
    fun _ _ _ => State.onEngine_runs,
    fun _ _ _ recorded executes => execWait_gates executes recorded,
    fun _ _ _ _ _ _ _ _ _ _ _ idle => by and_intros <;> exact State.onEngine_idle idle⟩

end Sys2Proof.Machine
end

section
/-! The loop-engine events (R197 to R205, R216 to R221): one equation for the case of each event that acts, `u` being the state at the event. -/

namespace Sys2Proof.Machine
open Sys2Proof

/-- Only a limit of 0 switches a timer off (R219, R220). -/
theorem timerLimit_ne_zero {limit : Nat} (nonzero : limit ≠ 0) : (limit * ticksPerMs != 0) = true :=
  bne_iff_ne.2 (Nat.mul_ne_zero nonzero (by decide))

section
variable {t : Nat} {e : Fin 16} {s u a : State}

section
variable (now : s.advance t = u)
include now

section
variable {m : SlotMeas} {ecc : Fin 3} {p : Nat} (due : u.slotDue e = some p) (begun : u.slotBegin e p = a)
include due begun

section
variable (mode : a.leMode e ≠ 0)
include mode

theorem execSlotStart_works (readable : ecc ≠ 2) : execSlotStart t e m ecc s = .next (((a.ecc e ecc).slotWork e m).showModes) := by
  simp only [execSlotStart, now, due, begun, if_neg mode, if_neg readable]

/-- A memory error that cannot be corrected ends the slot that has begun (R203). -/
theorem execSlotStart_halts : execSlotStart t e m 2 s = .next ((a.haltClass e Flt.LE_MEM_ERR).showModes) := by
  simp only [execSlotStart, now, due, begun, if_neg mode, State.ecc_uncorrectable, if_true]

end

/-- A mode that changes to STOP at the slot start ends the slot there (R209). -/
theorem execSlotStart_stops (stop : a.leMode e = 0) :
    execSlotStart t e m ecc s = .next (a.setEng e { a.eng e with inSlot := false }) := by
  simp only [execSlotStart, now, due, begun, stop, if_true]

end

theorem execBackgroundWake_wakes (up : u.mainUp = true) (background : u.background e = true) (waits : (u.eng e).waitFine = true)
    (passed : (u.eng e).waitAt / 655360 < u.battenTime / 655360) : execBackgroundWake t e s = .next (u.wakeEngine e) := by
  simp only [execBackgroundWake, now, up, background, waits, decide_eq_true passed, Bool.and_self, if_true]

theorem execLateSlot_late (slot : (u.eng e).inSlot = true) (unposted : (u.eng e).posted = false) (passed : (u.eng e).deadline < u.now) :
    execLateSlot t e s = .next (u.lateSlot e) := by
  simp only [execLateSlot, now, slot, unposted, decide_eq_true passed, Bool.not_false, Bool.and_self, if_true]

theorem execLeHung_hung (slot : (u.eng e).inSlot = true) (passed : (u.nextDeadline e).any (fun d => decide (d ≤ u.now)) = true) :
    execLeHung t e s = .next (u.haltClass e Flt.LE_HUNG) := by
  simp only [execLeHung, now, slot, passed, Bool.and_self, if_true]

theorem execLwaitTimeout_ends {w : LinkWait} (waits : (u.eng e).wait = some w) (passed : w.until_ ≤ u.now) :
    execLwaitTimeout t e s = .next (u.setEng e { u.eng e with
      v := vset (u.eng e).v w.flagReg (if u.fresh e w.engine w.link then 1 else 0), wait := none,
      cycles := (u.eng e).cycles + (w.until_ - w.since) / 16 }) := by
  simp only [execLwaitTimeout, now, waits, if_pos passed]

theorem execLeSatExpired_expires (up : u.mainUp = true) (limited : u.getF (F.LE_SAT_SAT_LIM e) ≠ 0)
    (reached : u.getF (F.LE_SAT_SAT_LIM e) * ticksPerMs ≤ (u.eng e).satTicks) (first : (u.eng e).satDone = false) :
    execLeSatExpired t e s = .next (u.satExpired e) := by
  simp only [execLeSatExpired, now, up, timerLimit_ne_zero limited, decide_eq_true reached, first, Bool.not_false, Bool.and_self, if_true]

theorem execLeFeExpired_expires (up : u.mainUp = true) (limited : u.getF (F.LE_FE_FE_LIM e) ≠ 0)
    (reached : u.getF (F.LE_FE_FE_LIM e) * ticksPerMs ≤ (u.eng e).feTicks) (first : (u.eng e).feDone = false) :
    execLeFeExpired t e s = .next (u.feExpired e) := by
  simp only [execLeFeExpired, now, up, timerLimit_ne_zero limited, decide_eq_true reached, first, Bool.not_false, Bool.and_self, if_true]

end

/-- The dwell that a derating engine has begun reaches its limit (R221). -/
theorem execLeDerateDwell_expires {d : Nat} (now : (s.advance t).leDwell e = u) (since : (u.eng e).dwellSince = some d) (up : u.mainUp = true)
    (reached : d + u.getF (F.LE_DWELL_DWELL_LIM e) * 100 * ticksPerMs ≤ u.now) (first : (u.eng e).dwellDone = false) :
    execLeDerateDwell t e s = .next (u.dwellExpired e) := by
  simp only [execLeDerateDwell, now, since, up, State.elapsed_of_le reached, first, Bool.not_false, Bool.and_self, if_true]

end

section
variable {t e : Nat} {n : Fin 32} {c : Carrier} {vin : Rat} {s u a : State} (now : s.advance t = u) (engine : u.ffEngine n = some e) (up : u.mainUp = true)
  (carrier : u.car (u.hbCar n) = c) (mode : u.leMode e ≠ 0) (running : c.running = true) (near : c.next ≤ u.now + 1088)
  (period : u.ffPeriod e (c.next - c.offset) = a)
include now engine up carrier mode running near period

/-- In mode 1 and with a valid input voltage the OFF word of the coming period is written (R216). -/
theorem execFeedforward_writes (mode1 : (u.comingCar (u.hbCar n)).hbMode n = 1) (unstopped : (a.eng e).ffStopped = false)
    (valid : (a.eng e).vin = some vin) : execFeedforward t n s = .next (a.ffWrite e n (u.comingPeriod (u.hbCar n)) vin) := by
  simp [execFeedforward, now, engine, up, carrier, mode, running, Nat.not_lt.2 near, period, mode1, unstopped, valid]

theorem execFeedforward_modeError (notMode1 : (u.comingCar (u.hbCar n)).hbMode n ≠ 1) :
    execFeedforward t n s = .next (a.setB (F.LE_FFSTAT_MODEERR e) true) := by
  simp [execFeedforward, now, engine, up, carrier, mode, running, Nat.not_lt.2 near, period, notMode1]

end

/-- Settles O28: each clause is the equation of its case of its event. -/
theorem engineEventsComplete : Obligations.EngineEventsComplete :=
  ⟨fun _ _ _ _ _ _ _ _ now => execSlotStart_works now,
    fun _ _ _ _ _ _ _ now => execSlotStart_halts now,
    fun _ _ _ _ _ _ _ _ now => execSlotStart_stops now,
    fun _ _ _ _ now => execBackgroundWake_wakes now,
    fun _ _ _ _ now => execLateSlot_late now,
    fun _ _ _ _ now => execLeHung_hung now,
    fun _ _ _ _ now => execLeSatExpired_expires now,
    fun _ _ _ _ now => execLeFeExpired_expires now,
    fun _ _ _ _ _ now since up _ reached first => execLeDerateDwell_expires now since up reached first,
    fun _ _ _ _ _ now => execLwaitTimeout_ends now,
    fun _ _ _ _ _ _ _ _ now => execFeedforward_writes now,
    fun _ _ _ _ _ _ _ now => execFeedforward_modeError now⟩

end Sys2Proof.Machine
end

section
/-! The drive requests (R228, R232 to R236, R240, Table 9.3): one equation for each request that is served as `u` and within its conditions. -/

namespace Sys2Proof.Machine
open Sys2Proof

section
variable {r : Req} {s u : State}

/-- DRIVE_ARM of sets that are present and not held, outside SAFE and within the conditions of Table 9.3. -/
theorem execDriveArm_arms (served : admitOp { code := 0x0300, lens := [1] } r s = .served u) (nonempty : r.num 0 1 ≠ 0)
    (present : Nat.land (r.num 0 1) u.setsPresent = r.num 0 1) (notSafe : u.power ≠ pSAFE)
    (free : (bitsList 2 (r.num 0 1)).any (fun k => u.held k) = false) (allowed : u.armRefused (r.num 0 1) = false) :
    execDriveArm r s = .next ((({ u with trc := { u.trc with sets := r.num 0 1, retired := Nat.lor u.trc.retired u.trc.retireDue, retireDue := 0, ascSets := 0, ascLeave := 0, bias := Vector.replicate 2 (0, 0), biasFrom := 0, torqueNow := 0, torqueAt := none, idNow := 0, dRamp := false } }).toD 1).answer (r.ticket 0x0300) stOK []) := by
  have known : ¬(r.num 0 1 = 0 ∨ Nat.land (r.num 0 1) u.setsPresent ≠ r.num 0 1) := by simp only [nonempty, present, ne_eq, not_true, or_self, not_false_eq_true]
  have unheld : ¬((u.power = pSAFE ∧ (u.held 0 || u.held 1) = true) ∨ (bitsList 2 (r.num 0 1)).any (fun k => u.held k) = true) := by
    simp only [notSafe, free, false_and, Bool.false_eq_true, or_self, not_false_eq_true]
  exact serveOp_done served ((if_neg known).trans ((if_neg unheld).trans (if_neg (ne_true_of_eq_false allowed))))

section
variable (served : admitOp { code := 0x0301, lens := [1] } r s = .served u) (mode : r.num 0 1 ≤ 1)
  (free : (bitsList 2 u.setsInUse).any (fun k => u.held k) = false) (armed : u.dstate = 1)
  (live : (bitsList 2 u.trc.sets).all (fun k => bitAt u.trc.retired k) = false) (fresh : u.trc.start = none)
include served mode free armed live fresh

/-- With E above 0.9 VDC the start is case 3 at once (R240). -/
theorem execDriveStart_asc (high : (u.startMode (r.num 0 1 == 1)).vdc * (9 / 10) < (u.startMode (r.num 0 1 == 1)).emfAt (u.getQ F.TRC_SPEED)) :
    execDriveStart r s = .next ((((u.startMode (r.num 0 1 == 1)).flyRecord 3 0 0).enterAsc false).answer (r.ticket 0x0301) stOK
      (startData 3 (u.getQ F.TRC_SPEED))) :=
  serveOp_done served (by simp [Nat.not_lt.2 mode, free, armed, live, fresh, if_pos high, okWith])

/-- With E low listening waits for the next CAR0 period, and the answer for its end (R240, assumption 81). -/
theorem execDriveStart_listens (low : ¬(u.startMode (r.num 0 1 == 1)).vdc * (9 / 10) < (u.startMode (r.num 0 1 == 1)).emfAt (u.getQ F.TRC_SPEED)) :
    execDriveStart r s = .next (((u.startMode (r.num 0 1 == 1)).listen (r.ticket 0x0301)).trimCache (r.ticket 0x0301)) :=
  serveOp_later served (by simp [Nat.not_lt.2 mode, free, armed, live, fresh, if_neg low])

end

section
variable (served : admitOp { code := 0x0302 } r s = .served u)
include served

/-- DRIVE_STOP of a drive that gives torque begins the stop ramp (R236). -/
theorem execDriveStop_ramps (driving : u.dstate = 3 ∨ u.dstate = 5) : execDriveStop r s = .next (u.beginStop.answer (r.ticket 0x0302) stOK []) := by
  refine serveOp_done served ?_
  obtain d | d := driving <;> simp [d, okWith]

/-- With the rotor position lost the stop is what a found position returns to (R253, assumption 248). -/
theorem execDriveStop_lost (lost : u.dstate = 6) : execDriveStop r s =
    .next (({ u with trc := { u.trc with lossFrom := 7, dRamp := u.trc.dRamp && u.trc.lossFrom == 7 } }).answer (r.ticket 0x0302) stOK []) :=
  serveOp_done served (by simp [lost, okWith])

theorem execDriveStop_asc (asc : u.dstate = 4) : execDriveStop r s =
    .next (({ u with trc := { u.trc with ascForStop := true } }).answer (r.ticket 0x0302) stOK []) :=
  serveOp_done served (by simp [asc, okWith])

theorem execDriveStop_listening (listening : u.dstate = 2) : execDriveStop r s =
    .next (((u.toD 1).answerStart stStateRefused []).answer (r.ticket 0x0302) stOK []) :=
  serveOp_done served (by simp [listening, okWith])

theorem execDriveStop_still (still : u.dstate = 0 ∨ u.dstate = 1 ∨ u.dstate = 7) : execDriveStop r s =
    .next (u.answer (r.ticket 0x0302) stOK []) := by
  refine serveOp_done served ?_
  obtain d | d | d := still <;> simp [d, okWith]

end

/-- TORQUE_SET within TMAX, of a drive that is armed and not held (R232). -/
theorem execTorqueSet_taken (served : admitOp { code := 0x0303, lens := [8] } r s = .served u) (finite : F32.isFinite (r.fl 0) = true)
    (bounded : ¬ u.getQ F.TRC_TMAX < absRat (F32.toRat (r.fl 0))) (ramp : posFinite (r.fl 4) = true) (armed : u.dstate ≠ 0) (unheld : u.dstate ≠ 8) :
    execTorqueSet r s = .next (({ u with trc := { u.trc with torque := r.fl 0, ramp := r.fl 4 } }).answer (r.ticket 0x0303) stOK (beBytes 4 (u.getF F.TRC_TLIM))) :=
  serveOp_done served (by simp only [finite, decide_eq_false bounded, ramp, armed, unheld]; rfl)

theorem execSpeedLimitSet_taken (served : admitOp { code := 0x0304, lens := [8] } r s = .served u) (forward : u.speedLimitOk (r.fl 0) = true)
    (reverse : u.speedLimitOk (r.fl 4) = true) :
    execSpeedLimitSet r s = .next (({ u with trc := { u.trc with fwdLimit := some (r.fl 0), revLimit := some (r.fl 4) } }).answer (r.ticket 0x0304) stOK []) :=
  serveOp_done served (by simp only [forward, reverse]; rfl)

section
variable (served : admitOp { code := 0x0305 } r s = .served u)
include served

/-- DRIVE_DISARM of an armed drive answers a DRIVE_START that still waits (Table 9.3). -/
theorem execDriveDisarm_armed (armed : u.dstate = 1) : execDriveDisarm r s =
    .next ((((({ u with trc := { u.trc with sets := 0 } }).toD 0).setB F.TRC_STAT_HALFAXLE false).answerStart stStateRefused []).answer (r.ticket 0x0305) stOK []) :=
  serveOp_done served (by simp only [armed]; rfl)

theorem execDriveDisarm_disarmed (off : u.dstate = 0) : execDriveDisarm r s = .next (u.answer (r.ticket 0x0305) stOK []) :=
  serveOp_done served (by simp only [off]; rfl)

end

end

/-- Settles O15: each clause is the equation of its request, served within its conditions. -/
theorem driveRequestsComplete : Obligations.DriveRequestsComplete :=
  ⟨fun _ _ _ => execDriveArm_arms,
    fun _ _ _ => execDriveStart_asc,
    fun _ _ _ => execDriveStart_listens,
    fun _ _ _ => execDriveStop_ramps,
    fun _ _ _ => execDriveStop_lost,
    fun _ _ _ => execDriveStop_asc,
    fun _ _ _ => execDriveStop_listening,
    fun _ _ _ => execDriveStop_still,
    fun _ _ _ => execTorqueSet_taken,
    fun _ _ _ => execSpeedLimitSet_taken,
    fun _ _ _ => execDriveDisarm_armed,
    fun _ _ _ => execDriveDisarm_disarmed⟩

end Sys2Proof.Machine
end

section
/-! The drive events (R236 to R247, R254): one equation for the case of each event that acts, `u` being the state at the event. -/

namespace Sys2Proof.Machine
open Sys2Proof

section
variable {t x c tex : Nat} {m : ListenMeas} {n : Rat} {diff : Option Rat} {pulled : Bool} {s u v : State} (now : s.advance t = u)
include now

section
variable (up : u.mainUp = true)
include up

section
variable (listening : u.dstate = 2)
include listening

/-- A back-EMF or a current that ends listening early is case 3 (R240). -/
theorem execListenEnd_cut (cut : u.listenCut m = true) (heard : u.listened m = (n, diff)) :
    execListenEnd t m s = .next (((u.flyRecord 3 ((u.now - u.trc.listenAt) / 6400) (diff.getD 0)).enterAsc false).answerStart stOK (startData 3 n)) := by
  simp [execListenEnd, now, up, listening, cut, heard]

section
variable (uncut : u.listenCut m = false) (ended : u.trc.listenAt + u.trc.listenFor ≤ u.now) (heard : u.listened m = (n, diff))
include uncut ended heard

theorem execListenEnd_starts (decided : startDecision (u.getQ F.TRC_RATED) n diff u.dirForward = .case c) :
    execListenEnd t m s = .next ((((u.flyRecord c ((u.now - u.trc.listenAt) / 6400) (diff.getD 0)).presetSets c n m.eMeas).startCase c).answerStart
      stOK (startData c n)) := by
  simp [execListenEnd, now, up, listening, uncut, State.elapsed_of_le ended, heard, decided]

theorem execListenEnd_disagrees (decided : startDecision (u.getQ F.TRC_RATED) n diff u.dirForward = .disagree) :
    execListenEnd t m s = .next (((((u.toD 1).flyRecord 5 ((u.now - u.trc.listenAt) / 6400) (diff.getD 0)).event F.TRC_EVT_DISAGREE).raise
      Flt.TRC_START_DISAGREE { stages := u.trc.sets }).answerStart stStateRefused []) := by
  simp [execListenEnd, now, up, listening, uncut, State.elapsed_of_le ended, heard, decided]

theorem execListenEnd_refusesReverse (decided : startDecision (u.getQ F.TRC_RATED) n diff u.dirForward = .reverse) :
    execListenEnd t m s = .next (((((u.toD 1).flyRecord 4 ((u.now - u.trc.listenAt) / 6400) (diff.getD 0)).event F.TRC_EVT_REVERSE).raise
      Flt.TRC_REVERSE_REFUSED { stages := u.trc.sets }).answerStart stReverseTooFast []) := by
  simp [execListenEnd, now, up, listening, uncut, State.elapsed_of_le ended, heard, decided]

end

end

/-- The torque of a stop at zero: operational ASC, the end of switching, or the d-axis ramp (R236). -/
theorem execStopRampEnd_zero (stopping : u.dstate = 7) (zero : u.trc.torqueNow = 0) :
    execStopRampEnd t s = .next (if !u.trc.dRamp && u.emfHigh then u.enterAsc true else if u.stopRamped then (u.toD 1).stopSets
      else { u with trc := { u.trc with dRamp := true } }) := by
  simp only [execStopRampEnd, now, up, stopping, zero, beq_self_eq_true, bne_self_eq_false, Bool.not_true, Bool.or_self,
    Bool.false_eq_true, if_false, apply_ite Host.Outcome.next]

theorem execTrcBrakeAbort_zero (braking : u.dstate = 3) (since : u.trc.brakeZeroSince = some x) (long : x + 500 * ticksPerMs ≤ u.now) :
    execTrcBrakeAbort t s = .next (((u.event F.TRC_EVT_BRAKE_ABORT).raise Flt.TRC_BRAKE_ABORT { stages := u.trc.sets }).beginStop) := by
  simp [execTrcBrakeAbort, now, up, braking, since, State.elapsed_of_le long]

/-- BRAKE_S has passed with the rotor not yet slow (R243). -/
theorem execTrcBrakeAbort_timeout (braking : u.dstate = 3) (long : u.trc.brakeAt + u.getF F.TRC_FLY_BRAKE_S * 100 * ticksPerMs ≤ u.now)
    (turning : u.getQ F.TRC_RATED / 100 ≤ absRat (u.getQ F.TRC_SPEED)) :
    execTrcBrakeAbort t s = .next (((u.event F.TRC_EVT_BRAKE_ABORT).raise Flt.TRC_BRAKE_ABORT { stages := u.trc.sets }).beginStop) := by
  simp [execTrcBrakeAbort, now, up, braking, State.elapsed_of_le long, turning]

theorem execTrcRotorLost_declared (lost : u.dstate = 6) (long : u.trc.lossAt + 20 * ticksPerMs ≤ u.now) :
    execTrcRotorLost t s = .next ((u.setQ F.TRC_EMF (maxRat (u.emfAt u.trc.nLoss) (if u.getB F.TRC_STAT_OBS_VALID then u.emfAt u.trc.nObs else 0))).raise
      Flt.TRC_ROTOR_LOST { stages := 3 }) := by
  simp [execTrcRotorLost, now, up, lost, State.elapsed_of_le long]

theorem execBrakeStandstill_stands (since : u.trc.slowSince = some x) (braking : u.dstate = 3) (long : x + 50 * ticksPerMs ≤ u.now) :
    execBrakeStandstill t s = .next (u.toD 5) := by
  simp [execBrakeStandstill, now, up, since, braking, State.elapsed_of_le long]

end

/-- The generator keeps a period in force that it need not pull, and takes any other (R247). -/
theorem execExcRetime_follows (up : u.mainUp = true) (rule : excRule u.texNom (u.car 0).eff = (tex, pulled)) :
    execExcRetime t s = .next ((if tex = u.getF F.TRC_EXC && (!pulled || u.getB F.TRC_STAT_EXC_PULLED) then u else u.retime tex pulled).setB
      F.TRC_STAT_EXC_PULLED pulled) := by
  simp only [execExcRetime, now, up, rule, Bool.not_true, Bool.false_eq_true, if_false]

section
variable (since : u.trc.ascLowSince = some x) (up : u.mainUp = true) (asc : u.dstate = 4) (long : x + 100 * ticksPerMs ≤ u.now)
  (left : u.leaveAsc = v)
include since up asc long left

theorem execAscExit_stops (forStop : v.trc.ascForStop = true) : execAscExit t s = .next v.stopFromAsc := by
  simp [execAscExit, now, since, up, asc, State.elapsed_of_le long, left, forStop]

section
variable (forDrive : v.trc.ascForStop = false)
include forDrive

theorem execAscExit_starts (decided : startDecision (v.getQ F.TRC_RATED) (v.getQ F.TRC_SPEED) none v.dirForward = .case c) :
    execAscExit t s = .next (v.startCase c) := by
  simp [execAscExit, now, since, up, asc, State.elapsed_of_le long, left, forDrive, decided]

theorem execAscExit_refusesReverse (decided : startDecision (v.getQ F.TRC_RATED) (v.getQ F.TRC_SPEED) none v.dirForward = .reverse) :
    execAscExit t s = .next ((v.stopFromAsc.event F.TRC_EVT_REVERSE).raise Flt.TRC_REVERSE_REFUSED { stages := v.trc.sets }) := by
  simp [execAscExit, now, since, up, asc, State.elapsed_of_le long, left, forDrive, decided]

end

end

end

/-- Settles O16: each clause is the equation of its case of its event. -/
theorem driveEventsComplete : Obligations.DriveEventsComplete :=
  ⟨fun _ _ _ _ _ _ => execListenEnd_cut,
    fun _ _ _ _ _ _ _ => execListenEnd_starts,
    fun _ _ _ _ _ _ => execListenEnd_disagrees,
    fun _ _ _ _ _ _ => execListenEnd_refusesReverse,
    fun _ _ _ => execStopRampEnd_zero,
    fun _ _ _ _ _ => execAscExit_stops,
    fun _ _ _ _ _ _ => execAscExit_starts,
    fun _ _ _ _ _ => execAscExit_refusesReverse,
    fun _ _ _ _ => execBrakeStandstill_stands,
    fun _ _ _ _ => execTrcBrakeAbort_zero,
    fun _ _ _ => execTrcBrakeAbort_timeout,
    fun _ _ _ => execTrcRotorLost_declared,
    fun _ _ _ _ _ => execExcRetime_follows⟩

end Sys2Proof.Machine
end

section
/-! The safe-state commands of the safety processor and the Slate (R256 to R261, R394, R398, R408, R412): one equation for the case of each event that acts, `u` being the state at the event. -/

namespace Sys2Proof.Machine
open Sys2Proof

section
variable {t st x : Nat} {stage : Fin 9} {stages : BitVec 9} {setB : Bool} {s u : State} (now : s.advance t = u)
include now

section
variable (up : u.mainUp = true) (present : u.getB F.SLT_STAT_SP_LOST = false) (bridged : (u.hbsOf stage).isEmpty = false)
include up present bridged

theorem execSafeStateRequest_other (other : 2 ≤ stage.val) :
    execSafeStateRequest t stage s = .next ((u.applySafe stage (if bitAt u.slt.classA stage then 1 else u.bChoice stage)).showModes) := by
  simp only [execSafeStateRequest, now, up, present, bridged, Bool.not_true, Bool.or_self, Bool.false_eq_true, if_false, if_neg (Nat.not_le.2 other)]

/-- A traction set settles its partner too (R260, R261). -/
theorem execSafeStateRequest_traction (traction : stage.val ≤ 1) : execSafeStateRequest t stage s =
    .next (((u.applySafe stage (if bitAt u.slt.classA stage then 1 else u.bChoice stage)).showModes.partner stage).showModes) := by
  simp only [execSafeStateRequest, now, up, present, bridged, Bool.not_true, Bool.or_self, Bool.false_eq_true, if_false, if_pos traction]

end

theorem execSafeStateConfirm_present (present : u.getB F.SLT_STAT_SP_LOST = false) :
    execSafeStateConfirm t stages s = .next ((bitsList 9 stages.toNat).foldl (fun (x : State) st =>
      if x.held st then { x with slt := { x.slt with timer := vset x.slt.timer st none, want := vset x.slt.want st 0 } } else x) u) := by
  simp only [execSafeStateConfirm, now, present, Bool.false_eq_true, if_false]

/-- With timers run out the Slate acts alone on their stages (R398, R408). -/
theorem execSltBOverrun_overdue (up : u.mainUp = true) (late : u.overdue ≠ 0) :
    execSltBOverrun t s = .next ((((u.event F.SLT_EVT_OVERRUN).raise Flt.SLT_B_OVERRUN { stages := u.overdue }).slateAlone u.overdue).showModes) := by
  simp only [execSltBOverrun, now, up, bne_iff_ne.2 late, Bool.and_self, if_true]

/-- An ASC of class B without a short-circuit record goes to all gates off after 1 s of low back-EMF (R258). -/
theorem execSpAscRelease_low (chosen : (if setB then 1 else 0) = st) (up : u.mainUp = true)
    (present : u.getB F.SLT_STAT_SP_LOST = false) (asc : u.ascOn st = true) (classB : bitAt u.slt.classA st = false)
    (noLow : bitAt u.slt.scLow st = false) (noHigh : bitAt u.slt.scHigh st = false) (since : u.slt.lowEmfSince = some x)
    (long : x + ticksPerS ≤ u.now) : execSpAscRelease t setB s = .next ((u.setKind st 1).showSafe) := by
  simp only [execSpAscRelease, now, chosen, up, present, asc, classB, noLow, noHigh, since, State.elapsed_of_le long, Bool.not_false, Bool.and_self, if_true]

theorem execSpHoldRelease_ends (up : u.mainUp = true) (allowed : u.mayRelease stage = true) :
    execSpHoldRelease t stage s = .next ((u.endHold stage).leaveSafe) := by
  simp only [execSpHoldRelease, now, up, allowed, Bool.and_self, if_true]

end

/-- Settles O19: each clause is the equation of its case of its event. -/
theorem safeStateEventsComplete : Obligations.SafeStateEventsComplete :=
  ⟨fun _ _ _ _ => execSafeStateRequest_other,
    fun _ _ _ _ => execSafeStateRequest_traction,
    fun _ _ _ _ => execSafeStateConfirm_present,
    fun _ _ _ => execSltBOverrun_overdue,
    fun _ _ _ _ _ _ => execSpAscRelease_low,
    fun _ _ _ _ => execSpHoldRelease_ends⟩

end Sys2Proof.Machine
end

section
/-! DRVEN low (R284). The block of every gate ends, beside the bars of R283, the state in which a running half-bridge's edges leave its channels at the end of the period. -/

namespace Sys2Proof.Machine
open Sys2Proof

/-- A half-bridge under the block of both its channels: off at the end of the period too, and barred until the next (R283). -/
def HbState.blocked (x : HbState) : HbState := { x with bar0 := true, bar1 := true, endHi := false, endLo := false }

section
variable {s : State} {h k : Nat}

theorem State.hb_setHb_same {x : HbState} (inside : h < 32) : (s.setHb h x).hb h = x := vget_vset_same inside

theorem State.hb_setHb_ne {x : HbState} (other : k ≠ h) : (s.setHb h x).hb k = s.hb k := vget_vset_ne other

/-- Soundness speaks of a half-bridge through its register words alone. -/
theorem State.Sound.setHb {x : HbState} (sound : s.Sound) : (s.setHb h x).Sound :=
  ⟨sound.sessions, sound.caches, sound.recs, sound.fifo, sound.held, State.canonical_setF sound.regs _ _⟩

/-- A turn-off by the Slate is a change of the gate unit. -/
theorem State.chOff_bat (ch : Nat) : (s.chOff ch).bat = s.bat := by
  unfold State.chOff
  split <;> rfl

theorem State.hb_gatesOff : (s.gatesOff h).hb k = s.hb k := by
  rw [State.hb, State.gatesOff, State.chOff_bat, State.chOff_bat, State.hb]

theorem State.bar_high : s.bar (2 * h) = s.setHb h { s.hb h with bar0 := true, endHi := false } := by
  simp [State.bar]

theorem State.bar_low : s.bar (2 * h + 1) = s.setHb h { s.hb h with bar1 := true, endLo := false } := by
  have half : (2 * h + 1) / 2 = h := by omega
  simp [State.bar, half, Nat.add_mod]

/-- What `blockAll` does at one half-bridge. -/
def State.blockHb (s : State) (h : Nat) : State := ((s.gatesOff h).bar (2 * h)).bar (2 * h + 1)

theorem State.hb_blockHb_same (inside : h < 32) : (s.blockHb h).hb h = (s.hb h).blocked := by
  rw [State.blockHb, State.bar_low, State.hb_setHb_same inside, State.bar_high, State.hb_setHb_same inside, State.hb_gatesOff, HbState.blocked]

theorem State.hb_blockHb_ne (other : k ≠ h) : (s.blockHb h).hb k = s.hb k := by
  rw [State.blockHb, State.bar_low, State.hb_setHb_ne other, State.bar_high, State.hb_setHb_ne other, State.hb_gatesOff]

theorem State.hb_foldl_blockHb (inside : k < 32) (l : List Nat) :
    (l.foldl State.blockHb s).hb k = if k ∈ l then (s.hb k).blocked else s.hb k := by
  induction l generalizing s with
  | nil => rfl
  | cons h l ih =>
    rw [List.foldl_cons, ih]
    obtain rfl | other := eq_or_ne k h
    · rw [State.hb_blockHb_same inside, if_pos List.mem_cons_self]
      exact ite_self _
    · simp only [State.hb_blockHb_ne other, List.mem_cons, other, false_or]

theorem State.hb_blockAll (inside : k < 32) : s.blockAll.hb k = (s.hb k).blocked :=
  (State.hb_foldl_blockHb inside _).trans (if_pos (List.mem_range.2 inside))

theorem State.foldl_bat {α : Type} {f : State → α → State} (keeps : ∀ x a, (f x a).bat = x.bat) (l : List α) (s : State) :
    (l.foldl f s).bat = s.bat := by
  induction l generalizing s with
  | nil => rfl
  | cons a l ih => rw [List.foldl_cons, ih, keeps]

theorem State.ascTurnOn_bat (ch : Nat) : (s.ascTurnOn ch).bat = s.bat := by
  unfold State.ascTurnOn
  dsimp only
  split <;> rfl

theorem State.ascTurnOff_bat (ch : Nat) : (s.ascTurnOff ch).bat = s.bat := rfl

/-- The safe state of a stage lies with the Slate and the gate unit (R13). -/
theorem State.setKind_bat (st kind : Nat) : (s.setKind st kind).bat = s.bat := by
  unfold State.setKind
  dsimp only
  split
  · rfl
  · rw [State.foldl_bat fun _ _ => State.ascTurnOn_bat _, State.foldl_bat fun _ _ => State.ascTurnOff_bat _]

theorem State.releaseAsc_bat : s.releaseAsc.bat = s.bat := by
  refine State.foldl_bat (fun x st => ?_) [0, 1] s
  split
  · exact State.setKind_bat st 1
  · rfl

/-- After DRVEN low every half-bridge is blocked. -/
theorem State.hb_drvenDrops (inside : k < 32) : s.drvenDrops.hb k = (s.hb k).blocked := by
  rw [State.drvenDrops, State.hb, State.releaseAsc_bat]
  exact State.hb_blockAll inside

end

/-- The state after reset, with half-bridge 0 in a period whose edges leave its high side on. -/
def State.highSideStaysOn : State := State.reset.setHb 0 { State.reset.hb 0 with endHi := true }

/-- Refutes O52: the block also ends `endHi` and `endLo` of each half-bridge, so that one whose high side was to be on at the end of its period differs by more than its bars. -/
theorem not_drvenLowBlocksGates : ¬ Obligations.DrvenLowBlocksGates := by
  unfold Obligations.DrvenLowBlocksGates
  intro holds
  obtain ⟨resetSound, -, -⟩ := resetIsSound
  obtain ⟨-, -, -, bars, -⟩ := holds State.highSideStaysOn 0 0 resetSound.setHb
  have first : 0 < 32 := by decide
  have kept : (State.highSideStaysOn.hb 0).blocked.endHi = (State.highSideStaysOn.hb 0).endHi := by
    rw [← State.hb_drvenDrops first, bars 0 first]
  rw [State.highSideStaysOn, State.hb_setHb_same first] at kept
  exact Bool.false_ne_true kept

end Sys2Proof.Machine
end

section
/-! The actuator requests and FAULT_ACK (R281, R354, R356, R359, R361, R363, R415, Tables 13.3 and 13.4): one equation for each request that is served as `u` and within its conditions. -/

namespace Sys2Proof.Machine
open Sys2Proof

section
variable {r : Req} {s u : State}

/-- SHIFT_TO of a position that is configured, with a time limit, while stage 7 is free and nothing is against a shift. -/
theorem execShiftTo_begins (served : admitOp { code := 0x0600, lens := [3] } r s = .served u) (configured : r.num 0 1 < u.getF F.ACT_CFG_NPOS)
    (listed : r.num 0 1 < 8) (finite : F32.isFinite (u.getFl (F.ACT_POS (r.num 0 1))) = true) (limited : r.num 1 2 ≠ 0) (free : u.held 7 = false)
    (allowed : u.shiftRefused = false) :
    execShiftTo r s = .next ((u.beginShift (r.num 0 1) (r.num 1 2)).answer (r.ticket 0x0600) stDeferred []) :=
  serveOp_done served (by simp [Nat.not_le.2 configured, Nat.not_le.2 listed, finite, limited, free, allowed])

/-- ACT_HOME of an actuator at rest whose stage is free. -/
theorem execActHome_begins (served : admitOp { code := 0x0603, lens := [1] } r s = .served u) (actuator : r.num 0 1 ≤ 1)
    (free : u.held (actStage (r.num 0 1 == 1)) = false) (allowed : u.homeRefused (r.num 0 1 == 1) = false) :
    execActHome r s = .next ((u.beginHome (r.num 0 1 == 1)).answer (r.ticket 0x0603) stDeferred []) :=
  serveOp_done served ((if_neg (Nat.not_lt.2 actuator)).trans
    ((if_neg (ne_true_of_eq_false free)).trans (if_neg (ne_true_of_eq_false allowed))))

section
variable (served : admitOp { code := 0x0601 } r s = .served u) (free : u.held 8 = false) (fit : u.actRefused true = false) (slow : u.tooFast = false)
include served free fit slow

/-- PARK_ENGAGE of a pawl that is engaged already. -/
theorem execParkEngage_engaged (engaged : u.pstate = 3) : execParkEngage r s = .next (u.answer (r.ticket 0x0601) stOK []) :=
  serveOp_done served (by simp [free, fit, slow, engaged, okWith])

/-- From UNKNOWN, RELEASED and RELEASING the pawl moves (Table 13.4). -/
theorem execParkEngage_moves (apart : u.pstate = 0 ∨ u.pstate = 1 ∨ u.pstate = 4) (noRetry : u.park.retry = false) :
    execParkEngage r s = .next ((u.movePawl 1).answer (r.ticket 0x0601) stDeferred []) := by
  refine serveOp_done served ?_
  obtain p | p | p := apart <;> simp [free, fit, slow, p, noRetry]

/-- In ENGAGING and BLOCKED the motion that runs goes on (Table 13.4). -/
theorem execParkEngage_runs (engaging : u.pstate = 2 ∨ u.pstate = 5) (noRetry : u.park.retry = false) :
    execParkEngage r s = .next (u.answer (r.ticket 0x0601) stDeferred []) := by
  refine serveOp_done served ?_
  obtain p | p := engaging <;> simp [free, fit, slow, p, noRetry]

/-- A retry outstanding takes the new target (Table 13.4). -/
theorem execParkEngage_retargets (standing : u.pstate ≠ 3 ∧ u.pstate ≠ 7) (retry : u.pstate = 6 ∨ u.park.retry = true) :
    execParkEngage r s = .next (({ u with park := { u.park with target := 1 } }).answer (r.ticket 0x0601) stDeferred []) := by
  refine serveOp_done served ?_
  obtain locked | waits := retry
  · simp [free, fit, slow, locked]
  · simp [free, fit, slow, standing, waits]

end

section
variable (served : admitOp { code := 0x0602 } r s = .served u) (free : u.held 8 = false) (fit : u.actRefused true = false)
include served free fit

/-- PARK_RELEASE of a pawl that is released already. -/
theorem execParkRelease_released (released : u.pstate = 1) : execParkRelease r s = .next (u.answer (r.ticket 0x0602) stOK []) :=
  serveOp_done served (by simp [free, fit, released, okWith])

/-- From UNKNOWN, ENGAGING, ENGAGED and BLOCKED, and from a homing, the pawl moves (Table 13.4). -/
theorem execParkRelease_moves (apart : u.pstate = 0 ∨ u.pstate = 2 ∨ u.pstate = 3 ∨ u.pstate = 5 ∨ (u.pstate = 4 ∧ u.park.kind ≠ 1))
    (noRetry : u.park.retry = false) : execParkRelease r s = .next ((u.movePawl 0).answer (r.ticket 0x0602) stDeferred []) := by
  refine serveOp_done served ?_
  obtain p | p | p | p | ⟨p, homing⟩ := apart
  iterate 4 simp [free, fit, p, noRetry]
  simp [free, fit, p, homing, noRetry]

/-- A release that runs goes on (Table 13.4). -/
theorem execParkRelease_runs (releasing : u.pstate = 4) (moving : u.park.kind = 1) (noRetry : u.park.retry = false) :
    execParkRelease r s = .next (u.answer (r.ticket 0x0602) stDeferred []) :=
  serveOp_done served (by simp [free, fit, releasing, moving, noRetry])

/-- A retry outstanding takes the new target (Table 13.4). -/
theorem execParkRelease_retargets (standing : u.pstate ≠ 1 ∧ u.pstate ≠ 7) (retry : u.pstate = 6 ∨ u.park.retry = true) :
    execParkRelease r s = .next (({ u with park := { u.park with target := 0 } }).answer (r.ticket 0x0602) stDeferred []) := by
  refine serveOp_done served ?_
  obtain locked | waits := retry
  · simp [free, fit, locked]
  · simp [free, fit, standing, waits]

end

/-- FAULT_ACK up to a record that exists, with the cause of every covered latch gone (R281, R359, R415). -/
theorem execFaultAck_acknowledges (served : admitOp { code := 0x0902, lens := [2] } r s = .served u)
    (known : idxNewer (r.num 0 2) (u.getF F.SLT_LOGIDX_NEWEST) = false)
    (quiet : (u.gate.latches.filter fun l => u.coversLatch (r.num 0 2) l && u.causeActive l).isEmpty = true) :
    execFaultAck r s = .next (((u.ackTo (r.num 0 2)).actRelease (u.coveredSerials (r.num 0 2))).answer (r.ticket 0x0902) stOK []) :=
  serveOp_done served (by simp only [known, quiet]; rfl)

end

/-- Settles O25: each clause is the equation of its request, served within its conditions. -/
theorem actuatorRequestsComplete : Obligations.ActuatorRequestsComplete :=
  ⟨fun _ _ _ => execShiftTo_begins,
    fun _ _ _ => execActHome_begins,
    fun _ _ _ => execParkEngage_engaged,
    fun _ _ _ => execParkEngage_moves,
    fun _ _ _ => execParkEngage_runs,
    fun _ _ _ => execParkEngage_retargets,
    fun _ _ _ => execParkRelease_released,
    fun _ _ _ => execParkRelease_moves,
    fun _ _ _ => execParkRelease_runs,
    fun _ _ _ => execParkRelease_retargets,
    fun _ _ _ => execFaultAck_acknowledges⟩

end Sys2Proof.Machine
end

section
/-! The charger requests (R292, R300, R302, R308, Tables 11.6 and 11.7): one equation for each request that is served as `u` and within its conditions. -/

namespace Sys2Proof.Machine
open Sys2Proof

section
variable {r : Req} {s u : State}

/-- CHG_SESSION_BEGIN with its operands in their ranges, both charger stages free, and nothing against a session. -/
theorem execChgSessionBegin_opens (served : admitOp { code := 0x0400, lens := [6] } r s = .served u) (phases : r.num 0 1 = 1 ∨ r.num 0 1 = 3)
    (exports : r.num 1 1 ≤ 1) (limit : posFinite (r.fl 2) = true) (free3 : u.held 3 = false) (free4 : u.held 4 = false) (allowed : u.beginRefused = false) :
    execChgSessionBegin r s = .next ((u.beginSession (r.num 0 1) (r.num 1 1 == 1) (r.fl 2)).answer (r.ticket 0x0400) stOK []) := by
  have valid : ¬ ((r.num 0 1 ≠ 1 ∧ r.num 0 1 ≠ 3) ∨ 1 < r.num 1 1 ∨ (!posFinite (r.fl 2)) = true) := by
    rw [limit]
    simp only [Bool.not_true, Bool.false_eq_true, or_false]
    omega
  have free : ¬ (u.held 3 || u.held 4) = true := by simp [free3, free4]
  exact serveOp_done served ((if_neg valid).trans ((if_neg free).trans (if_neg (ne_true_of_eq_false allowed))))

/-- CHG_SET in a session, within the limits of import and export. -/
theorem execChgSet_sets (served : admitOp { code := 0x0401, lens := [8] } r s = .served u) (finite : F32.isFinite (r.fl 0) = true)
    (limit : posFinite (r.fl 4) = true) (import_ : F32.toRat (r.fl 0) ≤ u.getQ F.CHG_IMPORT_MAX) (export_ : -(u.getQ F.CHG_EXPORT_MAX) ≤ F32.toRat (r.fl 0))
    (session : u.cstate ≠ 0)
    (allowed : 0 ≤ F32.toRat (r.fl 0) ∨ (u.chg.exportOk = true ∧ u.getB F.CHG_CFG_EXPORT_EN = true ∧ u.getB F.CHG_STAT_FALLBACK = false)) :
    execChgSet r s = .next ((({ u with chg := { u.chg with setTarget := r.fl 0, battLimit := r.fl 4 } }.setFl F.CHG_TARGET (r.fl 0)).followTarget).answer
      (r.ticket 0x0401) stOK []) := by
  have valid : ¬ (!F32.isFinite (r.fl 0) || !posFinite (r.fl 4) || decide (u.getQ F.CHG_IMPORT_MAX < F32.toRat (r.fl 0))
      || decide (F32.toRat (r.fl 0) < -(u.getQ F.CHG_EXPORT_MAX))) = true := by
    simp [finite, limit, import_, export_]
  have permitted : ¬ (F32.toRat (r.fl 0) < 0 ∧ (!u.chg.exportOk || !u.getB F.CHG_CFG_EXPORT_EN || u.getB F.CHG_STAT_FALLBACK) = true) := by
    rintro ⟨exporting, refused⟩
    obtain importing | ⟨ok, enabled, noFallback⟩ := allowed
    · exact absurd exporting (not_lt.2 importing)
    · simp [ok, enabled, noFallback] at refused
  exact serveOp_done served ((if_neg valid).trans ((if_neg session).trans (if_neg permitted)))

section
variable (served : admitOp { code := 0x0402, background := true } r s = .served u) (session : u.cstate ≠ 0)
include served session

/-- CHG_SESSION_END with nothing switching, or at no power, stops at once. -/
theorem execChgSessionEnd_stops (still : u.chgSwitching = false ∨ u.rampPower = 0) :
    execChgSessionEnd r s = .next (({ u with chg := { u.chg with endTickets := u.chg.endTickets ++ [r.ticket 0x0402] } }.chgStop 1).trimCache
      (r.ticket 0x0402)) := by
  have atOnce : (!u.chgSwitching || decide (u.rampPower = 0)) = true := by simpa using still
  exact serveOp_later served ((if_neg session).trans (if_pos atOnce))

/-- CHG_SESSION_END under power ramps to zero first. -/
theorem execChgSessionEnd_ramps (switching : u.chgSwitching = true) (power : u.rampPower ≠ 0) :
    execChgSessionEnd r s = .next (({ u with chg := { u.chg with endTickets := u.chg.endTickets ++ [r.ticket 0x0402] } }.rampZero
      (u.getQ F.CHG_RAMP) 1).trimCache (r.ticket 0x0402)) := by
  have later : ¬ (!u.chgSwitching || decide (u.rampPower = 0)) = true := by simp [switching, power]
  exact serveOp_later served ((if_neg session).trans (if_neg later))

end

theorem execPilotStatus_reads (served : admitOp { code := 0x0403 } r s = .served u) :
    execPilotStatus r s = .next (u.answer (r.ticket 0x0403) stOK u.pilotData) :=
  serveOp_done served rfl

end

/-- Settles O21: each clause is the equation of its request, served within its conditions. -/
theorem chargerRequestsComplete : Obligations.ChargerRequestsComplete :=
  ⟨fun _ _ _ => execChgSessionBegin_opens,
    fun _ _ _ => execChgSet_sets,
    fun _ _ _ => execChgSessionEnd_stops,
    fun _ _ _ => execChgSessionEnd_ramps,
    fun _ _ _ => execPilotStatus_reads⟩

end Sys2Proof.Machine
end

section
/-! The charger events (R295 to R313, Table 11.8): one equation for the case of each event that acts, `u` being the state at the event. -/

namespace Sys2Proof.Machine
open Sys2Proof

section
variable {t c held run i e : Nat} {n : Fin 8} {ohm : Option Nat} {vpfc peak vbat : Rat} {m : GridMeas} {intact : Bool} {s u a : State} (now : s.advance t = u)
include now

/-- From SLEEP on a sample of PP is counted; a class seen 3 times is taken, and one that the main die does not show is shown (R297). -/
theorem execPpSample_counts (awake : 2 ≤ u.power) (counted : u.countPp ohm = a) :
    execPpSample t ohm s = .next (if 3 ≤ a.pwr.ppRun && ppClassOf ohm != a.pwr.ppClass then
      ((({ a with pwr := { a.pwr with ppClass := ppClassOf ohm } }).takeClass (ppClassOf ohm)).wake 3).showIlim
      else if 3 ≤ a.pwr.ppRun && a.mainUp && ppClassOf ohm != a.getF F.CHG_PP_CLASS then (a.takeClass (ppClassOf ohm)).showIlim else a) := by
  simp only [execPpSample, now, counted, if_neg (Nat.not_lt.2 awake), apply_ite Host.Outcome.next]

theorem execWitnessEnergy_due (due : u.witnessDue 2 = true) (imported : floorNat u.chg.imp - u.wit.impSent = i)
    (exported : floorNat u.chg.exp - u.wit.expSent = e) :
    execWitnessEnergy t intact s = .next (witnessFrame 2 (beBytes 4 i ++ beBytes 4 e ++ beBytes 1 (if u.wit.fineMissed then 0 else 1)) intact
      (fun gap v => v.witnessTaken i e (gap || u.wit.fineMissed))
      { u with wit := { u.wit with impSent := floorNat u.chg.imp, expSent := floorNat u.chg.exp, fineMissed := false } }) := by
  subst imported exported
  simp only [execWitnessEnergy, now, due, Bool.not_true, Bool.false_eq_true, if_false]

section
variable (up : u.mainUp = true)
include up

theorem execPilotEvaluation_up {highMv lowMv : Int} {osc : Bool} {duty : Vector Nat 8} :
    execPilotEvaluation t highMv lowMv osc duty s = .next ((((u.showPilot highMv lowMv osc (pilotDuty duty)).countPilot
      (pilotState highMv lowMv osc)).pilotEffects (u.getF F.CHG_PILOT_STATE)).showIlim) := by
  simp only [execPilotEvaluation, now, up, Bool.not_true, Bool.false_eq_true, if_false]

/-- A grid fit for QUAL_MS qualifies in WAIT and in a pause without switching (R301). -/
theorem execGridQualified_fit (waiting : u.cstate = 1 ∨ (u.cstate = 4 ∧ u.chgSwitching = false)) (fit : u.gridFit m = true)
    (long : u.getF F.CHG_QUAL * ticksPerMs ≤ m.held) : execGridQualified t m s = .next (u.setB F.CHG_STAT_QUALIFIED true).chgSettle := by
  obtain state | ⟨state, still⟩ := waiting
  · simp [execGridQualified, now, up, fit, long, state]
  · simp [execGridQualified, now, up, fit, long, state, still]

/-- An unfit grid takes the qualification back (assumption 205). -/
theorem execGridQualified_unfit (waiting : u.cstate = 1 ∨ u.cstate = 2 ∨ (u.cstate = 4 ∧ u.chgSwitching = false)) (unfit : u.gridFit m = false) :
    execGridQualified t m s = .next (u.setB F.CHG_STAT_QUALIFIED false).chgSettle := by
  obtain state | state | ⟨state, still⟩ := waiting
  · simp [execGridQualified, now, up, unfit, state]
  · simp [execGridQualified, now, up, unfit, state]
  · simp [execGridQualified, now, up, unfit, state, still]

theorem execVpfcPrecharged_ready (ready : u.cstate = 2) (qualified : u.getB F.CHG_STAT_QUALIFIED = true)
    (above : peak * (95 / 100) < vpfc) (long : 100 * ticksPerMs ≤ held) :
    execVpfcPrecharged t vpfc peak held s = .next (u.setB F.CHG_STAT_PRECHARGED true) := by
  simp only [execVpfcPrecharged, now, up, ready, qualified, above, long, decide_true, Bool.and_self, if_true]

/-- A trip of a session that switches is recorded and counted, and stops it without a ramp (R304). -/
theorem execChgGridTrip_switching (trip : u.gridTrip m = c) (tripped : c ≠ 0) (switching : u.cstate = 3 ∨ (u.cstate = 4 ∧ u.chgSwitching = true)) :
    execChgGridTrip t m s =
      .next ((((u.event F.CHG_EVT_GRIDTRIP).bump F.CHG_CNT_GRIDTRIPS).raise Flt.CHG_GRID_TRIP { stages := 0x18, item := c }).gridStop c) := by
  obtain state | ⟨state, runs⟩ := switching
  · simp [execChgGridTrip, now, up, trip, tripped, state]
  · simp [execChgGridTrip, now, up, trip, tripped, state, runs]

/-- A trip sends WAIT and READY back to WAIT (R304). -/
theorem execChgGridTrip_waiting (tripped : u.gridTrip m ≠ 0) (waiting : u.cstate = 1 ∨ u.cstate = 2) :
    execChgGridTrip t m s = .next (((u.setF F.CHG_STAT_CSTATE 1).setB F.CHG_STAT_QUALIFIED false).setB F.CHG_STAT_PRECHARGED false) := by
  obtain state | state := waiting <;> simp [execChgGridTrip, now, up, tripped, state]

/-- A trip becomes the cause of a pause for the pilot without switching (assumption 96). -/
theorem execChgGridTrip_paused (trip : u.gridTrip m = c) (tripped : c ≠ 0) (paused : u.cstate = 4) (still : u.chgSwitching = false)
    (pilot : u.getF F.CHG_STAT_PAUSE = 1) :
    execChgGridTrip t m s = .next (((u.setF F.CHG_STAT_PAUSE c).setB F.CHG_STAT_QUALIFIED false).setB F.CHG_STAT_PRECHARGED false) := by
  simp [execChgGridTrip, now, up, trip, tripped, paused, still, pilot]

theorem execGridReconnect_good (paused : u.cstate = 4) (grid : 2 ≤ u.getF F.CHG_STAT_PAUSE) (still : u.chgSwitching = false) (good : u.gridGood m = true)
    (long : u.getF F.CHG_GRIDT_RECONNECT_S * ticksPerS ≤ m.held) :
    execGridReconnect t m s = .next ((u.setF F.CHG_STAT_CSTATE 1).setF F.CHG_STAT_PAUSE 0) := by
  simp only [execGridReconnect, now, up, paused, grid, still, good, long, decide_true, Bool.not_false, Bool.and_self, if_true]

/-- A ramp that ends at zero does what it was for (R306, R308). -/
theorem execPowerRampEnd_zero (zero : u.rampPower = 0) (purpose : u.chg.zeroFor ≠ 0) : execPowerRampEnd t s = .next u.zeroReached := by
  simp [execPowerRampEnd, now, up, zero, purpose]

theorem execPowerRampEnd_end (zero : u.rampPower = 0) (purpose : u.chg.zeroFor = 1) : execPowerRampEnd t s = .next (u.chgStop 1) := by
  rw [execPowerRampEnd_zero now up zero (by omega), State.zeroReached, if_pos purpose]

theorem execPowerRampEnd_hostless (zero : u.rampPower = 0) (purpose : u.chg.zeroFor = 3) : execPowerRampEnd t s = .next (u.chgStop 4) := by
  rw [execPowerRampEnd_zero now up zero (by omega), State.zeroReached, if_neg (by omega), if_pos purpose]

theorem execPowerRampEnd_pause (zero : u.rampPower = 0) (purpose : u.chg.zeroFor = 2) : execPowerRampEnd t s = .next u.chgOff := by
  rw [execPowerRampEnd_zero now up zero (by omega), State.zeroReached, if_neg (by omega), if_neg (by omega)]

section
variable (session : u.cstate ≠ 0)
include session

theorem execChgHostless_silent (fresh : u.getB F.CHG_STAT_FALLBACK = false) (silent : u.com.lastHeartbeat + 2 * ticksPerS ≤ u.now) :
    execChgHostless t s = .next u.goHostless := by
  simp only [execChgHostless, now, up, bne_iff_ne.2 session, fresh, State.elapsed_of_le silent, Bool.not_false, Bool.and_self, if_true]

/-- The fallback of a session ends after 60 s, with a ramp where power flows (R308). -/
theorem execChgHostlessStop_over (fallback : u.getB F.CHG_STAT_FALLBACK = true) (notYet : u.chg.zeroFor ≠ 3)
    (passed : u.chg.fallbackAt + 60 * ticksPerS ≤ u.now) (raised : u.raise Flt.CHG_HOSTLESS_STOP {} = a) :
    execChgHostlessStop t s = .next (if a.chgSwitching && a.rampPower != 0 then a.rampZero (a.getQ F.CHG_RAMP) 3 else a.chgStop 4) := by
  have inFallback : u.inFallback = true := (if_neg session).trans fallback
  simp only [execChgHostlessStop, now, up, inFallback, bne_iff_ne.2 notYet, State.elapsed_of_le passed, if_neg session, raised, Bool.and_self, if_true,
    apply_ite Host.Outcome.next]

end

theorem execChgVbatWindow_out (on : u.cstate = 3 ∨ (u.cstate = 0 ∧ u.chgOpen = true)) (out : u.vbatOut vbat = true)
    (long : 100 * ticksPerMs ≤ held) : execChgVbatWindow t vbat held s = .next ((u.raise Flt.CHG_VBAT_WINDOW { stages := 0x18 }).chgStop 5) := by
  obtain state | ⟨state, opened⟩ := on
  · simp [execChgVbatWindow, now, up, out, long, state]
  · simp [execChgVbatWindow, now, up, out, long, state, opened]

/-- A channel with 256 equal bits is marked, and one of GZ64 to GZ69 stops a session that switches (R313). -/
theorem execGzXbFlat_marks (long : 256 ≤ run) (fresh : (u.gzCh (64 + n.val)).flat = false) (marked : u.xbFlat (64 + n.val) n = a) :
    execGzXbFlat t n run s = .next (if n.val < 6 && a.cstate = 3 then (a.raise Flt.CHG_XB_LOST { stages := 0x18, item := 64 + n.val }).gridStop 2 else a) := by
  simp only [execGzXbFlat, now, up, Nat.not_lt.2 long, fresh, marked, decide_false, Bool.not_true, Bool.or_self, Bool.false_eq_true, if_false,
    apply_ite Host.Outcome.next]

end

end

/-- Settles O22: each clause is the equation of its case of its event. -/
theorem chargerEventsComplete : Obligations.ChargerEventsComplete :=
  ⟨fun _ _ _ _ _ => execPpSample_counts,
    fun _ _ _ _ _ _ _ now up => execPilotEvaluation_up now up,
    fun _ _ _ _ => execGridQualified_fit,
    fun _ _ _ _ => execGridQualified_unfit,
    fun _ _ _ _ _ _ => execVpfcPrecharged_ready,
    fun _ _ _ _ _ => execChgGridTrip_switching,
    fun _ _ _ _ => execChgGridTrip_waiting,
    fun _ _ _ _ _ => execChgGridTrip_paused,
    fun _ _ _ _ => execGridReconnect_good,
    fun _ _ _ => execPowerRampEnd_end,
    fun _ _ _ => execPowerRampEnd_hostless,
    fun _ _ _ => execPowerRampEnd_pause,
    fun _ _ _ => execChgHostless_silent,
    fun _ _ _ _ => execChgHostlessStop_over,
    fun _ _ _ _ _ => execChgVbatWindow_out,
    fun _ _ _ _ _ _ => execGzXbFlat_marks,
    fun _ _ _ _ _ _ => execWitnessEnergy_due⟩

end Sys2Proof.Machine
end

section
/-! The auxiliary-converter requests (R315 to R317, R340 to R343, Tables 12.3 and 12.5): one equation for each request that is served as `u` and within its conditions. -/

namespace Sys2Proof.Machine
open Sys2Proof

section
variable {r : Req} {s u : State}

section
variable (served : admitOp { code := 0x0500, lens := [1] } r s = .served u)
include served

/-- AUX_ENABLE 0 with VDC inside its window starts forward. -/
theorem execAuxEnable_forward (forward : r.num 0 1 = 0) (free5 : u.held 5 = false) (free6 : u.held 6 = false) (allowed : u.enableRefused = false)
    (inside : u.vdcInside = true) : execAuxEnable r s = .next ((u.auxStart false).answer (r.ticket 0x0500) stOK []) :=
  serveOp_done served (by simp [forward, free5, free6, allowed, inside, okWith])

/-- AUX_ENABLE 1 with none of the conditions of the reverse direction against it starts in reverse. -/
theorem execAuxEnable_reverse (reverse : r.num 0 1 = 1) (free5 : u.held 5 = false) (free6 : u.held 6 = false) (allowed : u.enableRefused = false)
    (reversible : u.reverseRefused = false) : execAuxEnable r s = .next ((u.auxStart true).answer (r.ticket 0x0500) stOK []) :=
  serveOp_done served (by simp [reverse, free5, free6, allowed, reversible, okWith])

end

section
variable (served : admitOp { code := 0x0501, lens := [8] } r s = .served u)
include served

/-- AUX_SET with both values in their ranges writes VSET and ILIM, under a hold of its session among the held writes (R117, assumption 98). -/
theorem execAuxSet_forward (forward : u.auxReverse = false) (volts : inRange (r.fl 0) 24 30 = true) (amps : inRange (r.fl 4) 0 357 = true)
    (room : (u.holdOf r.session && decide (64 < u.heldWrites + 2)) = false) :
    execAuxSet r s = .next (((u.auxLater (u.holdOf r.session) F.AUX_VSET (r.fl 0).toNat).auxLater (u.holdOf r.session) F.AUX_ILIM (r.fl 4).toNat).answer
      (r.ticket 0x0501) stOK []) :=
  serveOp_done served (by simp only [forward, volts, amps, room]; rfl)

/-- In reverse AUX_SET writes PRE_VDC and PRE_ILIM, and notes the first setting. -/
theorem execAuxSet_reverse (reverse : u.auxReverse = true) (volts : (inRange (r.fl 0) 100 992 || F32.isZero (r.fl 0)) = true)
    (amps : inRange (r.fl 4) 0 100 = true) (room : (u.holdOf r.session && decide (64 < u.heldWrites + 2)) = false) :
    execAuxSet r s = .next (((({ u with aux := { u.aux with preAt := some (u.aux.preAt.getD u.now) } }).auxLater (u.holdOf r.session) F.AUX_PRE_VDC
      (r.fl 0).toNat).auxLater (u.holdOf r.session) F.AUX_PRE_ILIM (r.fl 4).toNat).answer (r.ticket 0x0501) stOK []) :=
  serveOp_done served (by simp only [reverse, volts, amps, room]; rfl)

end

section
variable (served : admitOp { code := 0x0502 } r s = .served u)
include served

theorem execAuxDisable_off (off : u.astate = 0) : execAuxDisable r s = .next (u.answer (r.ticket 0x0502) stOK []) :=
  serveOp_done served (if_pos off)

/-- AUX_DISABLE of a converter that runs begins the stop, and is answered at its end (R342). -/
theorem execAuxDisable_stops (runs : u.astate ≠ 0) :
    execAuxDisable r s = .next ({ u.auxStop with aux := { u.auxStop.aux with tickets := u.auxStop.aux.tickets ++ [r.ticket 0x0502] } }.trimCache
      (r.ticket 0x0502)) :=
  serveOp_later served (if_neg runs)

end

/-- AUX_PHASE_MASK that keeps three phases present. -/
theorem execAuxPhaseMask_masks (served : admitOp { code := 0x0503, level := 2, lens := [1] } r s = .served u)
    (three : 3 ≤ (bitsList 8 (Nat.land (r.num 0 1) (u.getF F.AUX_CFG_PRESENT))).length) :
    execAuxPhaseMask r s = .next ((u.setMask (r.num 0 1)).answer (r.ticket 0x0503) stOK (beBytes 1 (u.setMask (r.num 0 1)).activePhases)) :=
  serveOp_done served (if_neg (Nat.not_lt.2 three))

end

/-- Settles O23: each clause is the equation of its request, served within its conditions. -/
theorem auxRequestsComplete : Obligations.AuxRequestsComplete :=
  ⟨fun _ _ _ => execAuxEnable_forward,
    fun _ _ _ => execAuxEnable_reverse,
    fun _ _ _ => execAuxSet_forward,
    fun _ _ _ => execAuxSet_reverse,
    fun _ _ _ => execAuxDisable_off,
    fun _ _ _ => execAuxDisable_stops,
    fun _ _ _ => execAuxPhaseMask_masks⟩

end Sys2Proof.Machine
end

section
/-! The auxiliary-converter events (R317 to R343, Table 12.2): one equation for the case of each event that acts, `u` being the state at the event. -/

namespace Sys2Proof.Machine
open Sys2Proof

section
variable {t x held run mv : Nat} {ch : Fin 9} {s u : State} (now : s.advance t = u)
include now

section
variable (up : u.mainUp = true)
include up

/-- A V48 outside its window for 1 ms, or a soft start of 20 ms, stops forward operation (R317, R318, assumption 103). -/
theorem execAuxV48Window_out (forward : u.auxForward = true) (runs : u.aux.stopping = false)
    (out : ticksPerMs ≤ held ∧ u.v48Out = true ∨ u.astate = 1 ∧ u.aux.startAt + 20 * ticksPerMs ≤ u.now) :
    execAuxV48Window t held s = .next (u.raise Flt.AUX_V48_WINDOW { stages := 0x20 }).auxStop := by
  have found : (decide (ticksPerMs ≤ held) && u.v48Out || (u.astate == 1 && u.elapsed u.aux.startAt (20 * ticksPerMs))) = true := by
    simpa [State.elapsed] using out
  simp only [execAuxV48Window, now, up, forward, runs, found, Bool.not_false, Bool.and_self, if_true]

section
variable (running : u.astate = 3 ∨ u.astate = 4) (runs : u.aux.stopping = false) (settled : u.aux.outgoing = 0)
include running runs settled

/-- A converter in RUN or BURST with no phase on its way out judges its level (R326, Table 12.2). -/
theorem execShedLevelChange_judges :
    execShedLevelChange t held s = .next (if u.shedUp held then u.levelUp else if u.shedDown held then u.levelDown else u) := by
  have regulates : (u.astate == 3 || u.astate == 4) = true := by simpa using running
  simp only [execShedLevelChange, now, up, regulates, runs, settled, bne_self_eq_false, Bool.not_true, Bool.or_self, Bool.false_eq_true, if_false,
    apply_ite Host.Outcome.next]

theorem execShedLevelChange_up (above : u.shedUp held = true) : execShedLevelChange t held s = .next u.levelUp := by
  rw [execShedLevelChange_judges now up running runs settled, if_pos above]

theorem execShedLevelChange_down (notAbove : u.shedUp held = false) (below : u.shedDown held = true) :
    execShedLevelChange t held s = .next u.levelDown := by
  rw [execShedLevelChange_judges now up running runs settled, if_neg (ne_true_of_eq_false notAbove), if_pos below]

end

theorem execShedRotation_due (least : 2 ≤ u.astate) (most : u.astate ≤ 5) (runs : u.aux.stopping = false)
    (passed : u.aux.rotAt + u.getF F.AUX_SHEDT_ROT_MS * ticksPerMs ≤ u.now) :
    execShedRotation t s = .next { u with aux := { u.aux with rot := (u.aux.rot + 1) % max 1 u.nAvail, rotAt := u.now } }.relevel := by
  simp only [execShedRotation, State.rotate, now, up, least, most, runs, State.elapsed_of_le passed, decide_true, Bool.not_false, Bool.and_self, if_true]

theorem execSheddingEnd_due (due : u.shedDue ≠ 0) : execSheddingEnd t s = .next u.endShed := by
  simp only [execSheddingEnd, now, up, bne_iff_ne.2 due, Bool.and_self, if_true]

theorem execBurstRestart_due (burst : u.astate = 4) (idle : u.aux.burstIdle = true) (runs : u.aux.stopping = false)
    (passed : u.aux.burstAt + u.getF F.AUX_SHEDT_ROT_MS * ticksPerMs ≤ u.now) : execBurstRestart t s = .next u.startBurst := by
  simp only [execBurstRestart, now, up, burst, idle, runs, State.elapsed_of_le passed, beq_self_eq_true, Bool.not_false, Bool.and_self, if_true]

theorem execAuxRegulated_within (rising : u.astate = 2 ∨ u.astate = 3) (fresh : u.getB F.AUX_STAT_REGULATED = false)
    (within : absRat (u.auxV - u.getQ F.AUX_VSET) ≤ u.getQ F.AUX_VSET / 100) (long : ticksPerMs ≤ held) :
    execAuxRegulated t held s = .next ({ u with aux := { u.aux with regulatedAt := u.now } }.setB F.AUX_STAT_REGULATED true) := by
  have regulates : (u.astate == 2 || u.astate == 3) = true := by simpa using rising
  simp only [execAuxRegulated, now, up, regulates, fresh, within, long, decide_true, Bool.not_false, Bool.and_self, if_true]

theorem execAuxSenseLost_phase (phase : ch.val < 8) (above : 2700 < mv) (long : 64000 ≤ held) :
    execAuxSenseLost t ch mv held run s = .next (u.phaseOpen ch.val) := by
  simp only [execAuxSenseLost, now, up, phase, above, long, decide_true, Bool.not_true, Bool.and_self, Bool.false_eq_true, if_false, if_true]

/-- GZ14 open, or out of its range for 3 outputs, ends the remote sense (R334, R335). -/
theorem execAuxSenseLost_remote (remote : u.getB F.AUX_STAT_REMOTE_OK = true)
    (lost : (2700 < mv ∧ 64000 ≤ held) ∨ (3 ≤ run ∧ (u.getQ F.AUX_VOSMAX < absRat (u.fastQ 14 F.AUX_VOSSCALE) ∨ (u.gzCh 14).fastFlags % 2 = 0))) :
    execAuxSenseLost t 8 mv held run s =
      .next (((u.setB F.AUX_STAT_REMOTE_OK false).event F.AUX_EVT_SENSELOST).raise Flt.AUX_SENSE_LOST { stages := 0x40 }) := by
  have found : (decide (2700 < mv) && decide (64000 ≤ held) || decide (3 ≤ run) && (decide (u.getQ F.AUX_VOSMAX < absRat (u.fastQ 14 F.AUX_VOSSCALE))
      || (u.gzCh 14).fastFlags % 2 == 0)) = true := by
    simpa using lost
  have notPhase : ¬ (8 : Fin 9).val < 8 := by decide
  simp only [execAuxSenseLost, now, up, if_neg notPhase, remote, found, Bool.not_true, Bool.and_self, Bool.false_eq_true, if_false, if_true]

theorem execAuxOverload_low (regulated : u.getB F.AUX_STAT_REGULATED = true) (low : u.vout < u.getQ F.AUX_VSET * 9 / 10) (long : 10 * ticksPerMs ≤ held) :
    execAuxOverload t held s = .next (u.raise Flt.AUX_OVERLOAD { stages := 0x40 }) := by
  simp only [execAuxOverload, now, up, regulated, low, long, decide_true, Bool.and_self, if_true]

theorem execAuxVoutHigh_above (above : u.getQ F.AUX_VSET * 23 / 20 < u.vout) (long : 640000 ≤ held) :
    execAuxVoutHigh t held s = .next (u.raise Flt.AUX_VOUT_HIGH { stages := 0x60 }) := by
  simp only [execAuxVoutHigh, now, up, above, long, decide_true, Bool.and_self, if_true]

/-- A stop ends with the currents decayed, or after 1 ms (R342). -/
theorem execAuxStopComplete_ends (stopping : u.aux.stopping = true) (quiet : u.phasesQuiet = true ∨ u.aux.stopAt + ticksPerMs ≤ u.now) :
    execAuxStopComplete t s = .next (((u.hbsOf 5).foldl (fun (x : State) h => x.setMode h 0) u).auxDone.showModes) := by
  have ended : (u.phasesQuiet || u.elapsed u.aux.stopAt ticksPerMs) = true := by simpa [State.elapsed] using quiet
  simp only [execAuxStopComplete, now, up, stopping, ended, Bool.and_self, if_true]

theorem execPrechargeDone_within (precharge : u.astate = 7) (runs : u.aux.stopping = false)
    (within : absRat (u.vdc - u.getQ F.AUX_PRE_VDC) ≤ u.getQ F.AUX_PRE_VDC / 100) (long : 10 * ticksPerMs ≤ held) :
    execPrechargeDone t held s = .next ((u.setF F.AUX_STAT_ASTATE 8).event F.AUX_EVT_PREDONE) := by
  simp only [execPrechargeDone, now, up, precharge, runs, within, long, beq_self_eq_true, decide_true, Bool.not_false, Bool.and_self, if_true]

end

/-- TMAX after its first setting a precharge not done is given up (R343). -/
theorem execAuxPrechargeTimeout_late (since : u.aux.preAt = some x) (up : u.mainUp = true) (precharge : u.astate = 6 ∨ u.astate = 7)
    (runs : u.aux.stopping = false) (late : x + u.getF F.AUX_PRE_TMAX * ticksPerMs ≤ u.now) :
    execAuxPrechargeTimeout t s = .next (u.raise Flt.AUX_PRECHARGE_TIMEOUT { stages := 0x60 }).auxStop := by
  have reverse : (u.astate == 6 || u.astate == 7) = true := by simpa using precharge
  simp only [execAuxPrechargeTimeout, now, since, up, reverse, runs, State.elapsed_of_le late, Bool.not_false, Bool.and_self, if_true]

end

/-- Settles O24: each clause is the equation of its case of its event. -/
theorem auxEventsComplete : Obligations.AuxEventsComplete :=
  ⟨fun _ _ _ _ => execAuxV48Window_out,
    fun _ _ _ _ => execShedLevelChange_up,
    fun _ _ _ _ => execShedLevelChange_down,
    fun _ _ _ => execShedRotation_due,
    fun _ _ _ => execSheddingEnd_due,
    fun _ _ _ => execBurstRestart_due,
    fun _ _ _ _ => execAuxRegulated_within,
    fun _ _ _ _ _ _ _ => execAuxSenseLost_phase,
    fun _ _ _ _ _ _ => execAuxSenseLost_remote,
    fun _ _ _ _ => execAuxOverload_low,
    fun _ _ _ _ => execAuxVoutHigh_above,
    fun _ _ _ => execAuxStopComplete_ends,
    fun _ _ _ _ => execPrechargeDone_within,
    fun _ _ _ _ => execAuxPrechargeTimeout_late⟩

end Sys2Proof.Machine
end

section
/-! The actuator events (R348 to R363): one equation for the case of each event that acts, `u` being the state at the event. -/

namespace Sys2Proof.Machine
open Sys2Proof

section
variable {t x held run : Nat} {park : Bool} {level : BitVec 3} {iq acc w : Rat} {rest : List (Nat × Rat)} {s u b : State} (now : s.advance t = u)
include now

section
variable (up : u.mainUp = true)
include up

/-- A level of the halls stable for 1 us is taken (R349). -/
theorem execHallEdge_stable (stable : 6400 ≤ held) (new : u.getF (hallField park) ≠ level.toNat) :
    execHallEdge t park level held s = .next (u.hallTo park level.toNat) := by
  have taken : ¬ (!u.mainUp || decide (held < 6400) || decide (u.getF (hallField park) = level.toNat)) = true := by simp [up, Nat.not_lt.2 stable, new]
  simp only [execHallEdge, now, if_neg taken]

theorem execActHallFault_bad (bad : (u.hallBad park held || u.hallSkips park) = true) (sound : u.actInFault park = false) :
    execActHallFault t park held s = .next ((u.actFault park Flt.ACT_HALL_FAULT).motionEnding park) := by
  simp only [execActHallFault, now, up, bad, sound, Bool.not_false, Bool.and_self, if_true]

/-- A position sensor that fails takes the homing with it (R353). -/
theorem execActPosSensor_bad (bad : u.posBad run held = true) (sound : u.actInFault false = false) :
    execActPosSensor t run held s = .next (((u.actFault false Flt.ACT_POS_SENSOR).setB F.ACT_STAT_SHOMED false).motionEnding false) := by
  simp only [execActPosSensor, now, up, bad, sound, Bool.not_false, Bool.and_self, if_true]

theorem execShiftTargetReached_settled (settled : u.shiftSettled held = true) : execShiftTargetReached t held s = .next u.shiftDone := by
  simp only [execShiftTargetReached, now, up, settled, Bool.and_self, if_true]

theorem execActShiftTimeout_late (late : u.shiftLate = true) : execActShiftTimeout t s = .next u.shiftTimeout := by
  simp only [execActShiftTimeout, now, up, late, Bool.and_self, if_true]

theorem execMotionEnd_ending (ending : (u.act park).ending.isSome = true) : execMotionEnd t park s = .next (u.motionEnded park) := by
  simp only [execMotionEnd, now, up, ending, Bool.and_self, if_true]

/-- The stop found homes the pawl or zeroes the fork (R356, R357). -/
theorem execHomeStopFound_found (found : u.atStop park iq = true) :
    execHomeStopFound t park iq s = .next (if park then u.parkHomed else u.shiftZeroed) := by
  simp only [execHomeStopFound, now, up, found, Bool.not_true, Bool.or_self, Bool.false_eq_true, if_false, apply_ite Host.Outcome.next]

theorem execActHomeFail_late (late : u.homeLate park = true) (raised : (u.raise Flt.ACT_HOME_FAIL { stages := 2 ^ actStage park }).motionEnding park = b) :
    execActHomeFail t park s = .next (if park then b.setF F.ACT_STAT_PSTATE 0 else b.shiftIdle) := by
  simp only [execActHomeFail, now, up, late, raised, Bool.and_self, if_true]

section
variable (stuck : u.rotorStuck park iq held = true)
include stuck

/-- The locked rotor of a motion is recorded, and leads to a retry, FAULT or time-out (R358, Table 13.4). -/
theorem execLockedRotor_acts (lockable : u.lockable park = true) (other : u.limitSameSlot park = false) :
    execLockedRotor t park iq held s = .next ((u.lockNoted park).lockEffect park) := by
  simp [execLockedRotor, now, up, stuck, lockable, other]

/-- In the slot of LE3 in which its time limit ended the shift it is recorded alone (Table 13.4). -/
theorem execLockedRotor_notes (same : u.limitSameSlot park = true) : execLockedRotor t park iq held s = .next (u.lockNoted park) := by
  simp [execLockedRotor, now, up, stuck, same]

end

theorem execRetryRestart_due (due : u.retryDue park = true) : execRetryRestart t park s = .next (u.restartMotion park) := by
  simp only [execRetryRestart, now, up, due, Bool.and_self, if_true]

section
variable (stable : 20 * ticksPerMs ≤ held) (sound : u.pstate ≠ 7)
include stable sound

/-- A pawl without a motion shows its state of rest (R360). -/
theorem execPawlState_rests (still : u.park.kind = 0) : execPawlState t held s =
    .next ((if u.restState = 0 then u else { u with park := { u.park with disagreed := false } }).setF F.ACT_STAT_PSTATE u.restState) := by
  simp [execPawlState, now, up, Nat.not_lt.2 stable, sound, still]

/-- A pawl at rest at the target of its motion ends it (R360). -/
theorem execPawlState_arrives (unlocked : u.pstate ≠ 6) (moving : u.park.kind = 1) (running : u.park.ending = none) (rests : u.restState ≠ 0)
    (arrived : u.restState = (if u.park.target = 1 then 3 else 1)) : execPawlState t held s = .next (u.pawlDone u.restState) := by
  have there : (u.restState == if u.park.target = 1 then 3 else 1) = true := beq_iff_eq.2 arrived
  simp [execPawlState, now, up, Nat.not_lt.2 stable, sound, moving, unlocked, running, rests, there]

end

/-- Sound switches disagree with the position of a pawl at rest for 100 ms: recorded once, and PSTATE is UNKNOWN (R360). -/
theorem execParkSwitchDisagree_long (still : u.park.kind = 0) (sound : u.pstate ≠ 7) (fitted : u.getB F.ACT_STAT_SWITCH_OK = true)
    (differ : u.xState ≠ u.switchState) (long : 100 * ticksPerMs ≤ held) :
    execParkSwitchDisagree t held s = .next ((if u.park.disagreed then u
      else ({ u with park := { u.park with disagreed := true } }).raise Flt.PARK_SWITCH_DISAGREE { stages := 0x100 }).setF F.ACT_STAT_PSTATE 0) := by
  simp only [execParkSwitchDisagree, now, up, still, beq_self_eq_true, bne_iff_ne.2 sound, bne_iff_ne.2 differ, fitted, long, decide_true, Bool.and_self,
    if_true]
  split <;> rfl

theorem execPawlBlocked_tooth (tooth : u.onTooth = true) : execPawlBlocked t s = .next u.pawlBlocked := by
  simp only [execPawlBlocked, now, up, tooth, Bool.and_self, if_true]

/-- Blocked for TOOTH_S: a vehicle too fast aborts, another releases the pawl (R361). -/
theorem execParkNotEngaged_due (blocked : u.pstate = 5) (passed : u.park.blockedAt + u.getF F.ACT_PARK_TOOTH_S * ticksPerS ≤ u.now) :
    execParkNotEngaged t s = .next (if u.tooFast then u.speedAbort else (u.raise Flt.PARK_NOT_ENGAGED { stages := 0x100 }).movePawl 0) := by
  simp only [execParkNotEngaged, now, up, blocked, beq_self_eq_true, State.elapsed_of_le passed, Bool.and_self, if_true, apply_ite Host.Outcome.next]

/-- A motion of the pawl that has taken 1 s in all is given up (R361). -/
theorem execParkMoveTimeout_late (moving : u.park.kind = 1) (running : u.park.ending = none) (between : u.pstate = 2 ∨ u.pstate = 4)
    (late : ticksPerS ≤ u.park.spent + (u.now - u.park.spentAt)) :
    execParkMoveTimeout t s = .next ((u.actFault true Flt.PARK_MOVE_TIMEOUT).motionEnding true) := by
  have moves : (u.pstate == 2 || u.pstate == 4) = true := by simpa using between
  simp only [execParkMoveTimeout, now, up, moving, running, moves, late, beq_self_eq_true, Option.isNone_none, decide_true, Bool.and_self, if_true]

theorem execParkMotionEngaged_long (engaged : u.pstate = 3) (speed : u.vspd = some w) (fast : 3 ≤ w) (long : ticksPerS ≤ held) :
    execParkMotionEngaged t held s = .next (u.raise Flt.PARK_MOTION_ENGAGED { stages := 0x100 }) := by
  simp only [execParkMotionEngaged, now, up, engaged, speed, fast, long, beq_self_eq_true, decide_true, Bool.and_self, if_true]

end

/-- The first segment of the profile whose instant has come is taken (R354). -/
theorem execProfileSegment_due (segs : u.shift.segs = (x, acc) :: rest) (up : u.mainUp = true) (reached : x ≤ u.now) :
    execProfileSegment t s = .next (u.takeSegment x acc rest) := by
  simp only [execProfileSegment, now, segs, up, reached, decide_true, Bool.and_self, if_true]

theorem execVspdHostExpired_passed (since : u.park.hostAt = some x) (up : u.mainUp = true) (passed : x + 200 * ticksPerMs ≤ u.now) :
    execVspdHostExpired t s = .next { u with park := { u.park with hostAt := none } }.showVspd := by
  simp only [execVspdHostExpired, now, since, up, State.elapsed_of_le passed, Bool.and_self, if_true]

end

/-- Settles O26: each clause is the equation of its case of its event. -/
theorem actuatorEventsComplete : Obligations.ActuatorEventsComplete :=
  ⟨fun _ _ _ _ _ _ => execHallEdge_stable,
    fun _ _ _ _ _ => execActHallFault_bad,
    fun _ _ _ _ _ => execActPosSensor_bad,
    fun _ _ _ _ _ _ => execProfileSegment_due,
    fun _ _ _ _ => execShiftTargetReached_settled,
    fun _ _ _ => execActShiftTimeout_late,
    fun _ _ _ _ => execMotionEnd_ending,
    fun _ _ _ _ _ => execHomeStopFound_found,
    fun _ _ _ _ _ => execActHomeFail_late,
    fun _ _ _ _ _ _ => execLockedRotor_acts,
    fun _ _ _ _ _ _ => execLockedRotor_notes,
    fun _ _ _ _ => execRetryRestart_due,
    fun _ _ _ _ => execPawlState_rests,
    fun _ _ _ _ => execPawlState_arrives,
    fun _ _ _ _ => execParkSwitchDisagree_long,
    fun _ _ _ => execPawlBlocked_tooth,
    fun _ _ _ => execParkNotEngaged_due,
    fun _ _ _ => execParkMoveTimeout_late,
    fun _ _ _ _ _ => execParkMotionEngaged_long,
    fun _ _ _ _ => execVspdHostExpired_passed⟩

end Sys2Proof.Machine
end

section
/-! SET_STATE, the end of the arming sequence, and the fault log (R404 to R417, Table 15.4): one equation for each request that is served as `u`, and for the case of each event that acts, `u` being the state at the event. -/

namespace Sys2Proof.Machine
open Sys2Proof

section
variable {u : State}

theorem State.requestArmed_starts (standby : u.power = pSTANDBY) (idle : u.slt.arming = none) (allowed : u.armRefusal = 0) :
    u.requestArmed = .done stDeferred [] ({ u with slt := { u.slt with arming := some u.now } }.setF F.SLT_STAT_STEST_ERR 0) := by
  simp [State.requestArmed, standby, idle, allowed]

/-- In STANDBY a running sequence ends (R406). -/
theorem State.requestStandby_aborts (standby : u.power = pSTANDBY) (running : u.slt.arming.isSome = true) :
    u.requestStandby = okWith [] u.abortArming := by
  rw [State.requestStandby, if_pos standby, if_pos running]

/-- From ARMED and RUN with nothing switching (R41). -/
theorem State.requestStandby_armed (armed : u.power = pARMED ∨ u.power = pRUN) (still : u.anySwitching = false) :
    u.requestStandby = okWith [] u.toStandby := by
  obtain power | power := armed <;> simp [State.requestStandby, power, still, pARMED, pRUN, pSTANDBY, pTEST, pSAFE]

/-- From SAFE with no ASC, no unacknowledged record and the safety processor present (R413). -/
theorem State.requestStandby_safe (safe : u.power = pSAFE) (still : u.anySwitching = false) (noAsc0 : u.ascOn 0 = false) (noAsc1 : u.ascOn 1 = false)
    (acknowledged : u.unacked (fun _ => true) = false) (present : u.getB F.SLT_STAT_SP_LOST = false) :
    u.requestStandby = okWith [] u.endHolds.toStandby := by
  simp [State.requestStandby, safe, still, noAsc0, noAsc1, acknowledged, present, pSTANDBY, pTEST, pSAFE]

end

section
variable {r : Req} {s u v : State} (served : admitOp { code := 0x0003, lens := [1] } r s = .served u)
include served

theorem execSetState_armed {st : Nat} (armed : r.num 0 1 = 4) (done : u.requestArmed = .done st [] v) :
    execSetState r s = .next (v.answer (r.ticket 0x0003) st []) :=
  serveOp_done served ((if_pos armed).trans done)

theorem execSetState_standby (standby : r.num 0 1 = 3) (done : u.requestStandby = okWith [] v) :
    execSetState r s = .next (v.answer (r.ticket 0x0003) stOK []) := by
  have notArmed : r.num 0 1 ≠ pARMED := by rw [standby]; decide
  exact serveOp_done served ((if_neg notArmed).trans ((if_pos standby).trans done))

end

/-- SAFE_STATUS reads four words (R416). -/
theorem execSafeStatus_reads {r : Req} {s u : State} (served : admitOp { code := 0x0900 } r s = .served u) :
    execSafeStatus r s = .next (u.answer (r.ticket 0x0900) stOK
      ([F.SLT_STAT_HELD.addr, F.GD_SLATCH.addr, F.GD_DLATCH.addr, F.SLT_SIN.addr].flatMap fun a => beBytes 4 (u.getW a).toNat)) :=
  serveOp_done served rfl

/-- FAULT_LOG_READ of 1 to 16 records, as many as fit (R415). -/
theorem execFaultLogRead_reads {r : Req} {l : List FaultRec} {s u : State} (served : admitOp { code := 0x0901, lens := [3] } r s = .served u)
    (some_ : 1 ≤ r.num 2 1) (most : r.num 2 1 ≤ 16) (read : (u.recordsFrom (r.num 0 2)).take (min (r.num 2 1) ((maxPacket r.port r.fd - 23) / 32)) = l) :
    execFaultLogRead r s = .next (u.answer (r.ticket 0x0901) stOK (beBytes 1 l.length ++ l.flatMap fun x => x.bytes)) := by
  have inside : ¬ (r.num 2 1 = 0 ∨ 16 < r.num 2 1) := by omega
  exact serveOp_done served ((if_neg inside).trans (congrArg (fun l : List FaultRec => okWith (beBytes 1 l.length ++ l.flatMap fun x => x.bytes) u) read))

section
variable {t : Nat} {failed : Fin 4} {s u b : State} (now : s.advance t = u)
include now

section
variable (running : u.slt.arming.isSome = true) (standby : u.power = pSTANDBY)
include running standby

/-- Every step passed: ARMED, both arming locks set, its instant noted (R406). -/
theorem execArmingComplete_passed (store : u.storeOk = true) (passed : failed.val = 0)
    (entered : ((u.abortArming.setB F.SYS_LOCK_ARMED_LOCK true).setB F.SLT_STAT_LOCKED true).toPower pARMED 0x01 = b) :
    execArmingComplete t failed s = .next { b with slt := { b.slt with armedAt := b.now, dueCount := 0 } } := by
  obtain ⟨since, arming⟩ := Option.isSome_iff_exists.1 running
  have step : u.armStep failed = 0 := (if_pos store).trans passed
  simp [execArmingComplete, now, arming, standby, step, entered]

/-- A failed step is named and recorded (R406). -/
theorem execArmingComplete_failed (step : u.armStep failed ≠ 0) (known : u.storeOk = true ∨ u.slt.limitsBad = true) :
    execArmingComplete t failed s = .next ((u.abortArming.setF F.SLT_STAT_STEST_ERR (u.armStep failed)).raise Flt.SLT_SELFTEST_FAIL {}) := by
  obtain ⟨since, arming⟩ := Option.isSome_iff_exists.1 running
  have notNew : (!u.storeOk && !u.slt.limitsBad) = false := by obtain ok | bad := known <;> simp [*]
  simp [execArmingComplete, now, arming, standby, step, Bool.and_assoc, notNew]

/-- A limit store found wrong now raises SLT_LIMIT_CORRUPT (Table 15.1, assumption 217). -/
theorem execArmingComplete_corrupt (store : u.storeOk = false) (fresh : u.slt.limitsBad = false) :
    execArmingComplete t failed s =
      .next ((({ u with slt := { u.slt with limitsBad := true } }).event F.SLT_EVT_LIMIT).raise Flt.SLT_LIMIT_CORRUPT { stages := slateStages }) := by
  obtain ⟨since, arming⟩ := Option.isSome_iff_exists.1 running
  simp [execArmingComplete, now, arming, standby, State.armStep, State.limitsFail, store, fresh]

end

section
variable (up : u.mainUp = true)
include up

theorem execFaultFifoDrain_up :
    execFaultFifoDrain t s = .next (u.log.fifo.foldl (fun x r => x.logPut r) { u with log := { u.log with fifo := [], fifoLost := 0 } }) := by
  simp only [execFaultFifoDrain, now, up, Bool.not_true, Bool.false_eq_true, if_false]

/-- Each 24 h of ARMED, RUN or SAFE (R407). -/
theorem execSltSelftestDue_day (armed : pARMED ≤ u.power) (safe : u.power ≤ pSAFE)
    (passed : u.slt.armedAt + 24 * 3600 * (u.slt.dueCount + 1) * ticksPerS ≤ u.now) :
    execSltSelftestDue t s = .next (({ u with slt := { u.slt with dueCount := u.slt.dueCount + 1 } }).raise Flt.SLT_SELFTEST_DUE {}) := by
  simp only [execSltSelftestDue, now, up, armed, safe, State.elapsed_of_le passed, decide_true, Bool.and_self, if_true]

end

end

/-- Settles O17: SET_STATE goes through what `requestArmed` and `requestStandby` do; every other clause is the equation of its case. -/
theorem armingAndLogCommandsComplete : Obligations.ArmingAndLogCommandsComplete :=
  ⟨fun _ _ _ served armed standby idle allowed => execSetState_armed served armed (State.requestArmed_starts standby idle allowed),
    fun _ _ _ served wanted standby running => execSetState_standby served wanted (State.requestStandby_aborts standby running),
    fun _ _ _ served wanted armed still => execSetState_standby served wanted (State.requestStandby_armed armed still),
    fun _ _ _ served wanted safe still noAsc0 noAsc1 acknowledged present =>
      execSetState_standby served wanted (State.requestStandby_safe safe still noAsc0 noAsc1 acknowledged present),
    fun _ _ _ _ _ => execArmingComplete_passed,
    fun _ _ _ _ => execArmingComplete_failed,
    fun _ _ _ _ => execArmingComplete_corrupt,
    fun _ _ _ => execSafeStatus_reads,
    fun _ _ _ _ => execFaultLogRead_reads,
    fun _ _ _ => execFaultFifoDrain_up,
    fun _ _ _ => execSltSelftestDue_day⟩

end Sys2Proof.Machine
end

section
/-! The safety inputs and RSTREQ (R419 to R425, Table 15.9): one equation for the case of each event that acts, `u` being the state at the event with the level of RSTREQ. -/

namespace Sys2Proof.Machine
open Sys2Proof

section
variable {t i d held transitions p : Nat} {pair : Fin 4} {levels : BitVec 8} {hit : List Nat} {b raw : Bool} {s u : State} (now : s.advance t = u)
include now

section
variable (up : u.mainUp = true)
include up

/-- One test pulse in each 20 ms frame of its supply (R419). -/
theorem execTestPulse_starts (supply : (if b then 1 else 0) = i) (fresh : vget u.slt.pulseFrame i 0 < u.testFrame b) :
    execTestPulse t b s = .next { u with slt := { u.slt with
      pulseFrame := vset u.slt.pulseFrame i (u.testFrame b)
      pulseAt := vset u.slt.pulseAt i (u.pulseBase b + (u.testFrame b - 1) * (20 * ticksPerMs)) } } := by
  subst supply
  simp only [execTestPulse, State.startPulse, now, up, fresh, decide_true, Bool.and_self, if_true]

theorem execSinSample_takes (pulsed : u.pulseSampled b = true) :
    execSinSample t b levels s = .next ([0, 1, 2, 3].foldl (fun (x : State) p => x.samplePair b levels.toNat p)
      { u with slt := { u.slt with sampleFrame := vset u.slt.sampleFrame (if b then 1 else 0) (u.testFrame b) } }) := by
  simp only [execSinSample, now, up, pulsed, Bool.and_self, if_true]

theorem execSinDebounce_stable (stable : 3 * ticksPerMs ≤ held) :
    execSinDebounce t pair b raw held s = .next (if u.pairSafe pair && !(u.debounced pair b raw held).pairSafe pair then
      (u.debounced pair b raw held).sinRequest pair else u.debounced pair b raw held) := by
  simp only [execSinDebounce, now, up, stable, decide_true, Bool.and_self, if_true]

theorem execChatter_above (above : 8 < transitions) :
    execChatter t pair b transitions s = .next ((u.markChat pair b).sinFault pair 4) := by
  simp only [execChatter, now, up, above, decide_true, Bool.and_self, if_true]

/-- An overloaded supply faults every used pair that does not show it yet (R419). -/
theorem execTpsOverload_hits (long : ticksPerMs ≤ held) (found : below 4 (fun p => u.pairUsed p && (u.pair p).kind != 5) = hit)
    (some_ : hit ≠ []) :
    execTpsOverload t b held s = .next (((hit.foldl (fun (x : State) p => x.setPair p { x.pair p with kind := 5, goodFrames := 0, frameBad := true }) u).event
      F.SLT_EVT_SINFAULT).raise Flt.TPS_OVERLOAD { stages := hit.foldl (fun m p => Nat.lor m (u.getF (F.SLT_SINMASK_MASK p))) 0 }) := by
  have hits : hit.isEmpty = false := List.isEmpty_eq_false_iff.2 some_
  simp only [execTpsOverload, now, up, long, found, hits, decide_true, Bool.not_false, Bool.and_self, if_true]

/-- A key held for 30 s is recorded once (Table 15.9). -/
theorem execResetStuck_held (pressed : u.slt.rstPressAt = some p) (fresh : u.getB F.SLT_RST_STUCK = false) (long : p + 30 * ticksPerS ≤ u.now) :
    execResetStuck t s = .next (((u.setB F.SLT_RST_STUCK true).event F.SLT_EVT_RESET).raise Flt.RESET_STUCK {}) := by
  simp only [execResetStuck, now, up, pressed, fresh, State.elapsed_of_le long, Bool.not_false, Bool.and_self, if_true]

end

theorem execSinDiscrepancy_long (differ : (u.pair pair).differSince = some d) (up : u.mainUp = true) (long : d + 50 * ticksPerMs ≤ u.now) :
    execSinDiscrepancy t pair s = .next (u.sinFault pair 3) := by
  simp only [execSinDiscrepancy, now, up, differ, State.elapsed_of_le long, Bool.and_self, if_true]

end

theorem execRstreqPress_notes {t : Nat} {s u : State} (now : (s.advance t).keyLevel true = u) (up : u.mainUp = true) (released : u.getB F.SLT_RST_LEVEL = false) :
    execRstreqPress t s = .next (({ u with slt := { u.slt with rstPressAt := some u.now, rstClean := u.rstReady } }.setB F.SLT_RST_LEVEL true).setB
      F.SLT_RST_READY false) := by
  simp only [execRstreqPress, now, up, released, Bool.not_false, Bool.and_self, if_true]

section
variable {t p : Nat} {s u b : State} (now : (s.advance t).keyLevel false = u) (up : u.mainUp = true)
include now up

/-- In TEST a release is shown and has no outcome (R424). -/
theorem execRstreqRelease_test (test : u.power = pTEST) (level : u.getB F.SLT_RST_LEVEL = true) (pressed : u.slt.rstPressAt = some p) :
    execRstreqRelease t s = .next (u.rstReleased p) := by
  simp [execRstreqRelease, now, up, test, level, pressed]

section
variable (outside : u.power ≠ pTEST) (level : u.getB F.SLT_RST_LEVEL = true) (free : u.getB F.SLT_RST_STUCK = false)
  (pressed : u.slt.rstPressAt = some p) (shown : u.rstReleased p = b)
include outside level free pressed shown

/-- A release outside TEST, the key not stuck, has the outcome of its length (Table 15.9). -/
theorem execRstreqRelease_length (most : u.now - p ≤ 30 * ticksPerS) : execRstreqRelease t s =
    if 3 * ticksPerS < u.now - p then .next ((b.event F.SLT_EVT_RESET).raise Flt.RESET_HELD {})
    else if (decide (u.now - p < 50 * ticksPerMs) || !u.slt.rstClean) = true then .next b
    else if b.resetRefused then .next ((b.event F.SLT_EVT_RESET).raise Flt.RESET_REFUSED {})
    else .next { b.resetAndBoot 0x09 with pwr := { (b.resetAndBoot 0x09).pwr with resetAccepted := true } } := by
  simp only [execRstreqRelease, now, up, level, free, pressed, shown, beq_eq_false_iff_ne.2 outside, Nat.not_lt.2 most, gt_iff_lt, decide_false,
    Bool.not_true, Bool.or_self, Bool.false_eq_true, if_false]

theorem execRstreqRelease_held (long : 3 * ticksPerS < u.now - p) (most : u.now - p ≤ 30 * ticksPerS) :
    execRstreqRelease t s = .next ((b.event F.SLT_EVT_RESET).raise Flt.RESET_HELD {}) := by
  rw [execRstreqRelease_length now up outside level free pressed shown most, if_pos long]

theorem execRstreqRelease_short (short : u.now - p < 50 * ticksPerMs) : execRstreqRelease t s = .next b := by
  have most : u.now - p ≤ 30 * ticksPerS := by unfold ticksPerMs at short; unfold ticksPerS; omega
  have notLong : ¬ 3 * ticksPerS < u.now - p := by unfold ticksPerMs at short; unfold ticksPerS; omega
  simp only [execRstreqRelease_length now up outside level free pressed shown most, if_neg notLong, short, decide_true, Bool.true_or, if_true]

section
variable (least : 50 * ticksPerMs ≤ u.now - p) (most : u.now - p ≤ 3 * ticksPerS) (clean : u.slt.rstClean = true)
include least most clean

/-- A press of 50 ms to 3 s that a release preceded asks for a reset (R424, R425). -/
theorem execRstreqRelease_asks : execRstreqRelease t s = if b.resetRefused then .next ((b.event F.SLT_EVT_RESET).raise Flt.RESET_REFUSED {})
    else .next { b.resetAndBoot 0x09 with pwr := { (b.resetAndBoot 0x09).pwr with resetAccepted := true } } := by
  have inside : u.now - p ≤ 30 * ticksPerS := most.trans (Nat.mul_le_mul_right _ (by decide))
  simp only [execRstreqRelease_length now up outside level free pressed shown inside, if_neg (Nat.not_lt.2 most), decide_eq_false (Nat.not_lt.2 least),
    clean, Bool.not_true, Bool.or_self, Bool.false_eq_true, if_false]

theorem execRstreqRelease_resets (allowed : b.resetRefused = false) :
    execRstreqRelease t s = .next { b.resetAndBoot 0x09 with pwr := { (b.resetAndBoot 0x09).pwr with resetAccepted := true } } := by
  rw [execRstreqRelease_asks now up outside level free pressed shown least most clean, if_neg (ne_true_of_eq_false allowed)]

theorem execRstreqRelease_refused (refused : b.resetRefused = true) :
    execRstreqRelease t s = .next ((b.event F.SLT_EVT_RESET).raise Flt.RESET_REFUSED {}) := by
  rw [execRstreqRelease_asks now up outside level free pressed shown least most clean, if_pos refused]

end

end

end

/-- Settles O20: each clause is the equation of its case of its event. -/
theorem safetyInputEventsComplete : Obligations.SafetyInputEventsComplete :=
  ⟨fun _ _ _ _ _ => execTestPulse_starts,
    fun _ _ _ _ _ => execSinSample_takes,
    fun _ _ _ _ _ _ _ => execSinDebounce_stable,
    fun _ _ _ _ _ => execSinDiscrepancy_long,
    fun _ _ _ _ _ _ => execChatter_above,
    fun _ supply _ _ _ _ => execTpsOverload_hits (b := supply),
    fun _ _ _ => execRstreqPress_notes,
    fun _ _ _ _ _ => execRstreqRelease_resets,
    fun _ _ _ _ _ => execRstreqRelease_refused,
    fun _ _ _ _ _ => execRstreqRelease_held,
    fun _ _ _ _ _ => execRstreqRelease_short,
    fun _ _ _ _ => execRstreqRelease_test,
    fun _ _ _ _ now up pressed free long => execResetStuck_held now up pressed free long⟩

end Sys2Proof.Machine
end

section
/-! What the Ridge never takes back, and what its own events leave alone (R433, R439, R443, R450, R451, R456, R463). -/

namespace Sys2Proof.Machine
open Sys2Proof

/-- Settles O7: the Ridge's part of what every command keeps. -/
theorem ridgeTakesNothingBack : Obligations.RidgeTakesNothingBack := by
  unfold Obligations.RidgeTakesNothingBack
  intro c s t executed
  have kept : KeepsOut s (exec c s) := exec_keeps c (.refl s)
  rw [executed] at kept
  obtain ⟨-, -, ridge, -⟩ := kept
  exact ⟨ridge.lec, ridge.broken, ridge.keys, ridge.imp, ridge.exp, ridge.odo, ridge.events⟩

/-- A next state in which the Ridge, the clock and the free values alone have changed. -/
theorem OnlyROut.frame {z v : State} {o : Out} (only : OnlyROut z o) (answers : o = .next v) : v = { z with now := v.now, rdg := v.rdg, free := v.free } := by
  subst answers
  exact only

/-- Settles O45: each of the events changes the Ridge, the clock and the free values alone. -/
theorem ridgeEventsFrame : Obligations.RidgeEventsFrame := by
  unfold Obligations.RidgeEventsFrame
  rintro t k m b n mv codes s v (e | e | e | e | e | e | e | e | e | e | e | e | e | e | e | e | e | e | e)
  exacts [(execWpiPulse_onlyR (.refl s)).frame e, (execRidgeEnergySample_onlyR (.refl s)).frame e, (execRidgeSecond_onlyR (.refl s)).frame e,
    (execRidgeMinute_onlyR (.refl s)).frame e, (execRidgeQuarterHour_onlyR (.refl s)).frame e, (execDayClose_onlyR (.refl s)).frame e,
    (execSealSigned_onlyR (.refl s)).frame e, (execFieldCheck_onlyR (.refl s)).frame e, (execWpiOpenTest_onlyR (x1 := mv) (.refl s)).frame e,
    (execRdgMbLoss_onlyR (.refl s)).frame e, (execRdgMbFlat_onlyR (.refl s)).frame e, (execQpRetention_onlyR (.refl s)).frame e,
    (execRidgeStart_onlyR (.refl s)).frame e, (execThatchCheck_onlyR (.refl s)).frame e, (execRidgeVrdgLoss_onlyR (.refl s)).frame e,
    (execRidgeVrdgReturn_onlyR (.refl s)).frame e, (execShortInterruptionClose_onlyR (.refl s)).frame e, (execRidgeLockoutEnd_onlyR (.refl s)).frame e,
    (execRdgWitnessLost_onlyR (.refl s)).frame e]

end Sys2Proof.Machine
end

section
/-! The Ridge's pulses, samples, periods and tamper checks (R439 to R455, R460): one equation for each case of an event, `u` being the state at the event; and the odometer of a counted pulse (R439). -/

namespace Sys2Proof.Machine
open Sys2Proof

section
variable {t field : Nat} {mv : Int} {n : Fin 8} {b : Bool} {s u v : State} (now : s.advance t = u)
include now

/-- A pulse is counted once it has woken QP from Retention (R439). -/
theorem execWpiPulse_counts (woken : v = (if u.rdg.mode = .retention ∧ u.rdg.bkpGone = false then u.qpStart .woken else u)) (runs : v.qpOn = true) :
    execWpiPulse t s = .next v.countPulse := by
  simp only [execWpiPulse, now, Bool.not_eq_true', ← woken, runs, if_true]

section
variable (on : u.qpOn = true)
include on

theorem execRidgeSecond_turns (turned : u.rdg.curSec < u.rdgTime) : execRidgeSecond t s = .next u.secondEnds := by
  simp [execRidgeSecond, now, on, turned]

theorem execRidgeMinute_turns (turned : u.rdg.curMin < u.rdgTime / 60) : execRidgeMinute t s = .next u.minuteEnds := by
  simp [execRidgeMinute, now, on, Nat.not_le.2 turned]

theorem execRidgeQuarterHour_turns (turned : u.rdg.curQuarter < u.rdgTime / 900) :
    execRidgeQuarterHour t s = .next (u.energyEntry.setR { u.energyEntry.rdg with curQuarter := u.energyEntry.rdgTime / 900 }) := by
  simp [execRidgeQuarterHour, now, on, Nat.not_le.2 turned]

end

theorem execDayClose_rolls : execDayClose t s = .next (u.rollDay false) := by
  rw [execDayClose, now]

section
variable (running : u.qpRunning = true)
include running

theorem execRidgeEnergySample_takes {codes : Vector Code24 6} : execRidgeEnergySample t codes s = .next (u.energySample codes) := by
  simp [execRidgeEnergySample, now, running]

/-- With its keys, a Ridge in Running seals the oldest closed day (R454, R455). -/
theorem execSealSigned_oldest {d : RdgDay} {l : List RdgDay} (closed : u.rdg.closed = d :: l) (keys : u.rdg.keysErased = false) :
    execSealSigned t s = .next (u.sealDay d) := by
  simp [execSealSigned, now, closed, running, keys]

theorem execFieldCheck_above (above : 100 < field) : execFieldCheck t field s = .next (u.fieldAbove field) := by
  simp [execFieldCheck, now, running, above]

theorem execFieldCheck_below (below : field ≤ 100) : execFieldCheck t field s = .next u.fieldBelow := by
  simp [execFieldCheck, now, running, Nat.not_lt.2 below]

theorem execWpiOpenTest_open (above : 1000 < mv) : execWpiOpenTest t mv s = .next u.wpiOpened := by
  simp [execWpiOpenTest, now, running, above]

theorem execWpiOpenTest_sound (below : mv ≤ 1000) : execWpiOpenTest t mv s = .next u.wpiSound := by
  simp [execWpiOpenTest, now, running, Int.not_lt.2 below]

/-- A used input that is lost, or no longer lost, is recorded once (R450). -/
theorem execRdgMbLoss_changes {run : Nat} (judged : decide (1024 ≤ run) = b) (used : u.mbUsed n.val = true) (changed : bitAt u.rdg.mbLoss n.val = !b) :
    execRdgMbLoss t n run s = .next ((u.setR { u.rdg with mbLoss := setBitN u.rdg.mbLoss n.val b }).rdgEvent 0xC022 (!b) (beBytes 1 (2 ^ n.val))) := by
  simp [execRdgMbLoss, now, running, judged, used, changed]

/-- A used input that is flat, or no longer flat, is recorded once (R450). -/
theorem execRdgMbFlat_changes {span : Nat} (judged : decide (span < 4) = b) (used : u.mbUsed n.val = true) (changed : bitAt u.rdg.mbFlat n.val = !b) :
    execRdgMbFlat t n span s = .next ((u.setR { u.rdg with mbFlat := setBitN u.rdg.mbFlat n.val b }).rdgEvent 0xC023 (!b) (beBytes 1 (2 ^ n.val))) := by
  simp [execRdgMbFlat, now, running, judged, used, changed]

end

end

/-- Settles O35: each clause is the equation of its case of its event. -/
theorem ridgeMeasurementComplete : Obligations.RidgeMeasurementComplete :=
  ⟨fun _ _ _ _ => execWpiPulse_counts,
    fun _ _ _ _ now running => execRidgeEnergySample_takes now running,
    fun _ _ _ => execRidgeSecond_turns,
    fun _ _ _ => execRidgeMinute_turns,
    fun _ _ _ => execRidgeQuarterHour_turns,
    fun _ _ _ => execDayClose_rolls,
    fun _ _ _ _ _ now closed running => execSealSigned_oldest now running closed,
    fun _ _ _ _ => execFieldCheck_above,
    fun _ _ _ _ => execFieldCheck_below,
    fun _ _ _ _ => execWpiOpenTest_open,
    fun _ _ _ _ => execWpiOpenTest_sound,
    fun _ _ _ _ _ _ now judged running => execRdgMbLoss_changes now running judged,
    fun _ _ _ _ _ _ now judged running => execRdgMbFlat_changes now running judged⟩

section
variable {s : State}

/-- A branch leaves the odometer where both its ways do. -/
theorem odo_ite {c : Prop} [Decidable c] {a b : State} {x : Rat} (left : a.rdg.odo = x) (right : b.rdg.odo = x) :
    (if c then a else b).rdg.odo = x := by
  split <;> assumption

theorem State.pulseAbsent_odo : s.pulseAbsent.rdg.odo = s.rdg.odo :=
  odo_ite (odo_ite rfl rfl) rfl

theorem State.pulseWoken_odo : s.pulseWoken.rdg.odo = s.rdg.odo :=
  odo_ite (odo_ite rfl rfl) rfl

theorem State.endSegment_odo : s.endSegment.rdg.odo = s.rdg.odo :=
  odo_ite rfl (odo_ite rfl rfl)

/-- The odometer moves by 1,000 / WPI_K with the pulse itself, and with nothing that the pulse ends or begins (R439). -/
theorem State.countPulse_odo (known : 0 < s.wpiK) : s.countPulse.rdg.odo = s.rdg.odo + 1000 / s.wpiK := by
  unfold State.countPulse
  dsimp only
  rw [if_pos known, apply_ite fun x : State => x.rdg.odo, State.endSegment_odo, ite_self, State.pulseWoken_odo, State.pulseAbsent_odo, State.setR_rdg]

/-- QP in Running is on, and not in Retention (Table 16.3). -/
theorem State.on_of_qpRunning (running : s.qpRunning = true) : s.qpOn = true ∧ s.rdg.mode ≠ .retention := by
  obtain ⟨alive, mode⟩ := Bool.and_eq_true_iff.1 running
  simp [State.qpOn, alive, eq_of_beq mode]

end

/-- Settles O53: the pulse is counted by a QP that needs no waking, and the odometer reading is the floor of the odometer by definition. -/
theorem wheelPulseOdometer : Obligations.WheelPulseOdometer := by
  unfold Obligations.WheelPulseOdometer
  intro t s u now running known
  obtain ⟨on, awake⟩ := State.on_of_qpRunning running
  have stays : u = if u.rdg.mode = .retention ∧ u.rdg.bkpGone = false then u.qpStart .woken else u := (if_neg fun asleep => awake asleep.1).symm
  have grown : u.countPulse.rdg.odo = u.rdg.odo + 1000 / u.wpiK := State.countPulse_odo known
  exact ⟨u.countPulse, execWpiPulse_counts now stays on, grown, congrArg floorNat grown⟩

end Sys2Proof.Machine
end

section
/-! The Merkle tree of a day (R453): the tree hash with enough fuel does not depend on it, and splits at the largest power of two below the number of leaves (RFC 6962, assumption 131). -/

namespace Sys2Proof.Machine
open Sys2Proof

/-- With fuel for all doublings up to `n`, the split is the largest power of two below `n`. -/
theorem splitPow_largest {k j n : Nat} (below : 2 ^ j < n) (fuel : n ≤ 2 * 2 ^ (j + k)) :
    ∃ i, splitPow k (2 ^ j) n = 2 ^ i ∧ 2 ^ i < n ∧ n ≤ 2 * 2 ^ i := by
  induction k generalizing j with
  | zero => exact ⟨j, rfl, below, fuel⟩
  | succ k ih =>
    rw [splitPow]
    split
    next doubles =>
      rw [← Nat.pow_succ'] at doubles ⊢
      exact ih doubles (by rwa [Nat.succ_add_eq_add_succ])
    next last => exact ⟨j, rfl, below, Nat.not_lt.1 last⟩

theorem splitPow_length {l : List (List Byte)} (many : 2 ≤ l.length) :
    ∃ i, splitPow l.length 1 l.length = 2 ^ i ∧ 2 ^ i < l.length ∧ l.length ≤ 2 * 2 ^ i := by
  refine splitPow_largest (j := 0) many ?_
  have := Nat.lt_two_pow_self (n := l.length)
  rw [Nat.zero_add]
  omega

/-- Two leaves or more are split (R453). -/
theorem merkle_split {k : Nat} {l : List (List Byte)} (many : 2 ≤ l.length) :
    merkle (k + 1) l = sha256 (1 :: (merkle k (l.take (splitPow l.length 1 l.length)) ++ merkle k (l.drop (splitPow l.length 1 l.length)))) := by
  match l, many with
  | _ :: _ :: _, _ => rfl

/-- Any fuel from the number of leaves on gives the same tree. -/
theorem merkle_fuel {k m : Nat} {l : List (List Byte)} (enough : l.length ≤ k) (enough' : l.length ≤ m) : merkle k l = merkle m l := by
  induction k generalizing m l with
  | zero =>
    obtain rfl := List.length_eq_zero_iff.1 (Nat.le_zero.1 enough)
    rw [merkle, merkle]
  | succ k ih =>
    match l, m with
    | [], _ => rw [merkle, merkle]
    | [_], _ => rw [merkle, merkle]
    | a :: b :: l, m + 1 =>
      have many : 2 ≤ (a :: b :: l).length := by simp
      obtain ⟨i, split, below, -⟩ := splitPow_length many
      have positive : 0 < 2 ^ i := Nat.two_pow_pos i
      rw [merkle_split many, merkle_split many, split, ih (m := m), ih (m := m)] <;> simp only [List.length_take, List.length_drop] <;> omega

/-- The tree of two leaves or more is the hash over the trees of the first 2^i leaves and of the rest (R453). -/
theorem merkle_node {l : List (List Byte)} (many : 2 ≤ l.length) : ∃ i : Nat, 2 ^ i < l.length ∧ l.length ≤ 2 * 2 ^ i ∧
    merkle l.length l = sha256 (1 :: (merkle (l.take (2 ^ i)).length (l.take (2 ^ i)) ++ merkle (l.drop (2 ^ i)).length (l.drop (2 ^ i)))) := by
  obtain ⟨i, split, below, largest⟩ := splitPow_length many
  refine ⟨i, below, largest, ?_⟩
  have positive : 0 < 2 ^ i := Nat.two_pow_pos i
  obtain ⟨n, length⟩ : ∃ n, l.length = n + 1 := ⟨l.length - 1, by omega⟩
  have first : (l.take (2 ^ i)).length ≤ n := by rw [List.length_take]; omega
  have rest : (l.drop (2 ^ i)).length ≤ n := by rw [List.length_drop]; omega
  rw [← merkle_fuel first le_rfl, ← merkle_fuel rest le_rfl, ← split, ← merkle_split many, ← length]

/-- The hash of "abc" (FIPS 180-4). -/
theorem sha256_abc : sha256 [0x61, 0x62, 0x63] = [0xBA, 0x78, 0x16, 0xBF, 0x8F, 0x01, 0xCF, 0xEA, 0x41, 0x41, 0x40, 0xDE, 0x5D, 0xAE, 0x22, 0x23,
    0xB0, 0x03, 0x61, 0xA3, 0x96, 0x17, 0x7A, 0x9C, 0xB4, 0x10, 0xFF, 0x61, 0xF2, 0x00, 0x15, 0xAD] := by
  decide +kernel

/-- Settles O54: the root of a day is a tree by definition, and a tree of two leaves or more is a node. -/
theorem daySealRoot : Obligations.DaySealRoot :=
  ⟨fun _ _ => ⟨_, rfl, rfl⟩, rfl, fun _ => rfl, fun _ => merkle_node, sha256_abc⟩

end Sys2Proof.Machine
end

section
/-! RIDGE_SEAL (R461): the checks that follow those of R459, and the acceptance. -/

namespace Sys2Proof.Machine
open Sys2Proof

section
variable {s : State} {slot : Nat} {body : List Byte}

theorem State.rdgSeal_other (other : body ≠ paramHash s.rdg.params) : s.rdgSeal slot body = (stBadParam, s) :=
  if_pos other

section
variable (present : body = paramHash s.rdg.params)
include present

theorem State.rdgSeal_sealed (spent : s.rdg.sealed = 1) : s.rdgSeal slot body = (stWriteOnceSpent, s) := by
  simp [State.rdgSeal, present, spent]

/-- Neither spent nor allowed: BROKEN, unsigned, unscaled, or a counter at its maximum (R457, R461, R463). -/
theorem State.rdgSeal_refused (unspent : s.rdg.sealed ≠ 1) (refused : s.rdg.sealed = 2 ∨ slot = 0xFF ∨ s.rdgScaled = false ∨ s.lecFull = true) :
    s.rdgSeal slot body = (stStateRefused, s) := by
  simp [State.rdgSeal, present, unspent, refused]

/-- The acceptance: SEALED, the counter one higher, RDG_SEALED recorded (R461). -/
theorem State.rdgSeal_accepted (unspent : s.rdg.sealed ≠ 1) (allowed : ¬ (s.rdg.sealed = 2 ∨ slot = 0xFF ∨ s.rdgScaled = false ∨ s.lecFull = true)) :
    s.rdgSeal slot body = (stOK, ((s.setR { s.rdg with sealed := 1 }).bumpLec).rdgEvent 0xC001 false (body.take 16)) := by
  simp [State.rdgSeal, present, unspent, allowed]

end

/-- An unsigned seal is refused, whatever its body and the state of the seal. -/
theorem State.rdgSeal_unsigned (unsigned : slot = 0xFF) : (s.rdgSeal slot body).1 ≠ stOK ∧ (s.rdgSeal slot body).2 = s := by
  by_cases present : body = paramHash s.rdg.params
  · by_cases spent : s.rdg.sealed = 1
    · rw [State.rdgSeal_sealed present spent]
      exact ⟨(by decide : stWriteOnceSpent ≠ stOK), rfl⟩
    · rw [State.rdgSeal_refused present spent (.inr (.inl unsigned))]
      exact ⟨(by decide : stStateRefused ≠ stOK), rfl⟩
  · rw [State.rdgSeal_other present]
    exact ⟨(by decide : stBadParam ≠ stOK), rfl⟩

/-- Only an acceptance answers OK. -/
theorem State.rdgSeal_ok (ok : (s.rdgSeal slot body).1 = stOK) : body = paramHash s.rdg.params ∧ s.rdg.sealed ≠ 1 ∧
    ¬ (s.rdg.sealed = 2 ∨ slot = 0xFF ∨ s.rdgScaled = false ∨ s.lecFull = true) := by
  by_cases present : body = paramHash s.rdg.params
  · by_cases spent : s.rdg.sealed = 1
    · rw [State.rdgSeal_sealed present spent] at ok
      exact absurd ok (by decide : stWriteOnceSpent ≠ stOK)
    · refine ⟨present, spent, fun refused => ?_⟩
      rw [State.rdgSeal_refused present spent refused] at ok
      exact absurd ok (by decide : stStateRefused ≠ stOK)
  · rw [State.rdgSeal_other present] at ok
    exact absurd ok (by decide : stBadParam ≠ stOK)

/-- Below its maximum the legal event counter counts (R463). -/
theorem State.bumpLec_lec (room : s.lecFull = false) : s.bumpLec.rdg.lec = s.rdg.lec + 1 :=
  if_pos (Nat.not_le.1 (of_decide_eq_false room))

/-- The newest record carries its number and begins with the number, the Ridge time and the code (Table 16.11). -/
theorem State.rdgEvent_newest (code : Nat) (ends : Bool) (detail : List Byte) : ∃ e rest, (s.rdgEvent code ends detail).rdg.events.head? = some e ∧
    e.num = s.rdg.nEvent ∧ e.bytes = beBytes 4 s.rdg.nEvent ++ (beBytes 4 s.rdgTime ++ (beBytes 2 code ++ rest)) :=
  ⟨_, _, rfl, rfl, by simp only [List.append_assoc]; rfl⟩

end

/-- Settles O55: a seal is accepted, refused or of another body, and the acceptance is one known state. -/
theorem sealRules : Obligations.SealRules := by
  unfold Obligations.SealRules
  intro s slot body
  refine ⟨State.rdgSeal_other, State.rdgSeal_sealed, fun present broken => ?_, State.rdgSeal_unsigned, fun present unsealed signed scaled room => ?_,
    fun ok => ?_⟩
  · exact State.rdgSeal_refused present (by omega) (.inl broken)
  · rw [State.rdgSeal_accepted present (by omega) (by simp [unsealed, signed, scaled, State.lecFull, room])]
  · obtain ⟨present, unspent, allowed⟩ := State.rdgSeal_ok ok
    have room : s.lecFull = false := by
      by_contra full
      exact allowed (.inr (.inr (.inr (by simpa using full))))
    rw [State.rdgSeal_accepted present unspent allowed]
    exact ⟨rfl, State.bumpLec_lec (s := s.setR { s.rdg with sealed := 1 }) room, rfl, State.rdgEvent_newest ..⟩

end Sys2Proof.Machine
end
